-- ==== Sys2Proof/Word.lean ====
section
/-! DEFINITION. Words, bytes and the plainest arithmetic over them (00_scope.md R2 to R4). -/

namespace Sys2Proof

/-- One byte. -/
abbrev Byte := BitVec 8

/-- A 64-bit word: a scalar register, a CSR, a descriptor word (R5, R118). -/
abbrev Word := BitVec 64

/-- One 32-bit tile element or FP32 value (R88). -/
abbrev Elem := BitVec 32

/-- A package ID: X in bits 14 to 10, Y in 9 to 5, Z in 4 to 0 (R33). -/
abbrev PkgId := BitVec 15

/-- Bits `lo` to `lo + len - 1` of the number `v`, as a number (R2). -/
def bits (v lo len : Nat) : Nat := (v >>> lo) % 2 ^ len

/-- Bits `lo` to `lo + len - 1` of a word, as a number (R2). -/
def Word.fld (w : Word) (lo len : Nat) : Nat := bits w.toNat lo len

/-- Bit `i` of a word, as a truth value. -/
def Word.flag (w : Word) (i : Nat) : Bool := w.getLsbD i

/-- `w` with bits `lo` to `lo + len - 1` replaced by the low bits of `v`. -/
def Word.setFld (w : Word) (lo len v : Nat) : Word :=
  let mask := ((2 ^ len - 1) <<< lo) % 2 ^ 64
  (w &&& ~~~(BitVec.ofNat 64 mask)) ||| (BitVec.ofNat 64 (((v % 2 ^ len) <<< lo)))

/-- `min (v + n) lim`: a count that saturates at `lim`. -/
def satAdd (v n lim : Nat) : Nat := min (v + n) lim

/-- The number of a truth value: 1 or 0. -/
def b2n (b : Bool) : Nat := if b then 1 else 0

/-- The signed value of the low `n` bits of `v`. -/
def sext (v n : Nat) : Int := (BitVec.ofNat n v).toInt

/-- The little-endian bytes of `v`, lowest first (R3). -/
def leBytes : Nat → Nat → List Byte
  | 0, _ => []
  | n + 1, v => BitVec.ofNat 8 v :: leBytes n (v / 256)

/-- The number that little-endian bytes spell (R3, R4). -/
def leNat : List Byte → Nat
  | [] => 0
  | b :: bs => b.toNat + 256 * leNat bs

/-- Words of eight bytes cut from a byte list (R3). -/
def bytesToWords : Nat → List Byte → List Word
  | 0, _ => []
  | n + 1, bs => BitVec.ofNat 64 (leNat (bs.take 8)) :: bytesToWords n (bs.drop 8)

/-- The bytes of a list of words, lowest first. -/
def wordsToBytes (ws : List Word) : List Byte := ws.flatMap fun w => leBytes 8 w.toNat

/-- A field value moved to its place in a word: `v × 2 ^ lo`. -/
def put (v lo : Nat) : Nat := v <<< lo

/-- `n` copies of zero bytes. -/
def zeroBytes (n : Nat) : List Byte := List.replicate n 0

end Sys2Proof
end

