-- ==== Sys2Proof/Syntax.lean ====
section
/-! DEFINITION. The commands of the block: one constructor of `Instr` for each row of spec/opcode_table.json, with the row's
operands, and the operand types. What arrives from outside the module (a pennant, a host access, a sensor reading, a physical
upset) is an operand. -/

namespace Sys2Proof

/-- A context, 0 (firmware) to 63. -/
abbrev CtxId := Fin 64
/-- A fabric port P0 to P15. -/
abbrev PortId := Fin 16
/-- A 48-bit local address (R20). -/
abbrev Addr := BitVec 48
/-- A stream ID (R258). -/
abbrev StreamId := BitVec 16
/-- A collective epoch (R430). -/
abbrev Epoch := BitVec 16
/-- A step number (R289). -/
abbrev StepNo := BitVec 48
/-- A 32-bit unit code (R23, R24). -/
abbrev UnitCode := BitVec 32
/-- Bits 51 to 0 of an instruction word: PG, PN and the body (R118). The row fixes CLS and OP. -/
abbrev Body := BitVec 52

/-- A core that runs instructions: logical core `q` of cluster `c` of compute die `k` (R18), or a control core (R486). -/
inductive CoreId where
  | cmp (k : Fin 4) (c : Fin 12) (q : Fin 8)
  | ctl (n : Fin 16)
deriving DecidableEq, Repr, Inhabited

/-- The working engines of a core (R83). -/
inductive Engine where
  | mx | vx | ls
deriving DecidableEq, Repr, Inhabited

/-- Who accesses a CSR: a context, or the host through BAR0 of a function (R12, R140, R477). For a host the offset is a BAR0
offset, for a context it is the offset from 0x0F00_0000_0000. -/
inductive Who where
  | ctx (n : CtxId)
  | host (port : Fin 2) (slot : Fin 32)
deriving DecidableEq, Repr, Inhabited

/-- The CSR access sizes that R5 accepts: the whole register, or one half of it. -/
inductive CsrSize where
  | w64 | lo32 | hi32
deriving DecidableEq, Repr, Inhabited

/-- The atomic units (R97): of a cluster memory, a near die, an HBM controller. -/
inductive AtomicUnit where
  | cluster (k : Fin 4) (c : Fin 12)
  | near (k : Fin 4)
  | hbm (m : Fin 12)
deriving DecidableEq, Repr, Inhabited

/-- Who asks an atomic unit: a core of this package, or another package by an ATOMIC pennant (R100, R408). -/
inductive Requester where
  | core (c : CoreId)
  | remote (src : PkgId)
deriving DecidableEq, Repr, Inhabited

/-- A physical upset in the array: the bits `mask` flipped in the result of row `row`, column `col` (R181, R562). -/
structure Upset where
  row  : Nat
  col  : Nat
  mask : Elem
deriving DecidableEq, Repr, Inhabited

/-- What the vector lane residue found (R534, DET 0x02). -/
inductive Residue where
  | clean | onceBad (lane : Fin 256) | twiceBad (lane : Fin 256)
deriving DecidableEq, Repr, Inhabited

/-- What a codeword read of the scrub finds (R242). -/
inductive EccFinding where
  | clean | correctable | uncorrectable
deriving DecidableEq, Repr, Inhabited

/-- What a host window read or write brings back (R256, R241). -/
inductive HostReply where
  | nothing
  | data (bytes : List Byte)
  | poisoned (bytes : List Byte)
  | error
deriving DecidableEq, Repr, Inhabited

/-- The fields that a halyard pennant names: the sending halyard and context, the receiving halyard and context (R317). -/
structure HalMsg where
  srcCtx : CtxId
  srcHal : Fin 16
  dstCtx : CtxId
  dstHal : Fin 16
deriving DecidableEq, Repr, Inhabited

/-- An identity block (R352). `laneOf` gives, for each physical receive lane, the peer's transmit lane number; `badRx` marks the lanes
that the peer does not take on receive, numbered by this port's transmit lanes, and `ldis` the transmit lanes disabled at the peer. -/
structure Identity where
  pkg    : PkgId
  port   : Fin 16
  dir    : Fin 8
  rank   : Nat
  gen    : Nat
  laneOf : List (Fin 8)
  badRx  : BitVec 8
  ldis   : BitVec 8
  rate64 : Bool
  shut   : Bool
deriving DecidableEq, Repr, Inhabited

/-- A pennant: the header fields of R359 and the 64-byte payload, byte `i` in bits `8 i + 7` to `8 i`. -/
structure Pennant where
  ver    : BitVec 4
  typ    : BitVec 4
  vc     : BitVec 3
  poison : Bool
  last   : Bool
  dtr    : Bool
  dst    : PkgId
  src    : PkgId
  ctx    : BitVec 6
  len    : BitVec 6
  hops   : BitVec 8
  eseq   : BitVec 16
  addr   : BitVec 48
  payload : BitVec 512
deriving DecidableEq, Repr, Inhabited

/-- The header of a pennant as a command gives it, without the fields that number and place it (ESEQ and ADDR of R359). -/
structure PnHead where
  ver    : BitVec 4
  typ    : BitVec 4
  vc     : BitVec 3
  poison : Bool
  last   : Bool
  dtr    : Bool
  dst    : PkgId
  src    : PkgId
  ctx    : BitVec 6
  len    : BitVec 6
  hops   : BitVec 8
deriving DecidableEq, Repr, Inhabited

/-- ADDR and the 64-byte payload of a pennant. -/
structure PnPart where
  addr    : BitVec 48
  payload : BitVec 512
deriving DecidableEq, Repr, Inhabited

/-- ESEQ, ADDR and the payload of a pennant. -/
structure PnTail where
  eseq    : BitVec 16
  addr    : BitVec 48
  payload : BitVec 512
deriving DecidableEq, Repr, Inhabited

/-- A core and a number of ACLK cycles in a row. -/
structure CoreSpan where
  core   : CoreId
  cycles : Nat
deriving DecidableEq, Repr

/-- A store that is performed, by its number on its core, and the other stores, by core and number, that ask for the same memory bank in the
same cycle and in the cycles after it; the bank's arbiter orders them (R102). -/
structure StoreTurn where
  flight : Nat
  rivals : List (CoreId × Nat)
deriving DecidableEq, Repr

/-- A destination tile that lands: `place` is 0 for the instruction started last, else 1 more than its place among those before it that still
land (R201), with the residue check of its words. -/
structure VecLand where
  place   : Nat
  residue : Residue
deriving DecidableEq, Repr

/-- A flush read that returns: its stream, the PCIe port, and whether it ended without a completion error. -/
structure FlushRead where
  id   : StreamId
  port : Fin 2
  ok   : Bool
deriving DecidableEq, Repr

/-- A point of a halyard's send that has been reached: the halyard, and whether the point is the delivery. -/
structure SendPoint where
  hal       : Fin 16
  delivered : Bool
deriving DecidableEq, Repr

/-- The trailer of a link block (R364), CRC apart. -/
structure Trailer where
  bseq : BitVec 24
  ack  : BitVec 24
  nak  : Bool
  ackv : Bool
  cred : List (BitVec 8)
  pool : BitVec 24
deriving DecidableEq, Repr, Inhabited

/-- A DSETUP message (R416, R417): the package whose detour it is, the entry asked for here, and the directions of the hops that
follow. `entryTurn` 0 is TURN, 1 PASS_OR_RELEASE, 2 RELEASE. -/
structure DetourMsg where
  owner : PkgId
  mode  : Fin 3
  out   : Fin 6
  path  : List (Fin 6)
deriving DecidableEq, Repr, Inhabited

/-- A PROBE (R452): the originator, the group key, the epoch or vote, and the members passed with the times of their last
progress. `back` marks the answer to the originator with its cause. -/
structure Probe where
  origin : PkgId
  gkey   : BitVec 16
  epoch  : Option Epoch
  path   : List (Nat × Word)
  back   : Option Nat
deriving DecidableEq, Repr, Inhabited

/-- The links of a bifurcated PCIe port (R473); an unbifurcated port has link A only. -/
inductive LinkAB where
  | a | b
deriving DecidableEq, Repr, Inhabited

/-- A queue of a function page (R483). -/
inductive QueueSel where
  | sq (q : Fin 8) | cq (q : Fin 8) | eq
deriving DecidableEq, Repr, Inhabited

/-- A command queue: port, slot, queue number. A command row acts on the command at the head of the started order (R490). -/
structure QueueId where
  port : Fin 2
  slot : Fin 32
  q    : Fin 8
deriving DecidableEq, Repr, Inhabited

/-- A detection that reaches the error collector (R534, R537). -/
structure Detection where
  det     : BitVec 8
  unit    : UnitCode
  ctx     : Option CtxId
  sev     : Fin 4
  level   : Fin 4
  opkind  : Fin 9
  cls     : BitVec 4
  op      : BitVec 8
  ident   : BitVec 32
  detail  : Word
  correctedClean : Bool
deriving DecidableEq, Repr, Inhabited

/-- The classification that a record closes with (R543) and the handling code of its last level (R538). -/
structure Classification where
  cls      : Fin 4
  level    : Fin 4
  handling : BitVec 8
  charge   : Bool
deriving DecidableEq, Repr, Inhabited

/-- What a run of a sampled instruction on the spare gave: the shift and the rows that differ from what landed (R560). -/
structure SpareRun where
  upset : List Upset
deriving DecidableEq, Repr, Inhabited

/-- Why a die-link module is retrained (R576): parity charges a lane, or a flit's retries ran out. -/
inductive RetrainWhy where
  | parity (lane : Fin 64) (dirOther : Bool) (errors : BitVec 32)
  | retry
deriving DecidableEq, Repr, Inhabited

/-- The rail groups in rising order (R594). -/
inductive RailGroup where
  | g0 | g1 | g2 | g2b | g3
deriving DecidableEq, Repr, Inhabited

/-- What the power controller sends in one exchange (R592): input voltage in mV, current in 10 mA, power averages in W. -/
structure PmMeasure where
  vin    : BitVec 16
  iin    : BitVec 16
  p1ms   : BitVec 16
  p100us : BitVec 16
deriving DecidableEq, Repr, Inhabited

/-- A rail current event (R608, cause 4): the rail reaches its limit, stays at it for a further 100 us, or has been clear of it
for a further 10 ms. -/
inductive RailLimitEv where
  | reach | stay | clear10ms
deriving DecidableEq, Repr, Inhabited

/-- The readings of one thermal evaluation in units of 1/8 degree Celsius (R608): hottest sensor of each compute die, hottest
stack of each, hottest converter stage; `tenth` marks the evaluations at which a fall is due. -/
structure Temps where
  tj    : List Int
  thbm  : List Int
  conv  : Int
  tenth : Bool
deriving DecidableEq, Repr, Inhabited

/-- One refresh of the measured fields (R611, R647). -/
structure Sensors where
  pm      : PmMeasure
  tj      : List (BitVec 16)
  thbm    : List (BitVec 16)
  h0      : BitVec 16
  links   : BitVec 16
  nears   : BitVec 16
  inlet   : BitVec 16
  outlet  : BitVec 16
  flow    : BitVec 16
  rails   : List (BitVec 16 × BitVec 16)
  limit   : BitVec 16
deriving DecidableEq, Repr, Inhabited

/-- A debug token (R630): serial number, challenge, scope bits, signature. -/
structure DebugToken where
  serial    : Word
  challenge : BitVec 256
  scope     : BitVec 3
  sig       : List Byte
deriving DecidableEq, Repr, Inhabited

/-- A REKEY authorisation (R629). -/
structure RekeyAuth where
  keySlot : Fin 4
  serial  : Word
  oldHash : BitVec 256
  count   : BitVec 8
  sig     : List Byte
deriving DecidableEq, Repr, Inhabited

/-- The commands, one constructor for each row of spec/opcode_table.json, in the table's order. -/
inductive Instr where
  /-- CSR_WRITE (R8): A write to a CSR that has no row of its own sets each field according to its access code, only in the addressed half for a 32-bit write. -/
  | csrWrite (who : Who) (off : Nat) (sz : CsrSize) (v : Word)
  /-- CSR_ACCESS_BAD_SIZE (R7): A CSR access of a size or alignment other than R5 allows has no effect, reads all ones, opens a DET 0x13 record and faults a context with ACCESS. -/
  | csrAccessBadSize (who : Who) (off : Nat) (rd : Bool)
  /-- ADD (R131): Scalar add of two registers modulo 2^64. -/
  | add (c : CoreId) (b : Body)
  /-- SUB (R131): Scalar subtract of two registers modulo 2^64. -/
  | sub (c : CoreId) (b : Body)
  /-- MUL (R131): Low 64 bits of the product of two registers. -/
  | mul (c : CoreId) (b : Body)
  /-- MULH_S (R131): High 64 bits of the signed product. -/
  | mulhS (c : CoreId) (b : Body)
  /-- MULH_U (R131): High 64 bits of the unsigned product. -/
  | mulhU (c : CoreId) (b : Body)
  /-- DIV_S (R131): Signed division that never faults. -/
  | divS (c : CoreId) (b : Body)
  /-- DIV_U (R131): Unsigned division that never faults. -/
  | divU (c : CoreId) (b : Body)
  /-- REM_S (R131): Signed remainder that never faults. -/
  | remS (c : CoreId) (b : Body)
  /-- REM_U (R131): Unsigned remainder that never faults. -/
  | remU (c : CoreId) (b : Body)
  /-- AND (R131): Bitwise AND of two registers. -/
  | and (c : CoreId) (b : Body)
  /-- OR (R131): Bitwise OR of two registers. -/
  | or (c : CoreId) (b : Body)
  /-- XOR (R131): Bitwise XOR of two registers. -/
  | xor (c : CoreId) (b : Body)
  /-- SHL (R130): Logical left shift by bits [5:0] of the amount. -/
  | shl (c : CoreId) (b : Body)
  /-- SHR (R130): Logical right shift by bits [5:0] of the amount. -/
  | shr (c : CoreId) (b : Body)
  /-- SRA (R130): Arithmetic right shift by bits [5:0] of the amount. -/
  | sra (c : CoreId) (b : Body)
  /-- MIN_S (R131): Signed minimum of two registers. -/
  | minS (c : CoreId) (b : Body)
  /-- MAX_S (R131): Signed maximum of two registers. -/
  | maxS (c : CoreId) (b : Body)
  /-- MIN_U (R131): Unsigned minimum of two registers. -/
  | minU (c : CoreId) (b : Body)
  /-- MAX_U (R131): Unsigned maximum of two registers. -/
  | maxU (c : CoreId) (b : Body)
  /-- CLZ (R131): Count of leading zero bits, 64 for zero. -/
  | clz (c : CoreId) (b : Body)
  /-- POPC (R131): Count of set bits. -/
  | popc (c : CoreId) (b : Body)
  /-- ADDI (R131): Add of a sign-extended immediate. -/
  | addi (c : CoreId) (b : Body)
  /-- ANDI (R131): Bitwise AND with an immediate. -/
  | andi (c : CoreId) (b : Body)
  /-- ORI (R131): Bitwise OR with an immediate. -/
  | ori (c : CoreId) (b : Body)
  /-- XORI (R131): Bitwise XOR with an immediate. -/
  | xori (c : CoreId) (b : Body)
  /-- SHLI (R131): Logical left shift by imm[5:0]. -/
  | shli (c : CoreId) (b : Body)
  /-- SHRI (R131): Logical right shift by imm[5:0]. -/
  | shri (c : CoreId) (b : Body)
  /-- SRAI (R131): Arithmetic right shift by imm[5:0]. -/
  | srai (c : CoreId) (b : Body)
  /-- LI (R131): Loads a sign-extended immediate. -/
  | li (c : CoreId) (b : Body)
  /-- LIH (R131): Sets bits [63:32] of the destination to the immediate. -/
  | lih (c : CoreId) (b : Body)
  /-- FADD_F32 (R132): FP32 add rounded by RNE. -/
  | faddF32 (c : CoreId) (b : Body)
  /-- FSUB_F32 (R132): FP32 subtract rounded by RNE. -/
  | fsubF32 (c : CoreId) (b : Body)
  /-- FMUL_F32 (R132): FP32 multiply rounded by RNE. -/
  | fmulF32 (c : CoreId) (b : Body)
  /-- FFMA_F32 (R132): FP32 fused multiply-add rounded once. -/
  | ffmaF32 (c : CoreId) (b : Body)
  /-- FMIN_F32 (R133): FP32 minimum with the zero and NaN rules of R133. -/
  | fminF32 (c : CoreId) (b : Body)
  /-- FMAX_F32 (R133): FP32 maximum with the zero and NaN rules of R133. -/
  | fmaxF32 (c : CoreId) (b : Body)
  /-- FCVT_F32_S64 (R133): Converts a signed 64-bit integer to FP32 by RNE. -/
  | fcvtF32S64 (c : CoreId) (b : Body)
  /-- FCVT_S64_F32 (R133): Converts FP32 to a saturated signed 64-bit integer by RTZ. -/
  | fcvtS64F32 (c : CoreId) (b : Body)
  /-- CMP_EQ (R134): Writes a predicate with register equality. -/
  | cmpEq (c : CoreId) (b : Body)
  /-- CMP_NE (R134): Writes a predicate with register inequality. -/
  | cmpNe (c : CoreId) (b : Body)
  /-- CMP_LT_S (R134): Writes a predicate with signed less-than. -/
  | cmpLtS (c : CoreId) (b : Body)
  /-- CMP_LT_U (R134): Writes a predicate with unsigned less-than. -/
  | cmpLtU (c : CoreId) (b : Body)
  /-- CMP_LE_S (R134): Writes a predicate with signed less-or-equal. -/
  | cmpLeS (c : CoreId) (b : Body)
  /-- CMP_LE_U (R134): Writes a predicate with unsigned less-or-equal. -/
  | cmpLeU (c : CoreId) (b : Body)
  /-- CMPI_EQ (R134): Predicate compare for equality with an immediate. -/
  | cmpiEq (c : CoreId) (b : Body)
  /-- CMPI_NE (R134): Predicate compare for inequality with an immediate. -/
  | cmpiNe (c : CoreId) (b : Body)
  /-- CMPI_LT_S (R134): Predicate signed less-than against an immediate. -/
  | cmpiLtS (c : CoreId) (b : Body)
  /-- CMPI_LT_U (R134): Predicate unsigned less-than against an immediate. -/
  | cmpiLtU (c : CoreId) (b : Body)
  /-- CMPI_LE_S (R134): Predicate signed less-or-equal against an immediate. -/
  | cmpiLeS (c : CoreId) (b : Body)
  /-- CMPI_LE_U (R134): Predicate unsigned less-or-equal against an immediate. -/
  | cmpiLeU (c : CoreId) (b : Body)
  /-- PAND (R134): Logical AND of two predicates. -/
  | pand (c : CoreId) (b : Body)
  /-- POR (R134): Logical OR of two predicates. -/
  | por (c : CoreId) (b : Body)
  /-- PXOR (R134): Logical XOR of two predicates. -/
  | pxor (c : CoreId) (b : Body)
  /-- PNOT (R134): Logical negation of a predicate. -/
  | pnot (c : CoreId) (b : Body)
  /-- FCMP_EQ_F32 (R134): FP32 equality compare into a predicate, 0 on NaN. -/
  | fcmpEqF32 (c : CoreId) (b : Body)
  /-- FCMP_LT_F32 (R134): FP32 less-than compare into a predicate, 0 on NaN. -/
  | fcmpLtF32 (c : CoreId) (b : Body)
  /-- FCMP_LE_F32 (R134): FP32 less-or-equal compare into a predicate, 0 on NaN. -/
  | fcmpLeF32 (c : CoreId) (b : Body)
  /-- NOP (R136): Does nothing. -/
  | nop (c : CoreId) (b : Body)
  /-- BR (R135): Branches PC-relative by 8 times the immediate. -/
  | br (c : CoreId) (b : Body)
  /-- BRR (R135): Branches to a register target, faulting ALIGNMENT when it is not a multiple of 8. -/
  | brr (c : CoreId) (b : Body)
  /-- CALL (R136): Saves PC + 8 and branches PC-relative. -/
  | call (c : CoreId) (b : Body)
  /-- RET (R135): Branches to the address in a register. -/
  | ret (c : CoreId) (b : Body)
  /-- LOOP (R136): Decrements a register and branches while it is non-zero. -/
  | loop (c : CoreId) (b : Body)
  /-- FENCE (R136): Holds dispatch until every earlier instruction of the core has completed. -/
  | fence (c : CoreId) (b : Body)
  /-- FENCE_S (R136): Holds dispatch until earlier scalar loads, stores and semaphores have completed. -/
  | fenceS (c : CoreId) (b : Body)
  /-- ICINV (R126): Waits for earlier scalar stores and empties the instruction cache. -/
  | icinv (c : CoreId) (b : Body)
  /-- HALT (R136): Ends the core's program; the core counts as arrived at later barriers. -/
  | halt (c : CoreId) (b : Body)
  /-- TIME (R136): Reads fabric time in ns. -/
  | time (c : CoreId) (b : Body)
  /-- PMC_RD (R638): Reads the cycle counter or a context-filtered programmable counter, subject to PMC_USER. -/
  | pmcRd (c : CoreId) (b : Body)
  /-- HOSTEV (R677): Posts a 64-byte record to the event queue of the context's function. -/
  | hostev (c : CoreId) (b : Body)
  /-- YIELD (R150): On a control core, returns to ctx.enter with reason 0. -/
  | yield (c : CoreId) (b : Body)
  /-- EV_ADD (R137): Adds n to an event register, faulting on n outside 1-255. -/
  | evAdd (c : CoreId) (b : Body)
  /-- EV_SET (R137): Sets an event register, ahead of same-cycle increments. -/
  | evSet (c : CoreId) (b : Body)
  /-- EV_WAIT (R94): Holds dispatch until an event count reaches an immediate threshold, then subtracts it. -/
  | evWait (c : CoreId) (b : Body)
  /-- EV_WAITR (R94): Holds dispatch until an event count reaches a register threshold, then subtracts it. -/
  | evWaitr (c : CoreId) (b : Body)
  /-- EV_READ (R94): Reads an event count without subtracting. -/
  | evRead (c : CoreId) (b : Body)
  /-- BAR_CL (R104): Arrives at the cluster barrier and holds the sequencer until release. -/
  | barCl (c : CoreId) (b : Body)
  /-- BAR_GRP (R105): Arrives at the group barrier and holds the sequencer until release. -/
  | barGrp (c : CoreId) (b : Body)
  /-- SEM_ADD (R98): Issues a fetch-and-add to the atomic unit of a 64-bit word. -/
  | semAdd (c : CoreId) (b : Body)
  /-- SEM_CAS (R98): Issues a compare-and-swap to the atomic unit of a 64-bit word. -/
  | semCas (c : CoreId) (b : Body)
  /-- SEM_WAIT (R141): Issues a wait-until-at-least, holding dispatch unless EVE is set. -/
  | semWait (c : CoreId) (b : Body)
  /-- LD_U8 (R138): Zero-extending 8-bit scalar load. -/
  | ldU8 (c : CoreId) (b : Body)
  /-- LD_U16 (R138): Zero-extending 16-bit scalar load. -/
  | ldU16 (c : CoreId) (b : Body)
  /-- LD_U32 (R138): Zero-extending 32-bit scalar load. -/
  | ldU32 (c : CoreId) (b : Body)
  /-- LD_U64 (R138): 64-bit scalar load. -/
  | ldU64 (c : CoreId) (b : Body)
  /-- LD_S8 (R138): Sign-extending 8-bit scalar load. -/
  | ldS8 (c : CoreId) (b : Body)
  /-- LD_S16 (R138): Sign-extending 16-bit scalar load. -/
  | ldS16 (c : CoreId) (b : Body)
  /-- LD_S32 (R138): Sign-extending 32-bit scalar load. -/
  | ldS32 (c : CoreId) (b : Body)
  /-- ST_8 (R138): 8-bit scalar store. -/
  | st8 (c : CoreId) (b : Body)
  /-- ST_16 (R138): 16-bit scalar store. -/
  | st16 (c : CoreId) (b : Body)
  /-- ST_32 (R138): 32-bit scalar store. -/
  | st32 (c : CoreId) (b : Body)
  /-- ST_64 (R138): 64-bit scalar store. -/
  | st64 (c : CoreId) (b : Body)
  /-- TLD (R142): Loads a tile from the core's scratchpad and clears its tags. -/
  | tld (c : CoreId) (b : Body)
  /-- TST (R142): Stores a tile to the core's scratchpad without its tags. -/
  | tst (c : CoreId) (b : Body)
  /-- TMOV (R142): Copies a tile with its tags. -/
  | tmov (c : CoreId) (b : Body)
  /-- TZERO (R142): Zeroes a tile and clears its tags. -/
  | tzero (c : CoreId) (b : Body)
  /-- SPCPY (R142): Copies bytes within the scratchpad as if through a buffer. -/
  | spcpy (c : CoreId) (b : Body)
  /-- STRM_ISSUE (R143): Submits a stream descriptor and returns the stream ID. -/
  | strmIssue (c : CoreId) (b : Body)
  /-- STRM_CANCEL (R262): Cancels a stream of the issuing context. -/
  | strmCancel (c : CoreId) (b : Body)
  /-- STRM_STAT (R264): Reads the status word of a stream of the issuing context. -/
  | strmStat (c : CoreId) (b : Body)
  /-- MST (R162): Loads a slot of the next stationary bank from the scratchpad. -/
  | mst (c : CoreId) (b : Body)
  /-- MMX (R175): Multiplies a transom-fed streamed operand by the stationary bank into tile results. -/
  | mmx (c : CoreId) (b : Body)
  /-- MMXN (R179): As mmx with the streamed operand negated. -/
  | mmxn (c : CoreId) (b : Body)
  /-- MMXS (R173): As mmx with the streamed operand read from the scratchpad. -/
  | mmxs (c : CoreId) (b : Body)
  /-- MMXSN (R179): As mmxs with the streamed operand negated. -/
  | mmxsn (c : CoreId) (b : Body)
  /-- MBIAS (R169): Loads the bias vector from rows 0-3 of a tile. -/
  | mbias (c : CoreId) (b : Body)
  /-- MMASK (R166): Sets the 128-bit row enable. -/
  | mmask (c : CoreId) (b : Body)
  /-- MTAG_RD (R185): Reads the SUSPECT bit and shift tag of a tile. -/
  | mtagRd (c : CoreId) (b : Body)
  /-- MTAG_CLR (R185): Clears both tags of a tile. -/
  | mtagClr (c : CoreId) (b : Body)
  /-- VADD (R203): Elementwise FP32 add. -/
  | vadd (c : CoreId) (b : Body)
  /-- VSUB (R203): Elementwise FP32 subtract. -/
  | vsub (c : CoreId) (b : Body)
  /-- VMUL (R203): Elementwise FP32 multiply. -/
  | vmul (c : CoreId) (b : Body)
  /-- VFMA (R203): Elementwise FP32 fused multiply-add. -/
  | vfma (c : CoreId) (b : Body)
  /-- VMIN (R204): Elementwise minimum. -/
  | vmin (c : CoreId) (b : Body)
  /-- VMAX (R204): Elementwise maximum. -/
  | vmax (c : CoreId) (b : Body)
  /-- VABS (R204): Elementwise absolute value. -/
  | vabs (c : CoreId) (b : Body)
  /-- VNEG (R204): Elementwise negation. -/
  | vneg (c : CoreId) (b : Body)
  /-- VSEL (R204): Elementwise selection by a mask tile. -/
  | vsel (c : CoreId) (b : Body)
  /-- VCMP (R204): Elementwise compare writing 1 or 0. -/
  | vcmp (c : CoreId) (b : Body)
  /-- VACT (R205): Applies an activation function elementwise. -/
  | vact (c : CoreId) (b : Body)
  /-- VDROP (R227): Applies generator-driven dropout. -/
  | vdrop (c : CoreId) (b : Body)
  /-- VRAND (R227): Writes generator draws. -/
  | vrand (c : CoreId) (b : Body)
  /-- VTR (R231): Transposes a tile, copying its tags. -/
  | vtr (c : CoreId) (b : Body)
  /-- VRED (R208): Reduces lines into state words. -/
  | vred (c : CoreId) (b : Body)
  /-- VFIN (R215): Converts meanvar states to population variance. -/
  | vfin (c : CoreId) (b : Body)
  /-- VSMAX (R216): Computes softmax along rows. -/
  | vsmax (c : CoreId) (b : Body)
  /-- VLNORM (R217): Computes layer normalisation along rows. -/
  | vlnorm (c : CoreId) (b : Body)
  /-- VCVT (R218): Converts FP32 tiles to a narrower type. -/
  | vcvt (c : CoreId) (b : Body)
  /-- VUNP (R219): Widens packed tiles to FP32. -/
  | vunp (c : CoreId) (b : Body)
  /-- VCVTMX (R220): Converts FP32 tiles to MX element and scale tiles. -/
  | vcvtmx (c : CoreId) (b : Body)
  /-- VEPI (R222): Applies the fused epilogue, writing to the transom. -/
  | vepi (c : CoreId) (b : Body)
  /-- VEPIS (R223): Applies the fused epilogue, writing to the scratchpad. -/
  | vepis (c : CoreId) (b : Body)
  /-- VSET (R228): Writes a vector state register selected by SEL. -/
  | vset (c : CoreId) (b : Body)
  /-- COL_RS (R441): Issues a reduce-scatter on a collective group. -/
  | colRs (c : CoreId) (b : Body)
  /-- COL_AG (R446): Issues an all-gather on a collective group. -/
  | colAg (c : CoreId) (b : Body)
  /-- COL_PERM (R447): Issues a list or expert permute. -/
  | colPerm (c : CoreId) (b : Body)
  /-- COL_CMT (R458): Votes a step on the commit group and returns its state. -/
  | colCmt (c : CoreId) (b : Body)
  /-- COL_STAT (R469): Reads the status of a collective epoch. -/
  | colStat (c : CoreId) (b : Body)
  /-- COL_ABORT (R453): Aborts an open or parked collective and sends ABORT to the group. -/
  | colAbort (c : CoreId) (b : Body)
  /-- HATCH (R149): Firmware instruction that begins the hatch on a context. -/
  | hatch (c : CoreId) (b : Body)
  /-- HOSTEV_F (R149): Posts a record to the event queue of a named function. -/
  | hostevF (c : CoreId) (b : Body)
  /-- WDB (R487): Waits for a pending doorbell or hardware notice and returns its code. -/
  | wdb (c : CoreId) (b : Body)
  /-- CTX_ENTER (R150): Runs a context on a control core until yield, halt, fault or time limit. -/
  | ctxEnter (c : CoreId) (b : Body)
  /-- INSTRUCTION_FETCH (R125): The sequencer fetches an instruction word through its cache, raising FETCH on a bad address or poison. -/
  | instructionFetch (c : CoreId)
  /-- ENGINE_QUEUE_START (R84): An engine starts the instruction at the head of its queue once the scoreboard permits, freeing the queue entry. -/
  | engineQueueStart (c : CoreId) (e : Engine) (sample : Bool)
  /-- SCALAR_LOAD_RETURN (R128): Load data returns and is written to the destination register, releasing the pending register. -/
  | scalarLoadReturn (c : CoreId) (i : Nat) (h : HostReply)
  /-- SCALAR_STORE_PERFORMED (R128): The target memory performs a scalar store and the store completes. -/
  | scalarStorePerformed (c : CoreId) (w : StoreTurn)
  /-- SEMAPHORE_RESULT_RETURN (R128): An atomic unit's result returns to the sequencer and the semaphore completes. -/
  | semaphoreResultReturn (c : CoreId) (i : Nat)
  /-- TILE_MOVE_COMPLETE (R128): A tile move completes when its tiles have landed and scratchpad writes are performed. -/
  | tileMoveComplete (c : CoreId)
  /-- EVENT_INCREMENT (R93): A producer's increment lands on an event register when it is delivered. The increments named land in one
  ACLK cycle (R95). -/
  | eventIncrement (i : List Nat)
  /-- ATOMIC_OPERATION (R98): An operation arriving at an atomic unit is performed indivisibly, or parked when a wait is unmet. The
  requesters named arrive in one cycle (R99). -/
  | atomicOperation (u : AtomicUnit) (r : List Requester)
  /-- SEM_WAIT_RESEND (R101): A wait returned from a full unit is sent again after 1 us. -/
  | semWaitResend (c : CoreId) (i : Nat)
  /-- CLUSTER_BARRIER_RELEASE (R104): The cluster sequencer receives the last arrival and releases all 8 cores in the next FCLK cycle. -/
  | clusterBarrierRelease (k : Fin 4) (cl : Fin 12)
  /-- BARRIER_RELEASE_DELIVERED (R104): A core resumes dispatch when its synchroniser delivers a barrier release. -/
  | barrierReleaseDelivered (c : CoreId)
  /-- GROUP_BARRIER_RELEASE (R105): A group barrier releases once every core of the branch group has arrived. -/
  | groupBarrierRelease (ctx : CtxId) (g : Fin 8)
  /-- CONTEXT_FAULT (R154): The first fault of a context is recorded, dispatch stops on all its cores and a record is posted. -/
  | contextFault (ctx : CtxId)
  /-- CTX_ENTER_TIME_LIMIT (R150): The time limit of a ctx.enter expires and it returns reason 3. -/
  | ctxEnterTimeLimit (n : Fin 16)
  /-- CC_SLICE_TIMER (R486): A control program's slice ends and the next runnable program on the control core is given its slice. -/
  | ccSliceTimer (n : Fin 16)
  /-- WDB_NOTICE (R487): A doorbell or hardware notice is queued for firmware's wdb, merging doorbells of one queue. -/
  | wdbNotice (notice : Word)
  /-- MST_LOAD_COMPLETE (R165): An mst completes once its bank is loaded and checksum values formed. -/
  | mstLoadComplete (c : CoreId)
  /-- MATRIX_ROW_EXIT (R175): Results of a fed row leave the array and its overflow and row checks are decided. -/
  | matrixRowExit (c : CoreId) (upset : List Upset)
  /-- MATRIX_BLOCK_LAND (R176): A block of result tiles lands in the transom when the scoreboard and write ports permit. -/
  | matrixBlockLand (c : CoreId)
  /-- SPARE_REPLAY (R184): After a flagged repeat the cluster sequencer copies operands to the spare core and replays there. -/
  | spareReplay (k : Fin 4) (cl : Fin 12) (upset : List Upset)
  /-- SPARE_REPLAY_LAND (R184): The spare's results land in the original destination and XREPLAY_HIT is set. -/
  | spareReplayLand (k : Fin 4) (cl : Fin 12)
  /-- BALLAST_LEVEL_RISE (R186): When count W reaches STEP below the cap the activity level rises by one. For the span's cycles a data row
  was ready and waited for a carrying slot. -/
  | ballastLevelRise (w : CoreSpan)
  /-- BALLAST_LEVEL_FALL (R186): When count I reaches HOLD, and each further STEP, the activity level falls by one. For the span's cycles
  no data row was ready. -/
  | ballastLevelFall (w : CoreSpan)
  /-- VECTOR_TILE_LAND (R199): A vector destination tile lands when its fourth access is written. -/
  | vectorTileLand (c : CoreId) (l : VecLand)
  /-- HOT_REPAIR_DRAINED (R115): After the drain, core state is copied to the spare by the cluster DMA. -/
  | hotRepairDrained (k : Fin 4) (cl : Fin 12)
  /-- HOT_REPAIR_COPY_DONE (R115): The copy ends, the map is rewritten and written to flash, and dispatch resumes. -/
  | hotRepairCopyDone (k : Fin 4) (cl : Fin 12) (uncorrectable : Bool)
  /-- PATROL_SCRUB (R242): Scrub reads a codeword, correcting correctable errors and poisoning uncorrectable ones. -/
  | patrolScrub (a : Addr) (found : EccFinding)
  /-- PKG_HBM_ILV_WRITE (R238): A write to PKG_HBM_ILV takes effect only when no user context runs and no stream is in use. -/
  | pkgHbmIlvWrite (sz : CsrSize) (v : Word)
  /-- STREAM_ENTRY_ASSIGN (R259): A freed stream-table entry goes to a waiting issuer and its strm.issue completes. -/
  | streamEntryAssign (c : CoreId)
  /-- STREAM_ACTIVATE (R249): A QUEUED stream takes a freed active place once its FENCE and DEP are met. -/
  | streamActivate (id : StreamId)
  /-- STREAM_PIECE (R249): An engine serves one piece of up to 4 KiB of an active stream in round-robin turn. -/
  | streamPiece (id : StreamId) (fromHost : HostReply)
  /-- STREAM_FLUSH_READ_COMPLETE (R260): The zero-length flush read of a host-window stream completes; it may end in a PCIe completion error
  (R256). -/
  | streamFlushReadComplete (r : FlushRead)
  /-- STREAM_RETIRE (R260): A stream whose writes are all performed becomes DONE, frees its entry and adds its increment. -/
  | streamRetire (id : StreamId)
  /-- STREAM_CANCEL_COMPLETE (R262): An active stream's started pieces finish and it becomes CANCELLED. -/
  | streamCancelComplete (id : StreamId)
  /-- UPD_STAGE_WRITE (R281): A write to UPD_STAGE takes effect only under the condition of R238. -/
  | updStageWrite (u : Fin 12) (sz : CsrSize) (v : Word)
  /-- CHUNK_STAGE_ACCEPT (R282): An update unit accepts a staged chunk once space and step lead permit, checking its digest. -/
  | chunkStageAccept (u : Fin 12)
  /-- APPLY_START (R308): An update unit starts the next apply from its immediate or late queue after checking the descriptor. -/
  | applyStart (u : Fin 12)
  /-- BLOCK_APPLY_COMPLETE (R305): When every unit has finished a block's apply the controller writes descriptor words 8-11. -/
  | blockApplyComplete (ctx : CtxId) (block : Nat)
  /-- REGEN (R306): CTX_UPD_CMD op that rewrites a block's current working-copy slot from the masters. -/
  | regen (ctx : CtxId) (block : Nat)
  /-- VERIFY (R306): CTX_UPD_CMD op that compares a block's slot with the values REGEN would write. -/
  | verify (ctx : CtxId) (block : Nat)
  /-- UPD_COMMAND_COMPLETE (R307): A REGEN or VERIFY finishes, setting DONE and MISMATCH. -/
  | updCommandComplete (ctx : CtxId)
  /-- HALYARD_OPEN (R317): Writing EN = 1 checks a receive ring or starts a send halyard's OPEN handshake. -/
  | halyardOpen (ctx : CtxId) (h : Fin 16) (v : Word)
  /-- HALYARD_CLOSE (R325): Writing EN = 0 returns a halyard to CLOSED and sends CLOSE to the peer. -/
  | halyardClose (ctx : CtxId) (h : Fin 16)
  /-- HALYARD_OPEN_RETRY (R317): An OPENING send halyard resends its OPEN pennant every 1 ms. -/
  | halyardOpenRetry (ctx : CtxId) (h : Fin 16)
  /-- OPEN_PENNANT_RECEIVE (R317): A receive halyard takes an OPEN pennant and answers ACCEPT, REJECT or nothing. -/
  | openPennantReceive (h : PnHead) (r : PnTail)
  /-- ACCEPT_RECEIVE (R317): An ACCEPT puts the send halyard in OPEN with full credits. -/
  | acceptReceive (h : PnHead) (eseq : BitVec 16) (a : BitVec 48) (payload : BitVec 512)
  /-- REJECT_RECEIVE (R317): A REJECT puts the send halyard in ERROR with ERR 0x01. -/
  | rejectReceive (h : PnHead) (r : PnTail)
  /-- CLOSE_RECEIVE (R325): A CLOSE from the peer puts the halyard in DOWN with ERR 0x05. -/
  | closeReceive (h : PnHead) (r : PnTail)
  /-- HALYARD_DOORBELL (R320): A write to CTX_HAL_DOORn queues a send descriptor or fails it. -/
  | halyardDoorbell (ctx : CtxId) (h : Fin 16) (c : CoreId) (v : Word)
  /-- HALYARD_SEND_START (R320): A queued send at the head of an OPEN halyard with a credit is checked and starts. -/
  | halyardSendStart (ctx : CtxId) (h : Fin 16)
  /-- HDATA_RECEIVE (R321): An HDATA pennant's payload is written into its slot. -/
  | hdataReceive (h : PnHead) (eseq : BitVec 16) (r : PnPart)
  /-- HALYARD_SEND_COMPLETE (R322): A send completes on source read or on delivery as DLV selects. -/
  | halyardSendComplete (ctx : CtxId) (e : SendPoint)
  /-- HALYARD_RELEASE (R324): A write to CTX_HAL_RELn frees delivered slots and returns credits. -/
  | halyardRelease (ctx : CtxId) (h : Fin 16) (n : Nat)
  /-- HCRED_RECEIVE (R324): Returned credits raise the sender's LEVEL. -/
  | hcredReceive (h : PnHead) (eseq : BitVec 16) (r : PnPart)
  /-- VHOLD_ACQUIRE (R334): CTX_VHOLD acquire adds a hold on an owner's tag when accepted, else faults. -/
  | vholdAcquire (c : CoreId) (ctx : CtxId) (owner : CtxId) (tag : Nat)
  /-- VHOLD_RELEASE (R334): CTX_VHOLD release removes one count of a hold, unblocking waiting applies. -/
  | vholdRelease (c : CoreId) (ctx : CtxId) (owner : CtxId) (tag : Nat)
  /-- FAB_CFG_WRITE (R382): A write to FAB_CFG; EN = 0 disables the port and takes it down. -/
  | fabCfgWrite (p : PortId) (sz : CsrSize) (v : Word)
  /-- PORT_SIGNAL_DETECT (R350): Signal appears on a port's lanes and training starts or resumes. -/
  | portSignalDetect (p : PortId) (lostMs : Nat)
  /-- DETECT_REPEAT (R351): A port with no signal repeats the lane check every 100 ms. -/
  | detectRepeat (p : PortId)
  /-- LANE_CHECK_COMPLETE (R356): The lane check marks open and shorted lanes. -/
  | laneCheckComplete (p : PortId) (openLanes : BitVec 8) (shortLanes : BitVec 8)
  /-- BLOCK_LOCK (R353): Block lock is reached on the good lanes and polarity corrected. -/
  | blockLock (p : PortId) (inverted : BitVec 8)
  /-- RATE_SWITCH_TIMER (R352): A long-haul port without lock for 30 ms switches its SYNC and IDENT rate. -/
  | rateSwitchTimer (p : PortId)
  /-- IDENTITY_BLOCK_RECEIVE (R352): An identity block gives the peer, lane order and bad lanes, and the identity checks are decided. -/
  | identityBlockReceive (p : PortId) (i : Identity)
  /-- EQUALISATION_COMPLETE (R353): Equalisation at 128 Gbit/s completes. -/
  | equalisationComplete (p : PortId)
  /-- PORT_ACTIVE (R353): Deskew completes and the port enters ACTIVE. -/
  | portActive (p : PortId)
  /-- RTT_MEASURED (R386): The round trip is measured into FAB_RTT. -/
  | rttMeasured (p : PortId) (ns : BitVec 32)
  /-- LINK_BLOCK_SEND (R403): A port sends a data block, filling its slots in the order of R403. -/
  | linkBlockSend (p : PortId)
  /-- LINK_BLOCK_RECEIVE (R365): A received link block is decoded, checked, accepted or discarded, and its trailer processed. `lanes` holds
  the bytes that came on each physical receive lane. -/
  | linkBlockReceive (p : PortId) (lanes : List (List Byte))
  /-- IDLE_BLOCK_TIMER (R366): A port sends an idle block when it has sent none for 1 us. -/
  | idleBlockTimer (p : PortId)
  /-- RETRY_TIMEOUT (R367): ACK not advancing for max(10 us, 2 x RTT) makes the sender resend from the oldest held block. -/
  | retryTimeout (p : PortId)
  /-- PORT_SIGNAL_LOSS (R370): Loss of signal or block lock on a lane in use takes the port down. -/
  | portSignalLoss (p : PortId)
  /-- BLOCK_RECEIVE_TIMEOUT (R370): No valid block for 10 us takes the port down. -/
  | blockReceiveTimeout (p : PortId)
  /-- RETRAIN (R384): FAB_CMD op that starts full training. -/
  | retrain (p : PortId)
  /-- SHUTTER (R384): FAB_CMD op that puts the port in SHUT with cause COMMAND. -/
  | shutter (p : PortId)
  /-- ROUTE_DIMS_WRITE (R395): A write to ROUTE_DIMS rewrites the ring registers and ends open collectives. -/
  | routeDimsWrite (sz : CsrSize) (v : Word)
  /-- ROUTE_SLICE_WRITE (R395): A write to ROUTE_SLICE rewrites the ring registers and ends open collectives. -/
  | routeSliceWrite (sz : CsrSize) (v : Word)
  /-- ROUTE_PENNANT (R396): The routing plane delivers a pennant locally or picks its direction, port and VC. -/
  | routePennant
  /-- WRITE_RECEIVE (R408): A WRITE pennant is performed at the target or refused. -/
  | writeReceive (pn : Pennant)
  /-- READ_RECEIVE (R408): A READ pennant is performed at the target or refused. -/
  | readReceive (pn : Pennant)
  /-- ATOMIC_RECEIVE (R408): An ATOMIC pennant is passed to the target's atomic unit or refused. -/
  | atomicReceive (pn : Pennant)
  /-- RESPONSE_SEND (R401): A target sends a held response once it holds a credit for it. -/
  | responseSend
  /-- WACK_SEND (R408): A WACK is sent once every write of a message is performed. -/
  | wackSend (i : Nat)
  /-- RDATA_RECEIVE (R409): Read data is written at the requester's return address. -/
  | rdataReceive (pn : Pennant)
  /-- ARESP_RECEIVE (R409): An atomic response completes the requester's semaphore. -/
  | arespReceive (pn : Pennant)
  /-- WACK_RECEIVE (R409): A write acknowledgement marks the message's writes performed. -/
  | wackReceive (pn : Pennant)
  /-- RNAK_RECEIVE (R409): A refused-read answer fails the matching READ. -/
  | rnakReceive (pn : Pennant)
  /-- RESPONSE_TIMEOUT (R411): A request without a response for TMO ms is treated as answered with status 0x04. -/
  | responseTimeout (i : Nat)
  /-- DSETUP_RECEIVE (R416): A package on the detour path installs its relay entry or answers DNAK. -/
  | dsetupReceive (t : Fin 6) (m : DetourMsg)
  /-- DACK_RECEIVE (R416): The detour is in force and held pennants leave on VC7. -/
  | dackReceive (d : Fin 6)
  /-- DNAK_RECEIVE (R416): Installed entries are cleared and the next candidate or a bypass is tried. -/
  | dnakReceive (d : Fin 6) (noPortToB : Bool)
  /-- DTEAR_RECEIVE (R420): The release package answers DTEAR once it has released the named count. -/
  | dtearReceive (owner : PkgId) (t : Fin 6) (count : Nat)
  /-- DTEAR_ANSWER_RECEIVE (R420): The detour's entries clear and held pennants leave on the direct link. -/
  | dtearAnswerReceive (d : Fin 6)
  /-- COL_GRP_WRITE (R426): A write to CTX_COL_GRPg puts the group in force when valid, or sets CFGERR or BUSYWR. -/
  | colGrpWrite (ctx : CtxId) (g : Fin 16) (sz : CsrSize) (v : Word)
  /-- COL_SUB_WRITE (R427): A write to CTX_COL_SUBg, ignored with BUSYWR while the group is busy. -/
  | colSubWrite (ctx : CtxId) (g : Fin 16) (sz : CsrSize) (v : Word)
  /-- COLLECTIVE_OPEN (R438): A queued collective opens when its buffer window is free and grants each sender 4 chunks. -/
  | collectiveOpen (ctx : CtxId) (g : Fin 16) (e : Epoch)
  /-- CHUNK_SEND (R438): A member sends a chunk once it holds a credit for it. -/
  | chunkSend (ctx : CtxId) (g : Fin 16) (e : Epoch) (rank : Nat)
  /-- CHUNK_RECEIVE (R437): A CHUNK pennant is accepted once per index or discarded as duplicate. -/
  | chunkReceive (pn : Pennant) (upset : Bool × Bool)
  /-- CHUNK_CREDIT_RECEIVE (R438): A CREDIT pennant grants a sender further chunks. -/
  | chunkCreditReceive (pn : Pennant)
  /-- COUNT_RECEIVE (R448): A COUNT pennant gives a receiver its expected chunks or tokens per expert. -/
  | countReceive (pn : Pennant)
  /-- COLLECTIVE_PARK (R451): After chunks in progress complete, a suspended context's collective is parked. -/
  | collectivePark (ctx : CtxId) (g : Fin 16) (e : Epoch)
  /-- STALL_WATCHDOG (R452): Time without progress exceeding WDOG_US sends a PROBE. -/
  | stallWatchdog (ctx : CtxId) (g : Fin 16) (e : Option Epoch) (waitUs : Nat)
  /-- PROBE_RECEIVE (R452): A PROBE is forwarded or answered, or back at its originator names the slowest member. -/
  | probeReceive (pr : Probe)
  /-- ABORT_RECEIVE (R453): An ABORT ends the named collective ABORTED within 5 us. -/
  | abortReceive (gkey : BitVec 16) (e : Epoch) (cause : Nat)
  /-- VOTE_READY (R458): A member becomes ready for a step once its collectives ended and its partial is formed. -/
  | voteReady (ctx : CtxId) (step : StepNo)
  /-- VOTE_TOKEN_RECEIVE (R459): A member applies the vote steps to the token and passes it on. -/
  | voteTokenReceive (pn : Pennant)
  /-- VOTE_RESULT_RECEIVE (R461): A member takes the vote result, relays it and commits, skips or poisons the step. -/
  | voteResultReceive (pn : Pennant)
  /-- VOTE_RESULT_TIMEOUT (R462): A VOTING member after CTX_DOWN with no result within WDOG_US poisons the step. -/
  | voteResultTimeout (ctx : CtxId)
  /-- PERST_ASSERT (R475): PERST# asserted resets every function of both links and unbinds their contexts. -/
  | perstAssert (p : Fin 2)
  /-- PERST_RELEASE (R602): PERST# released starts the 80 ms to configuration space and link training. -/
  | perstRelease (p : Fin 2)
  /-- CONFIG_SPACE_READY (R602): A port's configuration space responds 80 ms after PERST# release. -/
  | configSpaceReady (p : Fin 2)
  /-- HOT_RESET (R475): A hot reset resets every function of the link and unbinds its contexts. -/
  | hotReset (p : Fin 2) (link : LinkAB)
  /-- PCIE_LINK_DOWN (R475): A link down resets every function of the link and unbinds its contexts. -/
  | pcieLinkDown (p : Fin 2) (link : LinkAB)
  /-- FLR_VF (R475): FLR of a virtual function resets that function. -/
  | flrVf (p : Fin 2) (f : Fin 32)
  /-- FLR_PF (R475): FLR of a physical function resets it and its link's virtual functions. -/
  | flrPf (p : Fin 2) (link : LinkAB)
  /-- VF_ENABLE_CLEAR (R475): Clearing VF Enable resets the link's functions and unbinds the virtual functions' contexts. -/
  | vfEnableClear (p : Fin 2) (link : LinkAB)
  /-- APERTURE_WRITE (R478): A BAR2 write reaches local memory through a mapped segment or is discarded. -/
  | apertureWrite (p : Fin 2) (f : Fin 32) (seg : Fin 16) (x : Nat) (bytes : List Byte) (ep : Bool)
  /-- APERTURE_READ (R478): A BAR2 read returns local memory after earlier writes, or Unsupported Request. -/
  | apertureRead (p : Fin 2) (f : Fin 32) (seg : Fin 16) (x : Nat) (n : Nat)
  /-- QUEUE_ENABLE (R676): EN of a queue going from 0 to 1 restarts the device's positions of that queue. -/
  | queueEnable (p : Fin 2) (f : Fin 32) (q : QueueSel) (v : Word)
  /-- SQ_TAIL_DOORBELL (R489): A write to HST_SQq_TAIL sets the tail and notifies the fetcher. -/
  | sqTailDoorbell (p : Fin 2) (f : Fin 32) (q : Fin 8) (v : Word)
  /-- CQ_HEAD_DOORBELL (R491): A write to HST_CQq_HEAD frees completion entries. -/
  | cqHeadDoorbell (p : Fin 2) (f : Fin 32) (q : Fin 8) (v : Word)
  /-- EQ_HEAD_WRITE (R493): A write to HST_EQ_HEAD frees event queue entries. -/
  | eqHeadWrite (p : Fin 2) (f : Fin 32) (v : Word)
  /-- COMMAND_FETCH (R490): The fetcher reads a submission entry and starts the command in fetch order. -/
  | commandFetch (p : Fin 2) (f : Fin 32) (q : Fin 8) (entry : List Word)
  /-- COMPLETION_WRITE (R491): A completion entry is written into a free entry once room exists, then MSI-X is sent. -/
  | completionWrite (p : Fin 2) (f : Fin 32) (q : Fin 8)
  /-- EVENT_RECORD_POST (R493): An event record is posted to a function's event queue, waiting or counted lost as R493 states. -/
  | eventRecordPost (p : Fin 2) (f : Fin 32)
  /-- LOST_RECORD_POST (R493): A LOST record is posted when two entries are free again. -/
  | lostRecordPost (p : Fin 2) (f : Fin 32)
  /-- IDENTIFY (R495): Command that returns identity data to a host buffer. -/
  | identify (q : QueueId)
  /-- CTX_ALLOC (R495): Command that binds the lowest free context to a function slot. -/
  | ctxAlloc (q : QueueId)
  /-- CTX_FREE (R500): Command that function-resets and unbinds a context. -/
  | ctxFree (q : QueueId)
  /-- LAUNCH (R498): Command that launches a context's branch groups. -/
  | launch (q : QueueId)
  /-- LAUNCH_COMPLETE (R498): A launch ends when every core has halted and every instruction completed. -/
  | launchComplete (ctx : CtxId)
  /-- LAUNCH_TIME_LIMIT (R498): A launch time limit expiring applies the hatch and ends LAUNCH with TIMEOUT. -/
  | launchTimeLimit (ctx : CtxId)
  /-- SUSPEND (R501): Command that stops dispatch, parks collectives and optionally saves state. -/
  | suspend (q : QueueId)
  /-- SUSPEND_COMPLETE (R501): After the drain and any save, SUSPEND completes and the context is SUSPENDED. -/
  | suspendComplete (ctx : CtxId)
  /-- RESUME (R504): Command that restores saved state and resumes dispatch and parked collectives. -/
  | resume (q : QueueId)
  /-- CANCEL (R505): Command that cancels a target command, applying the hatch where R505 states. -/
  | cancel (q : QueueId)
  /-- COPY (R495): Command that runs a stream descriptor from host memory. -/
  | copy (q : QueueId) (desc : List Word)
  /-- OPEN_WINDOW (R480): Command that opens a host window for a context. -/
  | openWindow (q : QueueId)
  /-- CLOSE_WINDOW (R495): Command that closes a host window. -/
  | closeWindow (q : QueueId)
  /-- MAP_APERTURE (R478): Command that maps a BAR2 aperture segment. -/
  | mapAperture (q : QueueId)
  /-- CC_RUN (R486): Command that runs a user control program on a control core. -/
  | ccRun (q : QueueId) (chosen : Fin 16)
  /-- CONTEXT_HANG (R513): A running context without progress for LIMIT_MS is hatched with reason HANG. -/
  | contextHang (ctx : CtxId)
  /-- ENGINE_HANG (R514): An engine instruction not completed within 10 ms hatches its context with reason ENGINE. -/
  | engineHang (c : CoreId) (e : Engine)
  /-- UNIT_HANG (R515): A shared unit without progress for 100 ms hatches its oldest work's context with reason UNIT. -/
  | unitHang (unit : UnitCode) (ctx : CtxId)
  /-- UNIT_HANG_ESCALATE (R515): A unit still stuck 10 ms after that hatch causes a package reset or is shuttered. -/
  | unitHangEscalate (unit : UnitCode)
  /-- FIRMWARE_WATCHDOG (R516): Missing KICK for FW_WD_MS ms causes a package reset. -/
  | firmwareWatchdog
  /-- KICK (R516): PKG_RST op that restarts the firmware watchdog. -/
  | kick
  /-- PKG_RST_PACKAGE (R528): PKG_RST op that requests a package reset. -/
  | pkgRstPackage
  /-- PKG_RST_FABRIC (R528): PKG_RST op that requests a fabric-domain reset. -/
  | pkgRstFabric
  /-- PKG_RST_COLD (R532): PKG_RST op that requests a cold reset. -/
  | pkgRstCold
  /-- HATCH_SEQUENCE (R520): The hatch stops the context everywhere, samples, cancels streams, ends collectives and sends CTX_DOWN. -/
  | hatchSequence (ctx : CtxId)
  /-- HATCH_COMPLETE (R520): After the last stream is cancelled and committed applies finish, the hatch completes and posts CTX_RESET. -/
  | hatchComplete (ctx : CtxId)
  /-- CTX_DOWN_RECEIVE (R526): A CTX_DOWN is relayed and ends collectives, halyards and votes of the removed context. -/
  | ctxDownReceive (pn : Pennant)
  /-- FUNCTION_RESET_COMPLETE (R527): The function reset completes and posts one CTX_RESET record. -/
  | functionResetComplete (ctx : CtxId)
  /-- PACKAGE_RESET_READY (R529): After the package domain reset, READY and RDY are asserted again. -/
  | packageResetReady
  /-- ERROR_DETECTION (R537): A detection reaches the error collector and opens or joins a record. -/
  | errorDetection (d : Detection)
  /-- ERROR_RECORD_CLOSE (R539): A record closes when the last level acts and is reported to the hosts. -/
  | errorRecordClose (i : BitVec 32) (cls : Classification)
  /-- HISTORY_HALVING (R544): At each WINDOW_H boundary both counts of an entry are halved. -/
  | historyHalving (unit : UnitCode)
  /-- HISTORY_FLASH_WRITE (R545): A changed history entry is written to flash. -/
  | historyFlashWrite (unit : UnitCode)
  /-- FIELD_TEST_VISIT (R553): Every ROT_S seconds the next cluster's spare is isolated and tested. -/
  | fieldTestVisit (k : Fin 4) (cl : Fin 12)
  /-- FIELD_TEST_DONE (R553): A field test ends, retiring a failed spare or swapping a logical core onto a passed one. -/
  | fieldTestDone (k : Fin 4) (cl : Fin 12) (pass : Bool)
  /-- TEST (R556): TST_CMD op that tests a compute core. -/
  | test (unit : UnitCode)
  /-- RESTORE (R557): TST_CMD op that tests and returns a retired unit to service, or clears die-link repair maps. -/
  | restore (unit : UnitCode) (pass : Bool)
  /-- CLEAR_HIST (R557): TST_CMD op that zeroes a history entry's counts. -/
  | clearHist (unit : UnitCode)
  /-- SAMPLE_COMPARE (R560): The spare's run of a sampled mmx is compared with the landed result. -/
  | sampleCompare (k : Fin 4) (cl : Fin 12) (run1 : SpareRun) (run2 : SpareRun)
  /-- TST_INJ_ARM (R562): Setting ARM in TST_INJ arms COUNT injections at a detector and unit. -/
  | tstInjArm (sz : CsrSize) (v : Word)
  /-- FLIT_CRC_RETRY (R575): A flit failing its CRC is retried and recorded. -/
  | flitCrcRetry (n : Fin 16) (m : Nat)
  /-- MODULE_RETRAIN (R576): A module exceeding lane parity or retry limits is retrained with lane repair. -/
  | moduleRetrain (n : Fin 16) (m : Nat) (why : RetrainWhy)
  /-- MODULE_RETRAIN_COMPLETE (R577): The module is ACTIVE at full or half width or disabled, and kept flits replay. -/
  | moduleRetrainComplete (n : Fin 16) (m : Nat)
  /-- REPAIR_MAP_WRITE (R577): A die-link repair map is written to flash. -/
  | repairMapWrite (n : Fin 16)
  /-- TAP_RESET (R583): TRST# puts the test chain in Test-Logic-Reset. -/
  | tapReset
  /-- TAP_UPDATE_IR (R584): A TAP loads an instruction, gated as R584 states. -/
  | tapUpdateIr (die : Fin 13) (ir : BitVec 8)
  /-- WKT_UPDATE_DR (R588): Update-DR of the WKT register issues a wicket operation. -/
  | wktUpdateDr (die : Fin 13) (dr : BitVec 98)
  /-- WICKET_READ (R589): TST_WKT_CMD op that reads a wicket address. -/
  | wicketRead (die : Fin 16) (a : BitVec 32)
  /-- WICKET_WRITE (R589): TST_WKT_CMD op that writes a wicket address. -/
  | wicketWrite (die : Fin 16) (a : BitVec 32)
  /-- WICKET_OPERATION_COMPLETE (R587): A wicket operation ends done or DENIED. -/
  | wicketOperationComplete (die : Fin 13)
  /-- INPUT_RISE (R602): The input rising through 48.0 V marks t0 and closes the input switch. -/
  | inputRise
  /-- REVERSED_INPUT (R596): Reversed input is blocked and nothing is powered. -/
  | reversedInput
  /-- RAIL_GROUP_UP (R594): A rail group in regulation lets the next group start. -/
  | railGroupUp (g : RailGroup)
  /-- PWR_OK (R602): Rails in regulation start the boot ROM and the flash loads. -/
  | pwrOk (slotId : BitVec 4)
  /-- FIRMWARE_VERIFY (R616): The boot ROM accepts a firmware image or leaves READY deasserted. -/
  | firmwareVerify
  /-- READY_ASSERT (R602): READY is asserted after HBM and near tier are zeroed and maps loaded. -/
  | readyAssert
  /-- INPUT_UNDERVOLTAGE (R596): Input below the undervoltage thresholds trips the module. -/
  | inputUndervoltage (mv : Nat)
  /-- INPUT_OVERVOLTAGE (R596): Input above 60.5 V for 100 us trips the module. -/
  | inputOvervoltage (mv : Nat)
  /-- INPUT_OVERCURRENT (R596): Input at the 65 A limit for 10 ms opens the switch and trips. -/
  | inputOvercurrent (dA : Nat)
  /-- INPUT_SWITCH_SHORT (R596): A short behind the input switch opens it within 2 us and trips. -/
  | inputSwitchShort (dA : Nat)
  /-- RAIL_START_FAIL (R596): A rail that fails to start trips the module. -/
  | railStartFail (n : Fin 16) (mv : Nat)
  /-- RAIL_UNDERVOLTAGE (R596): A rail more than 5 % low for 10 us trips the module. -/
  | railUndervoltage (n : Fin 16) (mv : Nat)
  /-- RAIL_OVERVOLTAGE (R596): A rail more than 8 % high is switched off and trips the module. -/
  | railOvervoltage (n : Fin 16) (mv : Nat)
  /-- RAIL_OVERCURRENT (R596): A rail at its current limit for 1 ms trips the module. -/
  | railOvercurrent (n : Fin 16) (dA : Nat)
  /-- DIE_OVER_TEMPERATURE (R596): A compute die sensor above 115 C for 100 us trips the module. -/
  | dieOverTemperature (k : Fin 4) (t8 : Int)
  /-- HBM_OVER_TEMPERATURE (R596): A stack above 105 C for 100 us trips the module. -/
  | hbmOverTemperature (m : Fin 12) (t8 : Int)
  /-- COOLANT_TEMPERATURE_TRIP (R596): Inlet above 50 C for 10 s trips the module. -/
  | coolantTemperatureTrip (t8 : Int)
  /-- COOLANT_FLOW_TRIP (R596): Flow below 0.5 L/min for 2 s trips the module. -/
  | coolantFlowTrip (mlMin : Nat)
  /-- CONVERTER_OVER_TEMPERATURE (R596): A converter stage above 125 C trips the module. -/
  | converterOverTemperature (stage : Fin 2) (t8 : Int)
  /-- PM_LINK_TRIP (R592): The power management link silent for 100 ms after PWR_OK trips the module. -/
  | pmLinkTrip
  /-- PWR_FAIL (R598): On PWR_FAIL the package controller finishes a flash program in progress and starts none. -/
  | pwrFail
  /-- TRIP_RESTART (R599): The power controller starts again after a trip when R599 permits. -/
  | tripRestart (inlet8 : Int) (flow : Nat)
  /-- SENSE_OPEN (R595): A rail's sense differing by over 50 mV switches to local sense and opens a record. -/
  | senseOpen (n : Fin 16)
  /-- DROOP (R604): VCk below 92 % halves the die's ACLK and counts the event. -/
  | droop (k : Fin 4) (over16 : Bool)
  /-- DROOP_RECOVERY (R604): After at least 200 ns and recovery of VCk, ACLK returns to full. -/
  | droopRecovery (k : Fin 4)
  /-- PM_LINK_MESSAGE (R592): A 10 us exchange of measurements, targets and fabric time over the power management link. -/
  | pmLinkMessage (m : PmMeasure)
  /-- PM_LINK_SILENT (R592): The link silent for 1 ms holds every compute die at louvre step 15. -/
  | pmLinkSilent
  /-- POWER_CAP_EVALUATION (R608): Each 1 ms the 1 ms input power is compared with CAP and the demand moved. -/
  | powerCapEvaluation
  /-- PEAK_EVALUATION (R608): Each 100 us the 100 us input power is compared with PEAK. -/
  | peakEvaluation
  /-- RAIL_CURRENT_DEMAND (R608): A rail at its current limit raises its die's demand. -/
  | railCurrentDemand (n : Fin 8) (ev : RailLimitEv)
  /-- THERMAL_DEMAND_EVALUATION (R608): Each 1 ms die, HBM and converter temperatures move their demands. -/
  | thermalDemandEvaluation (tm : Temps)
  /-- COOLANT_DEMAND (R608): Coolant inlet temperature and flow set their demands. -/
  | coolantDemand (inlet8 : Int) (flow : Nat)
  /-- PWR_LOUVRE_WRITE (R607): A write to PWR_LOUVRE.FLOOR sets the least step for every die. -/
  | pwrLouvreWrite (sz : CsrSize) (v : Word)
  /-- LOUVRE_CHANGE_COMPLETE (R606): ACLK and VCk settle at the new step. -/
  | louvreChangeComplete (k : Fin 4)
  /-- POWER_RECORD (R609): A step unchanged for 1 ms after a change posts a POWER record. -/
  | powerRecord (k : Fin 4)
  /-- SENSOR_REFRESH (R611): Every 10 us measured fields are refreshed. -/
  | sensorRefresh (m : Sensors)
  /-- DOE_DISCOVERY (R622): DOE object that reports the supported object types. -/
  | doeDiscovery (p : Fin 2) (link : LinkAB) (index : Nat)
  /-- QUOTE (R623): DOE object that returns a signed quote of selected measurements. -/
  | quote (p : Fin 2) (link : LinkAB) (nonce : BitVec 256) (mask : BitVec 16) (log : Bool) (flashOk : Bool)
  /-- DEBUG_UNLOCK (R630): DOE object that unlocks debug scopes with a signed token. -/
  | debugUnlock (p : Fin 2) (link : LinkAB) (tok : DebugToken)
  /-- IMAGE (R618): DOE object that writes a firmware image piece to the slot that did not boot. -/
  | image (p : Fin 2) (link : LinkAB) (off : Nat) (bytes : List Byte)
  /-- ID_CERT (R622): DOE object that returns the identity certificate and transition statement. -/
  | idCert (p : Fin 2) (link : LinkAB)
  /-- REKEY (R629): DOE object that replaces the identity key under an authorisation. -/
  | rekey (p : Fin 2) (link : LinkAB) (au : RekeyAuth)
  /-- ID_KEY_CACHE_READY (R624): The identity key's upper-layer cache is built and quotes are served. -/
  | idKeyCacheReady
  /-- RELOCK (R631): SEC_DBG op that ends debug unlock and extends M7. -/
  | relock
  /-- SEC_MEAS_EXTEND (R632): SEC_MEAS_EXT op that extends M8-M15 by a digest. -/
  | secMeasExtend (n : Fin 16)
  /-- PHASE_START_MARK (R644): CTX_PHASE start op opens matching phase timers. -/
  | phaseStartMark (ctx : CtxId) (tag : Fin 16)
  /-- PHASE_END_MARK (R644): CTX_PHASE end op counts an end mark and closes the phase at NEND. -/
  | phaseEndMark (ctx : CtxId) (tag : Fin 16)
  /-- PMC_COUNTER_WRAP (R636): A programmable counter passing 48 bits carries into the next or sets OVF. -/
  | pmcCounterWrap (c : CoreId) (n : Fin 8) (amount : Nat)
  /-- TELEMETRY_REFRESH (R648): Every 1 ms the telemetry record is rewritten, word 0 last. -/
  | telemetryRefresh
  /-- I3C_PRIVATE_WRITE (R650): An I3C private write sets the register pointer. -/
  | i3cPrivateWrite (bytes : List Byte)
  /-- I3C_PRIVATE_READ (R650): An I3C private read returns bytes from the pointer onward. -/
  | i3cPrivateRead (n : Nat)
  /-- I3C_ENTDAA (R650): Dynamic address assignment by ENTDAA. -/
  | i3cEntdaa (da : BitVec 7)
  /-- I3C_SETDASA (R650): Dynamic address assignment by SETDASA from static address 0x5C. -/
  | i3cSetdasa (sa : BitVec 7) (da : BitVec 7)
  /-- PPS_EDGE (R660): A rising edge on PPS_IN marks the second that disciplines fabric time. -/
  | ppsEdge
  /-- PCIE_LINK_UP (R472): A PCIe port's link finishes training, or trains again after a link down, and comes up at the rate and width both ends support. -/
  | pcieLinkUp (p : Fin 2) (link : LinkAB) (gen : Fin 7) (log2w : Fin 5) (reversed : Bool)
  /-- VF_ENABLE_SET (R509): The host sets VF Enable in a physical function's SR-IOV capability, so the link's virtual functions up to NumVFs come to exist and their shares join the physical function's reach. -/
  | vfEnableSet (p : Fin 2) (link : LinkAB) (numVfs : Nat)
  /-- ICACHE_RECURRENCE_WINDOW (R543): One second after an instruction cache parity detection with no recurrence on the same line, the detection is classified TRANSIENT. -/
  | icacheRecurrenceWindow (i : BitVec 32)
deriving DecidableEq, Repr

end Sys2Proof
end

