-- ==== Sys2Proof/Decode.lean ====
section
/-! DEFINITION. The command that a word spells. The block has no instruction decoder for the rows of the table: no row gives bits. -/

namespace Sys2Proof

/-- The command that a word spells by the table's bits: none, since no row of the table has any. (log 6, DEDUCED) -/
def decodeTableWord (_nbits _w : Nat) : Option Instr := none

end Sys2Proof
end

