-- ==== Sys2Proof/Config.lean ====
section
/-! DEFINITION. What the spec leaves to an implementation or leaves open: constants without a body. -/

namespace Sys2Proof

/-- The free values: the value that the machine takes where the spec states none, one for each draw (log 1, DESIGN CHOICE). -/
opaque Config.freeValue : Nat → Word

/-- Whether a network-on-chip has a router with a number: R24 names routers, and no rule counts them (log 74, DESIGN CHOICE). -/
opaque Config.nocRouter : Nat → Bool

/-- Whether an HBM pseudo-channel of the unit still has a repair resource of its stack left (R546, R547). -/
opaque Config.pprLeft : BitVec 32 → Bool

/-- The activations that R205 bounds and does not fix: by activation code and FP32 input, the FP32 result (R205, R207). (log 7, DESIGN CHOICE) -/
opaque Config.act : Nat → BitVec 32 → BitVec 32

/-- The learning rate of the forms that R297 gives within 1 ULP: by form, PEAK, END, W, T and n (R298). (log 7, DESIGN CHOICE) -/
opaque Config.learnRate : Nat → BitVec 32 → BitVec 32 → Nat → Nat → Nat → BitVec 32

/-- SHAKE256 with 256 bits of output (R614). -/
opaque Config.shake : List (BitVec 8) → BitVec 256

/-- The digest that a measurement register is extended with, by register and what it covers, where the spec does not give the byte form of
what is hashed (R620). -/
opaque Config.digest : Nat → List Nat → BitVec 256

/-- The capability block that the die at a near site reports (R571): what a board carries. -/
opaque Config.siteCap : Nat → Word

/-- The field-test content is authentic (R552, R619). -/
opaque Config.contentOk : List (BitVec 8) → Bool

/-- What the header of a firmware image says, where the spec gives its content and not its layout (R616): key slot, public key, SVN, body length,
H(body), RAISE_FLOOR, how many of its bytes the signature covers, the signature. -/
structure ImageHead where
  slot   : Nat
  pub    : List (BitVec 8)
  svn    : BitVec 16
  len    : Nat
  body   : BitVec 256
  raise  : Bool
  signed : Nat
  sig    : List (BitVec 8)
deriving DecidableEq, Repr, Inhabited

/-- The header that an image's bytes spell (R616). -/
opaque Config.imageHead : List (BitVec 8) → ImageHead

/-- The fused digests of the firmware public keys, slots 0 to 3, and at 4 of the debug public key (R615). -/
opaque Config.keyDigest : Nat → BitVec 256

/-- XMSS^MT verification: public key, message, signature (R613). -/
opaque Config.verify : List (BitVec 8) → List (BitVec 8) → List (BitVec 8) → Bool

/-- H of the boot ROM, from fuses (R620). -/
opaque Config.bootRom : BitVec 256

/-- The serial number, from fuses (R623). -/
opaque Config.serial : BitVec 64

/-- The vendor ID of the functions' configuration headers (R622). -/
opaque Config.vendorId : BitVec 16

/-- The signature of a debug token verifies under the debug key: message, signature (R630). -/
opaque Config.tokenSig : List (BitVec 8) → List (BitVec 8) → Bool

/-- The signature of a rekey authorisation verifies under a firmware key slot: slot, message, signature (R629). -/
opaque Config.rekeySig : Nat → List (BitVec 8) → List (BitVec 8) → Bool

/-- The identity public key of a key generation (R615, R629). -/
opaque Config.idPub : Nat → List (BitVec 8)

/-- A signature by the identity key: key generation, index, message (R613, R623). -/
opaque Config.idSign : Nat → Nat → List (BitVec 8) → List (BitVec 8)

/-- The identity certificate in module flash (R615). -/
opaque Config.idCert : List (BitVec 8)

/-- Fabric time after a rising edge of the 1 PPS input, by fabric time before it (R660). -/
opaque Config.ppsTime : Nat → Nat

end Sys2Proof
end

