-- ==== Sys2Proof/Machine/Regs.lean ====
section
/-! DEFINITION. The CSRs (00_scope.md R5 to R13, 21_register_index.md R668, R669): for each register its offset in CSR space and
its fields as the chapter that defines it gives them, and the table of all registers with their reset values, access codes and
the values that the hatch and a function reset give to the fields of a CTX_ block. -/

namespace Sys2Proof.Machine

/-- The place of a field in a register: lowest bit and width. -/
structure Fld where
  lo  : Nat
  len : Nat
deriving DecidableEq, Repr

/-- The access codes of R8. -/
inductive Acc where
  | ro | rw | w1c | w1s | wo
deriving DecidableEq, Repr

/-- A field of the register table: place, access code, and the values that the hatch and a function reset write, if any (R13). -/
structure FldDesc where
  lo     : Nat
  len    : Nat
  acc    : Acc
  hatch  : Option Nat
  freset : Option Nat
deriving DecidableEq, Repr

/-- A register, or a family of registers replicated over up to four suffixes: offset of the first, the counts and strides of the
suffixes from the outermost, the reset value, the fields. -/
structure RegDesc where
  base   : Nat
  dims   : List (Nat × Nat)
  reset  : Word
  fields : List FldDesc
deriving DecidableEq, Repr


/-- Offset of PKG_CORE_MAP in CSR space (R113). -/
def PKG_CORE_MAP.off (a b : Nat) : Nat := 0x400 + a * 0x60 + b * 0x8

/-- Field RETIRED of PKG_CORE_MAP. -/
def PKG_CORE_MAP.RETIRED : Fld := ⟨48, 9⟩

/-- Field SPARE of PKG_CORE_MAP. -/
def PKG_CORE_MAP.SPARE : Fld := ⟨44, 4⟩

/-- Field CLUSTER_OFF of PKG_CORE_MAP. -/
def PKG_CORE_MAP.CLUSTER_OFF : Fld := ⟨40, 1⟩

/-- Field LMAP of PKG_CORE_MAP. -/
def PKG_CORE_MAP.LMAP : Fld := ⟨0, 32⟩

/-- Offset of PKG_HBM_ILV in CSR space (R236). -/
def PKG_HBM_ILV.off : Nat := 0x600

/-- Field UPPER_MODE of PKG_HBM_ILV. -/
def PKG_HBM_ILV.UPPER_MODE : Fld := ⟨8, 1⟩

/-- Field SPLIT of PKG_HBM_ILV. -/
def PKG_HBM_ILV.SPLIT : Fld := ⟨0, 7⟩

/-- Offset of PKG_NEAR_PIN in CSR space (R268). -/
def PKG_NEAR_PIN.off (a : Nat) : Nat := 0x700 + a * 0x8

/-- Field VALID of PKG_NEAR_PIN. -/
def PKG_NEAR_PIN.VALID : Fld := ⟨63, 1⟩

/-- Field UPD of PKG_NEAR_PIN. -/
def PKG_NEAR_PIN.UPD : Fld := ⟨62, 1⟩

/-- Field WRITER of PKG_NEAR_PIN. -/
def PKG_NEAR_PIN.WRITER : Fld := ⟨56, 6⟩

/-- Field SIZE of PKG_NEAR_PIN. -/
def PKG_NEAR_PIN.SIZE : Fld := ⟨16, 12⟩

/-- Field BASE of PKG_NEAR_PIN. -/
def PKG_NEAR_PIN.BASE : Fld := ⟨0, 12⟩

/-- Offset of PKG_BUDDY in CSR space (R271). -/
def PKG_BUDDY.off (a : Nat) : Nat := 0x800 + a * 0x8

/-- Field VALID of PKG_BUDDY. -/
def PKG_BUDDY.VALID : Fld := ⟨63, 1⟩

/-- Field SRC_ID of PKG_BUDDY. -/
def PKG_BUDDY.SRC_ID : Fld := ⟨48, 15⟩

/-- Field SIZE of PKG_BUDDY. -/
def PKG_BUDDY.SIZE : Fld := ⟨40, 8⟩

/-- Field BASE of PKG_BUDDY. -/
def PKG_BUDDY.BASE : Fld := ⟨30, 10⟩

/-- Offset of PKG_FAB_ALLOC in CSR space (R347). -/
def PKG_FAB_ALLOC.off : Nat := 0x900

/-- Field DIRS of PKG_FAB_ALLOC. -/
def PKG_FAB_ALLOC.DIRS : Fld := ⟨0, 48⟩

/-- Offset of PKG_STRM_QUOTA in CSR space (R265). -/
def PKG_STRM_QUOTA.off (a : Nat) : Nat := 0xa00 + a * 0x8

/-- Field QUOTA of PKG_STRM_QUOTA. -/
def PKG_STRM_QUOTA.QUOTA : Fld := ⟨0, 17⟩

/-- Offset of PKG_SHARE in CSR space (R508). -/
def PKG_SHARE.off (a b : Nat) : Nat := 0xc00 + a * 0x100 + b * 0x8

/-- Field FAB of PKG_SHARE. -/
def PKG_SHARE.FAB : Fld := ⟨63, 1⟩

/-- Field NSIZE of PKG_SHARE. -/
def PKG_SHARE.NSIZE : Fld := ⟨27, 7⟩

/-- Field NBASE of PKG_SHARE. -/
def PKG_SHARE.NBASE : Fld := ⟨20, 7⟩

/-- Field HSIZE of PKG_SHARE. -/
def PKG_SHARE.HSIZE : Fld := ⟨10, 10⟩

/-- Field HBASE of PKG_SHARE. -/
def PKG_SHARE.HBASE : Fld := ⟨0, 10⟩

/-- Offset of PKG_RST in CSR space (R528). -/
def PKG_RST.off : Nat := 0xe00

/-- Field OP of PKG_RST. -/
def PKG_RST.OP : Fld := ⟨60, 4⟩

/-- Offset of PKG_RSTCTL in CSR space (R528). -/
def PKG_RSTCTL.off : Nat := 0xe08

/-- Field AUTO of PKG_RSTCTL. -/
def PKG_RSTCTL.AUTO : Fld := ⟨63, 1⟩

/-- Field FWWD_EN of PKG_RSTCTL. -/
def PKG_RSTCTL.FWWD_EN : Fld := ⟨62, 1⟩

/-- Field FW_WD_MS of PKG_RSTCTL. -/
def PKG_RSTCTL.FW_WD_MS : Fld := ⟨0, 16⟩

/-- Offset of PKG_RST_STS in CSR space (R528). -/
def PKG_RST_STS.off : Nat := 0xe10

/-- Field CAUSE of PKG_RST_STS. -/
def PKG_RST_STS.CAUSE : Fld := ⟨60, 4⟩

/-- Field COUNT of PKG_RST_STS. -/
def PKG_RST_STS.COUNT : Fld := ⟨0, 16⟩

/-- Offset of PKG_RST_TIME in CSR space (R528). -/
def PKG_RST_TIME.off : Nat := 0xe18

/-- Field TIME of PKG_RST_TIME. -/
def PKG_RST_TIME.TIME : Fld := ⟨0, 64⟩

/-- Offset of PKG_DL_STS in CSR space (R581). -/
def PKG_DL_STS.off (a : Nat) : Nat := 0x1000 + a * 0x8

/-- Field STATE of PKG_DL_STS. -/
def PKG_DL_STS.STATE : Fld := ⟨60, 4⟩

/-- Field RATE of PKG_DL_STS. -/
def PKG_DL_STS.RATE : Fld := ⟨56, 4⟩

/-- Field MOD_FULL of PKG_DL_STS. -/
def PKG_DL_STS.MOD_FULL : Fld := ⟨40, 8⟩

/-- Field MOD_HALF of PKG_DL_STS. -/
def PKG_DL_STS.MOD_HALF : Fld := ⟨32, 8⟩

/-- Field REPAIRED of PKG_DL_STS. -/
def PKG_DL_STS.REPAIRED : Fld := ⟨24, 8⟩

/-- Field MOD_TOTAL of PKG_DL_STS. -/
def PKG_DL_STS.MOD_TOTAL : Fld := ⟨0, 6⟩

/-- Offset of PKG_DL_ERR in CSR space (R581). -/
def PKG_DL_ERR.off (a : Nat) : Nat := 0x1080 + a * 0x8

/-- Field RETRY of PKG_DL_ERR. -/
def PKG_DL_ERR.RETRY : Fld := ⟨48, 16⟩

/-- Field RETRAIN of PKG_DL_ERR. -/
def PKG_DL_ERR.RETRAIN : Fld := ⟨32, 16⟩

/-- Field CRC of PKG_DL_ERR. -/
def PKG_DL_ERR.CRC : Fld := ⟨0, 32⟩

/-- Offset of PKG_DL_CTL in CSR space (R581). -/
def PKG_DL_CTL.off : Nat := 0x1100

/-- Field RETRY_MAX of PKG_DL_CTL. -/
def PKG_DL_CTL.RETRY_MAX : Fld := ⟨56, 8⟩

/-- Field LANE_LIM of PKG_DL_CTL. -/
def PKG_DL_CTL.LANE_LIM : Fld := ⟨40, 16⟩

/-- Field MAXRATE of PKG_DL_CTL. -/
def PKG_DL_CTL.MAXRATE : Fld := ⟨32, 3⟩

/-- Offset of PKG_DL_CAP in CSR space (R571). -/
def PKG_DL_CAP.off (a : Nat) : Nat := 0x1120 + a * 0x8

/-- Field VENDOR of PKG_DL_CAP. -/
def PKG_DL_CAP.VENDOR : Fld := ⟨48, 16⟩

/-- Field KIND of PKG_DL_CAP. -/
def PKG_DL_CAP.KIND : Fld := ⟨40, 8⟩

/-- Field CLASSES of PKG_DL_CAP. -/
def PKG_DL_CAP.CLASSES : Fld := ⟨36, 4⟩

/-- Field MVER of PKG_DL_CAP. -/
def PKG_DL_CAP.MVER : Fld := ⟨32, 4⟩

/-- Field CAP of PKG_DL_CAP. -/
def PKG_DL_CAP.CAP : Fld := ⟨16, 16⟩

/-- Field CHAN of PKG_DL_CAP. -/
def PKG_DL_CAP.CHAN : Fld := ⟨8, 8⟩

/-- Field LAT of PKG_DL_CAP. -/
def PKG_DL_CAP.LAT : Fld := ⟨0, 8⟩

/-- Offset of PKG_MOD_ID in CSR space (R662). -/
def PKG_MOD_ID.off : Nat := 0x1200

/-- Field BOARD_REV of PKG_MOD_ID. -/
def PKG_MOD_ID.BOARD_REV : Fld := ⟨16, 8⟩

/-- Field READY_PIN of PKG_MOD_ID. -/
def PKG_MOD_ID.READY_PIN : Fld := ⟨4, 1⟩

/-- Field SLOT_ID of PKG_MOD_ID. -/
def PKG_MOD_ID.SLOT_ID : Fld := ⟨0, 4⟩

/-- Offset of PKG_ALERT in CSR space (R663). -/
def PKG_ALERT.off : Nat := 0x1208

/-- Field MASK1 of PKG_ALERT. -/
def PKG_ALERT.MASK1 : Fld := ⟨16, 4⟩

/-- Field MASK0 of PKG_ALERT. -/
def PKG_ALERT.MASK0 : Fld := ⟨8, 4⟩

/-- Field TRIP of PKG_ALERT. -/
def PKG_ALERT.TRIP : Fld := ⟨3, 1⟩

/-- Field SERVICE of PKG_ALERT. -/
def PKG_ALERT.SERVICE : Fld := ⟨2, 1⟩

/-- Field LOUVRE of PKG_ALERT. -/
def PKG_ALERT.LOUVRE : Fld := ⟨1, 1⟩

/-- Field SEV3 of PKG_ALERT. -/
def PKG_ALERT.SEV3 : Fld := ⟨0, 1⟩

/-- Offset of HST_FN_STS in CSR space (R483). -/
def HST_FN_STS.off (a b : Nat) : Nat := 0x10000 + a * 0x4000 + b * 0x200

/-- Field CTXN of HST_FN_STS. -/
def HST_FN_STS.CTXN : Fld := ⟨8, 7⟩

/-- Field RDY of HST_FN_STS. -/
def HST_FN_STS.RDY : Fld := ⟨0, 1⟩

/-- Offset of HST_EQ_BASE in CSR space (R483). -/
def HST_EQ_BASE.off (a b : Nat) : Nat := 0x10008 + a * 0x4000 + b * 0x200

/-- Field BASE of HST_EQ_BASE. -/
def HST_EQ_BASE.BASE : Fld := ⟨12, 52⟩

/-- Offset of HST_EQ_CFG in CSR space (R483). -/
def HST_EQ_CFG.off (a b : Nat) : Nat := 0x10010 + a * 0x4000 + b * 0x200

/-- Field EN of HST_EQ_CFG. -/
def HST_EQ_CFG.EN : Fld := ⟨63, 1⟩

/-- Field VEC of HST_EQ_CFG. -/
def HST_EQ_CFG.VEC : Fld := ⟨16, 4⟩

/-- Field SIZE of HST_EQ_CFG. -/
def HST_EQ_CFG.SIZE : Fld := ⟨0, 12⟩

/-- Offset of HST_EQ_HEAD in CSR space (R483). -/
def HST_EQ_HEAD.off (a b : Nat) : Nat := 0x10018 + a * 0x4000 + b * 0x200

/-- Field HEAD of HST_EQ_HEAD. -/
def HST_EQ_HEAD.HEAD : Fld := ⟨0, 12⟩

/-- Offset of HST_EQ_LOST in CSR space (R483). -/
def HST_EQ_LOST.off (a b : Nat) : Nat := 0x10020 + a * 0x4000 + b * 0x200

/-- Field COUNT of HST_EQ_LOST. -/
def HST_EQ_LOST.COUNT : Fld := ⟨0, 32⟩

/-- Offset of HST_SQ_BASE in CSR space (R483). -/
def HST_SQ_BASE.off (a b c : Nat) : Nat := 0x10040 + a * 0x4000 + b * 0x200 + c * 0x30

/-- Field BASE of HST_SQ_BASE. -/
def HST_SQ_BASE.BASE : Fld := ⟨12, 52⟩

/-- Offset of HST_SQ_CFG in CSR space (R483). -/
def HST_SQ_CFG.off (a b c : Nat) : Nat := 0x10048 + a * 0x4000 + b * 0x200 + c * 0x30

/-- Field EN of HST_SQ_CFG. -/
def HST_SQ_CFG.EN : Fld := ⟨63, 1⟩

/-- Field SIZE of HST_SQ_CFG. -/
def HST_SQ_CFG.SIZE : Fld := ⟨0, 12⟩

/-- Offset of HST_SQ_TAIL in CSR space (R483). -/
def HST_SQ_TAIL.off (a b c : Nat) : Nat := 0x10050 + a * 0x4000 + b * 0x200 + c * 0x30

/-- Field TAIL of HST_SQ_TAIL. -/
def HST_SQ_TAIL.TAIL : Fld := ⟨0, 12⟩

/-- Offset of HST_CQ_BASE in CSR space (R483). -/
def HST_CQ_BASE.off (a b c : Nat) : Nat := 0x10058 + a * 0x4000 + b * 0x200 + c * 0x30

/-- Field BASE of HST_CQ_BASE. -/
def HST_CQ_BASE.BASE : Fld := ⟨12, 52⟩

/-- Offset of HST_CQ_CFG in CSR space (R483). -/
def HST_CQ_CFG.off (a b c : Nat) : Nat := 0x10060 + a * 0x4000 + b * 0x200 + c * 0x30

/-- Field EN of HST_CQ_CFG. -/
def HST_CQ_CFG.EN : Fld := ⟨63, 1⟩

/-- Field VEC of HST_CQ_CFG. -/
def HST_CQ_CFG.VEC : Fld := ⟨16, 4⟩

/-- Field SIZE of HST_CQ_CFG. -/
def HST_CQ_CFG.SIZE : Fld := ⟨0, 12⟩

/-- Offset of HST_CQ_HEAD in CSR space (R483). -/
def HST_CQ_HEAD.off (a b c : Nat) : Nat := 0x10068 + a * 0x4000 + b * 0x200 + c * 0x30

/-- Field HEAD of HST_CQ_HEAD. -/
def HST_CQ_HEAD.HEAD : Fld := ⟨0, 12⟩

/-- Offset of HST_PORT_CFG in CSR space (R485). -/
def HST_PORT_CFG.off (a : Nat) : Nat := 0x18000 + a * 0x100

/-- Field CTX_MAX of HST_PORT_CFG. -/
def HST_PORT_CFG.CTX_MAX : Fld := ⟨16, 6⟩

/-- Field TOTALVF of HST_PORT_CFG. -/
def HST_PORT_CFG.TOTALVF : Fld := ⟨8, 5⟩

/-- Field MAXGEN of HST_PORT_CFG. -/
def HST_PORT_CFG.MAXGEN : Fld := ⟨1, 3⟩

/-- Field BIF of HST_PORT_CFG. -/
def HST_PORT_CFG.BIF : Fld := ⟨0, 1⟩

/-- Offset of HST_PORT_STS in CSR space (R485). -/
def HST_PORT_STS.off (a : Nat) : Nat := 0x18008 + a * 0x100

/-- Field CTX_HELD of HST_PORT_STS. -/
def HST_PORT_STS.CTX_HELD : Fld := ⟨24, 6⟩

/-- Field LINK_B of HST_PORT_STS. -/
def HST_PORT_STS.LINK_B : Fld := ⟨16, 8⟩

/-- Field LINK_A of HST_PORT_STS. -/
def HST_PORT_STS.LINK_A : Fld := ⟨0, 8⟩

/-- Offset of CTX_NUMCTL in CSR space (R78). -/
def CTX_NUMCTL.off (a : Nat) : Nat := 0x200a0 + a * 0x1000

/-- Field ACC_RND of CTX_NUMCTL. -/
def CTX_NUMCTL.ACC_RND : Fld := ⟨8, 2⟩

/-- Field CVT_RND of CTX_NUMCTL. -/
def CTX_NUMCTL.CVT_RND : Fld := ⟨6, 2⟩

/-- Field CVT_SAT of CTX_NUMCTL. -/
def CTX_NUMCTL.CVT_SAT : Fld := ⟨5, 1⟩

/-- Field OVF_MODE of CTX_NUMCTL. -/
def CTX_NUMCTL.OVF_MODE : Fld := ⟨4, 1⟩

/-- Offset of CTX_NUMSTS in CSR space (R80). -/
def CTX_NUMSTS.off (a : Nat) : Nat := 0x200a8 + a * 0x1000

/-- Field REPLAY_COUNT of CTX_NUMSTS. -/
def CTX_NUMSTS.REPLAY_COUNT : Fld := ⟨48, 16⟩

/-- Field LAST_SHIFT of CTX_NUMSTS. -/
def CTX_NUMSTS.LAST_SHIFT : Fld := ⟨40, 8⟩

/-- Field SAT_HIT of CTX_NUMSTS. -/
def CTX_NUMSTS.SAT_HIT : Fld := ⟨4, 1⟩

/-- Field NAN_GEN of CTX_NUMSTS. -/
def CTX_NUMSTS.NAN_GEN : Fld := ⟨3, 1⟩

/-- Field OVF_INF of CTX_NUMSTS. -/
def CTX_NUMSTS.OVF_INF : Fld := ⟨2, 1⟩

/-- Field REPLAY_HIT of CTX_NUMSTS. -/
def CTX_NUMSTS.REPLAY_HIT : Fld := ⟨1, 1⟩

/-- Field REPLAY_MAX of CTX_NUMSTS. -/
def CTX_NUMSTS.REPLAY_MAX : Fld := ⟨0, 1⟩

/-- Offset of CTX_MXCTL in CSR space (R188). -/
def CTX_MXCTL.off (a : Nat) : Nat := 0x200b0 + a * 0x1000

/-- Field XREPLAY of CTX_MXCTL. -/
def CTX_MXCTL.XREPLAY : Fld := ⟨0, 1⟩

/-- Offset of CTX_MXSTS in CSR space (R189). -/
def CTX_MXSTS.off (a : Nat) : Nat := 0x200b8 + a * 0x1000

/-- Field UNCHECKED of CTX_MXSTS. -/
def CTX_MXSTS.UNCHECKED : Fld := ⟨32, 32⟩

/-- Field MISMATCH_COUNT of CTX_MXSTS. -/
def CTX_MXSTS.MISMATCH_COUNT : Fld := ⟨16, 16⟩

/-- Field SUSPECT_LANDED of CTX_MXSTS. -/
def CTX_MXSTS.SUSPECT_LANDED : Fld := ⟨2, 1⟩

/-- Field XREPLAY_HIT of CTX_MXSTS. -/
def CTX_MXSTS.XREPLAY_HIT : Fld := ⟨1, 1⟩

/-- Field MISMATCH of CTX_MXSTS. -/
def CTX_MXSTS.MISMATCH : Fld := ⟨0, 1⟩

/-- Offset of CTX_FAULT_INFO in CSR space (R156). -/
def CTX_FAULT_INFO.off (a : Nat) : Nat := 0x200c0 + a * 0x1000

/-- Field VALID of CTX_FAULT_INFO. -/
def CTX_FAULT_INFO.VALID : Fld := ⟨63, 1⟩

/-- Field CODE of CTX_FAULT_INFO. -/
def CTX_FAULT_INFO.CODE : Fld := ⟨48, 8⟩

/-- Field CLS of CTX_FAULT_INFO. -/
def CTX_FAULT_INFO.CLS : Fld := ⟨44, 4⟩

/-- Field OP of CTX_FAULT_INFO. -/
def CTX_FAULT_INFO.OP : Fld := ⟨36, 8⟩

/-- Field UNIT of CTX_FAULT_INFO. -/
def CTX_FAULT_INFO.UNIT : Fld := ⟨0, 32⟩

/-- Offset of CTX_FAULT_PC in CSR space (R157). -/
def CTX_FAULT_PC.off (a : Nat) : Nat := 0x200c8 + a * 0x1000

/-- Field PC of CTX_FAULT_PC. -/
def CTX_FAULT_PC.PC : Fld := ⟨0, 48⟩

/-- Offset of CTX_FAULT_ADDR in CSR space (R157). -/
def CTX_FAULT_ADDR.off (a : Nat) : Nat := 0x200d0 + a * 0x1000

/-- Field ADDR of CTX_FAULT_ADDR. -/
def CTX_FAULT_ADDR.ADDR : Fld := ⟨0, 64⟩

/-- Offset of CTX_FAULT_TIME in CSR space (R157). -/
def CTX_FAULT_TIME.off (a : Nat) : Nat := 0x200d8 + a * 0x1000

/-- Field TIME of CTX_FAULT_TIME. -/
def CTX_FAULT_TIME.TIME : Fld := ⟨0, 64⟩

/-- Offset of CTX_FAULT_CNT in CSR space (R157). -/
def CTX_FAULT_CNT.off (a : Nat) : Nat := 0x200e0 + a * 0x1000

/-- Field MORE of CTX_FAULT_CNT. -/
def CTX_FAULT_CNT.MORE : Fld := ⟨0, 16⟩

/-- Offset of CTX_VXSTS in CSR space (R229). -/
def CTX_VXSTS.off (a : Nat) : Nat := 0x200e8 + a * 0x1000

/-- Field EMPTY_COUNT of CTX_VXSTS. -/
def CTX_VXSTS.EMPTY_COUNT : Fld := ⟨32, 32⟩

/-- Field COUNT_SAT of CTX_VXSTS. -/
def CTX_VXSTS.COUNT_SAT : Fld := ⟨1, 1⟩

/-- Field EMPTY of CTX_VXSTS. -/
def CTX_VXSTS.EMPTY : Fld := ⟨0, 1⟩

/-- Offset of CTX_STRM_USE in CSR space (R266). -/
def CTX_STRM_USE.off (a : Nat) : Nat := 0x20140 + a * 0x1000

/-- Field PEAK of CTX_STRM_USE. -/
def CTX_STRM_USE.PEAK : Fld := ⟨32, 17⟩

/-- Field INUSE of CTX_STRM_USE. -/
def CTX_STRM_USE.INUSE : Fld := ⟨0, 17⟩

/-- Offset of CTX_UPD_TBL in CSR space (R274). -/
def CTX_UPD_TBL.off (a : Nat) : Nat := 0x20180 + a * 0x1000

/-- Field NBLK of CTX_UPD_TBL. -/
def CTX_UPD_TBL.NBLK : Fld := ⟨48, 15⟩

/-- Field BASE of CTX_UPD_TBL. -/
def CTX_UPD_TBL.BASE : Fld := ⟨12, 36⟩

/-- Offset of CTX_UPD_EV in CSR space (R309). -/
def CTX_UPD_EV.off (a : Nat) : Nat := 0x20188 + a * 0x1000

/-- Field EN of CTX_UPD_EV. -/
def CTX_UPD_EV.EN : Fld := ⟨63, 1⟩

/-- Field DIE of CTX_UPD_EV. -/
def CTX_UPD_EV.DIE : Fld := ⟨60, 2⟩

/-- Field CLUSTER of CTX_UPD_EV. -/
def CTX_UPD_EV.CLUSTER : Fld := ⟨56, 4⟩

/-- Field CORE of CTX_UPD_EV. -/
def CTX_UPD_EV.CORE : Fld := ⟨53, 3⟩

/-- Field EV0 of CTX_UPD_EV. -/
def CTX_UPD_EV.EV0 : Fld := ⟨40, 8⟩

/-- Field EVL of CTX_UPD_EV. -/
def CTX_UPD_EV.EVL : Fld := ⟨32, 8⟩

/-- Offset of CTX_UPD_GATE in CSR space (R296). -/
def CTX_UPD_GATE.off (a : Nat) : Nat := 0x20190 + a * 0x1000

/-- Field CLIP of CTX_UPD_GATE. -/
def CTX_UPD_GATE.CLIP : Fld := ⟨32, 32⟩

/-- Field NORM_MAX of CTX_UPD_GATE. -/
def CTX_UPD_GATE.NORM_MAX : Fld := ⟨0, 32⟩

/-- Offset of CTX_UPD_SPIKE in CSR space (R296). -/
def CTX_UPD_SPIKE.off (a : Nat) : Nat := 0x20198 + a * 0x1000

/-- Field SPIKE_K of CTX_UPD_SPIKE. -/
def CTX_UPD_SPIKE.SPIKE_K : Fld := ⟨32, 32⟩

/-- Field WARM of CTX_UPD_SPIKE. -/
def CTX_UPD_SPIKE.WARM : Fld := ⟨0, 16⟩

/-- Offset of CTX_STEP_CMT in CSR space (R289). -/
def CTX_STEP_CMT.off (a : Nat) : Nat := 0x201a0 + a * 0x1000

/-- Field NEXT of CTX_STEP_CMT. -/
def CTX_STEP_CMT.NEXT : Fld := ⟨48, 4⟩

/-- Field STEP of CTX_STEP_CMT. -/
def CTX_STEP_CMT.STEP : Fld := ⟨0, 48⟩

/-- Offset of CTX_STEP_APL in CSR space (R289). -/
def CTX_STEP_APL.off (a : Nat) : Nat := 0x201a8 + a * 0x1000

/-- Field STEP of CTX_STEP_APL. -/
def CTX_STEP_APL.STEP : Fld := ⟨0, 48⟩

/-- Offset of CTX_UPD_NORM in CSR space (R296). -/
def CTX_UPD_NORM.off (a : Nat) : Nat := 0x201b0 + a * 0x1000

/-- Field G of CTX_UPD_NORM. -/
def CTX_UPD_NORM.G : Fld := ⟨32, 32⟩

/-- Field C of CTX_UPD_NORM. -/
def CTX_UPD_NORM.C : Fld := ⟨0, 32⟩

/-- Offset of CTX_UPD_AVG in CSR space (R296). -/
def CTX_UPD_AVG.off (a : Nat) : Nat := 0x201b8 + a * 0x1000

/-- Field ACCEPTED of CTX_UPD_AVG. -/
def CTX_UPD_AVG.ACCEPTED : Fld := ⟨32, 16⟩

/-- Field A of CTX_UPD_AVG. -/
def CTX_UPD_AVG.A : Fld := ⟨0, 32⟩

/-- Offset of CTX_UPD_STS in CSR space (R311). -/
def CTX_UPD_STS.off (a : Nat) : Nat := 0x201c0 + a * 0x1000

/-- Field SKIP_COUNT of CTX_UPD_STS. -/
def CTX_UPD_STS.SKIP_COUNT : Fld := ⟨48, 16⟩

/-- Field POISON_COUNT of CTX_UPD_STS. -/
def CTX_UPD_STS.POISON_COUNT : Fld := ⟨32, 16⟩

/-- Field SAT of CTX_UPD_STS. -/
def CTX_UPD_STS.SAT : Fld := ⟨6, 1⟩

/-- Field NONFINITE_OUT of CTX_UPD_STS. -/
def CTX_UPD_STS.NONFINITE_OUT : Fld := ⟨5, 1⟩

/-- Field BADDESC of CTX_UPD_STS. -/
def CTX_UPD_STS.BADDESC : Fld := ⟨4, 1⟩

/-- Field GATE_SPIKE of CTX_UPD_STS. -/
def CTX_UPD_STS.GATE_SPIKE : Fld := ⟨3, 1⟩

/-- Field GATE_MAX of CTX_UPD_STS. -/
def CTX_UPD_STS.GATE_MAX : Fld := ⟨2, 1⟩

/-- Field GATE_NONFINITE of CTX_UPD_STS. -/
def CTX_UPD_STS.GATE_NONFINITE : Fld := ⟨1, 1⟩

/-- Offset of CTX_UPD_CMD in CSR space (R306). -/
def CTX_UPD_CMD.off (a : Nat) : Nat := 0x201c8 + a * 0x1000

/-- Field OP of CTX_UPD_CMD. -/
def CTX_UPD_CMD.OP : Fld := ⟨60, 4⟩

/-- Field BLOCK of CTX_UPD_CMD. -/
def CTX_UPD_CMD.BLOCK : Fld := ⟨0, 15⟩

/-- Offset of CTX_UPD_CMDSTS in CSR space (R306). -/
def CTX_UPD_CMDSTS.off (a : Nat) : Nat := 0x201d0 + a * 0x1000

/-- Field BUSY of CTX_UPD_CMDSTS. -/
def CTX_UPD_CMDSTS.BUSY : Fld := ⟨63, 1⟩

/-- Field DONE of CTX_UPD_CMDSTS. -/
def CTX_UPD_CMDSTS.DONE : Fld := ⟨62, 1⟩

/-- Field MISMATCH of CTX_UPD_CMDSTS. -/
def CTX_UPD_CMDSTS.MISMATCH : Fld := ⟨0, 32⟩

/-- Offset of CTX_EXP_TBL in CSR space (R342). -/
def CTX_EXP_TBL.off (a : Nat) : Nat := 0x201d8 + a * 0x1000

/-- Field COUNT of CTX_EXP_TBL. -/
def CTX_EXP_TBL.COUNT : Fld := ⟨48, 13⟩

/-- Field BASE of CTX_EXP_TBL. -/
def CTX_EXP_TBL.BASE : Fld := ⟨4, 44⟩

/-- Offset of CTX_VHOLD in CSR space (R327). -/
def CTX_VHOLD.off (a : Nat) : Nat := 0x201e0 + a * 0x1000

/-- Field OP of CTX_VHOLD. -/
def CTX_VHOLD.OP : Fld := ⟨62, 2⟩

/-- Field OWNER of CTX_VHOLD. -/
def CTX_VHOLD.OWNER : Fld := ⟨56, 6⟩

/-- Field TAG of CTX_VHOLD. -/
def CTX_VHOLD.TAG : Fld := ⟨0, 8⟩

/-- Offset of CTX_VHOLD_USE in CSR space (R327). -/
def CTX_VHOLD_USE.off (a : Nat) : Nat := 0x201e8 + a * 0x1000

/-- Field ENTRIES of CTX_VHOLD_USE. -/
def CTX_VHOLD_USE.ENTRIES : Fld := ⟨0, 11⟩

/-- Offset of CTX_VTAG in CSR space (R327). -/
def CTX_VTAG.off (a : Nat) : Nat := 0x201f0 + a * 0x1000

/-- Field KEEP of CTX_VTAG. -/
def CTX_VTAG.KEEP : Fld := ⟨8, 3⟩

/-- Field TAG of CTX_VTAG. -/
def CTX_VTAG.TAG : Fld := ⟨0, 8⟩

/-- Offset of CTX_VER_SHARE in CSR space (R327). -/
def CTX_VER_SHARE.off (a : Nat) : Nat := 0x201f8 + a * 0x1000

/-- Field MASK of CTX_VER_SHARE. -/
def CTX_VER_SHARE.MASK : Fld := ⟨0, 64⟩

/-- Offset of CTX_COL_CTL in CSR space (R457). -/
def CTX_COL_CTL.off (a : Nat) : Nat := 0x20700 + a * 0x1000

/-- Field CMT_EN of CTX_COL_CTL. -/
def CTX_COL_CTL.CMT_EN : Fld := ⟨63, 1⟩

/-- Field CMT_GRP of CTX_COL_CTL. -/
def CTX_COL_CTL.CMT_GRP : Fld := ⟨56, 4⟩

/-- Field WDOG_US of CTX_COL_CTL. -/
def CTX_COL_CTL.WDOG_US : Fld := ⟨0, 32⟩

/-- Offset of CTX_COL_STS in CSR space (R465). -/
def CTX_COL_STS.off (a : Nat) : Nat := 0x20708 + a * 0x1000

/-- Field FAIL_RANK of CTX_COL_STS. -/
def CTX_COL_STS.FAIL_RANK : Fld := ⟨48, 15⟩

/-- Field FAIL_REASON of CTX_COL_STS. -/
def CTX_COL_STS.FAIL_REASON : Fld := ⟨44, 4⟩

/-- Field CFGERR of CTX_COL_STS. -/
def CTX_COL_STS.CFGERR : Fld := ⟨7, 1⟩

/-- Field BUSYWR of CTX_COL_STS. -/
def CTX_COL_STS.BUSYWR : Fld := ⟨6, 1⟩

/-- Field STALL of CTX_COL_STS. -/
def CTX_COL_STS.STALL : Fld := ⟨5, 1⟩

/-- Field PARKED of CTX_COL_STS. -/
def CTX_COL_STS.PARKED : Fld := ⟨4, 1⟩

/-- Field ABORTED of CTX_COL_STS. -/
def CTX_COL_STS.ABORTED : Fld := ⟨3, 1⟩

/-- Field PEER_DOWN of CTX_COL_STS. -/
def CTX_COL_STS.PEER_DOWN : Fld := ⟨2, 1⟩

/-- Field CORRUPT of CTX_COL_STS. -/
def CTX_COL_STS.CORRUPT : Fld := ⟨1, 1⟩

/-- Field FAIL of CTX_COL_STS. -/
def CTX_COL_STS.FAIL : Fld := ⟨0, 1⟩

/-- Offset of CTX_COL_STALL in CSR space (R465). -/
def CTX_COL_STALL.off (a : Nat) : Nat := 0x20710 + a * 0x1000

/-- Field CAUSE of CTX_COL_STALL. -/
def CTX_COL_STALL.CAUSE : Fld := ⟨60, 4⟩

/-- Field GRP of CTX_COL_STALL. -/
def CTX_COL_STALL.GRP : Fld := ⟨56, 4⟩

/-- Field EPOCH of CTX_COL_STALL. -/
def CTX_COL_STALL.EPOCH : Fld := ⟨40, 16⟩

/-- Field RANK of CTX_COL_STALL. -/
def CTX_COL_STALL.RANK : Fld := ⟨24, 15⟩

/-- Field WAIT_US of CTX_COL_STALL. -/
def CTX_COL_STALL.WAIT_US : Fld := ⟨0, 24⟩

/-- Offset of CTX_HANG in CSR space (R512). -/
def CTX_HANG.off (a : Nat) : Nat := 0x20720 + a * 0x1000

/-- Field EN of CTX_HANG. -/
def CTX_HANG.EN : Fld := ⟨63, 1⟩

/-- Field LIMIT_MS of CTX_HANG. -/
def CTX_HANG.LIMIT_MS : Fld := ⟨0, 32⟩

/-- Offset of CTX_SAMPLE in CSR space (R518). -/
def CTX_SAMPLE.off (a : Nat) : Nat := 0x20728 + a * 0x1000

/-- Field EN of CTX_SAMPLE. -/
def CTX_SAMPLE.EN : Fld := ⟨63, 1⟩

/-- Field NCORE of CTX_SAMPLE. -/
def CTX_SAMPLE.NCORE : Fld := ⟨56, 3⟩

/-- Field WIN of CTX_SAMPLE. -/
def CTX_SAMPLE.WIN : Fld := ⟨48, 8⟩

/-- Field ADDR of CTX_SAMPLE. -/
def CTX_SAMPLE.ADDR : Fld := ⟨12, 36⟩

/-- Field OFF of CTX_SAMPLE. -/
def CTX_SAMPLE.OFF : Fld := ⟨0, 9⟩

/-- Offset of CTX_HATCH in CSR space (R522). -/
def CTX_HATCH.off (a : Nat) : Nat := 0x20730 + a * 0x1000

/-- Field REASON of CTX_HATCH. -/
def CTX_HATCH.REASON : Fld := ⟨60, 4⟩

/-- Field SAMPLED of CTX_HATCH. -/
def CTX_HATCH.SAMPLED : Fld := ⟨59, 1⟩

/-- Field COUNT of CTX_HATCH. -/
def CTX_HATCH.COUNT : Fld := ⟨32, 16⟩

/-- Field UNIT of CTX_HATCH. -/
def CTX_HATCH.UNIT : Fld := ⟨0, 32⟩

/-- Offset of CTX_HATCH_TIME in CSR space (R522). -/
def CTX_HATCH_TIME.off (a : Nat) : Nat := 0x20738 + a * 0x1000

/-- Field TIME of CTX_HATCH_TIME. -/
def CTX_HATCH_TIME.TIME : Fld := ⟨0, 64⟩

/-- Offset of CTX_PERM in CSR space (R639). -/
def CTX_PERM.off (a : Nat) : Nat := 0x20800 + a * 0x1000

/-- Field PMC_USER of CTX_PERM. -/
def CTX_PERM.PMC_USER : Fld := ⟨0, 1⟩

/-- Offset of CTX_PHASE in CSR space (R644). -/
def CTX_PHASE.off (a : Nat) : Nat := 0x20808 + a * 0x1000

/-- Field OP of CTX_PHASE. -/
def CTX_PHASE.OP : Fld := ⟨62, 2⟩

/-- Field TAG of CTX_PHASE. -/
def CTX_PHASE.TAG : Fld := ⟨0, 4⟩

/-- Offset of CTX_BG_MASK in CSR space (R107). -/
def CTX_BG_MASK.off (a b : Nat) : Nat := 0x20100 + a * 0x1000 + b * 0x8

/-- Field VALID of CTX_BG_MASK. -/
def CTX_BG_MASK.VALID : Fld := ⟨63, 1⟩

/-- Field CLUSTERS of CTX_BG_MASK. -/
def CTX_BG_MASK.CLUSTERS : Fld := ⟨0, 48⟩

/-- Offset of CTX_HAL_CFG in CSR space (R316). -/
def CTX_HAL_CFG.off (a b : Nat) : Nat := 0x20200 + a * 0x1000 + b * 0x40

/-- Field EN of CTX_HAL_CFG. -/
def CTX_HAL_CFG.EN : Fld := ⟨63, 1⟩

/-- Field DIR of CTX_HAL_CFG. -/
def CTX_HAL_CFG.DIR : Fld := ⟨62, 1⟩

/-- Field PEER of CTX_HAL_CFG. -/
def CTX_HAL_CFG.PEER : Fld := ⟨47, 15⟩

/-- Field PEER_HAL of CTX_HAL_CFG. -/
def CTX_HAL_CFG.PEER_HAL : Fld := ⟨43, 4⟩

/-- Field PEER_CTX of CTX_HAL_CFG. -/
def CTX_HAL_CFG.PEER_CTX : Fld := ⟨37, 6⟩

/-- Field SLOTS of CTX_HAL_CFG. -/
def CTX_HAL_CFG.SLOTS : Fld := ⟨33, 4⟩

/-- Field SLOT_SZ of CTX_HAL_CFG. -/
def CTX_HAL_CFG.SLOT_SZ : Fld := ⟨16, 12⟩

/-- Offset of CTX_HAL_RING in CSR space (R316). -/
def CTX_HAL_RING.off (a b : Nat) : Nat := 0x20208 + a * 0x1000 + b * 0x40

/-- Field BASE of CTX_HAL_RING. -/
def CTX_HAL_RING.BASE : Fld := ⟨12, 36⟩

/-- Offset of CTX_HAL_EV in CSR space (R316). -/
def CTX_HAL_EV.off (a b : Nat) : Nat := 0x20210 + a * 0x1000 + b * 0x40

/-- Field EVE of CTX_HAL_EV. -/
def CTX_HAL_EV.EVE : Fld := ⟨63, 1⟩

/-- Field CC of CTX_HAL_EV. -/
def CTX_HAL_EV.CC : Fld := ⟨62, 1⟩

/-- Field DIE of CTX_HAL_EV. -/
def CTX_HAL_EV.DIE : Fld := ⟨60, 2⟩

/-- Field CLUSTER of CTX_HAL_EV. -/
def CTX_HAL_EV.CLUSTER : Fld := ⟨56, 4⟩

/-- Field CORE of CTX_HAL_EV. -/
def CTX_HAL_EV.CORE : Fld := ⟨53, 3⟩

/-- Field EV of CTX_HAL_EV. -/
def CTX_HAL_EV.EV : Fld := ⟨40, 8⟩

/-- Field EVINC of CTX_HAL_EV. -/
def CTX_HAL_EV.EVINC : Fld := ⟨32, 8⟩

/-- Offset of CTX_HAL_DOOR in CSR space (R316). -/
def CTX_HAL_DOOR.off (a b : Nat) : Nat := 0x20218 + a * 0x1000 + b * 0x40

/-- Field DESC of CTX_HAL_DOOR. -/
def CTX_HAL_DOOR.DESC : Fld := ⟨6, 42⟩

/-- Offset of CTX_HAL_REL in CSR space (R316). -/
def CTX_HAL_REL.off (a b : Nat) : Nat := 0x20220 + a * 0x1000 + b * 0x40

/-- Field N of CTX_HAL_REL. -/
def CTX_HAL_REL.N : Fld := ⟨0, 9⟩

/-- Offset of CTX_HAL_STS in CSR space (R316). -/
def CTX_HAL_STS.off (a b : Nat) : Nat := 0x20228 + a * 0x1000 + b * 0x40

/-- Field STATE of CTX_HAL_STS. -/
def CTX_HAL_STS.STATE : Fld := ⟨61, 3⟩

/-- Field ERR of CTX_HAL_STS. -/
def CTX_HAL_STS.ERR : Fld := ⟨56, 5⟩

/-- Field QFULL of CTX_HAL_STS. -/
def CTX_HAL_STS.QFULL : Fld := ⟨55, 1⟩

/-- Field QUEUED of CTX_HAL_STS. -/
def CTX_HAL_STS.QUEUED : Fld := ⟨48, 7⟩

/-- Field LEVEL of CTX_HAL_STS. -/
def CTX_HAL_STS.LEVEL : Fld := ⟨39, 9⟩

/-- Field RELERR of CTX_HAL_STS. -/
def CTX_HAL_STS.RELERR : Fld := ⟨38, 1⟩

/-- Field SEQ of CTX_HAL_STS. -/
def CTX_HAL_STS.SEQ : Fld := ⟨0, 32⟩

/-- Offset of CTX_HAL_WAIT in CSR space (R316). -/
def CTX_HAL_WAIT.off (a b : Nat) : Nat := 0x20230 + a * 0x1000 + b * 0x40

/-- Field NS of CTX_HAL_WAIT. -/
def CTX_HAL_WAIT.NS : Fld := ⟨0, 64⟩

/-- Offset of CTX_COL_GRP in CSR space (R424). -/
def CTX_COL_GRP.off (a b : Nat) : Nat := 0x20600 + a * 0x1000 + b * 0x10

/-- Field VALID of CTX_COL_GRP. -/
def CTX_COL_GRP.VALID : Fld := ⟨63, 1⟩

/-- Field AX0 of CTX_COL_GRP. -/
def CTX_COL_GRP.AX0 : Fld := ⟨60, 2⟩

/-- Field AX1 of CTX_COL_GRP. -/
def CTX_COL_GRP.AX1 : Fld := ⟨58, 2⟩

/-- Field AX2 of CTX_COL_GRP. -/
def CTX_COL_GRP.AX2 : Fld := ⟨56, 2⟩

/-- Field GKEY of CTX_COL_GRP. -/
def CTX_COL_GRP.GKEY : Fld := ⟨32, 16⟩

/-- Field NEXT_EPOCH of CTX_COL_GRP. -/
def CTX_COL_GRP.NEXT_EPOCH : Fld := ⟨16, 16⟩

/-- Field RANK of CTX_COL_GRP. -/
def CTX_COL_GRP.RANK : Fld := ⟨0, 15⟩

/-- Offset of CTX_COL_SUB in CSR space (R424). -/
def CTX_COL_SUB.off (a b : Nat) : Nat := 0x20608 + a * 0x1000 + b * 0x10

/-- Field FULL of CTX_COL_SUB. -/
def CTX_COL_SUB.FULL : Fld := ⟨63, 1⟩

/-- Field SIZE of CTX_COL_SUB. -/
def CTX_COL_SUB.SIZE : Fld := ⟨30, 15⟩

/-- Field LENZ of CTX_COL_SUB. -/
def CTX_COL_SUB.LENZ : Fld := ⟨25, 5⟩

/-- Field LENY of CTX_COL_SUB. -/
def CTX_COL_SUB.LENY : Fld := ⟨20, 5⟩

/-- Field LENX of CTX_COL_SUB. -/
def CTX_COL_SUB.LENX : Fld := ⟨15, 5⟩

/-- Field LOZ of CTX_COL_SUB. -/
def CTX_COL_SUB.LOZ : Fld := ⟨10, 5⟩

/-- Field LOY of CTX_COL_SUB. -/
def CTX_COL_SUB.LOY : Fld := ⟨5, 5⟩

/-- Field LOX of CTX_COL_SUB. -/
def CTX_COL_SUB.LOX : Fld := ⟨0, 5⟩

/-- Offset of FAB_CFG in CSR space (R382). -/
def FAB_CFG.off (a : Nat) : Nat := 0x60000 + a * 0x1000

/-- Field EN of FAB_CFG. -/
def FAB_CFG.EN : Fld := ⟨63, 1⟩

/-- Field LH of FAB_CFG. -/
def FAB_CFG.LH : Fld := ⟨62, 1⟩

/-- Field EXPV of FAB_CFG. -/
def FAB_CFG.EXPV : Fld := ⟨61, 1⟩

/-- Field EXP_ID of FAB_CFG. -/
def FAB_CFG.EXP_ID : Fld := ⟨46, 15⟩

/-- Field MINW of FAB_CFG. -/
def FAB_CFG.MINW : Fld := ⟨44, 2⟩

/-- Field RATE64 of FAB_CFG. -/
def FAB_CFG.RATE64 : Fld := ⟨43, 1⟩

/-- Field LDIS of FAB_CFG. -/
def FAB_CFG.LDIS : Fld := ⟨35, 8⟩

/-- Offset of FAB_STS in CSR space (R383). -/
def FAB_STS.off (a : Nat) : Nat := 0x60008 + a * 0x1000

/-- Field STATE of FAB_STS. -/
def FAB_STS.STATE : Fld := ⟨60, 4⟩

/-- Field CAUSE of FAB_STS. -/
def FAB_STS.CAUSE : Fld := ⟨56, 4⟩

/-- Field WIDTH of FAB_STS. -/
def FAB_STS.WIDTH : Fld := ⟨52, 4⟩

/-- Field TXW of FAB_STS. -/
def FAB_STS.TXW : Fld := ⟨48, 4⟩

/-- Field RATE of FAB_STS. -/
def FAB_STS.RATE : Fld := ⟨46, 2⟩

/-- Field PEER_GEN of FAB_STS. -/
def FAB_STS.PEER_GEN : Fld := ⟨44, 2⟩

/-- Field PEER_PORT of FAB_STS. -/
def FAB_STS.PEER_PORT : Fld := ⟨40, 4⟩

/-- Field PEER_DIR of FAB_STS. -/
def FAB_STS.PEER_DIR : Fld := ⟨37, 3⟩

/-- Field LH_ACT of FAB_STS. -/
def FAB_STS.LH_ACT : Fld := ⟨36, 1⟩

/-- Field PAIR_ACT of FAB_STS. -/
def FAB_STS.PAIR_ACT : Fld := ⟨35, 1⟩

/-- Field PEER_ID of FAB_STS. -/
def FAB_STS.PEER_ID : Fld := ⟨20, 15⟩

/-- Offset of FAB_LANE in CSR space (R383). -/
def FAB_LANE.off (a : Nat) : Nat := 0x60010 + a * 0x1000

/-- Field BAD of FAB_LANE. -/
def FAB_LANE.BAD : Fld := ⟨56, 8⟩

/-- Field OPEN of FAB_LANE. -/
def FAB_LANE.OPEN : Fld := ⟨48, 8⟩

/-- Field SHORT of FAB_LANE. -/
def FAB_LANE.SHORT : Fld := ⟨40, 8⟩

/-- Field POLINV of FAB_LANE. -/
def FAB_LANE.POLINV : Fld := ⟨32, 8⟩

/-- Field LMAP of FAB_LANE. -/
def FAB_LANE.LMAP : Fld := ⟨0, 24⟩

/-- Offset of FAB_CMD in CSR space (R384). -/
def FAB_CMD.off (a : Nat) : Nat := 0x60018 + a * 0x1000

/-- Field OP of FAB_CMD. -/
def FAB_CMD.OP : Fld := ⟨60, 4⟩

/-- Offset of FAB_ERRCNT in CSR space (R384). -/
def FAB_ERRCNT.off (a : Nat) : Nat := 0x60020 + a * 0x1000

/-- Field RETRY of FAB_ERRCNT. -/
def FAB_ERRCNT.RETRY : Fld := ⟨48, 16⟩

/-- Field UNCORR of FAB_ERRCNT. -/
def FAB_ERRCNT.UNCORR : Fld := ⟨32, 16⟩

/-- Field CORR of FAB_ERRCNT. -/
def FAB_ERRCNT.CORR : Fld := ⟨0, 32⟩

/-- Offset of FAB_ERRCTL in CSR space (R384). -/
def FAB_ERRCTL.off (a : Nat) : Nat := 0x60028 + a * 0x1000

/-- Field RETRY_MAX of FAB_ERRCTL. -/
def FAB_ERRCTL.RETRY_MAX : Fld := ⟨56, 8⟩

/-- Field FLAP_MAX of FAB_ERRCTL. -/
def FAB_ERRCTL.FLAP_MAX : Fld := ⟨48, 8⟩

/-- Field UNC_LIM of FAB_ERRCTL. -/
def FAB_ERRCTL.UNC_LIM : Fld := ⟨32, 16⟩

/-- Field LANE_LIM of FAB_ERRCTL. -/
def FAB_ERRCTL.LANE_LIM : Fld := ⟨16, 16⟩

/-- Offset of FAB_LHCFG in CSR space (R386). -/
def FAB_LHCFG.off (a : Nat) : Nat := 0x60030 + a * 0x1000

/-- Field PAIRV of FAB_LHCFG. -/
def FAB_LHCFG.PAIRV : Fld := ⟨63, 1⟩

/-- Field PAIR of FAB_LHCFG. -/
def FAB_LHCFG.PAIR : Fld := ⟨56, 4⟩

/-- Field SIZE of FAB_LHCFG. -/
def FAB_LHCFG.SIZE : Fld := ⟨48, 8⟩

/-- Field WBASE of FAB_LHCFG. -/
def FAB_LHCFG.WBASE : Fld := ⟨21, 27⟩

/-- Offset of FAB_LHQ in CSR space (R386). -/
def FAB_LHQ.off (a : Nat) : Nat := 0x60038 + a * 0x1000

/-- Field QBASE of FAB_LHQ. -/
def FAB_LHQ.QBASE : Fld := ⟨21, 27⟩

/-- Offset of FAB_EVT in CSR space (R386). -/
def FAB_EVT.off (a : Nat) : Nat := 0x60040 + a * 0x1000

/-- Field LH_REFUSED of FAB_EVT. -/
def FAB_EVT.LH_REFUSED : Fld := ⟨7, 1⟩

/-- Field PAIR_LOST of FAB_EVT. -/
def FAB_EVT.PAIR_LOST : Fld := ⟨6, 1⟩

/-- Field FLAP of FAB_EVT. -/
def FAB_EVT.FLAP : Fld := ⟨5, 1⟩

/-- Field SHUT of FAB_EVT. -/
def FAB_EVT.SHUT : Fld := ⟨4, 1⟩

/-- Field DOWN of FAB_EVT. -/
def FAB_EVT.DOWN : Fld := ⟨3, 1⟩

/-- Field DEGRADED of FAB_EVT. -/
def FAB_EVT.DEGRADED : Fld := ⟨2, 1⟩

/-- Field LANE_FIX of FAB_EVT. -/
def FAB_EVT.LANE_FIX : Fld := ⟨1, 1⟩

/-- Field TRAINED of FAB_EVT. -/
def FAB_EVT.TRAINED : Fld := ⟨0, 1⟩

/-- Offset of FAB_RTT in CSR space (R386). -/
def FAB_RTT.off (a : Nat) : Nat := 0x60048 + a * 0x1000

/-- Field NS of FAB_RTT. -/
def FAB_RTT.NS : Fld := ⟨0, 32⟩

/-- Offset of ROUTE_DIMS in CSR space (R389). -/
def ROUTE_DIMS.off : Nat := 0x70000

/-- Field VALID of ROUTE_DIMS. -/
def ROUTE_DIMS.VALID : Fld := ⟨63, 1⟩

/-- Field ORDER of ROUTE_DIMS. -/
def ROUTE_DIMS.ORDER : Fld := ⟨36, 3⟩

/-- Field WZ of ROUTE_DIMS. -/
def ROUTE_DIMS.WZ : Fld := ⟨35, 1⟩

/-- Field WY of ROUTE_DIMS. -/
def ROUTE_DIMS.WY : Fld := ⟨34, 1⟩

/-- Field WX of ROUTE_DIMS. -/
def ROUTE_DIMS.WX : Fld := ⟨33, 1⟩

/-- Field NZ of ROUTE_DIMS. -/
def ROUTE_DIMS.NZ : Fld := ⟨25, 5⟩

/-- Field NY of ROUTE_DIMS. -/
def ROUTE_DIMS.NY : Fld := ⟨20, 5⟩

/-- Field NX of ROUTE_DIMS. -/
def ROUTE_DIMS.NX : Fld := ⟨15, 5⟩

/-- Field SELF of ROUTE_DIMS. -/
def ROUTE_DIMS.SELF : Fld := ⟨0, 15⟩

/-- Offset of ROUTE_SLICE in CSR space (R391). -/
def ROUTE_SLICE.off : Nat := 0x70008

/-- Field VALID of ROUTE_SLICE. -/
def ROUTE_SLICE.VALID : Fld := ⟨63, 1⟩

/-- Field PERM of ROUTE_SLICE. -/
def ROUTE_SLICE.PERM : Fld := ⟨32, 3⟩

/-- Field EZ of ROUTE_SLICE. -/
def ROUTE_SLICE.EZ : Fld := ⟨25, 5⟩

/-- Field EY of ROUTE_SLICE. -/
def ROUTE_SLICE.EY : Fld := ⟨20, 5⟩

/-- Field EX of ROUTE_SLICE. -/
def ROUTE_SLICE.EX : Fld := ⟨15, 5⟩

/-- Field OZ of ROUTE_SLICE. -/
def ROUTE_SLICE.OZ : Fld := ⟨10, 5⟩

/-- Field OY of ROUTE_SLICE. -/
def ROUTE_SLICE.OY : Fld := ⟨5, 5⟩

/-- Field OX of ROUTE_SLICE. -/
def ROUTE_SLICE.OX : Fld := ⟨0, 5⟩

/-- Offset of ROUTE_RING in CSR space (R395). -/
def ROUTE_RING.off (a : Nat) : Nat := 0x70010 + a * 0x8

/-- Field FOLD of ROUTE_RING. -/
def ROUTE_RING.FOLD : Fld := ⟨63, 1⟩

/-- Field PREV of ROUTE_RING. -/
def ROUTE_RING.PREV : Fld := ⟨35, 15⟩

/-- Field NEXT of ROUTE_RING. -/
def ROUTE_RING.NEXT : Fld := ⟨20, 15⟩

/-- Field POS of ROUTE_RING. -/
def ROUTE_RING.POS : Fld := ⟨0, 5⟩

/-- Offset of ROUTE_CTL in CSR space (R410). -/
def ROUTE_CTL.off : Nat := 0x70040

/-- Field TMO of ROUTE_CTL. -/
def ROUTE_CTL.TMO : Fld := ⟨0, 16⟩

/-- Offset of ROUTE_STS in CSR space (R423). -/
def ROUTE_STS.off : Nat := 0x70048

/-- Field DUP of ROUTE_STS. -/
def ROUTE_STS.DUP : Fld := ⟨48, 16⟩

/-- Field GAP of ROUTE_STS. -/
def ROUTE_STS.GAP : Fld := ⟨32, 16⟩

/-- Field UNREACH of ROUTE_STS. -/
def ROUTE_STS.UNREACH : Fld := ⟨16, 16⟩

/-- Field DETOURS of ROUTE_STS. -/
def ROUTE_STS.DETOURS : Fld := ⟨0, 16⟩

/-- Offset of ROUTE_DET in CSR space (R414). -/
def ROUTE_DET.off (a : Nat) : Nat := 0x70080 + a * 0x8

/-- Field EN of ROUTE_DET. -/
def ROUTE_DET.EN : Fld := ⟨63, 1⟩

/-- Field INF of ROUTE_DET. -/
def ROUTE_DET.INF : Fld := ⟨62, 1⟩

/-- Field SIDE of ROUTE_DET. -/
def ROUTE_DET.SIDE : Fld := ⟨59, 3⟩

/-- Field BYP of ROUTE_DET. -/
def ROUTE_DET.BYP : Fld := ⟨58, 1⟩

/-- Field CAND of ROUTE_DET. -/
def ROUTE_DET.CAND : Fld := ⟨0, 12⟩

/-- Offset of ROUTE_RELAY in CSR space (R415). -/
def ROUTE_RELAY.off (a : Nat) : Nat := 0x700c0 + a * 0x8

/-- Field VALID of ROUTE_RELAY. -/
def ROUTE_RELAY.VALID : Fld := ⟨63, 1⟩

/-- Field MODE of ROUTE_RELAY. -/
def ROUTE_RELAY.MODE : Fld := ⟨61, 2⟩

/-- Field OUT of ROUTE_RELAY. -/
def ROUTE_RELAY.OUT : Fld := ⟨58, 3⟩

/-- Field OWNER of ROUTE_RELAY. -/
def ROUTE_RELAY.OWNER : Fld := ⟨0, 15⟩

/-- Offset of COL_ERR in CSR space (R466). -/
def COL_ERR.off (a : Nat) : Nat := 0x80000 + a * 0x8

/-- Field RES_CORR of COL_ERR. -/
def COL_ERR.RES_CORR : Fld := ⟨48, 16⟩

/-- Field RES_HARD of COL_ERR. -/
def COL_ERR.RES_HARD : Fld := ⟨32, 16⟩

/-- Field DIGEST of COL_ERR. -/
def COL_ERR.DIGEST : Fld := ⟨16, 16⟩

/-- Field DUP of COL_ERR. -/
def COL_ERR.DUP : Fld := ⟨0, 16⟩

/-- Offset of UPD_STAGE in CSR space (R280). -/
def UPD_STAGE.off (a : Nat) : Nat := 0x90000 + a * 0x1000

/-- Field EN of UPD_STAGE. -/
def UPD_STAGE.EN : Fld := ⟨63, 1⟩

/-- Field SIZE of UPD_STAGE. -/
def UPD_STAGE.SIZE : Fld := ⟨32, 8⟩

/-- Field OFF of UPD_STAGE. -/
def UPD_STAGE.OFF : Fld := ⟨0, 10⟩

/-- Offset of UPD_STAGE_USE in CSR space (R284). -/
def UPD_STAGE_USE.off (a : Nat) : Nat := 0x90008 + a * 0x1000

/-- Field PEAK of UPD_STAGE_USE. -/
def UPD_STAGE_USE.PEAK : Fld := ⟨32, 32⟩

/-- Field USED of UPD_STAGE_USE. -/
def UPD_STAGE_USE.USED : Fld := ⟨0, 32⟩

/-- Offset of UPD_BP_TIME in CSR space (R284). -/
def UPD_BP_TIME.off (a : Nat) : Nat := 0x90010 + a * 0x1000

/-- Field NS of UPD_BP_TIME. -/
def UPD_BP_TIME.NS : Fld := ⟨0, 64⟩

/-- Offset of ERR_RING_STS in CSR space (R541). -/
def ERR_RING_STS.off : Nat := 0xa0000

/-- Field NEXT of ERR_RING_STS. -/
def ERR_RING_STS.NEXT : Fld := ⟨32, 32⟩

/-- Field LOST of ERR_RING_STS. -/
def ERR_RING_STS.LOST : Fld := ⟨16, 16⟩

/-- Field OPENCNT of ERR_RING_STS. -/
def ERR_RING_STS.OPENCNT : Fld := ⟨0, 13⟩

/-- Offset of ERR_SEL in CSR space (R541). -/
def ERR_SEL.off : Nat := 0xa0008

/-- Field INDEX of ERR_SEL. -/
def ERR_SEL.INDEX : Fld := ⟨0, 32⟩

/-- Offset of ERR_CTL in CSR space (R541). -/
def ERR_CTL.off : Nat := 0xa0010

/-- Field REPORT_ALL of ERR_CTL. -/
def ERR_CTL.REPORT_ALL : Fld := ⟨63, 1⟩

/-- Field WINDOW_H of ERR_CTL. -/
def ERR_CTL.WINDOW_H : Fld := ⟨0, 16⟩

/-- Offset of ERR_REC in CSR space (R541). -/
def ERR_REC.off (a : Nat) : Nat := 0xa0040 + a * 0x8

/-- Field WORD of ERR_REC. -/
def ERR_REC.WORD : Fld := ⟨0, 64⟩

/-- Offset of ERR_THR in CSR space (R546). -/
def ERR_THR.off (a : Nat) : Nat := 0xa0100 + a * 0x8

/-- Field TRANS of ERR_THR. -/
def ERR_THR.TRANS : Fld := ⟨16, 16⟩

/-- Field PERS of ERR_THR. -/
def ERR_THR.PERS : Fld := ⟨0, 16⟩

/-- Offset of ERR_SVC in CSR space (R551). -/
def ERR_SVC.off : Nat := 0xa0200

/-- Field NOSPARE of ERR_SVC. -/
def ERR_SVC.NOSPARE : Fld := ⟨7, 1⟩

/-- Field CLOFF of ERR_SVC. -/
def ERR_SVC.CLOFF : Fld := ⟨6, 1⟩

/-- Field UPD of ERR_SVC. -/
def ERR_SVC.UPD : Fld := ⟨5, 1⟩

/-- Field COL of ERR_SVC. -/
def ERR_SVC.COL : Fld := ⟨4, 1⟩

/-- Field CC of ERR_SVC. -/
def ERR_SVC.CC : Fld := ⟨3, 1⟩

/-- Field NEAR of ERR_SVC. -/
def ERR_SVC.NEAR : Fld := ⟨2, 1⟩

/-- Field HBM of ERR_SVC. -/
def ERR_SVC.HBM : Fld := ⟨1, 1⟩

/-- Field FLASH of ERR_SVC. -/
def ERR_SVC.FLASH : Fld := ⟨0, 1⟩

/-- Offset of ERR_XSAMPLE in CSR space (R558). -/
def ERR_XSAMPLE.off : Nat := 0xa0300

/-- Field EN of ERR_XSAMPLE. -/
def ERR_XSAMPLE.EN : Fld := ⟨63, 1⟩

/-- Field RATE of ERR_XSAMPLE. -/
def ERR_XSAMPLE.RATE : Fld := ⟨0, 5⟩

/-- Offset of ERR_XSAMPLE_CNT in CSR space (R558). -/
def ERR_XSAMPLE_CNT.off : Nat := 0xa0308

/-- Field DONE of ERR_XSAMPLE_CNT. -/
def ERR_XSAMPLE_CNT.DONE : Fld := ⟨32, 32⟩

/-- Field SKIPPED of ERR_XSAMPLE_CNT. -/
def ERR_XSAMPLE_CNT.SKIPPED : Fld := ⟨16, 16⟩

/-- Field DIFF of ERR_XSAMPLE_CNT. -/
def ERR_XSAMPLE_CNT.DIFF : Fld := ⟨0, 16⟩

/-- Offset of TST_CTL in CSR space (R555). -/
def TST_CTL.off : Nat := 0xa8000

/-- Field ROT_EN of TST_CTL. -/
def TST_CTL.ROT_EN : Fld := ⟨63, 1⟩

/-- Field SCAN_EN of TST_CTL. -/
def TST_CTL.SCAN_EN : Fld := ⟨62, 1⟩

/-- Field ROT_S of TST_CTL. -/
def TST_CTL.ROT_S : Fld := ⟨0, 32⟩

/-- Offset of TST_CMD in CSR space (R555). -/
def TST_CMD.off : Nat := 0xa8008

/-- Field OP of TST_CMD. -/
def TST_CMD.OP : Fld := ⟨60, 4⟩

/-- Field UNIT of TST_CMD. -/
def TST_CMD.UNIT : Fld := ⟨0, 32⟩

/-- Offset of TST_STS in CSR space (R555). -/
def TST_STS.off : Nat := 0xa8010

/-- Field BUSY of TST_STS. -/
def TST_STS.BUSY : Fld := ⟨63, 1⟩

/-- Field RESULT of TST_STS. -/
def TST_STS.RESULT : Fld := ⟨60, 3⟩

/-- Field UNIT of TST_STS. -/
def TST_STS.UNIT : Fld := ⟨0, 32⟩

/-- Offset of TST_INJ in CSR space (R561). -/
def TST_INJ.off : Nat := 0xa8100

/-- Field ARM of TST_INJ. -/
def TST_INJ.ARM : Fld := ⟨63, 1⟩

/-- Field DET of TST_INJ. -/
def TST_INJ.DET : Fld := ⟨56, 7⟩

/-- Field COUNT of TST_INJ. -/
def TST_INJ.COUNT : Fld := ⟨48, 8⟩

/-- Field MODE of TST_INJ. -/
def TST_INJ.MODE : Fld := ⟨46, 2⟩

/-- Field UNIT of TST_INJ. -/
def TST_INJ.UNIT : Fld := ⟨0, 32⟩

/-- Offset of TST_INJ_STS in CSR space (R561). -/
def TST_INJ_STS.off : Nat := 0xa8108

/-- Field FIRED of TST_INJ_STS. -/
def TST_INJ_STS.FIRED : Fld := ⟨48, 16⟩

/-- Field LAST of TST_INJ_STS. -/
def TST_INJ_STS.LAST : Fld := ⟨0, 32⟩

/-- Offset of TST_WKT_CMD in CSR space (R589). -/
def TST_WKT_CMD.off : Nat := 0xa8200

/-- Field OP of TST_WKT_CMD. -/
def TST_WKT_CMD.OP : Fld := ⟨62, 2⟩

/-- Field DIE of TST_WKT_CMD. -/
def TST_WKT_CMD.DIE : Fld := ⟨58, 4⟩

/-- Field ADDR of TST_WKT_CMD. -/
def TST_WKT_CMD.ADDR : Fld := ⟨0, 32⟩

/-- Offset of TST_WKT_DATA in CSR space (R589). -/
def TST_WKT_DATA.off : Nat := 0xa8208

/-- Field DATA of TST_WKT_DATA. -/
def TST_WKT_DATA.DATA : Fld := ⟨0, 64⟩

/-- Offset of TST_WKT_STS in CSR space (R589). -/
def TST_WKT_STS.off : Nat := 0xa8210

/-- Field BUSY of TST_WKT_STS. -/
def TST_WKT_STS.BUSY : Fld := ⟨63, 1⟩

/-- Field RESULT of TST_WKT_STS. -/
def TST_WKT_STS.RESULT : Fld := ⟨60, 3⟩

/-- Offset of PWR_IN in CSR space (R611). -/
def PWR_IN.off : Nat := 0xb0000

/-- Field VIN of PWR_IN. -/
def PWR_IN.VIN : Fld := ⟨48, 16⟩

/-- Field IIN of PWR_IN. -/
def PWR_IN.IIN : Fld := ⟨32, 16⟩

/-- Field P1MS of PWR_IN. -/
def PWR_IN.P1MS : Fld := ⟨16, 16⟩

/-- Field P100US of PWR_IN. -/
def PWR_IN.P100US : Fld := ⟨0, 16⟩

/-- Offset of PWR_STS in CSR space (R611). -/
def PWR_STS.off : Nat := 0xb0008

/-- Field PWR_OK of PWR_STS. -/
def PWR_STS.PWR_OK : Fld := ⟨63, 1⟩

/-- Field LINK of PWR_STS. -/
def PWR_STS.LINK : Fld := ⟨62, 1⟩

/-- Field SENSE_OPEN of PWR_STS. -/
def PWR_STS.SENSE_OPEN : Fld := ⟨32, 16⟩

/-- Field LIMIT of PWR_STS. -/
def PWR_STS.LIMIT : Fld := ⟨16, 16⟩

/-- Offset of PWR_CAP in CSR space (R611). -/
def PWR_CAP.off : Nat := 0xb0010

/-- Field CAP of PWR_CAP. -/
def PWR_CAP.CAP : Fld := ⟨32, 16⟩

/-- Field PEAK of PWR_CAP. -/
def PWR_CAP.PEAK : Fld := ⟨16, 16⟩

/-- Offset of PWR_LOUVRE in CSR space (R611). -/
def PWR_LOUVRE.off : Nat := 0xb0018

/-- Field FLOOR of PWR_LOUVRE. -/
def PWR_LOUVRE.FLOOR : Fld := ⟨44, 4⟩

/-- Field CAUSE of PWR_LOUVRE. -/
def PWR_LOUVRE.CAUSE : Fld := ⟨16, 16⟩

/-- Field STEP of PWR_LOUVRE. -/
def PWR_LOUVRE.STEP : Fld := ⟨0, 16⟩

/-- Offset of PWR_THERM in CSR space (R611). -/
def PWR_THERM.off : Nat := 0xb0020

/-- Field TJ_TARGET of PWR_THERM. -/
def PWR_THERM.TJ_TARGET : Fld := ⟨56, 8⟩

/-- Offset of PWR_TEMP in CSR space (R611). -/
def PWR_TEMP.off : Nat := 0xb0028

/-- Field TJ of PWR_TEMP. -/
def PWR_TEMP.TJ : Fld := ⟨48, 16⟩

/-- Field THBM of PWR_TEMP. -/
def PWR_TEMP.THBM : Fld := ⟨32, 16⟩

/-- Field INLET of PWR_TEMP. -/
def PWR_TEMP.INLET : Fld := ⟨16, 16⟩

/-- Field OUTLET of PWR_TEMP. -/
def PWR_TEMP.OUTLET : Fld := ⟨0, 16⟩

/-- Offset of PWR_FLOW in CSR space (R611). -/
def PWR_FLOW.off : Nat := 0xb0030

/-- Field FLOW of PWR_FLOW. -/
def PWR_FLOW.FLOW : Fld := ⟨0, 16⟩

/-- Offset of PWR_EVT in CSR space (R611). -/
def PWR_EVT.off : Nat := 0xb0038

/-- Field TRIP_LOGGED of PWR_EVT. -/
def PWR_EVT.TRIP_LOGGED : Fld := ⟨6, 1⟩

/-- Field COOLANT of PWR_EVT. -/
def PWR_EVT.COOLANT : Fld := ⟨5, 1⟩

/-- Field THERM of PWR_EVT. -/
def PWR_EVT.THERM : Fld := ⟨4, 1⟩

/-- Field CAP of PWR_EVT. -/
def PWR_EVT.CAP : Fld := ⟨3, 1⟩

/-- Field SENSE_OPEN of PWR_EVT. -/
def PWR_EVT.SENSE_OPEN : Fld := ⟨2, 1⟩

/-- Field DROOP of PWR_EVT. -/
def PWR_EVT.DROOP : Fld := ⟨1, 1⟩

/-- Field LOUVRE_HIGH of PWR_EVT. -/
def PWR_EVT.LOUVRE_HIGH : Fld := ⟨0, 1⟩

/-- Offset of PWR_DROOP in CSR space (R611). -/
def PWR_DROOP.off : Nat := 0xb0040

/-- Field D0 of PWR_DROOP. -/
def PWR_DROOP.D0 : Fld := ⟨0, 16⟩

/-- Field D1 of PWR_DROOP. -/
def PWR_DROOP.D1 : Fld := ⟨16, 16⟩

/-- Field D2 of PWR_DROOP. -/
def PWR_DROOP.D2 : Fld := ⟨32, 16⟩

/-- Field D3 of PWR_DROOP. -/
def PWR_DROOP.D3 : Fld := ⟨48, 16⟩

/-- Offset of PWR_TRIP in CSR space (R611). -/
def PWR_TRIP.off : Nat := 0xb0048

/-- Field KIND of PWR_TRIP. -/
def PWR_TRIP.KIND : Fld := ⟨60, 4⟩

/-- Field SENSOR of PWR_TRIP. -/
def PWR_TRIP.SENSOR : Fld := ⟨56, 4⟩

/-- Field VALUE of PWR_TRIP. -/
def PWR_TRIP.VALUE : Fld := ⟨32, 16⟩

/-- Offset of PWR_TRIP_TIME in CSR space (R611). -/
def PWR_TRIP_TIME.off : Nat := 0xb0050

/-- Field TIME of PWR_TRIP_TIME. -/
def PWR_TRIP_TIME.TIME : Fld := ⟨0, 64⟩

/-- Offset of PWR_INJSEL in CSR space (R611). -/
def PWR_INJSEL.off : Nat := 0xb0058

/-- Field SIDE of PWR_INJSEL. -/
def PWR_INJSEL.SIDE : Fld := ⟨4, 1⟩

/-- Field SENSOR of PWR_INJSEL. -/
def PWR_INJSEL.SENSOR : Fld := ⟨0, 4⟩

/-- Offset of PWR_BALLAST in CSR space (R187). -/
def PWR_BALLAST.off : Nat := 0xb0200

/-- Field HOLD of PWR_BALLAST. -/
def PWR_BALLAST.HOLD : Fld := ⟨16, 16⟩

/-- Field STEP of PWR_BALLAST. -/
def PWR_BALLAST.STEP : Fld := ⟨8, 8⟩

/-- Field EN of PWR_BALLAST. -/
def PWR_BALLAST.EN : Fld := ⟨0, 1⟩

/-- Offset of PWR_RAIL in CSR space (R611). -/
def PWR_RAIL.off (a : Nat) : Nat := 0xb0100 + a * 0x8

/-- Field V of PWR_RAIL. -/
def PWR_RAIL.V : Fld := ⟨48, 16⟩

/-- Field I of PWR_RAIL. -/
def PWR_RAIL.I : Fld := ⟨32, 16⟩

/-- Field SET of PWR_RAIL. -/
def PWR_RAIL.SET : Fld := ⟨16, 16⟩

/-- Offset of SEC_STS in CSR space (R632). -/
def SEC_STS.off : Nat := 0xc0000

/-- Field ATT of SEC_STS. -/
def SEC_STS.ATT : Fld := ⟨60, 4⟩

/-- Field LOW of SEC_STS. -/
def SEC_STS.LOW : Fld := ⟨59, 1⟩

/-- Field DEBUG of SEC_STS. -/
def SEC_STS.DEBUG : Fld := ⟨56, 3⟩

/-- Field FW_SLOT of SEC_STS. -/
def SEC_STS.FW_SLOT : Fld := ⟨55, 1⟩

/-- Field FALLBACK of SEC_STS. -/
def SEC_STS.FALLBACK : Fld := ⟨54, 1⟩

/-- Field FW_OK of SEC_STS. -/
def SEC_STS.FW_OK : Fld := ⟨53, 1⟩

/-- Field SVN of SEC_STS. -/
def SEC_STS.SVN : Fld := ⟨32, 16⟩

/-- Field FLOOR of SEC_STS. -/
def SEC_STS.FLOOR : Fld := ⟨16, 16⟩

/-- Field REKEYS of SEC_STS. -/
def SEC_STS.REKEYS : Fld := ⟨8, 8⟩

/-- Offset of SEC_ATT_IDX in CSR space (R632). -/
def SEC_ATT_IDX.off : Nat := 0xc0008

/-- Field NEXT of SEC_ATT_IDX. -/
def SEC_ATT_IDX.NEXT : Fld := ⟨0, 40⟩

/-- Offset of SEC_ATT_RESV in CSR space (R632). -/
def SEC_ATT_RESV.off : Nat := 0xc0010

/-- Field RESV of SEC_ATT_RESV. -/
def SEC_ATT_RESV.RESV : Fld := ⟨0, 40⟩

/-- Offset of SEC_DBG in CSR space (R632). -/
def SEC_DBG.off : Nat := 0xc0018

/-- Field OP of SEC_DBG. -/
def SEC_DBG.OP : Fld := ⟨60, 4⟩

/-- Offset of SEC_MEAS_EXT in CSR space (R632). -/
def SEC_MEAS_EXT.off : Nat := 0xc00a0

/-- Field OP of SEC_MEAS_EXT. -/
def SEC_MEAS_EXT.OP : Fld := ⟨60, 4⟩

/-- Field N of SEC_MEAS_EXT. -/
def SEC_MEAS_EXT.N : Fld := ⟨0, 4⟩

/-- Offset of SEC_DBG_NONCE in CSR space (R632). -/
def SEC_DBG_NONCE.off (a : Nat) : Nat := 0xc0040 + a * 0x8

/-- Field NONCE of SEC_DBG_NONCE. -/
def SEC_DBG_NONCE.NONCE : Fld := ⟨0, 64⟩

/-- Offset of SEC_MEAS_DATA in CSR space (R632). -/
def SEC_MEAS_DATA.off (a : Nat) : Nat := 0xc0080 + a * 0x8

/-- Field DATA of SEC_MEAS_DATA. -/
def SEC_MEAS_DATA.DATA : Fld := ⟨0, 64⟩

/-- Offset of SEC_MEAS in CSR space (R632). -/
def SEC_MEAS.off (a b : Nat) : Nat := 0xc0100 + a * 0x20 + b * 0x8

/-- Field VALUE of SEC_MEAS. -/
def SEC_MEAS.VALUE : Fld := ⟨0, 64⟩

/-- Offset of PMC_CTL in CSR space (R641). -/
def PMC_CTL.off : Nat := 0xd0000

/-- Field FREEZE of PMC_CTL. -/
def PMC_CTL.FREEZE : Fld := ⟨63, 1⟩

/-- Offset of PMC_TELEM in CSR space (R670). -/
def PMC_TELEM.off (a : Nat) : Nat := 0xd0100 + a * 0x8

/-- Field WORD of PMC_TELEM. -/
def PMC_TELEM.WORD : Fld := ⟨0, 64⟩

/-- Offset of PHT_CFG in CSR space (R643). -/
def PHT_CFG.off (a : Nat) : Nat := 0xd1000 + a * 0x40

/-- Field EN of PHT_CFG. -/
def PHT_CFG.EN : Fld := ⟨63, 1⟩

/-- Field AUTO of PHT_CFG. -/
def PHT_CFG.AUTO : Fld := ⟨62, 1⟩

/-- Field CTX of PHT_CFG. -/
def PHT_CFG.CTX : Fld := ⟨56, 6⟩

/-- Field TAG of PHT_CFG. -/
def PHT_CFG.TAG : Fld := ⟨52, 4⟩

/-- Field NEND of PHT_CFG. -/
def PHT_CFG.NEND : Fld := ⟨32, 11⟩

/-- Offset of PHT_START in CSR space (R643). -/
def PHT_START.off (a : Nat) : Nat := 0xd1008 + a * 0x40

/-- Field TIME of PHT_START. -/
def PHT_START.TIME : Fld := ⟨0, 64⟩

/-- Offset of PHT_END in CSR space (R643). -/
def PHT_END.off (a : Nat) : Nat := 0xd1010 + a * 0x40

/-- Field TIME of PHT_END. -/
def PHT_END.TIME : Fld := ⟨0, 64⟩

/-- Offset of PHT_STS in CSR space (R643). -/
def PHT_STS.off (a : Nat) : Nat := 0xd1018 + a * 0x40

/-- Field OPEN of PHT_STS. -/
def PHT_STS.OPEN : Fld := ⟨63, 1⟩

/-- Field MARKS of PHT_STS. -/
def PHT_STS.MARKS : Fld := ⟨32, 11⟩

/-- Field COUNT of PHT_STS. -/
def PHT_STS.COUNT : Fld := ⟨0, 32⟩

/-- Offset of PHT_SUM in CSR space (R643). -/
def PHT_SUM.off (a : Nat) : Nat := 0xd1020 + a * 0x40

/-- Field NS of PHT_SUM. -/
def PHT_SUM.NS : Fld := ⟨0, 64⟩

/-- Offset of CORE_PMC_CYC in CSR space (R634). -/
def CORE_PMC_CYC.off (a b c : Nat) : Nat := 0x1000000 + a * 0x100000 + b * 0x10000 + c * 0x1000

/-- Field CYC of CORE_PMC_CYC. -/
def CORE_PMC_CYC.CYC : Fld := ⟨0, 64⟩

/-- Offset of CORE_PMC_CNT in CSR space (R634). -/
def CORE_PMC_CNT.off (a b c d : Nat) : Nat := 0x1000008 + a * 0x100000 + b * 0x10000 + c * 0x1000 + d * 0x8

/-- Field COUNT of CORE_PMC_CNT. -/
def CORE_PMC_CNT.COUNT : Fld := ⟨0, 48⟩

/-- Offset of CORE_PMC_SEL in CSR space (R634). -/
def CORE_PMC_SEL.off (a b c d : Nat) : Nat := 0x1000080 + a * 0x100000 + b * 0x10000 + c * 0x1000 + d * 0x8

/-- Field EN of CORE_PMC_SEL. -/
def CORE_PMC_SEL.EN : Fld := ⟨63, 1⟩

/-- Field CHAIN of CORE_PMC_SEL. -/
def CORE_PMC_SEL.CHAIN : Fld := ⟨62, 1⟩

/-- Field CTXF of CORE_PMC_SEL. -/
def CORE_PMC_SEL.CTXF : Fld := ⟨61, 1⟩

/-- Field CTX of CORE_PMC_SEL. -/
def CORE_PMC_SEL.CTX : Fld := ⟨48, 6⟩

/-- Field EVENT of CORE_PMC_SEL. -/
def CORE_PMC_SEL.EVENT : Fld := ⟨0, 12⟩

/-- Offset of CORE_PMC_OVF in CSR space (R634). -/
def CORE_PMC_OVF.off (a b c : Nat) : Nat := 0x10000c0 + a * 0x100000 + b * 0x10000 + c * 0x1000

/-- Field OVF of CORE_PMC_OVF. -/
def CORE_PMC_OVF.OVF : Fld := ⟨0, 8⟩

/-- Piece 0 of the register table. -/
def regTable0 : List RegDesc := [
  ⟨0x400, [(4, 0x60), (12, 0x8)], 0x800076543210, [⟨48, 9, .ro, none, none⟩, ⟨44, 4, .ro, none, none⟩, ⟨40, 1, .ro, none, none⟩, ⟨0, 32, .ro, none, none⟩]⟩,
  ⟨0x600, [], 0x40, [⟨8, 1, .rw, none, none⟩, ⟨0, 7, .rw, none, none⟩]⟩,
  ⟨0x700, [(8, 0x8)], 0x0, [⟨63, 1, .rw, none, none⟩, ⟨62, 1, .rw, none, none⟩, ⟨56, 6, .rw, none, none⟩, ⟨16, 12, .rw, none, none⟩, ⟨0, 12, .rw, none, none⟩]⟩,
  ⟨0x800, [(2, 0x8)], 0x0, [⟨63, 1, .rw, none, none⟩, ⟨48, 15, .rw, none, none⟩, ⟨40, 8, .rw, none, none⟩, ⟨30, 10, .rw, none, none⟩]⟩,
  ⟨0x900, [], 0xb1ab1a22c688, [⟨0, 48, .rw, none, none⟩]⟩,
  ⟨0xa00, [(64, 0x8)], 0x10000, [⟨0, 17, .rw, none, none⟩]⟩,
  ⟨0xc00, [(2, 0x100), (32, 0x8)], 0x0, [⟨63, 1, .rw, none, none⟩, ⟨27, 7, .rw, none, none⟩, ⟨20, 7, .rw, none, none⟩, ⟨10, 10, .rw, none, none⟩, ⟨0, 10, .rw, none, none⟩]⟩,
  ⟨0xe00, [], 0x0, [⟨60, 4, .wo, none, none⟩]⟩,
  ⟨0xe08, [], 0xc0000000000003e8, [⟨63, 1, .rw, none, none⟩, ⟨62, 1, .rw, none, none⟩, ⟨0, 16, .rw, none, none⟩]⟩,
  ⟨0xe10, [], 0x0, [⟨60, 4, .ro, none, none⟩, ⟨0, 16, .ro, none, none⟩]⟩,
  ⟨0xe18, [], 0x0, [⟨0, 64, .ro, none, none⟩]⟩,
  ⟨0x1000, [(4, 0x8)], 0x10, [⟨60, 4, .ro, none, none⟩, ⟨56, 4, .ro, none, none⟩, ⟨40, 8, .ro, none, none⟩, ⟨32, 8, .ro, none, none⟩, ⟨24, 8, .ro, none, none⟩, ⟨0, 6, .ro, none, none⟩]⟩]

/-- Piece 1 of the register table. -/
def regTable1 : List RegDesc := [
  ⟨0x1020, [(4, 0x8)], 0x20, [⟨60, 4, .ro, none, none⟩, ⟨56, 4, .ro, none, none⟩, ⟨40, 8, .ro, none, none⟩, ⟨32, 8, .ro, none, none⟩, ⟨24, 8, .ro, none, none⟩, ⟨0, 6, .ro, none, none⟩]⟩,
  ⟨0x1040, [(8, 0x8)], 0x4, [⟨60, 4, .ro, none, none⟩, ⟨56, 4, .ro, none, none⟩, ⟨40, 8, .ro, none, none⟩, ⟨32, 8, .ro, none, none⟩, ⟨24, 8, .ro, none, none⟩, ⟨0, 6, .ro, none, none⟩]⟩,
  ⟨0x1080, [(16, 0x8)], 0x0, [⟨48, 16, .rw, none, none⟩, ⟨32, 16, .rw, none, none⟩, ⟨0, 32, .rw, none, none⟩]⟩,
  ⟨0x1100, [], 0x1001000600000000, [⟨56, 8, .rw, none, none⟩, ⟨40, 16, .rw, none, none⟩, ⟨32, 3, .rw, none, none⟩]⟩,
  ⟨0x1120, [(4, 0x8)], 0x0, [⟨48, 16, .ro, none, none⟩, ⟨40, 8, .ro, none, none⟩, ⟨36, 4, .ro, none, none⟩, ⟨32, 4, .ro, none, none⟩, ⟨16, 16, .ro, none, none⟩, ⟨8, 8, .ro, none, none⟩, ⟨0, 8, .ro, none, none⟩]⟩,
  ⟨0x1200, [], 0x0, [⟨16, 8, .ro, none, none⟩, ⟨4, 1, .ro, none, none⟩, ⟨0, 4, .ro, none, none⟩]⟩,
  ⟨0x1208, [], 0xf0f00, [⟨16, 4, .rw, none, none⟩, ⟨8, 4, .rw, none, none⟩, ⟨3, 1, .ro, none, none⟩, ⟨2, 1, .ro, none, none⟩, ⟨1, 1, .ro, none, none⟩, ⟨0, 1, .ro, none, none⟩]⟩,
  ⟨0x10000, [(2, 0x4000), (32, 0x200)], 0x0, [⟨8, 7, .ro, none, none⟩, ⟨0, 1, .ro, none, none⟩]⟩,
  ⟨0x10008, [(2, 0x4000), (32, 0x200)], 0x0, [⟨12, 52, .rw, none, none⟩]⟩,
  ⟨0x10010, [(2, 0x4000), (32, 0x200)], 0x0, [⟨63, 1, .rw, none, none⟩, ⟨16, 4, .rw, none, none⟩, ⟨0, 12, .rw, none, none⟩]⟩,
  ⟨0x10018, [(2, 0x4000), (32, 0x200)], 0x0, [⟨0, 12, .rw, none, none⟩]⟩,
  ⟨0x10020, [(2, 0x4000), (32, 0x200)], 0x0, [⟨0, 32, .ro, none, none⟩]⟩]

/-- Piece 2 of the register table. -/
def regTable2 : List RegDesc := [
  ⟨0x10040, [(2, 0x4000), (32, 0x200), (8, 0x30)], 0x0, [⟨12, 52, .rw, none, none⟩]⟩,
  ⟨0x10048, [(2, 0x4000), (32, 0x200), (8, 0x30)], 0x0, [⟨63, 1, .rw, none, none⟩, ⟨0, 12, .rw, none, none⟩]⟩,
  ⟨0x10050, [(2, 0x4000), (32, 0x200), (8, 0x30)], 0x0, [⟨0, 12, .rw, none, none⟩]⟩,
  ⟨0x10058, [(2, 0x4000), (32, 0x200), (8, 0x30)], 0x0, [⟨12, 52, .rw, none, none⟩]⟩,
  ⟨0x10060, [(2, 0x4000), (32, 0x200), (8, 0x30)], 0x0, [⟨63, 1, .rw, none, none⟩, ⟨16, 4, .rw, none, none⟩, ⟨0, 12, .rw, none, none⟩]⟩,
  ⟨0x10068, [(2, 0x4000), (32, 0x200), (8, 0x30)], 0x0, [⟨0, 12, .rw, none, none⟩]⟩,
  ⟨0x18000, [(2, 0x100)], 0x1f1f0c, [⟨16, 6, .rw, none, none⟩, ⟨8, 5, .rw, none, none⟩, ⟨1, 3, .rw, none, none⟩, ⟨0, 1, .rw, none, none⟩]⟩,
  ⟨0x18008, [(2, 0x100)], 0x0, [⟨24, 6, .ro, none, none⟩, ⟨16, 8, .ro, none, none⟩, ⟨0, 8, .ro, none, none⟩]⟩,
  ⟨0x200a0, [(64, 0x1000)], 0x0, [⟨8, 2, .rw, none, some 0⟩, ⟨6, 2, .rw, none, some 0⟩, ⟨5, 1, .rw, none, some 0⟩, ⟨4, 1, .rw, none, some 0⟩]⟩,
  ⟨0x200a8, [(64, 0x1000)], 0x0, [⟨48, 16, .rw, some 0, some 0⟩, ⟨40, 8, .ro, some 0, some 0⟩, ⟨4, 1, .w1c, some 0, some 0⟩, ⟨3, 1, .w1c, some 0, some 0⟩, ⟨2, 1, .w1c, some 0, some 0⟩, ⟨1, 1, .w1c, some 0, some 0⟩, ⟨0, 1, .w1c, some 0, some 0⟩]⟩,
  ⟨0x200b0, [(64, 0x1000)], 0x1, [⟨0, 1, .rw, none, some 1⟩]⟩,
  ⟨0x200b8, [(64, 0x1000)], 0x0, [⟨32, 32, .rw, some 0, some 0⟩, ⟨16, 16, .rw, some 0, some 0⟩, ⟨2, 1, .w1c, some 0, some 0⟩, ⟨1, 1, .w1c, some 0, some 0⟩, ⟨0, 1, .w1c, some 0, some 0⟩]⟩]

/-- Piece 3 of the register table. -/
def regTable3 : List RegDesc := [
  ⟨0x200c0, [(64, 0x1000)], 0x0, [⟨63, 1, .ro, some 0, some 0⟩, ⟨48, 8, .ro, some 0, some 0⟩, ⟨44, 4, .ro, some 0, some 0⟩, ⟨36, 8, .ro, some 0, some 0⟩, ⟨0, 32, .ro, some 0, some 0⟩]⟩,
  ⟨0x200c8, [(64, 0x1000)], 0x0, [⟨0, 48, .ro, some 0, some 0⟩]⟩,
  ⟨0x200d0, [(64, 0x1000)], 0x0, [⟨0, 64, .ro, some 0, some 0⟩]⟩,
  ⟨0x200d8, [(64, 0x1000)], 0x0, [⟨0, 64, .ro, some 0, some 0⟩]⟩,
  ⟨0x200e0, [(64, 0x1000)], 0x0, [⟨0, 16, .ro, some 0, some 0⟩]⟩,
  ⟨0x200e8, [(64, 0x1000)], 0x0, [⟨32, 32, .rw, some 0, some 0⟩, ⟨1, 1, .w1c, some 0, some 0⟩, ⟨0, 1, .w1c, some 0, some 0⟩]⟩,
  ⟨0x20140, [(64, 0x1000)], 0x0, [⟨32, 17, .rw, some 0, some 0⟩, ⟨0, 17, .ro, none, none⟩]⟩,
  ⟨0x20180, [(64, 0x1000)], 0x0, [⟨48, 15, .rw, none, some 0⟩, ⟨12, 36, .rw, none, some 0⟩]⟩,
  ⟨0x20188, [(64, 0x1000)], 0x0, [⟨63, 1, .rw, none, some 0⟩, ⟨60, 2, .rw, none, some 0⟩, ⟨56, 4, .rw, none, some 0⟩, ⟨53, 3, .rw, none, some 0⟩, ⟨40, 8, .rw, none, some 0⟩, ⟨32, 8, .rw, none, some 0⟩]⟩,
  ⟨0x20190, [(64, 0x1000)], 0x0, [⟨32, 32, .rw, none, some 0⟩, ⟨0, 32, .rw, none, some 0⟩]⟩,
  ⟨0x20198, [(64, 0x1000)], 0x0, [⟨32, 32, .rw, none, some 0⟩, ⟨0, 16, .rw, none, some 0⟩]⟩,
  ⟨0x201a0, [(64, 0x1000)], 0x0, [⟨48, 4, .ro, some 0, some 0⟩, ⟨0, 48, .ro, none, some 0⟩]⟩]

/-- Piece 4 of the register table. -/
def regTable4 : List RegDesc := [
  ⟨0x201a8, [(64, 0x1000)], 0x0, [⟨0, 48, .ro, none, some 0⟩]⟩,
  ⟨0x201b0, [(64, 0x1000)], 0x0, [⟨32, 32, .ro, none, some 0⟩, ⟨0, 32, .ro, none, some 0⟩]⟩,
  ⟨0x201b8, [(64, 0x1000)], 0x0, [⟨32, 16, .rw, none, some 0⟩, ⟨0, 32, .rw, none, some 0⟩]⟩,
  ⟨0x201c0, [(64, 0x1000)], 0x0, [⟨48, 16, .rw, some 0, some 0⟩, ⟨32, 16, .rw, some 0, some 0⟩, ⟨6, 1, .w1c, some 0, some 0⟩, ⟨5, 1, .w1c, some 0, some 0⟩, ⟨4, 1, .w1c, some 0, some 0⟩, ⟨3, 1, .w1c, some 0, some 0⟩, ⟨2, 1, .w1c, some 0, some 0⟩, ⟨1, 1, .w1c, some 0, some 0⟩]⟩,
  ⟨0x201c8, [(64, 0x1000)], 0x0, [⟨60, 4, .wo, none, none⟩, ⟨0, 15, .wo, none, none⟩]⟩,
  ⟨0x201d0, [(64, 0x1000)], 0x0, [⟨63, 1, .ro, some 0, some 0⟩, ⟨62, 1, .w1c, some 0, some 0⟩, ⟨0, 32, .ro, some 0, some 0⟩]⟩,
  ⟨0x201d8, [(64, 0x1000)], 0x0, [⟨48, 13, .rw, none, some 0⟩, ⟨4, 44, .rw, none, some 0⟩]⟩,
  ⟨0x201e0, [(64, 0x1000)], 0x0, [⟨62, 2, .wo, none, none⟩, ⟨56, 6, .wo, none, none⟩, ⟨0, 8, .wo, none, none⟩]⟩,
  ⟨0x201e8, [(64, 0x1000)], 0x0, [⟨0, 11, .ro, some 0, some 0⟩]⟩,
  ⟨0x201f0, [(64, 0x1000)], 0x100, [⟨8, 3, .rw, none, some 1⟩, ⟨0, 8, .rw, none, some 0⟩]⟩,
  ⟨0x201f8, [(64, 0x1000)], 0x0, [⟨0, 64, .rw, none, some 0⟩]⟩,
  ⟨0x20700, [(64, 0x1000)], 0x7d0, [⟨63, 1, .rw, none, some 0⟩, ⟨56, 4, .rw, none, some 0⟩, ⟨0, 32, .rw, none, some 2000⟩]⟩]

/-- Piece 5 of the register table. -/
def regTable5 : List RegDesc := [
  ⟨0x20708, [(64, 0x1000)], 0x0, [⟨48, 15, .ro, some 0, some 0⟩, ⟨44, 4, .ro, some 0, some 0⟩, ⟨7, 1, .w1c, some 0, some 0⟩, ⟨6, 1, .w1c, some 0, some 0⟩, ⟨5, 1, .w1c, some 0, some 0⟩, ⟨4, 1, .w1c, some 0, some 0⟩, ⟨3, 1, .w1c, some 0, some 0⟩, ⟨2, 1, .w1c, some 0, some 0⟩, ⟨1, 1, .w1c, some 0, some 0⟩, ⟨0, 1, .w1c, some 0, some 0⟩]⟩,
  ⟨0x20710, [(64, 0x1000)], 0x0, [⟨60, 4, .ro, some 0, some 0⟩, ⟨56, 4, .ro, some 0, some 0⟩, ⟨40, 16, .ro, some 0, some 0⟩, ⟨24, 15, .ro, some 0, some 0⟩, ⟨0, 24, .ro, some 0, some 0⟩]⟩,
  ⟨0x20720, [(64, 0x1000)], 0x3e8, [⟨63, 1, .rw, none, some 0⟩, ⟨0, 32, .rw, none, some 1000⟩]⟩,
  ⟨0x20728, [(64, 0x1000)], 0x0, [⟨63, 1, .rw, none, some 0⟩, ⟨56, 3, .rw, none, some 0⟩, ⟨48, 8, .rw, none, some 0⟩, ⟨12, 36, .rw, none, some 0⟩, ⟨0, 9, .rw, none, some 0⟩]⟩,
  ⟨0x20730, [(64, 0x1000)], 0x0, [⟨60, 4, .ro, none, none⟩, ⟨59, 1, .ro, none, none⟩, ⟨32, 16, .ro, none, some 0⟩, ⟨0, 32, .ro, none, none⟩]⟩,
  ⟨0x20738, [(64, 0x1000)], 0x0, [⟨0, 64, .ro, none, none⟩]⟩,
  ⟨0x20800, [(64, 0x1000)], 0x0, [⟨0, 1, .rw, none, some 0⟩]⟩,
  ⟨0x20808, [(64, 0x1000)], 0x0, [⟨62, 2, .wo, none, none⟩, ⟨0, 4, .wo, none, none⟩]⟩,
  ⟨0x20100, [(64, 0x1000), (8, 0x8)], 0x0, [⟨63, 1, .rw, none, some 0⟩, ⟨0, 48, .rw, none, some 0⟩]⟩,
  ⟨0x20200, [(64, 0x1000), (16, 0x40)], 0x0, [⟨63, 1, .rw, some 0, some 0⟩, ⟨62, 1, .rw, none, some 0⟩, ⟨47, 15, .rw, none, some 0⟩, ⟨43, 4, .rw, none, some 0⟩, ⟨37, 6, .rw, none, some 0⟩, ⟨33, 4, .rw, none, some 0⟩, ⟨16, 12, .rw, none, some 0⟩]⟩,
  ⟨0x20208, [(64, 0x1000), (16, 0x40)], 0x0, [⟨12, 36, .rw, none, some 0⟩]⟩,
  ⟨0x20210, [(64, 0x1000), (16, 0x40)], 0x0, [⟨63, 1, .rw, none, some 0⟩, ⟨62, 1, .rw, none, some 0⟩, ⟨60, 2, .rw, none, some 0⟩, ⟨56, 4, .rw, none, some 0⟩, ⟨53, 3, .rw, none, some 0⟩, ⟨40, 8, .rw, none, some 0⟩, ⟨32, 8, .rw, none, some 0⟩]⟩]

/-- Piece 6 of the register table. -/
def regTable6 : List RegDesc := [
  ⟨0x20218, [(64, 0x1000), (16, 0x40)], 0x0, [⟨6, 42, .wo, none, none⟩]⟩,
  ⟨0x20220, [(64, 0x1000), (16, 0x40)], 0x0, [⟨0, 9, .wo, none, none⟩]⟩,
  ⟨0x20228, [(64, 0x1000), (16, 0x40)], 0x0, [⟨61, 3, .ro, some 0, some 0⟩, ⟨56, 5, .ro, some 0, some 0⟩, ⟨55, 1, .w1c, some 0, some 0⟩, ⟨48, 7, .ro, some 0, some 0⟩, ⟨39, 9, .ro, some 0, some 0⟩, ⟨38, 1, .w1c, some 0, some 0⟩, ⟨0, 32, .ro, some 0, some 0⟩]⟩,
  ⟨0x20230, [(64, 0x1000), (16, 0x40)], 0x0, [⟨0, 64, .rw, some 0, some 0⟩]⟩,
  ⟨0x20600, [(64, 0x1000), (16, 0x10)], 0x0, [⟨63, 1, .rw, some 0, some 0⟩, ⟨60, 2, .rw, none, some 0⟩, ⟨58, 2, .rw, none, some 0⟩, ⟨56, 2, .rw, none, some 0⟩, ⟨32, 16, .rw, none, some 0⟩, ⟨16, 16, .ro, some 0, some 0⟩, ⟨0, 15, .ro, some 0, some 0⟩]⟩,
  ⟨0x20608, [(64, 0x1000), (16, 0x10)], 0x8000000000000000, [⟨63, 1, .rw, none, some 1⟩, ⟨30, 15, .ro, some 0, some 0⟩, ⟨25, 5, .rw, none, some 0⟩, ⟨20, 5, .rw, none, some 0⟩, ⟨15, 5, .rw, none, some 0⟩, ⟨10, 5, .rw, none, some 0⟩, ⟨5, 5, .rw, none, some 0⟩, ⟨0, 5, .rw, none, some 0⟩]⟩,
  ⟨0x60000, [(16, 0x1000)], 0x8000200000000000, [⟨63, 1, .rw, none, none⟩, ⟨62, 1, .rw, none, none⟩, ⟨61, 1, .rw, none, none⟩, ⟨46, 15, .rw, none, none⟩, ⟨44, 2, .rw, none, none⟩, ⟨43, 1, .rw, none, none⟩, ⟨35, 8, .rw, none, none⟩]⟩,
  ⟨0x60008, [(16, 0x1000)], 0x0, [⟨60, 4, .ro, none, none⟩, ⟨56, 4, .ro, none, none⟩, ⟨52, 4, .ro, none, none⟩, ⟨48, 4, .ro, none, none⟩, ⟨46, 2, .ro, none, none⟩, ⟨44, 2, .ro, none, none⟩, ⟨40, 4, .ro, none, none⟩, ⟨37, 3, .ro, none, none⟩, ⟨36, 1, .ro, none, none⟩, ⟨35, 1, .ro, none, none⟩, ⟨20, 15, .ro, none, none⟩]⟩,
  ⟨0x60010, [(16, 0x1000)], 0x0, [⟨56, 8, .ro, none, none⟩, ⟨48, 8, .ro, none, none⟩, ⟨40, 8, .ro, none, none⟩, ⟨32, 8, .ro, none, none⟩, ⟨0, 24, .ro, none, none⟩]⟩,
  ⟨0x60018, [(16, 0x1000)], 0x0, [⟨60, 4, .wo, none, none⟩]⟩,
  ⟨0x60020, [(16, 0x1000)], 0x0, [⟨48, 16, .rw, none, none⟩, ⟨32, 16, .rw, none, none⟩, ⟨0, 32, .rw, none, none⟩]⟩,
  ⟨0x60028, [(16, 0x1000)], 0x804004010000000, [⟨56, 8, .rw, none, none⟩, ⟨48, 8, .rw, none, none⟩, ⟨32, 16, .rw, none, none⟩, ⟨16, 16, .rw, none, none⟩]⟩]

/-- Piece 7 of the register table. -/
def regTable7 : List RegDesc := [
  ⟨0x60030, [(16, 0x1000)], 0x0, [⟨63, 1, .rw, none, none⟩, ⟨56, 4, .rw, none, none⟩, ⟨48, 8, .rw, none, none⟩, ⟨21, 27, .rw, none, none⟩]⟩,
  ⟨0x60038, [(16, 0x1000)], 0x0, [⟨21, 27, .rw, none, none⟩]⟩,
  ⟨0x60040, [(16, 0x1000)], 0x0, [⟨7, 1, .w1c, none, none⟩, ⟨6, 1, .w1c, none, none⟩, ⟨5, 1, .w1c, none, none⟩, ⟨4, 1, .w1c, none, none⟩, ⟨3, 1, .w1c, none, none⟩, ⟨2, 1, .w1c, none, none⟩, ⟨1, 1, .w1c, none, none⟩, ⟨0, 1, .w1c, none, none⟩]⟩,
  ⟨0x60048, [(16, 0x1000)], 0x0, [⟨0, 32, .ro, none, none⟩]⟩,
  ⟨0x70000, [], 0x0, [⟨63, 1, .rw, none, none⟩, ⟨36, 3, .rw, none, none⟩, ⟨35, 1, .rw, none, none⟩, ⟨34, 1, .rw, none, none⟩, ⟨33, 1, .rw, none, none⟩, ⟨25, 5, .rw, none, none⟩, ⟨20, 5, .rw, none, none⟩, ⟨15, 5, .rw, none, none⟩, ⟨0, 15, .rw, none, none⟩]⟩,
  ⟨0x70008, [], 0x0, [⟨63, 1, .rw, none, none⟩, ⟨32, 3, .rw, none, none⟩, ⟨25, 5, .rw, none, none⟩, ⟨20, 5, .rw, none, none⟩, ⟨15, 5, .rw, none, none⟩, ⟨10, 5, .rw, none, none⟩, ⟨5, 5, .rw, none, none⟩, ⟨0, 5, .rw, none, none⟩]⟩,
  ⟨0x70010, [(3, 0x8)], 0x0, [⟨63, 1, .ro, none, none⟩, ⟨35, 15, .ro, none, none⟩, ⟨20, 15, .ro, none, none⟩, ⟨0, 5, .ro, none, none⟩]⟩,
  ⟨0x70040, [], 0x64, [⟨0, 16, .rw, none, none⟩]⟩,
  ⟨0x70048, [], 0x0, [⟨48, 16, .rw, none, none⟩, ⟨32, 16, .rw, none, none⟩, ⟨16, 16, .rw, none, none⟩, ⟨0, 16, .rw, none, none⟩]⟩,
  ⟨0x70080, [(2, 0x8)], 0x8000000000000b1a, [⟨63, 1, .rw, none, none⟩, ⟨62, 1, .ro, none, none⟩, ⟨59, 3, .ro, none, none⟩, ⟨58, 1, .ro, none, none⟩, ⟨0, 12, .rw, none, none⟩]⟩,
  ⟨0x70090, [(2, 0x8)], 0x8000000000000b08, [⟨63, 1, .rw, none, none⟩, ⟨62, 1, .ro, none, none⟩, ⟨59, 3, .ro, none, none⟩, ⟨58, 1, .ro, none, none⟩, ⟨0, 12, .rw, none, none⟩]⟩,
  ⟨0x700a0, [(2, 0x8)], 0x8000000000000688, [⟨63, 1, .rw, none, none⟩, ⟨62, 1, .ro, none, none⟩, ⟨59, 3, .ro, none, none⟩, ⟨58, 1, .ro, none, none⟩, ⟨0, 12, .rw, none, none⟩]⟩]

/-- Piece 8 of the register table. -/
def regTable8 : List RegDesc := [
  ⟨0x700c0, [(6, 0x8)], 0x0, [⟨63, 1, .ro, none, none⟩, ⟨61, 2, .ro, none, none⟩, ⟨58, 3, .ro, none, none⟩, ⟨0, 15, .ro, none, none⟩]⟩,
  ⟨0x80000, [(4, 0x8)], 0x0, [⟨48, 16, .rw, none, none⟩, ⟨32, 16, .rw, none, none⟩, ⟨16, 16, .rw, none, none⟩, ⟨0, 16, .rw, none, none⟩]⟩,
  ⟨0x90000, [(12, 0x1000)], 0x0, [⟨63, 1, .rw, none, none⟩, ⟨32, 8, .rw, none, none⟩, ⟨0, 10, .rw, none, none⟩]⟩,
  ⟨0x90008, [(12, 0x1000)], 0x0, [⟨32, 32, .rw, none, none⟩, ⟨0, 32, .ro, none, none⟩]⟩,
  ⟨0x90010, [(12, 0x1000)], 0x0, [⟨0, 64, .rw, none, none⟩]⟩,
  ⟨0xa0000, [], 0x0, [⟨32, 32, .ro, none, none⟩, ⟨16, 16, .rw, none, none⟩, ⟨0, 13, .ro, none, none⟩]⟩,
  ⟨0xa0008, [], 0x0, [⟨0, 32, .rw, none, none⟩]⟩,
  ⟨0xa0010, [], 0x18, [⟨63, 1, .rw, none, none⟩, ⟨0, 16, .rw, none, none⟩]⟩,
  ⟨0xa0040, [(8, 0x8)], 0x0, [⟨0, 64, .ro, none, none⟩]⟩,
  ⟨0xa0100, [(1, 0x8)], 0x80001, [⟨16, 16, .rw, none, none⟩, ⟨0, 16, .rw, none, none⟩]⟩,
  ⟨0xa0108, [(1, 0x8)], 0x400001, [⟨16, 16, .rw, none, none⟩, ⟨0, 16, .rw, none, none⟩]⟩,
  ⟨0xa0110, [(1, 0x8)], 0x400001, [⟨16, 16, .rw, none, none⟩, ⟨0, 16, .rw, none, none⟩]⟩]

/-- Piece 9 of the register table. -/
def regTable9 : List RegDesc := [
  ⟨0xa0118, [(1, 0x8)], 0x1000001, [⟨16, 16, .rw, none, none⟩, ⟨0, 16, .rw, none, none⟩]⟩,
  ⟨0xa0120, [(1, 0x8)], 0x1000001, [⟨16, 16, .rw, none, none⟩, ⟨0, 16, .rw, none, none⟩]⟩,
  ⟨0xa0128, [(1, 0x8)], 0x40001, [⟨16, 16, .rw, none, none⟩, ⟨0, 16, .rw, none, none⟩]⟩,
  ⟨0xa0130, [(1, 0x8)], 0x40001, [⟨16, 16, .rw, none, none⟩, ⟨0, 16, .rw, none, none⟩]⟩,
  ⟨0xa0138, [(1, 0x8)], 0x80001, [⟨16, 16, .rw, none, none⟩, ⟨0, 16, .rw, none, none⟩]⟩,
  ⟨0xa0200, [], 0x0, [⟨7, 1, .ro, none, none⟩, ⟨6, 1, .ro, none, none⟩, ⟨5, 1, .ro, none, none⟩, ⟨4, 1, .ro, none, none⟩, ⟨3, 1, .ro, none, none⟩, ⟨2, 1, .ro, none, none⟩, ⟨1, 1, .ro, none, none⟩, ⟨0, 1, .ro, none, none⟩]⟩,
  ⟨0xa0300, [], 0x8000000000000010, [⟨63, 1, .rw, none, none⟩, ⟨0, 5, .rw, none, none⟩]⟩,
  ⟨0xa0308, [], 0x0, [⟨32, 32, .rw, none, none⟩, ⟨16, 16, .rw, none, none⟩, ⟨0, 16, .rw, none, none⟩]⟩,
  ⟨0xa8000, [], 0xc000000000000e10, [⟨63, 1, .rw, none, none⟩, ⟨62, 1, .rw, none, none⟩, ⟨0, 32, .rw, none, none⟩]⟩,
  ⟨0xa8008, [], 0x0, [⟨60, 4, .wo, none, none⟩, ⟨0, 32, .wo, none, none⟩]⟩,
  ⟨0xa8010, [], 0x0, [⟨63, 1, .ro, none, none⟩, ⟨60, 3, .ro, none, none⟩, ⟨0, 32, .ro, none, none⟩]⟩,
  ⟨0xa8100, [], 0x1000000000000, [⟨63, 1, .w1s, none, none⟩, ⟨56, 7, .rw, none, none⟩, ⟨48, 8, .rw, none, none⟩, ⟨46, 2, .rw, none, none⟩, ⟨0, 32, .rw, none, none⟩]⟩]

/-- Piece 10 of the register table. -/
def regTable10 : List RegDesc := [
  ⟨0xa8108, [], 0x0, [⟨48, 16, .ro, none, none⟩, ⟨0, 32, .ro, none, none⟩]⟩,
  ⟨0xa8200, [], 0x0, [⟨62, 2, .wo, none, none⟩, ⟨58, 4, .wo, none, none⟩, ⟨0, 32, .wo, none, none⟩]⟩,
  ⟨0xa8208, [], 0x0, [⟨0, 64, .rw, none, none⟩]⟩,
  ⟨0xa8210, [], 0x0, [⟨63, 1, .ro, none, none⟩, ⟨60, 3, .ro, none, none⟩]⟩,
  ⟨0xb0000, [], 0x0, [⟨48, 16, .ro, none, none⟩, ⟨32, 16, .ro, none, none⟩, ⟨16, 16, .ro, none, none⟩, ⟨0, 16, .ro, none, none⟩]⟩,
  ⟨0xb0008, [], 0x0, [⟨63, 1, .ro, none, none⟩, ⟨62, 1, .ro, none, none⟩, ⟨32, 16, .ro, none, none⟩, ⟨16, 16, .ro, none, none⟩]⟩,
  ⟨0xb0010, [], 0x9600b540000, [⟨32, 16, .rw, none, none⟩, ⟨16, 16, .rw, none, none⟩]⟩,
  ⟨0xb0018, [], 0x0, [⟨44, 4, .rw, none, none⟩, ⟨16, 16, .ro, none, none⟩, ⟨0, 16, .ro, none, none⟩]⟩,
  ⟨0xb0020, [], 0x5f00000000000000, [⟨56, 8, .rw, none, none⟩]⟩,
  ⟨0xb0028, [], 0x0, [⟨48, 16, .ro, none, none⟩, ⟨32, 16, .ro, none, none⟩, ⟨16, 16, .ro, none, none⟩, ⟨0, 16, .ro, none, none⟩]⟩,
  ⟨0xb0030, [], 0x0, [⟨0, 16, .ro, none, none⟩]⟩,
  ⟨0xb0038, [], 0x0, [⟨6, 1, .w1c, none, none⟩, ⟨5, 1, .w1c, none, none⟩, ⟨4, 1, .w1c, none, none⟩, ⟨3, 1, .w1c, none, none⟩, ⟨2, 1, .w1c, none, none⟩, ⟨1, 1, .w1c, none, none⟩, ⟨0, 1, .w1c, none, none⟩]⟩]

/-- Piece 11 of the register table. -/
def regTable11 : List RegDesc := [
  ⟨0xb0040, [], 0x0, [⟨0, 16, .rw, none, none⟩, ⟨16, 16, .rw, none, none⟩, ⟨32, 16, .rw, none, none⟩, ⟨48, 16, .rw, none, none⟩]⟩,
  ⟨0xb0048, [], 0x0, [⟨60, 4, .ro, none, none⟩, ⟨56, 4, .ro, none, none⟩, ⟨32, 16, .ro, none, none⟩]⟩,
  ⟨0xb0050, [], 0x0, [⟨0, 64, .ro, none, none⟩]⟩,
  ⟨0xb0058, [], 0x0, [⟨4, 1, .rw, none, none⟩, ⟨0, 4, .rw, none, none⟩]⟩,
  ⟨0xb0200, [], 0x1004001, [⟨16, 16, .rw, none, none⟩, ⟨8, 8, .rw, none, none⟩, ⟨0, 1, .rw, none, none⟩]⟩,
  ⟨0xb0100, [(16, 0x8)], 0x0, [⟨48, 16, .ro, none, none⟩, ⟨32, 16, .ro, none, none⟩, ⟨16, 16, .ro, none, none⟩]⟩,
  ⟨0xc0000, [], 0x0, [⟨60, 4, .ro, none, none⟩, ⟨59, 1, .ro, none, none⟩, ⟨56, 3, .ro, none, none⟩, ⟨55, 1, .ro, none, none⟩, ⟨54, 1, .ro, none, none⟩, ⟨53, 1, .ro, none, none⟩, ⟨32, 16, .ro, none, none⟩, ⟨16, 16, .ro, none, none⟩, ⟨8, 8, .ro, none, none⟩]⟩,
  ⟨0xc0008, [], 0x0, [⟨0, 40, .ro, none, none⟩]⟩,
  ⟨0xc0010, [], 0x0, [⟨0, 40, .ro, none, none⟩]⟩,
  ⟨0xc0018, [], 0x0, [⟨60, 4, .wo, none, none⟩]⟩,
  ⟨0xc00a0, [], 0x0, [⟨60, 4, .wo, none, none⟩, ⟨0, 4, .wo, none, none⟩]⟩,
  ⟨0xc0040, [(4, 0x8)], 0x0, [⟨0, 64, .ro, none, none⟩]⟩]

/-- Piece 12 of the register table. -/
def regTable12 : List RegDesc := [
  ⟨0xc0080, [(4, 0x8)], 0x0, [⟨0, 64, .rw, none, none⟩]⟩,
  ⟨0xc0100, [(16, 0x20), (4, 0x8)], 0x0, [⟨0, 64, .ro, none, none⟩]⟩,
  ⟨0xd0000, [], 0x0, [⟨63, 1, .rw, none, none⟩]⟩,
  ⟨0xd0100, [(8, 0x8)], 0x0, [⟨0, 64, .ro, none, none⟩]⟩,
  ⟨0xd1000, [(32, 0x40)], 0x0, [⟨63, 1, .rw, none, none⟩, ⟨62, 1, .rw, none, none⟩, ⟨56, 6, .rw, none, none⟩, ⟨52, 4, .rw, none, none⟩, ⟨32, 11, .rw, none, none⟩]⟩,
  ⟨0xd1008, [(32, 0x40)], 0x0, [⟨0, 64, .ro, none, none⟩]⟩,
  ⟨0xd1010, [(32, 0x40)], 0x0, [⟨0, 64, .ro, none, none⟩]⟩,
  ⟨0xd1018, [(32, 0x40)], 0x0, [⟨63, 1, .ro, none, none⟩, ⟨32, 11, .ro, none, none⟩, ⟨0, 32, .rw, none, none⟩]⟩,
  ⟨0xd1020, [(32, 0x40)], 0x0, [⟨0, 64, .rw, none, none⟩]⟩,
  ⟨0x1000000, [(4, 0x100000), (12, 0x10000), (8, 0x1000)], 0x0, [⟨0, 64, .ro, none, none⟩]⟩,
  ⟨0x1000008, [(4, 0x100000), (12, 0x10000), (8, 0x1000), (8, 0x8)], 0x0, [⟨0, 48, .rw, none, none⟩]⟩,
  ⟨0x1000080, [(4, 0x100000), (12, 0x10000), (8, 0x1000), (8, 0x8)], 0x0, [⟨63, 1, .rw, none, none⟩, ⟨62, 1, .rw, none, none⟩, ⟨61, 1, .rw, none, none⟩, ⟨48, 6, .rw, none, none⟩, ⟨0, 12, .rw, none, none⟩]⟩]

/-- Piece 13 of the register table. -/
def regTable13 : List RegDesc := [
  ⟨0x10000c0, [(4, 0x100000), (12, 0x10000), (8, 0x1000)], 0x0, [⟨0, 8, .w1c, none, none⟩]⟩]

/-- Every register of the Register index (R669). -/
def regTable : List RegDesc :=
  regTable0 ++ regTable1 ++ regTable2 ++ regTable3 ++ regTable4 ++ regTable5 ++ regTable6 ++ regTable7 ++ regTable8 ++ regTable9 ++ regTable10 ++ regTable11 ++ regTable12 ++ regTable13

/-- `x` is a multiple-suffix offset within the family. -/
def matchDims : List (Nat × Nat) → Nat → Bool
  | [], x => x == 0
  | (c, st) :: rest, x => x / st < c && matchDims rest (x % st)

/-- The register family at a CSR offset, if a register is defined there (R12, R669). -/
def regAt (off : Nat) : Option RegDesc :=
  regTable.find? fun d => d.base ≤ off && matchDims d.dims (off - d.base)

/-- The reset value of the register at an offset, 0 where no register is defined (R12, R668). -/
def csrReset (off : Nat) : Word :=
  match regAt off with
  | some d => d.reset
  | none => 0

/-- The value of a field of a word. -/
def getFld (w : Word) (f : Fld) : Nat := w.fld f.lo f.len

/-- A word with one field replaced. -/
def putFld (w : Word) (f : Fld) (v : Nat) : Word := w.setFld f.lo f.len v

end Sys2Proof.Machine
end

