-- ==== Sys2Proof/Machine/State.lean ====
section
/-! DEFINITION. The state of the block: every register, store, queue, counter and mode the spec gives the machine (INVENTORY.md,
'## State'), as plain data, the reasons a step could stop, and the state after reset. -/

namespace Sys2Proof.Machine

/-- A sparse table: keys strictly rising, an absent key standing for the default that its reader names. -/
abbrev Tbl (α : Type) := List (Nat × α)

/-! Faults of a context (04_instruction_set.md R151 to R157). -/

/-- The fault codes of R151. -/
inductive FaultCode where
  | illegalInstr | illegalOperand | privilege | alignment | address | access | eventOverflow | fetch | memoryError | stream
deriving DecidableEq, Repr

/-- A detected fault on its way to the context's fault registers (R154 to R157). -/
structure FaultRec where
  ctx  : CtxId
  code : FaultCode
  cls  : Nat
  op   : Nat
  pc   : Nat
  addr : Nat
  unit : UnitCode
  time : Nat
deriving DecidableEq, Repr

/-! Cores (03_cores_clusters_branches.md, 04_instruction_set.md). -/

/-- What a core's sequencer is doing: no program, running, its program ended by halt, stopped by a fault, a hatch or a suspend. -/
inductive RunSt where
  | idle | running | halted | stopped
deriving DecidableEq, Repr

/-- What holds a running sequencer's dispatch after an instruction (R94, R106, R126, R129 class LS). `barSent` is a barrier whose
release is on its way (R104, R105). `eve` is the event to which wdb or ctx.enter adds 1 when it completes (R93). -/
inductive Hold where
  | none
  | ev (e thr : Nat)
  | sem (fid : Nat)
  | fence | fenceS | icinv
  | barCl | barGrp | barSent
  | wdb (rd : Nat) (eve : Option Nat)
  | ctxEnter (ctx : CtxId) (rd : Nat) (eve : Option Nat)
deriving DecidableEq, Repr

/-- The operations in flight: a scalar access or semaphore (R128, R138, R98), a hatch instruction (R149), a strm.cancel whose
cancellation is under way (R671), or a collective instruction whose collective or vote has not ended (R468). -/
inductive FlightOp where
  | load (size : Nat) (signed : Bool)
  | store (size : Nat)
  | semAdd | semCas | semWait
  | hatch | cancel | col
deriving DecidableEq, Repr

/-- How far an access in flight has come: issued and travelling, parked at its atomic unit, sent back by a full unit (R101),
answered. -/
inductive FlightSt where
  | issued | parked | bounced | answered
deriving DecidableEq, Repr

/-- A scalar load, scalar store or semaphore that a core has dispatched and that has not completed. `ord` is its place in the order in which
the core issued its accesses, a wait that is sent again taking a new one (R100, R101). -/
structure Flight where
  fid    : Nat
  op     : FlightOp
  st     : FlightSt
  rd     : Option Nat
  remote : Option PkgId
  addr   : Nat
  gaddr  : Nat
  val    : Word
  cmp    : Word
  ev     : Option Nat
  pc     : Nat
  cls    : Nat
  opc    : Nat
  res    : Word
  poison : Bool
  refused : Bool
  ord    : Nat
deriving DecidableEq, Repr

/-- An entry of an engine queue: the instruction word's parts, the scalars read at dispatch (R85), CTX_NUMCTL as read at issue
(R79), and whether the guard was false (R120). `seq` is the dispatch order within the core (R89). -/
structure QEntry where
  seq    : Nat
  cls    : Nat
  op     : Nat
  body   : Body
  pc     : Nat
  a      : Word
  b      : Word
  c      : Word
  numctl : Word
  null   : Bool
deriving DecidableEq, Repr

/-- A tile register (R88, R185): its 1,024 words by `32 r + e`, missing words being 0, its exponent shift tag, its SUSPECT bit, and
the words whose stored code is uncorrectable (R239, R241). -/
structure Tile where
  words  : List Elem
  shift  : Nat
  susp   : Bool
  poison : List Nat
deriving DecidableEq, Repr

/-- A slot of a stationary bank as the array holds it (R162, R163, R171): its type code after expansion, element `(k, n)` at
`k × Ns + n`, and its MX scales at `n × (Ks / 32) + (k >> 5)`. -/
structure Slot where
  typ    : Nat
  elems  : List Nat
  scales : List Nat
deriving DecidableEq, Repr

/-- A stationary bank (R162, R172): MOD of its run, its loaded slots, and whether a load is still under way. -/
structure Bank where
  mod   : Nat
  slots : Tbl Slot
  loads : Nat
deriving DecidableEq, Repr

/-- A load of a stationary slot under way (R165). -/
structure MstRun where
  entry : QEntry
  bank  : Nat
  slot  : Nat
  data  : Slot
deriving DecidableEq, Repr

/-- The phase of a running mmx: feeding rows, waiting for the spare core after a flagged repeat (R184), the spare's results ready,
landing. -/
inductive MxPhase where
  | feed | spareWait | spareDone | land
deriving DecidableEq, Repr

/-- A running mmx (R175 to R184): operands captured at its start, the attempt's shift, the pass, the results of the rows that have
left the array, the preloads and results of the attempt's completed passes, and the checks. -/
structure MxRun where
  entry   : QEntry
  bank    : Nat
  enable  : BitVec 128
  xreplay : Bool
  fed     : List Nat
  stream  : List (List Nat)
  sscales : List (List Nat)
  preload : List (List Elem)
  suspIn  : Bool
  shift   : Nat
  pass    : Nat
  first   : Nat
  done    : List (List Elem)
  prior   : List (List Elem)
  passes  : List (List (List Elem) × List (List Elem))
  ready   : Nat
  landed  : Nat
  doneTiles : List Nat
  phase   : MxPhase
  rowFlag : Bool
  colFlag : List Nat
  isRep   : Bool
  repFlag : Bool
  suspOut : Bool
  spare   : List (List Elem)
  spareBad : Bool
  nanGen  : Bool
  ovf     : Bool
  unchk   : Nat
  recIdx  : Option Nat
  sample  : Bool
deriving DecidableEq, Repr

/-- The matrix engine (R162 to R170, R186): three banks, the bank of the last run, whether a run is open, the row enable, the bias
vector, the loads and the mmx under way, those before it that have fed their last row and still land, oldest first (R175), and the ballast
level v with its counts W and I. -/
structure MxSt where
  banks   : Tbl Bank
  cur     : Nat
  runOpen : Bool
  filled  : Bool
  enable  : BitVec 128
  bias    : List Elem
  loads   : List MstRun
  run     : Option MxRun
  landing : List MxRun
  level   : Nat
  cntW    : Nat
  cntI    : Nat
deriving DecidableEq, Repr

/-- A running vector instruction: whether its sources have been read, with the vector state registers as they stood at its start (R201, R228),
then the tiles still to land in order with their words and tags, the scratchpad rows that vepis writes, and the flags its results raise
(R199, R202). -/
structure VxRun where
  entry  : QEntry
  out    : List (Nat × Tile)
  rows   : List (Nat × List Byte)
  susp   : Bool
  draws  : Nat
  satHit : Bool
  nanGen : Bool
  empty  : Nat
  cntSat : Bool
  unread : Bool
  par    : List Word
deriving DecidableEq, Repr

/-- The vector state registers of R228, the instruction started last, and those before it that still land, oldest first (R201). -/
structure VxSt where
  vepi   : Word
  vseed  : Word
  vstep  : Word
  vidx   : Word
  vdrop  : Word
  vpos   : Word
  vparam : Word
  run    : Option VxRun
  landing : List VxRun
deriving DecidableEq, Repr

/-- A tile move under way: the tile and the scratchpad bytes that it writes when it completes, and the offsets of the bytes that spcpy copies
poisoned (R128, R142, R241). -/
structure LsRun where
  entry : QEntry
  tile  : Option (Nat × Tile)
  bytes : List (Nat × List Byte)
  poison : List Nat
deriving DecidableEq, Repr

/-- A core (`lwait` is the descriptor of an instruction that waits at the head of the load/store queue, R143, R259, R431): a compute core by its logical number or a control core (R17, R18, R124, R486). -/
structure Core where
  ctx    : CtxId
  run    : RunSt
  hold   : Hold
  pc     : BitVec 48
  s      : Tbl Word
  p      : BitVec 16
  ev     : Tbl Nat
  ir     : Option Word
  icache : Tbl Word
  pend   : List Nat
  flights : List Flight
  nextFid : Nat
  seq    : Nat
  mq     : List QEntry
  vq     : List QEntry
  lq     : List QEntry
  lrun   : Option LsRun
  lwait  : Option (List Word)
  tiles  : Tbl Tile
  mx     : MxSt
  vx     : VxSt
  group  : Nat
  started : Nat
  limit  : Nat
deriving DecidableEq, Repr

/-- An empty tile. -/
def Tile.zero : Tile := ⟨[], 0, false, []⟩
/-- An empty bank. -/
def Bank.empty : Bank := ⟨0, [], 0⟩
/-- The matrix engine at launch, at a hatch and after cold reset (R166, R169, R186). -/
def MxSt.reset : MxSt := ⟨[], 0, false, false, BitVec.allOnes 128, [], [], none, [], 0, 0, 0⟩
/-- The vector state at launch, at a hatch and after cold reset (R228). -/
def VxSt.reset : VxSt := ⟨0, 0, 0, 0, 0x3F80000000000000, 0, 0, none, []⟩
/-- A core after cold reset: every register 0 but p0, which reads 1 (R119, R124). DESIGN CHOICE for the values before the first
launch (log 2, DESIGN CHOICE). -/
def Core.reset : Core :=
  ⟨0, .idle, .none, 0, [], 1, [], none, [], [], [], 0, 0, [], [], [], none, none, [], MxSt.reset, VxSt.reset, 0, 0, 0⟩

/-- A sampled mmx whose copy the spare runs (R559, R560): its core, the physical core that ran it and the spare that runs it again (R25), its
context, operation and pc. -/
structure Sample where
  key : Nat
  ctx : CtxId
  cls : Nat
  op  : Nat
  pc  : Nat
  phys : Nat
  spare : Nat
deriving DecidableEq, Repr

/-- A cluster (R104, R498, R511): the context that holds it, the one that held it last, the branch group it serves, and how far a
hot repair has come: 0 none, 1 decided for physical core `repPhys`, 2 drained (R115), with the retirements that wait for it
(R548). `swap` marks a repair that is the swap of a field-test visit; `test` that the spare is under test, `testOk` that its last
completed test passed; `nextQ` the next logical core in turn, `first` the physical cores placed first in the field-test order, `visitQ`
the logical core that a TEST command named, or 8 for a visit without a swap (R553 to R556); `sample` the sample under way, `replays` the cores that wait for
a replay on the spare, in order of request (R184). -/
structure Cluster where
  holder  : Option CtxId
  last    : Option CtxId
  group   : Nat
  repSt   : Nat
  repPhys : Nat
  repWait : List Nat
  swap    : Bool
  test    : Bool
  testOk  : Bool
  nextQ   : Nat
  first   : List Nat
  visitQ  : Option Nat
  sample  : Option Sample
  replays : List Nat
deriving DecidableEq, Repr

/-- A cluster held by nobody. -/
def Cluster.reset : Cluster := ⟨none, none, 0, 0, 0, [], false, false, false, 0, [], none, none, []⟩

/-! Atomic units (R97 to R101). -/

/-- Who waits for an atomic result: a flight of a core, or a request of another package by its number in the serving list. -/
inductive AtomRef where
  | core (key fid : Nat)
  | remote (id : Nat)
deriving DecidableEq, Repr

/-- A wait parked at an atomic unit: the word, the bound, and who waits (R101). -/
structure Parked where
  addr : Nat
  thr  : Word
  ref  : AtomRef
deriving DecidableEq, Repr

/-! Memory and streams (07_memory_tiers_streams.md). -/

/-- The memory of all tiers: byte values by key, an unlisted byte being 0, and the keys of the codewords that are poisoned. Keys
are the local address below the near tier's end, the place in the stack for HBM (`Ops.memKey`). -/
structure Memory where
  cells  : List Host.Cell
  poison : List Nat
deriving DecidableEq, Repr

/-- The states of a stream table entry (R264). -/
inductive StrmSt where
  | queued | active | done | cancelled | failed
deriving DecidableEq, Repr

/-- The engines of R248. The stream port of H0 keeps its far streams (a global address of another package, a host window) apart
from the others. -/
inductive StrmEng where
  | dieDma (k : Nat)
  | ls (key : Nat)
  | clusterDma (k c : Nat)
  | h0 (far : Bool)
deriving DecidableEq, Repr

/-- A stream (R250 to R264): its entry's state, owner context and issuing core, engine, descriptor, issue order, the stream it
depends on while that one is in use and whether a dependency failed (R257), the row and the byte within it that the next piece
starts at, the buffered source of an overlapping single row with its poisoned ranges (R253), whether poison was met, the error code
and address, whether it is being cancelled and by which strm.cancel, the requests without answer, whether the flush reads have
been issued (R260), the COPY command that runs it, the index of the row under way with a mark when it was read poisoned, the PCIe ports
whose host windows it has written, and the flush reads that have not returned. -/
structure Stream where
  st       : StrmSt
  ctx      : CtxId
  core     : Nat
  eng      : StrmEng
  desc     : List Word
  ord      : Nat
  dep      : Option Nat
  depBad   : Bool
  row      : Nat
  off      : Nat
  buf      : Option (List Byte × List (Nat × Nat))
  bad      : Bool
  err      : Nat
  failAddr : Nat
  cancel   : Bool
  cancelBy : List (Nat × Nat)
  outst    : Nat
  flushed  : Bool
  cmd      : Option Nat
  ix       : Option (Nat × Bool)
  ports    : List Nat
  flushes  : List Nat
deriving DecidableEq, Repr

/-- The stream table of H0 (R258, R259): the entries that were ever assigned, the ID assigned last, the next issue order, and the
round-robin pointer over the waiting issuers: the unit code of the last winner. -/
structure StreamTab where
  entries : Tbl Stream
  last    : Option Nat
  nextOrd : Nat
  ptr     : Option Nat
deriving DecidableEq, Repr

/-- An increment on its way to an event register: the core, its context, the register and the amount (R93, R96). -/
structure Inc where
  core : Nat
  ctx  : CtxId
  ev   : Nat
  n    : Nat
deriving DecidableEq, Repr

/-- What leaves a PCIe port towards the host: a memory write (EP set when poisoned), an MSI-X message, a completion with
Unsupported Request, an AER log entry, a zero-length read. -/
inductive HostOut where
  | write (port : Nat) (addr : Nat) (bytes : List Byte) (ep : Bool) (ctx : CtxId)
  | msix (port slot vec : Nat)
  | readData (port slot : Nat) (bytes : List Byte) (ep : Bool)
  | unsupported (port slot : Nat)
  | aer (port slot : Nat)
  | flush (port : Nat)
  | doe (port : Nat) (link : LinkAB) (obj : List Byte)
deriving DecidableEq, Repr

/-! Errors (15_silent_errors_and_faults.md R536 to R546). -/

/-- The state of a unit in the history (R543 ff.). -/
inductive UnitSt where
  | active | retired | shuttered
deriving DecidableEq, Repr

/-- A history entry of the module flash. -/
structure Hist where
  unit  : UnitCode
  trans : Nat
  pers  : Nat
  last  : Nat
  made  : Nat
  halvings : Nat
  st    : UnitSt
  dirty : Bool
deriving DecidableEq, Repr

/-! Contexts, commands and the host interface (13_host_interface.md, 14_contexts_hangs_reset.md). -/

/-- The context states of R497. -/
inductive CtxState where
  | free | idle | running | suspended | faulted
deriving DecidableEq, Repr

/-- The hatch of a context in progress (R517, R520): reason, unit that named it, start time, requesters waiting (a hatch
instruction's core and queue entry; an open CANCEL), whether it belongs to a function reset, and whether its sequence has run. -/
structure Hatch where
  reason : Nat
  unit   : UnitCode
  start  : Nat
  cores  : List (Nat × Nat × Option Nat)
  cmds   : List Nat
  freset : Bool
  unbind : Bool
  acted  : Bool
deriving DecidableEq, Repr

/-- A context: state, owner function, the branch groups read at its launch (R108), the open LAUNCH command with its limit in ms,
the SUSPEND in progress with its save address, the save address of a saved suspension with the cores and the memory of the clusters as
saved (R502), the hatch in progress, the increments kept while its cores are saved (R503), the code of the fault that left it FAULTED
(0 when none is to be reported), and the time at which dispatch of its launch started (R498). -/
structure Ctx where
  st      : CtxState
  bound   : Bool
  port    : Nat
  slot    : Nat
  groups  : List Nat
  launch  : Option Nat
  limit   : Nat
  suspend : Option (Nat × Nat)
  saveAt  : Option Nat
  saved   : Tbl Core
  hatch   : Option Hatch
  kept    : List Inc
  faultCode : Nat
  started : Nat
  keptMem : List Host.Cell
  keptBad : List Nat
deriving DecidableEq, Repr

/-- A free context. -/
def Ctx.reset : Ctx := ⟨.free, false, 0, 0, [], none, 0, none, none, [], none, [], 0, 0, [], []⟩

/-- How far a fetched command has come (R490). -/
inductive CmdSt where
  | waiting | running | ended
deriving DecidableEq, Repr

/-- A fetched command with its queue, its words and, once it has ended, its status and result (R491, R495, R496). `came` is the time at
which it was fetched. -/
structure Cmd where
  id     : Nat
  port   : Nat
  slot   : Nat
  q      : Nat
  sqhd   : Nat
  words  : List Word
  st     : CmdSt
  status : Nat
  result : Nat
  came   : Nat
deriving DecidableEq, Repr

/-- The device's own positions of a command queue pair (R491, R676). -/
structure QPos where
  head  : Nat
  tail  : Nat
  phase : Bool
deriving DecidableEq, Repr

/-- A function's event queue positions, the records waiting for it (R493) with a mark on those from hostev, and the losses since
the last LOST record. -/
structure EvQ where
  tail    : Nat
  phase   : Bool
  waiting : List (Bool × List Word)
  lost    : Nat
deriving DecidableEq, Repr

/-- A host window (R480). -/
structure Window where
  ctx   : CtxId
  port  : Nat
  loff  : Nat
  haddr : Nat
  len   : Nat
  rd    : Bool
  wr    : Bool
deriving DecidableEq, Repr

/-- An aperture segment (R478). -/
structure Aperture where
  ctx   : CtxId
  lbase : Nat
  rd    : Bool
  wr    : Bool
  valid : Bool
deriving DecidableEq, Repr

/-- A control program placed by CC_RUN (R486, R150): context, control core, slice, its command, whether it has ended and how. -/
structure CcProg where
  ctx   : CtxId
  core  : Nat
  slice : Nat
  cmd   : Nat
  ended : Bool
  code  : Nat
  stop  : Bool
deriving DecidableEq, Repr

/-- A link of a PCIe port: up, generation, log2 of the width, lanes reversed, NumVFs and VF Enable. -/
structure PLink where
  up   : Bool
  gen  : Nat
  log2w : Nat
  rev  : Bool
  vfEn : Bool
  numVfs : Nat
deriving DecidableEq, Repr

/-- A PCIe port: PERST# as driven, configuration space ready, BIF and TOTALVF as read at the release of PERST# (R485), its links. -/
structure PPort where
  perst  : Bool
  ready  : Bool
  bifur  : Bool
  totalVf : Nat
  maxGen : Nat
  linkA  : PLink
  linkB  : PLink
deriving DecidableEq, Repr

/-- A link that is down. -/
def PLink.down : PLink := ⟨false, 0, 0, false, false, 0⟩

/-! Requests to other packages (11_routing_and_slices.md R405 to R411). -/

/-- Who waits for the response of a request: a scalar access, or a stream with its issue order and the 64-bit destination address
that read data goes on to (R408). -/
inductive ReqRef where
  | flight (core fid : Nat)
  | stream (id ord dst : Nat)
  | none
deriving DecidableEq, Repr

/-- The request kinds of R408. -/
inductive ReqKind where
  | write | read
  | atomic (op : Nat)
deriving DecidableEq, Repr

/-- A request that a unit of this package has issued to another package and that has not yet become pennants: its kind, target
and local address there, length, data, the 64-byte parts of the data that are poisoned, issuing context, whether it travels on VC4
(R400), and who waits. -/
structure Req where
  kind   : ReqKind
  dst    : PkgId
  addr   : Nat
  len    : Nat
  data   : List Byte
  bad    : List Nat
  ctx    : CtxId
  odd    : Bool
  ref    : ReqRef
deriving DecidableEq, Repr

/-- An ATOMIC of another package that the unit serves (R100, R408): its number, source, issuing context there, unit, word, operation,
operands, the ESEQ and channel for its answer, and whether it waits for its operation (a parked one does not). -/
structure AtomReq where
  id   : Nat
  src  : PkgId
  ctx  : BitVec 6
  unit : Nat
  addr : Nat
  op   : Nat
  b    : Word
  c    : Word
  eseq : BitVec 16
  vc   : BitVec 3
  wait : Bool
deriving DecidableEq, Repr

/-- Where a pennant at the routing plane came from: its travel direction on arrival, and the receive slot that holds it (R396, R412);
`handed` marks one handed over by a port taken down (R371, R413). -/
structure RIn where
  pn     : Pennant
  arr    : Option Nat
  origin : Option (Nat × Nat)
  handed : Bool
deriving DecidableEq, Repr

/-- A pennant that waits at a port for a slot: the channel it travels on, whether it is injected there (R402), whether it is transit
(R404), its routing-plane input (0 local, else the port number plus 1), and, once sent, whether a pool credit carried it and the
number of credits of that kind taken with it. -/
structure TxPen where
  pn      : Pennant
  vc      : Nat
  inj     : Bool
  transit : Bool
  input   : Nat
  arr     : Option Nat
  origin  : Option (Nat × Nat)
  pool    : Bool
  idx     : Nat
deriving DecidableEq, Repr

/-- A data block of the retry window (R367, R413). -/
structure Blk where
  seq   : Nat
  pens  : List TxPen
  acked : Bool
deriving DecidableEq, Repr

/-- A receive slot in use (R368, R412). `place` is that of a shared slot in the receive queue of a long-haul port (R375). -/
structure RxSlot where
  id   : Nat
  vc   : Nat
  pool : Bool
  left : Bool
  place : Nat
deriving DecidableEq, Repr

/-- A block that left a port: its trailer, its type code (R364), the pennants of its slots in a data block, the identity in an identity block
(R352), and the bytes on each physical transmit lane (R357, R363), none for an identity block. -/
structure OutBlk where
  trailer : Trailer
  typ     : Nat
  slots   : List Pennant
  ident   : Option Identity
  lanes   : Tbl (List Byte)
deriving DecidableEq, Repr

/-- A fabric port beside its registers (10_links_and_cabling.md): signal present, the configuration and direction latched at training
(R348, R382), the identity rate in use (R352), whether training is full, the peer's KT-1 mark, pennants waiting, retry window, block
numbers, the block from which a resend is due with how often it was resent, NAK due, credits taken and freed on both sides, receive
slots, round-robin pointers and the slot count of R404, the block counts of the running millisecond, the times it was taken down, and
the pair (R378). `txLanes` are the good transmit lanes (R357), `seen` the block number after the last one that came on this port of a pair (R379),
`scrTx` and `scrRx` the registers of the scrambler and the descrambler (R345). -/
structure FPort where
  signal  : Bool
  cfg     : Word
  dir     : Nat
  fast    : Bool
  lastRate : Nat
  newBad  : Bool
  lhDone  : Bool
  rxLanes : List Nat
  good    : Nat × Nat
  txq     : List TxPen
  win     : List Blk
  nextSeq : Nat
  resend  : Option Nat
  resent  : Nat × Nat
  rxNext  : Nat
  rxAny   : Bool
  nakDue  : Bool
  nakAt   : Option (Nat × Nat)
  txRes   : List Nat
  txPool  : Nat
  peerRes : List Nat
  peerPool : Nat
  freedRes : List Nat
  freedPool : Nat
  rx      : List RxSlot
  nextRx  : Nat
  rrVc    : Nat
  rrIn    : List Nat
  slotCnt : Nat
  msStart : Nat
  msBad   : Nat
  msCorr  : List Nat
  downs   : List Nat
  out     : List OutBlk
  txLanes : List Nat
  seen    : Nat
  scrTx   : Nat
  scrRx   : Nat
deriving DecidableEq, Repr

/-- Eight zero counts. -/
def zero8 : List Nat := [0, 0, 0, 0, 0, 0, 0, 0]
/-- A port after a cold reset or a fabric-domain reset. -/
def FPort.reset : FPort :=
  ⟨false, 0, 7, false, 0, false, false, [], (0, 0), [], [], 0, none, (0, 0), 0, false, false, none, zero8, 0, zero8, 0, zero8, 0, [], 0, 3,
   zero8, 0, 0, 0, zero8, [], [], [], 0, 0, 0⟩

/-- The states of a detour or bypass of a direction (R416 to R420): none, being set up, in force, no candidate left, being torn down. -/
inductive DetSt where
  | idle | setup | force | failed | tear
deriving DecidableEq, Repr

/-- A detour or bypass: whether it is a bypass, the side-step being set up, the candidates left, the side-steps in force, the pennants
sent on each, and the answers to DTEAR that are still to come. -/
structure Detour where
  st    : DetSt
  byp   : Bool
  cur   : Option Nat
  todo  : List Nat
  sides : List Nat
  sent  : Tbl Nat
  left  : Nat
deriving DecidableEq, Repr

/-- No detour. -/
def Detour.idle : Detour := ⟨.idle, false, none, [], [], [], 0⟩

/-- The pennants that a relay entry has handled and released, and the count that a DTEAR named (R420). -/
structure Relay where
  handled  : Nat
  released : Nat
  tear     : Option Nat
deriving DecidableEq, Repr

/-- A request sent and not yet answered (R405, R411): the request, its ESEQ and channel, when it was sent, the return address of a
READ, and the data bytes that have come back. -/
structure OReq where
  req  : Req
  eseq : BitVec 16
  vc   : Nat
  sent : Nat
  ret  : Nat
  got  : Nat
deriving DecidableEq, Repr

/-- A write acknowledgement that is due (R408): source, channel, ESEQ of the last pennant, context there, and whether every write of
the message was performed. -/
structure WAck where
  src  : PkgId
  vc   : Nat
  eseq : BitVec 16
  ctx  : BitVec 6
  ok   : Bool
deriving DecidableEq, Repr

/-- Messages to other packages whose wire format the spec does not give: detour setup (R416 to R420), probes
(R452) and aborts (R453). A detour message leaves in a direction, the others name the target package. -/
inductive NetMsg where
  | dsetup (dir : Nat) (m : DetourMsg)
  | dack (owner : PkgId) (dir : Nat)
  | dnak (owner : PkgId) (dir : Nat) (noPortToB : Bool)
  | dtear (owner : PkgId) (dir : Nat) (count : Nat)
  | dtearAnswer (owner : PkgId) (dir : Nat)
  | probe (dst : PkgId) (p : Probe)
  | abort (dst : PkgId) (gkey : BitVec 16) (e : Epoch) (cause : Nat)
deriving DecidableEq, Repr

/-! Update units and steps (08_update_unit.md). -/

/-- A gradient chunk in staging (R283): one granule of 1,024 elements of a block for a step, with its marks (R439), its
4 KiB place in the staging range, and the codewords of it found uncorrectable since (R302). -/
structure Chunk where
  ctx    : CtxId
  unit   : Nat
  step   : Nat
  block  : Nat
  gran   : Nat
  data   : List Elem
  cbad   : Bool
  poison : Bool
  place  : Nat
  bad    : List Nat
deriving DecidableEq, Repr

/-- A chunk that a collective unit offers to an update unit (R282, R445): its digest, and the collective (group, epoch) and sender
rank whose credit waits for it. -/
structure Offer where
  chunk  : Chunk
  digest : Word
  grp    : Nat
  epoch  : Epoch
  sender : Option Nat
deriving DecidableEq, Repr

/-- A step of a context that is not in state NONE (R286), its gradient statistics once committed (the clip factor c), the applies
left: those of LAG = 0 blocks and all (R309), and the learning rates of its sets, each evaluated once (R297). -/
structure StepRec where
  ctx   : CtxId
  step  : Nat
  st    : Nat
  clip  : Elem
  left0 : Nat
  left  : Nat
  etas  : Tbl Elem
deriving DecidableEq, Repr

/-- The constants of one apply (R299), with the words of the block's descriptor and of its hyperparameter set as they were read at the
start of the apply (R279). -/
structure ApplyK where
  eta  : Elem
  k    : Elem
  b1p  : Elem
  b2p  : Elem
  c1   : Elem
  c2   : Elem
  ver  : Nat
  desc : List Word
  hp   : List Word
deriving DecidableEq, Repr

/-- An apply of a block for a committed step (R304 to R308): its lag, whether it has started with its constants, whether it waits behind
a block command (R307). -/
structure Apply where
  ctx    : CtxId
  step   : Nat
  block  : Nat
  lag    : Nat
  k      : Option ApplyK
  behind : Bool
deriving DecidableEq, Repr

/-- A REGEN or VERIFY that is queued or running (R306, R307). -/
structure UpdCmd where
  ctx    : CtxId
  verify : Bool
  block  : Nat
deriving DecidableEq, Repr

/-! Halyards and holds (09_stages_sequences_versions.md). -/

/-- A send of a halyard (R319 to R322): the descriptor's address, the core that wrote the doorbell, and, once it has started, its event
fields and its message number. -/
structure Send where
  desc    : Nat
  core    : Nat
  started : Bool
  word2   : Word
  seq     : Nat
deriving DecidableEq, Repr

/-- A halyard beside its registers: its sends in queue order, the peer's slot size (send), whether the message being received holds
poison (receive). -/
structure Hal where
  sends  : List Send
  slotSz : Nat
  poison : Bool
deriving DecidableEq, Repr

/-- An entry of the hold table (R334). -/
structure VHold where
  holder : CtxId
  owner  : CtxId
  tag    : Nat
  count  : Nat
deriving DecidableEq, Repr

/-! Collectives and votes (12_collectives.md). -/

/-- A chunk ready to be sent to a rank (R435, R438): its number towards that receiver, its bytes, its flags, and the rank of the sender to
whom a credit is due once it has been sent on. -/
structure OutChunk where
  rank   : Nat
  cidx   : Nat
  bytes  : List Byte
  digest : Option Word
  cbad   : Bool
  poison : Bool
  grant  : Option Nat
deriving DecidableEq, Repr

/-- A chunk that is being received from a rank: its full number, its data pennants by PIDX, its trailer, whether poison came with it, and
whether it has been added or written. -/
structure InChunk where
  rank    : Nat
  cidx    : Nat
  data    : Tbl (List Byte)
  trailer : Option (List Byte)
  poison  : Bool
  used    : Bool
deriving DecidableEq, Repr

/-- A part of a segment held by the member: bytes with flags and digest. -/
structure Part where
  bytes  : List Byte
  digest : Option Word
  cbad   : Bool
  poison : Bool
deriving DecidableEq, Repr

/-- The states of a collective (R469). -/
inductive ColSt where
  | queued | open | parked | done | corrupt | aborted | peerDown
deriving DecidableEq, Repr

/-- A collective of a group (R430 to R455), with the core, flight and entry of its instruction and its issue order. `why` is the first
mark of a chunk that landed here (cause codes of R469). `own` holds the parts that the member has reduced for its next phase; `ready` the
chunks to send, `inq` those being received; `sentTo` and `gotFrom` count chunks by rank, `credit` the credits held, `owed` those to grant
on resumption, `granted` those granted. `landed` holds the digests of the chunks landed. The permute fields hold the counts received,
the places of the chunks to come, their numbers, and the stages done. `old` marks one whose step has been poisoned since (log 16, DEDUCED).
An expert permute keeps in `table` the entries of the expert table that take tokens, and in `toks` the expert number of each token, as both
were read at its start (R343). `refused` marks one that met a write its context may not make (R269). -/
structure Coll where
  ctx     : CtxId
  grp     : Nat
  epoch   : Epoch
  kind    : Nat
  desc    : List Word
  key     : Nat
  fid     : Nat
  entry   : QEntry
  ord     : Nat
  st      : ColSt
  cause   : Nat
  why     : Nat
  own     : Tbl Part
  ready   : List OutChunk
  inq     : List InChunk
  sentTo  : Tbl Nat
  gotFrom : Tbl Nat
  credit  : Tbl Nat
  owed    : Tbl Nat
  granted : Tbl Nat
  landed  : Tbl Word
  counts  : Tbl Nat
  places  : Tbl (List (Nat × Nat))
  expect  : Tbl Nat
  phase   : Nat
  rr      : Nat
  progress : Nat
  fired   : Bool
  old     : Bool
  table   : Tbl (Nat × Nat × Nat)
  toks    : List Nat
  refused : Bool
deriving DecidableEq, Repr

/-- The vote of a context on a step (R458 to R463): the col.cmt that waits for it, whether the member is ready, its last progress, and
whether a CTX_DOWN has reached it while VOTING. -/
structure Vote where
  ctx      : CtxId
  step     : Nat
  key      : Nat
  fid      : Nat
  entry    : QEntry
  ord      : Nat
  ready    : Bool
  progress : Nat
  fired    : Bool
  down     : Bool
deriving DecidableEq, Repr
/-! Package reset, module flash, test, die links, power, security and telemetry (14_contexts_hangs_reset.md to
20_module_contacts_mechanical.md). -/

/-- A CTX_DOWN that this package has seen: GKEY, origin, context and time (R525). -/
structure DownId where
  gkey   : Nat
  origin : Nat
  ctx    : Nat
  time   : Nat
deriving DecidableEq, Repr

/-- What the repair map holds for a module: the lanes replaced, each with its direction (`true` towards the second die of R564), and the
half in use when the module is at x32 (R576, R580). -/
structure DlMap where
  lanes : List (Nat × Bool)
  half  : Option Bool
deriving DecidableEq, Repr

/-- The states of a die-link module (R576, R577). -/
inductive DlSt where
  | down | training | full | half | disabled
deriving DecidableEq, Repr

/-- A die-link module: its state, its map, the lanes found bad that no redundant lane replaces, the state it is being trained to, the
record opened for its retraining, and whether its map still has to reach flash. -/
structure DlMod where
  st    : DlSt
  map   : DlMap
  bad   : List (Nat × Bool)
  next  : DlSt
  recd  : Option Nat
  dirty : Bool
deriving DecidableEq, Repr

/-- A module before bring-up. -/
def DlMod.reset : DlMod := ⟨.down, ⟨[], none⟩, [], .full, none, false⟩

/-- A wicket (R584, R587, R588): the instruction register of its die's TAP, the TAP's operation as OP, ADDR and DATA, DENIED and the data
of the TAP's last read, the controller's operation, and whether the controller was served last. -/
structure Wkt where
  ir     : BitVec 8
  tap    : Option (Nat × Nat × Word)
  denied : Bool
  data   : Word
  ctl    : Option (Nat × Nat)
  last   : Bool
deriving DecidableEq, Repr

/-- A wicket at Test-Logic-Reset: IDCODE is selected (R584). -/
def Wkt.reset : Wkt := ⟨0x01, none, false, 0, none, false⟩

/-- A trip as the power controller logs it (R597), and whether an error record has reported it (R600). -/
structure Trip where
  kind   : Nat
  sensor : Nat
  value  : Nat
  time   : Nat
  env    : Word
  told   : Bool
deriving DecidableEq, Repr

/-- The power controller and the limiters (17_power_startup_thermal.md): its own clock in ns, whether the input switch is closed, the rail
groups up, PWR_OK, t0, the trip that it has to recover from with its time, the times of the trips of the last minute, whether it stays
off after three, the trip log newest first, the link silent, the fabric time last received, whether PWR_FAIL is due, whether firmware
runs, whether a package reset is under way and its cause. The limiters: demands by die times 16 plus CAUSE, the runs of calm
evaluations by the same keys, the dies whose step change is under way, the step whose ACLK runs, the times of the last change and of
the last POWER record of each die, the records due, the dies halved by a droop with the droop's time, and the droop times of a die. -/
structure Power where
  clock   : Nat
  on      : Bool
  groups  : Nat
  ok      : Bool
  t0      : Nat
  trip    : Option (Nat × Nat)
  recent  : List Nat
  held    : Bool
  trips   : List Trip
  silent  : Bool
  heard   : Nat
  fail    : Bool
  fw      : Bool
  rst     : Option Nat
  demand  : Tbl Nat
  calm    : Tbl Nat
  moving  : List Nat
  aclk    : Tbl Nat
  changed : Tbl Nat
  posted  : Tbl Nat
  due     : List Nat
  halved  : Tbl Nat
  droops  : Tbl (List Nat)
deriving DecidableEq, Repr

/-- Without 54 V. -/
def Power.reset : Power :=
  ⟨0, false, 0, false, 0, none, [], false, [], false, 0, false, false, none, [], [], [], [], [], [], [], [], []⟩

/-- Module flash: settings by CSR offset, an absent one not held; history; shutters; scheduled spare rows; repair maps; firmware images of
slots A and B; the field-test content; the two copies of RESV as sequence, value and valid (R626); identity key generation, rekey
count, cold resets, the latest transition statement and whether it is still unsigned (R629); whether some stack's repair resources are spent
and whether the history has overwritten an entry (R551). -/
structure Flash where
  regs    : Tbl Word
  hist    : List Hist
  shut    : List UnitCode
  rows    : Tbl Nat
  repair  : Tbl DlMap
  images  : Tbl (List Byte)
  content : List Byte
  resv    : List (Nat × Nat × Bool)
  gen     : Nat
  rekeys  : Nat
  colds   : Nat
  stmt    : List Byte
  unsigned : Bool
  spent   : Bool
  full    : Bool
deriving DecidableEq, Repr

/-- The flash of a module as this model takes it at first: it holds no setting, no history and no image (log 2, DESIGN CHOICE). -/
def Flash.reset : Flash := ⟨[], [], [], [], [], [], [], [(0, 0, true), (0, 0, false)], 0, 0, 0, [], false, false, false⟩

/-- The fuses of H0 that can change or be read by a rule: revoked firmware key slots, the floor and the steps left (R615, R617). -/
structure Fuses where
  revoked : BitVec 4
  floor   : Nat
  steps   : Nat
deriving DecidableEq, Repr

/-- The security engine (18_security_attestation.md): the measurement log, whether it overflowed, whether the running image asks for the
floor to be raised, and whether the identity key's cache is built. -/
structure Sec where
  log   : List (Nat × Nat × BitVec 256)
  ovf   : Bool
  raise : Bool
  cache : Bool
deriving DecidableEq, Repr

/-- Field test and injection (R553 to R562): the unit of a running TST_CMD, the injections still armed, the storage places of codewords that an
injection has corrupted, the cluster from which the rotation looks for the next to visit, and the time of its last visit. -/
structure Tst where
  cmd     : Option UnitCode
  left    : Nat
  marks   : List Nat
  visit   : Nat
  visited : Nat
deriving DecidableEq, Repr

/-- Telemetry (R648 to R651): the record's words, input energy in mJ, the I3C pointer and dynamic address, the in-band interrupts raised,
and the bytes that private reads returned. -/
structure Tele where
  words  : List Word
  energy : Nat
  ptr    : Nat
  da     : Option (BitVec 7)
  ibis   : List Nat
  sent   : List (List Byte)
deriving DecidableEq, Repr

/-- No record yet. -/
def Tele.reset : Tele := ⟨[], 0, 0, none, [], []⟩

/-- The machine. The sub-records are those above; `csr` holds every register of the Register index by its CSR offset, a register
that is absent holding its reset value. `pending` is the queue of waiting commands, and `freeCtr` counts the free values drawn
(both the model's own); `autoStep` is the step for which a phase timer that hardware marks is open (R646), `phMark` when a timer last received
a start mark (R645),
`late` names by target, channel and ESEQ the requests that timed out and
whose responses are still to be discarded (R411), and `arb` the round-robin pointer of an arbiter by its number, one that is absent standing at its first requester (R22, R102, R103). -/
structure State where
  csr     : Tbl Word
  mem     : Memory
  cores   : Tbl Core
  clusters : Tbl Cluster
  parked  : Tbl (List Parked)
  atomAns : List (Nat × Word × Bool)
  strms   : StreamTab
  incs    : List Inc
  faults  : List FaultRec
  hostOut : List HostOut
  ring    : Tbl (List Word)
  hist    : List Hist
  spareRows : Tbl Nat
  shut    : List UnitCode
  ctxs    : Tbl Ctx
  cmds    : List Cmd
  nextCmd : Nat
  qpos    : Tbl QPos
  evqs    : Tbl EvQ
  windows : Tbl Window
  aps     : Tbl Aperture
  notices : List Word
  progs   : List CcProg
  ccRegs  : Tbl Core
  pports  : Tbl PPort
  newReqs : List Req
  rq      : List RIn
  inbox   : List RIn
  fports  : Tbl FPort
  dets    : Tbl Detour
  relays  : Tbl Relay
  eseqTx  : Tbl Nat
  eseqRx  : Tbl (Nat × Bool)
  oreqs   : List OReq
  late    : List (PkgId × Nat × BitVec 16)
  wbad    : Tbl Nat
  wacks   : List WAck
  resps   : List Pennant
  netOut  : List NetMsg
  serving : List AtomReq
  offers  : List Offer
  staged  : List Chunk
  steps   : List StepRec
  applies : List Apply
  updCmds : List UpdCmd
  hals    : Tbl Hal
  vholds  : List VHold
  colls   : List Coll
  votes   : List Vote
  tokens  : List (CtxId × Pennant)
  colOrd  : Nat
  nextServe : Nat
  sens    : Sensors
  kicked  : Nat
  msix    : Tbl Word
  pba     : Tbl Nat
  seenDown : List DownId
  dls     : Tbl DlMod
  wkts    : Tbl Wkt
  power   : Power
  flash   : Flash
  fuses   : Fuses
  sec     : Sec
  tst     : Tst
  tele    : Tele
  dieCyc  : Tbl Nat
  autoStep : Tbl Nat
  phMark : Tbl Nat
  arb     : Tbl Nat
  time    : Nat
  cclk5   : Nat
  freeCtr : Nat
  pending : List Instr
deriving DecidableEq, Repr

/-- The faults with which a step could stop. No meaning of this model raises one: the spec gives every command an effect. -/
inductive Fault where
  /-- Raised by no command; kept so that the type is inhabited. Safe. -/
  | none
deriving DecidableEq, Repr

/-- The refusals with which a step could stop. -/
inductive Refusal where
  /-- Raised only by an arm of `exec` whose command has no meaning yet. Safe. -/
  | notModelled (mnemonic : String)
deriving DecidableEq, Repr

/-- Sensors that have not been read yet. -/
def Sensors.reset : Sensors := ⟨⟨0, 0, 0, 0⟩, [], [], 0, 0, 0, 0, 0, 0, [], 0⟩

/-- The machine right after a cold reset, before t0 of the start-up (R13, R530, R602, R668): every register at its reset value,
memory zero, nothing in progress. Values that the spec does not state are those of log 2, DESIGN CHOICE. (log 5, DESIGN CHOICE) -/
def State.reset : State :=
  { csr := [], mem := ⟨[], []⟩, cores := [], clusters := [], parked := [], atomAns := [], strms := ⟨[], none, 0, none⟩, incs := [], faults := [],
    hostOut := [], ring := [], hist := [], spareRows := [], shut := [], ctxs := [], cmds := [], nextCmd := 0, qpos := [], evqs := [], windows := [], aps := [],
    notices := [], progs := [], ccRegs := [], pports := [], newReqs := [], rq := [], inbox := [], fports := [], dets := [], relays := [], eseqTx := [], eseqRx := [], oreqs := [], late := [], wbad := [], wacks := [],
    resps := [], netOut := [], offers := [], staged := [], steps := [], applies := [], updCmds := [], hals := [],
    vholds := [], colls := [], votes := [], tokens := [], colOrd := 0, serving := [], nextServe := 0, sens := Sensors.reset, kicked := 0, msix := [], pba := [], seenDown := [], dls := [], wkts := [],
    power := Power.reset, flash := Flash.reset, fuses := ⟨0, 0, 64⟩, sec := ⟨[], false, false, false⟩, tst := ⟨none, 0, [], 0, 0⟩, tele := Tele.reset, dieCyc := [], autoStep := [], phMark := [], arb := [], time := 0, cclk5 := 0, freeCtr := 0,
    pending := [] }

end Sys2Proof.Machine
end

