-- ==== Sys2Proof/Machine/Table.lean ====
section
/-! DEFINITION. Reading and writing sparse tables and sorted sets. -/

namespace Sys2Proof.Machine

/-- The entry of a key, `d` when the table has none. -/
def tget {α : Type} (d : α) : Tbl α → Nat → α
  | [], _ => d
  | (j, a) :: t, k => if j = k then a else tget d t k

/-- The table with the entry of a key set, keys kept rising. -/
def tset {α : Type} : Tbl α → Nat → α → Tbl α
  | [], k, a => [(k, a)]
  | (j, b) :: t, k, a =>
    if k < j then (k, a) :: (j, b) :: t
    else if k = j then (k, a) :: t
    else (j, b) :: tset t k a

/-- The table without the entry of a key. -/
def terase {α : Type} (t : Tbl α) (k : Nat) : Tbl α := t.filter fun x => x.1 != k

/-- The entry of a key, if present. -/
def tget? {α : Type} (t : Tbl α) (k : Nat) : Option α := (t.find? fun x => x.1 == k).map (·.2)

/-- The entry of a key changed. -/
def tmod {α : Type} (d : α) (t : Tbl α) (k : Nat) (f : α → α) : Tbl α := tset t k (f (tget d t k))

/-- A number put into a rising list without repeats. -/
def setIns : List Nat → Nat → List Nat
  | [], k => [k]
  | j :: t, k => if k < j then k :: j :: t else if k = j then j :: t else j :: setIns t k

/-- A number taken out of a list. -/
def setDel (l : List Nat) (k : Nat) : List Nat := l.filter (· != k)

/-- The first element that meets a test, with the list that is left without it. -/
def takeFirst {α : Type} (p : α → Bool) : List α → Option (α × List α)
  | [] => none
  | a :: t => if p a then some (a, t) else (takeFirst p t).map fun x => (x.1, a :: x.2)

/-- An element put into a list by a number, behind those of the same number. -/
def insertBy {α : Type} (f : α → Nat) (a : α) : List α → List α
  | [] => [a]
  | b :: t => if f a < f b then a :: b :: t else b :: insertBy f a t
/-- A list in ascending order of a number. -/
def sortBy {α : Type} (f : α → Nat) (l : List α) : List α := l.foldl (fun r a => insertBy f a r) []

/-- Every element that meets a test changed by `f`. -/
def updWhere {α : Type} (p : α → Bool) (f : α → α) (l : List α) : List α := l.map fun a => if p a then f a else a

end Sys2Proof.Machine
end

