-- ==== Sys2Proof/Machine/Ops.lean ====
section
/-! DEFINITION. The named operations over the state: CSRs, cores, the address map and reach, memory, faults, event registers and
the holds of a sequencer. -/

namespace Sys2Proof.Machine

/-! CSRs (R5, R12). -/

/-- The value of the register at a CSR offset. -/
def State.csrGet (s : State) (off : Nat) : Word := tget (csrReset off) s.csr off
/-- The register at a CSR offset set. -/
def State.csrSet (s : State) (off : Nat) (v : Word) : State := { s with csr := tset s.csr off v }
/-- A field of the register at a CSR offset. -/
def State.fld (s : State) (off : Nat) (f : Fld) : Nat := getFld (s.csrGet off) f
/-- A one-bit field as a truth value. -/
def State.bit (s : State) (off : Nat) (f : Fld) : Bool := s.fld off f == 1
/-- A field set by hardware. -/
def State.setFld (s : State) (off : Nat) (f : Fld) (v : Nat) : State := s.csrSet off (putFld (s.csrGet off) f v)
/-- A counting field raised by `n`, saturating at its width. -/
def State.bump (s : State) (off : Nat) (f : Fld) (n : Nat) : State :=
  s.setFld off f (satAdd (s.fld off f) n (2 ^ f.len - 1))
/-- A flag set when `b` holds. -/
def State.flagIf (s : State) (off : Nat) (f : Fld) (b : Bool) : State := if b then s.setFld off f 1 else s

/-! Free values (log 1, DESIGN CHOICE). -/

/-- A free value: an unconstrained word, and the counter moved on. -/
def State.draw (s : State) : Word × State := (Config.freeValue s.freeCtr, { s with freeCtr := s.freeCtr + 1 })

/-! Cores (R17, R18, R24, R25). -/

/-- The table key of a core: `k × 256 + c × 16 + q`, or 0x1000 plus the number of a control core. -/
def coreKey : CoreId → Nat
  | .cmp k c q => k * 256 + c * 16 + q
  | .ctl n => 0x1000 + n

/-- The key belongs to a control core. -/
def isCtl (key : Nat) : Bool := 0x1000 ≤ key
/-- The compute die of a core key. -/
def keyDie (key : Nat) : Nat := key / 256
/-- The cluster number within the die of a core key. -/
def keyCl (key : Nat) : Nat := key / 16 % 16
/-- The logical core number of a core key. -/
def keyQ (key : Nat) : Nat := key % 16
/-- The cluster table key of a core key. -/
def keyCluster (key : Nat) : Nat := keyDie key * 12 + keyCl key
/-- The core keys of a cluster. -/
def clusterCores (k cl : Nat) : List Nat := (List.range 8).map fun q => k * 256 + cl * 16 + q
/-- The core keys of every compute core. -/
def allCores : List Nat := (List.range 48).flatMap fun i => clusterCores (i / 12) (i % 12)
/-- The keys of the control cores. -/
def allCtl : List Nat := (List.range 16).map (0x1000 + ·)

def State.core (s : State) (key : Nat) : Core := tget Core.reset s.cores key
def State.setCore (s : State) (key : Nat) (c : Core) : State := { s with cores := tset s.cores key c }
def State.modCore (s : State) (key : Nat) (f : Core → Core) : State := s.setCore key (f (s.core key))
def State.cluster (s : State) (i : Nat) : Cluster := tget Cluster.reset s.clusters i
def State.modCluster (s : State) (i : Nat) (f : Cluster → Cluster) : State :=
  { s with clusters := tset s.clusters i (f (s.cluster i)) }
def State.ctx (s : State) (n : Nat) : Ctx := tget Ctx.reset s.ctxs n
def State.modCtx (s : State) (n : Nat) (f : Ctx → Ctx) : State := { s with ctxs := tset s.ctxs n (f (s.ctx n)) }

/-- A scalar register. -/
def Core.reg (c : Core) (n : Nat) : Word := tget 0 c.s n
/-- A scalar register written. -/
def Core.setReg (c : Core) (n : Nat) (v : Word) : Core := { c with s := tset c.s n v }
/-- A predicate; p0 reads 1 (R119). -/
def Core.pred (c : Core) (n : Nat) : Bool := n == 0 || c.p.getLsbD n
/-- A predicate written; a write to p0 is ignored (R119). -/
def Core.setPred (c : Core) (n : Nat) (b : Bool) : Core :=
  if n = 0 then c
  else { c with p := if b then c.p ||| BitVec.ofNat 16 (2 ^ n) else c.p &&& ~~~(BitVec.ofNat 16 (2 ^ n)) }
/-- An event count. -/
def Core.event (c : Core) (e : Nat) : Nat := tget 0 c.ev e
/-- A tile register. -/
def Core.tile (c : Core) (t : Nat) : Tile := tget Tile.zero c.tiles t
/-- A tile register written. -/
def Core.setTile (c : Core) (t : Nat) (x : Tile) : Core := { c with tiles := tset c.tiles t x }
/-- Word `32 r + e` of a tile. -/
def Tile.at (t : Tile) (r e : Nat) : Elem := t.words.getD (32 * r + e) 0

/-- A hot repair of the core's cluster is in progress, so that its cores dispatch nothing (R115). -/
def State.repairing (s : State) (key : Nat) : Bool := !isCtl key && (s.cluster (keyCluster key)).repSt != 0

/-- The physical core that serves a logical core (R113). -/
def State.physCore (s : State) (key : Nat) : Nat :=
  bits (s.csrGet (PKG_CORE_MAP.off (keyDie key) (keyCl key))).toNat (4 * keyQ key) 4

/-- Engine numbers of R23. -/
def engSeq : Nat := 0
def engMx : Nat := 1
def engVx : Nat := 2
def engLs : Nat := 3

/-- A unit code from its fields (R23). -/
def mkUnit (die cl core eng sub : Nat) : UnitCode :=
  BitVec.ofNat 32 (die * 2 ^ 28 + cl * 2 ^ 24 + core * 2 ^ 20 + eng * 2 ^ 16 + sub)

/-- The unit code of an engine of a core, SUB 0xFFFF (R24, R25). -/
def State.unitOf (s : State) (key eng : Nat) : UnitCode :=
  if isCtl key then mkUnit 8 0 (key - 0x1000) 7 0xFFFF
  else mkUnit (keyDie key) (keyCl key) (s.physCore key) eng 0xFFFF

/-- The unit code of the package controller. -/
def unitPkg : UnitCode := 0xD0000000
/-- The unit code of an HBM controller. -/
def unitHbm (m : Nat) : UnitCode := mkUnit (m / 3) (12 + m % 3) 0 3 0xFFFF
/-- The unit code of an update unit. -/
def unitUpd (u : Nat) : UnitCode := mkUnit (u / 3) (12 + u % 3) 0 4 0xFFFF
/-- The unit code of a fabric port. -/
def unitPort (p : Nat) : UnitCode := mkUnit (4 + p / 4) (p % 4) 0 5 0xFFFF
/-- The unit code of a collective unit. -/
def unitCol (k : Nat) : UnitCode := mkUnit (4 + k) 15 0 6 0xFFFF
/-- The unit code of a PCIe port. -/
def unitPcie (p : Nat) : UnitCode := mkUnit 8 (1 + p) 0 3 0xFFFF

/-! The address map (R30, R237). -/

/-- Where a local address lies. -/
inductive Tier where
  | hbm | near | cluster (k c : Nat) | scratch (k c q : Nat) | csr | hostWin (p : Nat) | none
deriving DecidableEq, Repr

def nearBase : Nat := 0x010000000000
def clusterBase : Nat := 0x020000000000
def scratchBase : Nat := 0x030000000000
def csrBase : Nat := 0x0F0000000000
def gib : Nat := 0x40000000

/-- The first byte of a core's scratchpad. -/
def scratchOf (key : Nat) : Nat := scratchBase + key * 0x400000
/-- The first byte of a cluster memory. -/
def clusterMem (k c : Nat) : Nat := clusterBase + (k * 16 + c) * 0x1000000

/-- The tier of a local address (R30). -/
def tierOf (a : Nat) : Tier :=
  if a < 0xC000000000 then .hbm
  else if nearBase ≤ a ∧ a < nearBase + 4 * 0x60000000 then .near
  else if clusterBase ≤ a ∧ a < clusterBase + 0x40000000 then
    let o := a - clusterBase
    let n := o / 0x1000000
    if n % 16 < 12 ∧ o % 0x1000000 < 0x800000 then .cluster (n / 16) (n % 16) else .none
  else if scratchBase ≤ a ∧ a < scratchBase + 0x100000000 then
    let o := a - scratchBase
    let n := o / 0x400000
    if n / 16 % 16 < 12 ∧ n % 16 < 8 ∧ o % 0x400000 < 0x200000 then .scratch (n / 256) (n / 16 % 16) (n % 16) else .none
  else if csrBase ≤ a ∧ a < csrBase + 0x10000000 then .csr
  else if 0x400000000000 ≤ a ∧ a < 0x600000000000 then .hostWin 0
  else if 0x600000000000 ≤ a ∧ a < 0x800000000000 then .hostWin 1
  else .none

/-- A range lies whole in one backed range of R30. -/
def oneRange (a len : Nat) : Bool := tierOf a != .none && tierOf (a + (len - 1)) == tierOf a

/-- The stack and the offset in it of a local HBM address (R237). -/
def State.hbmPlace (s : State) (a : Nat) : Nat × Nat :=
  let split := s.fld PKG_HBM_ILV.off PKG_HBM_ILV.SPLIT
  let lowEnd := 12 * split * gib
  if a < lowEnd then
    let g := a / 4096
    (g % 12, g / 12 * 4096 + a % 4096)
  else
    let b := a - lowEnd
    let u := (64 - split) * gib
    if s.bit PKG_HBM_ILV.off PKG_HBM_ILV.UPPER_MODE then (b / u, split * gib + b % u)
    else
      let k := b / (3 * u)
      let c := b % (3 * u)
      let g := c / 4096
      (3 * k + g % 3, split * gib + g / 3 * 4096 + c % 4096)

/-- The storage place of a local address: HBM by stack and offset, other tiers by address (R238). -/
def State.memKey (s : State) (a : Nat) : Nat :=
  match tierOf a with
  | .hbm => let (m, o) := s.hbmPlace a; m * 0x1000000000 + o
  | _ => a

/-- The atomic unit of a local address: clusters 0 to 47, near dies 48 to 51, HBM controllers 52 to 63 (R97). -/
def State.atomUnit (s : State) (a : Nat) : Option Nat :=
  match tierOf a with
  | .cluster k c => some (k * 12 + c)
  | .near => some (48 + (a - nearBase) / 0x60000000)
  | .hbm => some (52 + (s.hbmPlace a).1)
  | _ => none

/-- The bank of a scratchpad, the bank of a cluster memory and the channel of a near die that hold an address (R234). -/
def scratchBank (a : Nat) : Nat := a % 0x400000 / 64 % 32
def clusterBank (a : Nat) : Nat := a % 0x1000000 / 128 % 16
def nearChannel (a : Nat) : Nat := (a - nearBase) % 0x60000000 / 256 % 32

/-- The storage unit that a record of a poisoned read names, with its detector (R241, R534). -/
def State.storageUnit (s : State) (a : Nat) : UnitCode × BitVec 8 :=
  match tierOf a with
  | .cluster k c => (mkUnit k c 15 3 (clusterBank a), 0x05)
  | .scratch k c q => (mkUnit k c (s.physCore (k * 256 + c * 16 + q)) 3 (scratchBank a), 0x04)
  | .near => (mkUnit (9 + (a - nearBase) / 0x60000000) 0 0 3 (nearChannel a), 0x06)
  | _ => (unitHbm (s.hbmPlace a).1, 0x07)

/-! Memory (R234 to R241). -/

/-- One byte at a storage place; an unlisted place holds 0 (R530, R602). (log 4, DESIGN CHOICE) -/
def Memory.get (m : Memory) (k : Nat) : Byte := tget 0 m.cells k
/-- One byte written in canonical form. (log 4, DESIGN CHOICE) -/
def Memory.put (m : Memory) (k : Nat) (v : Byte) : Memory :=
  { m with cells := if v = 0 then terase m.cells k else tset m.cells k v }

/-- The canonical form: keys strictly rising, no entry equal to what an unlisted key reads as. -/
def cellsWf : List Host.Cell → Bool
  | [] => true
  | (k, v) :: t => v != 0 && t.all (fun x => decide (k < x.1)) && cellsWf t
/-- The memory is in canonical form. -/
def Memory.wf (m : Memory) : Bool := cellsWf m.cells

/-- Bytes of a codeword at a local address (R239). -/
def cwSize (a : Nat) : Nat :=
  match tierOf a with
  | .cluster _ _ => 8
  | .scratch _ _ _ => 8
  | _ => 32

/-- The first address of the codeword that holds an address. -/
def cwOf (a : Nat) : Nat := a / cwSize a * cwSize a

/-- The codewords that a range touches, by first address, lowest first. -/
def cwRange (a len : Nat) : List Nat :=
  if len = 0 then []
  else
    let z := cwSize a
    (List.range ((a + len - 1) / z - a / z + 1)).map fun i => (a / z + i) * z

/-- One byte at a local address of a memory tier. -/
def State.readByte (s : State) (a : Nat) : Byte := s.mem.get (s.memKey a)
/-- Bytes at a local address. -/
def State.readBytes (s : State) (a n : Nat) : List Byte := (List.range n).map fun i => s.readByte (a + i)
/-- A little-endian number at a local address (R3). -/
def State.readNat (s : State) (a n : Nat) : Nat := leNat (s.readBytes a n)
/-- A 64-bit word at a local address. -/
def State.readWord (s : State) (a : Nat) : Word := BitVec.ofNat 64 (s.readNat a 8)
/-- Some codeword of a range is poisoned. -/
def State.poisoned (s : State) (a n : Nat) : Bool := (cwRange a n).any fun c => s.mem.poison.contains (s.memKey c)

/-- The first byte of a range that is read poisoned: the data address found in fault (R157, R241). -/
def State.badByte (s : State) (a n : Nat) : Option Nat :=
  ((cwRange a n).find? fun c => s.mem.poison.contains (s.memKey c)).map fun c => max a c
/-- The first byte read poisoned of several ranges in order. -/
def State.badIn (s : State) (rs : List (Nat × Nat)) : Option Nat := rs.findSome? fun r => s.badByte r.1 r.2

/-- Bytes stored without any check. -/
def State.putBytes (s : State) : Nat → List Byte → State
  | _, [] => s
  | a, b :: bs => State.putBytes { s with mem := s.mem.put (s.memKey a) b } (a + 1) bs

/-- The poison marks after a write: set by a poisoned write, cleared by a write of the whole codeword (R240, R241). -/
def State.markPoison (s : State) (a len : Nat) (poison : Bool) : State :=
  let z := cwSize a
  (cwRange a len).foldl (fun s c =>
    let k := s.memKey c
    if poison then { s with mem := { s.mem with poison := setIns s.mem.poison k } }
    else if a ≤ c ∧ c + z ≤ a + len then { s with mem := { s.mem with poison := setDel s.mem.poison k } }
    else s) s

/-! Reach of a context (R509, R269, R272, R281, R377, R481). -/

/-- The port of a function is bifurcated and its slot belongs to link B (R474). -/
def State.linkOf (s : State) (p f : Nat) : LinkAB :=
  if (tget ⟨true, false, false, 0, 0, PLink.down, PLink.down⟩ s.pports p).bifur ∧ 16 ≤ f then .b else .a
/-- The default of a PCIe port: PERST# asserted, no link. -/
def PPort.reset : PPort := ⟨true, false, false, 0, 6, PLink.down, PLink.down⟩
def State.pport (s : State) (p : Nat) : PPort := tget PPort.reset s.pports p
/-- A link of a port. -/
def PPort.link (p : PPort) : LinkAB → PLink
  | .a => p.linkA
  | .b => p.linkB
/-- The slot of a link's physical function. -/
def pfSlot : LinkAB → Nat
  | .a => 0
  | .b => 16
/-- The slot is that of a physical function of its port (R474). -/
def State.isPf (s : State) (p f : Nat) : Bool := f == 0 || (f == 16 && (s.pport p).bifur)
/-- The enabled virtual function slots of a link (R509). -/
def State.linkVfs (s : State) (p : Nat) (l : LinkAB) : List Nat :=
  let k := (s.pport p).link l
  if k.vfEn then (List.range k.numVfs).map fun i => pfSlot l + 1 + i else []

/-- The functions whose shares a context reaches (R509). -/
def State.shareFns (s : State) (n : Nat) : List (Nat × Nat) :=
  let c := s.ctx n
  if !c.bound then []
  else
    let own := (c.port, c.slot)
    if s.isPf c.port c.slot then own :: (s.linkVfs c.port (s.linkOf c.port c.slot)).map fun f => (c.port, f) else [own]

/-- A range lies in the HBM or near-tier part of a share; a part that runs past its tier is void (R508). -/
def State.inShare (s : State) (p f a len : Nat) : Bool :=
  let w := PKG_SHARE.off p f
  let hb := s.fld w PKG_SHARE.HBASE
  let hs := s.fld w PKG_SHARE.HSIZE
  let nb := s.fld w PKG_SHARE.NBASE
  let ns := s.fld w PKG_SHARE.NSIZE
  let mib64 := 0x4000000
  (decide (hb + hs ≤ 768) && decide (hb * gib ≤ a) && decide (a + len ≤ (hb + hs) * gib)) ||
    (decide (nb + ns ≤ 96) && decide (nearBase + nb * mib64 ≤ a) && decide (a + len ≤ nearBase + (nb + ns) * mib64))

/-- A context's own window covers a range of a port's host window with the access type (R480, R481). -/
def State.inWindow (s : State) (n p a len : Nat) (wr : Bool) : Bool :=
  let base := 0x400000000000 + p * 0x200000000000
  s.windows.any fun x =>
    let w := x.2
    w.ctx.val == n && w.port == p && (if wr then w.wr else w.rd) &&
      decide (base + w.loff ≤ a) && decide (a + len ≤ base + w.loff + w.len)

/-- The host address that a context's window gives a local address. -/
def State.windowHost (s : State) (n p a : Nat) : Nat :=
  let base := 0x400000000000 + p * 0x200000000000
  match s.windows.find? (fun x => x.2.ctx.val == n && x.2.port == p && decide (base + x.2.loff ≤ a) &&
      decide (a < base + x.2.loff + x.2.len)) with
  | some x => x.2.haddr + (a - base - x.2.loff)
  | none => 0

/-- A context holds a cluster. -/
def State.holds (s : State) (n k c : Nat) : Bool :=
  match (s.cluster (k * 12 + c)).holder with
  | some h => h.val == n
  | none => false

/-- A range is within the reach of a context, CSR space apart (R509). -/
def State.reaches (s : State) (n a len : Nat) (wr : Bool) : Bool :=
  match tierOf a with
  | .hbm => n == 0 || (s.shareFns n).any fun x => s.inShare x.1 x.2 a len
  | .near => n == 0 || (s.shareFns n).any fun x => s.inShare x.1 x.2 a len
  | .cluster k c => n == 0 || s.holds n k c
  | .scratch k c _ => n == 0 || s.holds n k c
  | .hostWin p => s.inWindow n p a len wr
  | _ => false

/-- Two ranges share a byte. -/
def overlap (a n b m : Nat) : Bool := decide (a < b + m) && decide (b < a + n)

/-- A pin entry covers a byte of the range and does not permit this writer (R268, R269). `upd` marks an update unit. -/
def State.pinForbids (s : State) (writer : Option Nat) (upd : Bool) (a len : Nat) : Bool :=
  (List.range 8).any fun i =>
    let o := PKG_NEAR_PIN.off i
    let sz := s.fld o PKG_NEAR_PIN.SIZE
    s.bit o PKG_NEAR_PIN.VALID && sz != 0 &&
      overlap a len (nearBase + s.fld o PKG_NEAR_PIN.BASE * 0x200000) (sz * 0x200000) &&
      !(writer == some 0 || writer == some (s.fld o PKG_NEAR_PIN.WRITER) || (upd && s.bit o PKG_NEAR_PIN.UPD))

/-- The valid buddy windows that a range touches (R271, R272). -/
def State.buddiesAt (s : State) (a len : Nat) : List Nat :=
  (List.range 2).filter fun i =>
    let o := PKG_BUDDY.off i
    let b := s.fld o PKG_BUDDY.BASE
    let z := s.fld o PKG_BUDDY.SIZE
    s.bit o PKG_BUDDY.VALID && z != 0 && decide (b + z ≤ 768) && overlap a len (b * gib) (z * gib)

/-- The staging range of an update unit in its stack, if it is in force and not void (R280, R281). -/
def State.stageRange (s : State) (u : Nat) : Option (Nat × Nat) :=
  let o := UPD_STAGE.off u
  let z := s.fld o UPD_STAGE.SIZE * 0x4000000
  let b := s.fld o UPD_STAGE.OFF * 0x4000000
  if s.bit o UPD_STAGE.EN && z != 0 && decide (b + z ≤ 64 * gib) then some (b, z) else none

/-- A local HBM range maps into a staging range (R281). -/
def State.inStaging (s : State) (a len : Nat) : Bool :=
  let on := (List.range 12).filter fun u => (s.stageRange u).isSome
  !on.isEmpty && tierOf a == .hbm && len != 0 &&
    (List.range ((a + len - 1) / 4096 - a / 4096 + 1)).any fun i =>
      let g := (a / 4096 + i) * 4096
      let lo := max a g
      let hi := min (a + len) (g + 4096)
      let (m, o) := s.hbmPlace lo
      match s.stageRange m with
      | some (b, z) => overlap o (hi - lo) b z
      | none => false

/-- A range touches a long-haul area of a port in long-haul mode (R375, R377). -/
def State.inLongHaul (s : State) (a len : Nat) : Bool :=
  (List.range 16).any fun p =>
    s.bit (FAB_STS.off p) FAB_STS.LH_ACT &&
      (let z := s.fld (FAB_LHCFG.off p) FAB_LHCFG.SIZE * 0x200000
       overlap a len (s.fld (FAB_LHCFG.off p) FAB_LHCFG.WBASE * 0x200000) z ||
         overlap a len (s.fld (FAB_LHQ.off p) FAB_LHQ.QBASE * 0x200000) z)

/-- The limits on particular ranges hold for a local access of a context (R269, R272, R281, R377). -/
def State.limitsOk (s : State) (n a len : Nat) (wr : Bool) : Bool :=
  !(wr && s.pinForbids (some n) false a len) &&
    ((s.buddiesAt a len).isEmpty || (n == 0 && !wr)) &&
    !s.inStaging a len && !s.inLongHaul a len

/-- The near site behind compute die `k` is shuttered, so that its range is unbacked (R573). -/
def State.siteShut (s : State) (k : Nat) : Bool := s.shut.contains (mkUnit (9 + k) 0 0 3 0xFFFF)

/-- An address of a near site that is shuttered (R573). -/
def State.nearGone (s : State) (a : Nat) : Bool := tierOf a == .near && s.siteShut ((a - nearBase) / 0x60000000)

/-- A range of the near tier touches the site of a shuttered one (R573). -/
def State.rangeGone (s : State) (a len : Nat) : Bool :=
  let gone (k : Nat) : Bool := s.siteShut k && overlap a len (nearBase + k * 0x60000000) 0x60000000
  tierOf a == .near && (List.range 4).any gone

/-- An address that no tier backs (R30, R573). -/
def State.unbacked (s : State) (a : Nat) : Bool := tierOf a == .none || s.nearGone a

/-- A range that begins and ends in backed places crosses an unbacked gap: only the two host windows adjoin (R30, R31). -/
def crossesGap (a len : Nat) : Bool :=
  match tierOf a, tierOf (a + (len - 1)) with
  | .hostWin _, .hostWin _ => false
  | x, y => x != y

/-- The fault of a local access outside CSR space, if it has one (R31, R509). -/
def State.localFault (s : State) (n a len : Nat) (wr : Bool) : Option FaultCode :=
  if s.unbacked a || s.unbacked (a + (len - 1)) || s.rangeGone a len || crossesGap a len then some .address
  else if oneRange a len && s.reaches n a len wr && s.limitsOk n a len wr then none
  else some .access

/-! Faults (R151 to R157). -/

/-- A hatch of the context is in progress. -/
def State.hatching (s : State) (n : Nat) : Bool := (s.ctx n).hatch.isSome

/-- The number of a fault code (R151). -/
def FaultCode.num : FaultCode → Nat
  | .illegalInstr => 1
  | .illegalOperand => 2
  | .privilege => 3
  | .alignment => 4
  | .address => 5
  | .access => 6
  | .eventOverflow => 7
  | .fetch => 8
  | .memoryError => 9
  | .stream => 10

/-- A detected fault queued for its context; none is recorded once a hatch has begun (R521, R523). -/
def State.addFault (s : State) (f : FaultRec) : State :=
  if s.hatching f.ctx then s else { s with faults := s.faults ++ [f] }

/-- A fault detected by an engine of a core for its running context. (log 35, DEDUCED) -/
def State.coreFault (s : State) (key eng : Nat) (code : FaultCode) (cls op pc addr : Nat) : State :=
  s.addFault ⟨(s.core key).ctx, code, cls, op, pc, addr, s.unitOf key eng, s.time⟩

/-! Performance counters (19_counters_and_telemetry.md R634 to R642). -/

/-- The register of counter `n`, 1 to 8, of a core and its selection. -/
def pmcCnt (key n : Nat) : Nat := CORE_PMC_CNT.off (keyDie key) (keyCl key) (keyQ key) (n - 1)
def pmcSel (key n : Nat) : Nat := CORE_PMC_SEL.off (keyDie key) (keyCl key) (keyQ key) (n - 1)

/-- Counter `n` raised: past 48 bits the low bits stay and the carry goes to counter `n + 1` when CHAIN and EN are 1, else OVF is set
(R636). -/
def State.pmcAdd (s : State) (key amt : Nat) : Nat → Nat → State
  | 0, _ => s
  | fuel + 1, n =>
    let v := s.fld (pmcCnt key n) CORE_PMC_CNT.COUNT + amt
    let s1 := s.setFld (pmcCnt key n) CORE_PMC_CNT.COUNT (v % 2 ^ 48)
    if v < 2 ^ 48 then s1
    else if n < 8 && s.bit (pmcSel key n) CORE_PMC_SEL.CHAIN && s.bit (pmcSel key n) CORE_PMC_SEL.EN then
      (if s.bit (pmcSel key (n + 1)) CORE_PMC_SEL.EN && !s.bit PMC_CTL.off PMC_CTL.FREEZE then s1.pmcAdd key (v / 2 ^ 48) fuel (n + 1)
       else s1)
    else
      let o := CORE_PMC_OVF.off (keyDie key) (keyCl key) (keyQ key)
      s1.setFld o CORE_PMC_OVF.OVF (s1.fld o CORE_PMC_OVF.OVF ||| 2 ^ (n - 1))

/-- Counter `n` counts occurrences of context `ctx` now (R635, R636, R641). -/
def State.pmcCounts (s : State) (key n : Nat) (ctx : Option Nat) : Bool :=
  s.bit (pmcSel key n) CORE_PMC_SEL.EN && !s.bit PMC_CTL.off PMC_CTL.FREEZE &&
    (n == 1 || !s.bit (pmcSel key (n - 1)) CORE_PMC_SEL.CHAIN) &&
    (!s.bit (pmcSel key n) CORE_PMC_SEL.CTXF || ctx == some (s.fld (pmcSel key n) CORE_PMC_SEL.CTX))

/-- Occurrences of an event of R642 on a compute core, counted by every counter that selects it (R635). -/
def State.pmcEvent (s : State) (key code amt : Nat) (ctx : Option Nat) : State :=
  if isCtl key || amt == 0 then s
  else (List.range 8).foldl (fun s i =>
    if s.fld (pmcSel key (i + 1)) CORE_PMC_SEL.EVENT == code && s.pmcCounts key (i + 1) ctx then s.pmcAdd key amt 8 (i + 1) else s) s

/-- An event of the context that a core runs. -/
def State.pmcOwn (s : State) (key code amt : Nat) : State := s.pmcEvent key code amt (some (s.core key).ctx.val)

/-! Holds and event registers (R92 to R96, R126, R136). -/

/-- The engine queues of a core have drained and its engines are idle. -/
def Core.drained (c : Core) : Bool :=
  c.mq.isEmpty && c.vq.isEmpty && c.lq.isEmpty && c.lrun.isNone && c.mx.run.isNone && c.mx.landing.isEmpty && c.mx.loads.isEmpty &&
    c.vx.run.isNone && c.vx.landing.isEmpty

/-- Every instruction of the core has completed. -/
def Core.quiet (c : Core) : Bool := c.flights.isEmpty && c.drained

/-- What a fence waits for has completed: every earlier instruction but the collectives and votes that go on (R136). -/
def Core.fenced (c : Core) : Bool := c.flights.all (fun f => f.op == .col) && c.drained

/-- No scalar store of the core is outstanding. -/
def Core.noStores (c : Core) : Bool := c.flights.all fun f => match f.op with | .store _ => false | _ => true

/-- No scalar load, scalar store or semaphore of the core is outstanding. -/
def Core.noScalar (c : Core) : Bool := c.flights.all fun f => match f.op with | .hatch => true | .cancel => true | .col => true | _ => false

/-- A core whose hold's condition is met goes on: a satisfied event wait subtracts its threshold (R94), a fence ends, an icinv
empties the instruction cache (R126). -/
def Core.settle (c : Core) : Core :=
  match c.hold with
  | .ev e thr => if thr ≤ c.event e then { c with ev := tset c.ev e (c.event e - thr), hold := .none } else c
  | .fence => if c.fenced then { c with hold := .none } else c
  | .fenceS => if c.noScalar then { c with hold := .none } else c
  | .icinv => if c.noStores then { c with hold := .none, icache := [] } else c
  | _ => c

def State.settle (s : State) (key : Nat) : State := s.modCore key Core.settle

/-- An increment added to an event register; past 0xFFFF the count stays there and EVENT_OVERFLOW is raised with the source's
class, operation, pc and data address, all 0 for a producer that is no instruction of the core (R93). -/
def State.evAdd (s : State) (key e n : Nat) (cls op pc addr : Nat) : State :=
  let t := (s.core key).event e + n
  let s1 := s.modCore key fun c => ({ c with ev := tset c.ev e (min t 0xFFFF) }).settle
  if 0xFFFF < t then s1.coreFault key engSeq .eventOverflow cls op pc addr else s1

/-! Writes performed at a memory and the waits parked on it (R101, R673). -/

/-- The register set of context `n` on a core: a compute core has one; a control core holds the one in use, the others are saved (R124,
R150). -/
def State.setOf (s : State) (key n : Nat) : Core :=
  if isCtl key && (s.core key).ctx.val != n then tget Core.reset s.ccRegs ((key - 0x1000) * 64 + n) else s.core key

/-- The register set of context `n` on a core changed; a set that does not exist stays so. An icinv that ends in a saved set empties the
core's one instruction cache (R126). -/
def State.modSet (s : State) (key n : Nat) (f : Core → Core) : State :=
  if isCtl key && (s.core key).ctx.val != n then
    match tget? s.ccRegs ((key - 0x1000) * 64 + n) with
    | some c =>
      let s1 := { s with ccRegs := tset s.ccRegs ((key - 0x1000) * 64 + n) (f c) }
      if c.hold == .icinv && (f c).hold == .none then s1.modCore key fun x => { x with icache := [] } else s1
    | none => s
  else s.modCore key f

/-- Flights of a context on a control core are numbered from here, so that the number names the set. -/
def fidBase (n : Nat) : Nat := n * 2 ^ 32
/-- The place of the next access of a core in its order of issue: the part of its number that all register sets share (R100). -/
def Core.nextOrd (c : Core) : Nat := c.nextFid % 2 ^ 32

/-- A control core takes another register set: its one instruction cache and the numbering of its accesses go on (R100, R124, R126,
R150). -/
def State.swapSet (s : State) (key : Nat) (x : Core) : State :=
  let c := s.core key
  s.setCore key { x with icache := c.icache, nextFid := fidBase x.ctx.val + max x.nextOrd c.nextOrd }
/-- The context of a flight's register set on a control core. -/
def fidCtx (fid : Nat) : Nat := fid / 2 ^ 32

/-- A flight put into a list by its order of issue. -/
def putFlight (f : Flight) : List Flight → List Flight
  | [] => [f]
  | g :: t => if f.ord < g.ord then f :: g :: t else g :: putFlight f t

/-- The flights of a core in the order of their issue: those of every register set of a control core (R100, R124). -/
def State.allFlights (s : State) (key : Nat) : List Flight :=
  let c := s.core key
  if isCtl key then ((List.range 64).flatMap fun n => (s.setOf key n).flights).foldl (fun l f => putFlight f l) []
  else c.flights

/-- The flight of a core with a number. -/
def State.flight (s : State) (key fid : Nat) : Option Flight := (s.setOf key (fidCtx fid)).flights.find? fun f => f.fid == fid

/-- A flight of a core changed. -/
def State.modFlight (s : State) (key fid : Nat) (f : Flight → Flight) : State :=
  s.modSet key (fidCtx fid) fun c => { c with flights := updWhere (fun x => x.fid == fid) f c.flights }

/-- A flight taken out: it has completed or is dropped. -/
def State.dropFlight (s : State) (key fid : Nat) : State :=
  s.modSet key (fidCtx fid) fun c => { c with flights := c.flights.filter fun x => x.fid != fid }

/-- An increment added to an event register of the set of context `n` on a core, with the rule of R93 for a count past 0xFFFF. -/
def State.evAddSet (s : State) (key n e k : Nat) (cls op pc addr : Nat) : State :=
  if isCtl key && (s.core key).ctx.val != n then
    let t := (s.setOf key n).event e + k
    let s1 := s.modSet key n fun c => ({ c with ev := tset c.ev e (min t 0xFFFF) }).settle
    if 0xFFFF < t then s1.addFault ⟨Fin.ofNat 64 n, .eventOverflow, cls, op, pc, addr, s1.unitOf key engSeq, s1.time⟩ else s1
  else s.evAdd key e k cls op pc addr

/-- The atomic answers that other packages still have to be sent: number, value, poison (R408). Kept in `State.atomAns`. -/
def State.answerAtom (s : State) (r : AtomRef) (v : Word) (poison : Bool) : State :=
  match r with
  | .core key fid => s.modFlight key fid fun f => { f with st := .answered, res := v, poison := poison }
  | .remote id => { s with atomAns := s.atomAns ++ [(id, v, poison)] }

/-- The parked waits of one unit on the words of a range tested in the order they were parked (R101, R673). -/
def State.wakeUnit (s : State) (a len : Nat) : State :=
  match s.atomUnit a with
  | none => s
  | some u =>
    let l := tget [] s.parked u
    l.foldl (fun s p =>
      if overlap p.addr 8 a len then
        let m := s.readNat p.addr 8
        let bad := s.poisoned p.addr 8
        if bad || decide (p.thr.toNat ≤ m) then
          { s.answerAtom p.ref (BitVec.ofNat 64 m) bad with
            parked := tset s.parked u ((tget [] s.parked u).filter (· != p)) }
        else s
      else s) s

/-- The parts of a range within 4 KiB, each of which lies in one atomic unit (R97, R237). -/
def granules (a len : Nat) : List (Nat × Nat) :=
  if len = 0 then []
  else (List.range ((a + len - 1) / 4096 - a / 4096 + 1)).map fun i =>
    let lo := max a ((a / 4096 + i) * 4096)
    (lo, min (a + len) ((a / 4096 + i + 1) * 4096) - lo)

/-- The parked waits on the words of a written range tested at every unit that the range touches (R101). -/
def State.wake (s : State) (a len : Nat) : State := (granules a len).foldl (fun s g => s.wakeUnit g.1 g.2) s

/-- An increment sent towards an event register of a core from another clock domain (R93, R96). For a core saved by a suspension
it is kept by the package controller (R503). -/
def State.sendInc (s : State) (i : Inc) : State :=
  if (s.ctx i.ctx).st == .suspended && (s.ctx i.ctx).saveAt.isSome then
    s.modCtx i.ctx fun c => { c with kept := c.kept ++ [i] }
  else { s with incs := s.incs ++ [i] }

/-! Arbiters (R22, R102, R103). -/

/-- The arbiters of cores and clusters (R102), those of the stream engines (R249), of the collective units (R432), of a function's submission
queues (R490) and of the flit slots of a die-link module in one direction (R568), with what they belong to. -/
inductive Arb where
  | transomRead (key bank : Nat)
  | transomWrite (key bank : Nat)
  | scratch (key bank : Nat)
  | cluster (cl bank : Nat)
  | clusterDma (cl : Nat)
  | pieces (eng : Nat)
  | collective (unit : Nat)
  | fetch (fn : Nat)
  | flit (link module : Nat) (back : Bool)
deriving DecidableEq, Repr

/-- The number of an arbiter in `State.arb`. -/
def Arb.num : Arb → Nat
  | .transomRead key b => 0x10000000 + key * 64 + b
  | .transomWrite key b => 0x20000000 + key * 64 + b
  | .scratch key b => 0x30000000 + key * 64 + b
  | .cluster cl b => 0x40000000 + cl * 64 + b
  | .clusterDma cl => 0x50000000 + cl
  | .pieces e => 0x60000000 + e
  | .collective u => 0x70000000 + u
  | .fetch f => 0x07000000 + f
  | .flit n m back => 0x08000000 + (n * 32 + m) * 2 + b2n back

/-- How many requesters an arbiter has, in pointer order from 0 (R102, R258, R432, R490, R568). -/
def Arb.size : Arb → Nat
  | .transomRead _ _ => 5
  | .transomWrite _ _ => 3
  | .scratch _ _ => 4
  | .cluster _ _ => 11
  | .clusterDma _ => 9
  | .pieces _ => 65536
  | .collective _ => 0x4000000
  | .fetch _ => 8
  | .flit _ _ _ => 6

/-- Where the pointer of an arbiter stands. -/
def State.arbPtr (s : State) (a : Arb) : Nat := tget 0 s.arb a.num

/-- The requester that an arbiter serves in a cycle: the first at or after the pointer, cyclically (R22). -/
def State.arbWinner (s : State) (a : Arb) (reqs : List Nat) : Option Nat :=
  let p := s.arbPtr a
  reqs.foldl (fun m r =>
    let d (x : Nat) : Nat := (x + a.size - p) % a.size
    match m with
    | some w => if d r < d w then some r else some w
    | none => some r) none

/-- An arbiter has served a requester: the pointer moves to just after it (R22). -/
def State.arbServed (s : State) (a : Arb) (r : Nat) : State := { s with arb := tset s.arb a.num ((r + 1) % a.size) }

/-- Several arbiters have served one requester each. -/
def State.arbServedAll (s : State) (l : List Arb) (r : Nat) : State := l.foldl (fun s a => s.arbServed a r) s

/-- The ports of the transom banks that hold some tiles have served a requester (R88, R102). -/
def State.tilesRead (s : State) (key r : Nat) (ts : List Nat) : State :=
  s.arbServedAll (ts.map fun t => Arb.transomRead key (t % 8)) r
def State.tilesWritten (s : State) (key r : Nat) (ts : List Nat) : State :=
  s.arbServedAll (ts.map fun t => Arb.transomWrite key (t % 8)) r
/-- The banks of a core's scratchpad that some ranges touch have served a requester, lowest address first (R102, R234). -/
def State.padServed (s : State) (key r : Nat) (rs : List (Nat × Nat)) : State :=
  s.arbServedAll (rs.flatMap fun x => if x.2 = 0 then [] else
    (List.range (min 32 ((x.1 + x.2 - 1) / 64 - x.1 / 64 + 1))).map fun i => Arb.scratch key (scratchBank (x.1 + 64 * i))) r

/-- Banks of a scratchpad or a cluster memory have served a write that comes in through the cluster DMA or a stream (R102). -/
def State.inServed (s : State) (dma : Bool) (a len : Nat) : State :=
  match tierOf a with
  | .scratch k c q => if len = 0 then s else
      s.arbServedAll ((List.range (min 32 ((a + len - 1) / 64 - a / 64 + 1))).map fun i =>
        Arb.scratch (k * 256 + c * 16 + q) (scratchBank (a + 64 * i))) 3
  | .cluster k c => if len = 0 then s else
      s.arbServedAll ((List.range (min 16 ((a + len - 1) / 128 - a / 128 + 1))).map fun i =>
        Arb.cluster (k * 12 + c) (clusterBank (a + 128 * i))) (if dma then 9 else 10)
  | _ => s

/-- The requesters of a transom port, of a scratchpad bank and of a cluster memory bank by their place in the table of R102. A scalar access of
the core's own sequencer to its scratchpad goes the load/store way (log 65, DEDUCED). -/
def portMx : Nat := 0
def portVx (write : Bool) (src : Nat) : Nat := if write then 1 else 1 + src
def portLs (write : Bool) : Nat := if write then 2 else 4
def padMx : Nat := 0
def padVx : Nat := 1
def padLs : Nat := 2
def padIn : Nat := 3

/-- The bank arbiter that an access to a local address goes through, and the requester that core `key` is there (R102). -/
def State.bankOf (s : State) (key a : Nat) : Option (Arb × Nat) :=
  match tierOf a with
  | .scratch k c q =>
    let own := k * 256 + c * 16 + q
    some (.scratch own (scratchBank a), if own = key then padLs else padIn)
  | .cluster k c =>
    some (.cluster (k * 12 + c) (clusterBank a), if isCtl key || keyDie key != k || keyCl key != c then 10 else s.physCore key)
  | _ => none

end Sys2Proof.Machine
end

