-- ==== Sys2Proof/Machine/Measure.lean ====
section
/-! DEFINITION. The measurement registers (18_security_attestation.md R614, R620, R621) and what module flash holds of the core maps
(03_cores_clusters_branches.md R114). -/

namespace Sys2Proof.Machine

/-- The 32 bytes of four 64-bit registers, word `w` holding bytes 8w to 8w + 7 (R632). -/
def State.reg256 (s : State) (off : Nat → Nat) : BitVec 256 :=
  BitVec.ofNat 256 ((List.range 4).foldl (fun m w => m + put (s.csrGet (off w)).toNat (64 * w)) 0)
/-- The four registers set. -/
def State.setReg256 (s : State) (off : Nat → Nat) (v : BitVec 256) : State :=
  (List.range 4).foldl (fun s w => s.csrSet (off w) (BitVec.ofNat 64 (bits v.toNat (64 * w) 64))) s

/-- M_n (R620). -/
def State.meas (s : State) (n : Nat) : BitVec 256 := s.reg256 (SEC_MEAS.off n)

/-- An extend of M_n by a digest: M = H(M || d), with an entry of the log while it has room (R614, R621). -/
def State.extend (s : State) (n : Nat) (d : BitVec 256) : State :=
  let s1 := s.setReg256 (SEC_MEAS.off n) (Config.shake (leBytes 32 (s.meas n).toNat ++ leBytes 32 d.toNat))
  { s1 with sec := if s.sec.log.length < 1024 then { s.sec with log := s.sec.log ++ [(n, s.time, d)] } else { s.sec with ovf := true } }

/-- What M4 is extended with: every core map, the shutter list and the repair maps (R620). -/
def State.mapDigest (s : State) : BitVec 256 :=
  Config.digest 4 ((List.range 48).map (fun i => (s.csrGet (PKG_CORE_MAP.off (i / 12) (i % 12))).toNat) ++ s.flash.shut.map (·.toNat) ++
    s.flash.repair.flatMap fun x => x.1 :: (match x.2.half with | some b => 1 + b2n b | none => 0) :: x.2.lanes.map fun l => 2 * l.1 + b2n l.2)

/-- M4 is extended again at a change (R620). -/
def State.measMaps (s : State) : State := s.extend 4 s.mapDigest

/-- What M6 is extended with: every share and both port configurations (R620). -/
def State.shareDigest (s : State) : BitVec 256 :=
  Config.digest 6 ((List.range 64).map (fun i => (s.csrGet (PKG_SHARE.off (i / 32) (i % 32))).toNat) ++
    [(s.csrGet (HST_PORT_CFG.off 0)).toNat, (s.csrGet (HST_PORT_CFG.off 1)).toNat])
/-- M6 is extended again at a write to one of them (R620). -/
def State.measShares (s : State) : State := s.extend 6 s.shareDigest

/-- Every measurement register at zero (R620). -/
def State.zeroMeas (s : State) : State := { s with csr := s.csr.filter fun x => !(decide (SEC_MEAS.off 0 0 ≤ x.1) && decide (x.1 < SEC_MEAS.off 16 0)) }

/-- A register's value written to module flash. -/
def State.toFlash (s : State) (off : Nat) : State := { s with flash := { s.flash with regs := tset s.flash.regs off (s.csrGet off) } }

/-- The map of a cluster written to flash and measured (R114, R620). -/
def State.saveMap (s : State) (k cl : Nat) : State := (s.toFlash (PKG_CORE_MAP.off k cl)).measMaps

end Sys2Proof.Machine
end

