-- ==== Sys2Proof/Machine/Errors.lean ====
section
/-! DEFINITION. Event records towards the hosts (13_host_interface.md R493, R494), error records and the history of units
(15_silent_errors_and_faults.md R534 to R551), the start of a hatch (14_contexts_hangs_reset.md R517) and of a retirement. -/

namespace Sys2Proof.Machine

/-! Event records (R493, R494). -/

/-- The key of a function in the function tables. -/
def fnKey (p f : Nat) : Nat := p * 32 + f
def EvQ.reset : EvQ := ⟨0, true, [], 0⟩
def State.evq (s : State) (p f : Nat) : EvQ := tget EvQ.reset s.evqs (fnKey p f)
def State.modEvq (s : State) (p f : Nat) (g : EvQ → EvQ) : State :=
  { s with evqs := tset s.evqs (fnKey p f) (g (s.evq p f)) }

/-- Word 0 of an event record, its phase bit still 0 (R493). -/
def evWord0 (typ info : Nat) (ctx : Option Nat) : Word :=
  BitVec.ofNat 64 (put typ 40 + put (info % 65536) 16 + (match ctx with | some n => put 1 15 + n | none => 0))

/-- A record that the device generates, waiting at a function's event queue; with EN = 0 it is counted as lost (R493). -/
def State.postDev (s : State) (p f : Nat) (w : List Word) : State :=
  if s.bit (HST_EQ_CFG.off p f) HST_EQ_CFG.EN then s.modEvq p f fun q => { q with waiting := q.waiting ++ [(false, w)] }
  else s.bump (HST_EQ_LOST.off p f) HST_EQ_LOST.COUNT 1

/-- The words of a device record with its data words 3 to 7 (R493). -/
def State.evRecord (s : State) (typ info : Nat) (ctx : Option Nat) (unit : Nat) (data : List Word) : List Word :=
  let d := (data ++ List.replicate 5 0).take 5
  [evWord0 typ info ctx, BitVec.ofNat 64 s.time, BitVec.ofNat 64 unit] ++ d

/-- A record to the function to which a context is bound (R494). -/
def State.postCtx (s : State) (n typ info unit : Nat) (data : List Word) : State :=
  let c := s.ctx n
  if c.bound then s.postDev c.port c.slot (s.evRecord typ info (some n) unit data) else s

/-- The physical functions of the module (R473, R474). -/
def State.pfs (s : State) : List (Nat × Nat) :=
  [0, 1].flatMap fun p => if (s.pport p).bifur then [(p, 0), (p, 16)] else [(p, 0)]

/-- A record to each physical function (R494). -/
def State.postPfs (s : State) (typ info unit : Nat) (data : List Word) : State :=
  s.pfs.foldl (fun s x => s.postDev x.1 x.2 (s.evRecord typ info none unit data)) s

/-- A wdb or ctx.enter of firmware completes and adds its increment; PC stands one word past it (R93, R149). -/
def State.fwEvent (s : State) (key : Nat) (eve : Option Nat) (op : Nat) : State :=
  match eve with
  | some e => s.evAdd key e 1 0xE op ((s.core key).pc.toNat - 8) 0
  | none => s

/-- The oldest notice goes to the lowest-numbered control core that waits in wdb (R149, R487). -/
def State.giveNotice (s : State) : State :=
  match s.notices, allCtl.find? (fun k => match (s.core k).hold with | .wdb _ _ => true | _ => false) with
  | w :: rest, some k =>
    match (s.core k).hold with
    | .wdb rd eve =>
      { s.modCore k fun c => { c.setReg rd w with hold := .none, pend := setDel c.pend rd } with notices := rest }.fwEvent k eve 0x02
    | _ => s
  | _, _ => s

/-- A notice queued for the firmware's wdb; doorbell notices of one queue merge (R487). -/
def State.notice (s : State) (w : Word) : State :=
  if w.fld 56 8 = 1 ∧ s.notices.contains w then s else ({ s with notices := s.notices ++ [w] }).giveNotice

/-- A command ends with a status and a result; its completion then waits for the queue logic (R491, R496). -/
def State.endCmd (s : State) (id status result : Nat) : State :=
  let f (c : Cmd) : Cmd := { c with st := .ended, status := status, result := result }
  { s with cmds := updWhere (fun c => c.id == id && c.st != .ended) f s.cmds }

/-! The hatch begins (R517, R520) and control cores return to firmware (R150). -/

/-- A control core goes back to firmware: the context's registers are saved and the firmware's restored, with a word for the destination of
its ctx.enter (R150). -/
def State.ccBack (s : State) (key : Nat) (fin : Bool) (w : Word) : State :=
  let c := s.core key
  let n := key - 0x1000
  let fw := tget Core.reset s.ccRegs (n * 64)
  let s0 := { s with ccRegs := tset s.ccRegs (n * 64 + c.ctx.val) { c with run := if fin then .halted else .idle } }
  match fw.hold with
  | .ctxEnter _ rd eve => (s0.swapSet key { fw.setReg rd w with hold := .none, pend := setDel fw.pend rd }).fwEvent key eve 0x03
  | _ => s0.swapSet key fw

/-- A control core goes back from a context to the firmware's ctx.enter with a reason. A fault, halt or time limit is a notice too, and a
halt or fault ends the program (R150, R487). -/
def State.ccReturn (s : State) (key reason : Nat) : State :=
  let c := s.core key
  let n := key - 0x1000
  let fin := reason == 1 || reason == 2
  let s0 := { s with
    progs := updWhere (fun p => p.core == n && p.ctx == c.ctx && fin) (fun p => { p with ended := true, code := reason }) s.progs }
  let s1 := s0.ccBack key fin (BitVec.ofNat 64 reason)
  if reason = 0 then s1 else s1.notice (BitVec.ofNat 64 (put 0x03 56 + put reason 8 + c.ctx.val))

/-- Dispatch stops on every core that runs a context (R154, R520). -/
def State.stopCores (s : State) (n : Nat) : State :=
  { s with cores := s.cores.map fun x =>
      (x.1, if x.2.ctx.val == n && x.2.run == .running && !isCtl x.1 then { x.2 with run := .stopped } else x.2) }

/-- Control cores that run a context go back to firmware with a reason (R150). -/
def State.stopCtl (s : State) (n reason : Nat) : State :=
  if n = 0 then s
  else allCtl.foldl (fun s k => if (s.core k).ctx.val = n ∧ (s.core k).run ≠ .idle then s.ccReturn k reason else s) s

/-- The hatch starts on a context, or joins the one in progress (R517); detected faults that are not yet recorded are dropped
(R521, R523). -/
def State.startHatch (s : State) (n reason : Nat) (unit : UnitCode) (core : Option (Nat × Nat × Option Nat)) (cmd : Option Nat)
    (freset unbind : Bool) : State :=
  match (s.ctx n).hatch with
  | some h =>
    s.modCtx n fun c => { c with hatch := some { h with cores := h.cores ++ core.toList, cmds := h.cmds ++ cmd.toList,
                                                        freset := h.freset || freset, unbind := h.unbind || unbind } }
  | none =>
    let h : Hatch := ⟨reason, unit, s.time, core.toList, cmd.toList, freset, unbind, false⟩
    let s1 := s.modCtx n fun c => { c with hatch := some h }
    let s2 := { s1 with faults := s1.faults.filter fun f => f.ctx.val != n }
    s2.stopCores n

/-! Error records (R536 to R542). -/

/-- ACLK in MHz of a louvre step (R605). -/
def stepMhz (st : Nat) : Nat := if st ≤ 8 then 1000 - 50 * st else 600
/-- The matrix activity cap of a louvre step (R605). -/
def stepCap (st : Nat) : Nat := if st ≤ 8 then 8 else 16 - st
/-- The louvre step in force on a compute die. -/
def State.louvre (s : State) (k : Nat) : Nat := bits (s.fld PWR_LOUVRE.off PWR_LOUVRE.STEP) (4 * k) 4

/-- The rail that feeds a unit (R593). -/
def railOf (u : UnitCode) : Nat :=
  let die := bits u.toNat 28 4
  let cl := bits u.toNat 24 4
  let co := bits u.toNat 20 4
  if die < 4 then (if cl < 12 ∧ co < 9 then die else 4 + die)
  else if die < 8 then 9
  else if die = 8 then 8
  else if die < 13 then 10
  else 15

/-- Word 4 of a record: temperature of the unit's die, voltage of its rail, ACLK of its die, louvre step, as last read (R536). -/
def State.envWord (s : State) (u : UnitCode) : Word :=
  let die := bits u.toNat 28 4
  let temp := if die < 4 then (s.sens.tj.getD die 0).toNat else if die = 8 then s.sens.h0.toNat
    else if die < 8 then s.sens.links.toNat else if die < 13 then s.sens.nears.toNat else 0
  let volt := s.fld (PWR_RAIL.off (railOf u)) PWR_RAIL.V
  let freq := if die < 4 then stepMhz (tget 0 s.power.aclk die) else 0
  let lv := if die < 4 then s.louvre die else (List.range 4).foldl (fun m k => max m (s.louvre k)) 0
  BitVec.ofNat 64 (put temp 48 + put volt 32 + put freq 16 + put lv 8)

/-- The entry of a record index, all words 0 when it holds none. -/
def State.record (s : State) (i : Nat) : List Word := tget [] s.ring (i % 4096)
/-- Word `w` of a record. -/
def recWord (r : List Word) (w : Nat) : Word := r.getD w 0
/-- The record is open. -/
def recOpen (r : List Word) : Bool := (recWord r 0).flag 63 && (recWord r 0).flag 62
/-- A word of a record set. -/
def setWord (r : List Word) (w : Nat) (v : Word) : List Word := r.set w v

/-- The newest open record with the detector and unit of a detection, within 1 ms (R537). -/
def State.joinable (s : State) (d : Detection) : Option Nat :=
  (s.ring.foldl (fun best x =>
    let r := x.2
    if recOpen r && (recWord r 0).fld 48 8 == d.det.toNat && (recWord r 1).fld 0 32 == d.unit.toNat &&
        decide (s.time ≤ (recWord r 3).toNat + 1000000) then
      match best with
      | some (t, k) => if t ≤ (recWord r 3).toNat then some ((recWord r 3).toNat, x.1) else some (t, k)
      | none => some ((recWord r 3).toNat, x.1)
    else best) none).map (·.2)

/-- The eight words of a new record (R536). -/
def State.newRecord (s : State) (d : Detection) (idx : Nat) (inj : Bool) : List Word :=
  let w0 := put 1 63 + put 1 62 + put (b2n inj) 61 + put d.sev.val 56 + put d.det.toNat 48 + put d.level.val 40 + idx
  let w1 := (match d.ctx with | some n => put 1 38 + put n.val 32 | none => 0) + d.unit.toNat
  let w2 := put d.opkind.val 56 + put d.cls.toNat 52 + put d.op.toNat 44 + d.ident.toNat
  [BitVec.ofNat 64 w0, BitVec.ofNat 64 w1, BitVec.ofNat 64 w2, BitVec.ofNat 64 s.time, s.envWord d.unit, d.detail, 0, 1]

/-- An injection is armed for the detector and unit of a detection (R562). (log 47, DEDUCED) -/
def State.armed (s : State) (det : Nat) (u : UnitCode) : Bool :=
  s.bit TST_INJ.off TST_INJ.ARM && s.fld TST_INJ.off TST_INJ.DET == det && s.fld TST_INJ.off TST_INJ.UNIT == u.toNat

/-- The cell of a unit, by its SUB, at which an injection is armed for a detector (R561, R562). -/
def State.injSub (s : State) (det : Nat) (u : UnitCode) : Option Nat :=
  let v := s.fld TST_INJ.off TST_INJ.UNIT
  if s.tst.left != 0 && s.bit TST_INJ.off TST_INJ.ARM && s.fld TST_INJ.off TST_INJ.DET == det && v / 65536 == u.toNat / 65536 then some (v % 65536)
  else none

/-- The detectors of the memory tiers, where an injection strikes the codeword written (R534, R562). -/
def tierDet (d : Nat) : Bool := decide (4 ≤ d) && decide (d ≤ 7)

/-- The codeword at a local address was corrupted by an injection (R562, R563). -/
def State.marked (s : State) (a : Nat) : Bool := s.tst.marks.contains (s.memKey (cwOf a))

/-- An armed injection has fired (R561). -/
def State.fired (s : State) (last : Option Nat) : State :=
  let s1 := s.bump TST_INJ_STS.off TST_INJ_STS.FIRED 1
  let s2 := match last with | some i => s1.setFld TST_INJ_STS.off TST_INJ_STS.LAST i | none => s1
  let n := s.tst.left - 1
  let s3 := { s2 with tst := { s2.tst with left := n } }
  if n = 0 then s3.setFld TST_INJ.off TST_INJ.ARM 0 else s3

/-- An in-band interrupt of the I3C target (R650). -/
def State.ibi (s : State) (b : Nat) : State := { s with tele := { s.tele with ibis := s.tele.ibis ++ [b] } }

/-- A detection opens a record or joins one (R537); a full entry that is still open loses it. The index that took it, if any. -/
def State.takeDetection (s : State) (d : Detection) (inj : Bool) : State × Option Nat :=
  match s.joinable d with
  | some k =>
    let r := tget [] s.ring k
    let n := satAdd ((recWord r 7).fld 0 32) 1 0xFFFFFFFF
    ({ s with ring := tset s.ring k (setWord r 7 ((recWord r 7).setFld 0 32 n)) }, some ((recWord r 0).fld 0 32))
  | none =>
    let next := s.fld ERR_RING_STS.off ERR_RING_STS.NEXT
    if recOpen (s.record next) then (s.bump ERR_RING_STS.off ERR_RING_STS.LOST 1, none)
    else
      let s1 := { s with ring := tset s.ring (next % 4096) (s.newRecord d next inj) }
      let s2 := s1.setFld ERR_RING_STS.off ERR_RING_STS.NEXT ((next + 1) % 2 ^ 32)
      let s3 := s2.setFld ERR_RING_STS.off ERR_RING_STS.OPENCNT (s2.fld ERR_RING_STS.off ERR_RING_STS.OPENCNT + 1)
      let s4 := if d.sev = 3 then s3.ibi 0x02 else s3
      (s4.notice (BitVec.ofNat 64 (put 0x04 56 + next)), some next)

/-- A detection of a detector and unit, with INJ when an injection armed for them caused it or `inj` says so (R562, R563). -/
def State.openRecord (s : State) (d : Detection) (inj : Bool) : State × Option Nat :=
  let a := s.armed d.det.toNat d.unit && !tierDet d.det.toNat
  let (s1, i) := s.takeDetection d (inj || a)
  (if a then s1.fired i
   else match inj, i with | true, some k => s1.setFld TST_INJ_STS.off TST_INJ_STS.LAST k | _, _ => s1, i)

/-- The record carries INJ. -/
def State.recInj (s : State) (i : Option Nat) : Bool := match i with | some k => (recWord (s.record k) 0).flag 61 | none => false

/-- A ladder level's handling code, kept once written (R538). -/
def putHandling (r : List Word) (level code : Nat) : List Word :=
  if (recWord r 6).fld (8 * level) 8 = 0 then setWord r 6 ((recWord r 6).setFld (8 * level) 8 code) else r

/-- A level above the first takes part in an open record: its byte of word 6 is written and LEVEL raised (R21, R536, R538). -/
def State.handle (s : State) (i : Option Nat) (level code : Nat) : State :=
  match i with
  | some k =>
    let r := s.record k
    if recOpen r && (recWord r 0).fld 0 32 == k then
      let r1 := setWord r 0 ((recWord r 0).setFld 40 2 (max level ((recWord r 0).fld 40 2)))
      { s with ring := tset s.ring (k % 4096) (putHandling r1 level code) }
    else s
  | none => s

/-- Repeats and replays run for an error, added to REPEATS of its open record (R536). -/
def State.repeats (s : State) (i : Option Nat) (n : Nat) : State :=
  match i with
  | some k =>
    let r := s.record k
    if recOpen r && (recWord r 0).fld 0 32 == k then
      { s with ring := tset s.ring (k % 4096) (setWord r 7 ((recWord r 7).setFld 48 16 (satAdd ((recWord r 7).fld 48 16) n 0xFFFF))) }
    else s
  | none => s

/-- The ERROR event record of a closing record to each physical function (R539). -/
def State.reportRecord (s : State) (r : List Word) : State :=
  let ctx := if (recWord r 1).flag 38 then some ((recWord r 1).fld 32 6) else none
  s.pfs.foldl (fun s x =>
    let own := match ctx with
      | some n => if (s.ctx n).bound && (s.ctx n).port == x.1 then some n else none
      | none => none
    s.postDev x.1 x.2 [evWord0 0x08 0 own, recWord r 3, BitVec.ofNat 64 ((recWord r 1).fld 0 32),
      BitVec.ofNat 64 ((recWord r 0).fld 0 32), recWord r 0, recWord r 2, recWord r 4, recWord r 6]) s

/-- A record closes with its classification and the handling of its last level (R538, R539, R543). -/
def State.closeRecord (s : State) (idx cls level handling : Nat) : State :=
  let k := idx % 4096
  let r := s.record idx
  if recOpen r ∧ (recWord r 0).fld 0 32 = idx then
    let lv := max level ((recWord r 0).fld 40 2)
    let w0 := (((recWord r 0).setFld 62 1 0).setFld 58 3 cls).setFld 40 2 lv
    let r1 := putHandling (setWord r 0 w0) level handling
    let s1 := { s with ring := tset s.ring k r1 }
    let s2 := s1.setFld ERR_RING_STS.off ERR_RING_STS.OPENCNT (s1.fld ERR_RING_STS.off ERR_RING_STS.OPENCNT - 1)
    if (recWord r1 0).fld 56 2 != 0 || cls == 2 || (recWord r1 6).fld 24 8 != 0 || s2.bit ERR_CTL.off ERR_CTL.REPORT_ALL then
      s2.reportRecord r1
    else s2
  else s

/-! The history and its thresholds (R544 to R551). -/

/-- The kind of ERR_THR under which a unit is charged, if any (R546). -/
def thrKind (u : UnitCode) (det : Nat) : Option Nat :=
  let die := bits u.toNat 28 4
  let cl := bits u.toNat 24 4
  let co := bits u.toNat 20 4
  let en := bits u.toNat 16 4
  if die < 4 then
    if cl < 12 then (if co < 9 then some (if det = 3 ∨ det = 4 then 1 else 0) else if en = 3 then some 2 else none)
    else if cl < 15 then (if en = 4 then some 5 else some 4)
    else none
  else if die < 8 then (if en = 6 then some 6 else none)
  else if die = 8 then (if en = 7 then some 7 else none)
  else if 9 ≤ die ∧ die < 13 then some 3
  else none

/-- The unit that the history keeps a charge under: all engines of a core count as the core (R546). (log 37, DEDUCED) -/
def histUnit (u : UnitCode) (det : Nat) : UnitCode :=
  if thrKind u det = some 0 then mkUnit (bits u.toNat 28 4) (bits u.toNat 24 4) (bits u.toNat 20 4) 0 0xFFFF
  else u

/-- The history entry of a unit, new when it has none. -/
def State.histOf (s : State) (u : UnitCode) : Hist :=
  match s.hist.find? fun h => h.unit == u with
  | some h => h
  | none => ⟨u, 0, 0, s.time, s.time, 0, .active, true⟩

/-- A history entry stored; a full history overwrites the ACTIVE entry with the oldest last event and reports it (R551). -/
def State.putHist (s : State) (h : Hist) : State :=
  if s.hist.any (fun x => x.unit == h.unit) then { s with hist := updWhere (fun x => x.unit == h.unit) (fun _ => h) s.hist }
  else if s.hist.length < 8192 then { s with hist := s.hist ++ [h] }
  else
    let old := s.hist.foldl (fun m x => if x.st == .active then
        (match m with | some y => if x.last < y.last then some x else some y | none => some x) else m) (none : Option Hist)
    match old with
    | some o => ({ s with hist := (s.hist.filter fun x => x.unit != o.unit) ++ [h], flash := { s.flash with full := true } } : State).setFld ERR_SVC.off ERR_SVC.FLASH 1
    | none => s

/-- An entry of the history written to flash (R545). -/
def State.flashHist (s : State) (u : UnitCode) : State :=
  match s.hist.find? fun h => h.unit == u with
  | some h =>
    let g := { h with dirty := false }
    let rest := s.flash.hist.filter fun x => x.unit != u
    { s with hist := updWhere (fun x => x.unit == u) (fun _ => g) s.hist, flash := { s.flash with hist := rest ++ [g] } }
  | none => s

/-- The state of a unit in the history set, written to flash before the action takes effect (R545). -/
def State.markUnit (s : State) (u : UnitCode) (st : UnitSt) : State := (s.putHist { s.histOf u with st := st, dirty := true }).flashHist u

/-- A cluster is shuttered: CLUSTER_OFF, the hatch for its holder, a REPAIR record (R117, R494). -/
def State.shutCluster (s : State) (k cl : Nat) : State :=
  let o := PKG_CORE_MAP.off k cl
  let s1 := ((s.setFld o PKG_CORE_MAP.CLUSTER_OFF 1).setFld ERR_SVC.off ERR_SVC.CLOFF 1).saveMap k cl
  let s2 := match (s1.cluster (k * 12 + cl)).holder with
    | some n => s1.startHatch n.val 7 (mkUnit k cl 15 0 0xFFFF) none none false false
    | none => s1
  s2.postPfs 0x06 2 (mkUnit k cl 15 0 0xFFFF).toNat [s2.csrGet o]

/-- A spare that is retired: SPARE is 0xF and its RETIRED bit is set (R553). -/
def State.dropSpare (s : State) (k cl phys : Nat) : State :=
  let o := PKG_CORE_MAP.off k cl
  let s1 := (s.setFld o PKG_CORE_MAP.SPARE 0xF).setFld o PKG_CORE_MAP.RETIRED (s.fld o PKG_CORE_MAP.RETIRED ||| 2 ^ phys)
  ((s1.setFld ERR_SVC.off ERR_SVC.NOSPARE 1).modCluster (k * 12 + cl) fun c => { c with test := false }).saveMap k cl

/-- The RETIRED bit of a physical core set (R113). -/
def State.retiredBit (s : State) (k cl phys : Nat) : State :=
  let o := PKG_CORE_MAP.off k cl
  s.setFld o PKG_CORE_MAP.RETIRED (s.fld o PKG_CORE_MAP.RETIRED ||| 2 ^ phys)

/-- A physical core is retired: a hot repair is decided when the cluster has a spare, else the cluster is shuttered (R115, R117,
R548). A second decision in the cluster waits for the first. A repair that needs a spare under test aborts the test, and uses the spare
only when its last completed test passed (R554). -/
def State.retireCore (s : State) (k cl phys : Nat) : State :=
  let s1 := s.markUnit (mkUnit k cl phys 0 0xFFFF) .retired
  let o := PKG_CORE_MAP.off k cl
  let c := s1.cluster (k * 12 + cl)
  if s1.bit o PKG_CORE_MAP.CLUSTER_OFF then (s1.retiredBit k cl phys).saveMap k cl
  else if c.repSt != 0 then s1.modCluster (k * 12 + cl) fun c => { c with repWait := c.repWait ++ [phys] }
  else if s1.fld o PKG_CORE_MAP.SPARE = 0xF then (s1.retiredBit k cl phys).shutCluster k cl
  else if s1.fld o PKG_CORE_MAP.SPARE = phys then s1.dropSpare k cl phys
  else
    let s2 := s1.modCluster (k * 12 + cl) fun c => { c with test := false }
    if c.test && !c.testOk then (s2.retiredBit k cl phys).shutCluster k cl
    else s2.modCluster (k * 12 + cl) fun c => { c with repSt := 1, repPhys := phys, swap := false }

/-- The next spare row of a bank or channel is scheduled (R547); false when none is left. -/
def State.spareRow (s : State) (u : UnitCode) (total : Nat) : State × Bool :=
  let n := tget 0 s.spareRows u.toNat
  let rows := tset s.spareRows u.toNat (n + 1)
  if n < total then ({ s with spareRows := rows, flash := { s.flash with rows := rows } }, true) else (s, false)

/-- The control cores that run firmware: 0 to 3 but for the shuttered ones, else the lowest-numbered one that remains (R486, R549). -/
def State.fwCores (s : State) : List Nat :=
  let ok := (List.range 16).filter fun n => !s.shut.contains (mkUnit 8 0 n 7 0xFFFF)
  match ok.filter (· < 4) with
  | [] => ok.take 1
  | l => l

/-- Firmware of a shuttered control core that was the last to run it moves to another core (R549). -/
def State.moveFirmware (s : State) (key : Nat) : State :=
  let old := s.core key
  let s1 := s.modCore key fun c => { c with run := .stopped }
  match s1.fwCores with
  | n :: _ =>
    if n < 4 then s1
    else
      let c := s1.core (0x1000 + n)
      let s2 := if c.ctx.val = 0 then s1 else { s1 with ccRegs := tset s1.ccRegs (n * 64 + c.ctx.val) { c with run := .idle } }
      s2.swapSet (0x1000 + n) old
  | [] => s1

/-- A unit other than a core or cluster is shuttered (R549 to R551): flash, ERR_SVC, and for a control core the removal of its
context or the move of firmware. -/
def State.shutUnit (s : State) (u : UnitCode) : State :=
  let s0 := s.markUnit u .shuttered
  let add (l : List UnitCode) : List UnitCode := if l.contains u then l else l ++ [u]
  let s1 := ({ s0 with shut := add s0.shut, flash := { s0.flash with shut := add s0.flash.shut } }).measMaps
  let en := bits u.toNat 16 4
  if en = 4 then s1.setFld ERR_SVC.off ERR_SVC.UPD 1
  else if en = 6 then
    let n := (s1.shut.filter fun x => bits x.toNat 28 4 == bits u.toNat 28 4 && bits x.toNat 16 4 == 6).length
    if 8 < n then s1.setFld ERR_SVC.off ERR_SVC.COL 1 else s1
  else if en = 7 then
    let key := 0x1000 + bits u.toNat 20 4
    let c := s1.core key
    let s2 := s1.setFld ERR_SVC.off ERR_SVC.CC 1
    if c.ctx = 0 then s2.moveFirmware key else s2.startHatch c.ctx.val 6 u none none false false
  else if 9 ≤ bits u.toNat 28 4 then s1.setFld ERR_SVC.off ERR_SVC.NEAR 1
  else s1

/-- A near-tier channel has no spare row left (R547, R551). -/
def nearSpent (rows : Tbl Nat) : Bool := rows.any fun x => decide (9 * 2 ^ 28 ≤ x.1) && decide (256 ≤ x.2)

/-- A stack's repair resources are spent, which flash holds (R546, R551). -/
def State.hbmSpent (s : State) : State := { s with flash := { s.flash with spent := true } }.setFld ERR_SVC.off ERR_SVC.HBM 1

/-- The action of a threshold reached (R546 to R548). -/
def State.thrAction (s : State) (kind : Nat) (u : UnitCode) : State :=
  let die := bits u.toNat 28 4
  let cl := bits u.toNat 24 4
  let co := bits u.toNat 20 4
  match kind with
  | 0 => s.retireCore die cl co
  | 1 => let (s1, ok) := s.spareRow u 8; if ok then s1 else s1.retireCore die cl co
  | 2 => let (s1, ok) := s.spareRow u 16; if ok then s1 else s1.shutCluster die cl
  | 3 => let s1 := (s.spareRow u 256).1; if nearSpent s1.spareRows then s1.setFld ERR_SVC.off ERR_SVC.NEAR 1 else s1
  | 4 => if Config.pprLeft u then (s.spareRow u (2 ^ 32)).1 else s.hbmSpent
  | _ => s.shutUnit u

/-- A classified event charged to a unit: TRANS or PERS rises by 1, and a threshold reached is acted on (R544, R546). (log 37, DEDUCED) -/
def State.charge (s : State) (u0 : UnitCode) (det : Nat) (pers : Bool) : State :=
  let u := histUnit u0 det
  let h0 := s.histOf u
  let h := { h0 with trans := if pers then h0.trans else h0.trans + 1, pers := if pers then h0.pers + 1 else h0.pers,
                     last := s.time, dirty := true }
  let s1 := s.putHist h
  match thrKind u0 det with
  | some k =>
    let tt := s1.fld (ERR_THR.off k) ERR_THR.TRANS
    let tp := s1.fld (ERR_THR.off k) ERR_THR.PERS
    if h.st == .active && ((tt != 0 && decide (tt ≤ h.trans)) || (tp != 0 && decide (tp ≤ h.pers))) then s1.thrAction k u
    else s1
  | none => s1

/-- The kind of the threshold that a charge of a unit reaches, if it reaches one (R546). -/
def State.thrHit (s : State) (u0 : UnitCode) (det : Nat) (pers : Bool) : Option Nat :=
  let h := s.histOf (histUnit u0 det)
  match thrKind u0 det with
  | some k =>
    let tt := s.fld (ERR_THR.off k) ERR_THR.TRANS
    let tp := s.fld (ERR_THR.off k) ERR_THR.PERS
    let t := if pers then h.trans else h.trans + 1
    let n := if pers then h.pers + 1 else h.pers
    if h.st == .active && ((tt != 0 && decide (tt ≤ t)) || (tp != 0 && decide (tp ≤ n))) then some k else none
  | none => none

/-- How the package controller handles a threshold of a kind, as the record's H3 says it: a core retired, a unit shuttered, a spare row
scheduled, or a report (R538, R546; log 66, DEDUCED). -/
def State.thrCode (s : State) (kind : Nat) (u : UnitCode) : Nat :=
  let used := tget 0 s.spareRows u.toNat
  match kind with
  | 0 => 0x06
  | 1 => if used < 8 then 0x08 else 0x06
  | 2 => if used < 16 then 0x08 else 0x07
  | 3 => if used < 256 then 0x08 else 0x0A
  | 4 => if Config.pprLeft u then 0x08 else 0x0A
  | _ => 0x07

/-- A charge of a classified event with a record: an injected one adds nothing (R544, R563). The chip level that acts on a threshold enters
its handling in the same record (R21, R538, R548). -/
def State.chargeRec (s : State) (idx : Option Nat) (u : UnitCode) (det : Nat) (pers : Bool) : State :=
  if s.recInj idx then s
  else match s.thrHit u det pers with
    | some k => (s.charge u det pers).handle idx 3 (s.thrCode k (histUnit u det))
    | none => s.charge u det pers

/-- A plain detection: detector, unit, context, severity, ladder level, and the instruction it concerns. -/
def mkDet (det : Nat) (unit : UnitCode) (ctx : Option CtxId) (sev level : Fin 4) (opkind : Fin 9) (cls op : Nat) (ident : Nat)
    (detail : Word) : Detection :=
  ⟨BitVec.ofNat 8 det, unit, ctx, sev, level, opkind, BitVec.ofNat 4 cls, BitVec.ofNat 8 op, BitVec.ofNat 32 ident, detail, false⟩

/-- The record of an uncorrectable read of storage, its data passed on poisoned (R241, DET 0x03 to 0x07). -/
def State.poisonRecord (s : State) (a : Nat) (ctx : Option CtxId) : State :=
  let (u, det) := s.storageUnit a
  (s.openRecord (mkDet det.toNat u ctx 1 0 0 0 0 0 (BitVec.ofNat 64 a)) (s.marked a)).1

/-- The record of a tile whose stored code an instruction finds uncorrectable, naming the transom bank (R88, R151, R241; log 66,
DEDUCED). -/
def State.tileRecord (s : State) (key t cls op pc : Nat) : State :=
  let u := mkUnit (keyDie key) (keyCl key) (s.physCore key) engLs (t % 8)
  (s.openRecord (mkDet 0x03 u (some (s.core key).ctx) 1 0 1 cls op 0 (BitVec.ofNat 64 pc)) false).1

/-! Writes at a memory tier (R101, R240, R241, R673). -/

/-- The records of the codewords that a write covers in part and reads poisoned to merge them (R240, R241). -/
def State.mergeRead (s : State) (a len : Nat) : State :=
  (cwRange a len).foldl (fun s c =>
    if (a ≤ c && decide (c + cwSize a ≤ a + len)) || !s.mem.poison.contains (s.memKey c) then s else s.poisonRecord c none) s

/-- An injection strikes the next codewords written at its bank: one bit leaves what a read corrects, two bits or symbols leave the codeword
poisoned. A codeword written whole is no longer a corrupted one (R241, R562; log 47, DEDUCED). -/
def State.inject (s : State) (a len : Nat) : State :=
  if s.tst.left = 0 ∧ s.tst.marks.isEmpty = true then s
  else
    (cwRange a len).foldl (fun s c =>
      let (u, det) := s.storageUnit c
      let hit := match s.injSub det.toNat u with | some i => u.toNat % 65536 == 0xFFFF || u.toNat % 65536 == i | none => false
      let put (s : State) (l : List Nat) : State := { s with tst := { s.tst with marks := l } }
      if hit then
        let s1 := put (s.fired none) (setIns s.tst.marks (s.memKey c))
        if s.fld TST_INJ.off TST_INJ.MODE = 0 then s1 else s1.markPoison c 1 true
      else if a ≤ c ∧ c + cwSize a ≤ a + len then put s (setDel s.tst.marks (s.memKey c))
      else s) s

/-- A write of which some parts, by offset and length, are poisoned: bytes and marks first, then the parked waits. -/
def State.writeParts (s : State) (a : Nat) (bytes : List Byte) (bad : List (Nat × Nat)) : State :=
  let s0 := s.mergeRead a bytes.length
  ((bad.foldl (fun s b => s.markPoison (a + b.1) b.2 true) ((s0.putBytes a bytes).markPoison a bytes.length false)).inject a bytes.length).wake a bytes.length

/-- A write performed at a memory tier: bytes, poison marks, parked waits. -/
def State.writeMem (s : State) (a : Nat) (bytes : List Byte) (poison : Bool) : State :=
  ((((s.mergeRead a bytes.length).putBytes a bytes).markPoison a bytes.length poison).inject a bytes.length).wake a bytes.length

/-- A little-endian number written at a memory tier. -/
def State.writeNat (s : State) (a n v : Nat) : State := s.writeMem a (leBytes n v) false

/-- A record that its first level handles and closes at once; the classified event is charged unless `charged` is false (R538,
R543, R544). The residue detectors have repeated the work once (R534, R536). -/
def State.quickRecord (s : State) (d : Detection) (cls level handling : Nat) (charged : Bool) : State :=
  let (s0, idx) := s.openRecord d false
  let s1 := if d.det == 0x02 || d.det == 0x0B || d.det == 0x0C then s0.repeats idx 1 else s0
  let s2 := if charged && (cls == 1 || cls == 2) then s1.chargeRec idx d.unit d.det.toNat (cls == 2) else s1
  match idx with
  | some i => s2.closeRecord i cls level handling
  | none => s2

end Sys2Proof.Machine
end

