-- ==== Sys2Proof/Machine/Operands.lean ====
section
/-! DEFINITION. The instruction word: formats, fields, the checks made at dispatch and the order of their faults, and the two ways
an instruction leaves dispatch: executed by the sequencer or put into an engine queue (04_instruction_set.md R118 to R128, R147,
R152, R672, R674; 03_cores_clusters_branches.md R83 to R86). -/

namespace Sys2Proof.Machine

/-- The body formats of R121. -/
inductive IFmt where
  | r | i | p | pi | e | s | t | ts
deriving DecidableEq, Repr

/-- A field of an instruction word. -/
def bf (b : Body) (lo len : Nat) : Nat := bits b.toNat lo len

/-- The ranges that a format marks 0, as (lowest bit, width) (R121). -/
def zeroBits : IFmt → List (Nat × Nat)
  | .r => [(0, 23)]
  | .i => [(32, 2)]
  | .p => [(41, 2), (0, 21)]
  | .pi => [(41, 2), (32, 3)]
  | .e => [(16, 17)]
  | .s => [(0, 13)]
  | .t => []
  | .ts => [(19, 3)]

/-- The register fields of a format in order: lowest bit, width, and whether it names a scalar register. -/
def regFields : IFmt → List (Nat × Nat × Bool)
  | .r => [(41, 6, true), (35, 6, true), (29, 6, true), (23, 6, true)]
  | .i => [(41, 6, true), (35, 6, true)]
  | .p => [(43, 4, false), (35, 6, true), (29, 6, true), (25, 4, false), (21, 4, false)]
  | .pi => [(43, 4, false), (35, 6, true)]
  | .e => [(39, 8, false), (33, 6, true)]
  | .s => [(41, 6, true), (35, 6, true), (29, 6, true), (23, 6, true)]
  | .t => [(40, 7, false), (33, 7, false), (26, 7, false), (19, 7, false)]
  | .ts => [(40, 7, false), (34, 6, true), (28, 6, true), (22, 6, true)]

/-- Register field number `i` of a word. -/
def opnd (fm : IFmt) (b : Body) (i : Nat) : Nat :=
  match (regFields fm)[i]? with
  | some (lo, len, _) => bf b lo len
  | none => 0

/-- EVE and EV of a word, if the format has them (R121). -/
def evField (fm : IFmt) (b : Body) : Option (Bool × Nat) :=
  match fm with
  | .s => some (bf b 22 1 == 1, bf b 14 8)
  | .t => some (bf b 18 1 == 1, bf b 10 8)
  | .ts => some (bf b 18 1 == 1, bf b 10 8)
  | _ => none

/-- The G bit of a word (R121, R138). -/
def gBit (fm : IFmt) (b : Body) : Bool :=
  match fm with
  | .i => bf b 34 1 == 1
  | .s => bf b 13 1 == 1
  | _ => false

/-- MOD of a T or TS word. -/
def modOf (b : Body) : Nat := bf b 0 10
/-- IMM sign-extended to 64 bits (R130). -/
def immW (b : Body) : Word := (BitVec.ofNat 32 (bf b 0 32)).signExtend 64

/-- The core accepts the class, and the operation where a row of R122 excepts one: yield on a compute core, the barriers on a
control core. -/
def accepts (ctl : Bool) (cls op : Nat) : Bool :=
  if ctl then !(cls == 0x8 || cls == 0xA || cls == 0xB || cls == 0xC || cls == 0xD || cls == 0xF) &&
    !(cls == 0x5 && (op == 0x08 || op == 0x09))
  else !(cls == 0xE || cls == 0xF) && !(cls == 0x4 && op == 0x13)

/-- A word that dispatch takes for an illegal instruction: a bit marked 0 that holds 1, or a class that the core does not accept
(R123; the row of the command is a listed operation). (log 34, DEDUCED) -/
def illegalWord (ctl : Bool) (cls op : Nat) (fm : IFmt) (b : Body) : Bool :=
  (zeroBits fm).any (fun x => bf b x.1 x.2 != 0) || !accepts ctl cls op

/-- A register field that the instruction does not use and that is not 0 (R672). -/
def unusedSet (fm : IFmt) (used : List Nat) (b : Body) : Bool :=
  (List.range (regFields fm).length).any fun i => !used.contains i && opnd fm b i != 0

/-- A field that breaks a requirement of R672: an unused register field, G outside classes 6 and 7, EV when EVE = 0. -/
def illegalFields (cls : Nat) (fm : IFmt) (used : List Nat) (b : Body) : Bool :=
  unusedSet fm used b || (gBit fm b && !(cls == 0x6 || cls == 0x7)) ||
    (match evField fm b with | some (eve, ev) => !eve && ev != 0 | none => false)

/-- The scalar registers that an instruction reads or writes. -/
def scalarRegs (fm : IFmt) (used : List Nat) (b : Body) : List Nat :=
  used.filterMap fun i => match (regFields fm)[i]? with
    | some (lo, len, true) => some (bf b lo len)
    | _ => none

/-- The guard of a word holds (R119, R120). -/
def Core.guard (c : Core) (b : Body) : Bool := c.pred (bf b 48 4) != (bf b 47 1 == 1)

/-- An instruction's class, operation, format and the register fields that it uses. -/
structure Ins where
  cls  : Nat
  op   : Nat
  fm   : IFmt
  used : List Nat

/-- The 64-bit word of an instruction with bits [51:0] in `b` (R118). -/
def insWord (i : Ins) (b : Body) : Word := BitVec.ofNat 64 (put i.cls 60 + put i.op 52 + b.toNat)

/-- The sequencer can dispatch the instruction: it runs, is not held, the word that it has fetched, if any, is this one, and no register of
the instruction is pending (R83, R86, R118, R127). -/
def Core.canDispatch (c : Core) (i : Ins) (b : Body) : Bool :=
  c.run == .running && c.hold == .none && (c.ir == none || c.ir == some (insWord i b)) &&
    (scalarRegs i.fm i.used b).all fun r => !c.pend.contains r

/-- The operations that the chapters list for a class, as ranges from a first to a last (R123, R191, R231). -/
def opRanges (cls : Nat) : List (Nat × Nat) :=
  match cls with
  | 0x0 => [(0x00, 0x14)]
  | 0x1 => [(0x00, 0x00), (0x09, 0x0E), (0x20, 0x21)]
  | 0x2 => [(0x00, 0x07)]
  | 0x3 => [(0x00, 0x05), (0x08, 0x0D), (0x10, 0x13), (0x18, 0x1A)]
  | 0x4 => [(0x00, 0x05), (0x08, 0x0A), (0x0C, 0x0C), (0x10, 0x13)]
  | 0x5 => [(0x00, 0x04), (0x08, 0x09)]
  | 0x6 => [(0x00, 0x02)]
  | 0x7 => [(0x00, 0x06), (0x08, 0x0B)]
  | 0x8 => [(0x00, 0x04)]
  | 0x9 => [(0x00, 0x02)]
  | 0xA => [(0x00, 0x08)]
  | 0xB => [(0x00, 0x0D)]
  | 0xC => [(0x00, 0x09)]
  | 0xD => [(0x00, 0x05)]
  | 0xE => [(0x00, 0x03)]
  | _ => []

/-- CLS and OP of a word name an operation of the opcode map (R118, R123). -/
def listedOp (w : Word) : Bool := (opRanges (w.fld 60 4)).any fun r => decide (r.1 ≤ w.fld 52 8) && decide (w.fld 52 8 ≤ r.2)

/-- The fault that dispatch raises for an instruction, in the order of R674. The word and its fields are checked whatever the guard says
(R123, R672); `modOk` says that MOD holds what the instruction requires of it. The privilege `priv` that the core lacks and the operands' own
first fault `chk` are met only when the guard holds (R120). (log 10, DEDUCED) (log 34, DEDUCED) -/
def dispatchFault (ctl : Bool) (i : Ins) (b : Body) (guard priv modOk : Bool) (chk : Option (FaultCode × Nat)) :
    Option (FaultCode × Nat) :=
  if illegalWord ctl i.cls i.op i.fm b then some (.illegalInstr, 0)
  else if guard && priv then some (.privilege, 0)
  else if illegalFields i.cls i.fm i.used b || !modOk then some (.illegalOperand, 0)
  else if guard then chk
  else none

/-- The instruction is dispatched with its guard true, and the checks of its word and fields are passed: its operands' own checks decide. -/
def State.passes (s : State) (key : Nat) (i : Ins) (b : Body) : Bool :=
  let c := s.core key
  c.canDispatch i b && !s.repairing key && c.guard b && (dispatchFault (isCtl key) i b true false true none).isNone

/-- A dispatch fault raised at the sequencer: the instruction has no effect and dispatch stops at it (R152). -/
def State.seqFault (s : State) (key : Nat) (i : Ins) (code : FaultCode) (addr : Nat) : State :=
  let s1 := s.coreFault key engSeq code i.cls i.op (s.core key).pc.toNat addr
  s1.modCore key fun c => { c with run := .stopped }

/-- The instruction leaves dispatch: PC moves past the word. -/
def Core.advance (c : Core) : Core := { c with pc := c.pc + 8, ir := none }

/-- Dispatch of an instruction that the sequencer executes. `eff` is its effect, applied after PC has moved past the word; `pc` is
the address of the word. (log 10, DEDUCED) -/
def dispatchSeq (cid : CoreId) (i : Ins) (b : Body) (priv : State → Bool) (chk : State → Option (FaultCode × Nat))
    (eff : Nat → State → State) (s : State) : State :=
  let key := coreKey cid
  let c := s.core key
  if c.canDispatch i b && !s.repairing key then
    match dispatchFault (isCtl key) i b (c.guard b) (priv s) true (chk s) with
    | some (code, addr) => s.seqFault key i code addr
    | none =>
      let s1 := (s.modCore key Core.advance).pmcOwn key 0x001 1
      if c.guard b then eff c.pc.toNat s1 else s1
  else s

/-- The queue depths of 03_cores_clusters_branches.md. -/
def queueDepth (e : Engine) : Nat :=
  match e with
  | .mx => 8
  | _ => 32

def Core.queue (c : Core) : Engine → List QEntry
  | .mx => c.mq
  | .vx => c.vq
  | .ls => c.lq
def Core.setQueue (c : Core) (e : Engine) (q : List QEntry) : Core :=
  match e with
  | .mx => { c with mq := q }
  | .vx => { c with vq := q }
  | .ls => { c with lq := q }

/-- The entry that an instruction takes in its engine's queue: the scalars read at dispatch in field order after the first, and
CTX_NUMCTL (R79, R85). -/
def State.mkEntry (s : State) (key : Nat) (i : Ins) (b : Body) (null : Bool) : QEntry :=
  let c := s.core key
  let v (n : Nat) : Word := if i.used.contains n && i.fm != .t then c.reg (opnd i.fm b n) else 0
  ⟨c.seq, i.cls, i.op, b, c.pc.toNat, v 1, v 2, v 3, s.csrGet (CTX_NUMCTL.off c.ctx.val), null⟩

/-- Dispatch of an engine instruction: it enters its engine's queue, as a null entry when the guard is false (R120); a full queue
stops dispatch (R83). `modOk` says that MOD holds what the instruction requires of it (R672); `dest` is a scalar destination, pending until
the engine writes it (R127). -/
def dispatchEng (cid : CoreId) (e : Engine) (i : Ins) (b : Body) (modOk : Bool) (priv : State → Bool)
    (chk : QEntry → State → Option (FaultCode × Nat)) (dest : Option Nat) (s : State) : State :=
  let key := coreKey cid
  let c := s.core key
  if c.canDispatch i b && !s.repairing key && decide ((c.queue e).length < queueDepth e) then
    let q := s.mkEntry key i b (!c.guard b)
    match dispatchFault (isCtl key) i b (c.guard b) (priv s) modOk (chk q s) with
    | some (code, addr) => s.seqFault key i code addr
    | none =>
      (s.modCore key fun c =>
        let c1 := c.advance
        let c2 := c1.setQueue e (c1.queue e ++ [q])
        { c2 with seq := c.seq + 1,
                  pend := match dest with | some r => if q.null then c.pend else c.pend ++ [r] | none => c.pend }).pmcOwn key 0x001 1
  else s

/-- No privilege is needed. -/
def noPriv : State → Bool := fun _ => false
/-- No operand check. -/
def noChk : State → Option (FaultCode × Nat) := fun _ => none

/-- The privilege of class 0xE (R149): only context 0. -/
def notFirmware (cid : CoreId) : State → Bool := fun s => (s.core (coreKey cid)).ctx.val != 0

/-- The increment that an instruction with EVE = 1 adds when it completes (R93, R141, R148, R671). -/
def State.instrEv (s : State) (key : Nat) (fm : IFmt) (b : Body) (cls op pc addr : Nat) : State :=
  match evField fm b with
  | some (true, ev) => s.evAdd key ev 1 cls op pc addr
  | _ => s

/-- A scalar register written by an engine, its pending mark cleared (R86, R127). -/
def State.writePend (s : State) (key r : Nat) (v : Word) : State :=
  s.modCore key fun c => { c.setReg r v with pend := setDel c.pend r }

/-- The scalar register that field `i` names. -/
def State.rs (s : State) (key : Nat) (fm : IFmt) (b : Body) (i : Nat) : Word := (s.core key).reg (opnd fm b i)
/-- The scalar register that field `i` names, written. -/
def State.wr (s : State) (key : Nat) (fm : IFmt) (b : Body) (i : Nat) (v : Word) : State :=
  s.modCore key fun c => c.setReg (opnd fm b i) v
/-- The predicate that field `i` names, written. -/
def State.wp (s : State) (key : Nat) (fm : IFmt) (b : Body) (i : Nat) (v : Bool) : State :=
  s.modCore key fun c => c.setPred (opnd fm b i) v

end Sys2Proof.Machine
end

