-- ==== Sys2Proof/Machine/Flags.lean ====
section
/-! DEFINITION. The sticky status registers of a context: CTX_NUMSTS (R80 to R82), CTX_MXSTS (R189, R190), CTX_VXSTS (R229, R230). -/

namespace Sys2Proof.Machine

/-- SAT_HIT and NAN_GEN set where an operation raises them (R54, R62). -/
def State.numFlags (s : State) (n : Nat) (sat nan : Bool) : State :=
  let o := CTX_NUMSTS.off n
  (s.flagIf o CTX_NUMSTS.SAT_HIT sat).flagIf o CTX_NUMSTS.NAN_GEN nan

/-- OVF_INF set (R71). -/
def State.ovfInf (s : State) (n : Nat) (b : Bool) : State := s.flagIf (CTX_NUMSTS.off n) CTX_NUMSTS.OVF_INF b

/-- A replayed instruction recorded at its final shift (R74). -/
def State.replayed (s : State) (n shift : Nat) : State :=
  if shift = 0 then s
  else
    let o := CTX_NUMSTS.off n
    let s1 := s.bump o CTX_NUMSTS.REPLAY_COUNT 1
    let s2 := (s1.setFld o CTX_NUMSTS.LAST_SHIFT shift).setFld o CTX_NUMSTS.REPLAY_HIT 1
    s2.flagIf o CTX_NUMSTS.REPLAY_MAX (shift == 192)

/-- Lines exempted from the checks (R182). -/
def State.unchecked (s : State) (n k : Nat) : State := s.bump (CTX_MXSTS.off n) CTX_MXSTS.UNCHECKED k

/-- An instruction with a flagged line, counted once (R189). -/
def State.mismatch (s : State) (n : Nat) : State :=
  (s.bump (CTX_MXSTS.off n) CTX_MXSTS.MISMATCH_COUNT 1).setFld (CTX_MXSTS.off n) CTX_MXSTS.MISMATCH 1

/-- Empty lines or rows met, and a count that saturated (R213 to R217, R229). -/
def State.vxFlags (s : State) (n empty : Nat) (cntSat : Bool) : State :=
  let o := CTX_VXSTS.off n
  let s1 := if empty = 0 then s else (s.bump o CTX_VXSTS.EMPTY_COUNT empty).setFld o CTX_VXSTS.EMPTY 1
  s1.flagIf o CTX_VXSTS.COUNT_SAT cntSat

end Sys2Proof.Machine
end

