-- ==== Sys2Proof/Machine/Num.lean ====
section
/-! DEFINITION. Number formats and rounding (02_number_formats.md): exact values, the formats of R38 and R39, the rounding modes
of R47 to R49, the conversions of R52 to R56, and FP32 arithmetic with one rounding of the exact result. -/

namespace Sys2Proof.Machine

/-- An exact finite value: `num / den × 2 ^ e`, negated when `neg`. Zero keeps its sign in `neg`. -/
structure Ex where
  neg : Bool
  num : Nat
  den : Nat
  e   : Int
deriving DecidableEq, Repr

/-- What an operand of a floating format stands for. -/
inductive Fv where
  | nan
  | inf (neg : Bool)
  | fin (x : Ex)
deriving DecidableEq, Repr

/-- A rounding mode; stochastic rounding carries its 16-bit draw (R47 to R49). -/
inductive Rnd where
  | rne | rtz | sr (r : Nat)
deriving DecidableEq, Repr

/-- A floating format (R38, R39): mantissa bits, exponent of the smallest subnormal, the code of the largest finite magnitude, the
code of infinity if there is one, the code of the canonical NaN, and the position of the sign bit. -/
structure Fmt where
  m    : Nat
  umin : Int
  max  : Nat
  inf  : Option Nat
  nan  : Nat
  sbit : Nat
deriving DecidableEq, Repr

def fmtF32  : Fmt := ⟨23, -149, 0x7F7FFFFF, some 0x7F800000, 0x7FC00000, 31⟩
def fmtBF16 : Fmt := ⟨7, -133, 0x7F7F, some 0x7F80, 0x7FC0, 15⟩
def fmtF16  : Fmt := ⟨10, -24, 0x7BFF, some 0x7C00, 0x7E00, 15⟩
def fmtE4M3 : Fmt := ⟨3, -9, 0x7E, none, 0x7F, 7⟩
def fmtE5M2 : Fmt := ⟨2, -16, 0x7B, some 0x7C, 0x7F, 7⟩
def fmtE2M1 : Fmt := ⟨1, -1, 0x7, none, 0x7, 3⟩

/-- Exact zero of a sign. -/
def Ex.zero (neg : Bool) : Ex := ⟨neg, 0, 1, 0⟩
/-- An exact integer times a power of two. -/
def Ex.ofNat (n : Nat) (e : Int) : Ex := ⟨false, n, 1, e⟩
/-- An exact integer. -/
def Ex.ofInt (i : Int) : Ex := ⟨i < 0, i.natAbs, 1, 0⟩
/-- The sign flipped. -/
def Ex.negate (x : Ex) : Ex := { x with neg := !x.neg }
/-- The absolute value. -/
def Ex.abs (x : Ex) : Ex := { x with neg := false }
/-- Times `2 ^ k`. -/
def Ex.scale (x : Ex) (k : Int) : Ex := { x with e := x.e + k }
/-- Exact product. -/
def Ex.mul (a b : Ex) : Ex := ⟨a.neg != b.neg, a.num * b.num, a.den * b.den, a.e + b.e⟩
/-- Exact quotient by a non-zero value. -/
def Ex.div (a b : Ex) : Ex := ⟨a.neg != b.neg, a.num * b.den, a.den * b.num, a.e - b.e⟩

/-- The signed numerators of two values over one denominator and one exponent. -/
def Ex.align (a b : Ex) : Int × Int × Nat × Int :=
  let e := min a.e b.e
  let n (x : Ex) (d : Nat) : Int :=
    let v := ((x.num * d) <<< (x.e - e).toNat : Nat)
    if x.neg then -(v : Int) else v
  (n a b.den, n b a.den, a.den * b.den, e)

/-- Exact sum; an exact zero is +0 unless both operands are negative zeros (R61). -/
def Ex.add (a b : Ex) : Ex :=
  let (x, y, d, e) := Ex.align a b
  let t := x + y
  if t = 0 then Ex.zero (a.neg && b.neg) else ⟨t < 0, t.natAbs, d, e⟩

/-- Strictly less, with the two zeros equal. -/
def Ex.lt (a b : Ex) : Bool :=
  let (x, y, _, _) := Ex.align a b
  decide (x < y)

/-- Equal in value. -/
def Ex.eq (a b : Ex) : Bool :=
  let (x, y, _, _) := Ex.align a b
  decide (x = y)

/-- `floor (log2 (num / den))` of a non-zero magnitude. -/
def floorLog2 (num den : Nat) : Int :=
  let l : Int := (Nat.log2 num : Int) - Nat.log2 den
  let ge := if 0 ≤ l then decide (den <<< l.toNat ≤ num) else decide (den ≤ num <<< (-l).toNat)
  if ge then l else l - 1

/-- Whole ULPs and whether the mode adds one, of the magnitude `num / den × 2 ^ e` in units of `2 ^ u` (R47 to R49). -/
def roundUnits (num den : Nat) (e u : Int) (mode : Rnd) : Nat :=
  let sh := e - u
  let n := if 0 ≤ sh then num <<< sh.toNat else num
  let d := if 0 ≤ sh then den else den <<< (-sh).toNat
  let t := n / d
  let r := n % d
  let up := match mode with
    | .rne => decide (d < 2 * r) || (decide (2 * r = d) && decide (t % 2 = 1))
    | .rtz => false
    | .sr w => decide (65536 ≤ r * 65536 / d + w)
  if up then t + 1 else t

/-- The magnitude code of a value rounded with the exponent range unbounded above; a code above `f.max` has overflowed. -/
def roundCode (f : Fmt) (mode : Rnd) (x : Ex) : Nat :=
  if x.num = 0 then 0
  else
    let u := max (floorLog2 x.num x.den + x.e - f.m) f.umin
    (u - f.umin).toNat * 2 ^ f.m + roundUnits x.num x.den x.e u mode

/-- A magnitude code with its sign bit. -/
def withSign (f : Fmt) (neg : Bool) (code : Nat) : Nat := if neg then code + 2 ^ f.sbit else code

/-- What a code of a format stands for (R39, R42). -/
def decodeFv (f : Fmt) (w : Nat) : Fv :=
  let neg := (w >>> f.sbit) % 2 = 1
  let c := w % 2 ^ f.sbit
  if f.max < c then (if f.inf = some c then .inf neg else .nan)
  else
    let e := c >>> f.m
    let m := c % 2 ^ f.m
    if e = 0 then .fin ⟨neg, m, 1, f.umin⟩ else .fin ⟨neg, 2 ^ f.m + m, 1, f.umin + e - 1⟩

/-- The outcome of a conversion: the code, and whether it sets SAT_HIT (R54) or NAN_GEN (R62). -/
structure Cvt where
  code   : Nat
  satHit : Bool
  nanGen : Bool
deriving DecidableEq, Repr

/-- Conversion to a floating format (R52 to R55); `sat` is saturation on. E2M1 always saturates. -/
def convertFv (f : Fmt) (mode : Rnd) (sat : Bool) (v : Fv) : Cvt :=
  match v with
  | .nan => ⟨f.nan, false, false⟩
  | .inf neg =>
    if sat then ⟨withSign f neg f.max, false, false⟩
    else match f.inf with
      | some c => ⟨withSign f neg c, false, false⟩
      | none => ⟨f.nan, false, true⟩
  | .fin x =>
    let c := roundCode f mode x
    if c ≤ f.max then ⟨withSign f x.neg c, false, false⟩
    else if sat || mode == .rtz || f == fmtE2M1 then ⟨withSign f x.neg f.max, true, false⟩
    else match f.inf with
      | some i => ⟨withSign f x.neg i, false, false⟩
      | none => ⟨f.nan, false, true⟩

/-- The integer that a finite value rounds to. -/
def roundInt (mode : Rnd) (x : Ex) : Int :=
  let t := if x.num = 0 then 0 else roundUnits x.num x.den x.e 0 mode
  if x.neg then -(t : Int) else t

/-- Conversion to a two's complement integer of `n` bits, always saturating (R53, R55); the code is the low `n` bits. -/
def convertInt (n : Nat) (mode : Rnd) (v : Fv) : Cvt :=
  let lo : Int := -(2 ^ (n - 1))
  let hi : Int := 2 ^ (n - 1) - 1
  let enc (i : Int) : Nat := (i % 2 ^ n).toNat
  match v with
  | .nan => ⟨0, false, false⟩
  | .inf neg => ⟨enc (if neg then lo else hi), false, false⟩
  | .fin x =>
    let i := roundInt mode x
    if i < lo then ⟨enc lo, true, false⟩
    else if hi < i then ⟨enc hi, true, false⟩
    else ⟨enc i, false, false⟩

/-! FP32 values as 32-bit elements. -/

/-- What an FP32 element stands for. -/
def f32 (w : Elem) : Fv := decodeFv fmtF32 w.toNat
/-- The canonical NaN (R41). -/
def nan32 : Elem := 0x7FC00000
/-- 1.0. -/
def one32 : Elem := 0x3F800000
/-- The infinity of a sign. -/
def inf32 (neg : Bool) : Elem := if neg then 0xFF800000 else 0x7F800000
/-- A NaN element. -/
def isNan32 (w : Elem) : Bool := f32 w == .nan
/-- A finite element. -/
def isFin32 (w : Elem) : Bool := match f32 w with | .fin _ => true | _ => false

/-- The exact value rounded once to FP32 by RNE or RTZ; overflow gives infinity, or the largest finite value under RTZ (R71,
R203). -/
def rnd32 (mode : Rnd) (x : Ex) : Elem :=
  let c := roundCode fmtF32 mode x
  let c' := if c ≤ fmtF32.max then c else if mode == .rtz then fmtF32.max else 0x7F800000
  BitVec.ofNat 32 (withSign fmtF32 x.neg c')

/-- The rounding of an exact value overflows FP32. -/
def ovf32 (mode : Rnd) (x : Ex) : Bool := decide (fmtF32.max < roundCode fmtF32 mode x)

/-- A value and whether NAN_GEN is set (R62). -/
abbrev Res32 := Elem × Bool

/-- The exact sum of two values, before any rounding (R61); the flag tells a NaN made from no NaN. -/
def addFv (a b : Fv) : Fv × Bool :=
  match a, b with
  | .nan, _ => (.nan, false)
  | _, .nan => (.nan, false)
  | .inf x, .inf y => if x == y then (.inf x, false) else (.nan, true)
  | .inf x, .fin _ => (.inf x, false)
  | .fin _, .inf y => (.inf y, false)
  | .fin x, .fin y => (.fin (Ex.add x y), false)

/-- The exact product of two values (R61). -/
def mulFv (a b : Fv) : Fv × Bool :=
  match a, b with
  | .nan, _ => (.nan, false)
  | _, .nan => (.nan, false)
  | .inf x, .inf y => (.inf (x != y), false)
  | .inf x, .fin y => if y.num = 0 then (.nan, true) else (.inf (x != y.neg), false)
  | .fin x, .inf y => if x.num = 0 then (.nan, true) else (.inf (x.neg != y), false)
  | .fin x, .fin y => (.fin (Ex.mul x y), false)

/-- The negation of a value. -/
def negFv : Fv → Fv
  | .nan => .nan
  | .inf n => .inf !n
  | .fin x => .fin x.negate

/-- The exact quotient of two values, by the IEEE 754 rules. -/
def divFv (a b : Fv) : Fv × Bool :=
  match a, b with
  | .nan, _ => (.nan, false)
  | _, .nan => (.nan, false)
  | .inf _, .inf _ => (.nan, true)
  | .inf x, .fin y => (.inf (x != y.neg), false)
  | .fin x, .inf y => (.fin (Ex.zero (x.neg != y)), false)
  | .fin x, .fin y =>
    if y.num = 0 then (if x.num = 0 then (.nan, true) else (.inf (x.neg != y.neg), false))
    else (.fin (Ex.div x y), false)

/-- A value rounded to FP32 (R41, R203). -/
def toF32 (mode : Rnd) (v : Fv × Bool) : Res32 :=
  match v.1 with
  | .nan => (nan32, v.2)
  | .inf n => (inf32 n, v.2)
  | .fin x => (rnd32 mode x, v.2)

/-- FP32 sum by RNE. -/
def add32 (a b : Elem) : Res32 := toF32 .rne (addFv (f32 a) (f32 b))
/-- FP32 difference by RNE. -/
def sub32 (a b : Elem) : Res32 := toF32 .rne (addFv (f32 a) (negFv (f32 b)))
/-- FP32 product by RNE. -/
def mul32 (a b : Elem) : Res32 := toF32 .rne (mulFv (f32 a) (f32 b))
/-- FP32 quotient by RNE. -/
def div32 (a b : Elem) : Res32 := toF32 .rne (divFv (f32 a) (f32 b))
/-- FP32 fused multiply-add: one rounding of the exact `a × b + c` (R132, R203). -/
def fma32 (a b c : Elem) : Res32 :=
  let (p, g) := mulFv (f32 a) (f32 b)
  let (t, h) := addFv p (f32 c)
  toF32 .rne (t, (g && f32 c != .nan) || h)

/-- `a < b` with -0 below +0 (R133); no operand is a NaN. -/
def ltTotal (a b : Fv) : Bool :=
  match a, b with
  | .nan, _ => false
  | _, .nan => false
  | .inf x, .inf y => x && !y
  | .inf x, .fin _ => x
  | .fin _, .inf y => !y
  | .fin x, .fin y =>
    if x.num = 0 ∧ y.num = 0 then x.neg && !y.neg else Ex.lt x y

/-- FP32 minimum (R133). -/
def min32 (a b : Elem) : Elem :=
  match f32 a, f32 b with
  | .nan, .nan => nan32
  | .nan, _ => b
  | _, .nan => a
  | x, y => if ltTotal y x then b else a

/-- FP32 maximum (R133). -/
def max32 (a b : Elem) : Elem :=
  match f32 a, f32 b with
  | .nan, .nan => nan32
  | .nan, _ => b
  | _, .nan => a
  | x, y => if ltTotal x y then b else a

/-- FP32 equality: false on a NaN, the zeros equal (R134). -/
def eq32 (a b : Elem) : Bool :=
  match f32 a, f32 b with
  | .inf x, .inf y => x == y
  | .fin x, .fin y => Ex.eq x y
  | _, _ => false

/-- FP32 less-than: false on a NaN, the zeros equal (R134). -/
def lt32 (a b : Elem) : Bool :=
  match f32 a, f32 b with
  | .nan, _ => false
  | _, .nan => false
  | .inf x, .inf y => x && !y
  | .inf x, .fin _ => x
  | .fin _, .inf y => !y
  | .fin x, .fin y => Ex.lt x y

/-- FP32 less-or-equal: false on a NaN (R134). -/
def le32 (a b : Elem) : Bool := lt32 a b || eq32 a b

/-- A signed 64-bit integer rounded to FP32 by RNE (R133). -/
def ofInt32 (w : Word) : Elem := rnd32 .rne (Ex.ofInt w.toInt)

/-- FP32 to a signed 64-bit integer by RTZ, saturating; the flag is SAT_HIT (R133, R54). -/
def toInt64 (a : Elem) : Word × Bool :=
  let c := convertInt 64 .rtz (f32 a)
  (BitVec.ofNat 64 c.code, c.satHit)

/-! Type and rounding codes of R145. -/

/-- The floating format of a type code, MX types by their element. -/
def typeFmt : Nat → Fmt
  | 0x0 => fmtF32
  | 0x1 => fmtBF16
  | 0x2 => fmtF16
  | 0x3 => fmtE4M3
  | 0x4 => fmtE5M2
  | 0x5 => fmtE4M3
  | 0x6 => fmtE5M2
  | _ => fmtE2M1

/-- Bits of one element of a type code (R38). -/
def typeBits : Nat → Nat
  | 0x0 => 32
  | 0x1 => 16
  | 0x2 => 16
  | 0x3 => 8
  | 0x4 => 8
  | 0x5 => 8
  | 0x6 => 8
  | 0x8 => 8
  | _ => 4

/-- What an element code of a type stands for; INT8 and INT4 as signed integers (R46). -/
def typeFv (t w : Nat) : Fv :=
  if t = 0x8 then .fin (Ex.ofInt (sext w 8))
  else if t = 0x9 then .fin (Ex.ofInt (sext w 4))
  else decodeFv (typeFmt t) w

/-- Conversion of a value to a type code that vcvt permits (R218). -/
def convertType (t : Nat) (mode : Rnd) (sat : Bool) (v : Fv) : Cvt :=
  if t = 0x8 then convertInt 8 mode v
  else if t = 0x9 then convertInt 4 mode v
  else convertFv (typeFmt t) mode sat v

/-- The rounding that a rounding code selects, `dflt` being CTX_NUMCTL.CVT_RND and `r` the draw of SR (R145). -/
def rndOf (code dflt r : Nat) : Rnd :=
  match (if code = 0 then dflt + 1 else code) with
  | 1 => .rne
  | 2 => .rtz
  | _ => .sr r

/-! MX blocks (R43, R44, R56, R59). -/

/-- An MX element: NaN when the scale is 0xFF, else the element times `2 ^ (S - 127)` (R43, R44). -/
def mxFv (t scale w : Nat) : Fv :=
  if scale = 0xFF then .nan
  else match decodeFv (typeFmt t) w with
    | .fin x => .fin (x.scale ((scale : Int) - 127))
    | v => v

/-- The exponent `emax` of R56. -/
def mxEmax (t : Nat) : Int := if t = 0x5 then 8 else if t = 0x6 then 15 else 2

/-- The scale and the element codes of 32 FP32 values (R56); `rs i` is the rounding of element `i`. A scale of 0xFF is a NaN, made from no NaN
when an infinity alone brings it (R39, R62). -/
def mxBlock (t : Nat) (rs : Nat → Rnd) (vs : List Fv) : Nat × List Cvt :=
  let bad := vs.any fun v => match v with | .fin _ => false | _ => true
  if bad then (0xFF, vs.map fun _ => ⟨0, false, vs.all (· != .nan)⟩)
  else
    let mags := vs.map fun v => match v with | .fin x => x.abs | _ => Ex.zero false
    let a := mags.foldl (fun m x => if Ex.lt m x then x else m) (Ex.zero false)
    let x : Int := if a.num = 0 then -127 else max (floorLog2 a.num a.den + a.e - mxEmax t) (-127)
    ((x + 127).toNat,
      vs.mapIdx fun i v => match v with
        | .fin y => convertFv (typeFmt t) (rs i) true (.fin (y.scale (-x)))
        | _ => ⟨0, false, false⟩)

/-! The split of R66 and R67. -/

/-- Bits 31 to 16 of an FP32 code. -/
def bf16Trunc (w : Elem) : Elem := w &&& 0xFFFF0000

/-- The pieces hi, mid and lo of an FP32 value, as FP32 codes whose low half is zero (R66, R67). The truncation is taken as R67 writes it: a NaN
whose mantissa bits all lie in the low half leaves the code of an infinity. (log 68, DESIGN CHOICE) -/
def splitPieces (w : Elem) : Elem × Elem × Elem :=
  let hi := bf16Trunc w
  match f32 w with
  | .fin x =>
    if x.num = 0 then (hi, hi, hi)
    else
      let r1 := (sub32 w hi).1
      let mid := bf16Trunc r1
      let r2 := (sub32 r1 mid).1
      (hi, mid, bf16Trunc r2)
  | _ => (hi, 0, 0)

end Sys2Proof.Machine
end

