-- ==== Sys2Proof/Machine/Scalar.lean ====
section
/-! DEFINITION. The scalar integer, scalar FP32 and predicate instructions (04_instruction_set.md R130 to R134). -/

namespace Sys2Proof.Machine

open Host (Outcome)

/-- What every meaning answers. -/
abbrev Out := Outcome State Fault Refusal

/-- A register instruction of class 0x0: d = f a b. -/
def intRR (op : Nat) (f : Word → Word → Word) (cid : CoreId) (b : Body) (s : State) : Out :=
  let k := coreKey cid
  .next (dispatchSeq cid ⟨0x0, op, .r, [0, 1, 2]⟩ b noPriv noChk (fun _ t => t.wr k .r b 0 (f (t.rs k .r b 1) (t.rs k .r b 2))) s)

/-- A register instruction of class 0x0 with one source: d = f a. -/
def intR (op : Nat) (f : Word → Word) (cid : CoreId) (b : Body) (s : State) : Out :=
  let k := coreKey cid
  .next (dispatchSeq cid ⟨0x0, op, .r, [0, 1]⟩ b noPriv noChk (fun _ t => t.wr k .r b 0 (f (t.rs k .r b 1))) s)

/-- An immediate instruction of class 0x1: d = f a imm. -/
def intRI (op : Nat) (f : Word → Word → Word) (cid : CoreId) (b : Body) (s : State) : Out :=
  let k := coreKey cid
  .next (dispatchSeq cid ⟨0x1, op, .i, [0, 1]⟩ b noPriv noChk (fun _ t => t.wr k .i b 0 (f (t.rs k .i b 1) (immW b))) s)

/-- Quotient and remainder of R131. -/
def divS (a b : Word) : Word :=
  if b = 0 then -1
  else if a = BitVec.intMin 64 ∧ b = -1 then BitVec.intMin 64
  else a.sdiv b
def divU (a b : Word) : Word := if b = 0 then BitVec.allOnes 64 else a.udiv b
def remS (a b : Word) : Word :=
  if b = 0 then a
  else if a = BitVec.intMin 64 ∧ b = -1 then 0
  else a.srem b
def remU (a b : Word) : Word := if b = 0 then a else a.umod b

/-- Shift amounts use bits 5 to 0 (R130). -/
def shAmt (b : Word) : Nat := b.toNat % 64

def execAdd := intRR 0x00 fun a b => a + b
def execSub := intRR 0x01 fun a b => a - b
def execMul := intRR 0x02 fun a b => a * b
def execMulhS := intRR 0x03 fun a b => BitVec.ofInt 64 (a.toInt * b.toInt / 2 ^ 64)
def execMulhU := intRR 0x04 fun a b => BitVec.ofNat 64 (a.toNat * b.toNat / 2 ^ 64)
def execDivS := intRR 0x05 divS
def execDivU := intRR 0x06 divU
def execRemS := intRR 0x07 remS
def execRemU := intRR 0x08 remU
def execAnd := intRR 0x09 fun a b => a &&& b
def execOr := intRR 0x0A fun a b => a ||| b
def execXor := intRR 0x0B fun a b => a ^^^ b
def execShl := intRR 0x0C fun a b => a <<< shAmt b
def execShr := intRR 0x0D fun a b => a >>> shAmt b
def execSra := intRR 0x0E fun a b => a.sshiftRight (shAmt b)
def execMinS := intRR 0x0F fun a b => if a.slt b then a else b
def execMaxS := intRR 0x10 fun a b => if a.slt b then b else a
def execMinU := intRR 0x11 fun a b => if a < b then a else b
def execMaxU := intRR 0x12 fun a b => if a < b then b else a

/-- Number of leading zero bits among the low `n` bits. -/
def leadZeros (w : Word) : Nat → Nat
  | 0 => 0
  | n + 1 => if w.getLsbD n then 0 else 1 + leadZeros w n
/-- Number of set bits among the low `n` bits. -/
def popCount (w : Word) : Nat → Nat
  | 0 => 0
  | n + 1 => b2n (w.getLsbD n) + popCount w n

def execClz := intR 0x13 fun a => BitVec.ofNat 64 (leadZeros a 64)
def execPopc := intR 0x14 fun a => BitVec.ofNat 64 (popCount a 64)

def execAddi := intRI 0x00 fun a i => a + i
def execAndi := intRI 0x09 fun a i => a &&& i
def execOri := intRI 0x0A fun a i => a ||| i
def execXori := intRI 0x0B fun a i => a ^^^ i
def execShli := intRI 0x0C fun a i => a <<< shAmt i
def execShri := intRI 0x0D fun a i => a >>> shAmt i
def execSrai := intRI 0x0E fun a i => a.sshiftRight (shAmt i)

/-- li: d = imm. -/
def execLi (cid : CoreId) (b : Body) (s : State) : Out :=
  let k := coreKey cid
  .next (dispatchSeq cid ⟨0x1, 0x20, .i, [0]⟩ b noPriv noChk (fun _ t => t.wr k .i b 0 (immW b)) s)

/-- lih: bits 63 to 32 of d are imm, the rest unchanged. -/
def execLih (cid : CoreId) (b : Body) (s : State) : Out :=
  let k := coreKey cid
  .next (dispatchSeq cid ⟨0x1, 0x21, .i, [0]⟩ b noPriv noChk
    (fun _ t => t.wr k .i b 0 ((t.rs k .i b 0).setFld 32 32 (bf b 0 32))) s)

/-! Scalar FP32 (R132, R133). -/

/-- Bits 31 to 0 of a register as an FP32 value. -/
def lowElem (w : Word) : Elem := w.setWidth 32

/-- An FP32 instruction of class 0x2 on the registers it uses: the result, SAT_HIT and NAN_GEN. -/
def fpOp (op : Nat) (used : List Nat) (f : Word → Word → Word → Word × Bool × Bool) (cid : CoreId) (b : Body) (s : State) : Out :=
  let k := coreKey cid
  .next (dispatchSeq cid ⟨0x2, op, .r, used⟩ b noPriv noChk
    (fun _ t =>
      let (v, sat, nan) := f (t.rs k .r b 1) (t.rs k .r b 2) (t.rs k .r b 3)
      (t.numFlags (t.core k).ctx.val sat nan).wr k .r b 0 v) s)

/-- An FP32 result zero-extended (R132). -/
def fpRes (r : Res32) : Word × Bool × Bool := (r.1.setWidth 64, false, r.2)

def execFaddF32 := fpOp 0x00 [0, 1, 2] fun a b _ => fpRes (add32 (lowElem a) (lowElem b))
def execFsubF32 := fpOp 0x01 [0, 1, 2] fun a b _ => fpRes (sub32 (lowElem a) (lowElem b))
def execFmulF32 := fpOp 0x02 [0, 1, 2] fun a b _ => fpRes (mul32 (lowElem a) (lowElem b))
def execFfmaF32 := fpOp 0x03 [0, 1, 2, 3] fun a b c => fpRes (fma32 (lowElem a) (lowElem b) (lowElem c))
def execFminF32 := fpOp 0x04 [0, 1, 2] fun a b _ => fpRes (min32 (lowElem a) (lowElem b), false)
def execFmaxF32 := fpOp 0x05 [0, 1, 2] fun a b _ => fpRes (max32 (lowElem a) (lowElem b), false)
def execFcvtF32S64 := fpOp 0x06 [0, 1] fun a _ _ => fpRes (ofInt32 a, false)
def execFcvtS64F32 := fpOp 0x07 [0, 1] fun a _ _ => let (v, sat) := toInt64 (lowElem a); (v, sat, false)

/-! Predicates (R134). -/

/-- A register compare of class 0x3. -/
def cmpRR (op : Nat) (f : Word → Word → Bool) (cid : CoreId) (b : Body) (s : State) : Out :=
  let k := coreKey cid
  .next (dispatchSeq cid ⟨0x3, op, .p, [0, 1, 2]⟩ b noPriv noChk (fun _ t => t.wp k .p b 0 (f (t.rs k .p b 1) (t.rs k .p b 2))) s)

/-- An immediate compare of class 0x3. -/
def cmpRI (op : Nat) (f : Word → Word → Bool) (cid : CoreId) (b : Body) (s : State) : Out :=
  let k := coreKey cid
  .next (dispatchSeq cid ⟨0x3, op, .pi, [0, 1]⟩ b noPriv noChk (fun _ t => t.wp k .pi b 0 (f (t.rs k .pi b 1) (immW b))) s)

/-- A logical operation on predicates. -/
def predOp (op : Nat) (used : List Nat) (f : Bool → Bool → Bool) (cid : CoreId) (b : Body) (s : State) : Out :=
  let k := coreKey cid
  .next (dispatchSeq cid ⟨0x3, op, .p, used⟩ b noPriv noChk
    (fun _ t => t.wp k .p b 0 (f ((t.core k).pred (opnd .p b 3)) ((t.core k).pred (opnd .p b 4)))) s)

def execCmpEq := cmpRR 0x00 fun a b => a == b
def execCmpNe := cmpRR 0x01 fun a b => a != b
def execCmpLtS := cmpRR 0x02 fun a b => a.slt b
def execCmpLtU := cmpRR 0x03 fun a b => a.ult b
def execCmpLeS := cmpRR 0x04 fun a b => a.sle b
def execCmpLeU := cmpRR 0x05 fun a b => a.ule b
def execCmpiEq := cmpRI 0x08 fun a b => a == b
def execCmpiNe := cmpRI 0x09 fun a b => a != b
def execCmpiLtS := cmpRI 0x0A fun a b => a.slt b
def execCmpiLtU := cmpRI 0x0B fun a b => a.ult b
def execCmpiLeS := cmpRI 0x0C fun a b => a.sle b
def execCmpiLeU := cmpRI 0x0D fun a b => a.ule b
def execPand := predOp 0x10 [0, 3, 4] fun a b => a && b
def execPor := predOp 0x11 [0, 3, 4] fun a b => a || b
def execPxor := predOp 0x12 [0, 3, 4] fun a b => a != b
def execPnot := predOp 0x13 [0, 3] fun a _ => !a
def execFcmpEqF32 := cmpRR 0x18 fun a b => eq32 (lowElem a) (lowElem b)
def execFcmpLtF32 := cmpRR 0x19 fun a b => lt32 (lowElem a) (lowElem b)
def execFcmpLeF32 := cmpRR 0x1A fun a b => le32 (lowElem a) (lowElem b)

end Sys2Proof.Machine
end

