-- ==== Sys2Proof/Machine/DieLink.lean ====
section
/-! DEFINITION. Die-to-die links: modules, training, repair maps, near-site capabilities (16_die_links_and_test_access.md R564 to
R582). -/

namespace Sys2Proof.Machine

/-- The modules of link `n` (R564). -/
def dlCount (n : Nat) : Nat := if n < 4 then 16 else if n < 8 then 32 else 4
/-- The key of a module. -/
def dlKey (n m : Nat) : Nat := n * 32 + m
def State.dlMod (s : State) (n m : Nat) : DlMod := tget DlMod.reset s.dls (dlKey n m)
def State.setDl (s : State) (n m : Nat) (x : DlMod) : State := { s with dls := tset s.dls (dlKey n m) x }
/-- The modules of a link. -/
def State.dlMods (s : State) (n : Nat) : List DlMod := (List.range (dlCount n)).map fun m => s.dlMod n m
/-- The module carries traffic. -/
def DlMod.usable (x : DlMod) : Bool := x.st == .full || x.st == .half
/-- The link has a usable module. -/
def State.dlUsable (s : State) (n : Nat) : Bool := (s.dlMods n).any DlMod.usable

/-! The Vuodric classes (R567 to R570). -/

/-- The classes of messages. -/
inductive DlClass where
  | memory
  | coherence
  | interrupts
  | debug
deriving DecidableEq, Repr

/-- The code of a class (R567). -/
def DlClass.code : DlClass → Nat
  | .memory => 0
  | .coherence => 1
  | .interrupts => 2
  | .debug => 3

/-- The queue of a class in pointer order of the flit slots: interrupts, coherence responses, memory responses, coherence requests, memory
requests, debug (R568). -/
def DlClass.queue (c : DlClass) (resp : Bool) : Nat :=
  match c, resp with
  | .interrupts, _ => 0
  | .coherence, true => 1
  | .memory, true => 2
  | .coherence, false => 3
  | .memory, false => 4
  | .debug, _ => 5

/-- The first usable module of a link at or after one, in ascending cyclic order (R569). -/
def State.nextUsable (s : State) (n m : Nat) : Option Nat :=
  ((List.range (dlCount n)).map fun i => (m + i) % dlCount n).find? fun x => (s.dlMod n x).usable

/-- The module of a link that a message for a local address takes: by its address in the memory class, with the offset within the near die on
links 4 to 7, else the lowest-numbered usable one (R567, R569). -/
def State.dlModule (s : State) (n : Nat) (c : DlClass) (a : Nat) : Option Nat :=
  match c with
  | .memory => s.nextUsable n (if 4 ≤ n ∧ n < 8 then nearChannel a else a / 256 % dlCount n)
  | _ => s.nextUsable n 0

/-- The die that an address lies behind, by its code in R23. -/
def State.addrDie (s : State) (a : Nat) : Nat :=
  match tierOf a with
  | .cluster k _ => k
  | .scratch k _ _ => k
  | .near => 9 + (a - nearBase) / 0x60000000
  | .hbm => (s.hbmPlace a).1 / 3
  | _ => 8

/-- The links from a compute die or the host die to a compute, host or near die, each with whether a request crosses it towards the compute
or near die: two compute dies meet in the bridge of the host die, and a near die is reached through its own compute die (R14, R15, R572). -/
def dlPath (src dst : Nat) : List (Nat × Bool) :=
  let j := if 9 ≤ dst then dst - 9 else dst
  (if src = j then [] else (if src < 4 then [(src, false)] else []) ++ (if j < 4 then [(j, true)] else [])) ++
    (if 9 ≤ dst then [(4 + j, true)] else [])

/-- An access from a die has crossed the links to its address, and its answer has come back: the flit slot pointers of the modules it took
stand past the queues served (R22, R568). (log 75, DEDUCED) -/
def State.crossed (s : State) (src : Nat) (c : DlClass) (a : Nat) : State :=
  (dlPath src (s.addrDie a)).foldl (fun t l =>
    match s.dlModule l.1 c a with
    | some m => (t.arbServed (.flit l.1 m l.2) (c.queue false)).arbServed (.flit l.1 m (!l.2)) (c.queue true)
    | none => t) s

/-- As `crossed`, for each part of a range that stays within one module. -/
def State.crossedRange (s : State) (src : Nat) (c : DlClass) (a len : Nat) : State :=
  (List.range ((a + len - 1) / 256 - a / 256 + 1)).foldl (fun t i => t.crossed src c (max a ((a / 256 + i) * 256))) s

/-- The queues of a module in one direction that hold a message of a core's access: those of the accesses issued and not performed whose path
takes it (R568). -/
def State.dlWaiting (s : State) (key n m : Nat) (down : Bool) : List Nat :=
  let src := if isCtl key then 8 else keyDie key
  (s.allFlights key).filterMap fun f =>
    let c : DlClass := match f.op with | .load _ _ => .memory | .store _ => .memory | _ => .coherence
    if f.st == .issued && f.remote.isNone && (dlPath src (s.addrDie f.addr)).contains (n, down) && s.dlModule n c f.addr == some m then
      some (c.queue false)
    else none

/-- The queue that the next flit slot of a module goes to, of those with a message and a credit (R568). -/
def State.flitTurn (s : State) (n m : Nat) (down : Bool) (waiting : List Nat) : Option Nat := s.arbWinner (.flit n m down) waiting

/-- The state code of PKG_DL_STS: DOWN before bring-up, TRAINING while every module that could carry traffic is being trained, FAILED with
none left, DEGRADED with one at x32 or disabled, else ACTIVE (R581). -/
def State.dlState (s : State) (n : Nat) : Nat :=
  let l := s.dlMods n
  if l.any DlMod.usable then (if l.any fun x => x.st == .half || x.st == .disabled then 4 else 3)
  else if l.any fun x => x.st == .training then 1
  else if l.any fun x => x.st == .disabled then 5
  else 0

/-- PKG_DL_STS of a link made to show its modules (R581). -/
def State.dlSync (s : State) (n : Nat) : State :=
  let l := s.dlMods n
  let o := PKG_DL_STS.off n
  let st := s.dlState n
  let s1 := (s.setFld o PKG_DL_STS.STATE st).setFld o PKG_DL_STS.MOD_FULL (l.filter fun x => x.st == .full).length
  let s2 := s1.setFld o PKG_DL_STS.MOD_HALF (l.filter fun x => x.st == .half).length
  let s3 := s2.setFld o PKG_DL_STS.REPAIRED (min 255 (l.foldl (fun k x => k + x.map.lanes.length) 0))
  if l.any DlMod.usable then s3 else s3.setFld o PKG_DL_STS.RATE 0

/-- Every module of a link is trained with its map from flash, at the highest rate that PKG_DL_CTL permits (R574, R580, R581). -/
def State.dlTrain (s : State) (n : Nat) : State :=
  let s1 := (List.range (dlCount n)).foldl (fun s m =>
    let map := tget ⟨[], none⟩ s.flash.repair (dlKey n m)
    s.setDl n m ⟨if map.half.isSome then .half else .full, map, [], .full, none, false⟩) s
  (s1.setFld (PKG_DL_STS.off n) PKG_DL_STS.RATE (s1.fld PKG_DL_CTL.off PKG_DL_CTL.MAXRATE)).dlSync n

/-- Every link of a list is trained. (log 46, DEDUCED) -/
def State.dlTrainAll (s : State) (l : List Nat) : State := l.foldl State.dlTrain s

/-- The unit that a record of a link names (R579). -/
def dlUnit (n : Nat) : UnitCode := if n < 12 then mkUnit (n % 4) 15 0 3 0xFFFF else 0x8405FFFF

/-- DETAIL of a link's record (R579). -/
def dlDetail (n m lane : Nat) (other : Bool) (errs : Nat) : Word :=
  BitVec.ofNat 64 (put n 56 + put m 48 + put lane 40 + put (b2n other) 32 + errs)

/-- A flit fails its CRC and is retried (R575). -/
def State.flitRetry (s : State) (n m : Nat) : State :=
  if m < dlCount n ∧ (s.dlMod n m).usable = true then
    let s1 := (s.bump (PKG_DL_ERR.off n) PKG_DL_ERR.CRC 1).bump (PKG_DL_ERR.off n) PKG_DL_ERR.RETRY 1
    let (s2, i) := s1.openRecord (mkDet 0x0F (dlUnit n) none 0 0 5 0 0 0 (dlDetail n m 0 false 1)) false
    s2.handle i 0 0x02
  else s

def execFlitCrcRetry (n : Fin 16) (m : Nat) (s : State) : Out := .next (s.flitRetry n.val m)

/-- The half, lanes 0 to 31 or 32 to 63, that holds no bad lane. -/
def cleanHalf (bad : List (Nat × Bool)) : Option Bool :=
  if bad.all fun x => decide (32 ≤ x.1) then some false
  else if bad.all fun x => decide (x.1 < 32) then some true
  else none

/-- A lane charged: a free redundant lane of its direction replaces it; with none free the module goes to x32 on a clean half, with none
clean it is disabled (R565, R576). -/
def DlMod.repair (x : DlMod) (lane : Nat) (dir : Bool) : DlMod :=
  if (x.map.lanes.filter fun l => l.2 == dir).length < 4 then
    { x with map := { x.map with lanes := x.map.lanes ++ [(lane, dir)] }, next := if x.map.half.isSome then .half else .full, dirty := true }
  else
    let bad := x.bad ++ [(lane, dir)]
    match cleanHalf bad with
    | some h => { x with bad := bad, map := { x.map with half := some h }, next := .half, dirty := true }
    | none => { x with bad := bad, next := .disabled, dirty := true }

/-- A module is retrained: parity of one lane above the limit within a millisecond, or a flit's retries run out (R576, R577). (log 46, DEDUCED) -/
def State.retrainMod (s : State) (n m : Nat) (why : RetrainWhy) : State :=
  let x := s.dlMod n m
  let lim := s.fld PKG_DL_CTL.off PKG_DL_CTL.LANE_LIM
  let go := match why with | .parity _ _ e => decide (lim < e.toNat) | .retry => true
  if decide (m < dlCount n) && x.usable && go then
    let y := match why with | .parity l d _ => x.repair l.val d | .retry => { x with next := x.st }
    let det := match why with | .parity l d e => dlDetail n m l.val d e.toNat | .retry => dlDetail n m 0 false (max 1 (s.fld PKG_DL_CTL.off PKG_DL_CTL.RETRY_MAX))
    let s1 := s.bump (PKG_DL_ERR.off n) PKG_DL_ERR.RETRAIN 1
    let (s2, i) := s1.openRecord (mkDet 0x0F (dlUnit n) none 0 1 5 0 0 0 det) false
    let r := match why with | .parity _ _ _ => i | .retry => none
    (s2.setDl n m { y with st := .training, recd := r }).dlSync n
  else s

def execModuleRetrain (n : Fin 16) (m : Nat) (why : RetrainWhy) (s : State) : Out := .next (s.retrainMod n.val m why)

/-- A retrained module is ACTIVE at its new width or disabled; the record gets its handling and closes (R538, R577, R579). -/
def State.retrainDone (s : State) (n m : Nat) : State :=
  let x := s.dlMod n m
  let s1 := (s.setDl n m { x with st := x.next, recd := none }).dlSync n
  match x.recd with
  | some i =>
    if x.next = .disabled then s1.closeRecord i 0 3 0x07
    else if x.dirty then s1.closeRecord i 0 1 0x09
    else s1
  | none => s1

/-- The repair map of a link reaches module flash (R577, R580), and M4 is extended (R620). -/
def execRepairMapWrite (n : Fin 16) (s : State) : Out :=
  let s1 := (List.range (dlCount n.val)).foldl (fun s m =>
    let x := s.dlMod n.val m
    if x.dirty then
      { s.setDl n.val m { x with dirty := false } with
        flash := { s.flash with repair := if x.map.lanes.isEmpty && x.map.half.isNone then terase s.flash.repair (dlKey n.val m)
                                          else tset s.flash.repair (dlKey n.val m) x.map } }
    else s) s
  .next (if (s.dlMods n.val).any (·.dirty) then s1.measMaps else s)

/-! Near sites (R571 to R573). -/

/-- A capability block passes the checks of R573. -/
def capOk (w : Word) : Bool :=
  let kind := w.fld 40 8
  (kind == 1 || kind == 2) && w.flag 36 && decide (1 ≤ w.fld 32 4) && decide (27 ≤ w.fld 16 16) && w.fld 8 8 == 32 && decide (w.fld 0 8 ≤ 100)

/-- The unit code of the near site behind Ck. -/
def unitSite (k : Nat) : UnitCode := mkUnit (9 + k) 0 0 3 0xFFFF

/-- A near site is shuttered, in flash as every shutter but a port's is: its range is unbacked, ERR_SVC.NEAR is set, an ERROR event record is
sent (R550, R573, R578, R579). -/
def State.shutSite (s : State) (k : Nat) : State :=
  let add (l : List UnitCode) : List UnitCode := if l.contains (unitSite k) then l else l ++ [unitSite k]
  let s0 := { s with shut := add s.shut, flash := { s.flash with shut := add s.flash.shut } }
  let s1 := (if s.shut.contains (unitSite k) then s0 else s0.measMaps).setFld ERR_SVC.off ERR_SVC.NEAR 1
  let (s2, i) := s1.openRecord (mkDet 0x0F (dlUnit (4 + k)) none 3 3 0 0 0 0 (dlDetail (4 + k) 0 0 false 0)) false
  match i with | some j => s2.closeRecord j 0 3 0x07 | none => s2

/-- The two ends of the near links exchange capability blocks (R571, R573). -/
def State.negotiate (s : State) : State :=
  (List.range 4).foldl (fun s k =>
    let w := Config.siteCap k
    let s1 := s.csrSet (PKG_DL_CAP.off k) w
    if capOk w && s1.dlUsable (4 + k) then s1 else s1.shutSite k) s

end Sys2Proof.Machine
end

