-- ==== Sys2Proof/Machine/Control.lean ====
section
/-! DEFINITION. Control flow, events, barriers, the privileged forms, and the dispatch of scalar memory accesses and semaphores
(04_instruction_set.md R92 to R101, R135 to R141, R149, R150, R677; 19_counters_and_telemetry.md R638). -/

namespace Sys2Proof.Machine

/-! Control flow (class 0x4). -/

/-- A branch target relative to the branch (R135). -/
def relTarget (pc : Nat) (b : Body) : BitVec 48 := BitVec.ofNat 48 pc + ((immW b) <<< 3).setWidth 48

/-- An instruction of class 0x4 that the sequencer executes. -/
def ctlOp (op : Nat) (used : List Nat) (chk : State → Option (FaultCode × Nat)) (eff : Nat → State → State) (cid : CoreId)
    (b : Body) (s : State) : Out :=
  .next (dispatchSeq cid ⟨0x4, op, .i, used⟩ b noPriv chk eff s)

def State.setPc (s : State) (k : Nat) (pc : BitVec 48) : State := s.modCore k fun c => { c with pc := pc }
/-- The sequencer holds dispatch, and goes on at once when the condition is already met. -/
def State.holdOn (s : State) (k : Nat) (h : Hold) : State := (s.modCore k fun c => { c with hold := h }).settle k

/-- A register branch target that is not a multiple of 8 (R135). -/
def targetChk (k : Nat) (b : Body) (s : State) : Option (FaultCode × Nat) :=
  if (s.rs k .i b 1).toNat % 8 = 0 then none else some (.alignment, 0)

def execNop := ctlOp 0x00 [] noChk fun _ t => t
def execBr (cid : CoreId) (b : Body) (s : State) : Out :=
  ctlOp 0x01 [] noChk (fun pc t => t.setPc (coreKey cid) (relTarget pc b)) cid b s
/-- brr: the bits of the register above the 48-bit PC are not looked at. (log 67, DESIGN CHOICE) -/
def execBrr (cid : CoreId) (b : Body) (s : State) : Out :=
  let k := coreKey cid
  ctlOp 0x02 [1] (targetChk k b) (fun _ t => t.setPc k ((t.rs k .i b 1).setWidth 48)) cid b s
def execCall (cid : CoreId) (b : Body) (s : State) : Out :=
  let k := coreKey cid
  ctlOp 0x03 [0] noChk (fun pc t => (t.wr k .i b 0 (BitVec.ofNat 64 (pc + 8))).setPc k (relTarget pc b)) cid b s
/-- ret: as brr. (log 67, DESIGN CHOICE) -/
def execRet (cid : CoreId) (b : Body) (s : State) : Out :=
  let k := coreKey cid
  ctlOp 0x04 [1] (targetChk k b) (fun _ t => t.setPc k ((t.rs k .i b 1).setWidth 48)) cid b s
def execLoop (cid : CoreId) (b : Body) (s : State) : Out :=
  let k := coreKey cid
  ctlOp 0x05 [1] noChk (fun pc t =>
    let a := t.rs k .i b 1 - 1
    let t1 := t.wr k .i b 1 a
    if a ≠ 0 then t1.setPc k (relTarget pc b) else t1) cid b s
def execFence (cid : CoreId) (b : Body) (s : State) : Out :=
  ctlOp 0x08 [] noChk (fun _ t => t.holdOn (coreKey cid) .fence) cid b s
def execFenceS (cid : CoreId) (b : Body) (s : State) : Out :=
  ctlOp 0x09 [] noChk (fun _ t => t.holdOn (coreKey cid) .fenceS) cid b s
def execIcinv (cid : CoreId) (b : Body) (s : State) : Out :=
  ctlOp 0x0A [] noChk (fun _ t => t.holdOn (coreKey cid) .icinv) cid b s

/-- The program of the core ends; on a control core the firmware's ctx.enter returns reason 1 (R136, R150). -/
def State.halt (s : State) (k : Nat) : State :=
  if isCtl k && (s.core k).ctx.val != 0 then s.ccReturn k 1 else s.modCore k fun c => { c with run := .halted }
def execHalt (cid : CoreId) (b : Body) (s : State) : Out :=
  ctlOp 0x0C [] noChk (fun _ t => t.halt (coreKey cid)) cid b s
def execTime (cid : CoreId) (b : Body) (s : State) : Out :=
  let k := coreKey cid
  ctlOp 0x10 [0] noChk (fun _ t => t.wr k .i b 0 (BitVec.ofNat 64 t.time)) cid b s

/-- CORE_PMC_CYC of the cores of a die: the ACLK cycles that its clock has made (R635). -/
def State.cyc (s : State) (k : Nat) : Word := BitVec.ofNat 64 (tget 0 s.dieCyc k / 2000)

/-- The counter value that pmc.rd returns (R638). -/
def State.pmcRead (s : State) (k imm : Nat) : Word :=
  if isCtl k then (if imm = 0 then BitVec.ofNat 64 (s.cclk5 / 5) else 0)
  else
    let d := keyDie k
    let c := keyCl k
    let q := keyQ k
    if imm = 0 then s.cyc d
    else
      let sel := CORE_PMC_SEL.off d c q (imm - 1)
      if s.bit sel CORE_PMC_SEL.CTXF && s.fld sel CORE_PMC_SEL.CTX == (s.core k).ctx.val then
        BitVec.ofNat 64 (s.fld (CORE_PMC_CNT.off d c q (imm - 1)) CORE_PMC_CNT.COUNT)
      else 0

def execPmcRd (cid : CoreId) (b : Body) (s : State) : Out :=
  let k := coreKey cid
  let imm := bf b 0 32
  .next (dispatchSeq cid ⟨0x4, 0x11, .i, [0]⟩ b
    (fun t => (t.core k).ctx.val != 0 && !t.bit (CTX_PERM.off (t.core k).ctx.val) CTX_PERM.PMC_USER)
    (fun _ => if 8 < imm then some (.illegalOperand, 0) else none)
    (fun _ t => t.wr k .i b 0 (t.pmcRead k imm)) s)

/-! Host event records from a program (R493, R494, R677). -/

/-- The tier is a scratchpad or a cluster memory. -/
def isLocalSram (a : Nat) : Bool :=
  match tierOf a with
  | .cluster _ _ => true
  | .scratch _ _ _ => true
  | _ => false

/-- The fault of a 64-byte record or descriptor address (R143, R677). -/
def State.recordFault (s : State) (n a : Nat) : Option (FaultCode × Nat) :=
  if a % 64 ≠ 0 then some (.alignment, a)
  else if 2 ^ 48 ≤ a ∨ s.unbacked a = true then some (.address, a)
  else if isLocalSram a && s.reaches n a 64 false && s.limitsOk n a 64 false then none
  else some (.access, a)

/-- The words of a USER record made from a posted record: TYPE 1, INFO and words 2 to 7 as posted, the context and the time of the
event (R493, R494). -/
def State.userRecord (s : State) (n : Nat) (ws : List Word) : List Word :=
  [evWord0 0x01 ((recWord ws 0).fld 16 16) (some n), BitVec.ofNat 64 s.time] ++ (ws.drop 2).take 6

/-- A record from hostev or hostev.f waits at a function's event queue; with EN = 0 it completes without effect (R493). -/
def State.postUser (s : State) (p f : Nat) (w : List Word) : State :=
  if s.bit (HST_EQ_CFG.off p f) HST_EQ_CFG.EN then s.modEvq p f fun q => { q with waiting := q.waiting ++ [(true, w)] } else s

/-- The fault of the posting of a record: that of its address, else MEMORY_ERROR when it is read poisoned (R151, R152, R241, R677). -/
def State.postChk (s : State) (k a : Nat) : Option (FaultCode × Nat) :=
  match s.recordFault (s.core k).ctx.val a with
  | some f => some f
  | none => if s.poisoned a 64 then some (.memoryError, a) else none

/-- The error record that a poisoned record to be posted opens at dispatch (R241). -/
def State.postRead (s : State) (k : Nat) (i : Ins) (b : Body) (a : Nat) : State :=
  match s.postChk k a with
  | some (.memoryError, _) => if s.passes k i b then s.poisonRecord a (some (s.core k).ctx) else s
  | _ => s

/-- The record at an address posted to a function. -/
def State.hostEvent (s : State) (k a : Nat) (fn : Option (Nat × Nat)) : State :=
  match fn with
  | some (p, f) => s.postUser p f (s.userRecord (s.core k).ctx.val (bytesToWords 8 (s.readBytes a 64)))
  | none => s

/-- A scalar store of the core to the host window of a port is outstanding: a record waits for it (R482). -/
def State.portBusy (s : State) (k p : Nat) : Bool :=
  (s.core k).flights.any fun f => match f.op with | .store _ => f.remote.isNone && tierOf f.addr == .hostWin p | _ => false

def execHostev (cid : CoreId) (b : Body) (s : State) : Out :=
  let k := coreKey cid
  let c := s.ctx (s.core k).ctx.val
  if c.bound && s.portBusy k c.port then .next s else
  ctlOp 0x12 [1] (fun t => t.postChk k (t.rs k .i b 1).toNat)
    (fun _ t =>
      let c := t.ctx (t.core k).ctx.val
      t.hostEvent k (t.rs k .i b 1).toNat (if c.bound then some (c.port, c.slot) else none)) cid b
    (s.postRead k ⟨0x4, 0x12, .i, [1]⟩ b (s.rs k .i b 1).toNat)

/-- yield: back to the firmware's ctx.enter with reason 0; firmware itself goes on (R150). -/
def execYield (cid : CoreId) (b : Body) (s : State) : Out :=
  let k := coreKey cid
  ctlOp 0x13 [] noChk (fun _ t => if (t.core k).ctx.val = 0 then t else t.ccReturn k 0) cid b s

/-! Events and barriers (class 0x5). -/

/-- An instruction of class 0x5. -/
def evOp (op : Nat) (used : List Nat) (chk : Option (FaultCode × Nat)) (eff : Nat → State → State) (cid : CoreId) (b : Body)
    (s : State) : Out :=
  .next (dispatchSeq cid ⟨0x5, op, .e, used⟩ b noPriv (fun _ => chk) eff s)

/-- N of an E word. -/
def evN (b : Body) : Nat := bf b 0 16

def execEvAdd (cid : CoreId) (b : Body) (s : State) : Out :=
  evOp 0x00 [0] (if evN b = 0 ∨ 255 < evN b then some (.illegalOperand, 0) else none)
    (fun pc t => t.evAdd (coreKey cid) (opnd .e b 0) (evN b) 0x5 0x00 pc 0) cid b s
def execEvSet (cid : CoreId) (b : Body) (s : State) : Out :=
  evOp 0x01 [0] none (fun _ t => t.modCore (coreKey cid) fun c => { c with ev := tset c.ev (opnd .e b 0) (evN b) }) cid b s
def execEvWait (cid : CoreId) (b : Body) (s : State) : Out :=
  evOp 0x02 [0] none (fun _ t => t.holdOn (coreKey cid) (.ev (opnd .e b 0) (evN b))) cid b s
def execEvWaitr (cid : CoreId) (b : Body) (s : State) : Out :=
  let k := coreKey cid
  evOp 0x03 [0, 1] none (fun _ t => t.holdOn k (.ev (opnd .e b 0) ((t.rs k .e b 1).toNat % 65536))) cid b s
def execEvRead (cid : CoreId) (b : Body) (s : State) : Out :=
  let k := coreKey cid
  evOp 0x04 [0, 1] none (fun _ t => t.wr k .e b 1 (BitVec.ofNat 64 ((t.core k).event (opnd .e b 0)))) cid b s
def execBarCl (cid : CoreId) (b : Body) (s : State) : Out :=
  evOp 0x08 [] none (fun _ t => t.modCore (coreKey cid) fun c => { c with hold := .barCl }) cid b s
def execBarGrp (cid : CoreId) (b : Body) (s : State) : Out :=
  evOp 0x09 [] none (fun _ t => t.modCore (coreKey cid) fun c => { c with hold := .barGrp }) cid b s

/-! Scalar memory and semaphores (classes 0x7 and 0x6): dispatch. -/

/-- The package's own ID (R33). -/
def State.self (s : State) : Nat := s.fld ROUTE_DIMS.off ROUTE_DIMS.SELF

/-- Where an address leads: another package (R33), this one (R34), or nowhere. -/
inductive Dest where
  | bad
  | here (a : Nat)
  | away (pkg : PkgId) (a : Nat)
deriving DecidableEq, Repr

/-- A 64-bit address resolved; `g` marks it global (R33, R34, R138). -/
def State.resolve (s : State) (g : Bool) (w : Nat) : Dest :=
  let a := bits w 0 48
  if g then
    (if bits w 63 1 = 1 then .bad else if bits w 48 15 = s.self then .here a else .away (BitVec.ofNat 15 (bits w 48 15)) a)
  else if bits w 48 16 = 0 then .here a else .bad

/-- The offset of a context's own CTX_ block covers a CSR offset (R140). -/
def ownBlock (n off : Nat) : Bool := decide (0x20000 + n * 0x1000 ≤ off) && decide (off < 0x20000 + (n + 1) * 0x1000)

/-- The fault of a scalar access at dispatch (R5, R7, R31, R33, R138, R140, R147). (log 32, DEDUCED) -/
def State.scalarFault (s : State) (n : Nat) (g : Bool) (w size : Nat) (wr : Bool) : Option (FaultCode × Nat) :=
  if bits w 0 48 % size ≠ 0 then some (.alignment, w)
  else match s.resolve g w with
    | .bad => some (.address, w)
    | .away _ _ => none
    | .here a =>
      if tierOf a = .csr then
        (if (n = 0 ∨ ownBlock n (a - csrBase) = true) ∧ 4 ≤ size then none else some (.access, w))
      else (s.localFault n a size wr).map fun c => (c, w)

/-- A semaphore word may lie at a local address: cluster memory, the near tier or HBM (R97). -/
def semTier (a : Nat) : Bool :=
  match tierOf a with
  | .cluster _ _ => true
  | .near => true
  | .hbm => true
  | _ => false

/-- The fault of a semaphore operation at dispatch: a word that is not aligned, else one outside the three tiers, an address that leads
nowhere included, else that of a local access (R97, R138, R147, R269, R674). (log 32, DEDUCED) -/
def State.semFault (s : State) (n : Nat) (g : Bool) (w : Nat) (wr : Bool) : Option (FaultCode × Nat) :=
  if w % 8 ≠ 0 then some (.alignment, w)
  else match s.resolve g w with
    | .here a => if semTier a then (s.localFault n a 8 wr).map fun c => (c, w) else some (.illegalOperand, w)
    | .away _ a => if semTier a then none else some (.illegalOperand, w)
    | .bad => some (.illegalOperand, w)

/-- An access joins the core's accesses in flight; one for another package is handed to the fabric as well. -/
def State.launchFlight (s : State) (k : Nat) (g : Bool) (w : Nat) (op : FlightOp) (rd : Option Nat) (val cmp : Word)
    (ev : Option Nat) (pc cls opc : Nat) : State :=
  let c := s.core k
  let (pkg, a) := match s.resolve g w with
    | .away p a => (some p, a)
    | .here a => (none, a)
    | .bad => (none, bits w 0 48)
  let f : Flight := ⟨c.nextFid, op, .issued, rd, pkg, a, w, val, cmp, ev, pc, cls, opc, 0, false, false, c.nextOrd⟩
  let s1 := s.modCore k fun c => { c with flights := c.flights ++ [f], nextFid := c.nextFid + 1,
                                          pend := match rd with | some r => c.pend ++ [r] | none => c.pend }
  match pkg with
  | none => s1
  | some p =>
    let ref := ReqRef.flight k c.nextFid
    let req : Option Req := match op with
      | .load z _ => some ⟨.read, p, a, z, [], [], c.ctx, false, ref⟩
      | .store z => some ⟨.write, p, a, z, leBytes z val.toNat, [], c.ctx, false, ref⟩
      | .semAdd => some ⟨.atomic 0, p, a, 8, leBytes 8 val.toNat, [], c.ctx, false, ref⟩
      | .semCas => some ⟨.atomic 1, p, a, 8, leBytes 8 val.toNat ++ leBytes 8 cmp.toNat, [], c.ctx, false, ref⟩
      | .semWait => some ⟨.atomic 2, p, a, 8, leBytes 8 val.toNat, [], c.ctx, false, ref⟩
      | _ => none
    { s1 with newReqs := s1.newReqs ++ req.toList }

/-- The DET 0x13 record of a CSR access of a bad size or alignment by a core (R7, R140). SEV says that the context is affected, and
DETAIL is the local address in CSR space. (log 62, DESIGN CHOICE) -/
def State.badCsrRecord (s : State) (k cls op a : Nat) : State :=
  (s.openRecord (mkDet 0x13 (s.unitOf k engSeq) (some (s.core k).ctx) 2 3 1 cls op 0 (BitVec.ofNat 64 a)) false).1

/-- The address in CSR space of an access whose size or alignment R5 does not allow, if the address leads there (R7). -/
def State.badCsr (s : State) (g : Bool) (w size : Nat) : Option Nat :=
  match s.resolve g w with
  | .here a => if tierOf a == .csr && (decide (size < 4) || a % size != 0) then some a else none
  | _ => none

/-- A CSR access of a core that an armed injection makes a misaligned one, with its address (R562). -/
def State.injCsr (s : State) (k : Nat) (g : Bool) (w : Nat) : Option Nat :=
  match s.resolve g w with
  | .here a => if tierOf a == .csr && s.armed 0x13 (s.unitOf k engSeq) then some a else none
  | _ => none

/-- The address of a scalar access (R138). -/
def State.memAddr (s : State) (k : Nat) (b : Body) : Nat := (s.rs k .i b 1 + immW b).toNat

/-- A scalar access of class 0x7. -/
def memOp (opc size : Nat) (op : FlightOp) (isLoad : Bool) (cid : CoreId) (b : Body) (s : State) : Out :=
  let k := coreKey cid
  let g := gBit .i b
  let inj := s.injCsr k g (s.memAddr k b)
  let s0 := match s.badCsr g (s.memAddr k b) size <|> inj with
    | some a => if s.passes k ⟨0x7, opc, .i, [0, 1]⟩ b then s.badCsrRecord k 0x7 opc a else s
    | none => s
  .next (dispatchSeq cid ⟨0x7, opc, .i, [0, 1]⟩ b noPriv
    (fun t => if inj.isSome then some (.alignment, t.memAddr k b) else t.scalarFault (t.core k).ctx.val g (t.memAddr k b) size (!isLoad))
    (fun pc t =>
      let d := opnd .i b 0
      t.launchFlight k g (t.memAddr k b) op (if isLoad then some d else none) (if isLoad then 0 else t.rs k .i b 0) 0 none pc 0x7
        opc) s0)

def execLdU8 := memOp 0x00 1 (.load 1 false) true
def execLdU16 := memOp 0x01 2 (.load 2 false) true
def execLdU32 := memOp 0x02 4 (.load 4 false) true
def execLdU64 := memOp 0x03 8 (.load 8 false) true
def execLdS8 := memOp 0x04 1 (.load 1 true) true
def execLdS16 := memOp 0x05 2 (.load 2 true) true
def execLdS32 := memOp 0x06 4 (.load 4 true) true
def execSt8 := memOp 0x08 1 (.store 1) false
def execSt16 := memOp 0x09 2 (.store 2) false
def execSt32 := memOp 0x0A 4 (.store 4) false
def execSt64 := memOp 0x0B 8 (.store 8) false

/-- A semaphore of class 0x6. -/
def semOp (opc : Nat) (used : List Nat) (op : FlightOp) (wr hold : Bool) (cid : CoreId) (b : Body) (s : State) : Out :=
  let k := coreKey cid
  let g := gBit .s b
  let rd := if used.contains 0 then some (opnd .s b 0) else none
  let ev := match evField .s b with | some (true, e) => some e | _ => none
  .next (dispatchSeq cid ⟨0x6, opc, .s, used⟩ b noPriv
    (fun t => t.semFault (t.core k).ctx.val g (t.rs k .s b 1).toNat wr)
    (fun pc t =>
      let fid := (t.core k).nextFid
      let t1 := t.launchFlight k g (t.rs k .s b 1).toNat op rd (t.rs k .s b 2)
        (if used.contains 3 then t.rs k .s b 3 else 0) ev pc 0x6 opc
      if hold && ev.isNone then t1.modCore k fun c => { c with hold := .sem fid } else t1) s)

def execSemAdd := semOp 0x00 [0, 1, 2] .semAdd true false
def execSemCas := semOp 0x01 [0, 1, 2, 3] .semCas true false
def execSemWait := semOp 0x02 [1, 2] .semWait false true

/-! Privileged forms (class 0xE). -/

/-- The event to which a word with EVE = 1 adds (R121). -/
def eveOf (fm : IFmt) (b : Body) : Option Nat :=
  match evField fm b with
  | some (true, e) => some e
  | _ => none

/-- An instruction of class 0xE (R149). The increment of EVE is added when it completes (R93). -/
def privOp (op : Nat) (used : List Nat) (chk : State → Option (FaultCode × Nat)) (eff : Nat → State → State) (cid : CoreId)
    (b : Body) (s : State) : Out :=
  .next (dispatchSeq cid ⟨0xE, op, .s, used⟩ b (notFirmware cid) chk eff s)

/-- hatch: begins the hatch of a context with reason 1; the instruction stays in flight until the hatch completes. -/
def execHatch (cid : CoreId) (b : Body) (s : State) : Out :=
  let k := coreKey cid
  privOp 0x00 [1] (fun t => if (t.rs k .s b 1).toNat % 64 = 0 then some (.illegalOperand, 0) else none)
    (fun pc t =>
      let n := (t.rs k .s b 1).toNat % 64
      let fid := (t.core k).nextFid
      let ev := eveOf .s b
      let t1 := t.modCore k fun c =>
        { c with flights := c.flights ++ [⟨fid, .hatch, .issued, none, none, 0, 0, 0, 0, ev, pc, 0xE, 0x00, 0, false, false, c.nextOrd⟩],
                 nextFid := fid + 1 }
      t1.startHatch n 1 (t1.unitOf k engSeq) (some (k, fid, ev)) none false false) cid b s

def execHostevF (cid : CoreId) (b : Body) (s : State) : Out :=
  let k := coreKey cid
  if s.portBusy k ((s.rs k .s b 2).fld 8 1) then .next s else
  let s0 := if notFirmware cid s then s else s.postRead k ⟨0xE, 0x01, .s, [1, 2]⟩ b (s.rs k .s b 1).toNat
  privOp 0x01 [1, 2] (fun t => t.postChk k (t.rs k .s b 1).toNat)
    (fun pc t =>
      let w := t.rs k .s b 2
      (t.hostEvent k (t.rs k .s b 1).toNat (some (w.fld 8 1, w.fld 0 5))).instrEv k .s b 0xE 0x01 pc
        (t.rs k .s b 1).toNat) cid b s0

/-- wdb: waits for a notice and returns its code (R149, R487). -/
def execWdb (cid : CoreId) (b : Body) (s : State) : Out :=
  let k := coreKey cid
  privOp 0x02 [0] noChk
    (fun _ t =>
      let rd := opnd .s b 0
      (t.modCore k fun c => { c with hold := .wdb rd (eveOf .s b), pend := c.pend ++ [rd] }).giveNotice) cid b s

/-- ctx.enter: the control core takes the register set of the named context and runs it; `eve` is the event of the instruction
(R93, R150). A context that is FAULTED stays stopped (R154). The entry takes the low 48 bits of `b` that make up a PC (log 67, DESIGN
CHOICE). (log 33, DEDUCED) -/
def State.enterCtx (s : State) (k rd n pc limit : Nat) (eve : Option Nat) : State :=
  let c := s.core k
  let i := k - 0x1000
  let x := tget Core.reset s.ccRegs (i * 64 + n)
  if n = 0 ∨ (pc = 0 ∧ x.run = .halted) ∨ (s.ctx n).st = .faulted then (s.modCore k fun c => c.setReg rd 2).fwEvent k eve 0x03
  else
    let s1 := { s with ccRegs := tset s.ccRegs (i * 64) { c with hold := .ctxEnter (Fin.ofNat 64 n) rd eve, pend := c.pend ++ [rd] } }
    s1.swapSet k { x with
      ctx := Fin.ofNat 64 n, run := .running, started := s.time, limit := limit, hold := if pc = 0 then x.hold else .none,
      ir := if pc = 0 then x.ir else none, pc := if pc = 0 then x.pc else BitVec.ofNat 48 pc }

def execCtxEnter (cid : CoreId) (b : Body) (s : State) : Out :=
  let k := coreKey cid
  privOp 0x03 [0, 1, 2, 3] noChk
    (fun _ t =>
      t.enterCtx k (opnd .s b 0) ((t.rs k .s b 1).toNat % 64) (t.rs k .s b 2).toNat (t.rs k .s b 3).toNat (eveOf .s b)) cid b s

end Sys2Proof.Machine
end

