-- ==== Sys2Proof/Machine/Tile.lean ====
section
/-! DEFINITION. The transom scoreboard (03_cores_clusters_branches.md R88 to R90), faults of an engine at the head of its queue
(04_instruction_set.md R153), and the tile moves (R142). -/

namespace Sys2Proof.Machine

/-! Tile groups of an instruction (R146, R161, R192, R232). -/

/-- `n` tiles from tile `t`. -/
def group (t n : Nat) : List Nat := (List.range n).map (t + ·)
/-- The smallest power of two not below `n`. -/
def pow2Up (n : Nat) : Nat := if n ≤ 1 then 1 else 2 ^ (Nat.log2 (n - 1) + 1)
/-- A group of `n` tiles from `t` that R146 permits. -/
def groupOk (t n : Nat) : Bool := t % pow2Up n == 0 && decide (t + n ≤ 128)

/-- GN of a vector instruction: the number of tiles (R232). -/
def gnOf (b : Body) : Nat := 2 ^ (modOf b / 256)
/-- BR of a vector instruction (R198, R232). -/
def brOf (b : Body) : Nat := modOf b / 64 % 4
/-- M of an mmx: instruction rows (R192). -/
def mRows (b : Body) : Nat := 32 * 2 ^ (modOf b / 64 % 4)
/-- Tiles of a source other than TA under BR (R198). -/
def srcGroup (br t n : Nat) : List Nat := if br = 0 then group t n else [t]

/-- The tiles of a streamed transom operand: w × M / 32 (R161, R193). -/
def streamTiles (b : Body) : Nat := typeBits (modOf b % 16) / 8 * (mRows b / 32)

/-- The destination tiles of an mmx on a bank of arrangement `pk` (R173, R193). -/
def mmxDest (pk : Nat) (b : Body) : List Nat := group (bf b 40 7) ((if pk = 0 then 4 else if pk = 1 then 8 else 16) * (mRows b / 32))

/-- The tiles that an entry reads and writes. The arrangement of the matrix bank in use is `pk`. -/
def QEntry.tiles (e : QEntry) (pk : Nat) : List Nat × List Nat :=
  let b := e.body
  let td := bf b 40 7
  let ta := bf b 33 7
  let tb := bf b 26 7
  let tc := bf b 19 7
  let n := gnOf b
  let m := modOf b
  let w := 32 / typeBits (m / 16 % 16)
  if e.null then ([], [])
  else match e.cls with
  | 0x8 => match e.op with
    | 0x00 => ([], [td])
    | 0x01 => ([td], [])
    | 0x02 => ([ta], [td])
    | 0x03 => ([], [td])
    | _ => ([], [])
  | 0xA =>
    let pre := m / 16 % 4
    let d := mmxDest pk b
    let res := if pre = 2 then group tb (4 * (mRows b / 32)) else if pre = 3 then d else []
    match e.op with
    | 0x01 => (group ta (streamTiles b) ++ res, d)
    | 0x02 => (group ta (streamTiles b) ++ res, d)
    | 0x03 => (res, d)
    | 0x04 => (res, d)
    | 0x05 => ([ta], [])
    | 0x07 => ([td], [])
    | 0x08 => ([], [td])
    | _ => ([], [])
  | 0xB => match e.op with
    | 0x03 => (group ta n ++ srcGroup (brOf b) tb n ++ srcGroup (brOf b) tc n, group td n)
    | 0x06 => (group ta n, group td n)
    | 0x07 => (group ta n, group td n)
    | 0x08 => (group ta n ++ srcGroup (brOf b) tb n ++ srcGroup (brOf b) tc n, group td n)
    | 0x0A => (group ta n, group td n)
    | 0x0B => (group ta n, group td n)
    | 0x0C => ([], group td n)
    | 0x0D => ([ta], [td])
    | _ => (group ta n ++ srcGroup (brOf b) tb n, group td n)
  | 0xC => match e.op with
    | 0x00 =>
      let d := if m / 8 % 4 = 1 then group td n else [td]
      (group ta n ++ (if m / 2 % 2 = 1 then group tb n else []) ++ (if m / 4 % 2 = 1 then d else []), d)
    | 0x01 => (group ta n, group td n)
    | 0x02 => (group ta n ++ (if m / 2 % 2 = 1 then group tb n else []), group td n)
    | 0x03 => (group ta n ++ (if m / 2 % 2 = 1 then group tb n else []), group td n)
    | 0x04 => (group ta n, group td (n / w))
    | 0x05 => (group ta (n / w), group td n)
    | 0x06 => (group ta (if m / 16 % 16 = 7 then 8 else 4), [td, tb])
    | 0x07 => (group ta n ++ [tb], group td n)
    | 0x08 => (group td n, [])
    | _ => ([], [])
  | _ => ([], [])

/-- The arrangement of the bank that the last mst to start has filled. -/
def Core.bankPk (c : Core) : Nat := (tget Bank.empty c.mx.banks c.mx.cur).mod / 256

/-- The arrangement of the bank that an mmx dispatched as `seq` uses: that of the last mst before it in queue order, null entries apart
(R162, R172). -/
def Core.pkAt (c : Core) (seq : Nat) : Nat :=
  match (c.mq.filter fun e => e.cls == 0xA && e.op == 0x00 && !e.null && decide (e.seq < seq)).getLast? with
  | some e => modOf e.body / 256
  | none => c.bankPk

/-- The tiles that a matrix instruction under way still reads, `done` having landed: the streamed tiles and a residual of other tiles until it
completes, the destination tiles that it reads as its preload until each lands (R177). -/
def QEntry.mmxReads (e : QEntry) (pk : Nat) (done : List Nat) : List Nat :=
  let b := e.body
  let pre := modOf b / 16 % 4
  let tb := bf b 26 7
  let own := pre == 3 || (pre == 2 && tb == bf b 40 7)
  (if e.op = 0x01 ∨ e.op = 0x02 then group (bf b 33 7) (streamTiles b) else []) ++
    (if own then (mmxDest pk b).filter fun t => !done.contains t
     else if pre == 2 then group tb (4 * (mRows b / 32)) else [])

/-- The outstanding reads and writes of the instructions dispatched before `seq` (R89). -/
def Core.outstanding (c : Core) (seq : Nat) : List Nat × List Nat :=
  let q := (c.mq ++ c.vq ++ c.lq).filter fun e => e.seq < seq
  let queued := q.map fun e => e.tiles (c.pkAt e.seq)
  let mx := ((c.mx.landing ++ c.mx.run.toList).filter fun r => decide (r.entry.seq < seq)).map fun r =>
    let pk := (tget Bank.empty c.mx.banks r.bank).mod / 256
    (r.entry.mmxReads pk r.doneTiles, (mmxDest pk r.entry.body).filter fun t => !(r.doneTiles.contains t))
  let vx := ((c.vx.landing ++ c.vx.run.toList).filter fun r => decide (r.entry.seq < seq)).map fun r =>
    if r.unread then r.entry.tiles 0 else ([], r.out.map (·.1))
  let ls := match c.lrun with
    | some r => if r.entry.seq < seq then [([], r.tile.toList.map (·.1))] else []
    | none => []
  let all := queued ++ mx ++ vx ++ ls
  (all.flatMap (·.1), all.flatMap (·.2))

/-- Every earlier write to the tiles has landed (R89). -/
def Core.canRead (c : Core) (seq : Nat) (ts : List Nat) : Bool :=
  let w := (c.outstanding seq).2
  ts.all fun t => !w.contains t

/-- Every earlier read of the tiles has completed and every earlier write has landed (R89). -/
def Core.canWrite (c : Core) (seq : Nat) (ts : List Nat) : Bool :=
  let (r, w) := c.outstanding seq
  ts.all fun t => !w.contains t && !r.contains t

/-- The entry at the head of a queue leaves it. -/
def State.popQueue (s : State) (key : Nat) (e : Engine) : State := s.modCore key fun c => c.setQueue e ((c.queue e).drop 1)

/-- The scalar destination of an engine instruction, if it has one (R127). -/
def QEntry.dest (e : QEntry) : Option Nat :=
  if e.null then none
  else if e.cls = 0x9 ∧ e.op ≠ 0x01 then some (bf e.body 41 6)
  else if e.cls = 0xA ∧ e.op = 0x07 then some (bf e.body 34 6)
  else if e.cls = 0xD ∧ (e.op = 0x03 ∨ e.op = 0x04) then some (bf e.body 34 6)
  else none

/-- The format of an engine instruction's word: S for streams, else T or TS, whose event fields agree. -/
def QEntry.fmt (e : QEntry) : IFmt := if e.cls = 0x9 then .s else .ts

/-- The event code of R642 that the completion of an instruction of a class counts. -/
def doneCode (cls : Nat) : Nat :=
  if cls = 0x8 then 0x030 else if cls = 0xA then 0x013 else if cls = 0xB ∨ cls = 0xC then 0x020 else 0

/-- An engine instruction has completed: it is counted, its increment is added, and a fence that waits for it is tested (R93, R128, R148,
R642). -/
def State.complete (s : State) (key : Nat) (e : QEntry) (addr : Nat) : State :=
  ((s.pmcOwn key (doneCode e.cls) (b2n (doneCode e.cls != 0))).instrEv key e.fmt e.body e.cls e.op e.pc addr).settle key

/-- A fault found by an engine: the instruction and every later entry of its queue are discarded, their scalar destinations released,
no event is added (R153). `e` is the faulting instruction, no longer in the queue. -/
def State.engFault (s : State) (key : Nat) (eng : Engine) (e : QEntry) (code : FaultCode) (addr : Nat) : State :=
  let n := match eng with | .mx => engMx | .vx => engVx | .ls => engLs
  let s1 := s.coreFault key n code e.cls e.op e.pc addr
  s1.modCore key fun c =>
    let gone := e :: c.queue eng
    ({ c.setQueue eng [] with pend := c.pend.filter fun r => !(gone.any fun g => g.dest == some r) }).settle

/-! Tile moves (R142). -/

/-- The first byte of the ranges that lies outside the core's own scratchpad. -/
def outsideScratch (key : Nat) (rs : List (Nat × Nat)) : Option Nat :=
  let lo := scratchOf key
  let hi := lo + 0x200000
  rs.findSome? fun (a, n) => if n = 0 then none else if a < lo ∨ hi ≤ a then some a else if hi < a + n then some hi else none

/-- Addresses that are all multiples of 64, else an alignment fault at the first that is not; then every byte inside the
scratchpad, else an access fault. -/
def scratchChk (key : Nat) (aligned : List Nat) (rs : List (Nat × Nat)) : Option (FaultCode × Nat) :=
  match aligned.find? fun a => a % 64 != 0 with
  | some a => some (.alignment, a)
  | none => (outsideScratch key rs).map fun a => (.access, a)

/-- Row addresses `a + r × b`, modulo 2^64. -/
def rowAddrs (a b : Word) (n : Nat) : List Nat := (List.range n).map fun r => (a + BitVec.ofNat 64 r * b).toNat

/-- MOD is 0, as an instruction without MOD fields requires (R672). -/
def modZero (b : Body) : Bool := modOf b == 0

/-- A tile move of class 0x8. -/
def tileOp (op : Nat) (fm : IFmt) (used : List Nat) (chk : Nat → QEntry → Option (FaultCode × Nat)) (cid : CoreId) (b : Body)
    (s : State) : Out :=
  .next (dispatchEng cid .ls ⟨0x8, op, fm, used⟩ b (modZero b) noPriv (fun q _ => chk (coreKey cid) q) none s)

def rowsChk (key : Nat) (q : QEntry) : Option (FaultCode × Nat) :=
  scratchChk key [q.a.toNat, q.b.toNat] ((rowAddrs q.a q.b 32).map fun a => (a, 128))
def execTld := tileOp 0x00 .ts [0, 1, 2] rowsChk
def execTst := tileOp 0x01 .ts [0, 1, 2] rowsChk
def execTmov := tileOp 0x02 .t [0, 1] fun _ _ => none
def execTzero := tileOp 0x03 .t [0] fun _ _ => none
def execSpcpy := tileOp 0x04 .ts [1, 2, 3] fun key q =>
  scratchChk key [q.a.toNat, q.b.toNat] [(q.a.toNat, q.c.toNat), (q.b.toNat, q.c.toNat)]

/-- The tile that 32 rows of 128 bytes spell. -/
def tileOfRows (rows : List (List Byte)) : Tile :=
  { Tile.zero with words := rows.flatMap fun r => (List.range 32).map fun e => BitVec.ofNat 32 (leNat ((r.drop (4 * e)).take 4)) }

/-- The 128 bytes of row `r` of a tile. -/
def Tile.row (t : Tile) (r : Nat) : List Byte := (List.range 32).flatMap fun e => leBytes 4 (t.at r e).toNat

/-- A tile move starts: its sources are read (R84, R89, R142, R244); poison raises MEMORY_ERROR (R241). -/
def State.startMove (s : State) (key : Nat) (q : QEntry) : State :=
  let c := s.core key
  let b := q.body
  let td := bf b 40 7
  let s1 := s.popQueue key .ls
  let run (s : State) (r : LsRun) : State := s.modCore key fun c => { c with lrun := some r }
  let badTile (t : Nat) : State := (s1.tileRecord key t q.cls q.op q.pc).engFault key .ls q .memoryError 0
  match q.op with
  | 0x00 =>
    let rows := rowAddrs q.a q.b 32
    let rs := rows.map fun a => (a, 128)
    match s.badIn rs with
    | some a => (s1.poisonRecord a (some c.ctx)).engFault key .ls q .memoryError a
    | none => run (s1.padServed key padLs rs) ⟨q, some (td, tileOfRows (rows.map fun a => s.readBytes a 128)), [], []⟩
  | 0x01 =>
    let t := c.tile td
    if t.poison.isEmpty then
      run (s1.tilesRead key (portLs false) [td]) ⟨q, none, (List.range 32).zipWith (fun r a => (a, t.row r)) (rowAddrs q.a q.b 32), []⟩
    else badTile td
  | 0x02 =>
    let t := c.tile (bf b 33 7)
    if t.poison.isEmpty then run (s1.tilesRead key (portLs false) [bf b 33 7]) ⟨q, some (td, t), [], []⟩ else badTile (bf b 33 7)
  | 0x03 => run s1 ⟨q, some (td, Tile.zero), [], []⟩
  | _ =>
    let n := q.c.toNat
    let bad := (List.range n).filter fun i => s.poisoned (q.b.toNat + i) 1
    let s2 := match s.badByte q.b.toNat n with
      | some a => s1.poisonRecord a (some c.ctx)
      | none => s1
    run (s2.padServed key padLs [(q.b.toNat, n)]) ⟨q, none, if n = 0 then [] else [(q.a.toNat, s.readBytes q.b.toNat n)], bad⟩

/-- The tile move of a core completes: its tile lands once the scoreboard permits, its scratchpad writes are performed, and its
increment is added (R89, R128). -/
def State.moveComplete (s : State) (key : Nat) : State :=
  let c := s.core key
  match c.lrun with
  | none => s
  | some r =>
    if c.canWrite r.entry.seq (r.tile.toList.map (·.1)) then
      let s1 := s.modCore key fun c =>
        let c1 := { c with lrun := none }
        match r.tile with | some (t, x) => c1.setTile t x | none => c1
      let s2 := r.bytes.foldl (fun s x => s.writeParts x.1 x.2 (r.poison.map fun i => (i, 1))) s1
      let s3 := (s2.tilesWritten key (portLs true) (r.tile.toList.map (·.1))).padServed key padLs (r.bytes.map fun x => (x.1, x.2.length))
      s3.complete key r.entry (if r.entry.op = 0x02 ∨ r.entry.op = 0x03 then 0 else r.entry.a.toNat)
    else s

def execTileMoveComplete (cid : CoreId) (s : State) : Out := .next (s.moveComplete (coreKey cid))

end Sys2Proof.Machine
end

