-- ==== Sys2Proof/Machine/Streams.lean ====
section
/-! DEFINITION. Streams: the stream instructions, the stream table, and the service of a stream from issue to its final state
(07_memory_tiers_streams.md R242 to R267, 04_instruction_set.md R143, R144, R671). -/

namespace Sys2Proof.Machine

/-! Descriptors (R250). -/

/-- Word `i` of a descriptor. -/
def dw (d : List Word) (i : Nat) : Word := d.getD i 0
/-- KIND: 1 COPY, 2 FILL, 3 GATHER, 4 SCATTER. -/
def dKind (d : List Word) : Nat := (dw d 0).fld 60 4
def dSG (d : List Word) : Bool := (dw d 0).flag 59
def dDG (d : List Word) : Bool := (dw d 0).flag 58
def dFence (d : List Word) : Bool := (dw d 0).flag 57
def dDepV (d : List Word) : Bool := (dw d 0).flag 56
def dDep (d : List Word) : Nat := (dw d 0).fld 40 16
def dEve (d : List Word) : Bool := (dw d 0).flag 39
def dEv (d : List Word) : Nat := (dw d 0).fld 31 8
def dEvInc (d : List Word) : Nat := (dw d 0).fld 23 8
def dFev (d : List Word) : Bool := (dw d 0).flag 22
def dLen (d : List Word) : Nat := (dw d 3).fld 0 32
def dCnt1 (d : List Word) : Nat := (dw d 3).fld 32 16
def dCnt2 (d : List Word) : Nat := (dw d 3).fld 48 16
def dS1 (d : List Word) : Int := sext ((dw d 4).fld 0 32) 32
def dS2 (d : List Word) : Int := sext ((dw d 4).fld 32 32) 32
def dD1 (d : List Word) : Int := sext ((dw d 5).fld 0 32) 32
def dD2 (d : List Word) : Int := sext ((dw d 5).fld 32 32) 32
def dTag (d : List Word) : Nat := (dw d 7).fld 0 32
/-- Rows of the whole transfer. -/
def dRows (d : List Word) : Nat := dCnt1 d * dCnt2 d

/-- A cause of R255 other than an endpoint. -/
def descBad (d : List Word) : Bool :=
  let k := dKind d
  (dw d 0).fld 0 22 != 0 || (dw d 7).fld 32 32 != 0 || k == 0 || decide (4 < k) ||
    dLen d == 0 || dCnt1 d == 0 || dCnt2 d == 0 || (decide (3 ≤ k) && dCnt2 d != 1) ||
    (dEve d && dEvInc d == 0) || (!dEve d && (dEv d != 0 || dEvInc d != 0 || dFev d))

/-- Lowest offset of `n` steps of a stride. -/
def lowOff (n : Nat) (st : Int) : Int := min 0 (((n : Int) - 1) * st)
/-- Highest offset of `n` steps of a stride. -/
def highOff (n : Nat) (st : Int) : Int := max 0 (((n : Int) - 1) * st)

/-- A local range from `lo` to `hi` fails R254 for a context. -/
def State.endpointBad (s : State) (n : Nat) (lo hi : Int) (wr : Bool) : Bool :=
  decide (lo < 0) || decide ((2 : Int) ^ 48 ≤ hi) || (s.localFault n lo.toNat (hi - lo + 1).toNat wr).isSome

/-- An endpoint of a descriptor with its strides fails at issue (R254, R255). -/
def State.endpointFault (s : State) (n : Nat) (g : Bool) (w : Word) (lo hi : Int) (wr : Bool) : Bool :=
  match s.resolve g w.toNat with
  | .bad => true
  | .away _ _ => false
  | .here a => s.endpointBad n ((a : Int) + lo) ((a : Int) + hi) wr

/-- The address that CTX_FAULT_ADDR holds when a descriptor at `da` is refused at issue (R255): the descriptor's own, or the first
failing endpoint in the order SRC, DST, IDX. The indexed side of a GATHER or SCATTER is checked row by row (R256, log 11, DESIGN CHOICE). -/
def State.descFault (s : State) (n : Nat) (d : List Word) (da : Nat) : Option Nat :=
  let k := dKind d
  let len : Int := dLen d
  let srcBad := k == 1 && s.endpointFault n (dSG d) (dw d 1) (lowOff (dCnt1 d) (dS1 d) + lowOff (dCnt2 d) (dS2 d))
      (highOff (dCnt1 d) (dS1 d) + highOff (dCnt2 d) (dS2 d) + len - 1) false ||
    k == 4 && s.endpointFault n (dSG d) (dw d 1) (lowOff (dCnt1 d) (dS1 d)) (highOff (dCnt1 d) (dS1 d) + len - 1) false ||
    k == 3 && s.resolve (dSG d) (dw d 1).toNat == .bad
  let dstBad := decide (k ≤ 2) && s.endpointFault n (dDG d) (dw d 2) (lowOff (dCnt1 d) (dD1 d) + lowOff (dCnt2 d) (dD2 d))
      (highOff (dCnt1 d) (dD1 d) + highOff (dCnt2 d) (dD2 d) + len - 1) true ||
    k == 3 && s.endpointFault n (dDG d) (dw d 2) (lowOff (dCnt1 d) (dD1 d)) (highOff (dCnt1 d) (dD1 d) + len - 1) true ||
    k == 4 && s.resolve (dDG d) (dw d 2).toNat == .bad
  let idx := (dw d 6).toNat
  let idxBad := decide (3 ≤ k) && (idx % 4 != 0 || decide (2 ^ 48 ≤ idx) || s.endpointBad n idx ((idx : Int) + 4 * dCnt1 d - 1) false)
  if descBad d then some da
  else if srcBad then some (dw d 1).toNat
  else if dstBad then some (dw d 2).toNat
  else if idxBad then some idx
  else none

/-- An endpoint is a global address of another package or a host window. -/
def State.isFar (s : State) (g : Bool) (w : Word) : Bool :=
  match s.resolve g w.toNat with
  | .away _ _ => true
  | .here a => (match tierOf a with | .hostWin _ => true | _ => false)
  | .bad => false

/-- An endpoint is in the scratchpads or the cluster memory of a cluster. -/
def State.isOwnCluster (s : State) (g : Bool) (w : Word) (k c : Nat) : Bool :=
  match s.resolve g w.toNat with
  | .here a => (match tierOf a with | .cluster k1 c1 => k1 == k && c1 == c | .scratch k1 c1 _ => k1 == k && c1 == c | _ => false)
  | _ => false

/-- The engine that runs a stream (R248). -/
def State.strmEngine (s : State) (key : Nat) (d : List Word) : StrmEng :=
  let fill := dKind d == 2
  let far := (!fill && s.isFar (dSG d) (dw d 1)) || s.isFar (dDG d) (dw d 2)
  if isCtl key then .h0 far
  else if far then .dieDma (keyDie key)
  else if (fill || s.isOwnCluster (dSG d) (dw d 1) (keyDie key) (keyCl key)) &&
      s.isOwnCluster (dDG d) (dw d 2) (keyDie key) (keyCl key) then .ls key
  else .clusterDma (keyDie key) (keyCl key)

/-- Active places of an engine (R248). -/
def StrmEng.places : StrmEng → Nat
  | .dieDma _ => 1024
  | .h0 true => 1024
  | .ls _ => 4
  | _ => 64

/-! The stream table (R258, R259, R264 to R266). -/

def State.strm? (s : State) (id : Nat) : Option Stream := tget? s.strms.entries id
def State.setStrm (s : State) (id : Nat) (x : Stream) : State :=
  { s with strms := { s.strms with entries := tset s.strms.entries id x } }

/-- The entry is in use: QUEUED or ACTIVE. -/
def Stream.inUse (x : Stream) : Bool := x.st == .queued || x.st == .active

/-- The entry of an ID is in use. -/
def State.idInUse (s : State) (id : Nat) : Bool := match s.strm? id with | some x => x.inUse | none => false

/-- The first ID that is not in use, from `id` upward, among `fuel` IDs (R258). -/
def State.searchId (s : State) : Nat → Nat → Option Nat
  | 0, _ => none
  | fuel + 1, id => if s.idInUse id then s.searchId fuel ((id + 1) % 65536) else some id

/-- The ID that the table assigns next (R258). -/
def State.freeId (s : State) : Option Nat :=
  match s.strms.last with
  | none => s.searchId 65536 0
  | some l => s.searchId 65536 ((l + 1) % 65536)

/-- The context has as many streams in use as its quota allows (R259, R265). -/
def State.quotaFull (s : State) (n : Nat) : Bool :=
  decide (s.fld (PKG_STRM_QUOTA.off n) PKG_STRM_QUOTA.QUOTA ≤ s.fld (CTX_STRM_USE.off n) CTX_STRM_USE.INUSE)

/-- INUSE of a context moved; a rise above PEAK raises PEAK with it (R266, R267). -/
def State.setUse (s : State) (n v : Nat) : State :=
  let o := CTX_STRM_USE.off n
  let s1 := s.setFld o CTX_STRM_USE.INUSE v
  if s.fld o CTX_STRM_USE.INUSE < v ∧ s1.fld o CTX_STRM_USE.PEAK < v then s1.setFld o CTX_STRM_USE.PEAK v else s1

/-- FENCE and DEP of a QUEUED stream are met (R249, R250, R257). -/
def State.strmReady (s : State) (x : Stream) : Bool :=
  x.dep.isNone && !x.depBad &&
    (!dFence x.desc || s.strms.entries.all fun e => !(e.2.inUse && e.2.core == x.core && e.2.ctx == x.ctx && e.2.ord < x.ord))

/-- The ACTIVE streams of an engine. -/
def State.activeOn (s : State) (e : StrmEng) : Nat := (s.strms.entries.filter fun x => x.2.st == .active && x.2.eng == e).length

/-- The QUEUED stream of an engine that is first for an active place: the earliest issued whose FENCE and DEP are met (R249). -/
def State.firstQueued (s : State) (e : StrmEng) : Option Nat :=
  (s.strms.entries.foldl (fun best x =>
    if x.2.st == .queued && x.2.eng == e && s.strmReady x.2 then
      match best with
      | some (o, i) => if o < x.2.ord then some (o, i) else some (x.2.ord, x.1)
      | none => some (x.2.ord, x.1)
    else best) none).map (·.2)

/-- A QUEUED stream takes a free active place when it is the one that it goes to (R249). -/
def State.tryActivate (s : State) (id : Nat) : State :=
  match s.strm? id with
  | some x =>
    if x.st == .queued && decide (s.activeOn x.eng < x.eng.places) && s.firstQueued x.eng == some id then
      s.setStrm id { x with st := .active }
    else s
  | none => s

/-- The error codes of R264. -/
def errAddress : Nat := 1
def errAccess : Nat := 2
def errPoison : Nat := 3
def errRemote : Nat := 4
def errPcie : Nat := 5
def errDep : Nat := 6

/-- A stream is entered under an ID (R249, R257, R258). An instruction that has waited for the entry is issued now: DEP is bound to the stream
that holds the named ID at the assignment. (log 12, DESIGN CHOICE) -/
def State.enterStrm (s : State) (id key : Nat) (ctx : CtxId) (d : List Word) (eng : StrmEng) (cmd : Option Nat) : State :=
  let dep : Option Nat × Bool :=
    if dDepV d then
      match s.strm? (dDep d) with
      | some y => if y.ctx != ctx || y.st == .done then (none, false) else if y.inUse then (some (dDep d), false) else (none, true)
      | none => (none, false)
    else (none, false)
  let x : Stream := ⟨.queued, ctx, key, eng, d, s.strms.nextOrd, dep.1, dep.2, 0, 0, none, false, 0, 0, false, [], 0, false, cmd, none, [], []⟩
  let s1 := s.setStrm id x
  let s2 := { s1 with strms := { s1.strms with last := some id, nextOrd := s.strms.nextOrd + 1 } }
  let s3 := s2.setUse ctx.val (s2.fld (CTX_STRM_USE.off ctx.val) CTX_STRM_USE.INUSE + 1)
  (s3.pmcEvent key 0x032 (b2n cmd.isNone) (some ctx.val)).tryActivate id

/-- The status word of an entry (R264). -/
def Stream.status (x : Stream) : Word :=
  let st := match x.st with | .queued => 1 | .active => 2 | .done => 3 | .cancelled => 4 | .failed => 5
  BitVec.ofNat 64 (put (dTag x.desc) 16 + put x.err 8 + st)

/-! Final states (R257, R260 to R263). -/

/-- The strm.cancel instructions that waited for a cancellation complete (R262, R671). -/
def State.cancelsDone (s : State) (l : List (Nat × Nat)) : State :=
  l.foldl (fun s x =>
    match s.flight x.1 x.2 with
    | some f =>
      let s1 := s.dropFlight x.1 x.2
      (match f.ev with | some e => s1.evAddSet x.1 (fidCtx x.2) e 1 0x9 0x01 f.pc 0 | none => s1).modSet x.1 (fidCtx x.2) Core.settle
    | none => s) s

/-- The unit that a fault of a running stream names: the engine that runs it, for the stream port of H0 the issuing control core (R24,
R156). -/
def State.strmUnit (s : State) (x : Stream) : UnitCode :=
  match x.eng with
  | .ls key => s.unitOf key engLs
  | .clusterDma k c => mkUnit k c 15 3 0xFFFF
  | .dieDma k => mkUnit k 15 0 3 0xFFFF
  | .h0 _ => s.unitOf x.core engSeq

/-- CLS, OP and PC of the fault of a stream that has been issued: the instruction has completed, and the fault names none. (log 69, DESIGN
CHOICE) -/
def strmFaultOf (ctx : CtxId) (addr : Nat) (u : UnitCode) (t : Nat) : FaultRec := ⟨ctx, .stream, 0, 0, 0, addr, u, t⟩

/-- A stream reaches a final state: its entry is free, INUSE falls, streams that depend on it go on or fail, its increment is sent,
a failure without FEV raises STREAM, a waiting strm.cancel completes, a COPY ends. -/
def State.strmEnd (s : State) (id : Nat) (x : Stream) (st : StrmSt) : State :=
  let y := { x with st := st, buf := none, cancelBy := [], outst := 0 }
  let s1 := s.setStrm id y
  let s2 := s1.setUse x.ctx.val (s1.fld (CTX_STRM_USE.off x.ctx.val) CTX_STRM_USE.INUSE - 1)
  let free (e : Nat × Stream) : Nat × Stream :=
    (e.1, if e.2.dep == some id then { e.2 with dep := none, depBad := st != .done } else e.2)
  let s3 := { s2 with strms := { s2.strms with entries := s2.strms.entries.map free } }
  let inc := dEve x.desc && (st == .done || dFev x.desc) && !s.hatching x.ctx.val
  let s4 := if inc then s3.sendInc ⟨x.core, x.ctx, dEv x.desc, dEvInc x.desc⟩ else s3
  let s5 := if st == .failed && !dFev x.desc then s4.addFault (strmFaultOf x.ctx x.failAddr (s4.strmUnit x) s4.time) else s4
  let s6 := (s5.pmcEvent x.core 0x033 (b2n (st == .done && x.cmd.isNone)) (some x.ctx.val)).cancelsDone x.cancelBy
  match x.cmd with
  | some c =>
    let code := if st == .cancelled then (if s.hatching x.ctx.val then 0x0A else 0x07) else 0
    (s6.endCmd c code (y.status.fld 0 32)).notice (BitVec.ofNat 64 (put 0x06 56 + id))
  | none => s6

/-- An error that ends an ACTIVE stream: no further piece starts, and it ends FAILED once nothing is outstanding (R256, R261). -/
def State.strmFail (s : State) (id : Nat) (x : Stream) (err addr : Nat) : State :=
  let y := if x.err = 0 ∨ x.err = errPoison then { x with err := err, failAddr := if x.bad then x.failAddr else addr } else x
  if y.outst = 0 then s.strmEnd id y .failed else s.setStrm id y

/-- Every row has been served. -/
def Stream.served (x : Stream) : Bool := decide (dRows x.desc ≤ x.row)

/-- Once the last write of an ACTIVE stream to host windows has been performed, a zero-length read follows it through each port (R260). -/
def State.strmFlush (s : State) (id : Nat) : State :=
  match s.strm? id with
  | some x =>
    if x.st == .active && x.served && x.outst == 0 && x.err == 0 && !x.cancel && !x.flushed && !x.ports.isEmpty then
      { s with hostOut := s.hostOut ++ x.ports.map HostOut.flush }.setStrm id { x with flushed := true, flushes := x.ports }
    else s
  | none => s

/-- The flush reads behind a stream's writes to host windows have returned (R260). -/
def Stream.drained (x : Stream) : Bool := x.ports.isEmpty || (x.flushed && x.flushes.isEmpty)

/-! The stream instructions (R143, R144, R671). -/

/-- The fault of the address of a descriptor (R143, R147). -/
def strmAddrChk (q : QEntry) (s : State) (n : Nat) : Option (FaultCode × Nat) := s.recordFault n q.a.toNat

/-- An instruction of class 0x9. Its one scalar source is field 1. -/
def strmOp (op : Nat) (used : List Nat) (chk : Nat → QEntry → State → Option (FaultCode × Nat)) (cid : CoreId) (b : Body)
    (s : State) : Out :=
  let k := coreKey cid
  .next (dispatchEng cid .ls ⟨0x9, op, .s, used⟩ b true noPriv (chk k) (if used.contains 0 then some (opnd .s b 0) else none) s)

def execStrmIssue := strmOp 0x00 [0, 1] fun k q s => s.recordFault (s.core k).ctx.val q.a.toNat
def execStrmCancel := strmOp 0x01 [1] fun _ _ _ => none
def execStrmStat := strmOp 0x02 [0, 1] fun _ _ _ => none

/-- The waiting strm.issue instructions that their quota does not hold back: unit code of the issuing sequencer or control core, core, and
register set (R259). -/
def State.waitingIssuers (s : State) : List (Nat × Nat × Nat) :=
  let ready (c : Core) : Bool := c.lwait.isSome && (match c.lq with | q :: _ => q.cls == 0x9 | [] => false) && !s.quotaFull c.ctx.val
  ((s.cores.filter fun x => ready x.2).map fun x => ((s.unitOf x.1 engSeq).toNat, x.1, x.2.ctx.val)) ++
    (s.ccRegs.filter fun x => ready x.2 && (s.core (0x1000 + x.1 / 64)).ctx.val != x.1 % 64).map fun x =>
      ((s.unitOf (0x1000 + x.1 / 64) engSeq).toNat, 0x1000 + x.1 / 64, x.1 % 64)

/-- The waiting issuer whose turn it is: the lowest unit code above the last winner's, else the lowest (R22, R259). -/
def State.nextIssuer (s : State) : Option (Nat × Nat × Nat) :=
  let l := s.waitingIssuers
  let least (l : List (Nat × Nat × Nat)) : Option (Nat × Nat × Nat) :=
    l.foldl (fun m x => match m with | some y => if y.1 ≤ x.1 then some y else some x | none => some x) none
  match s.strms.ptr with
  | some p => (match least (l.filter fun x => p < x.1) with | some x => some x | none => least l)
  | none => least l

/-- A strm.issue whose turn it is takes an ID and completes, and the pointer of the table stands behind its issuer; with no entry free or the
quota used up it waits at the head of its queue with its descriptor (R143, R259). -/
def State.assignStrm (s : State) (key : Nat) (q : QEntry) (d : List Word) : State :=
  let c := s.core key
  match s.freeId with
  | none => s.modCore key fun c => { c with lwait := some d }
  | some id =>
    if s.quotaFull c.ctx.val then s.modCore key fun c => { c with lwait := some d }
    else
      let s1 := (s.popQueue key .ls).modCore key fun c => { c with lwait := none }
      let s2 := ({ s1 with strms := { s1.strms with ptr := some (s1.unitOf key engSeq).toNat } } : State).enterStrm id key c.ctx d
        (s1.strmEngine key d) none
      (s2.writePend key (bf q.body 41 6) (BitVec.ofNat 64 id)).complete key q q.a.toNat

/-- strm.issue at the head of its queue: the descriptor is read and checked (R143, R153, R255). A free entry goes to an issuer that waits
already, ahead of a new one (R259). -/
def State.startIssue (s : State) (key : Nat) (q : QEntry) : State :=
  let n := (s.core key).ctx
  let a := q.a.toNat
  if s.poisoned a 64 then ((s.popQueue key .ls).poisonRecord a (some n)).engFault key .ls q .memoryError a
  else
    let d := bytesToWords 8 (s.readBytes a 64)
    match s.descFault n.val d a with
    | some fa => (s.popQueue key .ls).engFault key .ls q .stream fa
    | none => if s.waitingIssuers.isEmpty then s.assignStrm key q d else s.modCore key fun c => { c with lwait := some d }

/-- strm.cancel: a QUEUED stream is CANCELLED at once; an ACTIVE one starts no further piece and the instruction completes with the
cancellation; a stream of another context, or one whose last write has been performed, is left alone (R144, R262, R263). -/
def State.startCancel (s : State) (key : Nat) (q : QEntry) : State :=
  let s0 := s.popQueue key .ls
  let c := s.core key
  let id := q.a.toNat % 65536
  match s.strm? id with
  | some x =>
    if x.ctx != c.ctx then s0.complete key q 0
    else if x.st == .queued then (s0.strmEnd id x .cancelled).complete key q 0
    else if x.st == .active && !(x.served && x.outst == 0) then
      let ev := match evField .s q.body with | some (true, e) => some e | _ => none
      let s1 := s0.modCore key fun c => { c with
        flights := c.flights ++ [⟨c.nextFid, .cancel, .issued, none, none, 0, 0, 0, 0, ev, q.pc, 0x9, 0x01, 0, false, false, c.nextOrd⟩],
        nextFid := c.nextFid + 1 }
      s1.setStrm id { x with cancel := true, cancelBy := x.cancelBy ++ [(key, c.nextFid)] }
    else s0.complete key q 0
  | none => s0.complete key q 0

/-- strm.stat (R144, R264). -/
def State.startStat (s : State) (key : Nat) (q : QEntry) : State :=
  let s0 := s.popQueue key .ls
  let v : Word := match s.strm? (q.a.toNat % 65536) with
    | some x => if x.ctx == (s.core key).ctx then x.status else 0
    | none => 0
  (s0.writePend key (bf q.body 41 6) v).complete key q 0

/-! Rows of the stream table. -/

/-- The work of a control core done with the register set of context `n` in place; firmware that waits in wdb is then given its notice. -/
def State.onSet (s : State) (key n : Nat) (f : State → State) : State :=
  let c := s.core key
  if !isCtl key || c.ctx.val == n then f s
  else
    let i := (key - 0x1000) * 64
    match tget? s.ccRegs (i + n) with
    | none => s
    | some x =>
      let s1 := f ({ s with ccRegs := tset s.ccRegs (i + c.ctx.val) c }.swapSet key x)
      let s2 := { s1 with ccRegs := tset s1.ccRegs (i + n) (s1.core key) }
      (s2.swapSet key (tget c s2.ccRegs (i + c.ctx.val))).giveNotice

/-- STREAM_ENTRY_ASSIGN: a free stream-table entry goes to the waiting issuer whose turn it is. -/
def execStreamEntryAssign (cid : CoreId) (s : State) : Out :=
  let key := coreKey cid
  .next (match s.nextIssuer with
    | some (_, k, n) =>
      if k = key ∧ s.freeId.isSome = true then
        s.onSet key n fun t => match (t.core key).lwait, (t.core key).lq with
          | some d, q :: _ => t.assignStrm key q d
          | _, _ => t
      else s
    | none => s)

/-- A QUEUED stream becomes ACTIVE, or ends FAILED when its dependency did; no address is then in fault (R157, R249, R257). -/
def execStreamActivate (id : StreamId) (s : State) : Out :=
  .next (match s.strm? id.toNat with
    | some x =>
      if x.st == .queued && x.depBad then s.strmEnd id.toNat { x with err := errDep, failAddr := 0 } .failed
      else s.tryActivate id.toNat
    | none => s)

/-! Pieces (R249, R251 to R256). -/

/-- An address moved by a signed offset, modulo 2^64. -/
def addOff (w : Word) (o : Int) : Word := w + BitVec.ofInt 64 o

/-- The index of the row under way with a mark when it was read poisoned: it is read when the row's first piece is served and holds for the
whole row. (log 12, DESIGN CHOICE) -/
def State.rowIndex (s : State) (x : Stream) : Nat × Bool :=
  match x.ix with
  | some i => i
  | none =>
    let a := (dw x.desc 6).toNat + 4 * (x.row % dCnt1 x.desc)
    (s.readNat a 4, s.poisoned a 4)

/-- Source and destination of row `r` with row index `ix` (R251). -/
def rowAddr (d : List Word) (r ix : Nat) : Word × Word :=
  let y : Int := (r % dCnt1 d : Nat)
  let z : Int := (r / dCnt1 d : Nat)
  match dKind d with
  | 3 => (addOff (dw d 1) (ix * dS1 d), addOff (dw d 2) (y * dD1 d))
  | 4 => (addOff (dw d 1) (y * dS1 d), addOff (dw d 2) (ix * dD1 d))
  | _ => (addOff (dw d 1) (y * dS1 d + z * dS2 d), addOff (dw d 2) (y * dD1 d + z * dD2 d))

/-- The poisoned parts of a range as offset and length, one for each poisoned codeword. -/
def State.badParts (s : State) (a n : Nat) : List (Nat × Nat) :=
  (cwRange a n).filterMap fun c =>
    if s.mem.poison.contains (s.memKey c) then
      let lo := max a c
      some (lo - a, min (a + n) (c + cwSize a) - lo)
    else none

/-- Bytes copied, with their poison, from one range of the memory tiers to another. -/
def State.copyMem (s : State) (src dst n : Nat) : State := s.writeParts dst (s.readBytes src n) (s.badParts src n)

/-- A piece is written at its destination: a memory tier, a host window, or another package, where it is split into messages that do
not cross 4 KiB and hold at most 52 pennants (R408). The result is the state and the requests that now await an answer. -/
def State.strmWrite (s : State) (x : Stream) (id : Nat) (dst : Word) (bytes : List Byte) (bad : List (Nat × Nat)) : State × Nat :=
  match s.resolve (dDG x.desc) dst.toNat with
  | .here a =>
    (match tierOf a with
     | .hostWin p =>
       ({ s with hostOut := s.hostOut ++ [.write p (s.windowHost x.ctx.val p a) bytes (!bad.isEmpty) x.ctx] }, 0)
     | _ => ((s.writeParts a bytes bad).inServed (match x.eng with | .clusterDma _ _ => true | _ => false) a bytes.length, 0))
  | .away pkg a =>
    let msg (s : State) (o n : Nat) : State :=
      let parts := (List.range ((n + 63) / 64)).filter fun i => bad.any fun b => overlap (o + 64 * i) 64 b.1 b.2
      { s with newReqs := s.newReqs ++
          [⟨.write, pkg, a + o, n, (bytes.drop o).take n, parts, x.ctx, id % 2 == 1, .stream id x.ord dst.toNat⟩] }
    if bytes.length ≤ 3328 then (msg s 0 bytes.length, 1) else (msg (msg s 0 3328) 3328 (bytes.length - 3328), 2)
  | .bad => (s, 0)

/-- The PCIe port of the host window that a destination address leads to. -/
def State.hostPort (s : State) (x : Stream) (dst : Word) : Option Nat :=
  match s.resolve (dDG x.desc) dst.toNat with
  | .here a => (match tierOf a with | .hostWin p => some p | _ => none)
  | _ => none

/-- Source and destination of a one-row COPY share a byte in one memory: of this package, or of one other (R253). -/
def State.selfOverlap (s : State) (d : List Word) : Bool :=
  dKind d == 1 && dRows d == 1 &&
    (match s.resolve (dSG d) (dw d 1).toNat, s.resolve (dDG d) (dw d 2).toNat with
     | .here a, .here b => overlap a (dLen d) b (dLen d)
     | .away p a, .away q b => p == q && overlap a (dLen d) b (dLen d)
     | _, _ => false)

/-- An overlapping one-row COPY to higher addresses is served from its last byte down, so that every byte is read before it is overwritten
(R253). -/
def State.topDown (s : State) (d : List Word) : Bool := s.selfOverlap d && decide ((dw d 1).fld 0 48 < (dw d 2).fld 0 48)

/-- The piece that a stream serves next: its length, its place in the row, its source and its destination; none crosses a 4 KiB boundary of
the destination (R249). -/
def Stream.nextPiece (x : Stream) (ix : Nat) (down : Bool) : Nat × Nat × Word × Word :=
  let (src, dst) := rowAddr x.desc x.row ix
  let left := dLen x.desc - x.off
  let stop := (dst + BitVec.ofNat 64 left).toNat
  let n := if down then min left (if stop % 4096 = 0 then 4096 else stop % 4096)
    else min left (4096 - (dst + BitVec.ofNat 64 x.off).toNat % 4096)
  let pos := if down then left - n else x.off
  (n, pos, src + BitVec.ofNat 64 pos, dst + BitVec.ofNat 64 pos)

/-- A stream moved past a piece of `n` bytes. -/
def Stream.past (x : Stream) (n : Nat) : Stream :=
  if dLen x.desc ≤ x.off + n then { x with row := x.row + 1, off := 0, ix := none } else { x with off := x.off + n }

/-- The FILL pattern over a piece that starts at byte `o` of its row (R251). -/
def fillBytes (d : List Word) (o n : Nat) : List Byte :=
  (List.range n).map fun i => BitVec.ofNat 8 ((dw d 6).fld (8 * ((o + i) % 8)) 8)

/-- The error that the indexed side of a GATHER or SCATTER row meets (R254, R256), with the failing address. -/
def State.rowErr (s : State) (x : Stream) (src dst : Word) : Option (Nat × Nat) :=
  let chk (g : Bool) (w : Word) (wr : Bool) : Option (Nat × Nat) :=
    match s.resolve g w.toNat with
    | .bad => some (errAddress, w.toNat)
    | .away _ _ => none
    | .here a => (s.localFault x.ctx.val a (dLen x.desc) wr).map fun f => (if f == .address then errAddress else errAccess, w.toNat)
  if dKind x.desc = 3 then chk (dSG x.desc) src false
  else if dKind x.desc = 4 then chk (dDG x.desc) dst true
  else none

/-- A local end of a piece no longer permits it: the window of a host endpoint does not cover it (R481), or a pin entry written since forbids
the write (R269, R270). -/
def State.pieceErr (s : State) (x : Stream) (g : Bool) (w : Word) (n : Nat) (wr : Bool) : Bool :=
  match s.resolve g w.toNat with
  | .here a => (match tierOf a with
      | .hostWin p => !s.inWindow x.ctx.val p a n wr
      | _ => wr && s.pinForbids (some x.ctx.val) false a n)
  | _ => false

/-- A piece whose data is at hand: written, poison noted, the stream moved on. -/
def State.strmPut (s : State) (id : Nat) (x : Stream) (dst : Word) (n src : Nat) (bytes : List Byte) (bad : List (Nat × Nat)) : State :=
  let (s1, w) := s.strmWrite x id dst bytes bad
  let y := { x.past n with outst := x.outst + w, bad := x.bad || !bad.isEmpty,
                           ports := (match s.hostPort x dst with | some p => setIns x.ports p | none => x.ports),
                           failAddr := if !x.bad && !bad.isEmpty then src + (bad.headD (0, 0)).1 else x.failAddr }
  (s1.setStrm id y).strmFlush id

/-- The read requests of a piece from another package: each within 4 KiB there (R408). -/
def strmReads (x : Stream) (id : Nat) (pkg : PkgId) (a n : Nat) (dst : Word) : List Req :=
  let first := min n (4096 - a % 4096)
  let r (o m : Nat) : Req :=
    ⟨.read, pkg, a + o, m, [], [], x.ctx, id % 2 == 1, .stream id x.ord (dst + BitVec.ofNat 64 o).toNat⟩
  if first < n then [r 0 first, r first (n - first)] else [r 0 n]

/-- The poisoned ranges that fall into `n` bytes from offset `o`, as offsets from there. -/
def cutParts (parts : List (Nat × Nat)) (o n : Nat) : List (Nat × Nat) :=
  parts.filterMap fun p =>
    if overlap p.1 p.2 o n then some (max p.1 o - o, min (p.1 + p.2) (o + n) - max p.1 o) else none

/-- One piece of an ACTIVE stream is served (R249). -/
def State.strmPiece (s : State) (id : Nat) (x0 : Stream) (h : HostReply) : State :=
  let d := x0.desc
  let k := dKind d
  let (ix, ixBad) := if 3 ≤ k then s.rowIndex x0 else (0, false)
  let x := if 3 ≤ k then { x0 with ix := some (ix, ixBad) } else x0
  let ia := (dw d 6).toNat + 4 * (x.row % dCnt1 d)
  let (n, pos, src, dst) := x.nextPiece (if ixBad then 0 else ix) (s.topDown d)
  if ixBad then
    let s0 := if x0.ix.isNone then s.poisonRecord ia (some x.ctx) else s
    if k = 3 then s0.strmPut id x dst n ia (zeroBytes n) [(0, n)]
    else (s0.setStrm id { x with row := x.row + 1, off := 0, ix := none, bad := true, failAddr := if x.bad then x.failAddr else ia }).strmFlush id
  else match (if x.off = 0 then s.rowErr x (rowAddr d x.row ix).1 (rowAddr d x.row ix).2 else none) with
    | some (e, fa) => s.strmFail id x e fa
    | none =>
      if s.pieceErr x (dDG d) dst n true then s.strmFail id x errAccess dst.toNat
      else if k = 2 then s.strmPut id x dst n 0 (fillBytes d pos n) []
      else if s.pieceErr x (dSG d) src n false then s.strmFail id x errAccess src.toNat
      else match s.resolve (dSG d) src.toNat with
        | .bad => s.strmFail id x errAddress src.toNat
        | .away pkg a =>
          let rs := strmReads x id pkg a n dst
          { s with newReqs := s.newReqs ++ rs }.setStrm id { x.past n with outst := x.outst + rs.length }
        | .here a =>
          match tierOf a with
          | .hostWin _ =>
            (match h with
             | .nothing => s
             | .data bs => s.strmPut id x dst n src.toNat ((bs ++ zeroBytes n).take n) []
             | .poisoned bs => s.strmPut id x dst n src.toNat ((bs ++ zeroBytes n).take n) [(0, n)]
             | .error => s.strmFail id x errPcie src.toNat)
          | _ =>
            let x1 := if s.selfOverlap d && x.buf.isNone then
                { x with buf := some (s.readBytes (a - pos) (dLen d), s.badParts (a - pos) (dLen d)) } else x
            let (bytes, bad) := match x1.buf with
              | some (bs, parts) => ((bs.drop pos).take n, cutParts parts pos n)
              | none => (s.readBytes a n, s.badParts a n)
            let s1 := if bad.isEmpty then s else s.poisonRecord (a + (bad.headD (0, 0)).1) (some x.ctx)
            s1.strmPut id x1 dst n src.toNat bytes bad

/-- An ACTIVE stream that has a piece to serve (R249, R256, R262). -/
def Stream.hasPiece (x : Stream) : Bool := x.st == .active && !x.cancel && x.err == 0 && !x.served

/-- The number of an engine's arbiter over its streams. -/
def StrmEng.num : StrmEng → Nat
  | .dieDma k => k
  | .h0 far => 0x10 + b2n far
  | .clusterDma k c => 0x100 + k * 16 + c
  | .ls key => 0x10000 + key

/-- The branch group by which the issue arbiter of a cluster DMA knows a stream (R102). -/
def State.strmGroup (s : State) (x : Stream) : Nat := (s.core x.core).group

/-- The stream of an engine whose turn it is (R22, R249); a cluster DMA first picks the branch group (R102). -/
def State.pieceTurn (s : State) (e : StrmEng) : Option Nat :=
  let l := s.strms.entries.filter fun x => x.2.eng == e && x.2.hasPiece
  let turn (l : Tbl Stream) : Option Nat := s.arbWinner (.pieces e.num) (l.map (·.1))
  match e with
  | .clusterDma k c =>
    (match s.arbWinner (.clusterDma (k * 12 + c)) (l.map fun x => s.strmGroup x.2) with
     | some g => turn (l.filter fun x => s.strmGroup x.2 == g)
     | none => none)
  | _ => turn l

/-- The arbiters of an engine have served a stream (R22). -/
def State.pieceServed (s : State) (id : Nat) (x : Stream) : State :=
  let s1 := s.arbServed (.pieces x.eng.num) id
  match x.eng with
  | .clusterDma k c => s1.arbServed (.clusterDma (k * 12 + c)) (s.strmGroup x)
  | _ => s1

/-- The die on which an engine of streams lies, by its code in R23. -/
def StrmEng.die : StrmEng → Nat
  | .dieDma k => k
  | .ls key => keyDie key
  | .clusterDma k _ => k
  | .h0 _ => 8

/-- The next piece of a stream crosses the die links between its engine and the ends in this package (R568). -/
def State.pieceCrossed (s : State) (x : Stream) : State :=
  let (n, _, src, dst) := x.nextPiece (s.rowIndex x).1 (s.topDown x.desc)
  let side (t : State) (g : Bool) (w : Word) : State :=
    match t.resolve g w.toNat with | .here a => t.crossedRange x.eng.die .memory a n | _ => t
  let s1 := if dKind x.desc = 2 then s else side s (dSG x.desc) src
  side s1 (dDG x.desc) dst

/-- A piece from a host window waits for what the host brings. -/
def State.pieceWaits (s : State) (x : Stream) (h : HostReply) : Bool :=
  let (_, _, src, _) := x.nextPiece (s.rowIndex x).1 (s.topDown x.desc)
  h == .nothing && dKind x.desc != 2 &&
    (match s.resolve (dSG x.desc) src.toNat with | .here a => (match tierOf a with | .hostWin _ => true | _ => false) | _ => false)

/-- STREAM_PIECE: an engine serves one piece of the stream whose turn it is; the command for another stream has to wait for that turn (R249). -/
def execStreamPiece (id : StreamId) (h : HostReply) (s : State) : Out :=
  .next (match s.strm? id.toNat with
    | some x =>
      if x.hasPiece && s.pieceTurn x.eng == some id.toNat && !s.pieceWaits x h then
        ((s.pieceServed id.toNat x).pieceCrossed x).strmPiece id.toNat x h
      else s
    | none => s)

/-- The zero-length read behind the last write to a host window returns; a completion error ends the stream FAILED (R256, R260). -/
def execStreamFlushReadComplete (r : FlushRead) (s : State) : Out :=
  .next (match s.strm? r.id.toNat with
    | some x =>
      if x.st == .active && x.flushes.contains r.port.val then
        let y := { x with flushes := setDel x.flushes r.port.val }
        if r.ok then s.setStrm r.id.toNat y else s.strmFail r.id.toNat y errPcie (dw x.desc 2).toNat
      else s
    | none => s)

/-- A stream whose writes are all performed retires: DONE, or FAILED when it met poison or an error (R241, R260, R261). One that is being
cancelled ends CANCELLED instead (R262). -/
def execStreamRetire (id : StreamId) (s : State) : Out :=
  .next (match s.strm? id.toNat with
    | some x =>
      if x.cancel then s
      else if x.st == .active && x.outst == 0 && x.err != 0 then s.strmEnd id.toNat x .failed
      else if x.st == .active && x.outst == 0 && x.served && x.drained then
        if x.bad then s.strmEnd id.toNat { x with err := errPoison } .failed else s.strmEnd id.toNat x .done
      else s
    | none => s)

/-- The pieces of a cancelled stream have been performed: CANCELLED (R262). -/
def execStreamCancelComplete (id : StreamId) (s : State) : Out :=
  .next (match s.strm? id.toNat with
    | some x => if x.st == .active && x.cancel && x.outst == 0 then s.strmEnd id.toNat x .cancelled else s
    | none => s)

/-! Answers to the requests of streams (R409). -/

/-- A request of a stream has been answered. An answer to a stream that has ended since is discarded. -/
def State.strmAnswer (s : State) (id ord : Nat) (f : Stream → State → State) : State :=
  match s.strm? id with
  | some x => if x.ord == ord && x.st == .active then f { x with outst := x.outst - 1 } s else s
  | none => s

/-- A write of a stream was acknowledged, with the status of R409. -/
def State.strmAck (s : State) (id ord : Nat) (ok : Bool) (addr : Nat) : State :=
  s.strmAnswer id ord fun x s =>
    if ok then (if x.outst == 0 && x.err != 0 && !x.cancel then s.strmEnd id x .failed else (s.setStrm id x).strmFlush id)
    else if x.cancel then s.setStrm id x
    else s.strmFail id x errRemote addr

/-- Data that a stream read from another package arrives and goes on to its destination (R408, R409); for a cancelled stream it is
discarded (R262). `src` is the address that it was read from (R157); `last` closes the request. -/
def State.strmData (s : State) (id ord src : Nat) (dst : Word) (bytes : List Byte) (poison last : Bool) : State :=
  match s.strm? id with
  | some x =>
    if x.ord == ord && x.st == .active then
      let n := bytes.length
      let (s1, w) := if x.cancel || x.err != 0 then (s, 0)
        else s.strmWrite x id dst bytes (if poison then [(0, n)] else [])
      let y := { x with outst := x.outst + w - b2n last, bad := x.bad || poison,
                        ports := (match s.hostPort x dst with | some p => if x.cancel || x.err != 0 then x.ports else setIns x.ports p | none => x.ports),
                        failAddr := if poison && !x.bad then src else x.failAddr }
      if y.outst == 0 && y.err != 0 && !y.cancel then s1.strmEnd id y .failed else (s1.setStrm id y).strmFlush id
    else s
  | none => s

/-! Scrub and interleave (R238, R242). -/

/-- The codeword at an offset of a unit's staging is marked in the chunk that lies there. -/
def State.spoilStaged (s : State) (m off : Nat) : State :=
  let hit (c : Chunk) : Bool := c.unit == m && c.place == off / 4096
  let mark (c : Chunk) : Chunk := { c with bad := setIns c.bad (off % 4096 / 32) }
  { s with staged := updWhere hit mark s.staged }

/-- The offset of an HBM address in the staging of the update unit of its stack, with the unit, if it lies there. -/
def State.stagedAt (s : State) (a : Nat) : Option (Nat × Nat) :=
  let (m, o) := s.hbmPlace a
  match s.stageRange m with
  | some (b, z) => if tierOf a == .hbm && decide (b ≤ o) && decide (o < b + z) then some (m, o - b) else none
  | none => none

/-- An uncorrectable codeword at a place of a staging range: the chunk that occupies it holds 8 gradients that are poisoned (R241, R302; log 39, DESIGN CHOICE). -/
def State.stageBad (s : State) (a : Nat) : State := (s.stagedAt a).toList.foldl (fun s x => s.spoilStaged x.1 x.2) s

/-- Patrol scrub reads one codeword: an uncorrectable one is marked poisoned and a record opens; a correctable error is mended in place and
adds 1 to TRANS of the cell's history entry, unless an injection caused it (R242, R535, R563). -/
def State.scrub (s : State) (a : Nat) (found : EccFinding) : State :=
  match found with
  | .uncorrectable =>
    ((s.markPoison (cwOf a) 1 true).openRecord (mkDet (s.storageUnit a).2.toNat (s.storageUnit a).1 none 1 0 6 0 0 0 (BitVec.ofNat 64 a))
      (s.marked a)).1.stageBad a
  | .correctable => if s.marked a then s else s.charge (s.storageUnit a).1 (s.storageUnit a).2.toNat false
  | .clean => s

def execPatrolScrub (a : Addr) (found : EccFinding) (s : State) : Out :=
  .next (match tierOf a.toNat with
    | .csr => s
    | .hostWin _ => s
    | .none => s
    | _ => s.scrub a.toNat found)

/-- A context other than 0 is running. -/
def State.userRunning (s : State) : Bool := s.ctxs.any fun x => x.1 != 0 && x.2.st == .running
/-- A stream is QUEUED or ACTIVE. -/
def State.strmBusy (s : State) : Bool := s.strms.entries.any fun x => x.2.inUse

/-- The condition under which the interleave and the staging ranges change (R238, R281). -/
def State.ilvFree (s : State) : Bool := !s.userRunning && !s.strmBusy

/-- A write of a register or of one half of it: the register's new value before access codes (R5). -/
def mergeSz (old : Word) (sz : CsrSize) (v : Word) : Word :=
  match sz with
  | .w64 => v
  | .lo32 => old.setFld 0 32 (v.fld 0 32)
  | .hi32 => old.setFld 32 32 (v.fld 0 32)

/-- A write to PKG_HBM_ILV: ignored unless no user context runs and no stream is in use; a SPLIT above 64 leaves that field (R236,
R238). Stored bytes stay at their places. -/
def State.writeIlv (s : State) (sz : CsrSize) (v : Word) : State :=
  if s.ilvFree then
    let w := mergeSz (s.csrGet PKG_HBM_ILV.off) sz v
    let s1 := s.setFld PKG_HBM_ILV.off PKG_HBM_ILV.UPPER_MODE (getFld w PKG_HBM_ILV.UPPER_MODE)
    if getFld w PKG_HBM_ILV.SPLIT ≤ 64 then s1.setFld PKG_HBM_ILV.off PKG_HBM_ILV.SPLIT (getFld w PKG_HBM_ILV.SPLIT) else s1
  else s
def execPkgHbmIlvWrite (sz : CsrSize) (v : Word) (s : State) : Out := .next (s.writeIlv sz v)

end Sys2Proof.Machine
end

