-- ==== Sys2Proof/Machine/Sched.lean ====
section
/-! DEFINITION. The cluster sequencer, the atomic units, event increments, the recording of faults, hot repair, and the scheduling of
control cores (03_cores_clusters_branches.md R92 to R117, 04_instruction_set.md R150 to R157, 13_host_interface.md R486, R487). -/

namespace Sys2Proof.Machine

/-! Barriers (R104 to R106, R136). -/

/-- The core counts as arrived at a barrier: it is held by it, or its program has ended (R136). -/
def Core.arrived (c : Core) (h : Hold) : Bool := c.hold == h || c.run == .halted

/-- The release of a barrier sent to the cores that it holds. -/
def State.release (s : State) (keys : List Nat) (h : Hold) : State :=
  keys.foldl (fun s k => if (s.core k).hold == h then s.modCore k fun c => { c with hold := .barSent } else s) s

/-- Every core of a list has arrived, one of them at the barrier itself. -/
def State.allArrived (s : State) (keys : List Nat) (h : Hold) : Bool :=
  keys.all (fun k => (s.core k).arrived h) && keys.any fun k => (s.core k).hold == h

/-- The cluster sequencer releases the cluster barrier once all 8 cores have arrived (R104). -/
def execClusterBarrierRelease (k : Fin 4) (cl : Fin 12) (s : State) : Out :=
  let keys := clusterCores k.val cl.val
  .next (if s.allArrived keys .barCl then s.release keys .barCl else s)

/-- The cores of a branch group of a context. -/
def State.groupCores (s : State) (n g : Nat) : List Nat :=
  allCores.filter fun k => s.holds n (keyDie k) (keyCl k) && (s.core k).ctx.val == n && (s.core k).group == g

/-- A group barrier releases once every core of the group has arrived (R105). -/
def execGroupBarrierRelease (ctx : CtxId) (g : Fin 8) (s : State) : Out :=
  let keys := s.groupCores ctx.val g.val
  .next (if s.allArrived keys .barGrp then s.release keys .barGrp else s)

/-- A core's synchroniser delivers the release and the core resumes dispatch (R104). -/
def execBarrierReleaseDelivered (cid : CoreId) (s : State) : Out :=
  let k := coreKey cid
  .next (if (s.core k).hold == .barSent then s.modCore k fun c => { c with hold := .none } else s)

/-! Event increments of other producers (R93, R96). -/

/-- An increment added to an event register, before any wait is tested; a count that would pass 0xFFFF stays there (R93, R95). -/
def State.raiseInc (s : State) (i : Inc) : State :=
  let t := (s.setOf i.core i.ctx.val).event i.ev + i.n
  let s1 := s.modSet i.core i.ctx.val fun c => { c with ev := tset c.ev i.ev (min t 0xFFFF) }
  if 0xFFFF < t then s1.addFault ⟨i.ctx, .eventOverflow, 0, 0, 0, 0, s1.unitOf i.core engSeq, s1.time⟩ else s1

/-- The context of an increment has the core still. -/
def State.incLands (s : State) (i : Inc) : Bool := isCtl i.core || (s.core i.core).ctx == i.ctx

/-- An increment delivered to the register set in which its context's event register now lies: the core's own, or the saved set of a
control core's context (R124, R150). One for a context that no longer has the core is dropped; one for a saved core is kept (R503). -/
def State.landInc (s : State) (i : Inc) : State :=
  if (s.ctx i.ctx).saveAt.isSome && (s.ctx i.ctx).st == .suspended then s.sendInc i
  else if s.incLands i then s.raiseInc i
  else s

/-- The waits of a core tested after the increments of a cycle (R95). -/
def State.testWaits (s : State) (i : Inc) : State := if s.incLands i then s.modSet i.core i.ctx.val Core.settle else s

/-- The increments named land in one cycle: all are applied, then each wait sees the count after them (R95). -/
def execEventIncrement (i : List Nat) (s : State) : Out :=
  let xs := (s.incs.zipIdx.filter fun x => i.contains x.2).map (·.1)
  let s1 : State := { s with incs := (s.incs.zipIdx.filter fun x => !i.contains x.2).map (·.1) }
  .next (xs.foldl State.testWaits (xs.foldl State.landInc s1))

/-! Atomic units (R97 to R101, R673). -/

/-- The number of an atomic unit. -/
def unitNo : AtomicUnit → Nat
  | .cluster k c => k.val * 12 + c.val
  | .near k => 48 + k.val
  | .hbm m => 52 + m.val

/-- An operation that has reached its unit: performed indivisibly and answered, or, for a wait whose condition is false, parked. The
second result says that the unit was full (R98, R101, R673). -/
def State.atomic (s : State) (u op a : Nat) (b c : Word) (ref : AtomRef) (ctx : Option CtxId) : State × Bool :=
  let m := BitVec.ofNat 64 (s.readNat a 8)
  if s.poisoned a 8 then ((s.poisonRecord a ctx).answerAtom ref m true, false)
  else match op with
    | 0 => (((s.answerAtom ref m false).writeNat a 8 (m + b).toNat), false)
    | 1 => ((if m = c then (s.answerAtom ref m false).writeNat a 8 b.toNat else s.answerAtom ref m false), false)
    | _ =>
      if b.toNat ≤ m.toNat then (s.answerAtom ref m false, false)
      else if (tget [] s.parked u).length < 256 then
        ({ s with parked := tset s.parked u (tget [] s.parked u ++ [⟨a, b, ref⟩]) }, false)
      else (s, true)

/-- The operation code of a semaphore in flight (R408). -/
def FlightOp.atom? : FlightOp → Option Nat
  | .semAdd => some 0
  | .semCas => some 1
  | .semWait => some 2
  | _ => none

/-- The unit code that a requester presents: a core that of its sequencer, a control core its own; a request of another package comes
through the routing plane (R99). (log 8, DESIGN CHOICE) -/
def State.requesterUnit (s : State) : Requester → Nat
  | .core cid => (s.unitOf (coreKey cid) engSeq).toNat
  | .remote _ => (mkUnit 8 4 0 5 0xFFFF).toNat

/-- The order in which operations that arrive in one cycle take effect: ascending unit code, requests of other packages in ascending package
ID (R99). (log 8, DESIGN CHOICE) -/
def State.requesterRank (s : State) (r : Requester) : Nat :=
  s.requesterUnit r * 32768 + match r with | .core _ => 0 | .remote src => src.toNat

/-- The answer with status 0x04 to a request of another package that a unit serves (R409). -/
def State.atomRefusal (s : State) (q : AtomReq) : Pennant :=
  { ver := 2, typ := 4, vc := q.vc + 2, poison := false, last := true, dtr := false, dst := q.src, src := BitVec.ofNat 15 s.self,
    ctx := q.ctx, len := 7, hops := 0, eseq := 0, addr := BitVec.ofNat 48 (q.eseq.toNat + put 0x04 16), payload := 0 }

/-- An operation that writes reaches its unit under a pin entry that forbids it (R269, R270). -/
def State.atomPinned (s : State) (op a : Nat) (ctx : Option Nat) : Bool := op != 2 && s.pinForbids ctx false a 8

/-- The first operation of a requester at a unit takes effect; one that a pin entry forbids by now is refused (R98, R100, R101, R270). -/
def State.serveAtom (n : Nat) (s : State) (r : Requester) : State :=
  match r with
  | .core cid =>
    let k := coreKey cid
    match (s.allFlights k).find? fun f =>
        f.op.atom?.isSome && f.st == .issued && f.remote.isNone && s.atomUnit f.addr == some n with
    | some f =>
      let ctx := (s.setOf k (fidCtx f.fid)).ctx
      let op := f.op.atom?.getD 2
      if s.atomPinned op f.addr (some ctx.val) then s.modFlight k f.fid fun x => { x with st := .answered, refused := true }
      else
        let s0 := (s.crossed (if isCtl k then 8 else keyDie k) .coherence f.addr).modFlight k f.fid fun x => { x with st := .parked }
        let (s1, full) := s0.atomic n op f.addr f.val f.cmp (.core k f.fid) (some ctx)
        if full then s1.modFlight k f.fid fun x => { x with st := .bounced } else s1
    | none => s
  | .remote src =>
    match s.serving.find? fun q => q.src == src && q.unit == n && q.wait with
    | some q =>
      if s.atomPinned q.op q.addr none then
        { s with serving := s.serving.filter fun x => x.id != q.id, resps := s.resps ++ [s.atomRefusal q] }
      else
        let s0 := { s with serving := updWhere (fun x => x.id == q.id) (fun x => { x with wait := false }) s.serving }
        let (s1, full) := s0.atomic n q.op q.addr q.b q.c (.remote q.id) none
        if full then { s with serving := (s.serving.filter fun x => x.id != q.id) ++ [q] } else s1
    | none => s

/-- The operations of the requesters that arrive at an atomic unit in one cycle take effect, one at a time in ascending order of unit code
(R98, R99). -/
def execAtomicOperation (u : AtomicUnit) (r : List Requester) (s : State) : Out :=
  .next ((sortBy s.requesterRank r).foldl (State.serveAtom (unitNo u)) s)

/-- A wait returned from a full unit is sent again and ordered by its new arrival (R101). -/
def execSemWaitResend (cid : CoreId) (i : Nat) (s : State) : Out :=
  let k := coreKey cid
  .next (match s.flight k i with
    | some f =>
      if f.st == .bounced then
        (s.modSet k (fidCtx i) fun c =>
          { c with flights := (c.flights.filter fun g => g.fid != i) ++ [{ f with st := .issued, ord := (s.core k).nextOrd }] }).modCore k
            fun c => { c with nextFid := c.nextFid + 1 }
      else s
    | none => s)

/-! The first fault of a context (R154 to R157, R499, R675). -/

/-- The pending fault of a context that is recorded next: the earliest detected, of several at one time the lowest unit code (R155). -/
def State.nextFault (s : State) (n : Nat) : Option FaultRec :=
  s.faults.foldl (fun m f =>
    if f.ctx.val = n then
      match m with
      | some g => if f.time < g.time ∨ (f.time = g.time ∧ f.unit.toNat < g.unit.toNat) then some f else some g
      | none => some f
    else m) none

/-- CTX_FAULT_INFO of a fault (R156). -/
def FaultRec.info (f : FaultRec) : Word :=
  BitVec.ofNat 64 (put 1 63 + put f.code.num 48 + put f.cls 44 + put f.op 36 + f.unit.toNat)

/-- The CTX_FAULT event record of a fault (R494). (log 36, DEDUCED) -/
def State.postFault (s : State) (n : Nat) (f : FaultRec) : State :=
  s.postCtx n 0x02 f.code.num f.unit.toNat [BitVec.ofNat 64 f.pc, BitVec.ofNat 64 f.addr]

/-- A fault put on record: in the CTX_FAULT registers when they hold none, else counted in MORE (R155). (log 35, DEDUCED) (log 36, DEDUCED) -/
def State.recordCtxFault (s : State) (n : Nat) (f : FaultRec) : State :=
  if s.bit (CTX_FAULT_INFO.off n) CTX_FAULT_INFO.VALID then s.bump (CTX_FAULT_CNT.off n) CTX_FAULT_CNT.MORE 1
  else ((((s.csrSet (CTX_FAULT_INFO.off n) f.info).csrSet (CTX_FAULT_PC.off n) (BitVec.ofNat 64 (f.pc % 2 ^ 48))).csrSet
    (CTX_FAULT_ADDR.off n) (BitVec.ofNat 64 f.addr)).csrSet (CTX_FAULT_TIME.off n) (BitVec.ofNat 64 f.time))

/-- The oldest pending fault of a context is recorded. The first fault of a running or suspended context stops it on every core and
leaves it FAULTED; a fault of an IDLE context stops nothing (R154, R497, R675). -/
def State.takeFault (s : State) (n : Nat) : State :=
  match s.nextFault n with
  | none => s
  | some f =>
    let s0 := { s with faults := s.faults.erase f }
    let first := !s0.bit (CTX_FAULT_INFO.off n) CTX_FAULT_INFO.VALID
    let s1 := s0.recordCtxFault n f
    let st := (s1.ctx n).st
    if st == .running || st == .suspended then
      let s2 := s1.modCtx n fun c => { c with st := .faulted, faultCode := f.code.num }
      ((s2.stopCores n).stopCtl n 2).postFault n f
    else if st == .faulted then s1
    else if n = 0 then
      if first then allCtl.foldl (fun s k => if (s.core k).ctx.val = 0 then s.modCore k fun c => { c with run := if c.run == .running then .stopped else c.run } else s) s1
      else s1
    else s1.postFault n f

def execContextFault (ctx : CtxId) (s : State) : Out := .next (s.takeFault ctx.val)

/-! Control cores (R150, R486, R487). -/

/-- The time limit of a ctx.enter expires: reason 3 (R150). -/
def execCtxEnterTimeLimit (n : Fin 16) (s : State) : Out :=
  let k := 0x1000 + n.val
  let c := s.core k
  .next (if c.ctx.val != 0 && c.limit != 0 && decide (c.started + c.limit * 1000 ≤ s.time) then s.ccReturn k 3 else s)

/-- The programs of a control core that can run. -/
def State.runnable (s : State) (n : Nat) : List CcProg :=
  s.progs.filter fun p => p.core == n && !p.ended && !p.stop && (s.ctx p.ctx).st == .running && (s.ctx p.ctx).suspend.isNone

/-- The program after context `cur` in ascending context order, round-robin (R22, R486). -/
def nextProg (l : List CcProg) (cur : Nat) : Option CcProg :=
  let least (l : List CcProg) : Option CcProg :=
    l.foldl (fun m p => match m with | some q => if q.ctx.val < p.ctx.val then some q else some p | none => some p) none
  match least (l.filter fun p => cur < p.ctx.val) with
  | some p => some p
  | none => least l

/-- A control core takes the register set of a program for a slice (R150, R486). -/
def State.ccLoad (s : State) (n : Nat) (p : CcProg) : State :=
  let k := 0x1000 + n
  let x := tget Core.reset s.ccRegs (n * 64 + p.ctx.val)
  let s1 := if (s.core k).ctx.val = 0 then { s with ccRegs := tset s.ccRegs (n * 64) (s.core k) } else s
  s1.swapSet k { x with ctx := p.ctx, run := .running, started := s.time, limit := p.slice }

/-- The slice of the program on a control core is over, or the core has none: the next runnable program is given its slice; with none
other the program goes on. Firmware is told (R486, R487). -/
def execCcSliceTimer (n : Fin 16) (s : State) : Out :=
  let k := 0x1000 + n.val
  let c := s.core k
  let due := c.ctx.val == 0 || (c.limit != 0 && decide (c.started + c.limit * 1000 ≤ s.time))
  .next (match nextProg (s.runnable n.val) c.ctx.val with
    | some p =>
      if due then
        let s1 := if c.ctx.val = 0 then s else { s with ccRegs := tset s.ccRegs (n.val * 64 + c.ctx.val) { c with run := .idle } }
        (s1.ccLoad n.val p).notice (BitVec.ofNat 64 (put 0x07 56 + n.val))
      else s
    | none => s)

/-- A notice queued for wdb (R487). -/
def execWdbNotice (w : Word) (s : State) : Out := .next (s.notice w)

/-! Hot repair (R115, R116). -/

/-- After the drain of all 8 cores the copy begins. -/
def execHotRepairDrained (k : Fin 4) (cl : Fin 12) (s : State) : Out :=
  let i := k.val * 12 + cl.val
  .next (if (s.cluster i).repSt == 1 && (clusterCores k.val cl.val).all (fun key => (s.core key).drained) then
    s.modCluster i fun c => { c with repSt := 2 } else s)

/-- LMAP with the physical core `p` replaced by `n`. -/
def remap (lmap p n : Nat) : Nat :=
  (List.range 8).foldl (fun m q => m + put (if bits lmap (4 * q) 4 = p then n else bits lmap (4 * q) 4) (4 * q)) 0

/-- The copy ends: the map is rewritten, the spare is used up, and dispatch resumes; a copy that met an uncorrectable error removes the
contexts with work on the cluster by the hatch. In the swap of a field-test visit the core that served becomes the spare. A retirement
that waited is then decided, and a core that was placed first in the test order is tested in the same visit (R115 to R117, R548, R553). -/
def State.repairDone (s : State) (k cl : Nat) (bad : Bool) : State :=
  let i := k * 12 + cl
  let c := s.cluster i
  let o := PKG_CORE_MAP.off k cl
  let p := c.repPhys
  let s1 := s.setFld o PKG_CORE_MAP.LMAP (remap (s.fld o PKG_CORE_MAP.LMAP) p (s.fld o PKG_CORE_MAP.SPARE))
  let u := mkUnit k cl p 0 0xFFFF
  let s2 := if c.swap then s1.setFld o PKG_CORE_MAP.SPARE p
    else ((s1.setFld o PKG_CORE_MAP.SPARE 0xF).setFld o PKG_CORE_MAP.RETIRED (s1.fld o PKG_CORE_MAP.RETIRED ||| 2 ^ p)).setFld
      ERR_SVC.off ERR_SVC.NOSPARE 1
  let again := c.swap && c.first.contains p
  let s3 := (s2.saveMap k cl).modCluster i fun c =>
    { c with repSt := 0, swap := false, testOk := false, repWait := c.repWait.drop 1, first := setDel c.first p, test := again,
             visitQ := if again then some 8 else c.visitQ }
  let s4 := if c.swap then s3 else s3.postPfs 0x06 1 u.toNat [s3.csrGet o]
  let s5 := if bad then (match c.holder with | some n => s4.startHatch n.val 7 u none none false false | none => s4) else s4
  match c.repWait with
  | q :: _ => s5.retireCore k cl q
  | [] => s5

def execHotRepairCopyDone (k : Fin 4) (cl : Fin 12) (uncorrectable : Bool) (s : State) : Out :=
  .next (if (s.cluster (k.val * 12 + cl.val)).repSt == 2 then s.repairDone k.val cl.val uncorrectable else s)

end Sys2Proof.Machine
end

