-- ==== Sys2Proof/Machine/Fabric.lean ====
section
/-! DEFINITION. Coordinates, slices and rings, and pennants handed to the routing plane (11_routing_and_slices.md R388 to R399, R405;
10_links_and_cabling.md R359, R360). -/

namespace Sys2Proof.Machine

/-! Coordinates (R33, R389). Axis 0 is X, 1 is Y, 2 is Z; direction `2 × axis` is +, `2 × axis + 1` is − (R347). -/

/-- The coordinate of a package ID on an axis. -/
def coord (p a : Nat) : Nat := bits p (10 - 5 * a) 5
/-- A package ID with its coordinate on an axis replaced. -/
def withCoord (p a c : Nat) : Nat := p - put (coord p a) (10 - 5 * a) + put (c % 32) (10 - 5 * a)
/-- The axis of a direction. -/
def dirAxis (d : Nat) : Nat := d / 2
/-- The opposite direction. -/
def opp (d : Nat) : Nat := if d % 2 = 0 then d + 1 else d - 1

/-- The machine size on an axis (R389). -/
def State.size (s : State) (a : Nat) : Nat :=
  1 + match a with
    | 0 => s.fld ROUTE_DIMS.off ROUTE_DIMS.NX
    | 1 => s.fld ROUTE_DIMS.off ROUTE_DIMS.NY
    | _ => s.fld ROUTE_DIMS.off ROUTE_DIMS.NZ
/-- The machine is cabled with wrap links on an axis. -/
def State.wrapBit (s : State) (a : Nat) : Bool :=
  match a with
  | 0 => s.bit ROUTE_DIMS.off ROUTE_DIMS.WX
  | 1 => s.bit ROUTE_DIMS.off ROUTE_DIMS.WY
  | _ => s.bit ROUTE_DIMS.off ROUTE_DIMS.WZ
/-- The axes in the dimension order of a code (R389). -/
def orderAxes (code : Nat) : List Nat :=
  match code with
  | 0 => [0, 1, 2]
  | 1 => [0, 2, 1]
  | 2 => [1, 0, 2]
  | 3 => [1, 2, 0]
  | 4 => [2, 0, 1]
  | _ => [2, 1, 0]

/-! The slice (R391 to R393). -/

def State.origin (s : State) (a : Nat) : Nat :=
  match a with
  | 0 => s.fld ROUTE_SLICE.off ROUTE_SLICE.OX
  | 1 => s.fld ROUTE_SLICE.off ROUTE_SLICE.OY
  | _ => s.fld ROUTE_SLICE.off ROUTE_SLICE.OZ
/-- Members on an axis of the slice box. -/
def State.extent (s : State) (a : Nat) : Nat :=
  1 + match a with
    | 0 => s.fld ROUTE_SLICE.off ROUTE_SLICE.EX
    | 1 => s.fld ROUTE_SLICE.off ROUTE_SLICE.EY
    | _ => s.fld ROUTE_SLICE.off ROUTE_SLICE.EZ
/-- A package lies in the slice box. -/
def State.inBox (s : State) (p : Nat) : Bool :=
  [0, 1, 2].all fun a => decide (s.origin a ≤ coord p a) && decide (coord p a < s.origin a + s.extent a)
/-- The package belongs to a slice that is not void (R392). -/
def State.inSlice (s : State) : Bool :=
  s.bit ROUTE_SLICE.off ROUTE_SLICE.VALID && decide (s.fld ROUTE_SLICE.off ROUTE_SLICE.PERM < 6) &&
    ([0, 1, 2].all fun a => decide (s.origin a + s.extent a ≤ s.size a)) && s.inBox s.self
/-- The axis is wrap-permitted at the package (R393). -/
def State.wrapOk (s : State) (a : Nat) : Bool := s.wrapBit a && (!s.inSlice || s.extent a == s.size a)

/-- Ring position of logical index `i` among `e` members (R394). -/
def ringPos (wrap : Bool) (e i : Nat) : Nat := if wrap then i else if i % 2 = 0 then i / 2 else e - 1 - (i - 1) / 2
/-- The logical index at a ring position. -/
def ringIdx (wrap : Bool) (e pos : Nat) : Nat := ((List.range e).find? fun i => ringPos wrap e i == pos).getD 0

/-- The ring register of an axis (R395). -/
def State.ringWord (s : State) (a : Nat) : Word :=
  if s.inSlice then
    let e := s.extent a
    let w := s.wrapOk a
    let pos := ringPos w e (coord s.self a - s.origin a)
    let at_ (p : Nat) : Nat := withCoord s.self a (s.origin a + ringIdx w e (p % e))
    BitVec.ofNat 64 (put (b2n !w) 63 + put (at_ (pos + e - 1)) 35 + put (at_ (pos + 1)) 20 + pos)
  else 0

/-- The package controller rewrites the ring registers (R395). -/
def State.rewriteRings (s : State) : State :=
  [0, 1, 2].foldl (fun s a => s.csrSet (ROUTE_RING.off a) (s.ringWord a)) s

/-! Directions and ports (R397, R399, R347 to R349). -/

def State.fport (s : State) (p : Nat) : FPort := tget FPort.reset s.fports p
def State.modFport (s : State) (p : Nat) (f : FPort → FPort) : State := { s with fports := tset s.fports p (f (s.fport p)) }
/-- The state of a port (R383). -/
def State.pst (s : State) (p : Nat) : Nat := s.fld (FAB_STS.off p) FAB_STS.STATE
def stDisabled : Nat := 0
def stDetect : Nat := 1
def stLaneCheck : Nat := 2
def stSync : Nat := 3
def stIdent : Nat := 4
def stRate : Nat := 5
def stAlign : Nat := 6
def stActive : Nat := 7
def stDown : Nat := 8
def stShut : Nat := 9

/-- The direction that PKG_FAB_ALLOC gives a port (R347). -/
def State.allocDir (s : State) (p : Nat) : Nat := bits (s.fld PKG_FAB_ALLOC.off PKG_FAB_ALLOC.DIRS) (3 * p) 3
/-- The ports of a direction by rank, by the directions latched at training (R348, R349). -/
def State.dirPorts (s : State) (d : Nat) : List Nat := (List.range 16).filter fun p => (s.fport p).dir == d
/-- The rank of a port among those of its direction. -/
def State.rankOf (s : State) (p : Nat) : Nat := ((List.range p).filter fun q => (s.fport q).dir == (s.fport p).dir).length
/-- Some port of a direction is ACTIVE. -/
def State.dirUp (s : State) (d : Nat) : Bool := (s.dirPorts d).any fun p => s.pst p == stActive
/-- The ACTIVE port for a rank of a direction, the following ranks taken in cyclic order (R399). -/
def State.portFor (s : State) (d rank : Nat) : Option Nat :=
  let l := s.dirPorts d
  let n := l.length
  if n = 0 then none
  else ((List.range n).map fun i => l.getD ((rank + i) % n) 0).find? fun p => s.pst p == stActive

/-- The direction on an axis toward a coordinate (R397). -/
def State.dirToward (s : State) (a e : Nat) : Nat :=
  let c := coord s.self a
  let n := s.size a
  if s.wrapOk a then (if (e + n - c % n) % n ≤ n / 2 then 2 * a else 2 * a + 1)
  else if c < e then 2 * a else 2 * a + 1

/-- No package holds the ID, or the dimensions are not in force (R398). -/
def State.noSuchPkg (s : State) (dst : Nat) : Bool :=
  if s.bit ROUTE_DIMS.off ROUTE_DIMS.VALID then [0, 1, 2].any fun a => decide (s.size a ≤ coord dst a) else dst != s.self

/-- The direction in which a pennant that starts or turns here leaves (R396, R397). -/
def State.firstDir (s : State) (dst : Nat) : Option Nat :=
  match (orderAxes (s.fld ROUTE_DIMS.off ROUTE_DIMS.ORDER)).find? fun a => coord dst a != coord s.self a with
  | some a => some (s.dirToward a (coord dst a))
  | none => none

def State.det (s : State) (d : Nat) : Detour := tget Detour.idle s.dets d
def State.modDet (s : State) (d : Nat) (f : Detour → Detour) : State := { s with dets := tset s.dets d (f (s.det d)) }

/-- The neighbour in a direction (R390). -/
def State.neighbour (s : State) (d : Nat) : Nat :=
  let a := dirAxis d
  let n := s.size a
  let c := coord s.self a
  withCoord s.self a (if d % 2 = 0 then (c + 1) % n else (c + n - 1) % n)

/-- A destination that the fabric cannot reach now (R398, R417, R418): no such package, the direction it needs has neither a port nor a
detour, or it is the neighbour that a bypass goes around. -/
def State.unreachable (s : State) (dst : Nat) : Bool :=
  if dst = s.self then false
  else s.noSuchPkg dst ||
    (match s.firstDir dst with
     | some d => !s.dirUp d && ((s.det d).st == .failed || ((s.det d).st == .force && (s.det d).byp && dst == s.neighbour d))
     | none => false)

/-! Pennants (R359, R360, R405). -/

/-- The pennant types of R360. -/
def tWRITE : Nat := 0
def tREAD : Nat := 1
def tRDATA : Nat := 2
def tATOMIC : Nat := 3
def tARESP : Nat := 4
def tWACK : Nat := 5
def tCHUNK : Nat := 6
def tVOTE : Nat := 7
def tHDATA : Nat := 8
def tHCRED : Nat := 9
def tMGMT : Nat := 10
def tRNAK : Nat := 11

/-- Sequence numbers after one (R405). -/
def nextEseq (v : Nat) : Nat := if v < 0xFFFF then v + 1 else 1
/-- The key of a flow. -/
def flowKey (pkg vc : Nat) : Nat := pkg * 8 + vc

/-- The pennant that a command gives field by field (R359). -/
def pnOf (h : PnHead) (eseq : BitVec 16) (a : BitVec 48) (payload : BitVec 512) : Pennant :=
  ⟨h.ver, h.typ, h.vc, h.poison, h.last, h.dtr, h.dst, h.src, h.ctx, h.len, h.hops, eseq, a, payload⟩
/-- The fields of a pennant that a command groups as its header. -/
def headOf (p : Pennant) : PnHead := ⟨p.ver, p.typ, p.vc, p.poison, p.last, p.dtr, p.dst, p.src, p.ctx, p.len, p.hops⟩
/-- The place and the payload of a pennant. -/
def partOf (p : Pennant) : PnPart := ⟨p.addr, p.payload⟩
/-- The number, the place and the payload of a pennant. -/
def tailOf (p : Pennant) : PnTail := ⟨p.eseq, p.addr, p.payload⟩
theorem pnOf_headOf (p : Pennant) : pnOf (headOf p) p.eseq p.addr p.payload = p := rfl

/-- 64 payload bytes from a list, missing ones 0 (R362). -/
def payloadOf (bytes : List Byte) : BitVec 512 := BitVec.ofNat 512 (leNat (bytes.take 64))
/-- The first `n` payload bytes. -/
def Pennant.bytes (p : Pennant) (n : Nat) : List Byte := leBytes n p.payload.toNat
/-- The 64 payload bytes as a receiver takes them: those beyond LEN are ignored, and count as 0 (R362; log 19, DESIGN CHOICE). -/
def Pennant.held (p : Pennant) : List Byte := (Pennant.bytes p (p.len.toNat + 1) ++ leBytes 64 0).take 64

/-- A pennant of this package for the routing plane; on VC2 to VC6 it takes the flow's next ESEQ, else the one given (R405). -/
def State.sendPen (s : State) (typ vc dst : Nat) (ctx : CtxId) (addr : Nat) (bytes : List Byte) (len : Nat) (last poison : Bool)
    (eseq : Nat) : State × Nat :=
  let flow := decide (2 ≤ vc) && decide (vc ≤ 6)
  let k := flowKey dst vc
  let q := if flow then tget 0 s.eseqTx k else eseq
  let pn : Pennant := ⟨2, BitVec.ofNat 4 typ, BitVec.ofNat 3 vc, poison, last, false, BitVec.ofNat 15 dst, BitVec.ofNat 15 s.self,
    BitVec.ofNat 6 ctx.val, BitVec.ofNat 6 len, 0, BitVec.ofNat 16 q, BitVec.ofNat 48 addr, payloadOf bytes⟩
  ({ s with rq := s.rq ++ [⟨pn, none, none, false⟩], eseqTx := if flow then tset s.eseqTx k (nextEseq q) else s.eseqTx }, q)

/-! Pennants delivered here (R406, R412). -/

/-- The receive slots with those at the front of a channel freed whose pennants have left: the slots kept, and the freed ones, reserved
and shared. -/
def freeVc (vc : Nat) : List RxSlot → List RxSlot × Nat × Nat
  | [] => ([], 0, 0)
  | r :: t =>
    if r.vc == vc then
      if r.left then
        let x := freeVc vc t
        if r.pool then (x.1, x.2.1, x.2.2 + 1) else (x.1, x.2.1 + 1, x.2.2)
      else (r :: t, 0, 0)
    else
      let x := freeVc vc t
      (r :: x.1, x.2.1, x.2.2)

/-- An entry of a list of eight counts raised. -/
def bump8 (l : List Nat) (i n : Nat) : List Nat := l.set i (l.getD i 0 + n)

/-- The pennant in a receive slot has left: slots are freed in order and their credits will be returned (R412). -/
def State.leaveRx (s : State) (o : Nat × Nat) : State :=
  s.modFport o.1 fun p =>
    match p.rx.find? fun r => r.id == o.2 with
    | some r =>
      let mark (x : RxSlot) : RxSlot := { x with left := true }
      let x := freeVc r.vc (updWhere (fun x => x.id == o.2) mark p.rx)
      { p with rx := x.1, freedRes := bump8 p.freedRes r.vc x.2.1, freedPool := p.freedPool + x.2.2 }
    | none => p

/-- A pennant delivered at this package has been taken by its unit. -/
def State.takeIn (s : State) (pn : Pennant) : State :=
  match takeFirst (fun x : RIn => x.pn == pn) s.inbox with
  | some (x, rest) =>
    let s1 := { s with inbox := rest }
    (match x.origin with | some o => s1.leaveRx o | none => s1)
  | none => s

/-- A record at the routing plane (R398, R406; its detector code is log 18, PRESUMED). -/
def State.routeRecord (s : State) : State := (s.openRecord (mkDet 0x0E (mkUnit 8 4 0 5 0xFFFF) none 0 0 0 0 0 0 0) false).1

/-- The check of a sequence number: the state, and whether the pennant is accepted (R406). -/
def State.eseqIn (s : State) (p : Pennant) : State × Bool :=
  let k := flowKey p.src.toNat p.vc.toNat
  let q := p.eseq.toNat
  let acc (s : State) (r : Bool) : State × Bool := ({ s with eseqRx := tset s.eseqRx k (nextEseq q, r) }, true)
  let dup : State × Bool := (s.bump ROUTE_STS.off ROUTE_STS.DUP 1, false)
  match tget? s.eseqRx k with
  | none => acc s (q == 0)
  | some (e, r) =>
    if q = 0 then (if r then dup else acc s true)
    else
      let d := (q + 65535 - e) % 65535
      if d = 0 then acc s false
      else if d < 32768 then acc ((s.bump ROUTE_STS.off ROUTE_STS.GAP 1).routeRecord) false
      else dup

/-- A pennant for a unit: taken, and acted on when its sequence number is accepted. -/
def State.takeSeq (s : State) (p : Pennant) (f : State → State) : State :=
  let x := (s.takeIn p).eseqIn p
  if x.2 then f x.1 else x.1

/-- The link die of the port on which a delivered pennant arrived. -/
def State.arrDie (s : State) (pn : Pennant) : Nat :=
  match s.inbox.find? fun x => x.pn == pn with
  | some x => (match x.origin with | some o => o.1 / 4 | none => 0)
  | none => 0

/-- A message whose wire format the spec does not give, sent to another package. -/
def State.sendMsg (s : State) (m : NetMsg) : State := { s with netOut := s.netOut ++ [m] }

end Sys2Proof.Machine
end

