-- ==== Sys2Proof/Machine/Phase.lean ====
section
/-! DEFINITION. Phase timers (19_counters_and_telemetry.md R643 to R646). -/

namespace Sys2Proof.Machine

/-- A phase starts on a timer that is not open (R644). -/
def State.openPhase (s : State) (i : Nat) : State :=
  if s.bit (PHT_STS.off i) PHT_STS.OPEN then s
  else ((s.csrSet (PHT_START.off i) (BitVec.ofNat 64 s.time)).setFld (PHT_STS.off i) PHT_STS.OPEN 1).setFld (PHT_STS.off i) PHT_STS.MARKS 0

/-- The open phase of a timer closes: END, the total and the count, both saturating (R644). -/
def State.closePhase (s : State) (i : Nat) : State :=
  let start := (s.csrGet (PHT_START.off i)).toNat
  let s1 := (s.csrSet (PHT_END.off i) (BitVec.ofNat 64 s.time)).bump (PHT_SUM.off i) PHT_SUM.NS (s.time - start)
  ((s1.bump (PHT_STS.off i) PHT_STS.COUNT 1).setFld (PHT_STS.off i) PHT_STS.OPEN 0)

/-- A start mark on a timer, which notes when it came (R644, R645). -/
def State.startMark (s : State) (i : Nat) : State := { s.openPhase i with phMark := tset s.phMark i s.time }

/-- A start mark of this moment has reached a timer. -/
def State.markedNow (s : State) (i : Nat) : Bool := tget? s.phMark i == some s.time

/-- An end mark on a timer: the phase closes at NEND marks, 0 acting as 1 (R643, R644). Of the marks of one moment the end marks come first: none
reaches the phase that a start mark opened, and a start mark opens the next phase once they have closed one (R645; log 76, DEDUCED). -/
def State.endMark (s : State) (i : Nat) : State :=
  if s.bit (PHT_STS.off i) PHT_STS.OPEN && !(s.markedNow i && (s.csrGet (PHT_START.off i)).toNat == s.time) then
    let m := s.fld (PHT_STS.off i) PHT_STS.MARKS + 1
    let s1 := s.setFld (PHT_STS.off i) PHT_STS.MARKS m
    if max 1 (s.fld (PHT_CFG.off i) PHT_CFG.NEND) ≤ m then
      let s2 := s1.closePhase i
      if s.markedNow i then s2.openPhase i else s2
    else s1
  else s

/-- The timers that marks of a context with a tag reach (R644). -/
def State.markedBy (s : State) (n tag : Nat) : List Nat :=
  (List.range 32).filter fun i =>
    let o := PHT_CFG.off i
    s.bit o PHT_CFG.EN && !s.bit o PHT_CFG.AUTO && s.fld o PHT_CFG.CTX == n && s.fld o PHT_CFG.TAG == tag

/-- The timers that hardware marks for a context; AUTO is valid only with TAG 3 (R643, R646). -/
def State.autoTimers (s : State) (n : Nat) : List Nat :=
  (List.range 32).filter fun i =>
    let o := PHT_CFG.off i
    s.bit o PHT_CFG.EN && s.bit o PHT_CFG.AUTO && s.fld o PHT_CFG.CTX == n && s.fld o PHT_CFG.TAG == 3

/-- The result of an APPLY step starts the hardware timers of its context (R646). -/
def State.autoStart (s : State) (n st : Nat) : State :=
  (s.autoTimers n).foldl (fun s i =>
    if s.bit (PHT_STS.off i) PHT_STS.OPEN then s else { s.openPhase i with autoStep := tset s.autoStep i st }) s

/-- EVL of the step ends them (R646). -/
def State.autoEnd (s : State) (n st : Nat) : State :=
  (s.autoTimers n).foldl (fun s i =>
    if s.bit (PHT_STS.off i) PHT_STS.OPEN && tget? s.autoStep i == some st then s.closePhase i else s) s

end Sys2Proof.Machine
end

