-- ==== Sys2Proof/Machine/Bounds.lean ====
section
/-! DEFINITION. The bounds that the spec sets on values it does not fix: the accuracy of the activations (06_vector_engine.md R205) and of
the learning-rate forms (08_update_unit.md R297, R298). The exact expression is computed in fixed point with 256 fraction bits, far below
every unit in the last place that the bounds are stated in. (log 7, DESIGN CHOICE) -/

namespace Sys2Proof.Machine

/-- 1 in fixed point. -/
def fx1 : Int := 2 ^ 256
/-- An exact value in fixed point, cut to 256 fraction bits. -/
def fxOf (x : Ex) : Int :=
  let n : Int := if x.neg then -(x.num : Int) else x.num
  let sh := x.e + 256
  if 0 ≤ sh then n * 2 ^ sh.toNat / x.den else n / (x.den * 2 ^ (-sh).toNat : Nat)
/-- A quotient of naturals in fixed point. -/
def fxRat (p q : Nat) : Int := p * fx1 / q
/-- Product in fixed point. -/
def fxMul (a b : Int) : Int := a * b / fx1
/-- Quotient in fixed point. -/
def fxDiv (a b : Int) : Int := a * fx1 / b
/-- A fixed-point value as an exact value. -/
def fxEx (c : Int) : Ex := ⟨c < 0, c.natAbs, 1, -256⟩

/-- The sum of a series from its term `t` on: each next term is the term before it times `a / f k`. -/
def fxSeries (a : Int) (f : Nat → Int) : Nat → Nat → Int → Int
  | 0, _, _ => 0
  | fuel + 1, k, t => t + fxSeries a f fuel (k + 1) (fxMul t a / f k)

/-- The sum of `t / (2 k + 1)`, each next `t` the one before it times `z2`. -/
def fxOdd (z2 : Int) : Nat → Nat → Int → Int
  | 0, _, _ => 0
  | fuel + 1, k, t => t / (2 * k + 1 : Nat) + fxOdd z2 fuel (k + 1) (fxMul t z2)

/-- The inverse hyperbolic tangent of `z`, at most 1/3. -/
def fxAtanh (z : Int) : Int := fxOdd (fxMul z z) 90 0 z
/-- The inverse tangent of `1 / n`, for `n` from 5 on. -/
def fxAtanInv (n : Nat) : Int := fxOdd (-fxRat 1 (n * n)) 60 0 (fxRat 1 n)
/-- ln 2. -/
def fxLn2 : Int := 2 * fxAtanh (fxRat 1 3)
/-- π. -/
def fxPi : Int := 16 * fxAtanInv 5 - 4 * fxAtanInv 239

/-- e^x; below -256 it is 0 in fixed point, and above 256 the value at 256 stands, both far outside the range of FP32. -/
def fxExp (x0 : Int) : Int :=
  let x := min x0 (256 * fx1)
  if x < -(256 * fx1) then 0
  else
    let k := x / fxLn2
    let y := fxSeries (x - k * fxLn2) (fun i => (i + 1 : Nat)) 70 0 fx1
    if 0 ≤ k then y * 2 ^ k.toNat else y / 2 ^ (-k).toNat

/-- ln of a positive value `num / den × 2 ^ e`. -/
def fxLog (x : Ex) : Int :=
  let l := floorLog2 x.num x.den
  let m := fxOf ⟨false, x.num, x.den, -l⟩
  (l + x.e) * fxLn2 + 2 * fxAtanh (fxDiv (m - fx1) (m + fx1))
/-- ln of a positive fixed-point value. -/
def fxLn (c : Int) : Int := fxLog (fxEx c)

/-- The square root of `n`, its bits decided from the top. -/
def isqrt (n : Nat) : Nat → Nat → Nat
  | 0, r => r
  | fuel + 1, r =>
    let t := r + 2 ^ fuel
    isqrt n fuel (if t * t ≤ n then t else r)
/-- √ of a fixed-point value that is not negative, below 2^256. -/
def fxSqrt (c : Int) : Int := isqrt (c.toNat * 2 ^ 256) 384 0

/-- cos of a value from 0 to π. -/
def fxCos (x : Int) : Int := fxSeries (-fxMul x x) (fun i => ((2 * i + 1) * (2 * i + 2) : Nat)) 60 0 fx1

/-- 1 / (1 + e^−x). -/
def fxSigmoid (x : Int) : Int := if x < 0 then (let t := fxExp x; fxDiv t (fx1 + t)) else fxDiv fx1 (fx1 + fxExp (-x))
/-- tanh x. -/
def fxTanh (x : Int) : Int :=
  let t := fxExp (-(2 * (x.natAbs : Int)))
  let y := fxDiv (fx1 - t) (fx1 + t)
  if x < 0 then -y else y
/-- The distribution function of the normal law, (1 + erf(x/√2)) / 2, by its series in odd double factorials; beyond ±12 it is 0 or 1 to
2^−100. -/
def fxPhi (x : Int) : Int :=
  if x < -(12 * fx1) then 0
  else if 12 * fx1 < x then fx1
  else
    let s := fxSeries (fxMul x x) (fun i => (2 * i + 3 : Nat)) 400 0 x
    fx1 / 2 + fxDiv (fxMul (fxExp (-(fxMul x x / 2))) s) (fxSqrt (2 * fxPi))

/-- The exact result of an activation that R205 bounds, at a finite input. -/
def actFx (act : Nat) (v : Ex) : Int :=
  let x := fxOf v
  match act with
  | 0x3 => fxMul x (fxPhi x)
  | 0x4 => fxMul x (fxSigmoid (2 * fxMul (fxRat 7978845608 10000000000) (x + fxMul (fxRat 44715 1000000) (fxMul x (fxMul x x)))))
  | 0x5 => fxMul x (fxSigmoid x)
  | 0x6 => fxSigmoid x
  | 0x7 => fxTanh x
  | 0x8 => fxExp x
  | 0x9 => fxLog v
  | 0xB => let r := fxLog v; fxExp (-(r / 2))
  | _ => if x < 0 then fxLn (fx1 + fxExp x) else x + fxLn (fx1 + fxExp (-x))

/-- One unit in the last place of an FP32 result of this magnitude, a subnormal one being 2^−149 (R205). -/
def ulpFx (c : Int) : Int :=
  let l := if c = 0 then -126 else max ((Nat.log2 c.natAbs : Int) - 256) (-126)
  2 ^ (l - 23 + 256).toNat

/-- An FP32 value lies within `k` units in the last place, or within 2^−24 where that bound is larger and holds, of the exact `c`. The
fixed-point error is given in: a 2^−60 of the value and 2^−180. An infinity stands for a result past the FP32 range. -/
def withinFx (v : Elem) (c : Int) (k : Nat) (abs24 : Bool) : Bool :=
  let slack : Int := (c.natAbs : Int) / 2 ^ 60 + 2 ^ 76
  let near := k * ulpFx ((c.natAbs : Int) + slack) + slack
  let tol := if abs24 then max near (2 ^ 232 + slack) else near
  match decodeFv fmtF32 v.toNat with
  | .nan => false
  | .inf neg => decide (2 ^ 384 ≤ (c.natAbs : Int) + tol) && neg == decide (c < 0)
  | .fin y => decide (((fxOf y - c).natAbs : Int) ≤ tol)

/-- The exact value rounded once. -/
def rndFx (c : Int) : Elem := BitVec.ofNat 32 (convertFv fmtF32 .rne false (.fin (fxEx c))).code

/-- A free value that lies within its bound stands; any other is replaced by the exact result rounded once, which does. -/
def boundFx (v : Elem) (c : Int) (k : Nat) (abs24 : Bool) : Elem := if withinFx v c k abs24 then v else rndFx c

/-- The units in the last place that R205 allows an activation. -/
def actUlps (act : Nat) : Nat := if act = 3 ∨ act = 4 ∨ act = 5 ∨ act = 0xD then 4 else 2
/-- The activations for which 2^−24 absolute is enough as well (R205). -/
def actAbs (act : Nat) : Bool := act == 3 || act == 4 || act == 5

/-- An activation that R205 bounds, at a finite input: a function of the input that is free within the bound (R205, R207). -/
def actFree (act : Nat) (x : Elem) (v : Ex) : Elem := boundFx (Config.act act x) (actFx act v) (actUlps act) (actAbs act)

/-- The exact learning rate of a form at `n` earlier steps, for a finite PEAK and END (R297). -/
def rateFx (form : Nat) (peak fin : Ex) (w t n : Nat) : Int :=
  let p := fxOf peak
  let q := fxOf fin
  let f : Int := if t ≤ w ∨ t - w ≤ n - w then fx1 else fxRat (n - w) (t - w)
  if form = 0 then p
  else if n < w then p * (n + 1 : Nat) / (w : Nat)
  else if form = 1 then q + fxMul (p - q) ((fx1 + fxCos (fxMul fxPi f)) / 2)
  else if form = 2 then p + fxMul (q - p) f
  else fxMul p (fxSqrt (fxRat w (n + 1)))

/-- The learning rate of forms 0x0 to 0x3: free within 1 ULP of the exact expression; where PEAK or END is not finite the spec states no
bound (R298). -/
def learnRate (form : Nat) (peak fin : Elem) (w t n : Nat) : Elem :=
  let v := Config.learnRate form peak fin w t n
  match decodeFv fmtF32 peak.toNat, decodeFv fmtF32 fin.toNat with
  | .fin p, .fin q => boundFx v (rateFx form p q w t n) 1 false
  | _, _ => v

end Sys2Proof.Machine
end

