-- ==== Sys2Proof/Machine/VecMath.lean ====
section
/-! DEFINITION. The arithmetic of the vector engine: activations (06_vector_engine.md R205 to R207), reductions (R209 to R214) and
the counter-based generator (R224). -/

namespace Sys2Proof.Machine

/-- √x correctly rounded (R205). -/
def sqrt32 (x : Ex) : Elem :=
  if x.num = 0 then rnd32 .rne x
  else
    let odd := x.e % 2 = 1
    let n := (if odd then 2 * x.num else x.num) * 2 ^ 80
    let e := (if odd then x.e - 1 else x.e) / 2 - 40
    let r := isqrt n 80 0
    if r * r = n then rnd32 .rne ⟨false, r, 1, e⟩ else rnd32 .rne ⟨false, 2 * r + 1, 1, e - 1⟩

/-- The activation `act` of an FP32 value with parameter α; the flag is NAN_GEN (R205, R206). -/
def actFn (act : Nat) (alpha x : Elem) : Res32 :=
  match f32 x with
  | .nan => (nan32, false)
  | .inf neg =>
    match act with
    | 0x0 => (x, false)
    | 0x1 => (if neg then 0 else x, false)
    | 0x2 => if neg then mul32 alpha x else (x, false)
    | 0x3 => (if neg then 0x80000000 else x, false)
    | 0x4 => (if neg then 0x80000000 else x, false)
    | 0x5 => (if neg then 0x80000000 else x, false)
    | 0x6 => (if neg then 0 else one32, false)
    | 0x7 => (if neg then 0xBF800000 else one32, false)
    | 0x8 => (if neg then 0 else x, false)
    | 0x9 => if neg then (nan32, true) else (x, false)
    | 0xA => (if neg then 0x80000000 else 0, false)
    | 0xB => if neg then (nan32, true) else (0, false)
    | 0xC => if neg then (nan32, true) else (x, false)
    | 0xD => (if neg then 0 else x, false)
    | _ => (min32 (max32 x (alpha ||| 0x80000000)) (alpha &&& 0x7FFFFFFF), false)
  | .fin v =>
    match act with
    | 0x0 => (x, false)
    | 0x1 => (if v.num = 0 ∨ v.neg then 0 else x, false)
    | 0x2 => if v.num = 0 ∨ !v.neg then (x, false) else mul32 alpha x
    | 0x9 => if v.num = 0 then (0xFF800000, false) else if v.neg then (nan32, true) else (actFree 0x9 x v, false)
    | 0xA => if v.num = 0 then (inf32 v.neg, false) else (rnd32 .rne (Ex.div (Ex.ofNat 1 0) v), false)
    | 0xB => if v.num = 0 then (inf32 v.neg, false) else if v.neg then (nan32, true) else (actFree 0xB x v, false)
    | 0xC => if v.num = 0 then (x, false) else if v.neg then (nan32, true) else (sqrt32 v, false)
    | 0xE => (min32 (max32 x (alpha ||| 0x80000000)) (alpha &&& 0x7FFFFFFF), false)
    | a => (actFree a x v, false)

/-! Reductions. -/

/-- The state of a line: value, second word, count, and whether a NaN was made from no NaN on the way (R209). -/
structure RedSt where
  v   : Elem
  aux : Elem
  cnt : Nat
  nan : Bool
deriving DecidableEq, Repr

/-- The leaf of an element at a position (R211). -/
def redLeaf (red : Nat) (x : Elem) (pos : Nat) : RedSt :=
  match red with
  | 1 => let (p, n) := mul32 x x; ⟨p, 0, 1, n⟩
  | 3 => ⟨x, BitVec.ofNat 32 pos, 1, false⟩
  | 4 => ⟨x, BitVec.ofNat 32 pos, 1, false⟩
  | _ => ⟨x, 0, 1, false⟩

/-- `b` replaces `a` under the order of R133, NaNs giving way (R211). -/
def redWins (max : Bool) (a b : Elem) : Bool :=
  match f32 a, f32 b with
  | .nan, .nan => false
  | .nan, _ => true
  | _, .nan => false
  | x, y => if max then ltTotal x y else ltTotal y x

/-- The combination of two states (R211, R212). -/
def redCombine (red : Nat) (a b : RedSt) : RedSt :=
  if a.cnt = 0 then b
  else if b.cnt = 0 then a
  else
    let n := a.cnt + b.cnt
    let g := a.nan || b.nan
    match red with
    | 2 => let (p, m) := mul32 a.v b.v; ⟨p, 0, n, g || m⟩
    | 3 => let w := if redWins true a.v b.v then b else a; ⟨w.v, w.aux, n, g⟩
    | 4 => let w := if redWins false a.v b.v then b else a; ⟨w.v, w.aux, n, g⟩
    | 5 =>
      let rat (p q : Nat) : Elem := rnd32 .rne ⟨false, p, q, 0⟩
      let (d, f1) := sub32 b.v a.v
      let (m, f2) := fma32 d (rat b.cnt n) a.v
      let c := rat (a.cnt * b.cnt) n
      let (qs, f3) := add32 a.aux b.aux
      let (dd, f4) := mul32 d d
      let (q, f5) := fma32 dd c qs
      ⟨m, q, n, g || f1 || f2 || f3 || f4 || f5⟩
    | _ => let (t, m) := add32 a.v b.v; ⟨t, 0, n, g || m⟩

/-- The fixed tree of R210 over `2 ^ d` leaves from `lo`. -/
def redTree (red : Nat) (leaf : Nat → RedSt) : Nat → Nat → RedSt
  | 0, lo => leaf lo
  | d + 1, lo => redCombine red (redTree red leaf d lo) (redTree red leaf d (lo + 2 ^ d))

/-- An absorbed leaf. -/
def redNone : RedSt := ⟨0, 0, 0, false⟩

/-- The four state words of a line; a NaN is written canonical (R41, R209, R213, R214). The NaN of an empty meanvar line is the state that R213
prescribes and raises EMPTY, not NAN_GEN. (log 68, DESIGN CHOICE) -/
def redWords (red : Nat) (s : RedSt) : List Elem :=
  if s.cnt = 0 then
    match red with
    | 2 => [one32, 0, 0, 1]
    | 3 => [0xFF800000, 0xFFFFFFFF, 0, 1]
    | 4 => [0x7F800000, 0xFFFFFFFF, 0, 1]
    | 5 => [nan32, nan32, 0, 1]
    | _ => [0, 0, 0, 1]
  else
    let canon (w : Elem) : Elem := if isNan32 w then nan32 else w
    [canon s.v, if red = 5 then canon s.aux else s.aux, BitVec.ofNat 32 (satAdd s.cnt 0 0xFFFFFFFF), 0]

/-! The counter-based generator (R224). -/

/-- One round of the generator on (x, y) with round key `k`. -/
def genRound (k : Elem) (st : Elem × Elem) : Elem × Elem :=
  let u := st.2 + k
  let f := (u + u.rotateLeft 12) ^^^ u.rotateLeft 20
  (st.2, st.1 ^^^ f)

/-- The draw of an index and a tag under a seed and a step (R224). -/
def genDraw (seed : Word) (step tag : Nat) (i : Nat) : Nat :=
  let k : List Elem := [seed.setWidth 32, (seed >>> 32).setWidth 32, BitVec.ofNat 32 step,
    BitVec.ofNat 32 (put (tag % 65536) 16 + step / 2 ^ 32 % 65536)]
  let key (r : Nat) : Elem := k.getD (r % 4) 0 ^^^ BitVec.ofNat 32 (0x9E3779B9 * (r + 1))
  let c := i % 2 ^ 64 / 4
  let st := (List.range 6).foldl (fun st r => genRound (key r) st) (BitVec.ofNat 32 (c / 2 ^ 32), BitVec.ofNat 32 c)
  let w := st.1.toNat * 2 ^ 32 + st.2.toNat
  w / 2 ^ (16 * (i % 4)) % 65536

end Sys2Proof.Machine
end

