-- ==== Sys2Proof/Machine/Update.lean ====
section
/-! DEFINITION. Update units: staging, the gate, applies, working copies, block commands and step states (08_update_unit.md R274 to
R314), with the version rules that protect slots (09_stages_sequences_versions.md R328 to R333). -/

namespace Sys2Proof.Machine

/-! Staging (R280 to R285). -/

/-- A write to UPD_STAGE: ignored unless no user context runs and no stream is in use (R238, R281). -/
def State.writeStage (s : State) (u : Nat) (sz : CsrSize) (v : Word) : State :=
  let o := UPD_STAGE.off u
  if s.ilvFree then
    let w := mergeSz (s.csrGet o) sz v
    [UPD_STAGE.EN, UPD_STAGE.SIZE, UPD_STAGE.OFF].foldl (fun s f => s.setFld o f (getFld w f)) s
  else s
def execUpdStageWrite (u : Fin 12) (sz : CsrSize) (v : Word) (s : State) : Out := .next (s.writeStage u.val sz v)

/-- Staging of a unit that a number of KiB more would occupy. -/
def State.stageUsed (s : State) (u : Nat) : Nat := s.fld (UPD_STAGE_USE.off u) UPD_STAGE_USE.USED
/-- USED of a unit set, PEAK raised with it (R284, R285). -/
def State.setUsed (s : State) (u v : Nat) : State :=
  let s1 := s.setFld (UPD_STAGE_USE.off u) UPD_STAGE_USE.USED v
  if s1.fld (UPD_STAGE_USE.off u) UPD_STAGE_USE.PEAK < v then s1.setFld (UPD_STAGE_USE.off u) UPD_STAGE_USE.PEAK v else s1

/-- KiB of a staged chunk: 1,024 FP32 elements. -/
def chunkKib : Nat := 4

/-- Chunks that meet a test leave staging (R283). -/
def State.releaseChunks (s : State) (p : Chunk → Bool) : State :=
  let s1 := (s.staged.filter p).foldl (fun s c => s.setUsed c.unit (s.stageUsed c.unit - chunkKib)) s
  { s1 with staged := s1.staged.filter fun c => !p c }

/-! Step states (R286 to R290). -/

/-- The highest committed step (R289). -/
def State.cmtStep (s : State) (n : Nat) : Nat := s.fld (CTX_STEP_CMT.off n) CTX_STEP_CMT.STEP
def State.stepRec? (s : State) (n : CtxId) (st : Nat) : Option StepRec := s.steps.find? fun r => r.ctx == n && r.step == st
/-- The state code of a step, 0 when NONE. -/
def State.stepSt (s : State) (n : CtxId) (st : Nat) : Nat := match s.stepRec? n st with | some r => r.st | none => 0

/-- NEXT and STEP_APL brought up to the step table (R289): the highest step such that it and every lower one is APPLIED or SKIPPED. (log 38, DEDUCED) -/
def State.aplFrom (s : State) (n : CtxId) : Nat → Nat → Nat
  | 0, k => k
  | fuel + 1, k => if s.stepSt n (k + 1) = 4 ∨ s.stepSt n (k + 1) = 5 then s.aplFrom n fuel (k + 1) else k

/-- STEP_APL brought up to the step table. (log 38, DEDUCED) -/
def State.syncApl (s : State) (n : CtxId) : State :=
  let k := s.fld (CTX_STEP_APL.off n.val) CTX_STEP_APL.STEP
  s.setFld (CTX_STEP_APL.off n.val) CTX_STEP_APL.STEP (s.aplFrom n s.steps.length k)

/-- NEXT is the state code of the step after the highest committed one (R289). -/
def State.syncNext (s : State) (n : CtxId) : State :=
  s.setFld (CTX_STEP_CMT.off n.val) CTX_STEP_CMT.NEXT (s.stepSt n (s.cmtStep n.val + 1))

/-- The state of a step set; NEXT follows that of the step after the highest committed one, and else stays, as a hatch leaves it 0 (R289). -/
def State.setStep (s : State) (n : CtxId) (st code : Nat) : State :=
  let s1 := match s.stepRec? n st with
    | some _ => { s with steps := updWhere (fun r => r.ctx == n && r.step == st) (fun r => { r with st := code }) s.steps }
    | none => { s with steps := s.steps ++ [StepRec.mk n st code one32 0 0 []] }
  (if st = s1.cmtStep n.val + 1 then s1.syncNext n else s1).syncApl n

/-- A step opens with its first accepted chunk or with its col.cmt (R286, R462); none opens above 2^48 - 1 (R290). -/
def State.openStep (s : State) (n : CtxId) (st : Nat) : State :=
  let c := s.stepSt n st
  if (c = 0 ∨ c = 6 ∨ c = 7) ∧ s.cmtStep n.val < st ∧ st < 2 ^ 48 then s.setStep n st 1 else s

/-- A STEP event record (R494): word 3 the step, word 4 G or the block, word 5 the reason of a skip. -/
def State.postStep (s : State) (n : CtxId) (info st w4 w5 : Nat) : State :=
  s.postCtx n.val 0x03 info 0 [BitVec.ofNat 64 st, BitVec.ofNat 64 w4, BitVec.ofNat 64 w5]

/-- A step is POISONED, and with it every higher step that is not committed (R288, R311). -/
def State.poisonStep (s : State) (n : CtxId) (st : Nat) : State :=
  let hit (r : StepRec) : Bool := r.ctx == n && decide (st ≤ r.step) && (r.st == 1 || r.st == 2)
  let s0 := if s.stepSt n st = 0 then s.setStep n st 1 else s
  let c := (s0.steps.filter hit).length
  let s1 := { s0 with steps := updWhere hit (fun r => { r with st := 6 }) s0.steps }
  let s2 := s1.releaseChunks fun k => k.ctx == n && decide (st ≤ k.step) && s.stepSt n k.step != 3
  let s3 := s2.bump (CTX_UPD_STS.off n.val) CTX_UPD_STS.POISON_COUNT c
  (if st ≤ s3.cmtStep n.val + 1 then s3.syncNext n else s3).postStep n 1 st 0 0

/-! Descriptors and sets (R274 to R277). -/

def State.tblBase (s : State) (n : Nat) : Nat := s.fld (CTX_UPD_TBL.off n) CTX_UPD_TBL.BASE * 4096
/-- Word `w` of the descriptor of a block. -/
def State.bdw (s : State) (n b w : Nat) : Word := BitVec.ofNat 64 (s.readNat (s.tblBase n + 0x800 + b * 0x80 + 8 * w) 8)
/-- Word `w` of a hyperparameter set. -/
def State.hpw (s : State) (n h w : Nat) : Word := BitVec.ofNat 64 (s.readNat (s.tblBase n + h * 0x80 + 8 * w) 8)
/-- The lower FP32 field of a word. -/
def loE (w : Word) : Elem := w.setWidth 32
/-- The upper FP32 field of a word. -/
def hiE (w : Word) : Elem := (w >>> 32).setWidth 32
/-- Word `i` of the descriptor that an apply read at its start (R279). -/
def ApplyK.dw (k : ApplyK) (i : Nat) : Word := k.desc.getD i 0
/-- Word `i` of the hyperparameter set that an apply read at its start (R279). -/
def ApplyK.hw (k : ApplyK) (i : Nat) : Word := k.hp.getD i 0
/-- Set number, LAG, version slots, WFMT, WRND of descriptor word 0. -/
def dSet (w : Word) : Nat := w.fld 48 4
def dLag (w : Word) : Nat := w.fld 52 2
def dNver (w : Word) : Nat := 2 ^ w.fld 54 2
def dWfmt (w : Word) : Nat := w.fld 56 4
def dWrnd (w : Word) : Bool := w.flag 60

/-- A range whole in backed memory that the context reaches, no limit on particular ranges against it (R269, R272, R277, R281, R377, R509,
R573). (log 39, DESIGN CHOICE) -/
def State.blockReach (s : State) (n a len : Nat) (wr : Bool) : Bool :=
  oneRange a len && !s.rangeGone a len && s.reaches n a len wr && !(wr && s.pinForbids none true a len) &&
    !s.inStaging a len && !s.inLongHaul a len && ((s.buddiesAt a len).isEmpty || (n == 0 && !wr))

/-- Such a range in HBM, or in HBM or the near tier, where the update units write (R276, R277). -/
def State.blockRange (s : State) (n a len : Nat) (hbm wr : Bool) : Bool :=
  (tierOf a == .hbm || (!hbm && tierOf a == .near)) && s.blockReach n a len wr

/-- Reads of the package controller that meet poisoned data open their records; the numbers go on as they are stored (R241; log 39, DESIGN CHOICE). -/
def State.readRecs (s : State) (n : CtxId) (rs : List (Nat × Nat)) : State :=
  (rs.filterMap fun r => s.badByte r.1 r.2).foldl (fun s a => s.poisonRecord a (some n)) s

/-- The bytes of a block's descriptor, and of the hyperparameter set that it names (R274, R279). -/
def State.blockWords (s : State) (n b : Nat) : List (Nat × Nat) :=
  [(s.tblBase n + 0x800 + b * 0x80, 128), (s.tblBase n + dSet (s.bdw n b 0) * 0x80, 128)]

/-- The entry of a table of learning rates that a step reads (R297). -/
def State.rateEntry (s : State) (n h st : Nat) : Nat :=
  (s.hpw n h 8).fld 0 48 + 4 * min (st - 1) ((s.hpw n h 8).fld 48 12)

/-- What the package controller reads at the start of an apply of a block (R279, R297). -/
def State.applyReads (s : State) (n b st : Nat) : List (Nat × Nat) :=
  let h := dSet (s.bdw n b 0)
  s.blockWords n b ++ if (s.hpw n h 0).fld 4 4 = 4 then [(s.rateEntry n h st, 4)] else []

/-- A table of learning rates in backed memory that the context reaches (R298). -/
def State.tableRange (s : State) (n a len : Nat) : Bool :=
  (match tierOf a with
   | .hbm => true
   | .near => true
   | .cluster _ _ => true
   | .scratch _ _ _ => true
   | _ => false) && s.blockReach n a len false

/-- KEEP and TAG of a context (R327). -/
def State.keepOf (s : State) (n : Nat) : Nat := s.fld (CTX_VTAG.off n) CTX_VTAG.KEEP
def State.tagOf (s : State) (n : Nat) : Nat := s.fld (CTX_VTAG.off n) CTX_VTAG.TAG

/-- The descriptor of a block is usable (R277, R297, R298, R300, R333). -/
def State.usable (s : State) (n b : Nat) : Bool :=
  let w0 := s.bdw n b 0
  let master := w0.fld 0 48
  let m1 := (s.bdw n b 1).fld 0 48
  let m2 := (s.bdw n b 2).fld 0 48
  let work := (s.bdw n b 3).fld 0 48
  let stride := (s.bdw n b 4).fld 0 48
  let cnt := (s.bdw n b 5).fld 0 32
  let h0 := s.hpw n (dSet w0) 0
  let opt := h0.fld 0 4
  let adam := opt == 2
  let sched := h0.fld 4 4
  let sz := typeBits (dWfmt w0) / 8
  let nver := dNver w0
  let stackOk (i : Nat) : Bool :=
    let m := (s.hbmPlace (master + 4096 * i)).1
    !s.shut.contains (unitUpd m) && (s.hbmPlace (m1 + 4096 * i)).1 == m && (!adam || (s.hbmPlace (m2 + 4096 * i)).1 == m)
  w0.flag 63 && master % 4096 == 0 && m1 % 4096 == 0 && (!adam || m2 % 4096 == 0) &&
    s.blockRange n master (4 * cnt) true true && s.blockRange n m1 (4 * cnt) true true &&
    (!adam || s.blockRange n m2 (4 * cnt) true true) &&
    ((List.range nver).all fun j => s.blockRange n (work + j * stride) (sz * cnt) false true) &&
    ((List.range (cnt / 1024)).all stackOk) && decide (dWfmt w0 ≤ 4) && !(dWrnd w0 && dWfmt w0 == 0) &&
    decide (opt ≤ 3) && decide (sched ≤ 4) &&
    (sched != 4 || s.tableRange n ((s.hpw n (dSet w0) 8).fld 0 48) (4 * ((s.hpw n (dSet w0) 8).fld 48 12 + 1))) &&
    !(decide (1 < nver) && decide (nver < s.keepOf n + dLag w0 + 1))

/-! Versions (R330 to R332). -/

/-- The version that a tag names (R330); none while it is not yet published. -/
def named (t lag ver tb : Nat) : Option Nat :=
  let target := (t + 256 - lag) % 256
  let a := (ver + 256 - target) % 256
  if 128 ≤ a then none else if tb < a then some ((ver + 256 - tb % 256) % 256) else some target

/-- Some hold names an owner's tag (R334). -/
def State.tagHeld (s : State) (n : CtxId) (t : Nat) : Bool := s.vholds.any fun h => h.owner == n && h.tag == t

/-- The slot that the next version of a block goes to still holds a protected version (R304, R331, R332). -/
def State.slotProtected (s : State) (n : CtxId) (b : Nat) : Bool :=
  let w0 := s.bdw n.val b 0
  let nver := dNver w0
  let ver := (s.bdw n.val b 8).fld 48 8
  let tb := (s.bdw n.val b 9).fld 0 48
  let old := (ver + 1 + 256 - nver) % 256
  let tag := s.tagOf n.val
  let names (t : Nat) : Bool := named t (dLag w0) ver tb == some old
  decide (1 < nver) && decide (nver - 1 < min nver (tb + 1)) &&
    (((List.range (s.keepOf n.val)).any fun i => names ((tag + 256 - i) % 256)) ||
      (List.range 256).any fun t => s.tagHeld n t && names t)

/-! The gate (R291 to R296). -/

/-- FP32 values that carry along whether an operation on the way made a NaN from none (R62). -/
abbrev FlagE := Elem × Bool
/-- An operand. -/
def opE (a : Elem) : FlagE := (a, false)
def mulE (a b : FlagE) : FlagE := let r := mul32 a.1 b.1; (r.1, a.2 || b.2 || r.2)
def addE (a b : FlagE) : FlagE := let r := add32 a.1 b.1; (r.1, a.2 || b.2 || r.2)
def subE (a b : FlagE) : FlagE := let r := sub32 a.1 b.1; (r.1, a.2 || b.2 || r.2)
def divE (a b : FlagE) : FlagE := let r := div32 a.1 b.1; (r.1, a.2 || b.2 || r.2)

/-- The sum of squares of a chunk's scaled gradients (R291). -/
def sumSq (gscale : Elem) (g : List Elem) : FlagE :=
  g.foldl (fun a x => let q := mulE (opE x) (opE gscale); addE a (mulE q q)) (opE 0)

/-- The package partial of a step (R291): chunks in ascending block and granule within a unit, units in ascending order. -/
def State.partialSum (s : State) (n : CtxId) (st : Nat) : FlagE :=
  let insert (l : List Chunk) (c : Chunk) : List Chunk :=
    let lt (x : Chunk) : Bool := decide (x.block < c.block) || (x.block == c.block && decide (x.gran < c.gran))
    l.filter lt ++ [c] ++ l.filter fun x => !lt x
  let one (u : Nat) : FlagE :=
    ((s.staged.filter fun c => c.ctx == n && c.step == st && c.unit == u).foldl insert []).foldl
      (fun a c => addE a (sumSq (loE (s.hpw n.val (dSet (s.bdw n.val c.block 0)) 6)) c.data)) (opE 0)
  (List.range 12).foldl (fun a u => addE a (one u)) (opE 0)

/-- The package partial is formed: the words of the descriptors and sets that it takes are read, and a NaN that it makes is noted (R62, R241,
R291). -/
def State.formPartial (s : State) (n : CtxId) (st : Nat) : State :=
  let blocks := ((s.staged.filter fun c => c.ctx == n && c.step == st).map (·.block)).foldl setIns []
  let s1 := s.readRecs n (blocks.flatMap (s.blockWords n.val))
  s1.numFlags n.val false (s.partialSum n st).2

/-- √ of an FP32 value, correctly rounded (R292, R300). -/
def sqrtE (x : Elem) : Elem :=
  match f32 x with
  | .nan => nan32
  | .inf false => x
  | .inf true => nan32
  | .fin v => if v.num = 0 then x else if v.neg then nan32 else sqrt32 v
/-- The same with its flag (R62). -/
def rootE (x : FlagE) : FlagE := (sqrtE x.1, x.2 || (isNan32 (sqrtE x.1) && !isNan32 x.1))

/-- An FP32 code of either zero. -/
def isZero32 (x : Elem) : Bool := x.setWidth 31 == 0

/-- The gate's reason to skip: 0 none, 1 NONFINITE, 2 MAX, 3 SPIKE (R293). -/
def State.gate (s : State) (n : Nat) (g2 : Elem) : Nat :=
  let g := sqrtE g2
  let o := CTX_UPD_GATE.off n
  let k := CTX_UPD_SPIKE.off n
  let a := CTX_UPD_AVG.off n
  let nmax : Elem := BitVec.ofNat 32 (s.fld o CTX_UPD_GATE.NORM_MAX)
  let spk : Elem := BitVec.ofNat 32 (s.fld k CTX_UPD_SPIKE.SPIKE_K)
  let avg : Elem := BitVec.ofNat 32 (s.fld a CTX_UPD_AVG.A)
  if !isFin32 g2 then 1
  else if isZero32 nmax = false ∧ lt32 nmax g = true then 2
  else if isZero32 spk = false ∧ s.fld k CTX_UPD_SPIKE.WARM ≤ s.fld a CTX_UPD_AVG.ACCEPTED ∧ lt32 (mul32 spk avg).1 g = true then 3
  else 0

/-- The gate made a NaN from none: the root, or the product of the spike test where it is evaluated (R62). -/
def State.gateNan (s : State) (n : Nat) (g2 : Elem) : Bool :=
  let k := CTX_UPD_SPIKE.off n
  let a := CTX_UPD_AVG.off n
  let spk : Elem := BitVec.ofNat 32 (s.fld k CTX_UPD_SPIKE.SPIKE_K)
  (rootE (opE g2)).2 || ((s.gate n g2 == 0 || s.gate n g2 == 3) && !isZero32 spk &&
    decide (s.fld k CTX_UPD_SPIKE.WARM ≤ s.fld a CTX_UPD_AVG.ACCEPTED) && (mul32 spk (BitVec.ofNat 32 (s.fld a CTX_UPD_AVG.A))).2)

/-- The clip factor of a step (R295). -/
def State.clipOf (s : State) (n : Nat) (g : Elem) : Elem :=
  let clip : Elem := BitVec.ofNat 32 (s.fld (CTX_UPD_GATE.off n) CTX_UPD_GATE.CLIP)
  if isZero32 clip = false ∧ lt32 clip g = true then (div32 clip g).1 else one32

/-- The running average after an APPLY decision (R294). -/
def State.avgStep (s : State) (n : Nat) (g : Elem) : State :=
  let o := CTX_UPD_AVG.off n
  let acc := s.fld o CTX_UPD_AVG.ACCEPTED
  let a : Elem := BitVec.ofNat 32 (s.fld o CTX_UPD_AVG.A)
  let a1 := if acc = 0 then g else (add32 (mul32 a 0x3F700000).1 (mul32 0x3D800000 g).1).1
  (s.setFld o CTX_UPD_AVG.A a1.toNat).bump o CTX_UPD_AVG.ACCEPTED 1

/-- An update event to the core of CTX_UPD_EV (R309). -/
def State.updEvent (s : State) (n : CtxId) (late : Bool) : State :=
  let o := CTX_UPD_EV.off n.val
  if s.bit o CTX_UPD_EV.EN then
    let key := s.fld o CTX_UPD_EV.DIE * 256 + s.fld o CTX_UPD_EV.CLUSTER * 16 + s.fld o CTX_UPD_EV.CORE
    s.sendInc ⟨key, n, if late then s.fld o CTX_UPD_EV.EVL else s.fld o CTX_UPD_EV.EV0, 1⟩
  else s

/-- Every LAG = 0 apply of a committed step has completed: the tag advances and EV0 is raised (R309, R328). -/
def State.immediateDone (s : State) (n : CtxId) : State :=
  (s.setFld (CTX_VTAG.off n.val) CTX_VTAG.TAG ((s.tagOf n.val + 1) % 256)).updEvent n false
/-- Every apply of a committed step has completed: APPLIED, EVL (R286, R309, R310). -/
def State.stepApplied (s : State) (n : CtxId) (st : Nat) : State := ((s.setStep n st 5).updEvent n true).autoEnd n st

/-- The blocks of a step's staged chunks in ascending order. -/
def State.stepBlocks (s : State) (n : CtxId) (st : Nat) : List Nat :=
  s.staged.foldl (fun l c => if c.ctx == n && c.step == st then setIns l c.block else l) []

/-- The commit of a step with its sum G2 (R287, R293 to R296, R310 to R312). -/
def State.commitStep (s : State) (n : CtxId) (st : Nat) (g2 : Elem) : State :=
  let g := sqrtE g2
  let why := s.gate n.val g2
  let s1 := (s.numFlags n.val false (s.gateNan n.val g2)).setFld (CTX_STEP_CMT.off n.val) CTX_STEP_CMT.STEP st
  let s2 := s1.setFld (CTX_UPD_NORM.off n.val) CTX_UPD_NORM.G g.toNat
  if why ≠ 0 then
    let f := if why = 1 then CTX_UPD_STS.GATE_NONFINITE else if why = 2 then CTX_UPD_STS.GATE_MAX else CTX_UPD_STS.GATE_SPIKE
    let s3 := (s2.setFld (CTX_UPD_STS.off n.val) f 1).bump (CTX_UPD_STS.off n.val) CTX_UPD_STS.SKIP_COUNT 1
    let s4 := ((s3.releaseChunks fun c => c.ctx == n && c.step == st).setStep n st 4).syncNext n
    ((s4.postStep n 2 st g.toNat why).updEvent n false).updEvent n true
  else
    let c := s.clipOf n.val g
    let s3 := ((((s2.setFld (CTX_UPD_NORM.off n.val) CTX_UPD_NORM.C c.toNat).avgStep n.val g).setStep n st 3).syncNext n).autoStart n st
    let bl := s3.stepBlocks n st
    let lag (b : Nat) : Nat := dLag (s3.bdw n.val b 0)
    let l0 := (bl.filter fun b => lag b == 0).length
    let new : List Apply := bl.map fun b => ⟨n, st, b, lag b, none, s3.updCmds.any fun u => u.ctx == n && u.block == b⟩
    let rec1 (r : StepRec) : StepRec := { r with clip := c, left0 := l0, left := bl.length }
    let s4 := { s3 with applies := s3.applies ++ new, steps := updWhere (fun r => r.ctx == n && r.step == st) rec1 s3.steps }
    let s5 := if l0 = 0 then s4.immediateDone n else s4
    if bl.isEmpty then s5.stepApplied n st else s5

/-! Applies (R297 to R304, R308). -/

/-- The learning rate of a set for a step, as it is evaluated (R297, R298). -/
def State.etaNow (s : State) (n h st : Nat) : Elem :=
  let sched := (s.hpw n h 0).fld 4 4
  let w4 := s.hpw n h 4
  let w5 := s.hpw n h 5
  let k := st - 1
  if sched = 4 then
    BitVec.ofNat 32 (s.readNat (s.rateEntry n h st) 4)
  else learnRate sched (loE w4) (hiE w4) (w5.fld 0 32) (w5.fld 32 32) k

/-- The learning rate of a set for a committed step: evaluated once, with the first apply of the step that takes the set (R297; log 39, DESIGN CHOICE). -/
def State.etaOf (s : State) (n : CtxId) (h st : Nat) : Elem :=
  match s.stepRec? n st with
  | some r => (match tget? r.etas h with | some e => e | none => s.etaNow n.val h st)
  | none => s.etaNow n.val h st
/-- That rate kept for the other blocks of the step. -/
def State.keepEta (s : State) (n : CtxId) (h st : Nat) : State :=
  let e := s.etaOf n h st
  { s with steps := updWhere (fun r => r.ctx == n && r.step == st) (fun r => { r with etas := tset r.etas h e }) s.steps }

/-- The constants of an apply (R279, R295, R299, R304). -/
def State.applyConsts (s : State) (a : Apply) : ApplyK :=
  let n := a.ctx.val
  let h := dSet (s.bdw n a.block 0)
  let clip := match s.stepRec? a.ctx a.step with | some r => r.clip | none => one32
  let w10 := s.bdw n a.block 10
  let w1 := s.hpw n h 1
  let b1p := (mul32 (loE w10) (loE w1)).1
  let b2p := (mul32 (hiE w10) (hiE w1)).1
  let bc := (s.hpw n h 0).flag 8
  let inv (x : Elem) : Elem := if bc then (div32 one32 (sub32 one32 x).1).1 else one32
  ⟨s.etaOf a.ctx h a.step, (mul32 (loE (s.hpw n h 6)) clip).1, b1p, b2p, inv b1p, inv b2p, ((s.bdw n a.block 8).fld 48 8 + 1) % 256,
    (List.range 12).map (s.bdw n a.block), (List.range 9).map (s.hpw n h)⟩

/-- sign(u) of Lion (R300). -/
def sign32 (u : Elem) : Elem :=
  match f32 u with
  | .nan => nan32
  | .inf neg => if neg then 0xBF800000 else one32
  | .fin v => if v.num = 0 then 0 else if v.neg then 0xBF800000 else one32

/-- One element under an optimiser: master, first and second moment after the apply, and whether an operation made a NaN (R62, R300). -/
def applyElem (opt : Nat) (b1 b2 omb1 omb2 eps lam : Elem) (k : ApplyK) (w m v g : Elem) : (Elem × Elem × Elem) × Bool :=
  let out (w m : FlagE) (v : FlagE) : (Elem × Elem × Elem) × Bool := ((w.1, m.1, v.1), w.2 || m.2 || v.2)
  let lw := mulE (opE lam) (opE w)
  let gk := mulE (opE g) (opE k.k)
  let eta := opE k.eta
  let m1b := mulE (opE b1) (opE m)
  if opt ≤ 1 then
    let g1 := addE gk lw
    let m1 := addE m1b g1
    let u := if opt = 1 then addE g1 (mulE (opE b1) m1) else m1
    out (subE (opE w) (mulE eta u)) m1 (opE v)
  else if opt = 2 then
    let m1 := addE m1b (mulE (opE omb1) gk)
    let v1 := addE (mulE (opE b2) (opE v)) (mulE (opE omb2) (mulE gk gk))
    let d := divE (mulE m1 (opE k.c1)) (addE (rootE (mulE v1 (opE k.c2))) (opE eps))
    out (subE (opE w) (mulE eta (addE d lw))) m1 v1
  else
    let u := addE m1b (mulE (opE omb1) gk)
    let d : FlagE := (sign32 u.1, u.2)
    out (subE (opE w) (mulE eta (addE d lw))) (addE (mulE (opE b2) (opE m)) (mulE (opE omb2) gk)) (opE v)

/-- The working copy of element `i` (R303): its code, and whether the conversion saturated. -/
def workElem (wfmt : Nat) (sr : Bool) (seed : Word) (st b i : Nat) (w : Elem) : Cvt :=
  let mode := if sr then Rnd.sr (genDraw seed st (0x8000 + b) i) else .rne
  convertType wfmt mode true (f32 w)

/-- A working copy is written, unless a pin entry written since forbids it (R269, R270; log 39, DESIGN CHOICE). -/
def State.writeWork (s : State) (a : Nat) (bytes : List Byte) (bad : List (Nat × Nat)) : State :=
  if s.pinForbids none true a bytes.length then s else s.writeParts a bytes bad

/-- A working-copy conversion saturated, an operation made a NaN: the flags of the context (R54, R62, R311). -/
def State.workFlags (s : State) (n : Nat) (sat nan : Bool) : State :=
  (s.flagIf (CTX_UPD_STS.off n) CTX_UPD_STS.SAT sat).numFlags n sat nan

/-- The apply of one granule by its unit, from the descriptor and the set as the apply read them (R279, R300 to R304). (log 39, DESIGN CHOICE) -/
def State.applyGranule (s : State) (a : Apply) (k : ApplyK) (c : Chunk) : State :=
  let n := a.ctx.val
  let b := a.block
  let w0 := k.dw 0
  let opt := (k.hw 0).fld 0 4
  let base := 4096 * c.gran
  let am := w0.fld 0 48 + base
  let a1 := (k.dw 1).fld 0 48 + base
  let a2 := (k.dw 2).fld 0 48 + base
  let w1 := k.hw 1
  let w2 := k.hw 2
  let w3 := k.hw 3
  let sz := typeBits (dWfmt w0) / 8
  let slot := (k.dw 3).fld 0 48 + (k.ver % dNver w0) * (k.dw 4).fld 0 48
  let el (a i : Nat) : Elem := BitVec.ofNat 32 (s.readNat (a + 4 * i) 4)
  let all := (List.range 1024).map fun i =>
    applyElem opt (loE w1) (hiE w1) (loE w2) (hiE w2) (loE w3) (hiE w3) k (el am i) (el a1 i) (if opt = 2 then el a2 i else 0) (c.data.getD i 0)
  let res : List (Elem × Elem × Elem) := all.map (·.1)
  let cvt := (List.range 1024).map fun i =>
    workElem (dWfmt w0) (dWrnd w0) (k.hw 7) a.step b (1024 * c.gran + i) (res.getD i (0, 0, 0)).1
  let badCw (i : Nat) : Bool := c.poison || c.bad.contains i || s.poisoned (am + 32 * i) 32 || s.poisoned (a1 + 32 * i) 32 || (opt == 2 && s.poisoned (a2 + 32 * i) 32)
  let bad := (List.range 128).filter badCw
  let bytes (f : Elem × Elem × Elem → Elem) : List Byte := res.flatMap fun r => leBytes 4 (f r).toNat
  let s0 := s.readRecs a.ctx ([(am, 4096), (a1, 4096)] ++ if opt = 2 then [(a2, 4096)] else [])
  let s5 := if bad.isEmpty then s0
    else (s0.openRecord (mkDet 0x07 (unitUpd c.unit) (some a.ctx) 1 0 4 0 0 b (BitVec.ofNat 64 (am + 32 * bad.headD 0))) false).1
  let parts := bad.map fun i => (32 * i, 32)
  let s1 := (s5.writeParts am (bytes (·.1)) parts).writeParts a1 (bytes (·.2.1)) parts
  let s2 := if opt = 2 then s1.writeParts a2 (bytes (·.2.2)) parts else s1
  let s3 := s2.writeWork (slot + sz * 1024 * c.gran) (cvt.flatMap fun x => leBytes sz x.code) (bad.map fun i => (sz * 8 * i, 8 * sz))
  let nonfin := res.any fun r => !isFin32 r.1 || !isFin32 r.2.1 || (opt == 2 && !isFin32 r.2.2)
  let s6 := s3.workFlags n (cvt.any (·.satHit)) (all.any (·.2))
  if nonfin then (s6.setFld (CTX_UPD_STS.off n) CTX_UPD_STS.NONFINITE_OUT 1).postStep a.ctx 3 a.step b 0 else s6

/-- The granules of an apply that are left are the chunks of its step and block still in staging. -/
def State.applyLeft (s : State) (a : Apply) : Bool := s.staged.any fun c => c.ctx == a.ctx && c.step == a.step && c.block == a.block

/-- An apply may run: every earlier apply of its block is done and no block command is before it (R307, R308). -/
def State.applyFree (s : State) (a : Apply) : Bool :=
  !a.behind && s.applies.all fun x => !(x.ctx == a.ctx && x.block == a.block && decide (x.step < a.step))

/-- The order within an apply queue (R308): step, block, granule. -/
def workLt (x y : Apply × Chunk) : Bool :=
  decide (x.1.step < y.1.step) || (x.1.step == y.1.step && (decide (x.1.block < y.1.block) ||
    (x.1.block == y.1.block && decide (x.2.gran < y.2.gran))))

def leastWork (l : List (Apply × Chunk)) : Option (Apply × Chunk) :=
  l.foldl (fun m x => match m with | some y => if workLt x y then some x else some y | none => some x) none

/-- The work that a unit takes next: an overdue late apply, then the immediate queue, then the late queue (R308). -/
def State.nextWork (s : State) (u : Nat) : Option (Apply × Chunk) :=
  let l := s.applies.flatMap fun a =>
    if s.applyFree a then (s.staged.filter fun c => c.unit == u && c.ctx == a.ctx && c.step == a.step && c.block == a.block).map fun c => (a, c)
    else []
  let due (x : Apply × Chunk) : Bool := x.1.lag != 0 && decide (x.1.step + x.1.lag + 1 ≤ s.cmtStep x.1.ctx.val)
  match leastWork (l.filter due), leastWork (l.filter fun x => x.1.lag == 0) with
  | some x, _ => some x
  | none, some x => some x
  | none, none => leastWork l

/-- An apply ends: the step's counts fall, and with the last LAG = 0 apply and the last apply the step moves on (R309, R310). -/
def State.applyEnd (s : State) (a : Apply) : State :=
  let s0 := { s with applies := s.applies.filter fun x => !(x.ctx == a.ctx && x.step == a.step && x.block == a.block) }
  match s0.stepRec? a.ctx a.step with
  | some r =>
    let r1 := { r with left0 := if a.lag = 0 then r.left0 - 1 else r.left0, left := r.left - 1 }
    let s1 := { s0 with steps := updWhere (fun x => x.ctx == a.ctx && x.step == a.step) (fun _ => r1) s0.steps }
    let s2 := if a.lag = 0 ∧ r1.left0 = 0 then s1.immediateDone a.ctx else s1
    if r1.left = 0 then s2.stepApplied a.ctx a.step else s2
  | none => s0

/-- A descriptor word written by the package controller. -/
def State.setBdw (s : State) (n b w : Nat) (v : Word) : State := s.writeNat (s.tblBase n + 0x800 + b * 0x80 + 8 * w) 8 v.toNat

/-- A granule of an apply in progress at a shuttered unit: its outputs are written poisoned, and with the unit's last granule of the block
the host is told (R549). -/
def State.applyShut (s : State) (a : Apply) (k : ApplyK) (c : Chunk) : State :=
  let s1 := (s.applyGranule a k { c with poison := true }).releaseChunks fun x => x == c
  if s1.staged.any fun x => x.unit == c.unit && x.ctx == a.ctx && x.step == a.step && x.block == a.block then s1
  else s1.postStep a.ctx 4 a.step a.block 0

/-- An update unit starts and performs the next granule of its queues. The first of a block checks the descriptor and gives the
constants out (R277, R278, R299, R305); a protected slot holds it back (R304). (log 39, DESIGN CHOICE) -/
def State.applyStart (s : State) (u : Nat) : State :=
  match s.nextWork u with
  | none => s
  | some (a, c) =>
    match a.k with
    | some k =>
      if s.shut.contains (unitUpd u) then s.applyShut a k c else (s.applyGranule a k c).releaseChunks fun x => x == c
    | none =>
      let rs := s.applyReads a.ctx.val a.block a.step
      if !s.usable a.ctx.val a.block || (s.badIn rs).isSome then
        let s1 := ((s.readRecs a.ctx rs).setFld (CTX_UPD_STS.off a.ctx.val) CTX_UPD_STS.BADDESC 1).postStep a.ctx 4 a.step a.block 0
        (s1.releaseChunks fun x => x.ctx == a.ctx && x.step == a.step && x.block == a.block).applyEnd a
      else if s.slotProtected a.ctx a.block then s
      else
        let k := s.applyConsts a
        let set1 (x : Apply) : Apply := { x with k := some k }
        let s1 := ({ s with applies := updWhere (fun x => x == a) set1 s.applies }).keepEta a.ctx (dSet (s.bdw a.ctx.val a.block 0)) a.step
        let s2 := s1.setBdw a.ctx.val a.block 11 (BitVec.ofNat 64 (put 1 63 + a.step % 2 ^ 48))
        (s2.applyGranule { a with k := some k } k c).releaseChunks fun x => x == c

def execApplyStart (u : Fin 12) (s : State) : Out := .next (s.applyStart u.val)

/-- Every unit has finished a block's apply: descriptor words 8 to 11 are written and the version is published; they
come from the words read at its start, so that a write of the programmer to them is lost (R279, R305). -/
def State.blockApplied (s : State) (n : CtxId) (b : Nat) : State :=
  match s.applies.find? fun a => a.ctx == n && a.block == b && a.k.isSome && !s.applyLeft a with
  | some a =>
    (match a.k with
     | some k =>
       let tb := (k.dw 9).fld 0 48
       let s1 := s.setBdw n.val b 8 (BitVec.ofNat 64 (put k.ver 48 + a.step % 2 ^ 48))
       let s2 := s1.setBdw n.val b 9 (BitVec.ofNat 64 ((tb + 1) % 2 ^ 48))
       let s3 := s2.setBdw n.val b 10 (BitVec.ofNat 64 (put k.b2p.toNat 32 + k.b1p.toNat))
       let s4 := s3.setBdw n.val b 11 (BitVec.ofNat 64 (a.step % 2 ^ 48))
       s4.applyEnd a
     | none => s)
  | none => s

def execBlockApplyComplete (ctx : CtxId) (block : Nat) (s : State) : Out := .next (s.blockApplied ctx block)

/-! Block commands (R306, R307). -/

/-- A REGEN or VERIFY is taken: ignored while BUSY, finished at once on a bad block, else queued. -/
def State.updCommand (s : State) (n : CtxId) (verify : Bool) (b : Nat) : State :=
  let o := CTX_UPD_CMDSTS.off n.val
  if s.bit o CTX_UPD_CMDSTS.BUSY then s
  else if s.fld (CTX_UPD_TBL.off n.val) CTX_UPD_TBL.NBLK ≤ b then (s.setFld o CTX_UPD_CMDSTS.DONE 1).setFld o CTX_UPD_CMDSTS.MISMATCH 0xFFFFFFFF
  else if s.usable n.val b = false ∨ (s.badIn (s.blockWords n.val b)).isSome = true then
    ((s.readRecs n (s.blockWords n.val b)).setFld o CTX_UPD_CMDSTS.DONE 1).setFld o CTX_UPD_CMDSTS.MISMATCH 0xFFFFFFFF
  else { s.setFld o CTX_UPD_CMDSTS.BUSY 1 with updCmds := s.updCmds ++ [⟨n, verify, b⟩] }

def execRegen (ctx : CtxId) (block : Nat) (s : State) : Out := .next (s.updCommand ctx false (block % 32768))
def execVerify (ctx : CtxId) (block : Nat) (s : State) : Out := .next (s.updCommand ctx true (block % 32768))

/-- The working copy of a block as REGEN writes it: the conversions of all elements (R303, R306). -/
def State.regenCodes (s : State) (n b : Nat) : List Cvt :=
  let w0 := s.bdw n b 0
  (List.range ((s.bdw n b 5).fld 0 32)).map fun i =>
    workElem (dWfmt w0) (dWrnd w0) (s.hpw n (dSet w0) 7) ((s.bdw n b 8).fld 0 48) b i
      (BitVec.ofNat 32 (s.readNat (w0.fld 0 48 + 4 * i) 4))

/-- A block command runs once the block has no apply queued before it or in progress (R307). -/
def execUpdCommandComplete (ctx : CtxId) (s : State) : Out :=
  .next (match s.updCmds.find? fun u => u.ctx == ctx with
    | some u =>
      if s.applies.any (fun a => a.ctx == ctx && a.block == u.block && !a.behind) then s
      else
        let n := ctx.val
        let b := u.block
        let w0 := s.bdw n b 0
        let sz := typeBits (dWfmt w0) / 8
        let slot := (s.bdw n b 3).fld 0 48 + ((s.bdw n b 8).fld 48 8 % dNver w0) * (s.bdw n b 4).fld 0 48
        let cvt := s.regenCodes n b
        let codes := cvt.map (·.code)
        let master := w0.fld 0 48
        let diff := ((List.range codes.length).filter fun i => s.readNat (slot + sz * i) sz != codes.getD i 0).length
        let s0 := (s.readRecs ctx (s.blockWords n b ++ [(master, 4 * codes.length)] ++ if u.verify then [(slot, sz * codes.length)] else [])).workFlags
          n (cvt.any (·.satHit)) false
        let s1 := if u.verify then s0.setFld (CTX_UPD_CMDSTS.off n) CTX_UPD_CMDSTS.MISMATCH (min diff 0xFFFFFFFF)
          else s0.writeWork slot (codes.flatMap fun c => leBytes sz c)
            (((List.range (codes.length / 8)).filter fun i => s.poisoned (master + 32 * i) 32).map fun i => (sz * 8 * i, 8 * sz))
        let s2 := (s1.setFld (CTX_UPD_CMDSTS.off n) CTX_UPD_CMDSTS.BUSY 0).setFld (CTX_UPD_CMDSTS.off n) CTX_UPD_CMDSTS.DONE 1
        let go (a : Apply) : Apply := { a with behind := false }
        { s2 with updCmds := s2.updCmds.filter fun x => x != u,
                  applies := updWhere (fun a => a.ctx == ctx && a.block == b) go s2.applies }
    | none => s)

/-! Resets (R313). -/

/-- The steps of a context that are not committed become ABORTED and their staging is released; the block commands are dropped, and the
applies of committed steps that waited behind one run on (R306, R313). -/
def State.abortSteps (s : State) (n : CtxId) : State :=
  let hit (r : StepRec) : Bool := r.ctx == n && (r.st == 1 || r.st == 2)
  let s1 := s.releaseChunks fun c => c.ctx == n && (s.stepSt n c.step == 1 || s.stepSt n c.step == 2)
  let go (a : Apply) : Apply := { a with behind := false }
  let s2 := { s1 with steps := updWhere hit (fun r => { r with st := 7 }) s1.steps, offers := s1.offers.filter fun o => o.chunk.ctx != n,
                      updCmds := s1.updCmds.filter fun u => u.ctx != n, applies := updWhere (fun a => a.ctx == n) go s1.applies }
  s2

/-- A committed step of a context still has applies to run. -/
def State.appliesOpen (s : State) (n : CtxId) : Bool := s.applies.any fun a => a.ctx == n

end Sys2Proof.Machine
end

