-- ==== Sys2Proof/Machine/Halyard.lean ====
section
/-! DEFINITION. Halyards and holds (09_stages_sequences_versions.md R315 to R326, R334 to R337). -/

namespace Sys2Proof.Machine

/-! Halyard pennants (R315, R317, R321). The spec gives them their channels; where ADDR holds what they name is this model's layout (log 70,
DESIGN CHOICE). -/

/-- What a halyard pennant is: an OPEN, ACCEPT, REJECT or CLOSE of the handshake, a CLOSE whose sender was refused a delivery, and the payload or
the header of a message. -/
def hkOpen : Nat := 0x10
def hkAccept : Nat := 0x11
def hkReject : Nat := 0x12
def hkClose : Nat := 0x13
def hkRefused : Nat := 0x14
def hkPayload : Nat := 0
def hkHeader : Nat := 1

/-- ADDR of a halyard pennant: its kind, the halyards at both ends, the context at its destination, and 26 bits of its own. -/
def halAddr (kind : Nat) (m : HalMsg) (x : Nat) : Nat := put kind 40 + put m.srcHal.val 36 + put m.dstHal.val 32 + put m.dstCtx.val 26 + x
def Pennant.halKind (p : Pennant) : Nat := bits p.addr.toNat 40 8
def Pennant.halArg (p : Pennant) : Nat := bits p.addr.toNat 0 26
/-- The ends that a halyard pennant names. -/
def Pennant.halMsg (p : Pennant) : HalMsg :=
  ⟨Fin.ofNat 64 p.ctx.toNat, Fin.ofNat 16 (bits p.addr.toNat 36 4), Fin.ofNat 64 (bits p.addr.toNat 26 6), Fin.ofNat 16 (bits p.addr.toNat 32 4)⟩

/-- A handshake pennant leaves on VC0 (R315). -/
def State.sendShake (s : State) (dst : PkgId) (m : HalMsg) (kind x : Nat) : State :=
  (s.sendPen tMGMT 0 dst.toNat m.srcCtx (halAddr kind m x) [] 0 true false 0).1
/-- A handshake pennant of a kind is taken and acted on. -/
def State.takeShake (s : State) (pn : Pennant) (kinds : List Nat) (f : State → State) : State :=
  if pn.typ.toNat == tMGMT && kinds.contains (Pennant.halKind pn) then f (s.takeIn pn) else s

/-! Access to a halyard. -/

def halKey (n h : Nat) : Nat := n * 16 + h
def Hal.reset : Hal := ⟨[], 0, false⟩
def State.hal (s : State) (n h : Nat) : Hal := tget Hal.reset s.hals (halKey n h)
def State.modHal (s : State) (n h : Nat) (f : Hal → Hal) : State := { s with hals := tset s.hals (halKey n h) (f (s.hal n h)) }
/-- A configuration field. -/
def State.hcfg (s : State) (n h : Nat) (f : Fld) : Nat := s.fld (CTX_HAL_CFG.off n h) f
/-- A status field. -/
def State.hsts (s : State) (n h : Nat) (f : Fld) : Nat := s.fld (CTX_HAL_STS.off n h) f
def State.setHsts (s : State) (n h : Nat) (f : Fld) (v : Nat) : State := s.setFld (CTX_HAL_STS.off n h) f v
/-- The states of R316. -/
def hClosed : Nat := 0
def hOpening : Nat := 1
def hOpen : Nat := 2
def hDown : Nat := 3
def hError : Nat := 4
def State.hst (s : State) (n h : Nat) : Nat := s.hsts n h CTX_HAL_STS.STATE
/-- The halyard is a receive halyard. -/
def State.hRecv (s : State) (n h : Nat) : Bool := s.hcfg n h CTX_HAL_CFG.DIR == 1
def State.hPeer (s : State) (n h : Nat) : PkgId := BitVec.ofNat 15 (s.hcfg n h CTX_HAL_CFG.PEER)
/-- The message that this halyard sends its peer. -/
def State.hMsg (s : State) (n : CtxId) (h : Nat) : HalMsg :=
  ⟨n, Fin.ofNat 16 h, Fin.ofNat 64 (s.hcfg n.val h CTX_HAL_CFG.PEER_CTX), Fin.ofNat 16 (s.hcfg n.val h CTX_HAL_CFG.PEER_HAL)⟩
/-- The halyard's fields name the sender of a message. -/
def State.hNames (s : State) (src : PkgId) (m : HalMsg) : Bool :=
  let n := m.dstCtx.val
  let h := m.dstHal.val
  s.hPeer n h == src && s.hcfg n h CTX_HAL_CFG.PEER_HAL == m.srcHal.val && s.hcfg n h CTX_HAL_CFG.PEER_CTX == m.srcCtx.val

/-- Bytes of a slot and of the ring (R316, R318). -/
def State.slotBytes (s : State) (n h : Nat) : Nat := s.hcfg n h CTX_HAL_CFG.SLOT_SZ * 4096
def State.ringBase (s : State) (n h : Nat) : Nat := s.fld (CTX_HAL_RING.off n h) CTX_HAL_RING.BASE * 4096
def State.ringSlots (s : State) (n h : Nat) : Nat := 2 ^ s.hcfg n h CTX_HAL_CFG.SLOTS

/-- The ring of a receive halyard meets R318. -/
def State.ringOk (s : State) (n h : Nat) : Bool :=
  let a := s.ringBase n h
  let len := s.ringSlots n h * s.slotBytes n h
  let tier := match tierOf a with | .hbm => true | .near => true | .cluster _ _ => true | _ => false
  len != 0 && decide (s.hcfg n h CTX_HAL_CFG.SLOTS ≤ 8) && tier && oneRange a len && !s.rangeGone a len && s.reaches n a len true && s.limitsOk n a len true &&
    (s.buddiesAt a len).isEmpty

/-- A halyard event record (R325, R494). -/
def State.postHal (s : State) (n h : Nat) : State := s.postCtx n 0x05 h 0 [s.csrGet (CTX_HAL_STS.off n h)]

/-! Ends of sends (R322). -/

/-- The event fields of a send (R319). -/
def sEve (w : Word) : Bool := w.flag 63
def sEv (w : Word) : Nat := w.fld 55 8
def sEvInc (w : Word) : Nat := w.fld 47 8
def sFev (w : Word) : Bool := w.flag 46
def sDlv (w : Word) : Bool := w.flag 45

/-- What stands for the core of a doorbell that no core wrote (R477). -/
def noCore : Nat := 0x1FFF

/-- A send leaves the queue: its increment, or its fault. -/
def State.sendEnd (s : State) (n : CtxId) (x : Send) (w2 : Word) (ok : Bool) : State :=
  let s1 := if sEve w2 && (ok || sFev w2) && !s.hatching n.val && x.core != noCore then s.sendInc ⟨x.core, n, sEv w2, sEvInc w2⟩ else s
  if ok || sFev w2 then s1 else s1.addFault ⟨n, .stream, 0, 0, 0, x.desc, unitPkg, s1.time⟩

/-- Word 2 of a send descriptor as it now stands in memory. -/
def State.sendWord2 (s : State) (x : Send) : Word := if x.started then x.word2 else BitVec.ofNat 64 (s.readNat (x.desc + 16) 8)

/-- Every queued and unfinished send fails (R325). -/
def State.failSends (s : State) (n : CtxId) (h : Nat) : State :=
  let l := (s.hal n.val h).sends
  let s1 := (s.modHal n.val h fun x => { x with sends := [] }).setHsts n.val h CTX_HAL_STS.QUEUED 0
  l.foldl (fun s x => s.sendEnd n x (s.sendWord2 x) false) s1

/-- A halyard enters DOWN or ERROR (R325). -/
def State.halLeave (s : State) (n : CtxId) (h st err : Nat) : State :=
  let s1 := (s.setHsts n.val h CTX_HAL_STS.STATE st).setHsts n.val h CTX_HAL_STS.ERR err
  (s1.failSends n h).postHal n.val h

/-- The halyard is OPENING or OPEN. -/
def State.halLive (s : State) (n h : Nat) : Bool := s.hst n h == hOpening || s.hst n h == hOpen

/-- The live halyards, as context and number. -/
def State.liveHals (s : State) : List (CtxId × Nat) :=
  (s.hals.filter fun x => s.halLive (x.1 / 16) (x.1 % 16)).map fun x => (Fin.ofNat 64 (x.1 / 16), x.1 % 16)

/-- The package controller finds a package unreachable: its halyards enter DOWN (R325, R418). -/
def State.halUnreachable (s : State) (p : Nat → Bool) : State :=
  s.liveHals.foldl (fun s x => if p (s.hPeer x.1.val x.2).toNat then s.halLeave x.1 x.2 hDown 4 else s) s

/-- A CTX_DOWN of a context of another package reaches the halyards that name it (R325, R526). -/
def State.halPeerDown (s : State) (pkg : PkgId) (ctx : Nat) : State :=
  s.liveHals.foldl (fun s x =>
    if s.hPeer x.1.val x.2 == pkg && s.hcfg x.1.val x.2 CTX_HAL_CFG.PEER_CTX == ctx then s.halLeave x.1 x.2 hDown 3 else s) s

/-! Opening and closing (R316, R317, R325). -/

/-- The fields of CTX_HAL_CFG that a write sets. -/
def halCfgFields : List Fld :=
  [CTX_HAL_CFG.EN, CTX_HAL_CFG.DIR, CTX_HAL_CFG.PEER, CTX_HAL_CFG.PEER_HAL, CTX_HAL_CFG.PEER_CTX, CTX_HAL_CFG.SLOTS, CTX_HAL_CFG.SLOT_SZ]

/-- EN goes from 0 to 1: the halyard starts to open with the fields written; with EN = 1 already nothing changes (R316, R317). -/
def State.halOpen (s : State) (n : CtxId) (h : Nat) (v : Word) : State :=
  let o := CTX_HAL_CFG.off n.val h
  if s.bit o CTX_HAL_CFG.EN then s
  else
    let s1 := halCfgFields.foldl (fun s f => s.setFld o f (getFld v f)) s
    let s2 := (s1.setFld o CTX_HAL_CFG.EN 1).modHal n.val h fun _ => Hal.reset
    let keep := (s2.csrGet (CTX_HAL_STS.off n.val h)).fld 0 64
    let s3 := s2.csrSet (CTX_HAL_STS.off n.val h) (BitVec.ofNat 64 (put (bits keep 55 1) 55 + put (bits keep 38 1) 38))
    if s3.hRecv n.val h && !s3.ringOk n.val h then s3.halLeave n h hError 2
    else
      let s4 := s3.setHsts n.val h CTX_HAL_STS.STATE hOpening
      if s4.unreachable (s4.hPeer n.val h).toNat then s4.halLeave n h hDown 4
      else if s4.hRecv n.val h then s4
      else s4.sendShake (s4.hPeer n.val h) (s4.hMsg n h) hkOpen 0

def execHalyardOpen (ctx : CtxId) (h : Fin 16) (v : Word) (s : State) : Out := .next (s.halOpen ctx h.val v)

/-- EN written 0: CLOSED, with a CLOSE to the peer of a live halyard (R325). Sends that are left fail (log 13, DEDUCED). -/
def State.halClose (s : State) (n : CtxId) (h : Nat) : State :=
  let o := CTX_HAL_CFG.off n.val h
  if s.bit o CTX_HAL_CFG.EN then
    let live := s.halLive n.val h
    let s1 := (s.setFld o CTX_HAL_CFG.EN 0).failSends n h
    let s2 := ((s1.setHsts n.val h CTX_HAL_STS.STATE hClosed).setHsts n.val h CTX_HAL_STS.ERR 0).setHsts n.val h CTX_HAL_STS.LEVEL 0
    if live then s2.sendShake (s2.hPeer n.val h) (s2.hMsg n h) hkClose 0 else s2
  else s

def execHalyardClose (ctx : CtxId) (h : Fin 16) (s : State) : Out := .next (s.halClose ctx h.val)

/-- An OPENING send halyard sends OPEN again (R317). -/
def execHalyardOpenRetry (ctx : CtxId) (h : Fin 16) (s : State) : Out :=
  .next (if s.hst ctx.val h.val == hOpening && !s.hRecv ctx.val h.val then
    s.sendShake (s.hPeer ctx.val h.val) (s.hMsg ctx h.val) hkOpen 0 else s)

/-- The answer of a halyard to a message: the message with its ends exchanged. -/
def halBack (m : HalMsg) : HalMsg := ⟨m.dstCtx, m.dstHal, m.srcCtx, m.srcHal⟩

/-- An OPEN is answered, dropped or rejected (R317). -/
def State.openIn (s : State) (src : PkgId) (m : HalMsg) : State :=
  let n := m.dstCtx.val
  let h := m.dstHal.val
  let shape := put (s.hcfg n h CTX_HAL_CFG.SLOTS) 12 + s.hcfg n h CTX_HAL_CFG.SLOT_SZ
  if !s.bit (CTX_HAL_CFG.off n h) CTX_HAL_CFG.EN then s
  else if !s.hRecv n h then s.sendShake src (halBack m) hkReject 0
  else if s.hst n h == hOpening && s.hNames src m then (s.setHsts n h CTX_HAL_STS.STATE hOpen).sendShake src (halBack m) hkAccept shape
  else if s.hst n h == hOpen && s.hNames src m then s.sendShake src (halBack m) hkAccept shape
  else if s.hst n h == hOpen then s.sendShake src (halBack m) hkReject 0
  else s

/-- An OPEN pennant arrives. -/
def openRx (pn : Pennant) (s : State) : Out := .next (s.takeShake pn [hkOpen] fun s => s.openIn pn.src (Pennant.halMsg pn))
def execOpenPennantReceive (h : PnHead) (r : PnTail) (s : State) : Out := openRx (pnOf h r.eseq r.addr r.payload) s

/-- An OPENING send halyard that the message answers. -/
def State.answers (s : State) (src : PkgId) (m : HalMsg) : Bool :=
  s.hst m.dstCtx.val m.dstHal.val == hOpening && !s.hRecv m.dstCtx.val m.dstHal.val && s.hNames src m

/-- An ACCEPT opens the send halyard with full credits (R317). -/
def State.acceptIn (s : State) (src : PkgId) (m : HalMsg) (slots slotSz : Nat) : State :=
  let n := m.dstCtx.val
  let h := m.dstHal.val
  if s.answers src m then
    let s1 := (s.setHsts n h CTX_HAL_STS.STATE hOpen).setHsts n h CTX_HAL_STS.LEVEL (2 ^ slots)
    s1.modHal n h fun x => { x with slotSz := slotSz }
  else s

/-- An ACCEPT pennant arrives. -/
def acceptRx (pn : Pennant) (s : State) : Out :=
  .next (s.takeShake pn [hkAccept] fun s => s.acceptIn pn.src (Pennant.halMsg pn) (bits (Pennant.halArg pn) 12 4) (bits (Pennant.halArg pn) 0 12))
def execAcceptReceive (h : PnHead) (eseq : BitVec 16) (a : BitVec 48) (payload : BitVec 512) (s : State) : Out := acceptRx (pnOf h eseq a payload) s

/-- A REJECT puts the send halyard in ERROR (R317). -/
def State.rejectIn (s : State) (src : PkgId) (m : HalMsg) : State :=
  if s.answers src m then s.halLeave m.dstCtx m.dstHal.val hError 1 else s

/-- A REJECT pennant arrives. -/
def rejectRx (pn : Pennant) (s : State) : Out := .next (s.takeShake pn [hkReject] fun s => s.rejectIn pn.src (Pennant.halMsg pn))
def execRejectReceive (h : PnHead) (r : PnTail) (s : State) : Out := rejectRx (pnOf h r.eseq r.addr r.payload) s

/-- A CLOSE of the peer puts the halyard in DOWN; one that tells of a refused delivery puts it in ERROR (R325; log 70, DESIGN CHOICE). -/
def State.closeIn (s : State) (src : PkgId) (m : HalMsg) (refused : Bool) : State :=
  if s.halLive m.dstCtx.val m.dstHal.val && s.hNames src m then
    (if refused then s.halLeave m.dstCtx m.dstHal.val hError 2 else s.halLeave m.dstCtx m.dstHal.val hDown 5)
  else s

/-- A CLOSE pennant arrives. -/
def closeRx (pn : Pennant) (s : State) : Out :=
  .next (s.takeShake pn [hkClose, hkRefused] fun s => s.closeIn pn.src (Pennant.halMsg pn) (Pennant.halKind pn == hkRefused))
def execCloseReceive (h : PnHead) (r : PnTail) (s : State) : Out := closeRx (pnOf h r.eseq r.addr r.payload) s

/-! Sending (R319 to R323). -/

/-- A doorbell write: queued, ignored with QFULL, or failed at once (R320). -/
def State.halDoor (s : State) (n : CtxId) (h key : Nat) (v : Word) : State :=
  let a := v.fld 6 42 * 64
  let st := s.hst n.val h
  if s.hRecv n.val h || !s.bit (CTX_HAL_CFG.off n.val h) CTX_HAL_CFG.EN then s
  else if st == hDown || st == hError then
    let x : Send := ⟨a, key, false, 0, 0⟩
    s.sendEnd n x (s.sendWord2 x) false
  else if 64 ≤ s.hsts n.val h CTX_HAL_STS.QUEUED then s.setHsts n.val h CTX_HAL_STS.QFULL 1
  else
    let s1 := s.modHal n.val h fun x => { x with sends := x.sends ++ [Send.mk a key false 0 0] }
    s1.setHsts n.val h CTX_HAL_STS.QUEUED (s.hsts n.val h CTX_HAL_STS.QUEUED + 1)

def execHalyardDoorbell (ctx : CtxId) (h : Fin 16) (c : CoreId) (v : Word) (s : State) : Out :=
  .next (s.halDoor ctx h.val (coreKey c) v)

/-- A send descriptor breaks R319 or its source is out of reach (R320). `sz` is the slot size in bytes. -/
def State.sendBad (s : State) (n a : Nat) (d : List Word) (sz : Nat) : Bool :=
  let w0 := dw d 0
  let w1 := dw d 1
  let w2 := dw d 2
  let len := w1.fld 0 32
  (s.recordFault n a).isSome || w0.fld 48 16 != 0 || w0.fld 0 48 % 64 != 0 || w1.fld 56 8 != 0 || w2.fld 0 45 != 0 ||
    (d.drop 3).any (· != 0) || len == 0 || decide (sz < len + 64) || (sEve w2 && sEvInc w2 == 0) ||
    s.endpointBad n (w0.fld 0 48) ((w0.fld 0 48 + len : Nat) - 1) false

/-- The pennants of a message leave on VC2: its payload 64 bytes at a time in address order, then its header (R315, R321, R359). -/
def State.sendMessage (s : State) (peer : PkgId) (m : HalMsg) (a len : Nat) (header : List Byte) : State :=
  let s1 := (List.range ((len + 63) / 64)).foldl (fun s i =>
    let k := min 64 (len - 64 * i)
    (s.sendPen tHDATA 2 peer.toNat m.srcCtx (halAddr hkPayload m i) (s.readBytes (a + 64 * i) k) (k - 1) false (s.poisoned (a + 64 * i) k) 0).1) s
  (s1.sendPen tHDATA 2 peer.toNat m.srcCtx (halAddr hkHeader m 0) header 23 true false 0).1

/-- The first queued send of an OPEN halyard that holds a credit starts: its descriptor is read and checked, its payload and then its header
leave (R320, R321); a descriptor read poisoned fails (log 13, DEDUCED). A send of a suspending context waits (R501). -/
def State.halStart (s : State) (n : CtxId) (h : Nat) : State :=
  let stop := (s.ctx n.val).suspend.isSome || (s.ctx n.val).st == .suspended
  match (s.hal n.val h).sends.find? fun x => !x.started with
  | some x =>
    if s.hst n.val h == hOpen && s.hsts n.val h CTX_HAL_STS.LEVEL != 0 && !stop then
      let d := bytesToWords 8 (s.readBytes x.desc 64)
      let drop (s : State) : State :=
        (s.modHal n.val h fun y => { y with sends := y.sends.erase x }).setHsts n.val h CTX_HAL_STS.QUEUED
          (s.hsts n.val h CTX_HAL_STS.QUEUED - 1)
      if s.sendBad n.val x.desc d ((s.hal n.val h).slotSz * 4096) then (drop s).sendEnd n x (dw d 2) false
      else if s.poisoned x.desc 64 then (drop (s.readRecs n [(x.desc, 64)])).sendEnd n x (dw d 2) false
      else
        let a := (dw d 0).fld 0 48
        let len := (dw d 1).fld 0 32
        let seq := s.hsts n.val h CTX_HAL_STS.SEQ
        let head := leBytes 8 (put len 32 + seq) ++ leBytes 8 ((dw d 1).fld 32 24) ++ leBytes 8 s.time
        let s2 := (s.readRecs n [(a, len)]).sendMessage (s.hPeer n.val h) (s.hMsg n h) a len head
        let s3 := s2.setHsts n.val h CTX_HAL_STS.LEVEL (s.hsts n.val h CTX_HAL_STS.LEVEL - 1)
        let s4 := s3.setHsts n.val h CTX_HAL_STS.SEQ ((seq + 1) % 2 ^ 32)
        let mark (y : Send) : Send := if y == x then { y with started := true, word2 := dw d 2, seq := seq } else y
        s4.modHal n.val h fun y => { y with sends := y.sends.map mark }
    else s
  | none => s

def execHalyardSendStart (ctx : CtxId) (h : Fin 16) (s : State) : Out := .next (s.halStart ctx h.val)

/-- A message of a send halyard to this package itself has been delivered: the receiving end has counted it (R321). What reports a delivery at
another package is the command (log 70, DESIGN CHOICE). -/
def State.wasDelivered (s : State) (n h : Nat) (x : Send) : Bool :=
  (s.hPeer n h).toNat != s.self ||
    decide ((s.hsts (s.hcfg n h CTX_HAL_CFG.PEER_CTX) (s.hcfg n h CTX_HAL_CFG.PEER_HAL) CTX_HAL_STS.SEQ + 2 ^ 32 - 1 - x.seq) % 2 ^ 32 < 2 ^ 31)

/-- A send under way completes at the point that its DLV selects: the oldest whose source has been read with DLV = 0, or the oldest with DLV = 1
when its delivery is reported (R322). -/
def execHalyardSendComplete (ctx : CtxId) (e : SendPoint) (s : State) : Out :=
  let n := ctx.val
  .next (match (s.hal n e.hal.val).sends.find? fun x => x.started && sDlv x.word2 == e.delivered with
    | some x =>
      if !e.delivered || s.wasDelivered n e.hal.val x then
        let s1 := s.modHal n e.hal.val fun y => { y with sends := y.sends.erase x }
        (s1.setHsts n e.hal.val CTX_HAL_STS.QUEUED (s.hsts n e.hal.val CTX_HAL_STS.QUEUED - 1)).sendEnd ctx x x.word2 true
      else s
    | none => s)

/-! Receiving (R321, R324). -/

/-- The core that a delivery's increment goes to (R316). -/
def State.halCore (s : State) (n h : Nat) : Nat :=
  let o := CTX_HAL_EV.off n h
  if s.bit o CTX_HAL_EV.CC then 0x1000 + s.fld o CTX_HAL_EV.CLUSTER
  else s.fld o CTX_HAL_EV.DIE * 256 + s.fld o CTX_HAL_EV.CLUSTER * 16 + s.fld o CTX_HAL_EV.CORE

/-- A delivery is refused by a pin entry: ERROR at both ends (R325). The sending end is told, or is a halyard of this package. -/
def State.halRefuse (s : State) (n : CtxId) (h : Nat) : State :=
  let s1 := s.halLeave n h hError 2
  if (s.hPeer n.val h).toNat = s.self then s1.closeIn (s.hPeer n.val h) (s.hMsg n h) true
  else s1.sendShake (s.hPeer n.val h) (s.hMsg n h) hkRefused 0

/-- An HDATA pennant arrives: payload goes to offset 64 of the slot, the header to offset 0; a header with the SEQ of the message due delivers
it (R321, R323). One for a closed halyard is discarded (R521). -/
def State.halData (s : State) (pn : Pennant) : State :=
  let m := (Pennant.halMsg pn)
  let src := pn.src
  let n := m.dstCtx.val
  let h := m.dstHal.val
  if s.hRecv n h && s.hst n h == hOpen && s.hNames src m then
    let seq := s.hsts n h CTX_HAL_STS.SEQ
    let slot := s.ringBase n h + seq % s.ringSlots n h * s.slotBytes n h
    if Pennant.halKind pn == hkPayload then
      let off := 64 * (Pennant.halArg pn)
      let b := (Pennant.bytes pn (pn.len.toNat + 1)).take (s.slotBytes n h - 64 - off)
      if s.pinForbids (some n) false (slot + 64 + off) b.length then s.halRefuse m.dstCtx h
      else (s.writeMem (slot + 64 + off) b pn.poison).modHal n h fun x => { x with poison := x.poison || pn.poison }
    else
      let head := (Pennant.held pn).take 24
      if leNat (head.take 4) != seq then s
      else if s.pinForbids (some n) false slot 64 then s.halRefuse m.dstCtx h
      else
        let status := leBytes 1 (b2n (s.hal n h).poison)
        let s1 := s.writeMem slot (head.take 11 ++ status ++ zeroBytes 4 ++ (head.drop 16).take 8 ++ zeroBytes 40) false
        let s2 := (s1.setHsts n h CTX_HAL_STS.LEVEL (s.hsts n h CTX_HAL_STS.LEVEL + 1)).setHsts n h CTX_HAL_STS.SEQ ((seq + 1) % 2 ^ 32)
        let s3 := s2.modHal n h fun x => { x with poison := false }
        let o := CTX_HAL_EV.off n h
        if s.bit o CTX_HAL_EV.EVE then s3.sendInc ⟨s.halCore n h, m.dstCtx, s.fld o CTX_HAL_EV.EV, s.fld o CTX_HAL_EV.EVINC⟩ else s3
  else s

/-- An HDATA pennant arrives. -/
def hdataRx (pn : Pennant) (s : State) : Out :=
  .next (if pn.typ.toNat == tHDATA then s.takeSeq pn fun s => s.halData pn else s)
def execHdataReceive (h : PnHead) (eseq : BitVec 16) (r : PnPart) (s : State) : Out := hdataRx (pnOf h eseq r.addr r.payload) s

/-- Credits go back to the sending end on VC2 (R315, R324). -/
def State.sendCred (s : State) (dst : PkgId) (m : HalMsg) (k : Nat) : State :=
  (s.sendPen tHCRED 2 dst.toNat m.srcCtx (halAddr 0 m k) [] 0 true false 0).1

/-- A release frees the N oldest delivered slots and returns their credits (R324). -/
def State.halRelease (s : State) (n : CtxId) (h k : Nat) : State :=
  let lv := s.hsts n.val h CTX_HAL_STS.LEVEL
  if s.hRecv n.val h then
    let f := min k lv
    let s1 := s.setHsts n.val h CTX_HAL_STS.LEVEL (lv - f)
    let s2 := if lv < k then s1.setHsts n.val h CTX_HAL_STS.RELERR 1 else s1
    if f != 0 && s.hst n.val h == hOpen then s2.sendCred (s.hPeer n.val h) (s.hMsg n h) f else s2
  else s

def execHalyardRelease (ctx : CtxId) (h : Fin 16) (k : Nat) (s : State) : Out := .next (s.halRelease ctx h.val (k % 512))

/-- Returned credits raise the sender's LEVEL (R324). -/
def State.credIn (s : State) (src : PkgId) (m : HalMsg) (k : Nat) : State :=
  let n := m.dstCtx.val
  let h := m.dstHal.val
  if !s.hRecv n h && s.hst n h == hOpen && s.hNames src m then
    s.setHsts n h CTX_HAL_STS.LEVEL (min 256 (s.hsts n h CTX_HAL_STS.LEVEL + k)) else s

/-- An HCRED pennant arrives. -/
def hcredRx (pn : Pennant) (s : State) : Out :=
  .next (if pn.typ.toNat == tHCRED then s.takeSeq pn fun s => s.credIn pn.src (Pennant.halMsg pn) (Pennant.halArg pn) else s)
def execHcredReceive (h : PnHead) (eseq : BitVec 16) (r : PnPart) (s : State) : Out := hcredRx (pnOf h eseq r.addr r.payload) s

/-- The halyards of a context close without a word to their peers, as the hatch does (R520). -/
def State.closeHals (s : State) (n : Nat) : State :=
  { s with hals := s.hals.filter fun x => x.1 / 16 != n }

/-! Holds (R334 to R337). -/

/-- The entries that a context has as holder, shown in CTX_VHOLD_USE (R327). -/
def State.syncUse (s : State) (n : Nat) : State :=
  s.setFld (CTX_VHOLD_USE.off n) CTX_VHOLD_USE.ENTRIES ((s.vholds.filter fun h => h.holder.val == n).length)

/-- The fault of a hold operation that R335 names: the package controller detects it, at the store of the core that wrote the register, with
the class, operation and pc of that store (R156, R157; log 69, DESIGN CHOICE for the unit). -/
def State.holdFault (s : State) (n : CtxId) (key : Nat) : State :=
  let a := csrBase + CTX_VHOLD.off n.val
  let st := (s.allFlights key).find? fun f => match f.op with | .store _ => f.remote.isNone && f.addr == a | _ => false
  match st with
  | some f => s.addFault ⟨n, .illegalOperand, f.cls, f.opc, f.pc, a, unitPkg, s.time⟩
  | none => s.addFault ⟨n, .illegalOperand, 0, 0, 0, a, unitPkg, s.time⟩

/-- An acquire of a tag is accepted (R334). -/
def State.holdOk (s : State) (n owner : CtxId) (t : Nat) : Bool :=
  let tag := s.tagOf owner.val
  let lead := (t + 256 - tag) % 256
  (owner == n || (s.csrGet (CTX_VER_SHARE.off owner.val)).getLsbD n.val) &&
    (decide ((tag + 256 - t) % 256 < s.keepOf owner.val) || (decide (1 ≤ lead) && decide (lead ≤ 4)) || s.tagHeld owner t)

/-- A hold is acquired, or the holder faults (R334, R335). -/
def State.acquire (s : State) (key : Nat) (n owner : CtxId) (t : Nat) : State :=
  if s.holdOk n owner t then
    match s.vholds.find? fun h => h.holder == n && h.owner == owner && h.tag == t with
    | some h =>
      if h.count = 0xFFFF then s.holdFault n key
      else { s with vholds := updWhere (fun x => x == h) (fun x => { x with count := x.count + 1 }) s.vholds }
    | none =>
      if s.vholds.length < 1024 then ({ s with vholds := s.vholds ++ [VHold.mk n owner t 1] }).syncUse n.val else s.holdFault n key
  else s.holdFault n key

def execVholdAcquire (c : CoreId) (ctx : CtxId) (owner : CtxId) (tag : Nat) (s : State) : Out :=
  .next (s.acquire (coreKey c) ctx owner (tag % 256))

/-- A hold is released, or the holder faults (R334, R335). -/
def State.unhold (s : State) (key : Nat) (n owner : CtxId) (t : Nat) : State :=
  match s.vholds.find? fun h => h.holder == n && h.owner == owner && h.tag == t with
  | some h =>
    if h.count ≤ 1 then ({ s with vholds := s.vholds.filter fun x => x != h }).syncUse n.val
    else { s with vholds := updWhere (fun x => x == h) (fun x => { x with count := x.count - 1 }) s.vholds }
  | none => s.holdFault n key

def execVholdRelease (c : CoreId) (ctx : CtxId) (owner : CtxId) (tag : Nat) (s : State) : Out :=
  .next (s.unhold (coreKey c) ctx owner (tag % 256))

/-- A context's holds as holder go, and on a function reset those on it as owner too (R337). -/
def State.dropHolds (s : State) (n : CtxId) (owner : Bool) : State :=
  let gone (h : VHold) : Bool := h.holder == n || (owner && h.owner == n)
  let hs := (s.vholds.filter gone).map fun h => h.holder.val
  (n.val :: hs).foldl (fun s k => s.syncUse k) { s with vholds := s.vholds.filter fun h => !gone h }

end Sys2Proof.Machine
end

