-- ==== Sys2Proof/Machine/Collective.lean ====
section
/-! DEFINITION. Collective groups, the collective instructions, reduce-scatter, all-gather and permute on chunks, their ends, the stall
watchdog, and the acceptance of gradient chunks into staging (12_collectives.md R424 to R456, R464 to R470; 08_update_unit.md R282). -/

namespace Sys2Proof.Machine

/-! Groups (R424 to R427). -/

/-- A group axis: the axis, its sub-block's start and extent, and whether its ring wraps (R425). -/
structure GAx where
  axis : Nat
  lo   : Nat
  e    : Nat
  wrap : Bool
deriving DecidableEq, Repr

def State.gValid (s : State) (n g : Nat) : Bool := s.bit (CTX_COL_GRP.off n g) CTX_COL_GRP.VALID
def State.gKey (s : State) (n g : Nat) : Nat := s.fld (CTX_COL_GRP.off n g) CTX_COL_GRP.GKEY
/-- The axis codes of a group, in order. -/
def axCodes (w : Word) : List Nat := [getFld w CTX_COL_GRP.AX0, getFld w CTX_COL_GRP.AX1, getFld w CTX_COL_GRP.AX2]

/-- LO and LEN of an axis in a sub-block register. -/
def subOf (w : Word) (a : Nat) : Nat × Nat :=
  match a with
  | 0 => (getFld w CTX_COL_SUB.LOX, getFld w CTX_COL_SUB.LENX)
  | 1 => (getFld w CTX_COL_SUB.LOY, getFld w CTX_COL_SUB.LENY)
  | _ => (getFld w CTX_COL_SUB.LOZ, getFld w CTX_COL_SUB.LENZ)

/-- The axes of a group word with a sub-block word (R425). -/
def State.axesOf (s : State) (gw sw : Word) : List GAx :=
  ((axCodes gw).filter (· != 0)).map fun c =>
    let a := c - 1
    if getFld sw CTX_COL_SUB.FULL = 1 then ⟨a, 0, s.extent a, s.wrapOk a⟩
    else
      let x := subOf sw a
      ⟨a, x.1, x.2 + 1, s.wrapOk a && x.2 + 1 == s.extent a⟩

/-- The axes of a context's group. -/
def State.gAxes (s : State) (n g : Nat) : List GAx := s.axesOf (s.csrGet (CTX_COL_GRP.off n g)) (s.csrGet (CTX_COL_SUB.off n g))

/-- Members of a group. -/
def gSize (l : List GAx) : Nat := l.foldl (fun m a => m * a.e) 1
/-- The product of the extents of the first `j` axes. -/
def gLow (l : List GAx) (j : Nat) : Nat := gSize (l.take j)

/-- The ring position of a package on a group axis. -/
def State.gPos (s : State) (a : GAx) (p : Nat) : Nat := ringPos a.wrap a.e (coord p a.axis - s.origin a.axis - a.lo)
/-- The rank of a package that is a member (R425). -/
def State.gRankOf (s : State) (l : List GAx) (p : Nat) : Nat :=
  ((List.range l.length).map fun j => (match l[j]? with | some a => s.gPos a p | none => 0) * gLow l j).foldl (· + ·) 0
/-- A package is a member of the group (R425). -/
def State.gMember (s : State) (l : List GAx) (p : Nat) : Bool :=
  [0, 1, 2].all fun a =>
    match l.find? fun x => x.axis == a with
    | some x => decide (s.origin a + x.lo ≤ coord p a) && decide (coord p a < s.origin a + x.lo + x.e)
    | none => coord p a == coord s.self a
/-- Digit `j` of a rank. -/
def gDigit (l : List GAx) (j r : Nat) : Nat := match l[j]? with | some a => r / gLow l j % a.e | none => 0
/-- The package that holds a rank. -/
def State.gPkg (s : State) (l : List GAx) (r : Nat) : Nat :=
  (List.range l.length).foldl (fun p j =>
    match l[j]? with
    | some a => withCoord p a.axis (s.origin a.axis + a.lo + ringIdx a.wrap a.e (gDigit l j r))
    | none => p) s.self

/-- The context and group that hold a key. -/
def State.gByKey (s : State) (key : Nat) : Option (CtxId × Nat) :=
  (List.range 1024).findSome? fun i =>
    if s.gValid (i / 16) (i % 16) && s.gKey (i / 16) (i % 16) == key then some (Fin.ofNat 64 (i / 16), i % 16) else none

/-- The condition under which VALID = 1 takes effect (R426). -/
def State.gOk (s : State) (n g : Nat) (gw sw : Word) : Bool :=
  let cs := axCodes gw
  let used := cs.filter (· != 0)
  let key := getFld gw CTX_COL_GRP.GKEY
  s.inSlice && getFld gw CTX_COL_GRP.AX0 != 0 && decide used.Nodup && cs.take used.length == used &&
    ((s.axesOf gw sw).all fun a =>
      let i := coord s.self a.axis - s.origin a.axis
      decide (a.lo + a.e ≤ s.extent a.axis) && decide (a.lo ≤ i) && decide (i < a.lo + a.e)) &&
    key != 0 &&
    (List.range 1024).all fun i => (i / 16 == n && i % 16 == g) || !(s.gValid (i / 16) (i % 16) && s.gKey (i / 16) (i % 16) == key)

/-- A collective that has not ended. -/
def Coll.live (c : Coll) : Bool := c.st == .queued || c.st == .open || c.st == .parked
/-- Open or parked. -/
def Coll.running (c : Coll) : Bool := c.st == .open || c.st == .parked

/-- The group is busy: a collective open or parked, or an unresolved vote of the commit group (R427). -/
def State.gBusy (s : State) (n g : Nat) : Bool :=
  (s.colls.any fun c => c.ctx.val == n && c.grp == g && c.live) ||
    (s.fld (CTX_COL_CTL.off n) CTX_COL_CTL.CMT_GRP == g && s.votes.any fun v => v.ctx.val == n)

/-- A write to CTX_COL_GRPg (R426, R427). Its lower half holds no writable field, so that a write of that half alone puts nothing in force. -/
def State.grpWrite (s : State) (n g : Nat) (sz : CsrSize) (v : Word) : State :=
  if s.gBusy n g then s.setFld (CTX_COL_STS.off n) CTX_COL_STS.BUSYWR 1
  else if sz = .lo32 then s
  else
    let o := CTX_COL_GRP.off n g
    let w := mergeSz (s.csrGet o) sz v
    let s1 := [CTX_COL_GRP.VALID, CTX_COL_GRP.AX0, CTX_COL_GRP.AX1, CTX_COL_GRP.AX2, CTX_COL_GRP.GKEY].foldl
      (fun s f => s.setFld o f (getFld w f)) s
    if getFld w CTX_COL_GRP.VALID = 1 then
      (if s.gOk n g w (s.csrGet (CTX_COL_SUB.off n g)) then
        let l := s1.gAxes n g
        let s2 := (s1.setFld o CTX_COL_GRP.NEXT_EPOCH 0).setFld o CTX_COL_GRP.RANK (s1.gRankOf l s1.self)
        let s3 := s2.setFld (CTX_COL_SUB.off n g) CTX_COL_SUB.SIZE (gSize l - 1)
        { s3 with colls := s3.colls.filter fun c => !(c.ctx.val == n && c.grp == g) }
      else (s1.setFld o CTX_COL_GRP.VALID 0).setFld (CTX_COL_STS.off n) CTX_COL_STS.CFGERR 1)
    else s1

def execColGrpWrite (ctx : CtxId) (g : Fin 16) (sz : CsrSize) (v : Word) (s : State) : Out := .next (s.grpWrite ctx.val g.val sz v)

/-- A write to CTX_COL_SUBg (R427). -/
def State.subWrite (s : State) (n g : Nat) (sz : CsrSize) (v : Word) : State :=
  if s.gBusy n g then s.setFld (CTX_COL_STS.off n) CTX_COL_STS.BUSYWR 1
  else
    let o := CTX_COL_SUB.off n g
    let w := mergeSz (s.csrGet o) sz v
    [CTX_COL_SUB.FULL, CTX_COL_SUB.LENZ, CTX_COL_SUB.LENY, CTX_COL_SUB.LENX, CTX_COL_SUB.LOZ, CTX_COL_SUB.LOY, CTX_COL_SUB.LOX].foldl
      (fun s f => s.setFld o f (getFld w f)) s

def execColSubWrite (ctx : CtxId) (g : Fin 16) (sz : CsrSize) (v : Word) (s : State) : Out := .next (s.subWrite ctx.val g.val sz v)

/-! Descriptors (R433, R434). -/

def cGrp (d : List Word) : Nat := (dw d 0).fld 56 4
def cItype (d : List Word) : Nat := (dw d 0).fld 52 4
def cOtype (d : List Word) : Nat := (dw d 0).fld 48 4
def cRed (d : List Word) : Nat := (dw d 0).fld 46 2
def cUpd (d : List Word) : Bool := (dw d 0).flag 45
def cExpert (d : List Word) : Bool := (dw d 0).flag 44
def cCeve (d : List Word) : Bool := (dw d 0).flag 43
def cCev (d : List Word) : Nat := (dw d 0).fld 35 8
/-- The chunk size CH in bytes. -/
def cCh (d : List Word) : Nat := 4096 * 2 ^ (dw d 0).fld 32 3
def cSrc (d : List Word) : Nat := (dw d 1).fld 0 48
def cDst (d : List Word) : Nat := (dw d 2).fld 0 48
def cBlock (d : List Word) : Nat := (dw d 2).fld 48 15
def cOff (d : List Word) : Nat := (dw d 2).fld 0 32
def cN (d : List Word) : Nat := (dw d 3).fld 0 32
def cTok (d : List Word) : Nat := (dw d 3).fld 32 16 * 64
def cBnc (d : List Word) : Nat := (dw d 4).fld 0 48
def cStep (d : List Word) : Nat := (dw d 5).fld 0 48
def cList (d : List Word) : Nat := (dw d 6).fld 0 48
def cRwin (d : List Word) : Nat := (dw d 7).fld 32 32 * 4096
def cTag (d : List Word) : Nat := (dw d 7).fld 0 32

/-- A rule of R433 is broken for a kind: 0 reduce-scatter, 1 all-gather, 2 permute. -/
def colBad (k : Nat) (d : List Word) : Bool :=
  let z (w lo len : Nat) : Bool := (dw d w).fld lo len == 0
  let hi (w : Nat) : Bool := z w 48 16
  let common := z 0 60 4 && z 0 0 32 && decide ((dw d 0).fld 32 3 ≤ 4) && hi 1 && hi 4 && hi 5 && hi 6 && z 3 48 16
  !(common &&
    match k with
    | 0 => decide (cItype d ≤ 2) && decide (cOtype d ≤ 2) && decide (cRed d ≤ 2) && !cExpert d && z 3 32 32 && z 4 0 64 && z 6 0 64 &&
        z 7 32 32 && (if cUpd d then z 0 32 3 && cOtype d == 0 && cRed d == 0 && z 2 63 1 && z 2 32 16 else hi 2)
    | 1 => z 0 44 12 && z 3 32 32 && z 4 0 64 && z 6 0 64 && z 7 32 32 && hi 2
    | _ => z 0 45 11 && hi 2 && (if cExpert d then z 7 32 32 else z 3 32 16))

/-- A step number that R434 does not permit, or that does not fit the 48 bits of a step (R290). -/
def State.stepBad (s : State) (n st : Nat) : Bool := decide (st ≤ s.cmtStep n) || decide (s.cmtStep n + 4 < st) || decide (2 ^ 48 ≤ st)

/-- The collective is refused as an illegal operand (R434). -/
def State.colIllegal (s : State) (n k : Nat) (d : List Word) : Bool :=
  colBad k d || !s.gValid n (cGrp d) || cN d == 0 ||
    (k == 0 && cUpd d && (cN d % 1024 != 0 || cOff d % 1024 != 0 || decide (s.fld (CTX_UPD_TBL.off n) CTX_UPD_TBL.NBLK ≤ cBlock d) || cStep d == 0)) ||
    (cStep d != 0 && s.stepBad n (cStep d)) || (k == 2 && cExpert d && decide (65535 < cN d))

/-- Bytes of an element of a type code. -/
def tySize (t : Nat) : Nat := typeBits t / 8

/-- A range with its access, for the check of R254; an empty range passes. -/
def State.rangeBad (s : State) (n a len : Nat) (wr : Bool) : Bool := len != 0 && (s.localFault n a len wr).isSome

/-- A list entry of a permute: destination rank, length, source and destination offsets (R447). -/
def State.permEntry (s : State) (d : List Word) (i : Nat) : Nat × Nat × Nat × Nat :=
  let w0 := s.readWord (cList d + 16 * i)
  let w1 := s.readWord (cList d + 16 * i + 8)
  (w0.fld 0 15, w0.fld 32 32, w1.fld 0 32, w1.fld 32 32)

/-- Bytes that a list sends. -/
def State.permTotal (s : State) (d : List Word) : Nat :=
  ((List.range (cN d)).map fun i => (s.permEntry d i).2.1).foldl (· + ·) 0

/-- The endpoints, the list and the bounce area of a collective that are checked as it is issued, in the order of the descriptor's words: address,
length, and whether it is written (R434, R449). -/
def State.colRanges (s : State) (n k : Nat) (d : List Word) : List (Nat × Nat × Bool) :=
  let ng := gSize (s.gAxes n (cGrp d))
  let bnc (len : Nat) : List (Nat × Nat × Bool) := if cBnc d = 0 then [] else [(cBnc d, len, true)]
  match k with
  | 0 => (cSrc d, ng * cN d * tySize (cItype d), false) :: (if cUpd d then [] else [(cDst d, cN d * tySize (cOtype d), true)])
  | 1 => [(cSrc d, cN d, false), (cDst d, ng * cN d, true)]
  | _ =>
    if cExpert d then [(cSrc d, cN d * cTok d, false), (cDst d, 4, true)] ++ bnc (cN d * cTok d) ++ [(cList d, 4 * cN d, true)]
    else
      ((List.range (cN d)).map fun i => let e := s.permEntry d i; (cSrc d + e.2.2.1, e.2.1, false)) ++ [(cDst d, cRwin d, true)] ++
        bnc (s.permTotal d) ++ [(cList d, 16 * cN d, false)]

/-- The address of the first endpoint, list or bounce area that fails R254, which CTX_FAULT_ADDR then holds; a bounce area outside HBM and the near
tier fails too (R157, R434, R449; log 40, DESIGN CHOICE). -/
def State.colEndFault (s : State) (n k : Nat) (d : List Word) : Option Nat :=
  let away := k == 2 && cBnc d != 0 && !(match tierOf (cBnc d) with | .hbm => true | .near => true | _ => false)
  match (s.colRanges n k d).find? fun r => s.rangeBad n r.1 r.2.1 r.2.2 with
  | some r => some r.1
  | none => if away then some (cBnc d) else none

/-! Instructions (R468 to R470). -/

/-- An instruction of class 0xD. -/
def colOp (op : Nat) (used : List Nat) (aligned : Bool) (dest : Bool) (cid : CoreId) (b : Body) (s : State) : Out :=
  let chk (q : QEntry) (_ : State) : Option (FaultCode × Nat) :=
    if aligned && q.a.toNat % 64 != 0 then some (.alignment, q.a.toNat) else none
  .next (dispatchEng cid .ls ⟨0xD, op, .ts, used⟩ b (modOf b == 0) noPriv chk (if dest then some (opnd .ts b 1) else none) s)

def execColRs := colOp 0x00 [1] true false
def execColAg := colOp 0x01 [1] true false
def execColPerm := colOp 0x02 [1] true false
def execColCmt := colOp 0x03 [1, 2] false true
def execColStat := colOp 0x04 [1, 2] false true
def execColAbort := colOp 0x05 [2] false false

/-- A collective instruction handed to its unit stays in flight until its collective or vote has ended (R128, R468). -/
def State.colFlight (s : State) (key : Nat) (q : QEntry) : State :=
  let ev := match evField .ts q.body with | some (true, e) => some e | _ => none
  s.modCore key fun c =>
    { c with flights := c.flights ++ [⟨c.nextFid, .col, .issued, none, none, 0, 0, 0, 0, ev, q.pc, q.cls, q.op, 0, false, false, c.nextOrd⟩],
             nextFid := c.nextFid + 1 }

/-- A collective instruction completes: its increment, its flight gone (R455). It does not when its core no longer has the flight. -/
def State.colDone (s : State) (key fid : Nat) (q : QEntry) : State :=
  if (s.core key).flights.any fun f => f.fid == fid then
    (s.modCore key fun c => { c with flights := c.flights.filter fun f => f.fid != fid }).complete key q 0
  else s

/-! Access to collectives. -/

def State.coll? (s : State) (n g : Nat) (e : Epoch) : Option Coll := s.colls.find? fun c => c.ctx.val == n && c.grp == g && c.epoch == e
/-- A collective stored back. -/
def State.putColl (s : State) (c : Coll) : State :=
  { s with colls := updWhere (fun x => x.ctx == c.ctx && x.grp == c.grp && x.epoch == c.epoch) (fun _ => c) s.colls }
/-- The axes of a collective's group. -/
def State.cAxes (s : State) (c : Coll) : List GAx := s.gAxes c.ctx.val c.grp
/-- The member's own rank. -/
def State.cRank (s : State) (c : Coll) : Nat := s.gRankOf (s.cAxes c) s.self
/-- The collective unit that runs it (R432). -/
def Coll.unit (c : Coll) : Nat := keyDie c.key
/-- The count of a COL_ERR field of a unit raised (R466). -/
def State.colErr (s : State) (k : Nat) (f : Fld) : State := s.bump (COL_ERR.off k) f 1

/-- The axes with more than one member in the order of a collective's phases (R443, R446). -/
def State.cPhases (s : State) (c : Coll) : List Nat :=
  let l := s.cAxes c
  let js := (List.range l.length).filter fun j => match l[j]? with | some a => decide (1 < a.e) | none => false
  if c.kind = 0 then js.reverse else js

/-- The rank with digit `j` moved to `v`. -/
def gWith (l : List GAx) (j r v : Nat) : Nat := r + v * gLow l j - gDigit l j r * gLow l j
/-- The next member on axis `j`. -/
def State.cNext (s : State) (c : Coll) (j : Nat) : Nat :=
  let l := s.cAxes c
  let r := s.cRank c
  gWith l j r ((gDigit l j r + 1) % (match l[j]? with | some a => a.e | none => 1))
/-- The member before on axis `j`. -/
def State.cPrev (s : State) (c : Coll) (j : Nat) : Nat :=
  let l := s.cAxes c
  let r := s.cRank c
  let e := match l[j]? with | some a => a.e | none => 1
  gWith l j r ((gDigit l j r + e - 1) % e)

/-- Elements (reduce-scatter) or bytes (all-gather) of a chunk; the partials of a reduce-scatter are FP32 (R433, R442). -/
def Coll.per (c : Coll) : Nat := if c.kind = 0 then cCh c.desc / 4 else cCh c.desc
/-- Chunks of a segment. -/
def Coll.chunks (c : Coll) : Nat := (cN c.desc + c.per - 1) / c.per
/-- Elements or bytes of chunk `i` of a segment. -/
def Coll.lenOf (c : Coll) (i : Nat) : Nat := min c.per (cN c.desc - i * c.per)
/-- The key of a chunk of a segment. -/
def partKey (q i : Nat) : Nat := q * 0x1000000 + i

/-! The digest (R436). -/

/-- One bit of the CRC-64 of ECMA-182. -/
def crcBit (r : Word) : Word := if r.flag 63 then (r <<< 1) ^^^ 0x42F0E1EBA9EA3693 else r <<< 1
/-- One byte, most significant bit first. -/
def crcByte (r : Word) (b : Byte) : Word :=
  crcBit (crcBit (crcBit (crcBit (crcBit (crcBit (crcBit (crcBit (r ^^^ (b.setWidth 64 <<< 56)))))))))
/-- The digest of the bytes of a chunk. -/
def crc64 (bs : List Byte) : Word := bs.foldl crcByte 0

/-! CHUNK pennants (R435, R440). -/

/-- ADDR of a CHUNK pennant. -/
def chunkAddr (key sub cidx pidx : Nat) : Nat := put (key % 65536) 32 + put (sub % 8) 29 + put (cidx % 2 ^ 18) 11 + pidx % 2048
def pnKey (p : Pennant) : Nat := bits p.addr.toNat 32 16
def pnSub (p : Pennant) : Nat := bits p.addr.toNat 29 3
def pnCidx (p : Pennant) : Nat := bits p.addr.toNat 11 18
def pnPidx (p : Pennant) : Nat := bits p.addr.toNat 0 11
def pnBytes (p : Pennant) : List Byte := Pennant.bytes p (p.len.toNat + 1)

/-- A CHUNK pennant of a collective to a rank. -/
def State.sendChunkPen (s : State) (c : Coll) (rank sub cidx pidx : Nat) (bytes : List Byte) (last poison : Bool) : State :=
  (s.sendPen tCHUNK 1 (s.gPkg (s.cAxes c) rank) c.ctx (chunkAddr (s.gKey c.ctx.val c.grp) sub cidx pidx) bytes (bytes.length - 1) last
    poison c.epoch.toNat).1

/-- A credit pennant for `k` chunks (R435, R438). -/
def State.sendCredit (s : State) (c : Coll) (rank k : Nat) : State := s.sendChunkPen c rank 2 0 0 (leBytes 8 k) true false

/-- A credit is due to a sender: sent when the collective is open, kept while it is parked (R438, R451). -/
def State.grant (s : State) (c : Coll) (rank : Nat) : Coll × State :=
  if c.st == .parked then ({ c with owed := tset c.owed rank (tget 0 c.owed rank + 1) }, s) else (c, s.sendCredit c rank 1)

/-! Ends (R453 to R456, R464, R469). -/

/-- The flag of CTX_COL_STS for an end. -/
def endFlag : ColSt → Option Fld
  | .corrupt => some CTX_COL_STS.CORRUPT
  | .aborted => some CTX_COL_STS.ABORTED
  | .peerDown => some CTX_COL_STS.PEER_DOWN
  | _ => none

/-- A COLLECTIVE event record (R494): INFO 1 STALL, 2 CORRUPT, 3 FAIL. -/
def State.postCol (s : State) (n info : Nat) : State :=
  s.postCtx n 0x04 info 0 [s.csrGet (if info = 1 then CTX_COL_STALL.off n else CTX_COL_STS.off n)]

/-- A collective ends: its buffers and offers go, its instruction completes. -/
def State.endColl (s : State) (c : Coll) (st : ColSt) (cause : Nat) : State :=
  if c.live then
    let d : Coll := { c with st := st, cause := cause, own := [], ready := [], inq := [] }
    let s1 := s.putColl d
    let mine (o : Offer) : Bool := o.chunk.ctx == c.ctx && o.grp == c.grp && o.epoch == c.epoch
    let s2 := { s1 with offers := s1.offers.filter fun o => !mine o }
    let s3 := match endFlag st with | some f => s2.setFld (CTX_COL_STS.off c.ctx.val) f 1 | none => s2
    let s4 := if st == .corrupt then s3.postCol c.ctx.val 2 else s3
    s4.colDone c.key c.fid c.entry
  else s

/-- ABORT to every other member (R453). -/
def State.sendAborts (s : State) (c : Coll) (cause : Nat) : State :=
  let l := s.cAxes c
  let me := s.cRank c
  ((List.range (gSize l)).filter (· != me)).foldl (fun s r =>
    s.sendMsg (.abort (BitVec.ofNat 15 (s.gPkg l r)) (BitVec.ofNat 16 (s.gKey c.ctx.val c.grp)) c.epoch cause)) s

/-- Ending early with an ABORT to the others; cause 5 (SLICE) sends none (R428, R453). -/
def State.abortColl (s : State) (c : Coll) (st : ColSt) (cause : Nat) : State :=
  if c.live then (if cause = 5 then s else s.sendAborts c cause).endColl c st cause else s

/-- Every live collective that meets a test ends. (log 40, DESIGN CHOICE) -/
def State.endColls (s : State) (p : Coll → Bool) (st : ColSt) (cause : Nat) : State :=
  (s.colls.filter fun c => c.live && p c).foldl (fun s c => s.endColl c st cause) s

/-- ROUTE_DIMS or ROUTE_SLICE was written: every collective ends with cause SLICE and every group is invalid (R428). (log 40, DESIGN CHOICE) -/
def State.sliceEnd (s : State) : State :=
  (List.range 1024).foldl (fun s i =>
    if s.gValid (i / 16) (i % 16) then s.setFld (CTX_COL_GRP.off (i / 16) (i % 16)) CTX_COL_GRP.VALID 0 else s)
    (s.endColls (fun _ => true) .aborted 5)

/-- A collective has landed its last chunk: DONE, or CORRUPT when a marked chunk landed and no vote will cover it (R464). -/
def State.finish (s : State) (c : Coll) : State :=
  if c.why != 0 && (cStep c.desc == 0 || decide (cStep c.desc ≤ s.cmtStep c.ctx.val)) then s.endColl c .corrupt c.why
  else s.endColl c .done 0

/-! Landing (R442, R445, R446, R455). -/

/-- A chunk has landed here: its mark, its event. -/
def State.chunkLanded (s : State) (c : Coll) (key : Nat) (p : Part) (digest : Word) (residue : Bool) : Coll × State :=
  let why := if residue then 8 else if p.cbad then 7 else if p.poison then 9 else 0
  let d : Coll := { c with landed := tset c.landed key digest, why := if c.why = 0 then why else c.why }
  (d, if cCeve c.desc then s.sendInc ⟨c.key, c.ctx, cCev c.desc, 1⟩ else s)

/-- Bytes read for a part, with the record of a poisoned read. -/
def State.readPart (s : State) (n : CtxId) (a len : Nat) : List Byte × Bool × State :=
  let bad := s.poisoned a len
  (s.readBytes a len, bad, if bad then s.poisonRecord a (some n) else s)

/-- A collective writes bytes for its context, or is refused them: a byte that the context may not write when the write is made ends the
collective (R254, R269; log 40, DESIGN CHOICE). -/
def State.colPut (s : State) (c : Coll) (a : Nat) (bytes : List Byte) (poison : Bool) : Coll × State :=
  if s.rangeBad c.ctx.val a bytes.length true then ({ c with refused := true }, s) else (c, s.writeMem a bytes poison)

/-- An input element widened to FP32 (R442). -/
def widen (t w : Nat) : Elem := if t = 0 then BitVec.ofNat 32 w else BitVec.ofNat 32 (convertFv fmtF32 .rne false (typeFv t w)).code

/-- The elements of a byte list of `sz` bytes each. -/
def elemsOf (sz n : Nat) (bs : List Byte) : List Nat := (List.range n).map fun i => leNat ((bs.drop (sz * i)).take sz)

/-- The member's own input for a chunk of a segment, widened to FP32. -/
def State.srcPart (s : State) (c : Coll) (q i : Nat) : Part × State :=
  let t := cItype c.desc
  let n := c.lenOf i
  let x := s.readPart c.ctx (cSrc c.desc + (q * cN c.desc + i * c.per) * tySize t) (n * tySize t)
  (⟨(elemsOf (tySize t) n x.1).flatMap fun w => leBytes 4 (widen t w).toNat, none, false, x.2.1⟩, x.2.2)

/-- An output chunk of a reduce-scatter: written to DST, or offered to the staging of an update unit, which holds back the credit of
`sender` (R442, R445). -/
def State.rsOutput (s : State) (c : Coll) (i : Nat) (p : Part) (sender : Option Nat) (residue : Bool) : Coll × State :=
  let n := c.lenOf i
  let es := elemsOf 4 n p.bytes
  let d := c.desc
  if cUpd d then
    let gran := cOff d / 1024 + i
    let u := (s.hbmPlace ((s.bdw c.ctx.val (cBlock d) 0).fld 0 48 + 4096 * gran)).1
    let s1 := s.readRecs c.ctx [(s.tblBase c.ctx.val + 0x800 + cBlock d * 0x80, 8)]
    let ch : Chunk := ⟨c.ctx, u, cStep d, cBlock d, gran, es.map (BitVec.ofNat 32 ·), p.cbad, p.poison, 0, []⟩
    let why := if residue then 8 else if p.cbad then 7 else if p.poison then 9 else 0
    ({ c with why := if c.why = 0 then why else c.why }, { s1 with offers := s1.offers ++ [⟨ch, crc64 p.bytes, c.grp, c.epoch, sender⟩] })
  else
    let t := cOtype d
    let out := es.map fun w => if t = 0 then w else (convertType t .rne false (f32 (BitVec.ofNat 32 w))).code
    let bytes := out.flatMap fun w => leBytes (tySize t) w
    let w := s.colPut c (cDst d + i * c.per * tySize t) bytes p.poison
    let x := w.2.chunkLanded w.1 (partKey 0 i) p (crc64 bytes) residue
    match sender with
    | some r => x.2.grant x.1 r
    | none => x

/-- A chunk whose phase is over: the output after the last phase, else the member's own part for the next phase, whose first ring step it
opens when its segment is the one that starts there (R441, R443). `done` is the number of phases over. (log 41, DEDUCED) -/
def State.rsPhase (s : State) (c : Coll) (done q i : Nat) (p : Part) (sender : Option Nat) (residue : Bool) : Coll × State :=
  let l := s.cAxes c
  match (s.cPhases c)[done]? with
  | none => s.rsOutput c i p sender residue
  | some j =>
    let e := match l[j]? with | some a => a.e | none => 1
    let c1 := if done = 0 then c else { c with own := tset c.own (partKey q i) p }
    let c2 := if gDigit l j q = (gDigit l j (s.cRank c) + e - 1) % e then
        let out : OutChunk := ⟨s.cNext c j, q % gLow l j * c.chunks + i, p.bytes, none, p.cbad, p.poison, none⟩
        { c1 with ready := c1.ready ++ [out] }
      else c1
    match sender with
    | some r => s.grant c2 r
    | none => (c2, s)

/-- A chunk of a gathered segment that is now here: it goes to the next member on every later axis in whose first ring step it takes part
(R446). -/
def State.agSpread (s : State) (c : Coll) (from_ q i : Nat) (p : Part) : Coll :=
  let l := s.cAxes c
  let me := s.cRank c
  let js := (s.cPhases c).filter fun j => decide (from_ ≤ j) &&
    (List.range l.length).all fun m => decide (m < j) || gDigit l m q == gDigit l m me
  { c with ready := c.ready ++ js.map fun j => OutChunk.mk (s.cNext c j) (q % gLow l j * c.chunks + i) p.bytes p.digest p.cbad p.poison none }

/-- A chunk of a segment written at its place (R446). -/
def State.agLand (s : State) (c : Coll) (q i : Nat) (p : Part) : Coll × State :=
  let w := s.colPut c (cDst c.desc + q * cN c.desc + i * c.per) p.bytes p.poison
  w.2.chunkLanded w.1 (partKey q i) p (p.digest.getD 0) false

/-! Permute (R447 to R449). -/

/-- Entry `e` of the context's expert table: hosting package, receive area, capacity; none when it takes no tokens (R343, R448). -/
def State.expert (s : State) (n e : Nat) : Option (Nat × Nat × Nat) :=
  let o := CTX_EXP_TBL.off n
  let a := s.fld o CTX_EXP_TBL.BASE * 16 + 16 * e
  let w0 := s.readWord a
  if e < s.fld o CTX_EXP_TBL.COUNT ∧ w0.flag 63 = true then some (w0.fld 48 15, w0.fld 0 48, (s.readWord (a + 8)).fld 0 32)
  else none

/-- The expert table and the array of expert numbers, read once as an expert permute starts (R343, R448): the permute with both, and the
records of poisoned bytes among them (R241). -/
def State.readExperts (s : State) (c : Coll) : Coll × State :=
  let o := CTX_EXP_TBL.off c.ctx.val
  let num := s.fld o CTX_EXP_TBL.COUNT
  let rows := (List.range num).filterMap fun e => (s.expert c.ctx.val e).map fun x => (e, x)
  ({ c with table := rows, toks := (List.range (cN c.desc)).map fun t => s.readNat (cList c.desc + 4 * t) 4 },
    s.readRecs c.ctx [(s.fld o CTX_EXP_TBL.BASE * 16, 16 * num), (cList c.desc, 4 * cN c.desc)])

/-- The rank that hosts an expert, if it is a member (log 14, DESIGN CHOICE). -/
def State.hostRank (s : State) (c : Coll) (e : Nat) : Option Nat :=
  match tget? c.table e with
  | some x => if s.gMember (s.cAxes c) x.1 then some (s.gRankOf (s.cAxes c) x.1) else none
  | none => none
/-- The experts that take tokens. -/
def State.experts (s : State) (c : Coll) : List Nat :=
  (c.table.map (·.1)).filter fun e => (s.hostRank c e).isSome

/-- The tokens of the list for an expert, in order. -/
def Coll.tokensOf (c : Coll) (e : Nat) : List Nat := (List.range c.toks.length).filter fun t => c.toks[t]? == some e

/-- Where the permute reads its data: SRC, or the bounce area after the copy (R449). -/
def Coll.base (c : Coll) : Nat := if cBnc c.desc = 0 then cSrc c.desc else cBnc c.desc

/-- The pieces of a transfer of `len` bytes in chunks of CH: offset and length. -/
def pieces (ch len : Nat) : List (Nat × Nat) := (List.range ((len + ch - 1) / ch)).map fun i => (i * ch, min ch (len - i * ch))

/-- A piece of a permute leaves for a rank, or is written at once when it stays here. -/
def State.permOut (s : State) (c : Coll) (rank src dst len : Nat) : Coll × State :=
  let x := s.readPart c.ctx src len
  if rank = s.cRank c then
    let w := x.2.2.colPut c dst x.1 x.2.1
    w.2.chunkLanded w.1 (partKey rank (tget 0 c.gotFrom rank)) ⟨x.1, none, false, x.2.1⟩ (crc64 x.1) false
  else
    let i := tget 0 c.expect (0x100000 + rank)
    let out : OutChunk := ⟨rank, i, x.1, none, false, x.2.1, none⟩
    ({ c with ready := c.ready ++ [out], expect := tset c.expect (0x100000 + rank) (i + 1) }, x.2.2)

/-- Pieces sent in order. -/
def State.permSend (s : State) (c : Coll) (l : List (Nat × Nat × Nat × Nat)) : Coll × State :=
  l.foldl (fun x e =>
    (pieces (cCh c.desc) e.2.2.2).foldl (fun x p => x.2.permOut x.1 e.1 (e.2.1 + p.1) (e.2.2.1 + p.1) p.2) x) (c, s)

/-- COUNT pennants with their payload pieces of 64 bytes, from PIDX `first` (log 15, DESIGN CHOICE). -/
def State.sendCounts (s : State) (c : Coll) (rank first : Nat) (bytes : List Byte) : State :=
  (pieces 64 bytes.length).foldl (fun s p => s.sendChunkPen c rank 3 0 (first + p.1 / 64) ((bytes.drop p.1).take p.2) true false) s

/-- The list entries as rank, source, destination and length; entries that name no member, or no bytes, move nothing (log 14, DESIGN CHOICE). With a
bounce area the source is the place there (R447, R449). -/
def State.permMoves (s : State) (c : Coll) : List (Nat × Nat × Nat × Nat) :=
  let d := c.desc
  let ng := gSize (s.cAxes c)
  ((List.range (cN d)).foldl (fun (x : Nat × List (Nat × Nat × Nat × Nat)) i =>
    let e := s.permEntry d i
    let src := if cBnc d = 0 then cSrc d + e.2.2.1 else cBnc d + x.1
    (x.1 + e.2.1, if e.1 < ng ∧ e.2.1 ≠ 0 then x.2 ++ [(e.1, src, cDst d + e.2.2.2, e.2.1)] else x.2)) (0, [])).2

/-- The copy into the bounce area (R449). -/
def State.bounce (s : State) (c : Coll) : Coll × State :=
  let d := c.desc
  if cBnc d = 0 then (c, s)
  else if cExpert d then
    let x := s.readPart c.ctx (cSrc d) (cN d * cTok d)
    x.2.2.colPut c (cBnc d) x.1 x.2.1
  else
    ((List.range (cN d)).foldl (fun (x : Nat × Coll × State) i =>
      let e := s.permEntry d i
      let r := x.2.2.readPart c.ctx (cSrc d + e.2.2.1) e.2.1
      (x.1 + e.2.1, if e.2.1 = 0 then x.2 else r.2.2.colPut x.2.1 (cBnc d + x.1) r.1 r.2.1)) (0, c, s)).2

/-- Credits of a permute: one at a time to the senders in ascending rank order, round-robin, from a window of 16 (R438). -/
def State.permGrant (s : State) (c : Coll) : Nat → Coll × State
  | 0 => (c, s)
  | fuel + 1 =>
    let ng := gSize (s.cAxes c)
    let sum (t : Tbl Nat) : Nat := t.foldl (fun m x => m + x.2) 0
    let want (r : Nat) : Bool := r != s.cRank c && decide (tget 0 c.granted r < tget 0 c.expect r)
    if c.st == .open && decide (sum c.granted < sum c.gotFrom + 16) then
      match ((List.range ng).map fun i => (c.rr + i) % ng).find? want with
      | some r =>
        State.permGrant (s.sendCredit c r 1)
          { c with granted := tset c.granted r (tget 0 c.granted r + 1), rr := (r + 1) % ng } fuel
      | none => (c, s)
    else (c, s)

/-- The bytes of a COUNT message in list mode: the number of chunks, the number of entries, and DOFF and LEN of each (log 15, DESIGN CHOICE). -/
def listCount (ch : Nat) (l : List (Nat × Nat)) : List Byte :=
  let n := (l.map fun e => (pieces ch e.2).length).foldl (· + ·) 0
  leBytes 4 n ++ leBytes 4 l.length ++ l.flatMap fun e => leBytes 4 e.1 ++ leBytes 4 e.2

/-- The bytes of a COUNT message in expert mode: pairs of 16-bit numbers (R448). -/
def pairCount (l : List (Nat × Nat)) : List Byte := l.flatMap fun e => leBytes 2 e.1 ++ leBytes 2 e.2

/-- Keys of the tables of an expert permute: a count by rank and expert, an answer by expert. -/
def cntKey (r e : Nat) : Nat := r * 0x10000 + e
def ansKey (e : Nat) : Nat := 0x100000000 + e

/-- The host has every count: it fixes the places, writes RCNT and answers the senders (R448). -/
def State.hostAnswer (s : State) (c : Coll) : Coll × State :=
  let me := s.cRank c
  let ng := gSize (s.cAxes c)
  let mine := (s.experts c).filter fun e => s.hostRank c e == some me
  let all := mine.all fun e => (List.range ng).all fun r => (tget? c.counts (cntKey r e)).isSome
  if c.phase % 2 = 1 || !all then (c, s)
  else
    let cnt (r e : Nat) : Nat := tget 0 c.counts (cntKey r e)
    let prefix_ (r e : Nat) : Nat := ((List.range r).map fun i => cnt i e).foldl (· + ·) 0
    let cap (e : Nat) : Nat := match tget? c.table e with | some x => x.2.2 | none => 0
    let dst (e : Nat) : Nat := match tget? c.table e with | some x => x.2.1 | none => 0
    let acc (r e : Nat) : Nat := min (cnt r e) (cap e - prefix_ r e)
    let place (r : Nat) : List (Nat × Nat) := mine.flatMap fun e => (List.range (acc r e)).flatMap fun k =>
      (pieces (cCh c.desc) (cTok c.desc)).map fun p => (dst e + (prefix_ r e + k) * cTok c.desc + p.1, p.2)
    let c1 := (List.range ng).foldl (fun (c : Coll) r =>
      if r = me then c else { c with places := tset c.places r (place r), expect := tset c.expect r (place r).length }) c
    let c2 := mine.foldl (fun (c : Coll) e =>
      { c with counts := tset (tset c.counts (ansKey e) (acc me e)) (ansKey (0x10000 + e)) (prefix_ me e) }) c1
    let w := mine.foldl (fun (x : Coll × State) e => x.2.colPut x.1 (cDst c.desc + 4 * e) (leBytes 4 (min (prefix_ ng e) (cap e))) false) (c2, s)
    let s2 := ((List.range ng).filter (· != me)).foldl (fun s r => s.sendCounts c r 1024 (pairCount (mine.map fun e => (e, acc r e)))) w.2
    s2.permGrant { w.1 with phase := c2.phase + 1 } 16

/-- The sender has every answer: it marks the tokens that it does not send and sends the others, ascending in expert, then in token
(R448, log 15, DESIGN CHOICE). -/
def State.expertSend (s : State) (c : Coll) : Coll × State :=
  let me := s.cRank c
  let es := s.experts c
  if 2 ≤ c.phase || !(es.all fun e => (tget? c.counts (ansKey e)).isSome) then (c, s)
  else
    let sent (e : Nat) : List Nat := (c.tokensOf e).take (tget 0 c.counts (ansKey e))
    let all := es.flatMap sent
    let moves := es.flatMap fun e =>
      let r := (s.hostRank c e).getD me
      let at_ := match tget? c.table e with | some x => x.2.1 | none => 0
      let ts := sent e
      (List.range ts.length).map fun k =>
        (r, c.base + ts.getD k 0 * cTok c.desc, at_ + (tget 0 c.counts (ansKey (0x10000 + e)) + k) * cTok c.desc, cTok c.desc)
    let w := ((List.range (cN c.desc)).filter fun t => !all.contains t).foldl
      (fun (x : Coll × State) t => x.2.colPut x.1 (cList c.desc + 4 * t) (leBytes 4 0xFFFFFFFF) false) (c, s)
    w.2.permSend { w.1 with phase := c.phase + 2 } moves

/-! Opening (R431, R438, R449). -/

/-- The ranks that a member expects chunks from. -/
def State.senders (s : State) (c : Coll) : List Nat :=
  if c.kind = 2 then (List.range (gSize (s.cAxes c))).filter (· != s.cRank c) else (s.cPhases c).map (s.cPrev c)

/-- Bytes of chunk buffer of a collective's windows (R438, R440). -/
def State.window (s : State) (c : Coll) : Nat := cCh c.desc * (if c.kind = 2 then 16 else 4 * (s.senders c).length)

/-- Every chunk has landed and been sent on. -/
def State.allLanded (s : State) (c : Coll) : Bool :=
  let ng := gSize (s.cAxes c)
  c.ready.isEmpty && c.inq.all (·.used) &&
    match c.kind with
    | 0 => c.landed.length == c.chunks
    | 1 => c.landed.length == ng * c.chunks &&
        (s.cPhases c).all fun j => match (s.cAxes c)[j]? with
          | some a => tget 0 c.sentTo (s.cNext c j) == (a.e - 1) * gLow (s.cAxes c) j * c.chunks
          | none => true
    | _ => (if cExpert c.desc then c.phase == 3 else c.phase == 2) &&
        (s.senders c).all fun r => match tget? c.expect r with | some n => tget 0 c.gotFrom r == n | none => false

/-- A collective stored, and ended once everything has landed, or once a write was refused it (R453, cause ACCESS; R269). -/
def State.settleColl (s : State) (x : Coll × State) : State :=
  let s1 := x.2.putColl x.1
  if x.1.refused then s1.abortColl x.1 .aborted 6
  else if x.1.live && s.allLanded x.1 then s1.finish x.1 else s1

/-- The start of a reduce-scatter: the first ring step of the first phase, or the whole of a group of one (R441, R443). (log 41, DEDUCED) -/
def State.rsStart (s : State) (c : Coll) : Coll × State :=
  let l := s.cAxes c
  let me := s.cRank c
  let one (x : Coll × State) (q i : Nat) : Coll × State :=
    let p := x.2.srcPart x.1 q i
    p.2.rsPhase x.1 0 q i p.1 none false
  match (s.cPhases c)[0]? with
  | none => (List.range c.chunks).foldl (fun x i => one x 0 i) (c, s)
  | some j =>
    let e := match l[j]? with | some a => a.e | none => 1
    let q0 := gWith l j me ((gDigit l j me + e - 1) % e)
    (List.range (gLow l j)).foldl (fun x lo =>
      (List.range c.chunks).foldl (fun x i => one x (q0 - q0 % gLow l j + lo) i) x) (c, s)

/-- The start of an all-gather: the own segment lands and leaves (R446). -/
def State.agStart (s : State) (c : Coll) : Coll × State :=
  let me := s.cRank c
  (List.range c.chunks).foldl (fun x i =>
    let r := x.2.readPart c.ctx (cSrc c.desc + i * c.per) (c.lenOf i)
    let p : Part := ⟨r.1, some (crc64 r.1), false, r.2.1⟩
    let y := r.2.2.agLand x.1 me i p
    (y.2.agSpread y.1 0 me i p, y.2)) (c, s)

/-- The start of a permute: the copy to the bounce area, and the counts (R447 to R449). -/
def State.permStart (s0 : State) (c0 : Coll) : Coll × State :=
  let b := s0.bounce c0
  let me := b.2.cRank c0
  let ng := gSize (b.2.cAxes c0)
  if cExpert c0.desc then
    let t := b.2.readExperts b.1
    let c := t.1
    let s := t.2
    let es := s.experts c
    let cnt (e : Nat) : Nat := (c.tokensOf e).length
    let host (r : Nat) : List (Nat × Nat) := (es.filter fun e => s.hostRank c e == some r).map fun e => (e, cnt e)
    let s1 := ((List.range ng).filter (· != me)).foldl (fun s r => s.sendCounts c r 0 (pairCount (host r))) s
    let c1 := (host me).foldl (fun (c : Coll) e => { c with counts := tset c.counts (cntKey me e.1) e.2 }) c
    let x := s1.hostAnswer c1
    x.2.expertSend x.1
  else
    let c := b.1
    let s := b.2.readRecs c.ctx [(cList c.desc, 16 * cN c.desc)]
    let mv := s.permMoves c
    let movesTo (r : Nat) : List (Nat × Nat) := (mv.filter fun e => e.1 == r).map fun e => (e.2.2.1 - cDst c.desc, e.2.2.2)
    let s1 := ((List.range ng).filter (· != me)).foldl (fun s r => s.sendCounts c r 0 (listCount (cCh c.desc) (movesTo r))) s
    s1.permSend { c with phase := 2 } mv

/-- A QUEUED collective opens when the 16 MiB of its unit hold its window, and grants each sender 4 chunks (R438, R440). -/
def State.openColl (s : State) (c : Coll) : State :=
  let used := (s.colls.filter fun x => x.running && x.unit == c.unit).foldl (fun m x => m + s.window x) 0
  if c.st == .queued && decide (used + s.window c ≤ 0x1000000) then
    let c1 : Coll := { c with st := .open, progress := s.time }
    let x := match c.kind with
      | 0 => s.rsStart c1
      | 1 => s.agStart c1
      | _ => s.permStart c1
    let s1 := if c.kind = 2 then x.2 else (s.senders c).foldl (fun t r => t.sendCredit c1 r 4) x.2
    s1.settleColl (x.1, s1)
  else s

def execCollectiveOpen (ctx : CtxId) (g : Fin 16) (e : Epoch) (s : State) : Out :=
  .next (match s.coll? ctx.val g.val e with | some c => s.openColl c | none => s)

/-! Sending (R435, R438, R440). -/

/-- The trailer's payload (R435). -/
def State.trailer (s : State) (c : Coll) (o : OutChunk) : List Byte :=
  leBytes 8 (match o.digest with | some d => d | none => crc64 o.bytes).toNat ++ leBytes 8 s.time ++
    leBytes 1 (b2n o.cbad + 2 * b2n o.poison) ++ leBytes 1 c.kind ++ leBytes 2 ((o.bytes.length + 63) / 64) ++ leBytes 4 (cN c.desc) ++ zeroBytes 40

/-- A chunk of the collective is next for its receiver, and a credit for it is held. -/
def Coll.canSend (c : Coll) : Bool :=
  c.st == .open && c.ready.any fun o => o.cidx == tget 0 c.sentTo o.rank && tget 0 c.credit o.rank != 0

/-- The place of a collective in the pointer order of its unit: context, then group, then epoch (R432). -/
def Coll.place (c : Coll) : Nat := (c.ctx.val * 16 + c.grp % 16) * 65536 + c.epoch.toNat

/-- It is a collective's turn among the open ones of its unit that have a chunk to send (R22, R432). -/
def State.colTurn (s : State) (c : Coll) : Bool :=
  s.arbWinner (.collective c.unit) ((s.colls.filter fun x => x.unit == c.unit && x.canSend).map (·.place)) == some c.place

/-- The unit of a collective has served one of its chunks (R22, R432). -/
def State.colServed (s : State) (c : Coll) : State := s.arbServed (.collective c.unit) c.place

/-- The next chunk to a rank is sent when a credit for it is held and it is the collective's turn. -/
def State.chunkSend (s : State) (c : Coll) (rank : Nat) : State :=
  let k := tget 0 c.sentTo rank
  let cr := tget 0 c.credit rank
  match c.ready.find? fun o => o.rank == rank && o.cidx == k with
  | some o =>
    if c.st == .open && cr != 0 && s.colTurn c then
      let n := (o.bytes.length + 63) / 64
      let s1 := (List.range n).foldl (fun s i => s.sendChunkPen c rank 0 k i ((o.bytes.drop (64 * i)).take 64) false o.poison) (s.colServed c)
      let s2 := s1.sendChunkPen c rank 1 k n (s.trailer c o) true false
      let c1 : Coll := { c with ready := c.ready.erase o, sentTo := tset c.sentTo rank (k + 1), credit := tset c.credit rank (cr - 1) }
      let x := match o.grant with | some r => s2.grant c1 r | none => (c1, s2)
      x.2.settleColl x
    else s
  | none => s

def execChunkSend (ctx : CtxId) (g : Fin 16) (e : Epoch) (rank : Nat) (s : State) : Out :=
  .next (match s.coll? ctx.val g.val e with | some c => s.chunkSend c rank | none => s)

/-! Receiving (R437 to R439, R441 to R446). -/

/-- The collective that a CHUNK pennant names, open or parked here, with the rank of its sender (R437). -/
def State.chunkColl (s : State) (pn : Pennant) : Option (Coll × Nat) :=
  match s.gByKey (pnKey pn) with
  | some (n, g) =>
    (match s.coll? n.val g pn.eseq with
     | some c =>
       let l := s.cAxes c
       if c.running && s.gMember l pn.src.toNat then some (c, s.gRankOf l pn.src.toNat) else none
     | none => none)
  | none => none

/-- A pennant or chunk discarded (R437, R466). -/
def State.dup (s : State) (k : Nat) : State := s.colErr k COL_ERR.DUP

/-- A complete chunk's content with its digest checked; an injection makes the check fail (R439, R562). -/
def State.checkChunk (s : State) (c : Coll) (x : InChunk) : Part × State :=
  let n := (bits (leNat (((x.trailer.getD []).drop 18).take 2)) 0 16)
  let bytes := (List.range n).flatMap fun i => tget [] x.data i
  let digest := BitVec.ofNat 64 (leNat ((x.trailer.getD []).take 8))
  let fl := leNat (((x.trailer.getD []).drop 16).take 1)
  let bad := crc64 bytes != digest || s.armed 0x0D (unitCol c.unit)
  let s1 := if bad then
      (s.colErr c.unit COL_ERR.DIGEST).quickRecord (mkDet 0x0D (unitCol c.unit) (some c.ctx) 1 1 3 0 0 (put c.grp 16 + c.epoch.toNat) 0) 0 1 0x04 false
    else s
  (⟨bytes, some digest, bad || fl % 2 == 1, x.poison || fl / 2 % 2 == 1⟩, s1)

/-- One partial combined with the own part under RED (R442): the elements and whether a sum produced a NaN (R62). -/
def combine (red : Nat) (p o : List Nat) : List Byte × Bool :=
  let one (a b : Nat) : Elem × Bool :=
    let x := BitVec.ofNat 32 a
    let y := BitVec.ofNat 32 b
    if red = 0 then add32 x y else if red = 1 then (max32 x y, false) else (min32 x y, false)
  let l := (p.zip o).map fun x => one x.1 x.2
  (l.flatMap fun x => leBytes 4 x.1.toNat, l.any (·.2))

/-- IDENT of a record of a collective (R536). -/
def Coll.ident (c : Coll) : Nat := put c.grp 16 + c.epoch.toNat

/-- The slice of a unit whose residue disagrees: the one at which an injection is armed, else which of those in service it
is, is free (R444, R549, R562; log 1, DESIGN CHOICE). -/
def State.badSlice (s0 : State) (k : Nat) : UnitCode × State :=
  match s0.injSub 0x0C (unitCol k) with
  | some i => (mkUnit (4 + k) 15 0 6 i, s0)
  | none =>
  let (w, s) := s0.draw
  let on := (List.range 16).filter fun i => !s.shut.contains (mkUnit (4 + k) 15 0 6 i)
  (mkUnit (4 + k) 15 0 6 (on.getD (w.toNat % on.length) 0), s)

/-- The record of an adder residue or comparator (R444): cured by the repeat, or hard. -/
def State.colResidueRecord (s0 : State) (c : Coll) (hard : Bool) : State :=
  let x := s0.badSlice c.unit
  let u := x.1
  let s := x.2
  if hard then (s.colErr c.unit COL_ERR.RES_HARD).quickRecord (mkDet 0x0C u (some c.ctx) 1 1 3 0 0 c.ident 0) 2 1 0x04 true
  else (s.colErr c.unit COL_ERR.RES_CORR).quickRecord (mkDet 0x0C u (some c.ctx) 0 1 3 0 0 c.ident 0) 1 1 0x02 true

/-- The phase of a collective in which a sender's chunks arrive. -/
def State.phaseOf (s : State) (c : Coll) (rank : Nat) : Option (Nat × Nat) :=
  let ps := s.cPhases c
  ((List.range ps.length).findSome? fun i => match ps[i]? with
    | some j => if s.cPrev c j = rank then some (i, j) else none
    | none => none)

/-- Where chunk `t` from the member before on axis `j` belongs: its ring step, segment and chunk (R441, R443, R446). -/
def State.chunkPlace (s : State) (c : Coll) (j t : Nat) : Nat × Nat × Nat :=
  let l := s.cAxes c
  let me := s.cRank c
  let e := match l[j]? with | some a => a.e | none => 1
  let lk := gLow l j * c.chunks
  let r := t / lk + 1
  let p := gDigit l j me
  let k := (p + e + e - r - (if c.kind = 0 then 1 else 0)) % e
  let q := gWith l j me k
  (r, q - q % gLow l j + t % lk / c.chunks, t % c.chunks)

/-- A complete chunk of a reduce-scatter is added and forwarded, if the member's own part is at hand. -/
def State.rsChunk (s : State) (c : Coll) (i j : Nat) (x : InChunk) (upset : Bool × Bool) : Option (Coll × State) :=
  let pl := s.chunkPlace c j x.cidx
  let q := pl.2.1
  let ch := pl.2.2
  let e := match (s.cAxes c)[j]? with | some a => a.e | none => 1
  let own : Option (Part × State) := if i = 0 then some (s.srcPart c q ch) else (tget? c.own (partKey q ch)).map fun p => (p, s)
  own.map fun o =>
    let k := o.2.checkChunk c x
    let n := c.lenOf ch
    let y := combine (cRed c.desc) (elemsOf 4 n k.1.bytes) (elemsOf 4 n o.1.bytes)
    let hard := upset.1 && upset.2
    let s1 := if upset.1 || (k.2.injSub 0x0C (unitCol c.unit)).isSome then k.2.colResidueRecord c hard else k.2
    let s2 := s1.numFlags c.ctx.val false y.2
    let p : Part := ⟨y.1, none, k.1.cbad || o.1.cbad || hard, k.1.poison || o.1.poison⟩
    if pl.1 < e - 1 then
      let out : OutChunk := ⟨s.cNext c j, x.cidx + gLow (s.cAxes c) j * c.chunks, p.bytes, none, p.cbad, p.poison, some x.rank⟩
      ({ c with ready := c.ready ++ [out] }, s2)
    else s2.rsPhase c (i + 1) q ch p (some x.rank) hard

/-- A complete chunk of an all-gather is written, forwarded, and passed to the later axes. -/
def State.agChunk (s : State) (c : Coll) (j : Nat) (x : InChunk) : Coll × State :=
  let pl := s.chunkPlace c j x.cidx
  let e := match (s.cAxes c)[j]? with | some a => a.e | none => 1
  let k := s.checkChunk c x
  let y := k.2.agLand c pl.2.1 pl.2.2 k.1
  let c1 := y.2.agSpread y.1 (j + 1) pl.2.1 pl.2.2 k.1
  if pl.1 < e - 1 then
    let out : OutChunk := ⟨s.cNext c j, x.cidx + gLow (s.cAxes c) j * c.chunks, k.1.bytes, k.1.digest, k.1.cbad, k.1.poison, some x.rank⟩
    ({ c1 with ready := c1.ready ++ [out] }, y.2)
  else y.2.grant c1 x.rank

/-- A complete chunk of a permute is written at its place; none when the place is not known yet. -/
def State.permChunk (s : State) (c : Coll) (x : InChunk) : Option (Coll × State) :=
  ((tget [] c.places x.rank)[x.cidx]?).map fun pl =>
    let k := s.checkChunk c x
    let w := k.2.colPut c pl.1 (k.1.bytes.take pl.2) k.1.poison
    w.2.chunkLanded w.1 (partKey x.rank x.cidx) k.1 (k.1.digest.getD 0) false

/-- The trailer and every data pennant that it counts are here (R437). -/
def InChunk.complete (x : InChunk) : Bool :=
  match x.trailer with
  | some t => (List.range (leNat ((t.drop 18).take 2))).all fun i => (tget? x.data i).isSome
  | none => false

/-- The first chunk accepted of a collective with a step opens that step, unless the step was poisoned since (R286, R288, R462). -/
def State.openFor (s : State) (c : Coll) : State := if cStep c.desc != 0 && !c.old then s.openStep c.ctx (cStep c.desc) else s

/-- One complete chunk is used. -/
def State.useChunk (s : State) (c : Coll) (x : InChunk) (upset : Bool × Bool) : Option (Coll × State) :=
  let r : Option (Coll × State) := match c.kind with
    | 2 => s.permChunk c x
    | k => (match s.phaseOf c x.rank with
      | some (i, j) => if k = 0 then s.rsChunk c i j x upset else some (s.agChunk c j x)
      | none => none)
  r.map fun y =>
    let mark (z : InChunk) : InChunk := if z.rank == x.rank && z.cidx == x.cidx then { z with used := true, data := [] } else z
    ({ y.1 with inq := y.1.inq.map mark, progress := s.time, fired := false }, (y.2.colServed c).openFor c)

/-- The oldest chunks expected move past those used; their entries go. -/
def Coll.advance (c : Coll) (rank : Nat) : Nat → Coll
  | 0 => c
  | fuel + 1 =>
    let k := tget 0 c.gotFrom rank
    if c.inq.any fun x => x.rank == rank && x.cidx == k && x.used then
      Coll.advance { c with gotFrom := tset c.gotFrom rank (k + 1), inq := c.inq.filter fun x => !(x.rank == rank && x.cidx == k) } rank fuel
    else c

/-- Every complete chunk that can be used is used; a physical upset strikes the first. -/
def State.useChunks (s : State) (c : Coll) (upset : Bool × Bool) : Nat → Coll × State
  | 0 => (c, s)
  | fuel + 1 =>
    match (c.inq.filter fun x => !x.used && x.complete).findSome? fun x => (s.useChunk c x upset).map fun y => (y, x.rank) with
    | some (y, r) => State.useChunks y.2 (y.1.advance r (y.1.inq.length + 1)) (false, false) fuel
    | none => (c, s)

/-- A DATA or TRAILER pennant (R437). -/
def State.chunkReceive (s : State) (pn : Pennant) (upset : Bool × Bool) : State :=
  let k := s.arrDie pn
  let s0 := s.takeIn pn
  match s0.chunkColl pn with
  | none => s0.dup k
  | some (c, rank) =>
    let got := tget 0 c.gotFrom rank
    let diff := (pnCidx pn + 2 ^ 18 - got % 2 ^ 18) % 2 ^ 18
    let cidx := got + diff
    let old := c.inq.find? fun x => x.rank == rank && x.cidx == cidx
    let x : InChunk := old.getD ⟨rank, cidx, [], none, false, false⟩
    let isT := pnSub pn == 1
    let seen := x.used || (if isT then x.trailer.isSome else (tget? x.data (pnPidx pn)).isSome)
    if 2 ^ 17 ≤ diff ∨ seen = true then s0.dup c.unit
    else
      let b := pnBytes pn
      let y : InChunk := if isT then { x with trailer := some b } else { x with data := tset x.data (pnPidx pn) b, poison := x.poison || pn.poison }
      if isT && (leNat ((b.drop 17).take 1) != c.kind || leNat ((b.drop 20).take 4) != cN c.desc) then s0.abortColl c .aborted 4
      else
        let c1 : Coll := { c with inq := (c.inq.filter fun z => !(z.rank == rank && z.cidx == cidx)) ++ [y] }
        let z := s0.useChunks c1 upset (c1.inq.length + 1)
        let w := if c.kind = 2 then z.2.permGrant z.1 16 else z
        w.2.settleColl w

def execChunkReceive (pn : Pennant) (upset : Bool × Bool) (s : State) : Out :=
  .next (if pnSub pn ≤ 1 then s.chunkReceive pn upset else s)

/-- A CREDIT pennant (R438). -/
def execChunkCreditReceive (pn : Pennant) (s : State) : Out :=
  .next (if pnSub pn == 2 then
    let k := s.arrDie pn
    let s0 := s.takeIn pn
    match s0.chunkColl pn with
    | none => s0.dup k
    | some (c, r) =>
      s0.putColl { c with credit := tset c.credit r (tget 0 c.credit r + leNat ((pnBytes pn).take 1)), progress := s.time, fired := false }
  else s)

/-- The entries of a list-mode COUNT that is whole: places of the chunks to come, or none while pennants are missing. -/
def countPlaces (c : Coll) (bytes : List Byte) : Option (List (Nat × Nat)) :=
  let n := leNat ((bytes.drop 4).take 4)
  if bytes.length < 8 + 8 * n then none
  else some ((List.range n).flatMap fun i =>
    let off := leNat ((bytes.drop (8 + 8 * i)).take 4)
    let len := leNat ((bytes.drop (12 + 8 * i)).take 4)
    (pieces (cCh c.desc) len).map fun p => (cDst c.desc + off + p.1, p.2))

/-- A COUNT pennant: in list mode the chunks that a sender will send and their places, refused outside RWIN; in expert mode counts for
the host, or answers of a host (R447, R448). -/
def State.countReceive (s : State) (pn : Pennant) : State :=
  let k := s.arrDie pn
  let s0 := s.takeIn pn
  match s0.chunkColl pn with
  | none => s0.dup k
  | some (c, r) =>
    if c.kind ≠ 2 then s0.dup c.unit
    else if cExpert c.desc then
      let b := pnBytes pn
      let pairs := (List.range (b.length / 4)).map fun i => (leNat ((b.drop (4 * i)).take 2), leNat ((b.drop (4 * i + 2)).take 2))
      let key (e : Nat) : Nat := if pnPidx pn < 1024 then cntKey r e else ansKey e
      let c1 := pairs.foldl (fun (c : Coll) e => { c with counts := tset c.counts (key e.1) e.2 }) c
      let x := s0.hostAnswer { c1 with progress := s.time, fired := false }
      let y := x.2.expertSend x.1
      y.2.settleColl y
    else
      let kx := 0x200000000 + r * 0x1000
      let c1 : Coll := { c with own := tset c.own (kx + pnPidx pn) ⟨pnBytes pn, none, false, false⟩, progress := s.time, fired := false }
      let bytes := ((c1.own.filter fun x => decide (kx ≤ x.1) && decide (x.1 < kx + 0x1000)).map (·.2.bytes)).flatten
      match (if (tget? c1.own kx).isSome then countPlaces c1 bytes else none) with
      | some pl =>
        if pl.any fun p => decide (cDst c.desc + cRwin c.desc < p.1 + p.2) then s0.abortColl c .aborted 6
        else
          let x := s0.permGrant { c1 with places := tset c1.places r pl, expect := tset c1.expect r pl.length } 16
          x.2.settleColl x
      | none => s0.putColl c1

def execCountReceive (pn : Pennant) (s : State) : Out := .next (if pnSub pn == 3 then s.countReceive pn else s)

/-! Staging (R282, R445). -/

/-- The step of an offered chunk was poisoned after its collective was issued: the chunk is discarded with the step (R288). -/
def State.offerOld (s : State) (o : Offer) : Bool :=
  match s.coll? o.chunk.ctx.val o.grp o.epoch with | some c => c.old | none => false

/-- The lowest 4 KiB place of a unit's staging range that holds no chunk (log 39, DESIGN CHOICE). -/
def State.freePlace (s : State) (u : Nat) : Nat :=
  let used := (s.staged.filter fun c => c.unit == u).map (·.place)
  ((List.range (used.length + 1)).find? fun i => !used.contains i).getD 0

/-- An offered chunk of a unit can leave: staging has room and a step for it (R282), or it is to be discarded. -/
def State.takeable (s : State) (u : Nat) (o : Offer) : Bool :=
  o.chunk.unit == u && (s.offerOld o || decide (o.chunk.step ≤ s.cmtStep o.chunk.ctx.val + 4) &&
    (match s.stageRange u with | some r => decide (s.stageUsed u + chunkKib ≤ r.2 / 1024) | none => false))

/-- A chunk is accepted into staging: its digest recomputed, its step opened, the credit released upstream. One of a discarded step is
not staged and opens nothing; it only lands for its collective (R288). -/
def State.stageAccept (s : State) (u : Nat) : State :=
  match takeFirst (s.takeable u) s.offers with
  | none => s
  | some (o, rest) =>
    let bytes := o.chunk.data.flatMap fun e => leBytes 4 e.toNat
    let bad := crc64 bytes != o.digest
    let ch : Chunk := { o.chunk with cbad := o.chunk.cbad || bad, place := s.freePlace u }
    let stage : State := (({ s with offers := rest, staged := s.staged ++ [ch] } : State).setUsed u (s.stageUsed u + chunkKib)).openStep ch.ctx ch.step
    let s2 := if s.offerOld o then { s with offers := rest } else stage
    match s2.coll? ch.ctx.val o.grp o.epoch with
    | some c =>
      let i := ch.gran - cOff c.desc / 1024
      let x := s2.chunkLanded c (partKey 0 i) ⟨[], none, ch.cbad, ch.poison⟩ o.digest false
      let y := match o.sender with | some r => x.2.grant x.1 r | none => x
      y.2.settleColl y
    | none => s2

def execChunkStageAccept (u : Fin 12) (s : State) : Out := .next (s.stageAccept u.val)

/-! Parking (R451). -/

/-- A collective of a context that is being suspended is parked. -/
def execCollectivePark (ctx : CtxId) (g : Fin 16) (e : Epoch) (s : State) : Out :=
  .next (match s.coll? ctx.val g.val e with
    | some c =>
      if c.st == .open && (s.ctx ctx.val).suspend.isSome then
        (s.putColl { c with st := .parked }).setFld (CTX_COL_STS.off ctx.val) CTX_COL_STS.PARKED 1
      else s
    | none => s)

/-- Parked collectives of a context go on where they stopped, with the credits that are due (R451, R504). -/
def State.unpark (s : State) (n : Nat) : State :=
  (s.colls.filter fun c => c.ctx.val == n && c.st == .parked).foldl (fun s c =>
    let c1 : Coll := { c with st := .open, owed := [], progress := s.time }
    let s1 := c.owed.foldl (fun s x => s.sendCredit c1 x.1 x.2) s
    let x := if c.kind = 2 then s1.permGrant c1 16 else (c1, s1)
    x.2.putColl x.1) s

/-! Instructions at the head of the load/store queue (R430, R431, R468 to R470). -/

/-- A collective descriptor handed to the unit, or refused; a 17th of a group waits (R431). -/
def State.issueColl (s : State) (key : Nat) (q : QEntry) (d : List Word) : State :=
  let n := (s.core key).ctx
  let g := cGrp d
  let drop := (s.popQueue key .ls).modCore key fun c => { c with lwait := none }
  if s.colIllegal n.val q.op d then drop.engFault key .ls q .illegalOperand 0
  else match s.colEndFault n.val q.op d with
  | some a => drop.engFault key .ls q .access a
  | none =>
  if 16 ≤ (s.colls.filter fun c => c.ctx == n && c.grp == g && c.live).length then s.modCore key fun c => { c with lwait := some d }
  else
    let o := CTX_COL_GRP.off n.val g
    let e := s.fld o CTX_COL_GRP.NEXT_EPOCH
    let s1 := (s.popQueue key .ls).modCore key fun c => { c with lwait := none }
    let fid := (s1.core key).nextFid
    let c : Coll :=
      { ctx := n, grp := g, epoch := BitVec.ofNat 16 e, kind := q.op, desc := d, key := key, fid := fid, entry := q, ord := s.colOrd,
        st := .queued, cause := 0, why := 0, own := [], ready := [], inq := [], sentTo := [], gotFrom := [], credit := [], owed := [],
        granted := [], landed := [], counts := [], places := [], expect := [], phase := 0, rr := 0, progress := s.time, fired := false, old := false,
        table := [], toks := [], refused := false }
    let old (x : Coll) : Bool := x.ctx == n && x.grp == g && !x.live && decide (64 < (e + 1 + 65536 - x.epoch.toNat) % 65536)
    let s2 := (s1.colFlight key q).setFld o CTX_COL_GRP.NEXT_EPOCH ((e + 1) % 65536)
    { s2 with colls := (s2.colls.filter fun x => !old x) ++ [c], colOrd := s.colOrd + 1 }

/-- col.rs, col.ag or col.perm at the head of its queue. -/
def State.startColl (s : State) (key : Nat) (q : QEntry) : State :=
  let a := q.a.toNat
  let n := (s.core key).ctx
  match (s.core key).lwait with
  | some d => s.issueColl key q d
  | none =>
    if (s.recordFault n.val a).isSome then (s.popQueue key .ls).engFault key .ls q .access a
    else if s.poisoned a 64 then ((s.popQueue key .ls).poisonRecord a (some n)).engFault key .ls q .memoryError a
    else s.issueColl key q (bytesToWords 8 (s.readBytes a 64))

/-- The state code of R469. -/
def ColSt.code : ColSt → Nat
  | .queued => 1
  | .open => 2
  | .parked => 3
  | .done => 4
  | .corrupt => 5
  | .aborted => 6
  | .peerDown => 7

/-- The status word of an epoch of a group (R469). -/
def State.colStatus (s : State) (n g e : Nat) : Word :=
  let next := s.fld (CTX_COL_GRP.off n g) CTX_COL_GRP.NEXT_EPOCH
  match s.coll? n g (BitVec.ofNat 16 e) with
  | some c =>
    if 64 < (next + 65536 - e) % 65536 then 0
    else BitVec.ofNat 64 (put (cTag c.desc) 16 + put c.cause 8 + c.st.code)
  | none => 0

/-- col.stat (R468, R469). -/
def State.startColStat (s : State) (key : Nat) (q : QEntry) : State :=
  let b := q.b.toNat
  ((s.popQueue key .ls).writePend key (bf q.body 34 6) (s.colStatus (s.core key).ctx.val (bits b 16 4) (bits b 0 16))).complete key q 0

/-- col.abort: an open or parked collective of the context ends ABORTED everywhere (R453, R469). -/
def State.startColAbort (s : State) (key : Nat) (q : QEntry) : State :=
  let b := q.b.toNat
  let s0 := s.popQueue key .ls
  let s1 := match s0.coll? (s.core key).ctx.val (bits b 16 4) (BitVec.ofNat 16 (bits b 0 16)) with
    | some c => if c.running then s0.abortColl c .aborted 3 else s0
    | none => s0
  s1.complete key q 0

/-- An ABORT of another member (R453). -/
def execAbortReceive (gkey : BitVec 16) (e : Epoch) (cause : Nat) (s : State) : Out :=
  .next (match s.gByKey gkey.toNat with
    | some (n, g) =>
      (match s.coll? n.val g e with
       | some c => s.endColl c .aborted (cause % 256)
       | none => s)
    | none => s)

end Sys2Proof.Machine
end

