-- ==== Sys2Proof/Machine/Vote.lean ====
section
/-! DEFINITION. The step vote of a commit group, the stall watchdog, and the effects of an unreachable or removed peer on collectives and
votes (12_collectives.md R452, R454, R457 to R464, R468, R470; 11_routing_and_slices.md R418). -/

namespace Sys2Proof.Machine

/-! The commit group. -/

def State.cmtGrp (s : State) (n : Nat) : Nat := s.fld (CTX_COL_CTL.off n) CTX_COL_CTL.CMT_GRP
/-- Steps are voted on and the commit group is valid (R457, R470). -/
def State.cmtOn (s : State) (n : Nat) : Bool := s.bit (CTX_COL_CTL.off n) CTX_COL_CTL.CMT_EN && s.gValid n (s.cmtGrp n)
def State.cmtAxes (s : State) (n : Nat) : List GAx := s.gAxes n (s.cmtGrp n)
def State.cmtRank (s : State) (n : Nat) : Nat := s.gRankOf (s.cmtAxes n) s.self
/-- The context whose commit group holds a key. -/
def State.cmtCtx (s : State) (key : Nat) : Option CtxId :=
  match s.gByKey key with
  | some (n, g) => if s.cmtOn n.val && s.cmtGrp n.val == g then some n else none
  | none => none

/-! VOTE pennants (R460). -/

def vKind (p : Pennant) : Nat := leNat ((Pennant.held p).drop 2 |>.take 1)
def vFlags (p : Pennant) : Nat := leNat ((Pennant.held p).drop 3 |>.take 1)
def vReason (p : Pennant) : Nat := leNat ((Pennant.held p).drop 4 |>.take 1)
def vRank (p : Pennant) : Nat := leNat ((Pennant.held p).drop 6 |>.take 2)
def vVd (p : Pennant) : Word := BitVec.ofNat 64 (leNat ((Pennant.held p).drop 8 |>.take 8))
def vG2 (p : Pennant) : Elem := BitVec.ofNat 32 (leNat ((Pennant.held p).drop 16 |>.take 4))
def vKey (p : Pennant) : Nat := leNat ((Pennant.held p).take 2)

/-- A VOTE pennant of a context to a rank of its commit group. -/
def State.sendVote (s : State) (n : CtxId) (rank step kind flags reason brank : Nat) (vd : Word) (g2 : Elem) : State :=
  let pay := leBytes 2 (s.gKey n.val (s.cmtGrp n.val)) ++ leBytes 1 kind ++ leBytes 1 flags ++ leBytes 1 reason ++ zeroBytes 1 ++
    leBytes 2 brank ++ leBytes 8 vd.toNat ++ leBytes 4 g2.toNat ++ zeroBytes 44
  (s.sendPen tVOTE 1 (s.gPkg (s.cmtAxes n.val) rank) n step pay 63 true false 0).1

/-! The member's contribution (R458, R459). -/

/-- The collectives of a context for a step since it was last opened (log 16, DEDUCED). -/
def State.stepColls (s : State) (n : CtxId) (st : Nat) : List Coll :=
  s.colls.filter fun c => c.ctx == n && cStep c.desc == st && !c.old

/-- The vector digest VD: the digests landed by the all-gathers of the step, by group, issue order, segment and chunk (R458). -/
def State.voteDigest (s : State) (n : CtxId) (st : Nat) : Word :=
  let ags := (s.stepColls n st).filter fun c => c.kind == 1
  let ordered := (List.range 16).flatMap fun g => ags.filter fun c => c.grp == g
  crc64 (ordered.flatMap fun c => c.landed.flatMap fun x => leBytes 8 x.2.toNat)

/-- The reason of R460 for a marked chunk's cause. -/
def whyReason (w : Nat) : Nat := if w = 8 then 3 else if w = 9 then 4 else 1

/-- The reason for which a collective makes the vote BAD; 0 for none. -/
def Coll.badReason (c : Coll) : Nat :=
  match c.st with
  | .peerDown => 5
  | .aborted => if c.cause = 4 then 7 else 6
  | .corrupt => whyReason c.cause
  | .done => if c.why = 0 then 0 else whyReason c.why
  | _ => 0

/-- The reason for which a member sets BAD (R459): a collective that did not end DONE or landed a marked chunk, a marked staged chunk, a
VD that differs; 0 for none. (log 42, DEDUCED) -/
def State.voteReason (s : State) (n : CtxId) (st : Nat) (vd : Word) : Nat :=
  match ((s.stepColls n st).map (·.badReason)).find? (· != 0) with
  | some r => r
  | none =>
    let ch := s.staged.filter fun c => c.ctx == n && c.step == st
    if ch.any (·.cbad) then 1
    else if ch.any fun c => c.poison || !c.bad.isEmpty then 4
    else if s.voteDigest n st != vd then 2
    else 0

/-! Resolution (R461, R462). -/

/-- A step fails: it is POISONED with every higher step that is not committed, and the failure is recorded (R462). -/
def State.failStep (s : State) (n : CtxId) (st reason brank : Nat) : State :=
  let s1 := s.poisonStep n st
  let f (c : Coll) : Coll := if c.ctx == n && decide (st ≤ cStep c.desc) then { c with old := true } else c
  let o := CTX_COL_STS.off n.val
  let s2 := { s1 with colls := s1.colls.map f }
  let s3 := ((s2.setFld o CTX_COL_STS.FAIL 1).setFld o CTX_COL_STS.FAIL_REASON reason).setFld o CTX_COL_STS.FAIL_RANK brank
  s3.postCol n.val 3

/-- The col.cmt of a resolved vote completes with the state code of its step. -/
def State.voteEnd (s : State) (v : Vote) : State :=
  let s1 := { s with votes := s.votes.filter fun x => !(x.ctx == v.ctx && x.ord == v.ord),
                     tokens := s.tokens.filter fun t => !(t.1 == v.ctx && t.2.addr.toNat == v.step) }
  if (s1.core v.key).flights.any fun f => f.fid == v.fid then
    (s1.writePend v.key (bf v.entry.body 34 6) (BitVec.ofNat 64 (s1.stepSt v.ctx v.step))).colDone v.key v.fid v.entry
  else s1

/-- The votes that are over: those on a step, and those on steps that are POISONED. -/
def State.votesOver (s : State) (n : CtxId) (st : Nat) : State :=
  (s.votes.filter fun v => v.ctx == n && (v.step == st || s.stepSt n v.step == 6)).foldl (fun s v => s.voteEnd v) s

/-- A step is resolved at this member. (log 42, DEDUCED) -/
def State.resolve_ (s : State) (n : CtxId) (st : Nat) (commit : Bool) (g2 : Elem) (reason brank : Nat) : State :=
  (if commit then s.commitStep n st g2 else s.failStep n st reason brank).votesOver n st

/-- A result sent to two ranks, where they exist (R461). -/
def State.sendResult (s : State) (n : CtxId) (st r1 : Nat) (flags reason brank : Nat) (g2 : Elem) : State :=
  ([r1, r1 + 1].filter fun r => decide (r < gSize (s.cmtAxes n.val))).foldl (fun s r => s.sendVote n r st 1 flags reason brank 0 g2) s

/-! The token (R459). -/

/-- A member applies the steps of R459 to a token and passes it on. -/
def State.passToken (s : State) (n : CtxId) (st flags reason brank : Nat) (vd : Word) (g2 : Elem) : State :=
  let me := s.cmtRank n.val
  let why := if flags % 2 = 1 then 0 else s.voteReason n st vd
  let g := (add32 g2 (s.partialSum n st).1).1
  let ng := gSize (s.cmtAxes n.val)
  let x := if why = 0 then (flags, reason, brank) else (flags + 1, why, me)
  (s.sendVote n ((me + 1) % ng) st 0 x.1 x.2.1 x.2.2 vd g).setStep n st 2

/-- The lowest unresolved vote of a context. -/
def State.firstVote (s : State) (n : CtxId) : Option Vote :=
  s.votes.foldl (fun m v => if v.ctx == n then (match m with | some x => if v.step < x.step then some v else some x | none => some v) else m) none

/-- A ready member starts the token as rank 0, or applies the token that waits (R459, R463). -/
def State.voteAdvance (s : State) (n : CtxId) : State :=
  match s.firstVote n with
  | some v =>
    if v.ready && s.stepSt n v.step == 1 then
      if s.cmtRank n.val = 0 then s.passToken n v.step 0 0 0 (s.voteDigest n v.step) 0
      else match s.tokens.find? fun t => t.1 == n && t.2.addr.toNat == v.step with
        | some t =>
          let s1 := { s with tokens := s.tokens.filter fun x => !(x.1 == n && x.2.addr == t.2.addr) }
          s1.passToken n v.step (vFlags t.2) (vReason t.2) (vRank t.2) (vVd t.2) (vG2 t.2)
        | none => s
    else s
  | none => s

/-- A member is ready: its col.cmt, its earlier collectives of the step ended, its chunks staged (R458). -/
def execVoteReady (ctx : CtxId) (step : StepNo) (s : State) : Out :=
  let st := step.toNat
  .next (match s.votes.find? fun v => v.ctx == ctx && v.step == st && !v.ready with
    | some v =>
      if (s.colls.any fun c => c.ctx == ctx && cStep c.desc == st && c.live && decide (c.ord < v.ord)) ||
          (s.offers.any fun o => o.chunk.ctx == ctx && o.chunk.step == st) then s
      else
        let mark (x : Vote) : Vote := { x with ready := true }
        ({ s.formPartial ctx st with votes := updWhere (fun x => x == v) mark s.votes } : State).voteAdvance ctx
    | none => s)

/-- The watchdog of a context's votes restarts (R452). -/
def State.voteProgress (s : State) (n : CtxId) : State :=
  let f (v : Vote) : Vote := { v with progress := s.time, fired := false }
  { s with votes := updWhere (fun v => v.ctx == n) f s.votes }

/-- A token arrives: back at rank 0 it is decided; elsewhere it waits for the member (R459, R461). -/
def State.tokenReceive (s : State) (pn : Pennant) : State :=
  let s0 := s.takeIn pn
  match s0.cmtCtx (vKey pn) with
  | some n =>
    let st := pn.addr.toNat
    let s1 := s0.voteProgress n
    if s1.cmtRank n.val = 0 then
      if s1.stepSt n st = 2 then
        let commit := vFlags pn % 2 == 0
        let s2 := s1.sendResult n st 1 (if commit then 2 else 1) (vReason pn) (vRank pn) (vG2 pn)
        (s2.resolve_ n st commit (vG2 pn) (vReason pn) (vRank pn)).voteAdvance n
      else s1
    else
      let keep := s1.tokens.filter fun t => !(t.1 == n && t.2.addr == pn.addr)
      ({ s1 with tokens := keep ++ [(n, pn)] }).voteAdvance n
  | none => s0

def execVoteTokenReceive (pn : Pennant) (s : State) : Out := .next (if vKind pn = 0 then s.tokenReceive pn else s)

/-- A result arrives: the first one is relayed and taken, later copies are ignored (R461, R462). -/
def State.resultReceive (s : State) (pn : Pennant) : State :=
  let s0 := s.takeIn pn
  match s0.cmtCtx (vKey pn) with
  | some n =>
    let st := pn.addr.toNat
    let code := s0.stepSt n st
    let commit := vFlags pn / 2 % 2 == 1
    let open_ := decide (s0.cmtStep n.val < st) && (code == 1 || code == 2 || (!commit && code == 0))
    if open_ then
      let me := s0.cmtRank n.val
      let s1 := (s0.voteProgress n).sendResult n st (me + 1) (vFlags pn) (vReason pn) (vRank pn) (vG2 pn)
      (s1.resolve_ n st commit (vG2 pn) (vReason pn) (vRank pn)).voteAdvance n
    else s0
  | none => s0

def execVoteResultReceive (pn : Pennant) (s : State) : Out := .next (if vKind pn = 1 then s.resultReceive pn else s)

/-- The vote of a context loses a member: OPEN steps, and at rank 0 the step not yet decided, are POISONED with reason PEER_DOWN, rank 0
sending FAIL results; a VOTING member goes on waiting (R462). -/
def State.voteDown (s : State) (n : CtxId) : State :=
  if !s.cmtOn n.val then s
  else
    let me := s.cmtRank n.val
    let hit (code : Nat) : Bool := code == 1 || (me == 0 && code == 2)
    let sts := (s.steps.filter fun r => r.ctx == n && hit r.st).map (·.step)
    let down (v : Vote) : Vote := { v with down := true }
    let s1 := { s with votes := updWhere (fun v => v.ctx == n && s.stepSt n v.step == 2 && me != 0) down s.votes }
    sts.foldl (fun s st =>
      if s.stepSt n st = 6 then s
      else
        let s2 := if me = 0 then s.sendResult n st 1 1 5 me 0 else s
        s2.resolve_ n st false 0 5 me) s1

/-- A VOTING member that a CTX_DOWN has reached gets no result within WDOG_US (R462). -/
def execVoteResultTimeout (ctx : CtxId) (s : State) : Out :=
  .next (match s.votes.find? fun v => v.ctx == ctx && v.down && s.stepSt ctx v.step == 2 with
    | some v => (s.resolve_ ctx v.step false 0 5 (s.cmtRank ctx.val)).voteAdvance ctx
    | none => s)

/-! CTX_DOWN and unreachable members (R418, R453, R454). -/

/-- A CTX_DOWN that names a group key (R454). -/
def State.keyDown (s : State) (key : Nat) : State :=
  match s.gByKey key with
  | some (n, g) =>
    let s1 := s.endColls (fun c => c.ctx == n && c.grp == g) .peerDown 1
    if s1.cmtOn n.val && s1.cmtGrp n.val == g then s1.voteDown n else s1
  | none => s

/-- A VC1 pennant of this package meets an unreachable destination (R453, R462). -/
def State.vc1Unreachable (s : State) (pn : Pennant) : State :=
  if pn.typ.toNat = tCHUNK then
    match s.gByKey (pnKey pn) with
    | some (n, g) => (match s.coll? n.val g pn.eseq with | some c => s.abortColl c .peerDown 2 | none => s)
    | none => s
  else if pn.typ.toNat = tVOTE then
    match s.cmtCtx (vKey pn) with
    | some n => s.voteDown n
    | none => s
  else s

/-! The stall watchdog (R452). -/

/-- The rank that a member waits on for a collective: a sender whose chunks are to come, else a receiver whose credit is to come. -/
def State.collWaits (s : State) (c : Coll) : Option Nat :=
  let l := s.cAxes c
  let left (r total : Nat) : Bool := decide (tget 0 c.gotFrom r < total)
  if c.kind = 2 then
    match (s.senders c).find? fun r => (match tget? c.expect r with | some n => left r n | none => true) with
    | some r => some r
    | none => (c.ready.find? fun o => tget 0 c.credit o.rank == 0).map (·.rank)
  else
    let tot (j : Nat) : Nat := match l[j]? with | some a => (a.e - 1) * gLow l j * c.chunks | none => 0
    match (s.cPhases c).find? fun j => left (s.cPrev c j) (tot j) with
    | some j => some (s.cPrev c j)
    | none => ((s.cPhases c).find? fun j => decide (tget 0 c.sentTo (s.cNext c j) < tot j)).map (s.cNext c)

/-- The rank that a member waits on for a vote: the token's bearer before it. -/
def State.voteWaits (s : State) (n : CtxId) : Nat :=
  let ng := gSize (s.cmtAxes n.val)
  (s.cmtRank n.val + ng - 1) % ng

/-- A PROBE to a rank of a group. -/
def State.sendProbe (s : State) (l : List GAx) (rank : Nat) (p : Probe) : State := s.sendMsg (.probe (BitVec.ofNat 15 (s.gPkg l rank)) p)

/-- Time without progress has exceeded WDOG_US: a PROBE goes to the member waited on; the watchdog fires once (R452). -/
def State.stall (s : State) (n : CtxId) (g : Nat) (e : Option Epoch) (waitUs : Nat) : State :=
  let lim := s.fld (CTX_COL_CTL.off n.val) CTX_COL_CTL.WDOG_US
  if lim = 0 ∨ waitUs ≤ lim then s
  else
    let l := s.gAxes n.val g
    let pr : Probe := ⟨BitVec.ofNat 15 s.self, BitVec.ofNat 16 (s.gKey n.val g), e, [], none⟩
    match e with
    | some ep =>
      (match s.coll? n.val g ep with
       | some c =>
         if c.st == .open && !c.fired then
           match s.collWaits c with
           | some r => (s.putColl { c with fired := true }).sendProbe l r pr
           | none => s
         else s
       | none => s)
    | none =>
      (match s.firstVote n with
       | some v =>
         if !v.fired && s.cmtGrp n.val == g then
           let f (x : Vote) : Vote := { x with fired := true }
           ({ s with votes := updWhere (fun x => x == v) f s.votes }).sendProbe l (s.voteWaits n) pr
         else s
       | none => s)

def execStallWatchdog (ctx : CtxId) (g : Fin 16) (e : Option Epoch) (waitUs : Nat) (s : State) : Out := .next (s.stall ctx g.val e waitUs)

/-- The causes of R452. -/
def pNotIssued : Nat := 1
def pParked : Nat := 2
def pStaging : Nat := 3
def pCredit : Nat := 4
def pLink : Nat := 5

/-- The port direction toward a member is not in service, so that the routing plane holds its pennants (R418). -/
def State.linkHeld (s : State) (p : Nat) : Bool := match s.firstDir p with | some d => !s.dirUp d && (s.det d).st != .force | none => false

/-- What a member answers to a PROBE on a collective: the rank to forward it to, or its cause, and its last progress. -/
def State.probeColl (s : State) (n : CtxId) (g : Nat) (e : Epoch) : (Nat ⊕ Nat) × Nat :=
  match s.coll? n.val g e with
  | none => (.inr pNotIssued, 0)
  | some c =>
    if c.st == .parked then (.inr pParked, c.progress)
    else if s.offers.any fun o => o.chunk.ctx == n && o.grp == g && o.epoch == e then (.inr pStaging, c.progress)
    else if c.st != .open then (.inr pCredit, c.progress)
    else match s.collWaits c with
      | some r => if s.linkHeld (s.gPkg (s.cAxes c) (s.cNext c ((s.cPhases c).headD 0))) then (.inr pLink, c.progress) else (.inl r, c.progress)
      | none => (.inr pCredit, c.progress)

/-- The same for a vote. -/
def State.probeVote (s : State) (n : CtxId) : (Nat ⊕ Nat) × Nat :=
  match s.firstVote n with
  | none => (.inr pNotIssued, 0)
  | some v => if v.ready then (.inl (s.voteWaits n), v.progress) else (.inr pCredit, v.progress)

/-- The member on the path whose last progress is oldest. -/
def oldest (l : List (Nat × Word)) : Option (Nat × Word) :=
  l.foldl (fun m x => match m with | some y => if x.2.toNat < y.2.toNat then some x else some y | none => some x) none

/-- A PROBE that has come back, or its answer: the stall is reported and the collective carries on (R452, R465, R494). -/
def State.stallReport (s : State) (n : CtxId) (g : Nat) (p : Probe) : State :=
  let x := match oldest p.path with
    | some y => y
    | none => ((match p.epoch with
        | some e => (match s.coll? n.val g e with | some c => (s.collWaits c).getD 0 | none => 0)
        | none => s.voteWaits n), 0)
  let us := min ((s.time - x.2.toNat) / 1000) 0xFFFFFF
  let e := match p.epoch with | some e => e.toNat | none => 0
  let w := put (p.back.getD pCredit) 60 + put g 56 + put e 40 + put x.1 24 + us
  ((s.csrSet (CTX_COL_STALL.off n.val) (BitVec.ofNat 64 w)).setFld (CTX_COL_STS.off n.val) CTX_COL_STS.STALL 1).postCol n.val 1

def execProbeReceive (pr : Probe) (s : State) : Out :=
  .next (match s.gByKey pr.gkey.toNat with
    | some (n, g) =>
      if pr.origin.toNat = s.self then s.stallReport n g pr
      else
        let a := match pr.epoch with | some e => s.probeColl n g e | none => s.probeVote n
        let l := s.gAxes n.val g
        let p1 : Probe := { pr with path := pr.path ++ [(s.gRankOf l s.self, BitVec.ofNat 64 a.2)] }
        (match a.1 with
         | .inl r => s.sendProbe l r p1
         | .inr cause => s.sendMsg (.probe pr.origin { p1 with back := some cause }))
    | none => if pr.origin.toNat = s.self then s else s.sendMsg (.probe pr.origin { pr with back := some pNotIssued }))

/-! col.cmt (R468, R470). -/

/-- col.cmt at the head of its queue. -/
def State.startColCmt (s : State) (key : Nat) (q : QEntry) : State :=
  let n := (s.core key).ctx
  let st := q.b.toNat
  let s0 := s.popQueue key .ls
  if !s.cmtOn n.val || s.stepBad n.val st then s0.engFault key .ls q .illegalOperand 0
  else
    let fid := (s0.core key).nextFid
    let v : Vote := ⟨n, st, key, fid, q, s.colOrd, false, s.time, false, false⟩
    let s1 := (s0.colFlight key q).openStep n st
    { s1 with votes := s1.votes ++ [v], colOrd := s.colOrd + 1 }

end Sys2Proof.Machine
end

