-- ==== Sys2Proof/Machine/Wire.lean ====
section
/-! DEFINITION. What a cable carries: the 80 bytes of a pennant (R359), the 512 data bytes of a link block with its trailer (R364), the
Reed-Solomon code and the lanes (R363), and the scrambler (R345), in both directions (10_links_and_cabling.md). -/

namespace Sys2Proof.Machine

/-! Long computations take each number as a value before they go on. -/

/-- `k` of a number, the number computed first. -/
def computed {α : Type} (x : Nat) (k : Nat → α) : α :=
  match x with
  | 0 => k 0
  | n + 1 => k (n + 1)
theorem computed_eq {α : Type} (x : Nat) (k : Nat → α) : computed x k = k x := by cases x <;> rfl

/-- `k` of a list of numbers, each computed first. -/
def computedAll {α : Type} : List Nat → (List Nat → α) → α
  | [], k => k []
  | x :: t, k => computed x fun y => computedAll t fun u => k (y :: u)
theorem computedAll_eq {α : Type} (l : List Nat) (k : List Nat → α) : computedAll l k = k l := by
  induction l generalizing k with
  | nil => rfl
  | cons x t ih => simp [computedAll, computed_eq, ih]

/-! Pennants (R359, R362). -/

/-- Word 0 of a header. -/
def Pennant.word0 (p : Pennant) : Nat :=
  put p.ver.toNat 60 + put p.typ.toNat 56 + put p.vc.toNat 53 + put (b2n p.poison) 52 + put (b2n p.last) 51 + put (b2n p.dtr) 50 +
    put p.dst.toNat 35 + put p.src.toNat 20 + put p.ctx.toNat 14 + put p.len.toNat 8 + p.hops.toNat
/-- Word 1 of a header. -/
def Pennant.word1 (p : Pennant) : Nat := put p.eseq.toNat 48 + p.addr.toNat
/-- The 80 bytes of a pennant. -/
def Pennant.encode (p : Pennant) : List Byte := leBytes 8 (Pennant.word0 p) ++ leBytes 8 (Pennant.word1 p) ++ leBytes 64 p.payload.toNat

/-- The pennant that 80 bytes hold. -/
def decodePen (bs : List Byte) : Pennant :=
  let w0 := leNat (bs.take 8)
  let w1 := leNat ((bs.drop 8).take 8)
  let f (lo n : Nat) : BitVec n := BitVec.ofNat n (bits w0 lo n)
  ⟨f 60 4, f 56 4, f 53 3, bits w0 52 1 == 1, bits w0 51 1 == 1, bits w0 50 1 == 1, f 35 15, f 20 15, f 14 6, f 8 6, f 0 8,
    BitVec.ofNat 16 (bits w1 48 16), BitVec.ofNat 48 (bits w1 0 48), BitVec.ofNat 512 (leNat ((bs.drop 16).take 64))⟩

/-! Trailers (R364). -/

/-- One step of the CRC-32 of IEEE 802.3, least significant bit first. -/
def crc32Bit (r : Nat) : Nat := r / 2 ^^^ (r % 2 * 0xEDB88320)
/-- One byte. -/
def crc32Byte (r : Nat) (b : Byte) : Nat :=
  crc32Bit (crc32Bit (crc32Bit (crc32Bit (crc32Bit (crc32Bit (crc32Bit (crc32Bit (r ^^^ b.toNat))))))))
/-- The register after a byte list. -/
def crc32From : Nat → List Byte → Nat
  | r, [] => r
  | r, b :: t => computed (crc32Byte r b) fun q => crc32From q t
/-- The CRC-32 of a byte list. -/
def crc32 (bs : List Byte) : Nat := crc32From 0xFFFFFFFF bs ^^^ 0xFFFFFFFF

/-- The block types. -/
def btData : Nat := 0
def btIdle : Nat := 1
def btIdent : Nat := 2

/-- The 24 trailer bytes before the word of the CRC, with the slots that hold a pennant and the block type. -/
def Trailer.encode (t : Trailer) (pv typ : Nat) : List Byte :=
  leBytes 8 (put t.bseq.toNat 40 + put t.ack.toNat 16 + put (b2n t.nak) 15 + put (b2n t.ackv) 14 + put pv 8 + put typ 4) ++
    (List.range 8).map (fun v => t.cred.getD v 0) ++ leBytes 8 (put t.pool.toNat 40)

/-- The 512 data bytes of a block: its pennants in slots from 0 on, its trailer and its CRC. -/
def blockBytes (t : Trailer) (typ : Nat) (slots : List Pennant) : List Byte :=
  let n := min 6 slots.length
  let body := (slots.take 6).flatMap Pennant.encode ++ zeroBytes (80 * (6 - n)) ++ Trailer.encode t (2 ^ n - 1) typ
  body ++ leBytes 8 (crc32 body)

/-- The trailer that 32 bytes hold. -/
def decodeTrailer (bs : List Byte) : Trailer :=
  let w0 := leNat (bs.take 8)
  ⟨BitVec.ofNat 24 (bits w0 40 24), BitVec.ofNat 24 (bits w0 16 24), bits w0 15 1 == 1, bits w0 14 1 == 1, (bs.drop 8).take 8,
    BitVec.ofNat 24 (bits (leNat ((bs.drop 16).take 8)) 40 24)⟩

/-- The slots of 512 data bytes: a pennant where PV says so. -/
def decodeSlots (bs : List Byte) : List (Option Pennant) :=
  let pv := bits (leNat ((bs.drop 480).take 8)) 8 6
  (List.range 6).map fun i => if pv.testBit i then some (decodePen ((bs.drop (80 * i)).take 80)) else none

/-! The Reed-Solomon code RS(136,128) over GF(2^8) (R363). The first symbol of a codeword is the coefficient of x^135 (log 71, DESIGN CHOICE). -/

/-- The symbol times α. -/
def gfX (a : Nat) : Nat := (2 * a) ^^^ (a / 128 * 0x11D)
/-- Some steps of a product, over the bits of `b` from the top. -/
def gfMulFrom (a b : Nat) : Nat → Nat
  | 0 => 0
  | n + 1 =>
    gfX (gfMulFrom a (b / 2) n) ^^^ (b % 2 * a)
/-- The product of two symbols. -/
def gfMul (a b : Nat) : Nat := gfMulFrom a b 8
/-- α to a power. -/
def gfExp : Nat → Nat
  | 0 => 1
  | n + 1 => gfX (gfExp n)
/-- The symbol times α to a power. -/
def gfShift (a : Nat) : Nat → Nat
  | 0 => a
  | n + 1 => gfX (gfShift a n)
/-- The inverse of a symbol that is not 0: its 254th power. -/
def gfInv (a : Nat) : Nat :=
  let sq (x : Nat) : Nat := gfMul x x
  let a2 := sq a
  let a3 := gfMul a2 a
  let a6 := sq a3
  let a12 := sq a6
  let a15 := gfMul a12 a3
  let a30 := sq a15
  let a60 := sq a30
  let a120 := sq a60
  let a126 := gfMul a120 a6
  let a127 := gfMul a126 a
  sq a127

/-- Two coefficient lists added, the shorter one as if padded with 0. -/
def gfAdd : List Nat → List Nat → List Nat
  | [], q => q
  | p, [] => p
  | a :: p, b :: q => (a ^^^ b) :: gfAdd p q
/-- The value of a polynomial, its lowest coefficient first. -/
def gfEval (p : List Nat) (x : Nat) : Nat := p.foldr (fun c acc => c ^^^ gfMul acc x) 0

/-- The generator with roots α^0 to α^7, from x^8 down. -/
def rsGen : List Nat :=
  (List.range 8).foldl (fun g i => gfAdd (g ++ [0]) (0 :: g.map fun c => gfShift c i)) [1]

/-- The remainder of the division by the generator, whose lower coefficients are `low`, after a message. -/
def rsRemainder (low : List Nat) : List Nat → List Nat → List Nat
  | r, [] => r
  | r, m :: t =>
    computed (m ^^^ r.headD 0) fun f =>
      computedAll (List.zipWith (fun a g => a ^^^ gfMul g f) (r.drop 1 ++ [0]) low) fun q => rsRemainder low q t
/-- The parity symbols of a codeword's message, from x^7 down. -/
def rsParity (msg : List Nat) : List Nat := computedAll (rsGen.drop 1) fun low => rsRemainder low [0, 0, 0, 0, 0, 0, 0, 0] msg

/-- A polynomial's value at α^j, its coefficients from the highest down. -/
def rsValue (j : Nat) : Nat → List Nat → Nat
  | acc, [] => acc
  | acc, c :: t => computed (gfShift acc j ^^^ c) fun q => rsValue j q t
/-- The eight syndromes of a codeword. -/
def rsSyn (cw : List Nat) : List Nat := (List.range 8).map fun j => rsValue j 0 cw

/-- One step of the Berlekamp-Massey iteration: the locator, the last one before a change of length, the length, the steps since and the
discrepancy then. -/
def rsStep (syn : List Nat) (st : List Nat × List Nat × Nat × Nat × Nat) (n : Nat) : List Nat × List Nat × Nat × Nat × Nat :=
  let (lam, prev, len, m, b) := st
  let d := (List.range (len + 1)).foldl (fun acc i => acc ^^^ gfMul (lam.getD i 0) (if i ≤ n then syn.getD (n - i) 0 else 0)) 0
  if d = 0 then (lam, prev, len, m + 1, b)
  else
    let k := gfMul d (gfInv b)
    let next := gfAdd lam (List.replicate m 0 ++ prev.map (gfMul k))
    if 2 * len ≤ n then (next, lam, n + 1 - len, 1, d) else (next, prev, len, m + 1, b)

/-- The corrected codeword and the places of its corrected symbols, or nothing when more than four symbols are wrong (R363, R365). -/
def rsDecode (cw : List Nat) : Option (List Nat × List Nat) :=
  let syn := rsSyn cw
  if syn.all (· == 0) then some (cw, [])
  else
    let st := (List.range 8).foldl (rsStep syn) ([1], [1], 0, 1, 1)
    let lam := st.1
    let len := st.2.2.1
    let inv (i : Nat) : Nat := gfExp ((255 - (135 - i)) % 255)
    let at_ := (List.range 136).filter fun i => gfEval lam (inv i) == 0
    let omega := (List.range 8).map fun k =>
      (List.range (k + 1)).foldl (fun acc i => acc ^^^ gfMul (lam.getD i 0) (syn.getD (k - i) 0)) 0
    let slope := (List.range 9).map fun i => if i % 2 = 0 then lam.getD (i + 1) 0 else 0
    let fix (i : Nat) : Nat :=
      let x := inv i
      gfMul (gfExp (135 - i)) (gfMul (gfEval omega x) (gfInv (gfEval slope x)))
    let out := at_.foldl (fun c i => c.set i (c.getD i 0 ^^^ fix i)) cw
    if len ≤ 4 ∧ at_.length = len ∧ (rsSyn out).all (· == 0) = true then some (out, at_) else none

/-- Every `w`-th byte of a list, the first after `c` others. -/
def everyNth (w : Nat) : Nat → List Byte → List Byte
  | _, [] => []
  | 0, x :: t => x :: everyNth w (w - 1) t
  | c + 1, _ :: t => everyNth w c t
/-- Lists taken by turns, one byte of each, `n` times. -/
def byTurns (ls : List (List Byte)) : Nat → List Byte
  | 0 => []
  | n + 1 => ls.map (·.headD 0) ++ byTurns (ls.map (·.drop 1)) n

/-- The symbols of codeword `c` of a line, or of its data bytes. -/
def codeword (line : List Byte) (c : Nat) : List Nat := (everyNth 4 c line).map (·.toNat)
/-- The 544 line bytes of a block of 512 data bytes. -/
def lineBytes (data : List Byte) : List Byte :=
  let par := (List.range 4).map fun c => (rsParity (codeword (data.take 512) c)).map (BitVec.ofNat 8)
  data.take 512 ++ byTurns par 8

/-- The data bytes of 544 line bytes, where every codeword can be decoded, and the places in the line of the symbols corrected. -/
def lineData (line : List Byte) : Option (List Byte) × List Nat :=
  let ds := (List.range 4).map fun c => (c, rsDecode (codeword line c))
  let fixed := ds.flatMap fun d => match d.2 with | some x => x.2.map fun i => 4 * i + d.1 | none => []
  let words := ds.map fun d => match d.2 with | some x => x.1.map (BitVec.ofNat 8) | none => []
  (if ds.all fun d => d.2.isSome then some (byTurns words 128) else none, fixed)

/-! The scrambler x^58 + x^39 + 1 (R345). The line bytes pass in ascending order, each from bit 0 up (log 71, DESIGN CHOICE). A register holds the
last 58 bits of the line, the latest in bit 0. -/

/-- One line bit from one data bit, or back: the other bit and the register. -/
def scrBit (send : Bool) (reg : Nat) (b : Bool) : Bool × Nat :=
  let o := Bool.xor b (Bool.xor (reg.testBit 38) (reg.testBit 57))
  (o, (2 * reg + b2n (if send then o else b)) % 2 ^ 58)
/-- The bits of a byte from bit `i` up, `n` of them. -/
def scrBits (send : Bool) (v : Nat) : Nat → Nat → Nat → Nat × Nat
  | _, 0, reg => (0, reg)
  | i, n + 1, reg =>
    let x := scrBit send reg (v.testBit i)
    let y := scrBits send v (i + 1) n x.2
    (put (b2n x.1) i + y.1, y.2)
/-- A byte list scrambled (`send`) or descrambled: the bytes and the register after them. -/
def scramble (send : Bool) : Nat → List Byte → List Byte × Nat
  | reg, [] => ([], reg)
  | reg, b :: bs =>
    let x := scrBits send b.toNat 0 8 reg
    let y := computed x.2 fun r => scramble send r bs
    (BitVec.ofNat 8 x.1 :: y.1, y.2)

/-! Lanes (R357, R363). -/

/-- The line bytes of a logical lane at a width. -/
def laneBytes (width l : Nat) (line : List Byte) : List Byte := everyNth width l line

/-- The 544 line bytes that logical lanes carry at a width. -/
def gatherLanes (width : Nat) (lane : Nat → List Byte) : List Byte := byTurns ((List.range width).map lane) (544 / width)

/-- A link block as the receiver takes it (R363, R365): not decodable or failing its CRC, a data block with its six slots, an idle block, or
a block of another type. `corr` counts the corrected symbols of each logical lane. -/
inductive RxBlock where
  | bad (corr : List Nat)
  | data (t : Trailer) (slots : List (Option Pennant)) (corr : List Nat)
  | idle (t : Trailer) (corr : List Nat)
  | other (corr : List Nat)
deriving DecidableEq, Repr

/-- The block in 544 descrambled line bytes that came over lanes of a width. -/
def readBlock (width : Nat) (line : List Byte) : RxBlock :=
  let x := lineData line
  let corr := (List.range 8).map fun l => (x.2.filter fun j => j % width == l).length
  match x.1 with
  | none => .bad corr
  | some bs =>
    if crc32 (bs.take 504) != leNat ((bs.drop 504).take 4) then .bad corr
    else
      let typ := bits (leNat ((bs.drop 480).take 8)) 4 4
      let t := decodeTrailer (bs.drop 480)
      if typ = btData then .data t (decodeSlots bs) corr
      else if typ = btIdle then .idle t corr
      else .other corr

end Sys2Proof.Machine
end

