-- ==== Sys2Proof/Machine/Port.lean ====
section
/-! DEFINITION. Fabric ports: configuration, training, cabling faults, link blocks with retry and credits, link loss, shutters, long-haul
mode and pairs (10_links_and_cabling.md R344 to R387; 11_routing_and_slices.md R402 to R404, R412, R413, R416). -/

namespace Sys2Proof.Machine

/-! Events and records of a port (R387). -/

/-- A bit of FAB_EVT is set: a FABRIC record to every host and a notice (R387, R487, R494). -/
def State.fabEvt (s : State) (p : Nat) (f : Fld) : State :=
  let s1 := s.setFld (FAB_EVT.off p) f 1
  (s1.postPfs 0x07 p (unitPort p).toNat [s1.csrGet (FAB_EVT.off p), s1.csrGet (FAB_STS.off p)]).notice
    (BitVec.ofNat 64 (put 0x05 56 + p))
/-- A bit of FAB_EVT set when a condition holds. -/
def State.fabEvtIf (s : State) (p : Nat) (f : Fld) (b : Bool) : State := if b then s.fabEvt p f else s
/-- The DET 0x0E record of a port. -/
def State.portRecord (s : State) (p : Nat) : State := (s.openRecord (mkDet 0x0E (unitPort p) none 1 2 0 0 0 0 0) false).1
/-- The record of a lane newly marked bad (R387, R24). -/
def State.laneRecord (s : State) (p lane : Nat) : State :=
  (s.openRecord (mkDet 0x0E (mkUnit (4 + p / 4) (p % 4) 0 5 lane) none 1 2 0 0 0 0 0) false).1

def State.fsts (s : State) (p : Nat) (f : Fld) : Nat := s.fld (FAB_STS.off p) f
def State.setFsts (s : State) (p : Nat) (f : Fld) (v : Nat) : State := s.setFld (FAB_STS.off p) f v
def State.setPst (s : State) (p st : Nat) : State := s.setFsts p FAB_STS.STATE st

/-- A field of the configuration latched at training. -/
def FPort.cf (p : FPort) (f : Fld) : Nat := getFld p.cfg f
def FPort.cbit (p : FPort) (f : Fld) : Bool := p.cf f == 1

/-! Detours: the start of a setup (R416, R417, R421). -/

/-- The candidate side-steps of a direction that have an ACTIVE port here (R414, R416). -/
def State.cands (s : State) (d : Nat) : List Nat :=
  ((List.range 4).map fun j => bits (s.fld (ROUTE_DET.off d) ROUTE_DET.CAND) (3 * j) 3).filter fun c =>
    decide (c < 6) && dirAxis c != dirAxis d && s.dirUp c

/-- No candidate is left: the host is told and halyards to packages that are unreachable enter DOWN (R418). -/
def State.detFail (s : State) (d : Nat) : State :=
  let s1 := s.modDet d fun _ => { Detour.idle with st := .failed }
  let p := (s1.dirPorts d).headD 0
  let s2 := s1.postPfs 0x07 p (unitPort p).toNat [s1.csrGet (FAB_EVT.off p), s1.csrGet (FAB_STS.off p)]
  s2.halUnreachable s2.unreachable

/-- DSETUP for the next candidate of a detour or bypass, if one is left (R416, R417). -/
def State.detNext (s : State) (d : Nat) : State :=
  let x := s.det d
  match x.todo with
  | c :: rest =>
    let path : List (Fin 6) := (if x.byp then [d, d, opp c] else [d, opp c]).map (Fin.ofNat 6)
    let st := if x.sides.isEmpty then DetSt.setup else .force
    (s.modDet d fun x => { x with st := st, cur := some c, todo := rest }).sendMsg
      (.dsetup c ⟨BitVec.ofNat 15 s.self, 0, Fin.ofNat 6 d, path⟩)
  | [] => if x.sides.isEmpty then s.detFail d else s.modDet d fun x => { x with cur := none }

/-- The setup of a detour for a direction without an ACTIVE port (R416, R421). -/
def State.detStart (s : State) (d : Nat) : State :=
  if s.dirUp d || (s.det d).st != .idle then s
  else if s.bit (ROUTE_DET.off d) ROUTE_DET.EN then (s.modDet d fun _ => { Detour.idle with todo := s.cands d }).detNext d
  else s.detFail d

/-- A direction has an ACTIVE port again: a detour in force is torn down, one that is not in force is given up (R420). -/
def State.detEnd (s : State) (d : Nat) : State :=
  let x := s.det d
  match x.st with
  | .force =>
    let s1 := s.modDet d fun x => { x with st := .tear, left := x.sides.length, todo := [], cur := none }
    x.sides.foldl (fun s c => s.sendMsg (.dtear (BitVec.ofNat 15 s.self) c (tget 0 x.sent c))) s1
  | .idle => s
  | .tear => s
  | _ =>
    let s1 := s.modDet d fun _ => Detour.idle
    match x.cur with
    | some c => s1.sendMsg (.dtear (BitVec.ofNat 15 s.self) c 0)
    | none => s1

/-! Taking a port down (R370 to R372, R380, R413). -/

/-- The lead port of a pair, whose window, credits and counts serve both; the port itself when it has no partner (R378, R379). -/
def State.lead (s : State) (p : Nat) : Nat :=
  if s.fsts p FAB_STS.PAIR_ACT = 1 then min p (s.fld (FAB_LHCFG.off p) FAB_LHCFG.PAIR) else p

/-- A pennant sent on a port has been freed by the peer, by its credit counts (R413, log 17, DESIGN CHOICE). -/
def FPort.freed (f : FPort) (t : TxPen) : Bool := if t.pool then decide (t.idx ≤ f.peerPool) else decide (t.idx ≤ f.peerRes.getD t.vc 0)

/-- The areas of a port: window base, queue base, bytes. -/
def State.lhAreas (s : State) (p : Nat) : Nat × Nat × Nat :=
  (s.fld (FAB_LHCFG.off p) FAB_LHCFG.WBASE * 0x200000, s.fld (FAB_LHQ.off p) FAB_LHQ.QBASE * 0x200000,
    s.fld (FAB_LHCFG.off p) FAB_LHCFG.SIZE * 0x200000)

/-- The address in its window area of a block of a long-haul port, whose window holds `SIZE × 4,096` blocks of 512 bytes (R375; the place is log 43,
DESIGN CHOICE). -/
def State.winAddr (s : State) (p seq : Nat) : Nat :=
  let a := s.lhAreas p
  a.1 + 512 * (seq % max 1 (a.2.2 / 512))
/-- The address in its receive queue of a shared slot of a long-haul port (R375; log 43, DESIGN CHOICE). -/
def State.slotAddr (s : State) (p place : Nat) : Nat := (s.lhAreas p).2.1 + 80 * place

/-- A pennant read back from the area of a long-haul port; one whose bytes are poisoned is poisoned (R241). -/
def State.penAt (s : State) (a : Nat) : Pennant :=
  let pn := decodePen (s.readBytes a 80)
  { pn with poison := pn.poison || s.poisoned a 80 }

/-- The pennants of a block of a port's window as they left: in long-haul mode from the port's area, whatever its address names by now (R375,
R377). -/
def State.winPens (s : State) (p : Nat) (b : Blk) : List TxPen :=
  if s.fsts p FAB_STS.LH_ACT = 1 then
    (List.range b.pens.length).filterMap fun i =>
      let back (t : TxPen) : TxPen :=
        let pn := s.penAt (s.winAddr p b.seq + 80 * i)
        { t with pn := { pn with hops := if t.arr.isSome then pn.hops - 1 else pn.hops } }
      (b.pens[i]?).map back
  else b.pens

/-- The pennants that a port hands to the routing plane in original order: of its window those not acknowledged or not freed, then those
that waited (R371, R413). -/
def State.handed (s : State) (p : Nat) : List RIn :=
  let f := s.fport p
  let w := f.win.flatMap fun b => (s.winPens p b).filter fun t => !(b.acked && f.freed t)
  (w ++ f.txq).map fun t => ⟨{ t.pn with dtr := false }, t.arr, t.origin, true⟩

/-- The link state of a port as it starts anew at ACTIVE; the lane and identity results stay. -/
def FPort.fresh (f : FPort) : FPort :=
  { FPort.reset with signal := f.signal, cfg := f.cfg, dir := f.dir, fast := f.fast, lastRate := f.lastRate, newBad := f.newBad,
                     rxLanes := f.rxLanes, good := f.good, downs := f.downs, out := f.out, nextRx := f.nextRx, txLanes := f.txLanes }

/-- The link state of one port moved to another, whose own lanes and configuration stay (R380). -/
def FPort.take (f g : FPort) : FPort :=
  { g with signal := f.signal, cfg := f.cfg, dir := f.dir, fast := f.fast, lastRate := f.lastRate, newBad := f.newBad,
           lhDone := f.lhDone, rxLanes := f.rxLanes, good := f.good, downs := f.downs, out := f.out, txLanes := f.txLanes,
           resend := f.resend, resent := f.resent, nakDue := f.nakDue, nakAt := f.nakAt, seen := f.seen, scrTx := f.scrTx, scrRx := f.scrRx,
           msStart := f.msStart, msBad := f.msBad, msCorr := f.msCorr }

/-- The slots of a port that pennants name are from here on those of another port, or are none (R380). -/
def State.reorigin (s : State) (p : Nat) (new : Option Nat) : State :=
  let at_ (o : Option (Nat × Nat)) : Option (Nat × Nat) := o.bind fun x => if x.1 = p then new.map fun q => (q, x.2) else some x
  let ofR (r : RIn) : RIn := { r with origin := at_ r.origin }
  let ofT (t : TxPen) : TxPen := { t with origin := at_ t.origin }
  let ofB (b : Blk) : Blk := { b with pens := b.pens.map ofT }
  let ofF (x : Nat × FPort) : Nat × FPort := (x.1, { x.2 with txq := x.2.txq.map ofT, win := x.2.win.map ofB })
  { s with rq := s.rq.map ofR, inbox := s.inbox.map ofR, fports := s.fports.map ofF }

/-- The blocks and pennants in the areas of one port copied to those of another (R378; log 43, DESIGN CHOICE). -/
def State.moveAreas (s : State) (p q : Nat) : State :=
  let f := s.fport p
  let s1 := f.win.foldl (fun s b => s.writeMem (s.winAddr q b.seq) (s.readBytes (s.winAddr p b.seq) 512) false) s
  (f.rx.filter (·.pool)).foldl (fun s r => s.writeMem (s.slotAddr q r.place) (s.readBytes (s.slotAddr p r.place) 80) false) s1

/-- The shared state of a pair moves from one port to the other, which goes on with it (R378 to R380). -/
def State.movePair (s : State) (p q : Nat) : State :=
  let s1 := s.moveAreas p q
  ((s1.modFport q fun g => g.take (s.fport p)).modFport p FPort.fresh).reorigin p (some q)

/-- The pennants of a port are handed over, or its pair goes on with them (R371, R380). -/
def State.handOver (s : State) (p : Nat) : State :=
  if s.fsts p FAB_STS.PAIR_ACT = 1 then
    let q := s.fld (FAB_LHCFG.off p) FAB_LHCFG.PAIR
    let s1 := if p < q then s.movePair p q else s
    (((s1.modFport p FPort.fresh).setFsts p FAB_STS.PAIR_ACT 0).setFsts q FAB_STS.PAIR_ACT 0).fabEvt p FAB_EVT.PAIR_LOST
  else
    let h := s.handed p
    ({ s with rq := h ++ s.rq } : State).modFport p FPort.fresh

/-- A port leaves service: no width and so no logical lane, no rate, no long-haul mode; its direction may need a detour. (log 43, DESIGN CHOICE) -/
def State.portOff (s : State) (p : Nat) : State :=
  let s0 := (((s.setFsts p FAB_STS.WIDTH 0).setFsts p FAB_STS.TXW 0).setFsts p FAB_STS.RATE 0).setFsts p FAB_STS.LH_ACT 0
  let s1 := s0.setFld (FAB_LANE.off p) FAB_LANE.LMAP 0
  s1.detStart (s1.fport p).dir

/-- A port enters SHUT with a cause (R356, R358, R372, R384). -/
def State.shutPort (s : State) (p cause : Nat) : State :=
  let s0 := if s.pst p = stActive then s.handOver p else s
  ((((s0.setPst p stShut).setFsts p FAB_STS.CAUSE cause).fabEvt p FAB_EVT.SHUT).portRecord p).portOff p

def causeWidth : Nat := 4
def causeFlap : Nat := 5
def causePeerShut : Nat := 6
def causeCommand : Nat := 7
def causeLoss : Nat := 8
def causeRetry : Nat := 9
def causeErrRate : Nat := 10

/-- 60 s in ns. -/
def minuteNs : Nat := 60000000000

/-- The times within the last 60 s at which a port was taken down. -/
def State.recentDowns (s : State) (p : Nat) : List Nat := (s.fport p).downs.filter fun t => decide (s.time ≤ t + minuteNs)

/-- Taken down now, a port has been so more than FLAP_MAX times within 60 s (R372). -/
def State.flaps (s : State) (p : Nat) : Bool :=
  let lim := s.fld (FAB_ERRCTL.off p) FAB_ERRCTL.FLAP_MAX
  lim != 0 && decide (lim < (s.recentDowns p).length + 1)

/-- An ACTIVE port is taken down into a state: its pennants are handed over, DOWN is reported, the time is kept for R372 (R371). -/
def State.downTo (s : State) (p st : Nat) : State :=
  let s1 := ((((s.handOver p).setPst p st).fabEvt p FAB_EVT.DOWN).portRecord p)
  s1.modFport p fun f => { f with downs := s1.recentDowns p ++ [s1.time] }

/-- FLAP is reported, and opens or joins the port's record (R372, R387). -/
def State.flapEvt (s : State) (p : Nat) : State := (s.fabEvt p FAB_EVT.FLAP).portRecord p

/-- A port in ACTIVE is taken down (R370, R371); taken down too often it enters SHUT (R372). -/
def State.takeDown (s : State) (p cause : Nat) : State :=
  if s.pst p = stActive then
    let s1 := (s.downTo p stDown).setFsts p FAB_STS.CAUSE cause
    if s.flaps p then (s1.shutPort p causeFlap).flapEvt p else s1.portOff p
  else s

/-! Training (R348 to R357). -/

/-- A port starts training: it enters DETECT (R350). Full training forgets the last equalisation (R354). -/
def State.beginTrain (s : State) (p : Nat) (full : Bool) : State :=
  (s.modFport p fun f => { f with lastRate := if full then 0 else f.lastRate }).setPst p stDetect

/-- A port in DETECT has signal: its configuration and direction are latched, and the lane check begins; a port that now serves no direction
becomes DISABLED (R348, R350, R382). -/
def State.latchTrain (s : State) (p : Nat) : State :=
  let cfg := s.csrGet (FAB_CFG.off p)
  let fast := getFld cfg FAB_CFG.LH == 1 && getFld cfg FAB_CFG.RATE64 == 0
  (s.modFport p fun f => { f with signal := true, cfg := cfg, dir := s.allocDir p, fast := fast, lhDone := false }).setPst p
    (if s.allocDir p = 7 then stDisabled else stLaneCheck)

/-- A port may train: enabled, with a direction (R348, R350). -/
def State.mayTrain (s : State) (p : Nat) : Bool := s.bit (FAB_CFG.off p) FAB_CFG.EN && s.allocDir p != 7

/-- Every port takes the direction of PKG_FAB_ALLOC, which its rank and those of its direction count from, enabled or not (R348, R349); one
that may train leaves DISABLED for DETECT (R350). -/
def State.startPorts (s : State) : State :=
  (List.range 16).foldl (fun s p =>
    let s1 := s.modFport p fun f => { f with dir := s.allocDir p }
    if s.mayTrain p && s.pst p == stDisabled then s1.beginTrain p true else s1) s

/-- The fields of FAB_CFG take those of a word; MINW 0 leaves that field (R382). -/
def State.cfgFlds (s : State) (p : Nat) (w : Word) : State :=
  let o := FAB_CFG.off p
  let s1 := [FAB_CFG.EN, FAB_CFG.LH, FAB_CFG.EXPV, FAB_CFG.EXP_ID, FAB_CFG.RATE64, FAB_CFG.LDIS].foldl (fun s f => s.setFld o f (getFld w f)) s
  if getFld w FAB_CFG.MINW = 0 then s1 else s1.setFld o FAB_CFG.MINW (getFld w FAB_CFG.MINW)

/-- A write to FAB_CFG (R382): MINW 0 leaves that field; EN written 0 disables the port and takes it down, written 1 lets it train. A write of
the lower half alone does not reach EN and starts or stops nothing (R6). -/
def State.fabCfg (s : State) (p : Nat) (sz : CsrSize) (v : Word) : State :=
  let o := FAB_CFG.off p
  let w := mergeSz (s.csrGet o) sz v
  let s2 := s.cfgFlds p w
  if sz = .lo32 then s2
  else if getFld w FAB_CFG.EN = 0 then
    if s2.pst p = stDisabled then s2
    else
      let s3 := if s2.pst p = stActive then (if s2.flaps p then (s2.downTo p stDisabled).flapEvt p else s2.downTo p stDisabled)
        else s2.setPst p stDisabled
      s3.portOff p
  else if s2.pst p = stDisabled ∧ s2.mayTrain p = true then
    (s2.modFport p fun f => { f with dir := s2.allocDir p }).beginTrain p true
  else s2

def execFabCfgWrite (p : PortId) (sz : CsrSize) (v : Word) (s : State) : Out := .next (s.fabCfg p.val sz v)

/-- Signal appears: a port that is down, or shuttered and then without signal on every lane for 100 ms, starts to train, and one in DETECT goes
on to the lane check (R350, R354, R358). `lostMs` is how long the signal was away on every lane. -/
def execPortSignalDetect (p : PortId) (lostMs : Nat) (s : State) : Out :=
  let st := s.pst p.val
  .next (if st = stDetect then s.latchTrain p.val
    else if st = stDown then s.beginTrain p.val (s.fport p.val).newBad
    else if st = stShut ∧ 100 ≤ lostMs then s.beginTrain p.val true
    else s)

/-- A port without signal repeats the lane check and stays in DETECT (R351). -/
def execDetectRepeat (p : PortId) (s : State) : Out :=
  .next (if s.pst p.val = stDetect then s.modFport p.val fun f => { f with signal := false } else s)

/-- The lane check ends: open and shorted lanes are marked, lanes newly bad are recorded and make the training full (R354, R356, R387). -/
def State.laneCheck (s : State) (p open_ short : Nat) : State :=
  if s.pst p = stLaneCheck then
    let o := FAB_LANE.off p
    let kept := if (s.fport p).newBad then s.fld o FAB_LANE.BAD else 0
    let bad := kept ||| open_ ||| short
    let new := (List.range 8).filter fun l => bad.testBit l && !(s.fld o FAB_LANE.BAD).testBit l
    let s1 := ((s.setFld o FAB_LANE.OPEN open_).setFld o FAB_LANE.SHORT short).setFld o FAB_LANE.BAD bad
    let s2 := if new.isEmpty then s1 else s1.modFport p fun f => { f with lastRate := 0 }
    (new.foldl (fun s l => s.laneRecord p l) s2).setPst p stSync
  else s

def execLaneCheckComplete (p : PortId) (openLanes : BitVec 8) (shortLanes : BitVec 8) (s : State) : Out :=
  .next (s.laneCheck p.val openLanes.toNat shortLanes.toNat)

/-- Block lock: inverted lanes are corrected (R353, R356). -/
def execBlockLock (p : PortId) (inverted : BitVec 8) (s : State) : Out :=
  .next (if s.pst p.val = stSync then
    ((s.setFld (FAB_LANE.off p.val) FAB_LANE.POLINV inverted.toNat).fabEvtIf p.val FAB_EVT.LANE_FIX (inverted != 0)).setPst p.val stIdent
  else s)

/-- 30 ms without lock: a long-haul port changes the rate of SYNC and IDENT (R352). -/
def execRateSwitchTimer (p : PortId) (s : State) : Out :=
  let f := s.fport p.val
  .next (if s.pst p.val = stSync && f.cbit FAB_CFG.LH && !f.cbit FAB_CFG.RATE64 then s.modFport p.val fun f => { f with fast := !f.fast } else s)

/-- The largest of 8, 4 and 2 not above a number of lanes; a KT-1 peer permits 8 and 4 only (R355, R357). -/
def widthOf (n : Nat) (kt1 : Bool) : Nat := if 8 ≤ n then 8 else if 4 ≤ n then 4 else if 2 ≤ n ∧ kt1 = false then 2 else 0

/-- The good receive lanes in the order of the peer's transmit lanes (R357). -/
def State.rxOrder (s : State) (p : Nat) (i : Identity) : List Nat :=
  let bad := s.fld (FAB_LANE.off p) FAB_LANE.BAD
  let ldis := (s.fport p).cf FAB_CFG.LDIS
  let tx (l : Nat) : Nat := match i.laneOf[l]? with | some t => t.val | none => l
  let ok (l : Nat) : Bool := !bad.testBit l && !ldis.testBit l && !i.ldis.getLsbD (tx l)
  (List.range 8).flatMap fun t => (List.range 8).filter fun l => ok l && tx l == t
/-- Good transmit lanes in ascending order (R357). -/
def State.txGood (s : State) (p : Nat) (i : Identity) : List Nat :=
  (List.range 8).filter fun l => !i.badRx.getLsbD l && !((s.fport p).cf FAB_CFG.LDIS).testBit l

/-- The mismatch that an identity shows, as its cause, 0 for none (R356). -/
def State.identBad (s : State) (p : Nat) (i : Identity) : Nat :=
  let f := s.fport p
  let expv := f.cbit FAB_CFG.EXPV
  if i.dir.val ≠ opp f.dir ∨ i.rank ≠ s.rankOf p then 1
  else if expv && i.pkg.toNat != f.cf FAB_CFG.EXP_ID then 2
  else if i.pkg.toNat = s.self ∧ (expv && f.cf FAB_CFG.EXP_ID == s.self) = false then 3
  else 0

/-- An identity block in IDENT: peer, lane order, width and rate (R352, R353, R356, R357). -/
def State.identify (s : State) (p : Nat) (i : Identity) : State :=
  let f := s.fport p
  let kt1 := i.gen == 1
  let rx := s.rxOrder p i
  let w := widthOf rx.length kt1
  let moved := (List.range 8).any fun l => match i.laneOf[l]? with | some t => t.val != l | none => false
  let rate := if kt1 || f.cbit FAB_CFG.RATE64 || i.rate64 then 1 else 2
  let s1 := (((s.setFsts p FAB_STS.PEER_GEN i.gen).setFsts p FAB_STS.PEER_PORT i.port.val).setFsts p FAB_STS.PEER_DIR i.dir.val).setFsts p
    FAB_STS.PEER_ID i.pkg.toNat
  let bad := s1.identBad p i
  if bad ≠ 0 then s1.shutPort p bad
  else
    let s2 := s1.fabEvtIf p FAB_EVT.LANE_FIX moved
    let tx := s2.txGood p i
    let s3 := (s2.modFport p fun f => { f with rxLanes := rx.take w, good := (rx.length, tx.length), txLanes := tx }).setFsts p FAB_STS.RATE rate
    s3.setPst p stRate

/-- A port in RATE has equalisation to do: at 128 Gbit/s, unless it kept its last one (R353, R354). -/
def State.eqDue (s : State) (p : Nat) : Bool :=
  s.fsts p FAB_STS.RATE == 2 && !((s.fport p).lastRate == 2 && !(s.fport p).newBad)

/-- An identity block arrives; one with SHUT set shutters the port (R352, R358). -/
def execIdentityBlockReceive (p : PortId) (i : Identity) (s : State) : Out :=
  let st := s.pst p.val
  .next (if i.shut then (if st = stDisabled ∨ st = stShut then s else s.shutPort p.val causePeerShut)
    else if st = stIdent then s.identify p.val i else s)

/-- Equalisation at 128 Gbit/s is complete (R353). -/
def execEqualisationComplete (p : PortId) (s : State) : Out := .next (if s.pst p.val = stRate then s.setPst p.val stAlign else s)

/-- Deskew is complete in ALIGN, which a port with no equalisation to do has entered from RATE: ACTIVE with all credits and the lanes mapped, or
SHUT when a width is below MINW (R350, R353, R356, R368, R383). -/
def State.activate (s : State) (p : Nat) : State :=
  if s.pst p = stAlign || (s.pst p == stRate && !s.eqDue p) then
    let f := s.fport p
    let kt1 := s.fsts p FAB_STS.PEER_GEN == 1
    let w := widthOf f.good.1 kt1
    let x := widthOf f.good.2 kt1
    let minw := 2 ^ f.cf FAB_CFG.MINW
    if w < minw ∨ x < minw then s.shutPort p causeWidth
    else
      let rate := s.fsts p FAB_STS.RATE
      let lmap := (List.range w).foldl (fun m l => m + put (f.rxLanes.getD l 0) (3 * l)) 0
      let s0 := ((s.setPst p stActive).setFsts p FAB_STS.WIDTH w).setFsts p FAB_STS.TXW x
      let s1 := s0.setFld (FAB_LANE.off p) FAB_LANE.LMAP lmap
      let s2 := s1.modFport p fun f => { f.fresh with lastRate := rate, newBad := false, msStart := s.time }
      let s3 := (s2.fabEvt p FAB_EVT.TRAINED).fabEvtIf p FAB_EVT.DEGRADED (decide (w < 8) || decide (x < 8))
      s3.detEnd f.dir
  else s

def execPortActive (p : PortId) (s : State) : Out := .next (s.activate p.val)

/-! Long-haul mode and pairs (R375 to R379). -/

/-- Long-haul mode is refused (R376). The areas of a partner that names the port do not count, since a pair uses one port's areas (R378;
log 43, DESIGN CHOICE). -/
def State.lhRefused (s : State) (p : Nat) : Bool :=
  let sz := s.fld (FAB_LHCFG.off p) FAB_LHCFG.SIZE
  let a := s.lhAreas p
  let z := a.2.2
  let away (b : Nat) : Bool := (List.range (z / 4096)).any fun i => (s.hbmPlace (b + 4096 * i)).1 / 3 != p / 4
  let names (a b : Nat) : Bool := s.bit (FAB_LHCFG.off a) FAB_LHCFG.PAIRV && s.fld (FAB_LHCFG.off a) FAB_LHCFG.PAIR == b
  let partner (q : Nat) : Bool := p / 4 == q / 4 && names p q && names q p
  let hits (b : Nat) : Bool := s.inStaging b z || !(s.buddiesAt b z).isEmpty ||
    (List.range 16).any fun q => q != p && s.bit (FAB_CFG.off q) FAB_CFG.LH && !partner q &&
      (let c := s.lhAreas q
       overlap b z c.1 c.2.2 || overlap b z c.2.1 c.2.2)
  s.fsts p FAB_STS.PEER_GEN == 1 || sz == 0 || decide (128 < sz) || decide (0xC000000000 < a.1 + z) || decide (0xC000000000 < a.2.1 + z) ||
    away a.1 || away a.2.1 || overlap a.1 z a.2.1 z || hits a.1 || hits a.2.1

/-- Shared receive slots of a port (R368, R375). -/
def State.poolSlots (s : State) (p : Nat) : Nat :=
  if s.fsts p FAB_STS.LH_ACT = 1 then s.fld (FAB_LHCFG.off p) FAB_LHCFG.SIZE * 0x200000 / 80 else 2304
/-- Blocks of its retry window (R375). -/
def State.winBlocks (s : State) (p : Nat) : Nat :=
  if s.fsts p FAB_STS.LH_ACT = 1 then s.fld (FAB_LHCFG.off p) FAB_LHCFG.SIZE * 4096 else 4096

/-- Two ports that R378 makes a pair, as far as this end can tell. (log 43, DESIGN CHOICE) -/
def State.pairOk (s : State) (p q : Nat) : Bool :=
  let names (a b : Nat) : Bool := s.bit (FAB_LHCFG.off a) FAB_LHCFG.PAIRV && s.fld (FAB_LHCFG.off a) FAB_LHCFG.PAIR == b
  p != q && p / 4 == q / 4 && (s.fport p).dir == (s.fport q).dir && s.pst p == stActive && s.pst q == stActive &&
    s.fsts p FAB_STS.LH_ACT == 1 && s.fsts q FAB_STS.LH_ACT == 1 && names p q && names q p &&
    s.fsts p FAB_STS.PEER_ID == s.fsts q FAB_STS.PEER_ID

/-- The pair of a port is decided. A port that names a partner and forms no pair with it runs alone, and PAIR_LOST is set. A port that joins a
partner which runs already hands what it still holds of its own to the routing plane, and the link state of the partner serves both from the
next new block on (R378 to R380). -/
def State.pairUp (s : State) (p : Nat) : State :=
  if s.bit (FAB_LHCFG.off p) FAB_LHCFG.PAIRV then
    let q := s.fld (FAB_LHCFG.off p) FAB_LHCFG.PAIR
    if s.pairOk p q then
      let s0 := (({ s with rq := s.handed p ++ s.rq } : State).modFport p fun f => { f with txq := [], win := [], resend := none, resent := (0, 0) })
      let s1 := if p < q then (s0.reorigin p none).movePair q p else s0
      (((s1.setFsts p FAB_STS.PAIR_ACT 1).setFsts q FAB_STS.PAIR_ACT 1).modFport p fun f => { f with seen := (s1.fport (min p q)).rxNext }).modFport q
        fun f => { f with seen := (s1.fport (min p q)).rxNext }
    else s.fabEvt p FAB_EVT.PAIR_LOST
  else s

/-- The round trip is measured; the first measurement decides long-haul mode and the pair (R353, R376, R378, R386). -/
def State.rtt (s : State) (p : Nat) (ns : Nat) : State :=
  if s.pst p = stActive then
    let s1 := s.setFld (FAB_RTT.off p) FAB_RTT.NS ns
    let f := s.fport p
    if f.cbit FAB_CFG.LH && !f.lhDone then
      let s2 := s1.modFport p fun f => { f with lhDone := true }
      (if s2.lhRefused p then s2.fabEvt p FAB_EVT.LH_REFUSED else s2.setFsts p FAB_STS.LH_ACT 1).pairUp p
    else s1
  else s

def execRttMeasured (p : PortId) (ns : BitVec 32) (s : State) : Out := .next (s.rtt p.val ns.toNat)

/-! Sending blocks (R366, R367, R403, R404). -/

/-- Credits left: reserved of a channel, and shared (R368). -/
def FPort.resLeft (f : FPort) (vc : Nat) : Nat := 32 + f.peerRes.getD vc 0 - f.txRes.getD vc 0
def State.poolLeft (s : State) (p : Nat) : Nat := s.poolSlots p + (s.fport p).peerPool - (s.fport p).txPool

/-- A pennant may be sent: an injection on VC1 to VC6 holds two reserved credits; any other one credit, reserved or, on VC1 to VC6,
shared (R368, R402). -/
def mayGo (f : FPort) (pool : Nat) (t : TxPen) : Bool :=
  let r := f.resLeft t.vc
  let data := decide (1 ≤ t.vc) && decide (t.vc ≤ 6)
  if data && t.inj then decide (2 ≤ r) else r != 0 || (data && pool != 0)

/-- The first pennant of a channel and input. -/
def FPort.headOf (f : FPort) (vc input : Nat) : Option TxPen := f.txq.find? fun t => t.vc == vc && t.input == input

/-- The eligible pennant of a channel whose requester's turn it is, among local injection and inputs 0 to 15 (R22, R403); `tr` asks for
transit only. -/
def FPort.pickVc (f : FPort) (pool vc : Nat) (tr : Bool) : Option TxPen :=
  ((List.range 17).map fun i => (f.rrIn.getD vc 0 + i) % 17).findSome? fun i =>
    match f.headOf vc i with
    | some t => if mayGo f pool t && (!tr || t.transit) then some t else none
    | none => none

/-- The data channels in their order: VC1, VC2, then VC3 to VC6 in turn (R403). -/
def FPort.dataOrder (f : FPort) : List Nat := [1, 2] ++ (List.range 4).map fun i => 3 + (f.rrVc - 3 + i) % 4

/-- The pennant for the next slot, and whether it came by steps 3 or 4 (R403, R404). -/
def FPort.pickSlot (f : FPort) (pool : Nat) : Option (TxPen × Bool) :=
  match f.pickVc pool 0 false with
  | some t => some (t, false)
  | none =>
    match f.pickVc pool 7 false with
    | some t => some (t, false)
    | none =>
      let tr := if f.slotCnt % 8 = 7 then f.dataOrder.findSome? fun v => f.pickVc pool v true else none
      match tr with
      | some t => some (t, true)
      | none => (f.dataOrder.findSome? fun v => f.pickVc pool v false).map fun t => (t, true)

/-- A pennant takes its credit and its turn. -/
def FPort.send (f : FPort) (t : TxPen) (counted : Bool) : TxPen × FPort :=
  let pool := f.resLeft t.vc == 0
  let res := f.txRes.getD t.vc 0
  let t1 : TxPen := { t with pool := pool, idx := if pool then f.txPool + 1 else res + 1 }
  (t1, { f with txq := f.txq.erase t, txRes := if pool then f.txRes else f.txRes.set t.vc (res + 1),
                txPool := if pool then f.txPool + 1 else f.txPool, rrIn := f.rrIn.set t.vc ((t.input + 1) % 17),
                rrVc := if 3 ≤ t.vc ∧ t.vc ≤ 6 then 3 + (t.vc - 2) % 4 else f.rrVc,
                slotCnt := if counted then f.slotCnt + 1 else f.slotCnt })

/-- Up to `n` slots filled. -/
def FPort.fill (slots : Nat) : Nat → FPort → List TxPen × FPort
  | 0, f => ([], f)
  | n + 1, f =>
    match f.pickSlot (slots + f.peerPool - f.txPool) with
    | some (t, counted) =>
      let x := f.send t counted
      let y := FPort.fill slots n x.2
      (x.1 :: y.1, y.2)
    | none => ([], f)

/-- The trailer of the next block (R364, R366). -/
def FPort.trailer (f : FPort) (bseq : Nat) : Trailer :=
  ⟨BitVec.ofNat 24 bseq, BitVec.ofNat 24 (f.rxNext + 2 ^ 24 - 1), f.nakDue, f.rxAny, f.freedRes.map (BitVec.ofNat 8 ·), BitVec.ofNat 24 f.freedPool⟩

/-- A pennant as it leaves: VER of the peer's generation, HOPS raised when forwarded, DTR on VC7 (R355, R361, R359). -/
def wirePen (kt1 : Bool) (t : TxPen) : Pennant :=
  { t.pn with ver := if kt1 then 1 else 2, hops := if t.arr.isSome then t.pn.hops + 1 else t.pn.hops, dtr := t.vc == 7 }

/-- The lanes of a port take the line bytes of a block, scrambled, the logical lanes going out on its good transmit lanes in ascending order
(R345, R357, R363). -/
def State.onLanes (s : State) (p : Nat) (data : List Byte) : Tbl (List Byte) × Nat :=
  let w := s.fsts p FAB_STS.TXW
  let x := scramble true (s.fport p).scrTx (lineBytes data)
  ((List.range w).map fun l => ((s.fport p).txLanes.getD l 0, laneBytes w l x.1), x.2)

/-- A data or idle block leaves a port, with that port's own NAK and the ACK and credit counts of the pair (R345, R363, R364, R366, R379). -/
def State.emitOn (s : State) (p bseq typ : Nat) (slots : List Pennant) : State :=
  let l := s.fport (s.lead p)
  let f := s.fport p
  let t : Trailer := { l.trailer bseq with nak := f.nakDue }
  let x := s.onLanes p (blockBytes t typ slots)
  let at_ : Option (Nat × Nat) := if f.nakDue then some (s.time, l.rxNext) else f.nakAt
  s.modFport p fun f => { f with out := f.out ++ [⟨t, typ, slots, none, x.1⟩], nakDue := false, nakAt := at_, scrTx := x.2 }

/-- A new data block leaves a port and, in a pair, its partner too (R379). -/
def State.emitNew (s : State) (p bseq : Nat) (slots : List Pennant) : State :=
  let s1 := s.emitOn p bseq btData slots
  if s.fsts p FAB_STS.PAIR_ACT = 1 then s1.emitOn (s.fld (FAB_LHCFG.off p) FAB_LHCFG.PAIR) bseq btData slots else s1

/-- What a port says of itself (R352). -/
def State.ownIdentity (s : State) (p : Nat) : Identity :=
  let f := s.fport p
  ⟨BitVec.ofNat 15 s.self, Fin.ofNat 16 p, Fin.ofNat 8 f.dir, s.rankOf p, 2, (List.range 8).map (Fin.ofNat 8),
    BitVec.ofNat 8 (s.fld (FAB_LANE.off p) FAB_LANE.BAD), BitVec.ofNat 8 (f.cf FAB_CFG.LDIS), f.cbit FAB_CFG.RATE64, s.pst p == stShut⟩

/-- A port sends identity blocks in IDENT, and with SHUT set while it is shuttered (R352, R358). The bytes of one are not given (log 71, DESIGN
CHOICE). -/
def State.emitIdent (s : State) (p : Nat) : State :=
  s.modFport p fun f => { f with out := f.out ++ [⟨f.trailer f.nextSeq, btIdent, [], some (s.ownIdentity p), []⟩] }

/-- The port sends identity blocks. -/
def State.identifies (s : State) (p : Nat) : Bool := s.pst p == stIdent || s.pst p == stShut

/-- The peer of a port is a KT-1. -/
def State.peerKt1 (s : State) (p : Nat) : Bool := s.fsts p FAB_STS.PEER_GEN == 1

/-- The idle block of a port (R364, R366). -/
def State.emitIdle (s : State) (p : Nat) : State := s.emitOn p (s.fport (s.lead p)).nextSeq btIdle []

/-- A port resends a held block of the window of its lead; one that it has resent RETRY_MAX times without progress takes it down (R367, R370,
R379). -/
def State.resendBlk (s : State) (p : Nat) (b : Blk) : State :=
  let f := s.fport p
  let l := s.lead p
  let n := if f.resent.1 = b.seq then f.resent.2 else 0
  if max 1 (s.fld (FAB_ERRCTL.off p) FAB_ERRCTL.RETRY_MAX) ≤ n then s.takeDown p causeRetry
  else
    let later := ((s.fport l).win.filter fun x => !x.acked).map (·.seq)
    let next := ((later.dropWhile (· != b.seq)).drop 1).head?
    let s1 := s.bump (FAB_ERRCNT.off p) FAB_ERRCNT.RETRY 1
    let s2 := s1.emitOn p b.seq btData ((s.winPens l b).map (wirePen (s.peerKt1 p)))
    s2.modFport p fun f => { f with resend := next, resent := if f.resent.1 = b.seq ∨ f.resent.2 = 0 then (b.seq, n + 1) else f.resent }

/-- A new block is kept in the window; in long-haul mode its bytes are written to the window area (R367, R375). -/
def State.keepBlk (s : State) (p seq : Nat) (slots : List Pennant) : State :=
  if s.fsts p FAB_STS.LH_ACT = 1 then
    s.writeMem (s.winAddr p seq) (blockBytes ((s.fport p).trailer seq) btData slots) false
  else s

/-- A port sends a block: an identity block in IDENT and SHUT; in ACTIVE a block due for resending, an idle block while the window is full, else a
new data block (R352, R358, R367, R403). A pair fills one window (R379). -/
def State.sendBlock (s : State) (p : Nat) : State :=
  let l := s.lead p
  let f := s.fport l
  if s.identifies p then s.emitIdent p
  else if s.pst p ≠ stActive then s
  else match (s.fport p).resend.bind fun n => f.win.find? fun b => b.seq == n with
    | some b => s.resendBlk p b
    | none =>
      if s.winBlocks l ≤ f.win.length then s.emitIdle p
      else
        let x := FPort.fill (s.poolSlots l) 6 f
        if x.1.isEmpty then s
        else
          let g : FPort := { x.2 with win := x.2.win ++ [⟨f.nextSeq, x.1, false⟩], nextSeq := (f.nextSeq + 1) % 2 ^ 24 }
          let slots := x.1.map (wirePen (s.peerKt1 l))
          ((s.modFport l fun _ => g).keepBlk l f.nextSeq slots).emitNew l f.nextSeq slots

def execLinkBlockSend (p : PortId) (s : State) : Out := .next (s.sendBlock p.val)

/-- Nothing was sent for 1 µs: an idle block, or one more identity block (R352, R358, R366). -/
def execIdleBlockTimer (p : PortId) (s : State) : Out :=
  .next (if s.pst p.val = stActive then s.emitIdle p.val else if s.identifies p.val then s.emitIdent p.val else s)

/-- ACK has not advanced: the port resends from the oldest block held without ACK (R367, R379). -/
def execRetryTimeout (p : PortId) (s : State) : Out :=
  .next (if s.pst p.val = stActive then
    match (s.fport (s.lead p.val)).win.find? fun b => !b.acked with
    | some b => s.modFport p.val fun f => { f with resend := some b.seq }
    | none => s
  else s)

/-! Receiving blocks (R361, R365, R366, R368, R370, R413). -/

/-- A pennant that a port may take: VER, TYPE and VC known and matching (R360, R361, R400). -/
def penOk (kt1 : Bool) (p : Pennant) : Bool :=
  let t := p.typ.toNat
  let v := p.vc.toNat
  (p.ver == 2 || (p.ver == 1 && kt1)) && v != 7 &&
    (if t = tWRITE ∨ t = tREAD ∨ t = tATOMIC then v == 3 || v == 4
     else if t = tRDATA ∨ t = tARESP ∨ t = tWACK ∨ t = tRNAK then v == 5 || v == 6
     else if t = tCHUNK ∨ t = tVOTE then v == 1
     else if t = tHDATA ∨ t = tHCRED then v == 2
     else t == tMGMT && v == 0)

/-- A pennant arrives in a slot: it takes a receive slot of its channel, reserved while one is free, else shared, and goes to the routing
plane; one that R361 rejects is discarded and counted at the port that received it, `port`. In long-haul mode a shared slot lies in the
receive queue of the port whose areas serve (R368, R375, R412, log 17, DESIGN CHOICE). -/
def State.penIn (s : State) (port p : Nat) (pn : Pennant) : State :=
  let f := s.fport p
  let vc := if pn.dtr then 7 else pn.vc.toNat
  let used := (f.rx.filter fun r => r.vc == vc && !r.pool).length
  let places := (f.rx.filter (·.pool)).map (·.place)
  let place := ((List.range (places.length + 1)).find? fun i => !places.contains i).getD 0
  let slot : RxSlot := ⟨f.nextRx, vc, decide (32 ≤ used), false, place⟩
  let s0 := if slot.pool && s.fsts p FAB_STS.LH_ACT == 1 then s.writeMem (s.slotAddr p place) (Pennant.encode pn) false else s
  let s1 := s0.modFport p fun f => { f with rx := f.rx ++ [slot], nextRx := f.nextRx + 1 }
  if penOk (s.peerKt1 p) pn then { s1 with rq := s1.rq ++ [⟨pn, some (opp f.dir), some (p, slot.id), false⟩] }
  else (s1.bump (FAB_ERRCNT.off port) FAB_ERRCNT.UNCORR 1).leaveRx (p, slot.id)

/-- A sequence value of `n` bits is not before another. -/
def notBefore (n a b : Nat) : Bool := decide ((a + 2 ^ n - b % 2 ^ n) % 2 ^ n < 2 ^ (n - 1))

/-- A count of `n` bits moved to the newest value under modular comparison (R368). -/
def newest (n old v : Nat) : Nat := if notBefore n v old then old + (v + 2 ^ n - old % 2 ^ n) % 2 ^ n else old

/-- The trailer of an accepted or idle block that came on `port`: ACK and credits for the port whose window serves, NAK for the port it came on
(R364 to R368, R379); transit pennants of covered blocks have left (R412),
blocks whose pennants are all freed leave the window (R413). -/
def State.trailerIn (s : State) (port p : Nat) (t : Trailer) : State :=
  let f := s.fport p
  let ack := t.ack.toNat
  let cov (b : Blk) : Bool := t.ackv && notBefore 24 ack b.seq
  let new := f.win.filter fun b => cov b && !b.acked
  let mark (b : Blk) : Blk := { b with acked := b.acked || cov b }
  let win := f.win.map mark
  let keep (r : Option Nat) : Option Nat := if new.isEmpty then r else
    r.bind fun n => if win.any fun b => b.seq == n && !b.acked then some n else none
  let res := (List.range 8).map fun v => newest 8 (f.peerRes.getD v 0) (t.cred.getD v 0).toNat
  let g : FPort := { f with win := win, peerRes := res, peerPool := newest 24 f.peerPool t.pool.toNat }
  let h : FPort := { g with win := g.win.filter fun b => !(b.acked && b.pens.all g.freed) }
  let gone := new.flatMap fun b => b.pens.filterMap fun x => x.origin
  let acked (s : State) (q : Nat) : State := s.modFport q fun f => { f with resend := keep f.resend, resent := if new.isEmpty then f.resent else (0, 0) }
  let both := if s.fsts p FAB_STS.PAIR_ACT = 1 then [p, s.fld (FAB_LHCFG.off p) FAB_LHCFG.PAIR] else [p]
  let s1 := both.foldl acked (s.modFport p fun _ => h)
  let s2 := if t.nak then s1.modFport port fun f => { f with resend := (win.find? fun b => !b.acked).map (·.seq) } else s1
  gone.foldl (fun s o => s.leaveRx o) s2

/-- NAK becomes due, unless one has been sent for the same block within 1 µs (R366). -/
def State.nak (s : State) (p : Nat) : State :=
  let next := (s.fport (s.lead p)).rxNext
  s.modFport p fun f =>
    match f.nakAt with
    | some (t, n) => if n = next ∧ s.time < t + 1000 then f else { f with nakDue := true }
    | none => { f with nakDue := true }

/-- NAK for a block that cannot be read: in a pair only where the pair has not accepted the block that comes next on this port (R379). -/
def State.nakBad (s : State) (p : Nat) : State :=
  if s.fsts p FAB_STS.PAIR_ACT = 1 ∧ (s.fport p).seen ≠ (s.fport (s.lead p)).rxNext then s else s.nak p

/-- Corrected symbols by logical lane and a failed block counted in the running millisecond; past a limit the port is taken down, a lane
marked bad (R370). -/
def State.countErrs (s : State) (p : Nat) (corr : List Nat) (failed : Bool) : State :=
  let f := s.fport p
  let new := decide (f.msStart + 1000000 ≤ s.time)
  let bad := (if new then 0 else f.msBad) + b2n failed
  let cs := (List.range 8).map fun l => (if new then 0 else f.msCorr.getD l 0) + corr.getD l 0
  let s1 := s.modFport p fun f => { f with msStart := if new then s.time else f.msStart, msBad := bad, msCorr := cs }
  let s2 := s1.bump (FAB_ERRCNT.off p) FAB_ERRCNT.CORR (corr.foldl (· + ·) 0)
  let lane := (List.range 8).find? fun l => decide (s2.fld (FAB_ERRCTL.off p) FAB_ERRCTL.LANE_LIM < cs.getD l 0)
  lane.elim (if s2.fld (FAB_ERRCTL.off p) FAB_ERRCTL.UNC_LIM < bad then s2.takeDown p causeErrRate else s2) fun l =>
    let ph := bits (s2.fld (FAB_LANE.off p) FAB_LANE.LMAP) (3 * l) 3
    let s3 := (s2.setFld (FAB_LANE.off p) FAB_LANE.BAD (s2.fld (FAB_LANE.off p) FAB_LANE.BAD ||| 2 ^ ph)).laneRecord p ph
    (s3.modFport p fun f => { f with newBad := true }).takeDown p causeErrRate

/-- The port receives blocks outside ACTIVE: from block lock on, and while it is shuttered. -/
def State.locked (s : State) (p : Nat) : Bool := (decide (stIdent ≤ s.pst p) && decide (s.pst p ≤ stAlign)) || s.pst p == stShut

/-- A link block arrives at a port (R365, R366, R379). Outside ACTIVE a block that is discarded is still counted (R384). A block of another type has no
effect here: the content of an identity block comes by its own command. -/
def State.blockIn (s : State) (p : Nat) (r : RxBlock) : State :=
  let l := s.lead p
  if s.pst p ≠ stActive then
    match r with
    | .bad _ => if s.locked p then s.bump (FAB_ERRCNT.off p) FAB_ERRCNT.UNCORR 1 else s
    | _ => s
  else match r with
    | .bad corr => ((s.bump (FAB_ERRCNT.off p) FAB_ERRCNT.UNCORR 1).nakBad p).countErrs p corr true
    | .other corr => s.countErrs p corr false
    | .idle t corr =>
      ((s.modFport p fun f => { f with seen := newest 24 f.seen t.bseq.toNat % 2 ^ 24 }).trailerIn p l t).countErrs p corr false
    | .data t slots corr =>
      let s0 := s.modFport p fun f => { f with seen := (newest 24 f.seen t.bseq.toNat + 1) % 2 ^ 24 }
      let f := s0.fport l
      if t.bseq.toNat = f.rxNext then
        let s1 := s0.modFport l fun f => { f with rxNext := (f.rxNext + 1) % 2 ^ 24, rxAny := true }
        ((slots.foldl (fun s x => match x with | some pn => s.penIn p l pn | none => s) s1).trailerIn p l t).countErrs p corr false
      else if s.fsts p FAB_STS.PAIR_ACT = 1 ∧ notBefore 24 t.bseq.toNat f.rxNext = false then s0.countErrs p corr false
      else ((s0.bump (FAB_ERRCNT.off p) FAB_ERRCNT.UNCORR 1).nak p).countErrs p corr false

/-- What a port makes of the bytes on its physical receive lanes: its logical lanes are those of LMAP, their bytes are put in line order, descrambled
and decoded (R345, R357, R363). -/
def State.rxLine (s : State) (p : Nat) (lanes : List (List Byte)) : RxBlock × State :=
  let w := if s.fsts p FAB_STS.WIDTH = 0 then 8 else s.fsts p FAB_STS.WIDTH
  let lane (l : Nat) : List Byte := lanes.getD (if s.fsts p FAB_STS.WIDTH = 0 then l else bits (s.fld (FAB_LANE.off p) FAB_LANE.LMAP) (3 * l) 3) []
  let x := scramble false (s.fport p).scrRx (gatherLanes w lane)
  (readBlock w x.1, s.modFport p fun f => { f with scrRx := x.2 })

def execLinkBlockReceive (p : PortId) (lanes : List (List Byte)) (s : State) : Out :=
  let x := s.rxLine p.val lanes
  .next (x.2.blockIn p.val x.1)

/-- Signal or block lock is lost on a lane in use (R370). -/
def execPortSignalLoss (p : PortId) (s : State) : Out :=
  .next ((s.modFport p.val fun f => { f with signal := false }).takeDown p.val causeLoss)

/-- No valid block for 10 µs (R370). -/
def execBlockReceiveTimeout (p : PortId) (s : State) : Out := .next (s.takeDown p.val causeLoss)

/-! Commands (R373, R384). -/

/-- RETRAIN: full training from any state but DISABLED. -/
def State.retrainPort (s : State) (p : Nat) : State :=
  if s.pst p = stDisabled then s
  else
    let s0 := if s.pst p = stActive then s.handOver p else s
    (s0.beginTrain p true).portOff p

def execRetrain (p : PortId) (s : State) : Out := .next (s.retrainPort p.val)

/-- SHUTTER: SHUT, cause COMMAND. -/
def State.shutterCmd (s : State) (p : Nat) : State :=
  if s.pst p = stShut then s.setFsts p FAB_STS.CAUSE causeCommand else s.shutPort p causeCommand
def execShutter (p : PortId) (s : State) : Out := .next (s.shutterCmd p.val)

end Sys2Proof.Machine
end

