-- ==== Sys2Proof/Machine/Route.lean ====
section
/-! DEFINITION. The routing plane: route selection, requests and their answers, sequence numbers, detours and relay entries
(11_routing_and_slices.md R388 to R423). -/

namespace Sys2Proof.Machine

/-! ROUTE_DIMS and ROUTE_SLICE (R389 to R395, R428). -/

/-- Fields of a register written, the others kept. -/
def State.setFlds (s : State) (o : Nat) (l : List Fld) (w : Word) : State := l.foldl (fun s f => s.setFld o f (getFld w f)) s

/-- The fields of ROUTE_DIMS take those of a word; ORDER 6 and 7 leave that field (R389). -/
def State.dimsFlds (s : State) (w : Word) : State :=
  let base := [ROUTE_DIMS.VALID, ROUTE_DIMS.WZ, ROUTE_DIMS.WY, ROUTE_DIMS.WX, ROUTE_DIMS.NZ, ROUTE_DIMS.NY, ROUTE_DIMS.NX, ROUTE_DIMS.SELF]
  s.setFlds ROUTE_DIMS.off (if getFld w ROUTE_DIMS.ORDER < 6 then base ++ [ROUTE_DIMS.ORDER] else base) w

/-- A write to ROUTE_DIMS: groups end and the rings are rewritten (R395, R428). -/
def State.routeDims (s : State) (sz : CsrSize) (v : Word) : State :=
  ((s.dimsFlds (mergeSz (s.csrGet ROUTE_DIMS.off) sz v)).sliceEnd).rewriteRings
def execRouteDimsWrite (sz : CsrSize) (v : Word) (s : State) : Out := .next (s.routeDims sz v)

/-- A write to ROUTE_SLICE (R391, R395, R428). -/
def State.routeSlice (s : State) (sz : CsrSize) (v : Word) : State :=
  let o := ROUTE_SLICE.off
  let w := mergeSz (s.csrGet o) sz v
  ((s.setFlds o [ROUTE_SLICE.VALID, ROUTE_SLICE.PERM, ROUTE_SLICE.EZ, ROUTE_SLICE.EY, ROUTE_SLICE.EX, ROUTE_SLICE.OZ, ROUTE_SLICE.OY,
    ROUTE_SLICE.OX] w).sliceEnd).rewriteRings
def execRouteSliceWrite (sz : CsrSize) (v : Word) (s : State) : Out := .next (s.routeSlice sz v)

/-! Answers (R400, R401, R408, R409). -/

def State.unreachUp (s : State) : State := s.bump ROUTE_STS.off ROUTE_STS.UNREACH 1

/-- A response pennant that waits until it is sent: to the source, on the request's channel plus 2. Its own sequence number is given when
it leaves (R400, R401, R405). -/
def respPen (self : Nat) (typ : Nat) (rq : Pennant) (addr : Nat) (bytes : List Byte) (len : Nat) (last poison : Bool) : Pennant :=
  ⟨2, BitVec.ofNat 4 typ, rq.vc + 2, poison, last, false, rq.src, BitVec.ofNat 15 self, rq.ctx, BitVec.ofNat 6 len, 0, 0, BitVec.ofNat 48 addr,
    payloadOf bytes⟩
def State.queueResp (s : State) (p : Pennant) : State := { s with resps := s.resps ++ [p] }

/-- The answer to a request with a status: ESEQ and status in ADDR (R408, R409). -/
def State.answerReq (s : State) (typ status : Nat) (rq : Pennant) : State :=
  s.queueResp (respPen s.self typ rq (rq.eseq.toNat + put status 16) [] (if typ = tARESP then 7 else 0) true false)

/-- The status-0x04 answer to a request: one WACK for a WRITE message, an RNAK for a READ, an ARESP for an ATOMIC (R409). -/
def State.refuse (s : State) (rq : Pennant) : State :=
  let t := rq.typ.toNat
  if t = tWRITE then (if rq.last then s.answerReq tWACK 4 rq else s)
  else if t = tREAD then s.answerReq tRNAK 4 rq
  else if t = tATOMIC then s.answerReq tARESP 4 rq
  else s

/-! Route selection (R396 to R399, R404, R414 to R418). -/

/-- The pennant is a request that has an answer. -/
def Pennant.isReq (p : Pennant) : Bool := p.typ.toNat == tWRITE || p.typ.toNat == tREAD || p.typ.toNat == tATOMIC

/-- The pennant at the routing plane goes nowhere further: its receive slot is left. -/
def State.dropIn (s : State) (r : RIn) : State := match r.origin with | some o => s.leaveRx o | none => s

/-- A pennant for a destination that cannot be reached: a request is answered with status 0x04 and counted, a chunk or vote of this package
ends as at an unreachable peer, anything else is discarded (R398, R409, R418). (log 44, DEDUCED) -/
def State.unreachPen (s : State) (r : RIn) : State :=
  let s1 := s.dropIn r
  if Pennant.isReq r.pn then (if r.pn.typ.toNat = tWRITE ∧ r.pn.last = false then s1 else (s1.refuse r.pn).unreachUp)
  else if r.arr.isNone then s1.vc1Unreachable r.pn
  else s1

/-- A pennant delivered here waits for its unit; a management pennant whose content comes by rows of its own is taken at once (R396, R524).
(log 44, DEDUCED) -/
def State.deliver (s : State) (r : RIn) : State :=
  let t := r.pn.typ.toNat
  let kind := bits r.pn.addr.toNat 40 8
  if t = tMGMT ∧ kind ≠ 1 ∧ ¬(hkOpen ≤ kind ∧ kind ≤ hkRefused) then s.dropIn r
  else { s with inbox := s.inbox ++ [r] }

/-- The rank that a pennant takes among `n` ports of its direction (R399). -/
def penRank (vc : Nat) (p : Pennant) (n : Nat) : Nat :=
  if 2 ≤ vc ∧ vc ≤ 6 then
    let x := (p.src.toNat ^^^ p.dst.toNat) ^^^ put vc 10
    (bits x 10 5 + bits x 5 5 + bits x 0 5) % n
  else if vc = 1 ∧ p.typ.toNat = tCHUNK then pnCidx p % n
  else 0

/-- A port holds pennants of the flow of another that the peer has not freed (R399). -/
def FPort.holdsFlow (f : FPort) (p : Pennant) : Bool :=
  let same (t : TxPen) : Bool := t.pn.src == p.src && t.pn.dst == p.dst && t.pn.vc == p.vc
  f.txq.any same || f.win.any fun b => b.pens.any fun t => same t && !(b.acked && f.freed t)

/-- The ACTIVE port of a direction for a pennant on a channel: a flow that was moved to another port stays there until the peer has freed
its pennants (R399). -/
def State.penPort (s : State) (d vc : Nat) (p : Pennant) : Option Nat :=
  match s.portFor d (penRank vc p (s.dirPorts d).length) with
  | some own =>
    let l := s.lead own
    let other := if 2 ≤ vc ∧ vc ≤ 6 then
        (s.dirPorts d).find? fun q => s.pst q == stActive && s.lead q == q && q != l && (s.fport q).holdsFlow p
      else none
    some (match other with | some q => q | none => l)
  | none => none

/-- A pennant goes to a port of a direction. `inj` says that it starts moving in that direction (R402, R404). -/
def State.toPort (s : State) (r : RIn) (d vc : Nat) (inj : Bool) : Option State :=
  match s.penPort d vc r.pn with
  | some p =>
    let input := match r.origin with | some o => o.1 + 1 | none => 0
    let t : TxPen := ⟨r.pn, vc, inj, s.inSlice && !s.inBox r.pn.src.toNat, input, r.arr, r.origin, false, 0⟩
    some (s.modFport p fun f => { f with txq := f.txq ++ [t] })
  | none => none

/-- The direction in which a pennant that turns at the neighbour in `d` leaves there, if it turns (R417). -/
def State.turnAt (s : State) (d dst : Nat) : Option Nat :=
  let b := s.neighbour d
  if coord dst (dirAxis d) = coord b (dirAxis d) then
    match (orderAxes (s.fld ROUTE_DIMS.off ROUTE_DIMS.ORDER)).find? fun a => coord dst a != coord b a with
    | some a => some (s.dirToward a (coord dst a))
    | none => none
  else none

/-- The side-step that a pennant takes under the detour or bypass in force, none when it is unreachable (R416, R417). -/
def State.sideFor (s : State) (d dst : Nat) : Option Nat :=
  let x := s.det d
  if x.byp then
    if dst = s.neighbour d then none
    else match s.turnAt d dst with
      | some u => if x.sides.contains u then some u else none
      | none => x.sides.head?
  else x.sides.head?

/-- A pennant that needs direction `d`, as a port, a detour, a hold or an unreachable destination decide; none while it is held (R418,
R420). -/
def State.leave (s : State) (r : RIn) (d : Nat) (inj : Bool) : Option State :=
  let x := s.det d
  if s.dirUp d && x.st != .tear then s.toPort r d r.pn.vc.toNat inj
  else match x.st with
    | .force =>
      (match s.sideFor d r.pn.dst.toNat with
       | some c =>
         (s.toPort r c 7 true).map fun s1 =>
           s1.modDet d fun x => { x with sent := tset x.sent c (tget 0 x.sent c + 1) }
       | none => some (s.unreachPen r))
    | .failed => some (s.unreachPen r)
    | .idle =>
      let s1 := s.detStart d
      if (s1.det d).st == .idle then none else some { s1 with rq := r :: s1.rq }
    | _ => none

/-- The direction of a pennant, and whether it starts moving in it here (R396, R402). -/
def State.routeDir (s : State) (arr : Option Nat) (dst : Nat) : Nat × Bool :=
  let on (t : Nat) : Bool := coord dst (dirAxis t) != coord s.self (dirAxis t)
  match arr with
  | some t => if on t then (t, false) else ((s.firstDir dst).getD 0, true)
  | none => ((s.firstDir dst).getD 0, true)

/-- A pennant that is not a detoured one is delivered, discarded or sent on (R361, R396, R398). `relayed` marks one that a relay entry has
just released: it is injected. -/
def State.routePlain (s : State) (r : RIn) (arr : Option Nat) (relayed : Bool) : Option State :=
  let dst := r.pn.dst.toNat
  if dst = s.self then some (s.deliver r)
  else if s.noSuchPkg dst then
    (match r.origin with
     | some o => some ((((s.bump (FAB_ERRCNT.off o.1) FAB_ERRCNT.UNCORR 1).routeRecord).dropIn r))
     | none => some (s.unreachPen r))
  else if r.arr.isSome && r.pn.hops.toNat == 255 then some ((s.routeRecord).dropIn r)
  else
    let x := s.routeDir arr dst
    s.leave r x.1 (x.2 || relayed)

/-! Relay entries (R415, R420). -/

def State.relay (s : State) (t : Nat) : Relay := tget ⟨0, 0, none⟩ s.relays t
def State.rly (s : State) (t : Nat) (f : Fld) : Nat := s.fld (ROUTE_RELAY.off t) f
def mTurn : Nat := 0
def mPass : Nat := 1
def mRelease : Nat := 2

/-- A relay entry cleared. -/
def State.clearRelay (s : State) (t : Nat) : State :=
  { s.csrSet (ROUTE_RELAY.off t) 0 with relays := terase s.relays t }

/-- An entry that has handled the pennants that a DTEAR named answers it, or sends it on, and is cleared (R420). -/
def State.relayTear (s : State) (t : Nat) : State :=
  let x := s.relay t
  match x.tear with
  | some n =>
    let owner := BitVec.ofNat 15 (s.rly t ROUTE_RELAY.OWNER)
    let out := s.rly t ROUTE_RELAY.OUT
    if s.rly t ROUTE_RELAY.MODE = mRelease then
      if n ≤ x.released then (s.sendMsg (.dtearAnswer owner out)).clearRelay t else s
    else if n ≤ x.handled then (s.sendMsg (.dtear owner out (n - x.released))).clearRelay t
    else s
  | none => s

/-- A pennant handled by a relay entry. -/
def State.relayed (s : State) (t : Nat) (rel : Bool) : State :=
  let x := s.relay t
  ({ s with relays := tset s.relays t { x with handled := x.handled + 1, released := x.released + b2n rel } }).relayTear t

/-- A detoured pennant goes on on VC7; one whose HOPS would exceed 255 is discarded (R361, R415). -/
def State.toVc7 (s : State) (r : RIn) (d : Nat) : Option State :=
  if r.pn.hops.toNat == 255 then some ((s.routeRecord).dropIn r) else s.toPort r d 7 false

/-- A pennant with DTR arrives travelling `t` (R415). -/
def State.routeDtr (s : State) (r : RIn) (t : Nat) : Option State :=
  if s.rly t ROUTE_RELAY.VALID = 1 then
    let out := s.rly t ROUTE_RELAY.OUT
    let mode := s.rly t ROUTE_RELAY.MODE
    let here := coord r.pn.dst.toNat (dirAxis out) == coord s.self (dirAxis out)
    if mode = mRelease ∨ (mode = mPass ∧ here = true) then
      let pn : Pennant := { r.pn with dtr := false }
      (s.routePlain { r with pn := pn } (if mode = mRelease then some out else none) true).map fun s1 => s1.relayed t true
    else (s.toVc7 r out).map fun s1 => s1.relayed t false
  else s.toVc7 r t

/-- A pennant as the routing plane takes it: one in a shared slot of a long-haul port is read from that port's receive queue, with the record of
poisoned bytes (R241, R375). -/
def State.fetchIn (s : State) (r : RIn) : RIn × State :=
  match r.origin with
  | some (p, id) =>
    (match (s.fport p).rx.find? fun x => x.id == id && x.pool with
     | some x =>
       if s.fsts p FAB_STS.LH_ACT = 1 then
         let a := s.slotAddr p x.place
         ({ r with pn := s.penAt a }, if s.poisoned a 80 then s.poisonRecord a none else s)
       else (r, s)
     | none => (r, s))
  | none => (r, s)

/-- One pennant at the routing plane, none while it must be held. -/
def State.routeOne (s0 : State) (r0 : RIn) : Option State :=
  let x := s0.fetchIn r0
  let r := x.1
  let s := x.2
  match r.pn.dtr, r.arr with
  | true, some t => s.routeDtr r t
  | _, _ => s.routePlain r r.arr false

/-- The first pennant of the plane that can move, moved. -/
def State.routeFirst (s : State) : List RIn → List RIn → Option State
  | _, [] => none
  | pre, r :: rest =>
    match { s with rq := pre ++ rest }.routeOne r with
    | some s1 => some s1
    | none => s.routeFirst (pre ++ [r]) rest

/-! Requests (R400, R405, R408). -/

/-- Channel of a request (R400). -/
def Req.vc (r : Req) : Nat := if r.odd then 4 else 3
/-- Pennants of a request. -/
def Req.pens (r : Req) : Nat := match r.kind with | .write => (r.len + 63) / 64 | _ => 1

/-- Request pennants of a flow without a response (R405). -/
def State.outPens (s : State) (dst : PkgId) (vc : Nat) : Nat :=
  s.oreqs.foldl (fun n x => if x.req.dst == dst && x.vc == vc then n + x.req.pens else n) 0

/-- The answer to a request reaches who waits for it: whether the access was performed, the bytes read, poison (R409). A failed stream
names the global address of the request. -/
def State.reqDone (s : State) (r : Req) (ok : Bool) (bytes : List Byte) (poison : Bool) : State :=
  match r.ref with
  | .flight k fid =>
    s.modFlight k fid fun f => { f with st := .answered, res := BitVec.ofNat 64 (leNat (bytes.take 8)), poison := poison, refused := !ok }
  | .stream id ord _ => s.strmAck id ord ok (put r.dst.toNat 48 + r.addr)
  | .none => s

/-- A request becomes pennants (R408). The return address of a scalar load is a free value (log 1, DESIGN CHOICE). -/
def State.packetise (s : State) (r : Req) : State :=
  let vc := r.vc
  let log (s : State) (q ret : Nat) : State :=
    { s with oreqs := s.oreqs ++ [⟨r, BitVec.ofNat 16 q, vc, s.time, ret, 0⟩],
             late := s.late.filter fun x => x != (r.dst, vc, BitVec.ofNat 16 q) }
  match r.kind with
  | .write =>
    let n := r.pens
    let x := (List.range n).foldl (fun (x : State × Nat) i =>
      let bs := (r.data.drop (64 * i)).take 64
      x.1.sendPen tWRITE vc r.dst.toNat r.ctx (r.addr + 64 * i) bs (bs.length - 1) (i + 1 == n) (r.bad.contains i) 0) (s, 0)
    log x.1 x.2 0
  | .read =>
    let y : Nat × State := match r.ref with
      | .stream _ _ dst => (bits dst 0 48, s)
      | _ => let d := s.draw; (d.1.fld 0 48, d.2)
    let x := y.2.sendPen tREAD vc r.dst.toNat r.ctx r.addr (leBytes 8 r.len ++ leBytes 6 y.1) 13 true false 0
    log x.1 x.2 y.1
  | .atomic op =>
    let x := s.sendPen tATOMIC vc r.dst.toNat r.ctx r.addr (leBytes 8 op ++ (r.data ++ zeroBytes 16).take 16) 23 true false 0
    log x.1 x.2 0

/-- The first request that can leave, taken out of those before and after it: its destination cannot be reached, or its flow has room within 16,384
pennants and no earlier request of the same flow waits (R405, R407). -/
def State.firstReq (s : State) : List Req → List Req → Option (Req × List Req)
  | _, [] => none
  | pre, r :: rest =>
    let behind := pre.any fun x => x.dst == r.dst && x.vc == r.vc
    if !behind && (s.unreachable r.dst.toNat || decide (s.outPens r.dst r.vc + r.pens ≤ 16384)) then some (r, pre ++ rest)
    else s.firstReq (pre ++ [r]) rest

/-- The next request of this package is answered at once when its destination cannot be reached, else sent; one whose flow has 16,384
pennants outstanding waits (R398, R405, R418). -/
def State.nextReq (s : State) : State :=
  match s.firstReq [] s.newReqs with
  | some (r, rest) =>
    let s1 := { s with newReqs := rest }
    if s.unreachable r.dst.toNat then (s1.reqDone r false [] false).unreachUp else s1.packetise r
  | none => s

/-- The routing plane moves the first pennant that can move; with none, the next request of this package enters it. -/
def execRoutePennant (s : State) : Out :=
  .next (match s.routeFirst [] s.rq with
    | some s1 => s1
    | none => s.nextReq)

/-! Requests of other packages (R408 to R410, R510). -/

/-- A request address lies in a share with FAB = 1, and the source in the slice (R510). -/
def State.fabShare (s : State) (src a len : Nat) : Bool :=
  (!s.inSlice || s.inBox src) &&
    (List.range 2).any fun p => (List.range 32).any fun f => s.bit (PKG_SHARE.off p f) PKG_SHARE.FAB && s.inShare p f a len

/-- A range lies inside a buddy window whole. -/
def State.inBuddy (s : State) (i a len : Nat) : Bool :=
  let o := PKG_BUDDY.off i
  decide (s.fld o PKG_BUDDY.BASE * gib ≤ a) && decide (a + len ≤ (s.fld o PKG_BUDDY.BASE + s.fld o PKG_BUDDY.SIZE) * gib)

/-- A request of another package is permitted; every buddy window that its bytes touch must permit it (R35, R269, R272, R281, R377, R422, R510;
log 72, DESIGN CHOICE). -/
def State.remoteOk (s : State) (src a len : Nat) (wr : Bool) : Bool :=
  s.bit PKG_MOD_ID.off PKG_MOD_ID.READY_PIN && oneRange a len && !s.nearGone a && !(wr && s.pinForbids none false a len) && !s.inStaging a len &&
    !s.inLongHaul a len &&
    (let ws := s.buddiesAt a len
     if ws.isEmpty then s.fabShare src a len
     else (ws.all fun i => src == s.fld (PKG_BUDDY.off i) PKG_BUDDY.SRC_ID) && ((ws.any fun i => s.inBuddy i a len) || s.fabShare src a len))

/-- A WRITE is performed or refused; with LAST its message's acknowledgement is due (R408). -/
def State.writeIn (s : State) (p : Pennant) : State :=
  let k := flowKey p.src.toNat p.vc.toNat
  let n := p.len.toNat + 1
  let ok := s.remoteOk p.src.toNat p.addr.toNat n true
  let s1 := if ok then s.writeMem p.addr.toNat (Pennant.bytes p n) p.poison else { s with wbad := tset s.wbad k 1 }
  if p.last then
    { s1 with wacks := s1.wacks ++ [⟨p.src, p.vc.toNat, p.eseq, p.ctx, tget 0 s1.wbad k == 0⟩], wbad := terase s1.wbad k }
  else s1

def execWriteReceive (pn : Pennant) (s : State) : Out := .next (s.takeSeq pn fun s => s.writeIn pn)

/-- The RDATA pennants of a READ: 64 bytes each in address order (R408); poison goes with the data (R241). -/
def State.readOut (s : State) (p : Pennant) (a n ret : Nat) : State :=
  let k := (n + 63) / 64
  let s1 := if s.poisoned a n then s.poisonRecord a none else s
  { s1 with resps := s1.resps ++ (List.range k).map fun i =>
      let m := min 64 (n - 64 * i)
      respPen s.self tRDATA p (ret + 64 * i) (s.readBytes (a + 64 * i) m) (m - 1) (i + 1 == k) (s.poisoned (a + 64 * i) m) }

/-- A READ is performed or refused; a length of none or of more than 4,096 bytes, or one that crosses 4 KiB, is refused (log 19, DESIGN CHOICE). -/
def State.readIn (s : State) (p : Pennant) : State :=
  let n := leNat ((Pennant.held p).take 4)
  let a := p.addr.toNat
  if n != 0 && decide (n ≤ 4096) && decide (a % 4096 + n ≤ 4096) && s.remoteOk p.src.toNat a n false then
    s.readOut p a n (leNat (((Pennant.held p).drop 8).take 6))
  else s.refuse p
def execReadReceive (pn : Pennant) (s : State) : Out := .next (s.takeSeq pn fun s => s.readIn pn)

/-- An ATOMIC goes to the unit of its word, or is refused (R97, R408); an operation code above 2 or an unaligned word is refused
(log 19, DESIGN CHOICE). -/
def State.atomicIn (s : State) (p : Pennant) : State :=
  let a := p.addr.toNat
  let bs := Pennant.held p
  let op := leNat (bs.take 1)
  match s.atomUnit a with
  | some u =>
    if decide (op ≤ 2) && a % 8 == 0 && s.remoteOk p.src.toNat a 8 (op != 2) then
      { s with serving := s.serving ++ [⟨s.nextServe, p.src, p.ctx, u, a, op, BitVec.ofNat 64 (leNat ((bs.drop 8).take 8)),
                 BitVec.ofNat 64 (leNat ((bs.drop 16).take 8)), p.eseq, p.vc, true⟩],
               nextServe := s.nextServe + 1 }
    else s.refuse p
  | none => s.refuse p
def execAtomicReceive (pn : Pennant) (s : State) : Out := .next (s.takeSeq pn fun s => s.atomicIn pn)

/-- A response leaves: it enters the plane with its own sequence number (R401, R405). -/
def State.sendResp (s : State) (p : Pennant) : State :=
  (s.sendPen p.typ.toNat p.vc.toNat p.dst.toNat ⟨p.ctx.toNat, p.ctx.isLt⟩ p.addr.toNat (Pennant.bytes p 64) p.len.toNat p.last p.poison 0).1

/-- The first response that is due leaves: of those held, else the result of an atomic operation (R401, R408). -/
def execResponseSend (s : State) : Out :=
  .next (match s.resps, s.atomAns with
    | p :: rest, _ => { s with resps := rest }.sendResp p
    | [], (id, v, poison) :: rest =>
      let s1 := { s with atomAns := rest, serving := s.serving.filter fun q => q.id != id }
      (match s.serving.find? fun q => q.id == id with
       | some q =>
         (s1.sendPen tARESP (q.vc.toNat + 2) q.src.toNat ⟨q.ctx.toNat, q.ctx.isLt⟩ q.eseq.toNat (leBytes 8 v.toNat) 7 true poison 0).1
       | none => s1)
    | [], [] => s)

/-- A write acknowledgement leaves (R408, R409). -/
def execWackSend (i : Nat) (s : State) : Out :=
  .next (match s.wacks[i]? with
    | some w =>
      ({ s with wacks := s.wacks.eraseIdx i }.sendPen tWACK (w.vc + 2) w.src.toNat ⟨w.ctx.toNat, w.ctx.isLt⟩
        (w.eseq.toNat + put (if w.ok then 0 else 4) 16) [] 0 true false 0).1
    | none => s)

/-! Responses at the requester (R409, R411, R521). -/

/-- Status of an answer. -/
def penStatus (p : Pennant) : Nat := bits p.addr.toNat 16 8

/-- A package lies on the way from here to a destination under the dimension order: past the first axis on which it has not yet the destination's
coordinate, it still has this package's (R396). -/
def State.onWay (s : State) (p dst : Nat) : Bool :=
  let rest := (orderAxes (s.fld ROUTE_DIMS.off ROUTE_DIMS.ORDER)).dropWhile fun a => coord p a == coord dst a
  (rest.drop 1).all fun a => coord p a == coord s.self a

/-- The name of a response among those that are late: its source, the channel of its request and the ESEQ that it answers (R411). -/
def lateKey (p : Pennant) : PkgId × Nat × BitVec 16 := (p.src, p.vc.toNat - 2, BitVec.ofNat 16 (bits p.addr.toNat 0 16))

/-- The request of a kind that a response with an ESEQ answers: one for the source of the response; else, when the response is a refusal that is
not late, one of the same channel for a destination that the source lies on the way to, since the answer for an unreachable destination names
the package that makes it (R409, R411, R418; log 44, DEDUCED). -/
def State.matchReq (s : State) (p : Pennant) (kind : Req → Bool) : Option OReq :=
  let e := BitVec.ofNat 16 (bits p.addr.toNat 0 16)
  let ok (x : OReq) : Bool := kind x.req && x.eseq == e && x.vc + 2 == p.vc.toNat
  match s.oreqs.find? fun x => ok x && x.req.dst == p.src with
  | some x => some x
  | none =>
    if penStatus p == 0 || s.late.contains (lateKey p) then none
    else s.oreqs.find? fun x => ok x && s.onWay p.src.toNat x.req.dst.toNat

/-- A response that answers no request is discarded; one that came late is so only once (R411). -/
def State.dropLate (s : State) (p : Pennant) : State := { s with late := s.late.erase (lateKey p) }
def isWr (r : Req) : Bool := r.kind == .write
def isRd (r : Req) : Bool := r.kind == .read
def isAt (r : Req) : Bool := match r.kind with | .atomic _ => true | _ => false

def State.dropReq (s : State) (x : OReq) : State := { s with oreqs := s.oreqs.erase x }
/-- Read data goes to the address that its READ named (R408, R409). -/
def State.rdataIn (s : State) (p : Pennant) : State :=
  let n := p.len.toNat + 1
  match s.oreqs.find? fun x => isRd x.req && x.req.dst == p.src && x.vc + 2 == p.vc.toNat && (x.ret + x.got) % 2 ^ 48 == p.addr.toNat with
  | some x =>
    let y : OReq := { x with got := x.got + n }
    let s1 := if p.last then s.dropReq x else { s with oreqs := updWhere (· == x) (fun _ => y) s.oreqs }
    (match x.req.ref with
     | .stream id ord dst =>
       s1.strmData id ord (put x.req.dst.toNat 48 + x.req.addr + x.got) (BitVec.ofNat 64 (dst + x.got)) (Pennant.bytes p n) p.poison p.last
     | _ => if p.last then s1.reqDone x.req true (Pennant.bytes p n) p.poison else s1)
  | none => s
def execRdataReceive (pn : Pennant) (s : State) : Out := .next (s.takeSeq pn fun s => s.rdataIn pn)

/-- An answer with a status completes its request. -/
def State.answerIn (s : State) (p : Pennant) (kind : Req → Bool) : State :=
  match s.matchReq p kind with
  | some x => (s.dropReq x).reqDone x.req (penStatus p == 0) ((Pennant.held p).take 8) p.poison
  | none => s.dropLate p
def execArespReceive (pn : Pennant) (s : State) : Out := .next (s.takeSeq pn fun s => s.answerIn pn isAt)
def execWackReceive (pn : Pennant) (s : State) : Out := .next (s.takeSeq pn fun s => s.answerIn pn isWr)
def execRnakReceive (pn : Pennant) (s : State) : Out :=
  .next (s.takeSeq pn fun s => match s.matchReq pn isRd with | some x => (s.dropReq x).reqDone x.req false [] false | none => s.dropLate pn)

/-- A request without a response for TMO ms counts as answered with status 0x04; its response is discarded when it comes (R410, R411). -/
def execResponseTimeout (i : Nat) (s : State) : Out :=
  .next (match s.oreqs[i]? with
    | some x =>
      if x.sent + max 1 (s.fld ROUTE_CTL.off ROUTE_CTL.TMO) * 1000000 ≤ s.time then
        let s1 := { s.dropReq x with late := s.late ++ [(x.req.dst, x.vc, x.eseq)] }
        s1.reqDone x.req false [] false
      else s
    | none => s)

/-! Detours (R416 to R420). -/

/-- A DSETUP that arrived travelling `t`: the entry is installed and the request sent on, or answered at its end; without an ACTIVE port
for the next hop, or with an entry of another OWNER, the answer is DNAK (R416, R417, R421). -/
def State.dsetup (s : State) (t : Fin 6) (m : DetourMsg) : State :=
  let o := ROUTE_RELAY.off t.val
  let d : Nat := if m.path.length = 1 then t.val else m.out.val
  let taken := s.bit o ROUTE_RELAY.VALID && s.fld o ROUTE_RELAY.OWNER != m.owner.toNat
  let w := BitVec.ofNat 64 (put 1 63 + put m.mode.val 61 + put m.out.val 58 + m.owner.toNat)
  let s1 := { s.csrSet o w with relays := tset s.relays t.val ⟨0, 0, none⟩ }
  match m.path with
  | [] => if taken then s.sendMsg (.dnak m.owner d false) else s1.sendMsg (.dack m.owner d)
  | h :: rest =>
    if taken || !s.dirUp h.val then s.sendMsg (.dnak m.owner d (decide (rest.length = 0) && !s.dirUp h.val))
    else
      let x : Fin 3 × Fin 6 := match rest with
        | [] => (2, t)
        | u :: _ => (if u = h then 1 else 0, u)
      s1.sendMsg (.dsetup h.val ⟨m.owner, x.1, x.2, rest⟩)
def execDsetupReceive (t : Fin 6) (m : DetourMsg) (s : State) : Out := .next (s.dsetup t m)

/-- DACK: the detour or bypass is in force; a bypass goes on with the other candidates (R416, R417, R423). -/
def State.dack (s : State) (d : Nat) : State :=
  let x := s.det d
  match x.cur with
  | some c =>
    let o := ROUTE_DET.off d
    let first := x.sides.isEmpty
    let s1 := s.modDet d fun x => { x with st := .force, sides := x.sides ++ [c], cur := none, todo := if x.byp then x.todo else [] }
    let s2 := (if first then ((s1.setFld o ROUTE_DET.INF 1).setFld o ROUTE_DET.SIDE c).setFld o ROUTE_DET.BYP (b2n x.byp) else s1).bump
      ROUTE_STS.off ROUTE_STS.DETOURS 1
    if x.byp then s2.detNext d else s2
  | none => s
def execDackReceive (d : Fin 6) (s : State) : Out := .next (s.dack d.val)

/-- DNAK: the entries already installed are cleared; the next candidate, or a bypass when B cannot be reached (R416, R417). -/
def State.dnak (s : State) (d : Nat) (noPortToB : Bool) : State :=
  let x := s.det d
  match x.cur with
  | some c =>
    let s1 := s.sendMsg (.dtear (BitVec.ofNat 15 s.self) c 0)
    if noPortToB && !x.byp then
      (s1.modDet d fun x => { x with byp := true, cur := none, todo := s1.cands d }).detNext d
    else s1.detNext d
  | none => s
def execDnakReceive (d : Fin 6) (noPortToB : Bool) (s : State) : Out := .next (s.dnak d.val noPortToB)

/-- DTEAR: once the entry has handled the named pennants it is cleared, and the request is sent on or answered (R420). -/
def State.dtear (s : State) (owner : PkgId) (t count : Nat) : State :=
  let o := ROUTE_RELAY.off t
  if s.bit o ROUTE_RELAY.VALID && s.fld o ROUTE_RELAY.OWNER == owner.toNat then
    ({ s with relays := tset s.relays t { s.relay t with tear := some count } }).relayTear t
  else s
def execDtearReceive (owner : PkgId) (t : Fin 6) (count : Nat) (s : State) : Out := .next (s.dtear owner t.val count)

/-- The release package has answered DTEAR: with the last answer the detour is over (R420). -/
def State.dtearDone (s : State) (d : Nat) : State :=
  let x := s.det d
  let o := ROUTE_DET.off d
  if x.st != .tear then s
  else if 1 < x.left then s.modDet d fun x => { x with left := x.left - 1 }
  else ((((s.modDet d fun _ => Detour.idle).setFld o ROUTE_DET.INF 0).setFld o ROUTE_DET.SIDE 0).setFld o ROUTE_DET.BYP 0).detStart d
def execDtearAnswerReceive (d : Fin 6) (s : State) : Out := .next (s.dtearDone d.val)

end Sys2Proof.Machine
end

