-- ==== Sys2Proof/Machine/Reset.lean ====
section
/-! DEFINITION. Hangs, the hatch, function resets, package, fabric-domain and cold resets, and what peers are told
(14_contexts_hangs_reset.md R512 to R532, 16_die_links_and_test_access.md R578). -/

namespace Sys2Proof.Machine

/-! Branch groups as launched (R108, R111, R502). -/

/-- The core keys of a group's clusters, by ascending bit position and then logical core (R111). -/
def maskCores (mask : Nat) : List Nat :=
  ((List.range 48).filter fun i => bits mask i 1 == 1).flatMap fun i => clusterCores (i / 12) (i % 12)

/-- The compute cores of a context in launch order (R502). -/
def State.launchCores (s : State) (n : Nat) : List Nat := (s.ctx n).groups.flatMap maskCores

/-- The clusters of a context in ascending bit order over its groups (R502). -/
def State.launchClusters (s : State) (n : Nat) : List Nat :=
  (s.ctx n).groups.flatMap fun m => (List.range 48).filter fun i => bits m i 1 == 1

/-- The place of a number in a list. -/
def placeOf (l : List Nat) (x : Nat) : Nat := (l.takeWhile (· != x)).length

/-! CTX_ fields at a hatch and a function reset (R13). -/

/-- The offsets of a register family within one instance of its outermost suffix. -/
def innerOffs : List (Nat × Nat) → List Nat
  | [] => [0]
  | (c, st) :: rest => (List.range c).flatMap fun i => (innerOffs rest).map fun o => i * st + o

/-- Every field of the CTX_ block of a context that `pick` gives a value takes it. -/
def State.ctxFields (s : State) (n : Nat) (pick : FldDesc → Option Nat) : State :=
  (regTable.filter fun d => decide (0x20000 ≤ d.base) && decide (d.base < 0x21000)).foldl (fun s d =>
    (innerOffs (d.dims.drop 1)).foldl (fun s o =>
      d.fields.foldl (fun s f =>
        match pick f with
        | some v => s.setFld (d.base + n * 0x1000 + o) ⟨f.lo, f.len⟩ v
        | none => s) s) s) s

/-! CTX_DOWN (R524, R525). -/

/-- The payload of a CTX_DOWN (R524). -/
def downBytes (ctx reason gkey rank self time : Nat) : List Byte :=
  leBytes 1 ctx ++ leBytes 1 reason ++ leBytes 2 gkey ++ leBytes 2 rank ++ leBytes 2 self ++ leBytes 8 time ++ zeroBytes 48

/-- A list without repeats, first occurrences kept. -/
def distinct (l : List Nat) : List Nat := (l.foldl (fun acc x => if acc.contains x then acc else x :: acc) []).reverse

/-- One CTX_DOWN pennant to a package. -/
def State.sendDown (s : State) (ctx : CtxId) (dst : Nat) (bytes : List Byte) : State :=
  (s.sendPen tMGMT 0 dst ctx (put 1 40) bytes 63 true false 0).1

/-- The packages that a context's halyards with EN = 1 name (R525). -/
def State.halPeers (s : State) (n : Nat) : List Nat :=
  distinct (((List.range 16).filter fun h => s.hcfg n h CTX_HAL_CFG.EN == 1).map fun h => s.hcfg n h CTX_HAL_CFG.PEER)

/-- The notices of a removed context: one to each halyard peer, one for each group with other members to relative ranks 1 and 2 (R525). -/
def State.ctxDown (s : State) (ctx : CtxId) (reason time : Nat) : State :=
  let n := ctx.val
  let s1 := (s.halPeers n).foldl (fun s p => s.sendDown ctx p (downBytes n reason 0 0 s.self time)) s
  ((List.range 16).filter fun g => s.gValid n g && decide (1 < gSize (s.gAxes n g))).foldl (fun s g =>
    let l := s.gAxes n g
    let me := s.gRankOf l s.self
    ([1, 2].filter fun d => decide (d < gSize l)).foldl (fun s d =>
      s.sendDown ctx (s.gPkg l ((me + d) % gSize l)) (downBytes n reason (s.gKey n g) me s.self time)) s) s1

/-- A CTX_DOWN arrives (R454, R525, R526). The first copy acts and is relayed unchanged. -/
def State.downIn (s : State) (pn : Pennant) : State :=
  let b := Pennant.held pn
  let at' (i k : Nat) : Nat := leNat ((b.drop i).take k)
  if pn.typ.toNat = tMGMT ∧ bits pn.addr.toNat 40 8 = 1 then
    let s0 := s.takeIn pn
    let ctx := at' 0 1 % 64
    let gkey := at' 2 2
    let origin := at' 6 2 % 32768
    let id : DownId := ⟨gkey, origin, ctx, at' 8 8⟩
    if s0.seenDown.contains id then s0
    else
      let s1 := { s0 with seenDown := s0.seenDown ++ [id] }
      let s2 : State := match (if gkey = 0 then none else s1.gByKey gkey) with
        | some (n, g) =>
          let l := s1.gAxes n.val g
          let ng := gSize l
          let d := (s1.gRankOf l s1.self + ng - at' 4 2 % ng) % ng
          let s2 := ([2 * d + 1, 2 * d + 2].filter fun x => decide (x < ng)).foldl (fun (s : State) x =>
            s.sendDown (Fin.ofNat 64 ctx) (s.gPkg l ((at' 4 2 + x) % ng)) b) s1
          s2.keyDown gkey
        | none => s1
      s2.halPeerDown (BitVec.ofNat 15 origin) ctx
  else s

def execCtxDownReceive (pn : Pennant) (s : State) : Out := .next (s.downIn pn)

/-! Hangs (R512 to R516). That the span without progress has passed is the sender's word (log 20, DEDUCED). -/

/-- A running context with EN = 1 that makes no progress is hatched with reason HANG (R513). -/
def execContextHang (ctx : CtxId) (s : State) : Out :=
  .next (if (s.ctx ctx.val).st == .running && s.bit (CTX_HANG.off ctx.val) CTX_HANG.EN && !s.hatching ctx.val then
      s.startHatch ctx.val 4 unitPkg none none false false
    else s)

/-- An engine runs an instruction. -/
def Core.engineBusy (c : Core) : Engine → Bool
  | .mx => c.mx.run.isSome || !c.mx.loads.isEmpty
  | .vx => c.vx.run.isSome
  | .ls => c.lrun.isSome

def engNo : Engine → Nat
  | .mx => engMx
  | .vx => engVx
  | .ls => engLs

/-- An instruction that has run for 10 ms (R514): a record, and the hatch with reason ENGINE. -/
def State.engineHang (s : State) (key : Nat) (e : Engine) : State :=
  let c := s.core key
  if c.engineBusy e && !s.hatching c.ctx.val then
    let u := s.unitOf key (engNo e)
    let (s1, i) := s.openRecord (mkDet 0x0A u (some c.ctx) 2 1 1 0 0 0 0) false
    (s1.handle i 1 0x05).startHatch c.ctx.val 5 u none none false false
  else s

def execEngineHang (c : CoreId) (e : Engine) (s : State) : Out := .next (s.engineHang (coreKey c) e)

/-- A shared unit without progress for 100 ms (R515): a record with the context of its oldest work, and the hatch with reason UNIT. -/
def execUnitHang (unit : UnitCode) (ctx : CtxId) (s : State) : Out :=
  let (s1, i) := s.openRecord (mkDet 0x12 unit (some ctx) 2 1 0 0 0 0 0) false
  let s2 := s1.handle i 1 0x05
  .next (if ctx.val == 0 then s2 else s2.startHatch ctx.val 6 unit none none false false)

/-! The hatch sequence (R518 to R520). -/

/-- The word of a queue entry as fetched (R118). -/
def QEntry.word (q : QEntry) : Word := BitVec.ofNat 64 (put q.cls 60 + put q.op 52 + q.body.toNat)

/-- The 4 KiB header of a core's sample (R519). -/
def State.sampleHead (s : State) (key idx time : Nat) (named : Bool) : List Byte :=
  let c := s.core key
  let head (q : List QEntry) : List Byte := leBytes 8 (match q with | e :: _ => e.word.toNat | [] => 0)
  leBytes 8 (s.unitOf key engSeq).toNat ++ leBytes 8 c.pc.toNat ++ leBytes 8 time ++ leBytes 2 idx ++ leBytes 1 (b2n named) ++ zeroBytes 5 ++
    leBytes 2 (c.p ||| 1).toNat ++ zeroBytes 30 ++ ((List.range 64).flatMap fun i => leBytes 8 (c.reg i).toNat) ++
    ((List.range 256).flatMap fun e => leBytes 2 (c.event e)) ++ head c.mq ++ head c.vq ++ head c.lq ++ zeroBytes 2984

/-- The compute core that a unit code names, among the cores of a context. -/
def State.namedCore (s : State) (l : List Nat) (u : UnitCode) : Option Nat :=
  l.find? fun key => decide ((s.unitOf key engSeq).toNat / 2 ^ 20 = u.toNat / 2 ^ 20)

/-- The cores that a sample holds (R519). (log 45, DEDUCED) -/
def State.sampled (s : State) (n : Nat) (u : UnitCode) : List Nat :=
  let l := s.launchCores n
  let k := s.fld (CTX_SAMPLE.off n) CTX_SAMPLE.NCORE + 1
  match s.namedCore l u with
  | some c => (c :: l.filter (· != c)).take k
  | none => l.take k

/-- The sample area lies whole in the context's share of HBM or the near tier (R519), and outside the ranges that refuse it the access (R281,
R509). -/
def State.sampleOk (s : State) (n a len : Nat) : Bool :=
  (((s.shareFns n).take 1).any fun x => s.inShare x.1 x.2 a len) && s.limitsOk n a len true

/-- The sample is written when EN = 1, the context has a core, and the area lies in its share. Whether one was written is the second
result. (log 45, DEDUCED) -/
def State.takeSample (s : State) (n : Nat) (h : Hatch) : State × Bool :=
  let o := CTX_SAMPLE.off n
  let a := s.fld o CTX_SAMPLE.ADDR * 4096
  let slot := 0x11000
  let k := s.fld o CTX_SAMPLE.NCORE + 1
  let l := s.sampled n h.unit
  if s.bit o CTX_SAMPLE.EN && !l.isEmpty && s.sampleOk n a (k * slot) then
    let named := s.namedCore (s.launchCores n) h.unit
    let off := s.fld o CTX_SAMPLE.OFF * 4096
    let want := s.fld o CTX_SAMPLE.WIN * 4096
    let len := min want (0x200000 - off)
    let one (s : State) (i key : Nat) : State :=
      let fill := if len < want then zeroBytes (slot - 4096 - len) else []
      let b := a + i * slot
      let s1 := s.writeMem b (s.sampleHead key (placeOf (s.launchCores n) key) h.start (named == some key)) false
      (s1.copyMem (scratchOf key + off) (b + 4096) len).writeMem (b + 4096 + len) fill false
    ((l.foldl (fun x key => (one x.1 x.2 key, x.2 + 1)) (s, 0)).1, true)
  else (s, false)

/-- A register set after the hatch: empty; flight numbers, dispatch order and the ballast state run on (R186), and the instruction cache
stays (R126). -/
def Core.cleared (c : Core) : Core :=
  { Core.reset with nextFid := c.nextFid, seq := c.seq, icache := c.icache,
                    mx := { MxSt.reset with level := c.mx.level, cntW := c.mx.cntW, cntI := c.mx.cntI } }

/-- The bytes of a range of SRAM become zero, with valid ECC. -/
def State.zeroSram (s : State) (lo n : Nat) : State :=
  { s with mem := ⟨s.mem.cells.filter fun x => !(decide (lo ≤ x.1) && decide (x.1 < lo + n)),
                   s.mem.poison.filter fun k => !(decide (lo ≤ k) && decide (k < lo + n))⟩ }

/-- The transoms, scratchpads and cluster memory of a cluster become zero (R511, R520). -/
def State.zeroCluster (s : State) (i : Nat) : State :=
  (clusterCores (i / 12) (i % 12)).foldl (fun s key =>
    (s.modCore key fun c => { c with tiles := [] }).zeroSram (scratchOf key) 0x200000)
    (s.zeroSram (clusterMem (i / 12) (i % 12)) 0x800000)

/-- The clusters that a context holds. -/
def State.heldBy (s : State) (n : Nat) : List Nat := (List.range 48).filter fun i => s.holds n (i / 12) (i % 12)

/-- Every stream of a context is cancelled (R262, R520). -/
def State.cancelStreams (s : State) (n : Nat) : State :=
  (s.strms.entries.filter fun x => x.2.ctx.val == n && x.2.inUse).foldl (fun s x =>
    match s.strm? x.1 with
    | some y =>
      if y.st == .queued then s.strmEnd x.1 y .cancelled
      else if y.st == .active then s.setStrm x.1 { y with cancel := true }
      else s
    | none => s) s

/-- Control cores that run a context go back to firmware; the spec names no reason for a hatch, so that the word is free (R150). (log 33, DEDUCED) -/
def State.hatchCtl (s : State) (n : Nat) : State :=
  allCtl.foldl (fun s k =>
    if (s.core k).ctx.val = n then let (w, s1) := s.draw; s1.ccBack k false w else s) s

/-- What the atomic units, the fabric and the event paths still hold for the cores of a context goes. -/
def State.dropFlights (s : State) (n : Nat) : State :=
  let mine (key fid : Nat) : Bool := if isCtl key then fidCtx fid == n else (s.core key).ctx.val == n
  let refMine (r : AtomRef) : Bool := match r with | .core key fid => mine key fid | .remote _ => false
  let reqMine (r : Req) : Bool := match r.ref with | .flight _ _ => r.ctx.val == n | _ => false
  { s with parked := s.parked.map fun x => (x.1, x.2.filter fun p => !refMine p.ref),
           newReqs := s.newReqs.filter fun r => !reqMine r, incs := s.incs.filter fun i => i.ctx.val != n }

/-- The register sets of a context are emptied, on compute cores and control cores. -/
def State.clearCores (s : State) (n : Nat) : State :=
  let core (x : Nat × Core) : Nat × Core := if x.2.ctx.val == n && !isCtl x.1 then (x.1, x.2.cleared) else x
  let set' (x : Nat × Core) : Nat × Core := if x.1 % 64 == n then (x.1, { x.2.cleared with ctx := x.2.ctx }) else x
  { s with cores := s.cores.map core, ccRegs := s.ccRegs.map set',
           progs := updWhere (fun p => p.ctx.val == n) (fun p => { p with stop := true }) s.progs }

/-- The collectives, votes and offers of a context end at this package (R520). -/
def State.clearColls (s : State) (n : Nat) : State :=
  let s1 := s.endColls (fun c => c.ctx.val == n) .aborted 0
  { s1 with colls := s1.colls.filter fun c => c.ctx.val != n, votes := s1.votes.filter fun v => v.ctx.val != n,
            tokens := s1.tokens.filter fun t => t.1.val != n, offers := s1.offers.filter fun o => o.chunk.ctx.val != n }

/-- A hatch or reset of the context timed clears OPEN and MARKS (R645). -/
def State.clearPhases (s : State) (n : Nat) : State :=
  (List.range 32).foldl (fun s i =>
    if s.fld (PHT_CFG.off i) PHT_CFG.CTX = n then (s.setFld (PHT_STS.off i) PHT_STS.OPEN 0).setFld (PHT_STS.off i) PHT_STS.MARKS 0 else s) s

/-- The clusters of a context zeroed and released (R520). -/
def State.releaseClusters (s : State) (n : Nat) (zero : Bool) : State :=
  (s.heldBy n).foldl (fun s i => (if zero then s.zeroCluster i else s).modCluster i fun c => { c with holder := none, group := 0 }) s

/-- The hatch's record of itself (R522). -/
def State.hatchRegs (s : State) (n : Nat) (h : Hatch) (sampled : Bool) : State :=
  let o := CTX_HATCH.off n
  let s1 := (s.setFld o CTX_HATCH.REASON h.reason).setFld o CTX_HATCH.SAMPLED (b2n sampled)
  ((s1.bump o CTX_HATCH.COUNT 1).setFld o CTX_HATCH.UNIT h.unit.toNat).csrSet (CTX_HATCH_TIME.off n) (BitVec.ofNat 64 h.start)

/-- A SUSPEND in progress ends with RESET (R523). -/
def State.endSuspend (s : State) (n : Nat) : State :=
  match (s.ctx n).suspend with
  | some (c, _) => (s.endCmd c 0x0A 0).modCtx n fun c => { c with suspend := none }
  | none => s

/-- The hatch acts on a context (R520): sample, control cores, flights, streams, collectives, steps, notices, halyards, holds, register
sets, memories, CTX_ fields. -/
def State.hatchAct (s : State) (n : CtxId) (h : Hatch) : State :=
  let (s1, smp) := s.takeSample n.val h
  let s2 := ((((s1.hatchCtl n.val).dropFlights n.val).clearCores n.val).cancelStreams n.val).clearColls n.val
  let s3 := ((s2.abortSteps n).ctxDown n h.reason h.start).endSuspend n.val
  let s4 := ((s3.closeHals n.val).dropHolds n false).releaseClusters n.val true
  let s5 := ((s4.ctxFields n.val fun f => f.hatch).clearPhases n.val).hatchRegs n.val h smp
  let g (c : Ctx) : Ctx := { c with hatch := some { h with acted := true }, saveAt := none, saved := [], keptMem := [], keptBad := [], kept := [] }
  s5.modCtx n.val g

/-- A hatch of a lower context that started in the same cycle has not acted: its CTX_DOWN leaves first (R523). -/
def State.hatchAhead (s : State) (n : Nat) (h : Hatch) : Bool :=
  (List.range n).any fun i => match (s.ctx i).hatch with
    | some g => !g.acted && g.start == h.start
    | none => false

def execHatchSequence (ctx : CtxId) (s : State) : Out :=
  .next (match (s.ctx ctx.val).hatch with
    | some h => if h.acted || s.hatchAhead ctx.val h then s else s.hatchAct ctx h
    | none => s)

/-! The end of a hatch (R505, R517, R520, R527). -/

/-- A stream of a context is in use. -/
def State.ctxStreams (s : State) (n : Nat) : Bool := s.strms.entries.any fun x => x.2.ctx.val == n && x.2.inUse

/-- The hatch has run, the last stream is cancelled, and the last committed apply is done (R520). -/
def State.hatchOver (s : State) (n : CtxId) (h : Hatch) : Bool := h.acted && !s.ctxStreams n.val && !s.appliesOpen n

/-- The status with which a launch or control program ends after a hatch (R496, R498, R499, R505): FAULTED when the context had faulted. -/
def hatchStatus (reason fault : Nat) : Nat × Nat :=
  if fault != 0 then (0x08, fault) else (if reason = 2 then 0x07 else if reason = 3 then 0x09 else 0x0A, 0)

/-- The open LAUNCH and the CC_RUN commands of a context end. -/
def State.endRuns (s : State) (n st res : Nat) : State :=
  let s1 := match (s.ctx n).launch with | some c => s.endCmd c st res | none => s
  let s2 := (s1.progs.filter fun p => p.ctx.val == n).foldl (fun s p => s.endCmd p.cmd st res) s1
  { s2 with progs := s2.progs.filter fun p => p.ctx.val != n }

/-- A hatch instruction completes: its increment, its flight gone (R149). -/
def State.hatchDone (s : State) (x : Nat × Nat × Option Nat) : State :=
  match s.flight x.1 x.2.1 with
  | some f =>
    let s1 := s.dropFlight x.1 x.2.1
    (match x.2.2 with | some e => s1.evAddSet x.1 (fidCtx x.2.1) e 1 0xE 0x00 f.pc 0 | none => s1).modSet x.1 (fidCtx x.2.1) Core.settle
  | none => s

/-- Everyone who asked for the hatch is answered: hatch instructions complete, CANCELs return 1, a CTX_FREE ends. -/
def State.hatchAnswer (s : State) (h : Hatch) : State :=
  let free (c : Cmd) : Nat := if (recWord c.words 0).fld 0 8 = 0x06 then 1 else 0
  let s1 := h.cores.foldl State.hatchDone s
  h.cmds.foldl (fun s id => match s.cmds.find? (fun c => c.id == id) with | some c => s.endCmd id 0 (free c) | none => s) s1

/-- The context after its hatch: IDLE, nothing open. -/
def Ctx.idleNow (c : Ctx) : Ctx :=
  { c with st := .idle, groups := [], launch := none, limit := 0, suspend := none, saveAt := none, saved := [], hatch := none, kept := [],
           faultCode := 0, started := 0, keptMem := [], keptBad := [] }

/-- The hatch completes (R505, R520). -/
def State.hatchEnd (s : State) (n : CtxId) (h : Hatch) : State :=
  let (st, res) := hatchStatus h.reason (s.ctx n.val).faultCode
  let s1 := ((s.endRuns n.val st res).modCtx n.val Ctx.idleNow).postCtx n.val 0x0A 1 h.unit.toNat [s.csrGet (CTX_HATCH.off n.val)]
  s1.hatchAnswer h

def execHatchComplete (ctx : CtxId) (s : State) : Out :=
  .next (match (s.ctx ctx.val).hatch with
    | some h => if s.hatchOver ctx h && !h.freset then s.hatchEnd ctx h else s
    | none => s)

/-- The context of a command. -/
def Cmd.ctx (c : Cmd) : Nat := (recWord c.words 0).fld 32 6

/-- A context leaves its function: windows closed, apertures invalid, counts down, FREE (R475, R483, R485, R500). -/
def State.unbind (s : State) (n : CtxId) : State :=
  let c := s.ctx n.val
  let down (v : Nat) : Nat := v - 1
  let shut (x : Nat × Aperture) : Nat × Aperture := if x.2.ctx == n then (x.1, { x.2 with valid := false }) else x
  let s1 := { s with windows := s.windows.filter (fun x => x.2.ctx != n), aps := s.aps.map shut }
  let o := HST_FN_STS.off c.port c.slot
  let q := HST_PORT_STS.off c.port
  let s2 := (s1.setFld o HST_FN_STS.CTXN (down (s1.fld o HST_FN_STS.CTXN))).setFld q HST_PORT_STS.CTX_HELD (down (s1.fld q HST_PORT_STS.CTX_HELD))
  s2.modCtx n.val fun _ => Ctx.reset

/-- The values that a function reset gives a CTX_ block, with CTX_HATCH as R522 gives it. -/
def State.fresetRegs (s : State) (n : Nat) : State :=
  let s1 := s.ctxFields n fun f => f.freset
  ((s1.setFld (CTX_HATCH.off n) CTX_HATCH.REASON 8).setFld (CTX_HATCH.off n) CTX_HATCH.COUNT 0).setFld (CTX_HATCH.off n) CTX_HATCH.UNIT unitPkg.toNat

/-- After a function reset every step of the context is one that has not arrived, and its lowest step is 1 (R286, R289). -/
def State.forgetSteps (s : State) (n : CtxId) : State := { s with steps := s.steps.filter fun r => r.ctx != n }

/-- A function reset completes (R527): field values, holds on the context, open commands, one CTX_RESET record, and the unbinding that its
cause asks for. -/
def State.fresetEnd (s : State) (n : CtxId) (h : Hatch) : State :=
  let (st, res) := hatchStatus 8 (s.ctx n.val).faultCode
  let s1 := ((((s.forgetSteps n).fresetRegs n.val).dropHolds n true).endRuns n.val st res).hatchAnswer h
  let open_ := s1.cmds.filter fun c => c.ctx == n.val && c.st == .running
  let wait := s1.cmds.filter fun c => c.ctx == n.val && c.st == .waiting && (recWord c.words 0).fld 0 8 != 0 && (recWord c.words 0).fld 0 8 != 1
  let s2 := (open_ ++ wait).foldl (fun s c => s.endCmd c.id 0x0A 0) s1
  let s3 := s2.postCtx n.val 0x0A 2 unitPkg.toNat [s2.csrGet (CTX_HATCH.off n.val)]
  if h.unbind then s3.unbind n else s3.modCtx n.val Ctx.idleNow

def execFunctionResetComplete (ctx : CtxId) (s : State) : Out :=
  .next (match (s.ctx ctx.val).hatch with
    | some h => if s.hatchOver ctx h && h.freset then s.fresetEnd ctx h else s
    | none => s)

/-- A function reset of a context begins: the hatch with reason 8 (R527). -/
def State.functionReset (s : State) (n : Nat) (cmd : Option Nat) (unbind : Bool) : State :=
  if (s.ctx n).bound then s.startHatch n 8 unitPkg none cmd true unbind else s

/-! READY and the package reset (R314, R529, R530, R540). -/

/-- READY is asserted (R660, R662). -/
def State.ready (s : State) : Bool := s.bit PKG_MOD_ID.off PKG_MOD_ID.READY_PIN

/-- READY and every RDY set or cleared (R483, R529, R602). -/
def State.setReady (s : State) (v : Nat) : State :=
  (List.range 64).foldl (fun s i => s.setFld (HST_FN_STS.off (i / 32) (i % 32)) HST_FN_STS.RDY v) (s.setFld PKG_MOD_ID.off PKG_MOD_ID.READY_PIN v)

/-- Registers of the package domain other than those of the blocks that a package reset keeps: UPD_, PMC_ and PHT_, and the per-core
counters (R29, R640, R643). (log 48, DEDUCED) -/
def packageReg (off : Nat) : Bool :=
  (decide (UPD_STAGE.off 0 ≤ off) && decide (off < UPD_STAGE.off 0 + 0x10000)) || (decide (0xD0000 ≤ off) && decide (off < 0xE0000)) ||
    decide (0x1000000 ≤ off)

/-- The core maps are loaded from flash over their reset values (R114). -/
def State.loadMaps (s : State) : State :=
  (List.range 48).foldl (fun s i =>
    let o := PKG_CORE_MAP.off (i / 12) (i % 12)
    s.csrSet o ((tget? s.flash.regs o).getD (csrReset o))) s

/-- The open records close with H3 = 0x0B (R540). -/
def State.closeOpen (s : State) : State :=
  (s.ring.filter fun x => recOpen x.2).foldl (fun s x => s.closeRecord ((recWord x.2 0).fld 0 32) ((recWord x.2 0).fld 58 3) 3 0x0B) s

/-- Every open command ends with RESET (R529). -/
def State.endAllCmds (s : State) : State :=
  let f (c : Cmd) : Cmd := { c with st := .ended, status := 0x0A, result := 0 }
  { s with cmds := updWhere (fun c => c.st != .ended) f s.cmds }

/-- The contexts with a valid group or an open halyard tell their peers (R529). -/
def State.downAll (s : State) : State :=
  (List.range 64).foldl (fun s i => s.ctxDown (Fin.ofNat 64 i) 9 s.time) s

/-- A core after a reset of its die; flight numbers and dispatch order run on. -/
def Core.reborn (c : Core) : Core := { Core.reset with nextFid := c.nextFid, seq := c.seq }

/-- Every register of the CTX_ block of a context reads its reset value. -/
def State.clearCtxBlock (s : State) (n : Nat) : State :=
  { s with csr := s.csr.filter fun x => !(decide (0x20000 + n * 0x1000 ≤ x.1) && decide (x.1 < 0x21000 + n * 0x1000)) }

/-- The CTX_ block of a bound context takes its function-reset values, that of any other its reset values (R29, R529). No stream is left, so that
INUSE counts none (R266). -/
def State.ctxBlockReset (s : State) (n : Nat) : State :=
  if n != 0 && (s.ctx n).bound then (s.fresetRegs n).setFld (CTX_STRM_USE.off n) CTX_STRM_USE.INUSE 0 else s.clearCtxBlock n

/-- The state that the package domain holds takes its reset values; memory tiers but for HBM and the near tier are zero, and the fabric
domain, the ports' links, bindings, queue registers, windows and apertures stay (R29, R529, R530). -/
def State.packageDomain (s : State) : State :=
  let core (x : Nat × Core) : Nat × Core := (x.1, x.2.reborn)
  let clus (x : Nat × Cluster) : Nat × Cluster := (x.1, { Cluster.reset with nextQ := x.2.nextQ, first := x.2.first })
  let ctx (x : Nat × Ctx) : Nat × Ctx := (x.1, if x.2.bound then x.2.idleNow else Ctx.reset)
  let s1 := { s with
    cores := s.cores.map core, ccRegs := [], progs := [], parked := [], atomAns := [], incs := [], faults := [],
    strms := ⟨[], none, s.strms.nextOrd, none⟩, newReqs := [], oreqs := [], late := [], steps := [], staged := [], offers := [], applies := [],
    updCmds := [], hals := [], vholds := [], colls := [], votes := [], tokens := [], notices := [], seenDown := [],
    clusters := s.clusters.map clus,
    ctxs := s.ctxs.map ctx, dieCyc := [], tst := { s.tst with cmd := none } }
  { s1.zeroSram clusterBase 0x10100000000 with csr := (s1.csr.filter fun x => !packageReg x.1) }

/-- Requests of other packages that the units were serving are answered with status 0x04 (R422). -/
def State.dropServing (s : State) : State :=
  { s with resps := s.resps ++ s.serving.map s.atomRefusal, serving := [] }

/-- A package reset begins (R529): what it ends, tells and resets. (log 48, DEDUCED) -/
def State.pkgReset (s : State) (cause : Nat) : State :=
  let s1 := ((s.downAll.endAllCmds).setReady 0).closeOpen
  let s2 := ((s1.dropServing).packageDomain).loadMaps
  let s3 := (List.range 64).foldl (fun s n => s.ctxBlockReset n) s2
  let s4 := (s3.setFld PKG_RST_STS.off PKG_RST_STS.CAUSE cause).bump PKG_RST_STS.off PKG_RST_STS.COUNT 1
  let s5 := (s4.csrSet PKG_RST_TIME.off (BitVec.ofNat 64 s.time)).dlTrainAll (List.range 8)
  let s6 := s5.setFld SEC_STS.off SEC_STS.DEBUG 0
  { s6.zeroMeas with power := { s6.power with rst := some cause, fw := false }, sec := ⟨[], false, false, s6.sec.cache⟩ }

def execPkgRstPackage (s : State) : Out := .next (s.pkgReset 1)

/-- The firmware watchdog (R516): no KICK for FW_WD_MS while FWWD_EN = 1 and READY is asserted. -/
def execFirmwareWatchdog (s : State) : Out :=
  let lim := max 1 (s.fld PKG_RSTCTL.off PKG_RSTCTL.FW_WD_MS)
  .next (if s.bit PKG_RSTCTL.off PKG_RSTCTL.FWWD_EN && s.ready && decide (s.kicked + lim * 1000000 ≤ s.time) then
      (s.openRecord (mkDet 0x14 unitPkg none 3 3 0 0 0 0 0) false).1.pkgReset 4
    else s)

/-- PKG_RST with OP KICK (R516, R528); an armed injection makes the watchdog ignore one (R562). -/
def State.kick (s : State) : State := if s.armed 0x14 unitPkg then s.fired none else { s with kicked := s.time }
def execKick (s : State) : Out := .next s.kick

/-- A unit that is still stuck after its hatch (R515): a package reset with AUTO = 1, else the shutter with the record kept open. -/
def execUnitHangEscalate (unit : UnitCode) (s : State) : Out :=
  let hung := s.ring.find? fun x => recOpen x.2 && (recWord x.2 0).fld 48 8 == 0x12 && (recWord x.2 1).fld 0 32 == unit.toNat
  .next (match hung with
    | some x =>
      if s.hatching ((recWord x.2 1).fld 32 6) then s
      else if s.bit PKG_RSTCTL.off PKG_RSTCTL.AUTO then s.pkgReset 5
      else (s.shutUnit unit).handle (some ((recWord x.2 0).fld 0 32)) 3 0x07
    | none => s)

/-! The fabric-domain reset (R348, R390, R422, R531, R566). -/

/-- A register of the fabric domain: FAB_, ROUTE_, COL_ and PKG_FAB_ALLOC (R347, R374, R388). -/
def fabricReg (off : Nat) : Bool :=
  off == PKG_FAB_ALLOC.off || (decide (FAB_CFG.off 0 ≤ off) && decide (off < FAB_CFG.off 0 + 0x10000)) ||
    (decide (ROUTE_DIMS.off ≤ off) && decide (off < ROUTE_DIMS.off + 0x10000)) || (decide (COL_ERR.off 0 / 0x10000 * 0x10000 ≤ off) && decide (off < COL_ERR.off 0 / 0x10000 * 0x10000 + 0x10000))

/-- The registers that module flash holds for the fabric (R348, R390). -/
def fabricFlash : List Nat :=
  [PKG_FAB_ALLOC.off, ROUTE_DIMS.off, ROUTE_SLICE.off] ++ (List.range 16).map FAB_CFG.off ++ (List.range 6).map ROUTE_DET.off

/-! Writes by access code (R6, R8, R10, R11). -/

/-- A register after a write of one of its fields. `whole` is the old value with the written half replaced, `on` has the written half
alone, and `ok` says whether a value may be written to a field. -/
def writeFld (whole on : Word) (ok : FldDesc → Nat → Bool) (w : Word) (f : FldDesc) : Word :=
  let x : Fld := ⟨f.lo, f.len⟩
  match f.acc with
  | .rw => if ok f (getFld whole x) then putFld w x (getFld whole x) else w
  | .w1c => putFld w x (getFld w x - (getFld w x &&& getFld on x))
  | .w1s => putFld w x (getFld w x ||| getFld on x)
  | .ro => w
  | .wo => w

/-- A register after a write of all of it or of one half. -/
def writeAcc (d : RegDesc) (ok : FldDesc → Nat → Bool) (old : Word) (sz : CsrSize) (v : Word) : Word :=
  d.fields.foldl (writeFld (mergeSz old sz v) (mergeSz 0 sz v) ok) old

/-- TAG of a context may be written: no hold on its versions, no step of it OPEN, VOTING or COMMITTED (R328). -/
def State.tagFree (s : State) (n : Nat) : Bool :=
  s.vholds.all (fun h => h.owner.val != n) && s.steps.all fun r => r.ctx.val != n || !(decide (1 ≤ r.st) && decide (r.st ≤ 3))

/-- The fields that a value outside their range leaves unchanged. `whole` is the register as the write would leave it. -/
def State.fieldOk (s : State) (off : Nat) (d : RegDesc) (whole : Word) (f : FldDesc) (v : Nat) : Bool :=
  if d.base = CTX_NUMCTL.off 0 then (if f.lo = 8 then decide (v < 2) else if f.lo = 6 then decide (v < 3) else true)
  else if d.base = PKG_STRM_QUOTA.off 0 then decide (1 ≤ v) && decide (v ≤ 0x10000)
  else if d.base = PKG_FAB_ALLOC.off then (List.range 16).all fun i => bits v (3 * i) 3 != 6
  else if d.base = CTX_VTAG.off 0 then (if f.lo = 8 then v != 0 else s.tagFree ((off - 0x20000) / 0x1000))
  else if d.base = CTX_EXP_TBL.off 0 then (if f.lo = 48 then decide (v ≤ 4096) else true)
  else if d.base = HST_PORT_CFG.off 0 then (if f.lo = 1 then v != 0 && v != 7 else true)
  else if d.base = CTX_SAMPLE.off 0 then (if f.lo = 48 then decide (v ≤ 16) else true)
  else if d.base = PKG_DL_CTL.off then (if f.lo = 32 then v != 0 && v != 7 else true)
  else if d.base = PWR_THERM.off then decide (70 ≤ v) && decide (v ≤ 100)
  else if d.base = PWR_CAP.off then
    let capOk := decide (1000 ≤ getFld whole PWR_CAP.CAP) && decide (getFld whole PWR_CAP.CAP ≤ 2400)
    let cap := if capOk then getFld whole PWR_CAP.CAP else s.fld off PWR_CAP.CAP
    (if f.lo = 32 then capOk else decide (cap ≤ v) && decide (v ≤ 2900))
  else true

/-- A register is loaded from module flash, which counts as a write of it: only writable fields take a value, and only one that they may hold
(R390). -/
def State.loadReg (s : State) (o : Nat) (v : Word) : State :=
  if o = ROUTE_DIMS.off then s.dimsFlds v
  else if FAB_CFG.off 0 ≤ o ∧ o < FAB_CFG.off 16 ∧ o % 0x1000 = 0 then s.cfgFlds ((o - FAB_CFG.off 0) / 0x1000) v
  else match regAt o with
    | some d => s.csrSet o (writeAcc d (s.fieldOk o d v) (s.csrGet o) .w64 v)
    | none => s

/-- Registers are loaded from module flash, where flash holds them. -/
def State.loadRegs (s : State) (l : List Nat) : State :=
  l.foldl (fun s o => match tget? s.flash.regs o with | some v => s.loadReg o v | none => s) s

/-- Every port with a direction expects its neighbour, but for one that faces past the end of an axis without wrap (R390). -/
def State.expectPeers (s : State) : State :=
  if s.bit ROUTE_DIMS.off ROUTE_DIMS.VALID then
    (List.range 16).foldl (fun s p =>
      let d := s.allocDir p
      let a := dirAxis d
      let c := coord s.self a
      let edge := !s.wrapBit a && (if d % 2 = 0 then decide (c + 1 = s.size a) else c == 0)
      if d ≤ 5 ∧ edge = false then
        (s.setFld (FAB_CFG.off p) FAB_CFG.EXPV 1).setFld (FAB_CFG.off p) FAB_CFG.EXP_ID (s.neighbour d)
      else s) s
  else s

/-- The fabric registers are loaded and the ports start to train; collectives end only when a load changed the machine or the slice
(R348, R390, R428). -/
def State.loadFabric (s : State) (dims slice : Word) : State :=
  let s1 := s.loadRegs fabricFlash
  let s2 := if s1.csrGet ROUTE_DIMS.off == dims && s1.csrGet ROUTE_SLICE.off == slice then s1 else s1.sliceEnd
  s2.rewriteRings.expectPeers.startPorts

/-- A request to another package that can no longer be answered ends as unreachable (R409, R530). -/
def State.failReqs (s : State) : State :=
  let l := s.oreqs.map (·.req) ++ s.newReqs
  l.foldl (fun s r => s.reqDone r false [] false) { s with oreqs := [], newReqs := [] }

/-- Every stream in use with a global endpoint ends FAILED with error 0x04 (R530). -/
def State.failGlobal (s : State) : State :=
  (s.strms.entries.map (·.1)).foldl (fun s id =>
    match s.strm? id with
    | some x =>
      let src := dSG x.desc && dKind x.desc != 2
      if x.inUse && !x.cancel && (src || dDG x.desc) then
        s.strmFail id x errRemote (if src then dw x.desc 1 else dw x.desc 2).toNat
      else s
    | none => s) s

/-- A fabric-domain reset (R531). -/
def State.fabReset (s : State) : State :=
  let s1 := s.endColls (fun _ => true) .peerDown 2
  let s2 := s1.halUnreachable fun _ => true
  let s3 := s2.steps.foldl (fun s r => if s.stepSt r.ctx r.step == 1 || s.stepSt r.ctx r.step == 2 then
    s.failStep r.ctx r.step 5 (s.cmtRank r.ctx.val) else s) s2
  let s4 := s3.failReqs.failGlobal
  let s5 := { s4 with fports := [], dets := [], relays := [], eseqTx := [], eseqRx := [], late := [], wbad := [], wacks := [], resps := [], netOut := [],
                      inbox := [], rq := [], csr := (s4.csr.filter fun x => !fabricReg x.1) }
  let s6 := (s5.setFld PKG_RST_STS.off PKG_RST_STS.CAUSE 2).bump PKG_RST_STS.off PKG_RST_STS.COUNT 1
  ((s6.csrSet PKG_RST_TIME.off (BitVec.ofNat 64 s.time)).dlTrainAll (List.range' 8 8)).loadFabric
    (s.csrGet ROUTE_DIMS.off) (s.csrGet ROUTE_SLICE.off)

def execPkgRstFabric (s : State) : Out := .next s.fabReset

/-! A die link without a usable module (R578). -/

/-- What follows when a link has no usable module left and none in training (R578). In the bring-up after a package reset for that cause nothing
more does: READY stays deasserted. -/
def State.linkDead (s : State) (n : Nat) : State :=
  if s.dlUsable n || (s.dlMods n).any (·.st == .training) then s
  else if 4 ≤ n ∧ n < 8 then s.shutSite (n - 4)
  else if 12 ≤ n then (List.range 4).foldl (fun s i => s.shutPort (4 * (n - 12) + i) causeCommand) s
  else if s.power.rst = some 5 then s
  else s.pkgReset 5

def execModuleRetrainComplete (n : Fin 16) (m : Nat) (s : State) : Out :=
  .next (if decide (m < dlCount n.val) && (s.dlMod n.val m).st == .training then (s.retrainDone n.val m).linkDead n.val else s)

end Sys2Proof.Machine
end

