-- ==== Sys2Proof/Machine/Host.lean ====
section
/-! DEFINITION. The PCIe ports and their functions, the apertures, and the queue logic (13_host_interface.md R471 to R494, R676). -/

namespace Sys2Proof.Machine

/-! Functions (R474, R475). -/

/-- A link of a port changed. -/
def PPort.setLink (p : PPort) (l : LinkAB) (k : PLink) : PPort :=
  match l with
  | .a => { p with linkA := k }
  | .b => { p with linkB := k }

def State.modPport (s : State) (p : Nat) (f : PPort → PPort) : State := { s with pports := tset s.pports p (f (s.pport p)) }

/-- The link exists: link B only of a bifurcated port (R473). -/
def State.hasLink (s : State) (p : Nat) (l : LinkAB) : Bool := l == .a || (s.pport p).bifur

/-- The function slots of a link (R474). -/
def State.linkSlots (s : State) (p : Nat) (l : LinkAB) : List Nat :=
  if (s.pport p).bifur then (List.range 16).map (pfSlot l + ·) else List.range 32

/-- The slot is that of a function that exists now: a physical function of a link of the port, or an enabled virtual function. -/
def State.fnExists (s : State) (p f : Nat) : Bool := s.isPf p f || (s.linkVfs p (s.linkOf p f)).contains f

/-- The function can be reached from the host: PERST# is released, configuration space responds, and its link is up. -/
def State.fnLive (s : State) (p f : Nat) : Bool :=
  (s.pport p).ready && ((s.pport p).link (s.linkOf p f)).up && s.fnExists p f

/-- The contexts bound to a function. -/
def State.boundTo (s : State) (p f : Nat) : List Nat :=
  (List.range 64).filter fun n => (s.ctx n).bound && (s.ctx n).port == p && (s.ctx n).slot == f

/-- The queue registers of a function's page take their function-reset values, all 0; CTXN and RDY stay (R483). -/
def State.clearPage (s : State) (p f : Nat) : State :=
  let lo := HST_FN_STS.off p f
  let key := fnKey p f
  { s with csr := s.csr.filter fun x => !(decide (lo < x.1) && decide (x.1 < lo + 0x200)),
           evqs := terase s.evqs key, cmds := s.cmds.filter (fun c => !(c.port == p && c.slot == f)),
           msix := s.msix.filter (fun x => x.1 / 32 != key), pba := terase s.pba key }

/-- A function reset of a function: its page, and the function reset of every context bound to it (R475). (log 50, PRESUMED) -/
def State.fnReset (s : State) (p f : Nat) (unbind : Bool) : State :=
  (s.boundTo p f).foldl (fun s n => s.functionReset n none unbind) (s.clearPage p f)

/-- The notice of an event of R475: its row in the table (log 21, DEDUCED). -/
def State.fnNotice (s : State) (p f ev : Nat) : State := s.notice (BitVec.ofNat 64 (put 0x02 56 + put p 40 + put f 32 + ev))

/-- Every function of a link reset, the contexts unbound or not by slot. -/
def State.linkReset (s : State) (p : Nat) (l : LinkAB) (unbind : Nat → Bool) : State :=
  (s.linkSlots p l).foldl (fun s f => s.fnReset p f (unbind f)) s

/-- VF Enable and NumVFs of a link cleared. (log 50, PRESUMED) -/
def State.noVfs (s : State) (p : Nat) (l : LinkAB) : State :=
  s.modPport p fun q => q.setLink l { q.link l with vfEn := false, numVfs := 0 }

/-- LINK_A or LINK_B of HST_PORT_STS as the link stands (R485). -/
def State.linkSts (s : State) (p : Nat) (l : LinkAB) : State :=
  let k := (s.pport p).link l
  let v := if k.up then put 1 7 + put (b2n k.rev) 6 + put k.gen 3 + k.log2w else 0
  s.setFld (HST_PORT_STS.off p) (match l with | .a => HST_PORT_STS.LINK_A | .b => HST_PORT_STS.LINK_B) v

/-- A link without connection. -/
def State.dropLink (s : State) (p : Nat) (l : LinkAB) : State := (s.modPport p fun q => q.setLink l PLink.down).linkSts p l

/-- PERST# asserted (R475). -/
def execPerstAssert (p : Fin 2) (s : State) : Out :=
  .next (if (s.pport p.val).perst then s
    else
      let ls : List LinkAB := if (s.pport p.val).bifur then [.a, .b] else [.a]
      let s1 := ls.foldl (fun s l => (s.linkReset p.val l fun _ => true).dropLink p.val l) s
      let up (q : PPort) : PPort := { q with perst := true, ready := false }
      (s1.modPport p.val up).fnNotice p.val 0 3)

/-- A port samples PERST# released: HST_PORT_CFG is read (R485). -/
def State.samplePort (s : State) (p : Nat) : State :=
  let o := HST_PORT_CFG.off p
  let two := s.bit o HST_PORT_CFG.BIF
  let vf := s.fld o HST_PORT_CFG.TOTALVF
  let f (q : PPort) : PPort := { q with bifur := two, totalVf := if two then min vf 15 else vf, maxGen := s.fld o HST_PORT_CFG.MAXGEN }
  s.modPport p f

def execPerstRelease (p : Fin 2) (s : State) : Out :=
  .next (if (s.pport p.val).perst then
      let s1 := s.modPport p.val fun q => { q with perst := false }
      if s.power.ok then s1.samplePort p.val else s1
    else s)

/-- The port's configuration space responds (R602). -/
def execConfigSpaceReady (p : Fin 2) (s : State) : Out :=
  .next (if !(s.pport p.val).perst && s.power.ok then s.modPport p.val fun q => { q with ready := true } else s)

/-- A link trains, or trains again to another rate or width (R471 to R473). -/
def execPcieLinkUp (p : Fin 2) (link : LinkAB) (gen : Fin 7) (log2w : Fin 5) (reversed : Bool) (s : State) : Out :=
  let q := s.pport p.val
  .next (if !q.perst && s.power.ok && s.hasLink p.val link && decide (1 ≤ gen.val) && decide (gen.val ≤ q.maxGen) &&
      decide (log2w.val ≤ if q.bifur then 3 else 4) then
      let k : PLink := { q.link link with up := true, gen := gen.val, log2w := log2w.val, rev := reversed }
      (s.modPport p.val fun q => q.setLink link k).linkSts p.val link
    else s)

/-- The link goes down (R475). -/
def execPcieLinkDown (p : Fin 2) (link : LinkAB) (s : State) : Out :=
  .next (if s.hasLink p.val link && ((s.pport p.val).link link).up then
      ((s.linkReset p.val link fun _ => true).dropLink p.val link).fnNotice p.val (pfSlot link) 3
    else s)

/-- A hot reset (R475). The link stays up. -/
def execHotReset (p : Fin 2) (link : LinkAB) (s : State) : Out :=
  .next (if s.hasLink p.val link && ((s.pport p.val).link link).up then
      ((s.linkReset p.val link fun _ => true).noVfs p.val link).fnNotice p.val (pfSlot link) 3
    else s)

/-- FLR of a virtual function (R475). -/
def execFlrVf (p : Fin 2) (f : Fin 32) (s : State) : Out :=
  .next (if s.fnLive p.val f.val && !s.isPf p.val f.val then (s.fnReset p.val f.val false).fnNotice p.val f.val 1 else s)

/-- The reset that FLR of a physical function and a cleared VF Enable share (R475). -/
def State.pfReset (s : State) (p : Nat) (l : LinkAB) : State :=
  ((s.linkReset p l fun f => f != pfSlot l).noVfs p l).fnNotice p (pfSlot l) 2

def execFlrPf (p : Fin 2) (link : LinkAB) (s : State) : Out :=
  .next (if s.hasLink p.val link && s.fnLive p.val (pfSlot link) then s.pfReset p.val link else s)

def execVfEnableClear (p : Fin 2) (link : LinkAB) (s : State) : Out :=
  .next (if s.hasLink p.val link && s.fnLive p.val (pfSlot link) && ((s.pport p.val).link link).vfEn then s.pfReset p.val link else s)

/-- VF Enable set with a NumVFs up to TotalVFs (R474, R509). -/
def execVfEnableSet (p : Fin 2) (link : LinkAB) (numVfs : Nat) (s : State) : Out :=
  let q := s.pport p.val
  .next (if s.hasLink p.val link && s.fnLive p.val (pfSlot link) && !(q.link link).vfEn && decide (numVfs ≤ q.totalVf) then
      s.modPport p.val fun q => q.setLink link { q.link link with vfEn := true, numVfs := numVfs }
    else s)

/-! Apertures (R476, R478, R479). -/

/-- The length of a segment of a function's aperture. -/
def State.segLen (s : State) (p f : Nat) : Nat := if s.isPf p f then 0x100000000 else 0x40000000

/-- The mapping of a segment. -/
def State.aperture (s : State) (p f seg : Nat) : Option Aperture := tget? s.aps (fnKey p f * 16 + seg)

/-- The local address and context of an access through a segment, when R478 permits it. -/
def State.apertureAt (s : State) (p f seg x n : Nat) (wr : Bool) : Option (Nat × CtxId) :=
  match s.aperture p f seg with
  | some a =>
    let t := a.lbase + x
    let mem := match tierOf t with | .hbm => true | .near => true | .cluster _ _ => true | .scratch _ _ _ => true | _ => false
    if a.valid && (if wr then a.wr else a.rd) && decide (x + n ≤ s.segLen p f) && mem && (s.localFault a.ctx.val t n wr).isNone then
      some (t, a.ctx)
    else none
  | none => none

/-- What leaves the module towards a host. -/
def State.toHost (s : State) (o : HostOut) : State := { s with hostOut := s.hostOut ++ [o] }

/-- A host's write through BAR2; a poisoned one writes its codewords poisoned (R241, R478). -/
def execApertureWrite (p : Fin 2) (f : Fin 32) (seg : Fin 16) (x : Nat) (bytes : List Byte) (ep : Bool) (s : State) : Out :=
  .next (if s.fnLive p.val f.val && !bytes.isEmpty then
      match s.apertureAt p.val f.val seg.val x bytes.length true with
      | some (a, _) => s.writeMem a bytes ep
      | none => s.toHost (.aer p.val f.val)
    else s)

/-- A host's read through BAR2 (R241, R478, R479). -/
def execApertureRead (p : Fin 2) (f : Fin 32) (seg : Fin 16) (x : Nat) (n : Nat) (s : State) : Out :=
  .next (if s.fnLive p.val f.val && n != 0 then
      match s.apertureAt p.val f.val seg.val x n false with
      | some (a, ctx) =>
        let bad := s.poisoned a n
        (if bad then s.poisonRecord a (some ctx) else s).toHost (.readData p.val f.val (s.readBytes a n) bad)
      | none => (s.toHost (.unsupported p.val f.val)).toHost (.aer p.val f.val)
    else s)

/-! Queue registers (R483, R484, R488, R489, R676). -/

def QPos.reset : QPos := ⟨0, 0, true⟩
def qKey (p f q : Nat) : Nat := fnKey p f * 8 + q
def State.qp (s : State) (p f q : Nat) : QPos := tget QPos.reset s.qpos (qKey p f q)
def State.modQp (s : State) (p f q : Nat) (g : QPos → QPos) : State := { s with qpos := tset s.qpos (qKey p f q) (g (s.qp p f q)) }

/-- The offset of a queue's CFG register. -/
def cfgOff (p f : Nat) : QueueSel → Nat
  | .sq q => HST_SQ_CFG.off p f q.val
  | .cq q => HST_CQ_CFG.off p f q.val
  | .eq => HST_EQ_CFG.off p f

/-- The device's positions of a queue restart, with its TAIL or HEAD register (R676). -/
def State.restart (s : State) (p f : Nat) : QueueSel → State
  | .sq q => (s.modQp p f q.val fun x => { x with head := 0 }).csrSet (HST_SQ_TAIL.off p f q.val) 0
  | .cq q => (s.modQp p f q.val fun x => { x with tail := 0, phase := true }).csrSet (HST_CQ_HEAD.off p f q.val) 0
  | .eq => ((s.modEvq p f fun x => { x with tail := 0, phase := true, lost := 0 }).csrSet (HST_EQ_HEAD.off p f) 0).csrSet (HST_EQ_LOST.off p f) 0

/-- A write of a whole CFG register (R484, R676). EN lies at bit 63 and SIZE at bits 11 to 0 of all three, VEC at 19 to 16 of two. -/
def State.writeQCfg (s : State) (p f : Nat) (q : QueueSel) (v : Word) : State :=
  let o := cfgOff p f q
  let was := s.bit o HST_SQ_CFG.EN
  let vec := match q with | .sq _ => 0 | _ => getFld v HST_CQ_CFG.VEC
  let size := if was then s.fld o HST_SQ_CFG.SIZE else getFld v HST_SQ_CFG.SIZE
  let s1 := s.csrSet o (BitVec.ofNat 64 (put (getFld v HST_SQ_CFG.EN) 63 + put vec 16 + size))
  if !was && getFld v HST_SQ_CFG.EN == 1 then s1.restart p f q else s1

/-- A host's write to the CFG register of a queue. -/
def execQueueEnable (p : Fin 2) (f : Fin 32) (q : QueueSel) (v : Word) (s : State) : Out :=
  .next (if s.fnLive p.val f.val then s.writeQCfg p.val f.val q v else s)

/-- The notice of a doorbell (R487, R488). (log 51, DEDUCED) -/
def State.doorbell (s : State) (p f q : Nat) : State := s.notice (BitVec.ofNat 64 (put 0x01 56 + put p 40 + put f 32 + q))

/-- A write to a submission queue's tail: at or above SIZE + 1 it is ignored and logged (R489). -/
def State.writeTail (s : State) (p f q : Nat) (v : Word) : State :=
  let t := getFld v HST_SQ_TAIL.TAIL
  if s.fld (HST_SQ_CFG.off p f q) HST_SQ_CFG.SIZE + 1 ≤ t then s.toHost (.aer p f)
  else (s.csrSet (HST_SQ_TAIL.off p f q) (BitVec.ofNat 64 t)).doorbell p f q

def execSqTailDoorbell (p : Fin 2) (f : Fin 32) (q : Fin 8) (v : Word) (s : State) : Out :=
  .next (if s.fnLive p.val f.val then s.writeTail p.val f.val q.val v else s)

/-- A write to a completion queue's head. -/
def State.writeCqHead (s : State) (p f q : Nat) (v : Word) : State :=
  (s.csrSet (HST_CQ_HEAD.off p f q) (BitVec.ofNat 64 (getFld v HST_CQ_HEAD.HEAD))).doorbell p f q

def execCqHeadDoorbell (p : Fin 2) (f : Fin 32) (q : Fin 8) (v : Word) (s : State) : Out :=
  .next (if s.fnLive p.val f.val then s.writeCqHead p.val f.val q.val v else s)

/-- A write to the event queue's head. -/
def State.writeEqHead (s : State) (p f : Nat) (v : Word) : State :=
  s.csrSet (HST_EQ_HEAD.off p f) (BitVec.ofNat 64 (getFld v HST_EQ_HEAD.HEAD))

def execEqHeadWrite (p : Fin 2) (f : Fin 32) (v : Word) (s : State) : Out :=
  .next (if s.fnLive p.val f.val then s.writeEqHead p.val f.val v else s)

/-- Free entries of a ring with HEAD `h`, the device's tail `t` and `size` entries (R491). -/
def freeEntries (h t size : Nat) : Nat := (((h : Int) - t - 1) % (size : Int)).toNat

/-- Free entries of a completion ring. -/
def State.cqFree (s : State) (p f q : Nat) : Nat :=
  freeEntries (s.fld (HST_CQ_HEAD.off p f q) HST_CQ_HEAD.HEAD) (s.qp p f q).tail (s.fld (HST_CQ_CFG.off p f q) HST_CQ_CFG.SIZE + 1)

/-- Free entries of an event queue. -/
def State.eqFree (s : State) (p f : Nat) : Nat :=
  freeEntries (s.fld (HST_EQ_HEAD.off p f) HST_EQ_HEAD.HEAD) (s.evq p f).tail (s.fld (HST_EQ_CFG.off p f) HST_EQ_CFG.SIZE + 1)

/-- Fields of a command's word 0 (R495). -/
def cmdOpc (w : List Word) : Nat := (recWord w 0).fld 0 8
def cmdNocpl (w : List Word) : Bool := (recWord w 0).flag 8
def cmdFence (w : List Word) : Bool := (recWord w 0).flag 9
def cmdCid (w : List Word) : Nat := (recWord w 0).fld 16 16

/-- A queue has an entry to fetch and a free completion entry (R484, R491, R529). -/
def State.canFetch (s : State) (p f q : Nat) : Bool :=
  s.bit (HST_SQ_CFG.off p f q) HST_SQ_CFG.EN && s.bit (HST_CQ_CFG.off p f q) HST_CQ_CFG.EN && s.power.rst.isNone &&
    (s.qp p f q).head != s.fld (HST_SQ_TAIL.off p f q) HST_SQ_TAIL.TAIL && s.cqFree p f q != 0

/-- The queue whose turn it is among those of its function that can fetch (R22, R490). -/
def State.fetchTurn (s : State) (p f : Nat) : Option Nat :=
  s.arbWinner (.fetch (fnKey p f)) ((List.range 8).filter (s.canFetch p f))

/-- The next entry of a submission queue is fetched at the queue's turn (R484, R489 to R491, R529). An opcode that is not listed ends the command
when it is taken up, with INVALID_OPCODE (log 22, DESIGN CHOICE). -/
def State.fetchCmd (s : State) (p f q : Nat) (entry : List Word) : State :=
  let x := s.qp p f q
  let size := s.fld (HST_SQ_CFG.off p f q) HST_SQ_CFG.SIZE + 1
  if s.fetchTurn p f == some q then
    let h := (x.head + 1) % size
    let w := (entry ++ List.replicate 8 0).take 8
    let bad := decide (0x0B < cmdOpc w)
    let c : Cmd := ⟨s.nextCmd, p, f, q, h, w, if bad then .ended else .waiting, if bad then 0x01 else 0, 0, s.time⟩
    (({ s with cmds := s.cmds ++ [c], nextCmd := s.nextCmd + 1 } : State).modQp p f q fun x => { x with head := h }).arbServed (.fetch (fnKey p f)) q
  else s

def execCommandFetch (p : Fin 2) (f : Fin 32) (q : Fin 8) (entry : List Word) (s : State) : Out :=
  .next (s.fetchCmd p.val f.val q.val entry)

/-! MSI-X (R476, R492). -/

/-- The vector-control word of an entry of the MSI-X table: masked until the host unmasks it (log 23, PRESUMED). -/
def State.vecMasked (s : State) (p f v : Nat) : Bool := (tget (0x100000000 : Word) s.msix ((fnKey p f * 16 + v) * 2 + 1)).flag 32

/-- A message of a vector, held in the pending-bit array while it is masked. -/
def State.sendMsix (s : State) (p f v : Nat) : State :=
  if s.vecMasked p f v then { s with pba := tset s.pba (fnKey p f) (tget 0 s.pba (fnKey p f) ||| 2 ^ v) }
  else s.toHost (.msix p f v)

/-! Completions (R491, R492, R505, R506). -/

/-- The command that a CANCEL names is still there. -/
def State.cancelTarget (s : State) (c : Cmd) : Option Cmd :=
  let q := (recWord c.words 1).fld 16 3
  let cid := (recWord c.words 1).fld 0 16
  s.cmds.find? fun x => x.port == c.port && x.slot == c.slot && x.q == q && cmdCid x.words == cid && x.id != c.id &&
    (recWord x.words 0).fld 32 6 == (recWord c.words 0).fld 32 6

/-- A command that has ended may complete: with FENCE, after every earlier command of its queue; a CANCEL, after its target. -/
def State.completable (s : State) (c : Cmd) : Bool :=
  c.st == .ended &&
    !(cmdFence c.words && s.cmds.any fun x => x.port == c.port && x.slot == c.slot && x.q == c.q && decide (x.id < c.id)) &&
    !(cmdOpc c.words == 0x06 && (s.cancelTarget c).isSome)

/-- The two words of a completion entry (R491). -/
def cplBytes (c : Cmd) (phase : Bool) : List Byte :=
  leBytes 8 (put c.q 48 + put c.sqhd 32 + c.result % 2 ^ 32) ++ leBytes 8 (put (b2n phase) 63 + put c.status 16 + cmdCid c.words)

/-- The completion of the earliest command that may complete is written, and its message sent. With NOCPL a successful command posts
none (R495). -/
def State.complete1 (s : State) (p f q : Nat) : State :=
  match s.cmds.find? fun c => c.port == p && c.slot == f && c.q == q && s.completable c with
  | some c =>
    let s1 := { s with cmds := s.cmds.filter fun x => x.id != c.id }
    if cmdNocpl c.words && c.status == 0 then s1
    else if s.bit (HST_CQ_CFG.off p f q) HST_CQ_CFG.EN && s.cqFree p f q != 0 then
      let x := s.qp p f q
      let size := s.fld (HST_CQ_CFG.off p f q) HST_CQ_CFG.SIZE + 1
      let t := (x.tail + 1) % size
      let a := s.fld (HST_CQ_BASE.off p f q) HST_CQ_BASE.BASE * 4096 + 16 * x.tail
      let s2 := s1.toHost (.write p a (cplBytes c x.phase) false 0)
      let s3 := s2.modQp p f q fun x => { x with tail := t, phase := if t = 0 then !x.phase else x.phase }
      if s.fld (HST_CQ_HEAD.off p f q) HST_CQ_HEAD.HEAD = t then s3
      else s3.sendMsix p f (s.fld (HST_CQ_CFG.off p f q) HST_CQ_CFG.VEC)
    else s
  | none => s

def execCompletionWrite (p : Fin 2) (f : Fin 32) (q : Fin 8) (s : State) : Out := .next (s.complete1 p.val f.val q.val)

/-! Event records (R493, R494). -/

/-- A record written into the event queue with its phase bit, and the queue's message. -/
def State.writeEvent (s : State) (p f : Nat) (ws : List Word) : State :=
  let x := s.evq p f
  let size := s.fld (HST_EQ_CFG.off p f) HST_EQ_CFG.SIZE + 1
  let t := (x.tail + 1) % size
  let w := setWord ws 0 ((recWord ws 0).setFld 63 1 (b2n x.phase))
  let a := s.fld (HST_EQ_BASE.off p f) HST_EQ_BASE.BASE * 4096 + 64 * x.tail
  let s1 := s.toHost (.write p a (wordsToBytes ((w ++ List.replicate 8 0).take 8)) false 0)
  (s1.modEvq p f fun x => { x with tail := t, phase := if t = 0 then !x.phase else x.phase }).sendMsix p f
    (s.fld (HST_EQ_CFG.off p f) HST_EQ_CFG.VEC)

/-- A device record is lost. -/
def State.loseEvent (s : State) (p f : Nat) : State :=
  (s.modEvq p f fun x => { x with lost := x.lost + 1 }).bump (HST_EQ_LOST.off p f) HST_EQ_LOST.COUNT 1

/-- The next record that waits at a function's event queue is posted, or lost, or dropped because the queue is off. A LOST record that can
go has to go first. (log 51, DEDUCED) -/
def State.postEvent (s : State) (p f : Nat) : State :=
  let free := s.eqFree p f
  let on := s.bit (HST_EQ_CFG.off p f) HST_EQ_CFG.EN
  if on && (s.evq p f).lost != 0 && decide (2 ≤ free) then s
  else match takeFirst (fun r => !r.1 || !on || decide (8 ≤ free)) (s.evq p f).waiting with
    | some ((user, ws), rest) =>
      let s1 := s.modEvq p f fun x => { x with waiting := rest }
      if !on then (if user then s1 else s1.bump (HST_EQ_LOST.off p f) HST_EQ_LOST.COUNT 1)
      else if user || decide (2 ≤ free) then s1.writeEvent p f ws
      else s1.loseEvent p f
    | none => s

def execEventRecordPost (p : Fin 2) (f : Fin 32) (s : State) : Out := .next (s.postEvent p.val f.val)

/-- The LOST record (R493). -/
def execLostRecordPost (p : Fin 2) (f : Fin 32) (s : State) : Out :=
  let n := (s.evq p.val f.val).lost
  .next (if s.bit (HST_EQ_CFG.off p.val f.val) HST_EQ_CFG.EN && n != 0 && decide (2 ≤ s.eqFree p.val f.val) then
      (s.modEvq p.val f.val fun x => { x with lost := 0 }).writeEvent p.val f.val
        (s.evRecord 0x0B 0 none 0 [BitVec.ofNat 64 n])
    else s)

end Sys2Proof.Machine
end

