-- ==== Sys2Proof/Machine/Command.lean ====
section
/-! DEFINITION. The commands of the hosts (13_host_interface.md R495 to R506; 14_contexts_hangs_reset.md R511). -/

namespace Sys2Proof.Machine

/-! Taking up a command (R490, R495 to R497). -/

/-- The bits that a command's words 1 to 7 may set (R495): an address names the whole word but for the bits that its alignment keeps 0. -/
def cmdMasks : Nat → List Nat
  | 0x00 => [0xFFFFFFFFFFFFF000]
  | 0x01 => [0x1F]
  | 0x03 => [0xFFFFFFFFFFFFFFC0, 0xFFFFFFFF]
  | 0x04 => [0xFFFFFFFFFFE00000]
  | 0x06 => [0x7FFFF]
  | 0x07 => [0xFFFFFFFFFFFFFFFF]
  | 0x08 => [0xFFFFFFFFFFFFF000, 0xFFFFFFFFFFFFF000, 0xFFFFFFFFFFFFF000, 0x3]
  | 0x09 => [0xFF]
  | 0x0A => [0xF, 0xFFFFFFFFFFFFF000, 0x7]
  | 0x0B => [0xFFFFFFFFFFFF, 0x1F, 0xFFFFFFFF]
  | _ => []

/-- A word of a command. -/
def Cmd.w (c : Cmd) (i : Nat) : Word := recWord c.words i

/-- A field of a command lies outside R495. -/
def Cmd.badField (c : Cmd) : Bool :=
  let opc := cmdOpc c.words
  let masks := (cmdMasks opc ++ List.replicate 7 0).take 7
  (c.w 0 &&& ~~~(0x3FFFFF03FF : Word)) != 0 || ((List.range 7).any fun i => (c.w (i + 1)).toNat &&& (2 ^ 64 - 1 - masks.getD i 0) != 0) ||
    (opc == 0x0B && ((c.w 1).fld 0 3 != 0 || decide ((c.w 3).toNat < 10) || decide (100000 < (c.w 3).toNat) ||
      (if (c.w 2).flag 4 then (c.w 2).fld 0 4 != 0 else decide ((c.w 2).fld 0 4 < 4))))

/-- The function that issued a command owns a context (R495). -/
def State.owns (s : State) (p f n : Nat) : Bool :=
  let c := s.ctx n
  n != 0 && c.bound && c.port == p && (c.slot == f || (s.isPf p f && s.linkOf p c.slot == s.linkOf p f))

/-- The state permits the command (R497). -/
def stateAllows (st : CtxState) (opc : Nat) : Bool :=
  match st with
  | .free => false
  | .idle => opc != 0x04 && opc != 0x05
  | .running => opc != 0x03 && opc != 0x05
  | .suspended => opc != 0x03 && opc != 0x04 && opc != 0x0B
  | .faulted => opc == 0x06 || opc == 0x02

/-- The status that ends a command before it acts, in the order of log 22, DESIGN CHOICE. -/
def State.cmdCheck (s : State) (c : Cmd) : Option Nat :=
  let opc := cmdOpc c.words
  if opc != 0 && !s.bit (HST_FN_STS.off c.port c.slot) HST_FN_STS.RDY then some 0x0D
  else if c.badField then some 0x02
  else if (opc == 0x01 || opc == 0x02) && !s.isPf c.port c.slot then some 0x03
  else if decide (2 ≤ opc) && !s.owns c.port c.slot c.ctx then some 0x03
  else if decide (2 ≤ opc) && !stateAllows (s.ctx c.ctx).st opc then some 0x0C
  else none

/-- Two commands are of one queue. -/
def Cmd.sameQueue (x c : Cmd) : Bool := x.port == c.port && x.slot == c.slot && x.q == c.q

/-- A SUSPEND reached the command processor in the cycle in which a hatch of its context started (R523). -/
def State.hatchedNow (s : State) (c : Cmd) : Bool :=
  cmdOpc c.words == 0x04 && (match (s.ctx c.ctx).hatch with | some h => h.start == c.came | none => false)

/-- A command cannot start: with FENCE, before the earlier ones of its queue have completed, or while its context's hatch runs (R490, R520); a
SUSPEND of the cycle in which the hatch starts ends by it (R523). -/
def State.cmdHeld (s : State) (c : Cmd) : Bool :=
  (cmdFence c.words && s.cmds.any fun x => x.sameQueue c && decide (x.id < c.id)) || (decide (2 ≤ cmdOpc c.words) && s.hatching c.ctx && !s.hatchedNow c)

/-- The resource a command waits for is not there (log 22): for COPY an entry, a quota and its turn, for SUSPEND the end of an earlier one. -/
def State.cmdWaits (s : State) (c : Cmd) : Bool :=
  (cmdOpc c.words == 0x07 && (s.freeId.isNone || s.quotaFull c.ctx || !s.waitingIssuers.isEmpty)) ||
    (cmdOpc c.words == 0x04 && (s.ctx c.ctx).suspend.isSome)

/-- A command of another queue that reached the command processor in the same cycle starts first: it is of a lower port, then slot, then
queue (R490). -/
def State.cmdAhead (s : State) (c : Cmd) : Bool :=
  let rank (x : Cmd) : Nat := (x.port * 32 + x.slot) * 8 + x.q
  s.cmds.any fun x => x.st == .waiting && x.came == c.came && decide (rank x < rank c) && !s.cmdHeld x && !s.cmdWaits x &&
    !s.cmds.any fun y => y.st == .waiting && y.sameQueue x && decide (y.id < x.id)

/-- The command that a queue starts next, if it has this opcode and may start (R490). -/
def State.nextCmd? (s : State) (q : QueueId) (opc : Nat) : Option Cmd :=
  match s.cmds.find? fun c => c.port == q.port.val && c.slot == q.slot.val && c.q == q.q.val && c.st == .waiting with
  | some c => if cmdOpc c.words == opc && !s.cmdHeld c && !s.cmdAhead c then some c else none
  | none => none

/-- A command row: the command starts, and ends at once when a check fails. `wait` holds while it cannot start. -/
def State.runCmd (s : State) (q : QueueId) (opc : Nat) (wait : Cmd → Bool) (act : Cmd → State → State) : State :=
  match s.nextCmd? q opc with
  | some c =>
    let start (x : Cmd) : Cmd := { x with st := .running }
    match s.cmdCheck c with
    | some st => s.endCmd c.id st 0
    | none => if wait c then s else act c { s with cmds := updWhere (fun x => x.id == c.id) start s.cmds }
  | none => s

/-- No wait. -/
def noWait : Cmd → Bool := fun _ => false

/-- Free words, `n` of them (log 1, DESIGN CHOICE). -/
def State.drawN (s : State) (n : Nat) : List Word × State :=
  ((List.range n).map fun i => Config.freeValue (s.freeCtr + i), { s with freeCtr := s.freeCtr + n })

/-! IDENTIFY, CTX_ALLOC, CTX_FREE (R495, R500). -/

/-- IDENTIFY: 4 KiB of identity data, which the spec does not give, to the host's buffer. -/
def execIdentify (q : QueueId) (s : State) : Out :=
  .next (s.runCmd q 0x00 noWait fun c s =>
    let (ws, s1) := s.drawN 512
    (s1.toHost (.write c.port (c.w 1).toNat (wordsToBytes ws) false 0)).endCmd c.id 0 0)

/-- The lowest-numbered FREE context from 1 to 63. -/
def State.freeCtx (s : State) : Option Nat :=
  (List.range' 1 63).find? fun n => (s.ctx n).st == .free && !(s.ctx n).bound && !s.hatching n

/-- The slot is one of the issuing function's own link (R474, R495). -/
def State.ownSlot (s : State) (p f slot : Nat) : Bool :=
  (s.linkSlots p (s.linkOf p f)).contains slot && decide (slot - pfSlot (s.linkOf p f) ≤ (s.pport p).totalVf)

/-- A context bound to a function, IDLE. -/
def State.bindCtx (s : State) (n p f : Nat) : State :=
  let o := HST_FN_STS.off p f
  let h := HST_PORT_STS.off p
  let s1 := (s.setFld o HST_FN_STS.CTXN (s.fld o HST_FN_STS.CTXN + 1)).setFld h HST_PORT_STS.CTX_HELD (s.fld h HST_PORT_STS.CTX_HELD + 1)
  s1.modCtx n fun _ => { Ctx.reset with st := .idle, bound := true, port := p, slot := f }

def execCtxAlloc (q : QueueId) (s : State) : Out :=
  .next (s.runCmd q 0x01 noWait fun c s =>
    let slot := (c.w 1).fld 0 5
    if !s.ownSlot c.port c.slot slot then s.endCmd c.id 0x02 0
    else if s.fld (HST_PORT_CFG.off c.port) HST_PORT_CFG.CTX_MAX ≤ s.fld (HST_PORT_STS.off c.port) HST_PORT_STS.CTX_HELD then s.endCmd c.id 0x05 0
    else match s.freeCtx with
      | some n => (s.bindCtx n c.port slot).endCmd c.id 0 n
      | none => s.endCmd c.id 0x05 0)

def execCtxFree (q : QueueId) (s : State) : Out :=
  .next (s.runCmd q 0x02 noWait fun c s => s.functionReset c.ctx (some c.id) true)

/-! LAUNCH (R107 to R111, R496, R498, R511, R675). -/

/-- The CLUSTERS masks of the eight groups, 0 for one that is not valid, and the valid ones. -/
def State.groupMasks (s : State) (n : Nat) : List Nat :=
  (List.range 8).map fun g => if s.bit (CTX_BG_MASK.off n g) CTX_BG_MASK.VALID then s.fld (CTX_BG_MASK.off n g) CTX_BG_MASK.CLUSTERS else 0
def State.validGroups (s : State) (n : Nat) : List Nat := (List.range 8).filter fun g => s.bit (CTX_BG_MASK.off n g) CTX_BG_MASK.VALID

/-- Two masks share a cluster. -/
def sharesBit : List Nat → Bool
  | [] => false
  | m :: t => t.any (fun k => m &&& k != 0) || sharesBit t

/-- The clusters of a list of masks. -/
def maskClusters (l : List Nat) : List Nat := l.flatMap fun m => (List.range 48).filter fun i => bits m i 1 == 1

/-- The cluster is shuttered. -/
def State.clusterOff (s : State) (i : Nat) : Bool := s.bit (PKG_CORE_MAP.off (i / 12) (i % 12)) PKG_CORE_MAP.CLUSTER_OFF

/-- Why a launch is refused, by the RESULT of R496, the entry table's poison apart. -/
def State.launchRefused (s : State) (n table : Nat) : Option Nat :=
  let masks := s.groupMasks n
  if sharesBit masks then some 1
  else if (maskClusters masks).any s.clusterOff then some 2
  else if (s.validGroups n).any fun g => masks.getD g 0 == 0 then some 3
  else if (s.validGroups n).isEmpty then some 4
  else if (s.localFault n table 64 false).isSome then some 5
  else none

/-- Another context that holds one of the clusters. -/
def State.busyWith (s : State) (n : Nat) (l : List Nat) : Option Nat :=
  l.findSome? fun i => match (s.cluster i).holder with | some h => if h.val = n then none else some h.val | none => none

/-- The entry table: in a host window its words come from the host and are free (log 1, DESIGN CHOICE). -/
def State.entryTable (s : State) (table : Nat) : List Word × State :=
  match tierOf table with
  | .hostWin _ => s.drawN 8
  | _ => (bytesToWords 8 (s.readBytes table 64), s)

/-- The CTX_FAULT registers at their reset values (R675). -/
def State.clearFaultRegs (s : State) (n : Nat) : State :=
  [CTX_FAULT_INFO.off n, CTX_FAULT_PC.off n, CTX_FAULT_ADDR.off n, CTX_FAULT_TIME.off n, CTX_FAULT_CNT.off n].foldl (fun s o => s.csrSet o (csrReset o)) s

/-- A cluster taken by a context for a group, its memories zeroed when another context held it last (R498, R511). -/
def State.takeCluster (s : State) (n : CtxId) (g i : Nat) : State :=
  let other := match (s.cluster i).last with | some h => h != n | none => false
  (if other then s.zeroCluster i else s).modCluster i fun c => { c with holder := some n, last := some n, group := g }

/-- A core at the start of a launch (R111). -/
def State.startCore (s : State) (n : CtxId) (g idx size : Nat) (pc : BitVec 48) (key : Nat) : State :=
  s.modCore key fun c =>
    let x : Core := { c.cleared with ctx := n, run := .running, pc := pc, group := g, started := s.time }
    ((x.setReg 0 (BitVec.ofNat 64 idx)).setReg 1 (BitVec.ofNat 64 size)).setReg 2 (BitVec.ofNat 64 g)

/-- One group of a launch: its clusters and its cores. -/
def State.startGroup (s : State) (n : CtxId) (g mask : Nat) (pc : BitVec 48) : State :=
  let s1 := (maskClusters [mask]).foldl (fun s i => s.takeCluster n g i) s
  let keys := maskCores mask
  (keys.foldl (fun x key => (x.1.startCore n g x.2 keys.length pc key, x.2 + 1)) (s1, 0)).1

/-- The launch starts. -/
def State.launchGo (s : State) (c : Cmd) (table : List Word) : State :=
  let n : CtxId := Fin.ofNat 64 c.ctx
  let masks := s.groupMasks n.val
  let s1 := s.clearFaultRegs n.val
  let s2 := (s1.validGroups n.val).foldl (fun s g => s.startGroup n g (masks.getD g 0) ((recWord table g).setWidth 48)) s1
  s2.modCtx n.val fun x => { x with st := .running, groups := masks, launch := some c.id, limit := (c.w 2).fld 0 32, started := s.time, faultCode := 0 }

def execLaunch (q : QueueId) (s : State) : Out :=
  .next (s.runCmd q 0x03 noWait fun c s =>
    let n := c.ctx
    let a := (c.w 1).toNat
    match s.launchRefused n a with
    | some r => s.endCmd c.id 0x06 r
    | none =>
      match s.busyWith n (maskClusters (s.groupMasks n)) with
      | some h => s.endCmd c.id 0x04 h
      | none =>
        if s.poisoned a 64 then (s.poisonRecord a (some (Fin.ofNat 64 n))).endCmd c.id 0x06 6
        else
          let (t, s1) := s.entryTable a
          s1.launchGo c t)

/-! The end of a launch and of control programs (R136, R498, R499). -/

/-- Every core of the launch has halted and every instruction of them has completed. -/
def State.coresDone (s : State) (n : Nat) : Bool := (s.launchCores n).all fun k => (s.core k).run == .halted && (s.core k).quiet

/-- The program has ended and its instructions have completed. -/
def State.progDone (s : State) (p : CcProg) : Bool := (p.ended || p.stop) && (s.setOf (0x1000 + p.core) p.ctx.val).quiet

/-- The CC_RUN commands of the programs of a context that are over end: CANCELLED when a CANCEL stopped them. -/
def State.endProgs (s : State) (n : Nat) : State :=
  let l := s.progs.filter fun p => p.ctx.val == n && s.progDone p
  { l.foldl (fun s p => s.endCmd p.cmd (if p.stop then 0x07 else 0) 0) s with progs := s.progs.filter fun p => !l.contains p }

/-- A running context that has nothing left becomes IDLE; its clusters are free. -/
def State.launchEnd (s : State) (n : Nat) : State :=
  let s1 := s.endProgs n
  if s1.coresDone n && !(s1.progs.any fun p => p.ctx.val == n) then
    let s2 := match (s1.ctx n).launch with | some c => s1.endCmd c 0 0 | none => s1
    (s2.releaseClusters n false).modCtx n Ctx.idleNow
  else s1

/-- The CTX_FAULT record of a context still waits. -/
def State.faultPending (s : State) (n : Nat) : Bool :=
  (s.evq (s.ctx n).port (s.ctx n).slot).waiting.any fun r => (recWord r.2 0).fld 40 8 == 0x02 && (recWord r.2 0).fld 0 6 == n

/-- The engine queues of a context's cores have drained. -/
def State.ctxDrained (s : State) (n : Nat) : Bool :=
  (s.launchCores n).all (fun k => (s.core k).drained) && allCtl.all fun k => (s.setOf k n).drained

/-- LAUNCH and CC_RUN of a faulted context complete with FAULTED (R499). -/
def State.faultEnd (s : State) (n : Nat) : State :=
  if s.ctxDrained n && !s.faultPending n && (s.ctx n).faultCode != 0 then
    (s.endRuns n 0x08 (s.ctx n).faultCode).modCtx n fun c => { c with launch := none }
  else s

def execLaunchComplete (ctx : CtxId) (s : State) : Out :=
  let n := ctx.val
  .next (if s.hatching n then s
    else if (s.ctx n).st == .running && (s.ctx n).suspend.isNone then s.launchEnd n
    else if (s.ctx n).st == .faulted then s.faultEnd n
    else s)

/-- The limit of a launch expires before it has completed (R498, R523). -/
def execLaunchTimeLimit (ctx : CtxId) (s : State) : Out :=
  let n := ctx.val
  let c := s.ctx n
  let late := c.launch.isSome && c.limit != 0 && decide (c.started + c.limit * 1000000 ≤ s.time)
  let done := c.st == .running && s.coresDone n && !(s.progs.any fun p => p.ctx.val == n && !s.progDone p)
  .next (if late && (c.st == .running || c.st == .suspended) && !done && !s.hatching n then
      s.startHatch n 3 unitPkg none none false false
    else s)

/-! SUSPEND and RESUME (R501 to R504, R506). -/

/-- The save area of a context's cores and clusters. -/
def State.saveLen (s : State) (n : Nat) : Nat := (s.launchCores n).length * 0x400000 + (s.launchClusters n).length * 0x800000

/-- The save is refused: the area does not lie whole in HBM within reach, or a receive ring lies in cluster memory. -/
def State.saveBad (s : State) (n a : Nat) : Bool :=
  let len := s.saveLen n
  (len != 0 && (decide (0xC000000000 < a + len) || (s.localFault n a len true).isSome)) ||
    (List.range 16).any fun h => s.hcfg n h CTX_HAL_CFG.EN == 1 && s.hRecv n h &&
      (match tierOf (s.fld (CTX_HAL_RING.off n h) CTX_HAL_RING.BASE * 4096) with | .cluster _ _ => true | _ => false)

def execSuspend (q : QueueId) (s : State) : Out :=
  .next (s.runCmd q 0x04 s.cmdWaits fun c s =>
    let n := c.ctx
    let a := (c.w 1).toNat
    let s1 := s.launchEnd n
    if s.hatchedNow c then s.endCmd c.id 0x0A 0
    else if (s1.ctx n).st != .running then s1.endCmd c.id 0x0C 0
    else if a != 0 && s1.saveBad n a then s1.endCmd c.id 0x02 0
    else ((s1.stopCores n).stopCtl n 0).modCtx n fun x => { x with suspend := some (c.id, a) })

/-- The instructions of a core have completed, those of collectives apart. -/
def Core.quietButCol (c : Core) : Bool := ({ c with flights := c.flights.filter fun (f : Flight) => f.op != FlightOp.col }).quiet

/-- The context's work has drained (R501). (log 52, DEDUCED) -/
def State.suspendReady (s : State) (n : Nat) : Bool :=
  (s.launchCores n).all (fun k => (s.core k).quietButCol) && allCtl.all (fun k => (s.setOf k n).quietButCol) && !s.ctxStreams n &&
    !(s.colls.any fun c => c.ctx.val == n && c.st == .open) && (List.range 16).all fun h => (s.hal n h).sends.all fun x => !x.started

/-- A storage place lies in the scratchpad of a core. -/
def inScratch (key k : Nat) : Bool := decide (scratchOf key ≤ k) && decide (k < scratchOf key + 0x200000)

/-- Where cluster number `m` of a context is saved (R502). -/
def State.clusterSave (s : State) (n a m : Nat) : Nat := a + (s.launchCores n).length * 0x400000 + m * 0x800000

/-- The state of a core in the save area, of a layout that the spec does not give: its bytes are free (log 24, DESIGN CHOICE). -/
def State.saveCore (s : State) (a : Nat) : State :=
  let (ws, s1) := s.drawN 0x80000
  s1.writeMem a (wordsToBytes ws) false

/-- The core state and the memories saved, the clusters released (R502). The core state is kept beside its area too (log 24, DESIGN CHOICE). -/
def State.saveCtx (s : State) (n a : Nat) : State :=
  let keys := s.launchCores n
  let keep (k : Nat) : Bool := keys.any fun key => inScratch key k
  let s1 := s.modCtx n fun x => { x with saveAt := some a, saved := keys.map (fun k => (k, s.core k)),
                                         keptMem := s.mem.cells.filter (fun c => keep c.1), keptBad := s.mem.poison.filter keep }
  let s2 := (List.range keys.length).foldl (fun s i => s.saveCore (a + i * 0x400000)) s1
  let s3 := ((s.launchClusters n).foldl (fun x i => (x.1.copyMem (clusterMem (i / 12) (i % 12)) (s.clusterSave n a x.2) 0x800000, x.2 + 1)) (s2, 0)).1
  (keys.foldl (fun s k => s.modCore k Core.cleared) s3).releaseClusters n false

def execSuspendComplete (ctx : CtxId) (s : State) : Out :=
  let n := ctx.val
  .next (match (s.ctx n).suspend with
    | some (cmd, a) =>
      if (s.ctx n).st == .running && s.suspendReady n && !s.hatching n then
        let s1 := if a = 0 then s else s.saveCtx n a
        (s1.modCtx n fun x => { x with st := .suspended, suspend := none }).endCmd cmd 0 0
      else s
    | none => s)

/-- A saved core takes its state back. Numbering, instruction cache and ballast state run on. -/
def Core.restore (now c : Core) : Core :=
  { c with nextFid := max now.nextFid c.nextFid, seq := max now.seq c.seq, icache := now.icache,
           mx := { c.mx with level := now.mx.level, cntW := now.mx.cntW, cntI := now.mx.cntI } }

/-- The clusters taken back: cluster memories from the save area, scratchpads as they were saved (R502, R504). -/
def State.takeBack (s : State) (n : CtxId) (a : Nat) : State :=
  let x := s.ctx n.val
  let s1 := (List.range 8).foldl (fun s g => (maskClusters [x.groups.getD g 0]).foldl (fun s i =>
    (s.zeroCluster i).modCluster i fun c => { c with holder := some n, last := some n, group := g }) s) s
  let m := x.keptMem.foldl (fun (m : Memory) c => m.put c.1 c.2) s1.mem
  let s2 : State := { s1 with mem := { m with poison := x.keptBad.foldl setIns m.poison } }
  let s3 := ((s.launchClusters n.val).foldl (fun x i => (x.1.copyMem (s.clusterSave n.val a x.2) (clusterMem (i / 12) (i % 12)) 0x800000, x.2 + 1)) (s2, 0)).1
  x.saved.foldl (fun s c => s.modCore c.1 fun now => now.restore c.2) s3

/-- Collective instructions that ended while their core was saved complete now. (log 52, DEDUCED) -/
def State.lateColls (s : State) (n : Nat) : State :=
  (s.launchCores n).foldl (fun s k =>
    ((s.core k).flights.filter fun f => f.op == .col && !(s.colls.any fun c => c.key == k && c.fid == f.fid && c.live) &&
      !(s.votes.any fun v => v.key == k && v.fid == f.fid)).foldl (fun s f =>
        let s1 := s.dropFlight k f.fid
        (match f.ev with | some e => s1.evAdd k e 1 f.cls f.opc f.pc 0 | none => s1).settle k) s) s

/-- Dispatch resumes on the cores that the suspension stopped. -/
def State.goOn (s : State) (n : Nat) : State :=
  (s.launchCores n).foldl (fun s k => s.modCore k fun c => { c with run := if c.run == .stopped then .running else c.run }) s

def execResume (q : QueueId) (s : State) : Out :=
  .next (s.runCmd q 0x05 noWait fun c s =>
    let n : CtxId := Fin.ofNat 64 c.ctx
    let run (s : State) : State := (((s.modCtx n.val fun x => { x with st := .running }).goOn n.val).unpark n.val).endCmd c.id 0 0
    match (s.ctx n.val).saveAt with
    | none => run s
    | some a =>
      match s.busyWith n.val (s.launchClusters n.val) with
      | some h => s.endCmd c.id 0x04 h
      | none =>
        let kept := (s.ctx n.val).kept
        let clear (x : Ctx) : Ctx := { x with saveAt := none, saved := [], kept := [], keptMem := [], keptBad := [] }
        let s1 := (s.takeBack n a).modCtx n.val clear
        let s2 := kept.foldl (fun s i => s.evAdd i.core i.ev i.n 0 0 0 0) s1
        run (s2.lateColls n.val))

/-! CANCEL (R505, R506). -/

/-- A control program ends at its next instruction. -/
def State.stopProg (s : State) (p : CcProg) : State :=
  let k := 0x1000 + p.core
  let stop (x : CcProg) : CcProg := { x with stop := true }
  let s1 := { s with progs := updWhere (fun x => x == p) stop s.progs }
  if (s1.core k).ctx == p.ctx then let (w, s2) := s1.draw; s2.ccBack k true w else s1

/-- A running COPY is cancelled as its stream is. False when its last write has been performed (R262, R263). -/
def State.cancelCopy (s : State) (cmd : Nat) : State × Bool :=
  match s.strms.entries.find? fun x => x.2.cmd == some cmd && x.2.inUse with
  | some (id, x) =>
    if x.st == .queued then (s.strmEnd id x .cancelled, true)
    else if x.served && x.outst == 0 then (s, false)
    else (s.setStrm id { x with cancel := true }, true)
  | none => (s, false)

def State.cancel (s : State) (c : Cmd) : State :=
  let n := c.ctx
  if (s.ctx n).st == .faulted then s.startHatch n 2 unitPkg none (some c.id) false false
  else match s.cancelTarget c with
    | some t =>
      if t.st == .waiting then (s.endCmd t.id 0x07 0).endCmd c.id 0 1
      else if t.st == .ended then s.endCmd c.id 0 0
      else if cmdOpc t.words == 0x03 then s.startHatch n 2 unitPkg none (some c.id) false false
      else if cmdOpc t.words == 0x0B then
        match s.progs.find? fun p => p.cmd == t.id && !p.ended with
        | some p => (s.stopProg p).endCmd c.id 0 1
        | none => s.endCmd c.id 0 0
      else if cmdOpc t.words == 0x07 then
        let (s1, hit) := s.cancelCopy t.id
        s1.endCmd c.id 0 (b2n hit)
      else s.endCmd c.id 0 0
    | none => s.endCmd c.id 0 0

def execCancel (q : QueueId) (s : State) : Out := .next (s.runCmd q 0x06 noWait fun c s => s.cancel c)

/-! COPY (R248, R259, R495). -/

/-- COPY: the descriptor `desc` that the host memory holds runs on the stream port of H0. One that breaks the stream rules ends with
INVALID_FIELD; without a free entry, within a full quota or behind waiting issuers the command waits (log 22, DESIGN CHOICE). -/
def execCopy (q : QueueId) (desc : List Word) (s : State) : Out :=
  let d := (desc ++ List.replicate 8 0).take 8
  let bad (s : State) (c : Cmd) : Bool := (s.descFault c.ctx d (c.w 1).toNat).isSome
  .next (s.runCmd q 0x07 (fun c => !bad s c && s.cmdWaits c) fun c s =>
    if bad s c then s.endCmd c.id 0x02 0
    else match s.freeId with
      | some id => s.enterStrm id 0x1000 (Fin.ofNat 64 c.ctx) d (s.strmEngine 0x1000 d) (some c.id)
      | none => s)

/-! Windows and apertures (R478, R480, R481, R495). -/

/-- The range overlaps a window of the port. -/
def State.windowOverlap (s : State) (p loff len : Nat) : Bool := s.windows.any fun x => x.2.port == p && overlap loff len x.2.loff x.2.len

/-- OPEN_WINDOW: the lowest free number of the port's 256 is taken (log 22, DESIGN CHOICE). -/
def execOpenWindow (q : QueueId) (s : State) : Out :=
  .next (s.runCmd q 0x08 noWait fun c s =>
    let n : CtxId := Fin.ofNat 64 c.ctx
    let p := (s.ctx n.val).port
    let lo := (c.w 1).toNat
    let ha := (c.w 2).toNat
    let len := (c.w 3).toNat
    if len = 0 ∨ 0x200000000000 < lo + len ∨ 2 ^ 64 < ha + len ∨ s.windowOverlap p lo len = true then s.endCmd c.id 0x0B 0
    else match (List.range 256).find? fun i => (tget? s.windows (p * 256 + i)).isNone with
      | some i => { s with windows := tset s.windows (p * 256 + i) (⟨n, p, lo, ha, len, (c.w 4).flag 0, (c.w 4).flag 1⟩ : Window) }.endCmd c.id 0 i
      | none => s.endCmd c.id 0x05 0)

def execCloseWindow (q : QueueId) (s : State) : Out :=
  .next (s.runCmd q 0x09 noWait fun c s =>
    let k := (s.ctx c.ctx).port * 256 + (c.w 1).fld 0 8
    match tget? s.windows k with
    | some w => if w.ctx.val = c.ctx then { s with windows := terase s.windows k }.endCmd c.id 0 0 else s.endCmd c.id 0x0B 0
    | none => s.endCmd c.id 0x0B 0)

/-- MAP_APERTURE maps a segment of the context's own function. A valid mapping must start within the context's reach (log 22, DESIGN CHOICE). -/
def execMapAperture (q : QueueId) (s : State) : Out :=
  .next (s.runCmd q 0x0A noWait fun c s =>
    let n : CtxId := Fin.ofNat 64 c.ctx
    let x := s.ctx n.val
    let a := (c.w 2).toNat
    let f := c.w 3
    if f.flag 2 && (s.localFault n.val a 4096 (!f.flag 0 && f.flag 1)).isSome then s.endCmd c.id 0x0B 0
    else { s with aps := tset s.aps (fnKey x.port x.slot * 16 + (c.w 1).fld 0 4) (⟨n, a, f.flag 0, f.flag 1, f.flag 2⟩ : Aperture) }.endCmd c.id 0 0)

/-! CC_RUN (R150, R486, R495). -/

/-- A control core can take one more program, of this context. -/
def State.canPlace (s : State) (n k : Nat) : Bool :=
  decide (4 ≤ k) && decide (k < 16) && !s.fwCores.contains k && !s.shut.contains (mkUnit 8 0 k 7 0xFFFF) &&
    decide ((s.progs.filter fun p => p.core == k).length < 16) && !(s.progs.any fun p => p.core == k && p.ctx.val == n)

/-- The control core of a CC_RUN: the named one, or with ANY the firmware's choice while it has room, else the lowest that has. -/
def State.placeFor (s : State) (n : Nat) (c : Cmd) (chosen : Nat) : Option Nat :=
  if (c.w 2).flag 4 then (if s.canPlace n chosen then some chosen else (List.range 16).find? (s.canPlace n))
  else if s.canPlace n ((c.w 2).fld 0 4) then some ((c.w 2).fld 0 4) else none

def execCcRun (q : QueueId) (chosen : Fin 16) (s : State) : Out :=
  .next (s.runCmd q 0x0B noWait fun c s =>
    let n : CtxId := Fin.ofNat 64 c.ctx
    match s.placeFor n.val c chosen.val with
    | none => s.endCmd c.id 0x05 0
    | some k =>
      let old := tget Core.reset s.ccRegs (k * 64 + n.val)
      let x : Core := { old.cleared with ctx := n, pc := (c.w 1).setWidth 48, nextFid := max old.nextFid (fidBase n.val) }
      let s1 := s.clearFaultRegs n.val
      let s2 := { s1 with ccRegs := tset s1.ccRegs (k * 64 + n.val) x,
                          progs := s1.progs ++ [(⟨n, k, (c.w 3).fld 0 32, c.id, false, 0, false⟩ : CcProg)] }
      s2.modCtx n.val fun y => { y with st := .running })

end Sys2Proof.Machine
end

