-- ==== Sys2Proof/Machine/Vector.lean ====
section
/-! DEFINITION. The vector engine (06_vector_engine.md): dispatch of its instructions, their results, and the landing of their
tiles. An instruction starts once the tiles of its first step can be read, and its sources are read once all of them can (R201; log 12,
DESIGN CHOICE). -/

namespace Sys2Proof.Machine

/-! Dispatch (R231 to R233). -/

/-- The bits of MOD that an instruction has no field for hold 0. -/
def modBits (b : Body) (allowed : Nat) : Bool := modOf b &&& (1023 - allowed) == 0

/-- VEPI as the sequencer knows it: the value of the last vset of VEPI that it dispatched (R85, R228). (log 30, DEDUCED) -/
def Core.vepiNow (c : Core) : Word :=
  match (c.vq.filter fun e => e.cls == 0xC && e.op == 0x09 && !e.null && modOf e.body % 8 == 0).getLast? with
  | some e => e.a
  | none => c.vx.vepi

/-- OTYPE of a VEPI value. -/
def vepiType (w : Word) : Nat := w.fld 4 4

/-- ILLEGAL_OPERAND when a condition fails, else the rest. -/
def need (ok : Bool) (rest : Option (FaultCode × Nat)) : Option (FaultCode × Nat) :=
  if ok then rest else some (.illegalOperand, 0)

/-- A type that vcvt, vunp and the epilogues convert to or from (R218). -/
def cvtType (t : Nat) : Bool := t ≤ 0x4 || t == 0x8 || t == 0x9

/-- A vector instruction in T format. `allowed` are the MOD bits of its fields, `ok` what they must hold (R232, R672), and the groups those of
R146. -/
def vecOp (cls op : Nat) (used : Body → List Nat) (allowed : Nat) (ok : Body → Bool) (groups : Body → List (Nat × Nat))
    (cid : CoreId) (b : Body) (s : State) : Out :=
  .next (dispatchEng cid .vx ⟨cls, op, .t, used b⟩ b (modBits b allowed && ok b) noPriv
    (fun _ _ => need ((groups b).all fun g => groupOk g.1 g.2) none) none s)

/-- The groups of an elementwise instruction: destination, TA, and the sources that BR reads whole. -/
def elemGroups (srcs : List Nat) (b : Body) : List (Nat × Nat) :=
  let n := gnOf b
  (bf b 40 7, n) :: (bf b 33 7, n) :: srcs.map fun lo => (bf b lo 7, if brOf b = 0 then n else 1)

/-- GN and BR. -/
def mElem : Nat := 0x3C0
def always : Body → Bool := fun _ => true

def execVadd := vecOp 0xB 0x00 (fun _ => [0, 1, 2]) mElem always (elemGroups [26])
def execVsub := vecOp 0xB 0x01 (fun _ => [0, 1, 2]) mElem always (elemGroups [26])
def execVmul := vecOp 0xB 0x02 (fun _ => [0, 1, 2]) mElem always (elemGroups [26])
def execVfma := vecOp 0xB 0x03 (fun _ => [0, 1, 2, 3]) mElem always (elemGroups [26, 19])
def execVmin := vecOp 0xB 0x04 (fun _ => [0, 1, 2]) mElem always (elemGroups [26])
def execVmax := vecOp 0xB 0x05 (fun _ => [0, 1, 2]) mElem always (elemGroups [26])
def execVabs := vecOp 0xB 0x06 (fun _ => [0, 1]) mElem always (elemGroups [])
def execVneg := vecOp 0xB 0x07 (fun _ => [0, 1]) mElem always (elemGroups [])
def execVsel := vecOp 0xB 0x08 (fun _ => [0, 1, 2, 3]) mElem always (elemGroups [26, 19])
def execVcmp := vecOp 0xB 0x09 (fun _ => [0, 1, 2]) (mElem + 0xF) (fun b => modOf b % 16 ≤ 3) (elemGroups [26])
def execVact := vecOp 0xB 0x0A (fun _ => [0, 1]) (mElem + 0xF) (fun b => modOf b % 16 != 0xF) (elemGroups [])
def execVdrop := vecOp 0xB 0x0B (fun _ => [0, 1]) mElem always (elemGroups [])
def execVrand := vecOp 0xB 0x0C (fun _ => [0]) mElem always fun b => [(bf b 40 7, gnOf b)]
def execVtr := vecOp 0xB 0x0D (fun _ => [0, 1]) 0 always fun _ => []

/-- TB is in use when MSK = 1. -/
def maskUsed (b : Body) : List Nat := if modOf b / 2 % 2 = 1 then [0, 1, 2] else [0, 1]
/-- The groups of a masked instruction over n tiles with `d` destination tiles. -/
def maskGroups (d : Body → Nat) (b : Body) : List (Nat × Nat) :=
  let n := gnOf b
  [(bf b 40 7, d b), (bf b 33 7, n)] ++ if modOf b / 2 % 2 = 1 then [(bf b 26 7, n)] else []

def execVred := vecOp 0xC 0x00 maskUsed 0x3FE (fun b => modOf b / 32 % 8 ≤ 5 && modOf b / 8 % 4 != 3)
  (maskGroups fun b => if modOf b / 8 % 4 = 1 then gnOf b else 1)
def execVfin := vecOp 0xC 0x01 (fun _ => [0, 1]) 0x318 (fun b => modOf b / 8 % 4 != 3)
  fun b => [(bf b 40 7, gnOf b), (bf b 33 7, gnOf b)]
def execVsmax := vecOp 0xC 0x02 maskUsed 0x302 always (maskGroups gnOf)
def execVlnorm := vecOp 0xC 0x03 maskUsed 0x302 always (maskGroups gnOf)

/-- TYPE of a conversion. -/
def cvTy (b : Body) : Nat := modOf b / 16 % 16
/-- Elements per 32-bit word of a type. -/
def perWord (t : Nat) : Nat := 32 / typeBits t

def execVcvt := vecOp 0xC 0x04 (fun _ => [0, 1]) 0x3FE (fun b => cvtType (cvTy b) && perWord (cvTy b) ≤ gnOf b)
  fun b => [(bf b 40 7, gnOf b / perWord (cvTy b)), (bf b 33 7, gnOf b)]
def execVunp := vecOp 0xC 0x05 (fun _ => [0, 1]) 0x3F0 (fun b => cvtType (cvTy b) && perWord (cvTy b) ≤ gnOf b)
  fun b => [(bf b 40 7, gnOf b), (bf b 33 7, gnOf b / perWord (cvTy b))]

/-- vcvtmx: TB may not be TD (R220). -/
def execVcvtmx (cid : CoreId) (b : Body) (s : State) : Out :=
  .next (dispatchEng cid .vx ⟨0xC, 0x06, .t, [0, 1, 2]⟩ b (modBits b 0xFC && 5 ≤ cvTy b && cvTy b ≤ 7) noPriv
    (fun _ _ => need (bf b 40 7 != bf b 26 7 && groupOk (bf b 33 7) (if cvTy b = 7 then 8 else 4)) none) none s)

/-- vepi: n must be at least w of VEPI's OTYPE, and the groups follow R146. -/
def execVepi (cid : CoreId) (b : Body) (s : State) : Out :=
  .next (dispatchEng cid .vx ⟨0xC, 0x07, .t, [0, 1, 2]⟩ b (modBits b 0x300) noPriv
    (fun _ t =>
      let w := perWord (vepiType (t.core (coreKey cid)).vepiNow)
      need (decide (w ≤ gnOf b) && groupOk (bf b 40 7) (gnOf b / w) && groupOk (bf b 33 7) (gnOf b)) none) none s)

/-- The scratchpad ranges that vepis reads and writes (R223). -/
def vepisRanges (v : Word) (b : Body) (q : QEntry) : List (Nat × Nat) :=
  let n := gnOf b
  (rowAddrs q.a q.b 32).map (fun a => (a, n * 32 * typeBits (vepiType v) / 8)) ++
    (if v.flag 11 then [(q.c.toNat, n * 128)] else []) ++ (if v.flag 12 then [(q.c.toNat + n * 128, n * 128)] else [])

def execVepis (cid : CoreId) (b : Body) (s : State) : Out :=
  let k := coreKey cid
  .next (dispatchEng cid .vx ⟨0xC, 0x08, .ts, [0, 1, 2, 3]⟩ b (modBits b 0x300) noPriv
    (fun q t =>
      let v := (t.core k).vepiNow
      need (decide (perWord (vepiType v) ≤ gnOf b) && groupOk (bf b 40 7) (gnOf b))
        (scratchChk k [q.a.toNat, q.b.toNat, q.c.toNat] (vepisRanges v b q))) none s)

/-- A value that vset accepts for a register (R228, R233). -/
def vsetOk (sel : Nat) (v : Word) : Bool :=
  match sel with
  | 0 => v.fld 14 50 == 0 && v.fld 0 4 != 0xF && cvtType (vepiType v)
  | 4 => v.fld 16 16 == 0
  | 5 => v.fld 32 32 == 0
  | 7 => false
  | _ => true

def execVset (cid : CoreId) (b : Body) (s : State) : Out :=
  .next (dispatchEng cid .vx ⟨0xC, 0x09, .ts, [1]⟩ b (modBits b 7 && modOf b % 8 != 7) noPriv
    (fun q _ => need (vsetOk (modOf b % 8) q.a) none) none s)

/-! Sources (R195, R196, R198). -/

/-- An FP32 element of a tile at its true value, rounded once (R196). -/
def Tile.elem (t : Tile) (r e : Nat) : Elem :=
  let w := t.at r e
  if t.shift = 0 then w
  else match f32 w with
    | .fin x => rnd32 .rne (x.scale t.shift)
    | _ => w

/-- The tile, row and element that BR selects for element e of row r of source tile j (R198). -/
def brPick (br t j r e : Nat) : Nat × Nat × Nat :=
  match br with
  | 0 => (t + j, r, e)
  | 1 => (t, 0, e)
  | 2 => (t, r, 0)
  | _ => (t, 0, 0)

/-- An FP32 element of a source under BR. -/
def Core.src (c : Core) (br t j r e : Nat) : Elem := let (a, x, y) := brPick br t j r e; (c.tile a).elem x y
/-- A raw word of a source under BR. -/
def Core.raw (c : Core) (br t j r e : Nat) : Elem := let (a, x, y) := brPick br t j r e; (c.tile a).at x y

/-- What one element of a result brings: its word, SAT_HIT, NAN_GEN. -/
abbrev ElemOut := Elem × Bool × Bool

/-- A tile from a function of row and element, with its flags. -/
def mkTile (f : Nat → Nat → ElemOut) : Tile × Bool × Bool :=
  let l := (List.range 1024).map fun i => f (i / 32) (i % 32)
  ({ Tile.zero with words := l.map (·.1) }, l.any (·.2.1), l.any (·.2.2))

/-- `n` tiles from `t` on, made by a function of tile, row and element. -/
def mkTiles (t n : Nat) (f : Nat → Nat → Nat → ElemOut) : List (Nat × Tile) × Bool × Bool :=
  let l := (List.range n).map fun j => (t + j, mkTile (f j))
  (l.map fun x => (x.1, x.2.1), l.any (·.2.2.1), l.any (·.2.2.2))

/-- A result without flags, or with NAN_GEN. -/
def plain (w : Elem) : ElemOut := (w, false, false)
def ofRes (r : Res32) : ElemOut := (r.1, false, r.2)

/-! The generator of a core (R225, R226). -/

/-- The draw of an index under the core's seed, step and tag, the tag changed by `x` (R225). -/
def VxSt.draw (v : VxSt) (x i : Nat) : Nat := genDraw v.vseed (v.vstep.fld 0 48) (Nat.xor (v.vstep.fld 48 16) x) i

/-- The element index of R221 and R226. -/
def VxSt.index (v : VxSt) (j r e : Nat) : Nat := v.vidx.toNat + j * 1024 + r * 32 + e

/-! Packed placement (R160, R218). -/

/-- Word k of row r of packed tile d from a function that gives the code of element e of row r of source tile j. -/
def packWord (t d r k : Nat) (f : Nat → Nat → Nat → Cvt) : ElemOut :=
  let w := perWord t
  let z := typeBits t
  let cs := (List.range w).map fun i => f (d * w + (k * w + i) / 32) r ((k * w + i) % 32)
  let v := (cs.mapIdx fun i c => c.code * 2 ^ (i * z)).foldl (· + ·) 0
  (BitVec.ofNat 32 v, cs.any (·.satHit), cs.any (·.nanGen))

/-- The code of element e of row r of source tile j of a packed group (R219). -/
def Core.packed (c : Core) (t base j r e : Nat) : Nat :=
  let w := perWord t
  let z := typeBits t
  let p := j % w * 32 + e
  bits ((c.tile (base + j / w)).at r (p / w)).toNat (p % w * z) z

/-! Results of one instruction (R203 to R223). The core is as it stands when the instruction starts. -/

/-- Destination tiles, scratchpad rows, SAT_HIT, NAN_GEN, empty lines, a saturated count. -/
structure VecOut where
  out    : List (Nat × Tile)
  rows   : List (Nat × List Byte)
  sat    : Bool
  nan    : Bool
  empty  : Nat
  cntSat : Bool

def vecOf (x : List (Nat × Tile) × Bool × Bool) : VecOut := ⟨x.1, [], x.2.1, x.2.2, 0, false⟩

/-- The elementwise instructions of class 0xB. -/
def Core.vecB (c : Core) (op : Nat) (b : Body) : VecOut :=
  let n := gnOf b
  let br := brOf b
  let td := bf b 40 7
  let a (j r e : Nat) : Elem := c.src 0 (bf b 33 7) j r e
  let x (j r e : Nat) : Elem := c.src br (bf b 26 7) j r e
  let y (j r e : Nat) : Elem := c.src br (bf b 19 7) j r e
  let t16 := c.vx.vdrop.fld 0 16
  let keep : Elem := (c.vx.vdrop >>> 32).setWidth 32
  let el (f : Nat → Nat → Nat → ElemOut) : VecOut := vecOf (mkTiles td n f)
  match op with
  | 0x00 => el fun j r e => ofRes (add32 (a j r e) (x j r e))
  | 0x01 => el fun j r e => ofRes (sub32 (a j r e) (x j r e))
  | 0x02 => el fun j r e => ofRes (mul32 (a j r e) (x j r e))
  | 0x03 => el fun j r e => ofRes (fma32 (a j r e) (x j r e) (y j r e))
  | 0x04 => el fun j r e => plain (min32 (a j r e) (x j r e))
  | 0x05 => el fun j r e => plain (max32 (a j r e) (x j r e))
  | 0x06 => el fun j r e => plain (if isNan32 (a j r e) then nan32 else a j r e &&& 0x7FFFFFFF)
  | 0x07 => el fun j r e => plain (if isNan32 (a j r e) then nan32 else a j r e ^^^ 0x80000000)
  | 0x08 => el fun j r e => plain (if c.raw br (bf b 19 7) j r e ≠ 0 then a j r e else x j r e)
  | 0x09 => el fun j r e =>
      let p := a j r e
      let q := x j r e
      let t := match modOf b % 16 with
        | 0 => eq32 p q
        | 1 => !(isNan32 p || isNan32 q) && !eq32 p q
        | 2 => lt32 p q
        | _ => le32 p q
      plain (if t then 1 else 0)
  | 0x0A => el fun j r e => ofRes (actFn (modOf b % 16) (c.vx.vparam.setWidth 32) (a j r e))
  | 0x0B => el fun j r e => if c.vx.draw 0 (c.vx.index j r e) < t16 then plain 0 else ofRes (mul32 (a j r e) keep)
  | 0x0C => el fun j r e => plain (BitVec.ofNat 32 (c.vx.draw 0 (c.vx.index j r e)))
  | _ =>
    let t := c.tile (bf b 33 7)
    let z := (mkTile fun r e => plain (t.at e r)).1
    ⟨[(td, { z with shift := t.shift, susp := t.susp })], [], false, false, 0, false⟩

/-- The lines of a reduction with the tile, row and element steps of their state words, and their leaves (R208). -/
structure Line where
  depth : Nat
  leaf  : Nat → RedSt
  rows  : Bool

/-- The state of a row line over the whole group (R208, R210). -/
def redRow (red n vpos : Nat) (x : Nat → Nat → Nat → Elem) (en : Nat → Nat → Nat → Bool) (pos : Nat → Nat → Nat → Nat) (r : Nat) :
    RedSt :=
  redTree red (fun i => if en (i / 32) r (i % 32) then redLeaf red (x (i / 32) r (i % 32)) (vpos + pos (i / 32) r (i % 32)) else redNone)
    (5 + Nat.log2 n) 0

/-- vred (R208 to R214); the FP32 words of a prior state are taken at their true value (R196). -/
def Core.vred (c : Core) (b : Body) : VecOut :=
  let n := gnOf b
  let red := modOf b / 32 % 8
  let ax := modOf b / 8 % 4
  let acc := modOf b / 4 % 2 = 1
  let msk := modOf b / 2 % 2 = 1
  let td := bf b 40 7
  let x (j r e : Nat) : Elem := c.src 0 (bf b 33 7) j r e
  let en (j r e : Nat) : Bool := !msk || c.raw 0 (bf b 26 7) j r e != 0
  let vpos := c.vx.vpos.fld 0 32
  let line (j r e : Nat) : RedSt :=
    match ax with
    | 0 => redRow red n vpos x en (fun j _ e => j * 32 + e) r
    | 1 => redTree red (fun i => if en j i e then redLeaf red (x j i e) (vpos + i) else redNone) 5 0
    | _ => redTree red (fun r => redRow red n vpos x en (fun j r e => r * 32 * n + j * 32 + e) r) 5 0
  let prior (t r e : Nat) (k : Nat) : Elem :=
    let w := c.tile t
    let (x, y) := if ax = 1 then (k, e) else (r, k)
    if k = 0 ∨ (k = 1 ∧ red = 5) then w.elem x y else w.at x y
  let final (t j r e : Nat) : RedSt :=
    let new := line j r e
    if acc then
      redCombine red ⟨prior t r e 0, prior t r e 1, (prior t r e 2).toNat, false⟩ new
    else new
  let cells : List (Nat × Nat × Nat × RedSt) :=
    match ax with
    | 0 => (List.range 32).map fun r => (0, r, 0, final td 0 r 0)
    | 1 => (List.range (32 * n)).map fun i => (i / 32, 0, i % 32, final (td + i / 32) (i / 32) 0 (i % 32))
    | _ => [(0, 0, 0, final td 0 0 0)]
  let wordOf (j r e : Nat) : Elem :=
    match cells.find? fun x => x.1 == j && (if ax == 1 then x.2.2.1 == e && decide (r < 4) else x.2.1 == r && decide (e < 4)) with
    | some x => (redWords red x.2.2.2).getD (if ax = 1 then r else e) 0
    | none => 0
  let tiles := mkTiles td (if ax = 1 then n else 1) fun j r e => plain (wordOf j r e)
  ⟨tiles.1, [], false, cells.any fun x => x.2.2.2.nan,
    if red = 5 then (cells.filter fun x => x.2.2.2.cnt == 0).length else 0, cells.any fun x => decide (0xFFFFFFFF < x.2.2.2.cnt)⟩

/-- vfin (R215). (log 31, DEDUCED) -/
def Core.vfin (c : Core) (b : Body) : VecOut :=
  let n := gnOf b
  let ax := modOf b / 8 % 4
  let ta := bf b 33 7
  let isState (r e : Nat) : Bool := if ax = 0 then e < 4 else if ax = 1 then r < 4 else r == 0 && e < 4
  let st (j r e k : Nat) : Elem :=
    let w := c.tile (ta + j)
    let (x, y) := if ax = 1 then (k, e) else (r, k)
    if k < 2 then w.elem x y else w.at x y
  let val (j r e : Nat) : ElemOut :=
    let k := if ax = 1 then r else e
    if !isState r e then plain 0
    else
      let w2 := st j r e 2
      if w2 = 0 then plain ((redWords 5 redNone).getD k 0)
      else if k = 1 then
        match f32 (st j r e 1) with
        | .fin v => plain (rnd32 .rne (Ex.div v (Ex.ofNat w2.toNat 0)))
        | .inf g => plain (inf32 g)
        | .nan => plain nan32
      else plain (st j r e k)
  let tiles := mkTiles (bf b 40 7) n val
  let lines : List (Nat × Nat × Nat) := (List.range n).flatMap fun j =>
    if ax = 2 then [(j, 0, 0)] else (List.range 32).map fun i => if ax = 0 then (j, i, 0) else (j, 0, i)
  { vecOf tiles with empty := (lines.filter fun x => st x.1 x.2.1 x.2.2 2 == 0).length }

/-- vsmax and vlnorm (R216, R217). -/
def Core.vrow (c : Core) (norm : Bool) (b : Body) : VecOut :=
  let n := gnOf b
  let msk := modOf b / 2 % 2 = 1
  let x (j r e : Nat) : Elem := c.src 0 (bf b 33 7) j r e
  let en (j r e : Nat) : Bool := !msk || c.raw 0 (bf b 26 7) j r e != 0
  let any (r : Nat) : Bool := (List.range (32 * n)).any fun i => en (i / 32) r (i % 32)
  let pos (j _r e : Nat) : Nat := j * 32 + e
  let rowOf (r : Nat) : (Nat → Nat → ElemOut) × Bool :=
    if !any r then (fun _ _ => plain 0, false)
    else if norm then
      let s := redRow 5 n 0 x en pos r
      let (v, g1) := match f32 s.aux with
        | .fin m => (rnd32 .rne (Ex.div m (Ex.ofNat s.cnt 0)), false)
        | .inf k => (inf32 k, false)
        | .nan => (nan32, false)
      let (t, g2) := add32 v ((c.vx.vparam >>> 32).setWidth 32)
      let (q, g3) := actFn 0xB 0 t
      (fun j e => if en j r e then
          let (d, f1) := sub32 (x j r e) s.v
          let (y, f2) := mul32 d q
          (y, false, f1 || f2)
        else plain 0, s.nan || g1 || g2 || g3)
    else
      let m := (redRow 3 n 0 x en pos r).v
      let ex (j e : Nat) : Res32 :=
        let (d, f1) := sub32 (x j r e) m
        let (y, f2) := actFn 0x8 0 d
        (y, f1 || f2)
      let s := redTree 0 (fun i => if en (i / 32) r (i % 32) then ⟨(ex (i / 32) (i % 32)).1, 0, 1, false⟩ else redNone)
        (5 + Nat.log2 n) 0
      (fun j e => if en j r e then
          let (y, f) := div32 (ex j e).1 s.v
          (y, false, f || (ex j e).2)
        else plain 0, s.nan)
  let rows := (List.range 32).map rowOf
  let tiles := mkTiles (bf b 40 7) n fun j r e =>
    match rows[r]? with
    | some (f, _) => f j e
    | none => plain 0
  { vecOf tiles with nan := tiles.2.2 || rows.any (·.2), empty := ((List.range 32).filter fun r => !any r).length }

/-- The rounding of a conversion of element index `i` (R145, R225). -/
def Core.cvtRnd (c : Core) (numctl : Word) (code i : Nat) : Rnd :=
  rndOf code (getFld numctl CTX_NUMCTL.CVT_RND) (c.vx.draw 0x8000 i)
/-- A rounding code selects stochastic rounding. -/
def isSr (numctl : Word) (code : Nat) : Bool := (if code = 0 then getFld numctl CTX_NUMCTL.CVT_RND + 1 else code) == 3
/-- Saturation: the bit, or CTX_NUMCTL.CVT_SAT (R145). -/
def satOf (numctl : Word) (bit : Bool) : Bool := bit || getFld numctl CTX_NUMCTL.CVT_SAT == 1

/-- vcvt, vunp and vcvtmx (R218 to R220). (log 31, DEDUCED) -/
def Core.vconv (c : Core) (q : QEntry) : VecOut :=
  let b := q.body
  let t := cvTy b
  let n := gnOf b
  let td := bf b 40 7
  let ta := bf b 33 7
  let rnd := modOf b / 4 % 4
  match q.op with
  | 0x04 =>
    let sat := satOf q.numctl (modOf b / 2 % 2 == 1)
    let f (j r e : Nat) : Cvt := convertType t (c.cvtRnd q.numctl rnd (c.vx.index j r e)) sat (f32 (c.src 0 ta j r e))
    vecOf (mkTiles td (n / perWord t) fun d r k => packWord t d r k f)
  | 0x05 =>
    vecOf (mkTiles td n fun j r e =>
      let v := typeFv t (c.packed t ta j r e)
      let g := (c.tile (ta + j / perWord t)).shift
      match v with
      | .fin x => plain (rnd32 .rne (x.scale g))
      | .inf k => plain (inf32 k)
      | .nan => plain nan32)
  | _ =>
    let nb := if t = 7 then 8 else 4
    let blk (j r : Nat) : Nat × List Cvt :=
      mxBlock t (fun e => c.cvtRnd q.numctl rnd (c.vx.index j r e)) ((List.range 32).map fun e => f32 (c.src 0 ta j r e))
    let blks := (List.range nb).map fun j => (List.range 32).map fun r => blk j r
    let get (j r : Nat) : Nat × List Cvt := (blks.getD j []).getD r (0, [])
    let el := mkTiles td 1 fun d r k => packWord t d r k fun j r e => (get j r).2.getD e ⟨0, false, false⟩
    let sc := (mkTile fun r e => plain (BitVec.ofNat 32 (leNat ((List.range 4).map fun i =>
      let o := r * 128 + 4 * e + i
      BitVec.ofNat 8 (if o < 32 * nb then (get (o % nb) (o / nb)).1 else 0))))).1
    ⟨el.1 ++ [(bf b 26 7, sc)], [], el.2.1, el.2.2, 0, false⟩

/-- The converted element of the epilogue (R221): `x` stored with tag `g`, its scale and bias. -/
def Core.epilogue (c : Core) (numctl : Word) (x : Elem) (g : Nat) (scale bias : Elem) (i : Nat) : Cvt :=
  let v := c.vx.vepi
  let xf := match f32 x with | .fin e => Fv.fin (e.scale g) | o => o
  let (p, g1) := if v.flag 11 then mulFv xf (f32 scale) else (xf, false)
  let (y, g2) := if v.flag 12 then addFv p (f32 bias) else (p, false)
  let yr := (toF32 .rne (y, false)).1
  let nan1 := (g1 && (!v.flag 12 || f32 bias != .nan)) || g2
  let (z, g3) := actFn (v.fld 0 4) (c.vx.vparam.setWidth 32) yr
  let (d, g4) :=
    if v.flag 13 then
      (if c.vx.draw 0 i < c.vx.vdrop.fld 0 16 then ((0 : Elem), false) else mul32 z ((c.vx.vdrop >>> 32).setWidth 32))
    else (z, false)
  let o := convertType (vepiType v) (c.cvtRnd numctl (v.fld 8 2) i) (satOf numctl (v.flag 10)) (f32 d)
  { o with nanGen := o.nanGen || nan1 || g3 || g4 }

/-- vepi and vepis (R221 to R223); `mem` reads an FP32 parameter of vepis from the scratchpad. -/
def Core.vepilogue (c : Core) (q : QEntry) (mem : Nat → Elem) : VecOut :=
  let b := q.body
  let n := gnOf b
  let v := c.vx.vepi
  let t := vepiType v
  let toSp := q.op = 0x08
  let base := if toSp then bf b 40 7 else bf b 33 7
  let pt := c.tile (bf b 26 7)
  let scale (j e : Nat) : Elem := if toSp then mem (q.c.toNat + (j * 32 + e) * 4) else pt.elem j e
  let bias (j e : Nat) : Elem := if toSp then mem (q.c.toNat + n * 128 + (j * 32 + e) * 4) else pt.elem (8 + j) e
  let f (j r e : Nat) : Cvt :=
    let x := c.tile (base + j)
    c.epilogue q.numctl (x.at r e) x.shift (scale j e) (bias j e) (c.vx.index j r e)
  if toSp then
    let z := typeBits t
    let cells := (List.range 32).map fun r => (List.range (n * 32)).map fun p => f (p / 32) r (p % 32)
    let rows := cells.map fun l =>
      leBytes (n * 32 * z / 8) ((l.mapIdx fun p x => x.code * 2 ^ (p * z)).foldl (· + ·) 0)
    ⟨[], (rowAddrs q.a q.b 32).zip rows, cells.any fun l => l.any (·.satHit), cells.any fun l => l.any (·.nanGen), 0, false⟩
  else vecOf (mkTiles (bf b 40 7) (n / perWord t) fun d r k => packWord t d r k f)

/-- How many tiles an instruction draws for, by which VIDX advances (R226). -/
def Core.vecDraws (c : Core) (q : QEntry) : Nat :=
  let n := gnOf q.body
  let sr := isSr q.numctl (modOf q.body / 4 % 4)
  if q.cls = 0xB then (if q.op = 0x0B ∨ q.op = 0x0C then n else 0)
  else match q.op with
    | 0x04 => if sr then n else 0
    | 0x06 => if sr then (if cvTy q.body = 7 then 8 else 4) else 0
    | 0x07 => if c.vx.vepi.flag 13 || isSr q.numctl (c.vx.vepi.fld 8 2) then n else 0
    | 0x08 => if c.vx.vepi.flag 13 || isSr q.numctl (c.vx.vepi.fld 8 2) then n else 0
    | _ => 0

/-- The results of a vector instruction. -/
def Core.vecOut (c : Core) (q : QEntry) (mem : Nat → Elem) : VecOut :=
  if q.cls = 0xB then c.vecB q.op q.body
  else match q.op with
    | 0x00 => c.vred q.body
    | 0x01 => c.vfin q.body
    | 0x02 => c.vrow false q.body
    | 0x03 => c.vrow true q.body
    | 0x07 => c.vepilogue q mem
    | 0x08 => c.vepilogue q mem
    | _ => c.vconv q

/-! Start and landing (R199 to R202). -/

/-- vset writes its register when it reaches the head of the queue (R202, R228). -/
def VxSt.set (v : VxSt) (sel : Nat) (w : Word) : VxSt :=
  match sel with
  | 0 => { v with vepi := w }
  | 1 => { v with vseed := w }
  | 2 => { v with vstep := w }
  | 3 => { v with vidx := w }
  | 4 => { v with vdrop := w }
  | 5 => { v with vpos := w }
  | _ => { v with vparam := w }

/-- The scratchpad parameters that vepis reads (R223). -/
def Core.vepisReads (c : Core) (q : QEntry) : List (Nat × Nat) :=
  let n := gnOf q.body
  if q.cls = 0xC ∧ q.op = 0x08 then
    (if c.vx.vepi.flag 11 then [(q.c.toNat, n * 128)] else []) ++ (if c.vx.vepi.flag 12 then [(q.c.toNat + n * 128, n * 128)] else [])
  else []

/-- The vector state registers as a list, and a core whose registers hold such a list: those that govern an instruction are the ones of its
start (R228). -/
def VxSt.params (v : VxSt) : List Word := [v.vepi, v.vseed, v.vstep, v.vidx, v.vdrop, v.vpos, v.vparam]
def Core.withParams (c : Core) (l : List Word) : Core :=
  let w (i : Nat) : Word := l.getD i 0
  { c with vx := { c.vx with vepi := w 0, vseed := w 1, vstep := w 2, vidx := w 3, vdrop := w 4, vpos := w 5, vparam := w 6 } }

/-- The tiles that a vector instruction reads. vepi without scale and bias reads no parameter tile (R199, R222). -/
def Core.vecReads (c : Core) (q : QEntry) : List Nat :=
  if q.cls = 0xC ∧ q.op = 0x07 ∧ c.vx.vepi.flag 11 = false ∧ c.vx.vepi.flag 12 = false then Sys2Proof.Machine.group (bf q.body 33 7) (gnOf q.body)
  else (q.tiles 0).1

/-- The tiles of the first step among those that are read: the first of each source (R199, R201). -/
def QEntry.firstStep (q : QEntry) (rd : List Nat) : List Nat :=
  let b := q.body
  let heads := if q.cls = 0xC ∧ q.op = 0x08 then [bf b 40 7] else [bf b 33 7, bf b 26 7, bf b 19 7]
  rd.filter fun t => heads.contains t

/-- The read port of R102 through which a tile is read: source A, B or C. -/
def QEntry.vecSrc (q : QEntry) (t : Nat) : Nat :=
  let b := q.body
  let n := gnOf b
  if q.cls = 0xB ∧ (q.op = 0x03 ∨ q.op = 0x08) ∧ (srcGroup (brOf b) (bf b 19 7) n).contains t = true then 2
  else if (group (bf b 33 7) n).contains t then 0
  else if q.cls = 0xC ∧ q.op = 0x00 ∧ (modOf b / 2 % 2 = 0 ∨ (group (bf b 26 7) n).contains t = false) then 2
  else 1

/-- The instruction started last reads its sources and computes, once every one of them can be read; a tile or parameter read poisoned is a
fault (R89, R201, R241). -/
def State.readVec (s : State) (key : Nat) : State :=
  let c := s.core key
  match c.vx.run with
  | none => s
  | some r =>
    let q := r.entry
    let k := c.withParams r.par
    let rd := k.vecReads q
    if !r.unread || !c.canRead q.seq rd then s
    else
      let start := r.par.getD 3 0
      let drop : State := s.modCore key fun c => { c with vx := { c.vx with
        run := none, vidx := if c.vx.vidx == start + BitVec.ofNat 64 (1024 * r.draws) then start else c.vx.vidx } }
      match rd.find? fun t => !(c.tile t).poison.isEmpty with
      | some t => (drop.tileRecord key t q.cls q.op q.pc).engFault key .vx q .memoryError 0
      | none =>
        match s.badIn (k.vepisReads q) with
        | some a => (drop.poisonRecord a (some c.ctx)).engFault key .vx q .memoryError a
        | none =>
          let o := k.vecOut q fun a => BitVec.ofNat 32 (s.readNat a 4)
          let susp := rd.any fun t => (c.tile t).susp
          let out := o.out.map fun x => (x.1, { x.2 with susp := x.2.susp || susp })
          let s1 := (rd.foldl (fun s t => s.tilesRead key (portVx false (q.vecSrc t)) [t]) s).padServed key padVx (k.vepisReads q)
          s1.modCore key fun c =>
            { c with vx := { c.vx with run := some { r with
              unread := false, out := out, rows := o.rows, susp := susp, satHit := o.sat, nanGen := o.nan, empty := o.empty,
              cntSat := o.cntSat } } }

/-- A vector instruction starts: vset completes at the head of the queue; the others take the vector state as it stands, and read their
sources at once where they can (R84, R201, R202, R228). The instruction before it goes on landing. -/
def State.startVec (s : State) (key : Nat) (q : QEntry) : State :=
  let c := s.core key
  let s1 := s.popQueue key .vx
  if q.cls = 0xC ∧ q.op = 0x09 then
    (s1.modCore key fun c => { c with vx := c.vx.set (modOf q.body % 8) q.a }).complete key q 0
  else
    let n := c.vecDraws q
    let s2 := s1.modCore key fun c =>
      { c with vx := { c.vx with vidx := c.vx.vidx + BitVec.ofNat 64 (1024 * n), landing := c.vx.landing ++ c.vx.run.toList,
                                 run := some ⟨q, [], [], false, n, false, false, 0, false, true, c.vx.params⟩ } }
    s2.readVec key

/-- The head of the vector queue can start: vset always; another instruction once the one before it has read its last source and its own first
step can be read (R201, R202). -/
def Core.vecReady (c : Core) (q : QEntry) : Bool :=
  (q.cls == 0xC && q.op == 0x09) ||
    ((match c.vx.run with | some r => !r.unread | none => true) && c.canRead q.seq (q.firstStep (c.vecReads q)))

/-- What the lane residue found while a tile was computed (R534, R543). -/
def State.residueRecord (s : State) (key : Nat) (q : QEntry) (r : Residue) : State :=
  let c := s.core key
  let u (lane : Fin 256) : UnitCode := mkUnit (keyDie key) (keyCl key) (s.physCore key) engVx lane.val
  match r with
  | .clean => s
  | .onceBad l => s.quickRecord (mkDet 0x02 (u l) (some c.ctx) 0 1 1 q.cls q.op 0 (BitVec.ofNat 64 q.pc)) 1 1 0x02 true
  | .twiceBad l => s.quickRecord (mkDet 0x02 (u l) (some c.ctx) 1 1 1 q.cls q.op 0 (BitVec.ofNat 64 q.pc)) 2 1 0x02 true

/-- An injection armed at a lane makes its next result disagree once (R562). -/
def State.laneInjected (s : State) (key : Nat) (found : Residue) : Residue :=
  match found, s.injSub 0x02 (mkUnit (keyDie key) (keyCl key) (s.physCore key) engVx 0) with
  | .clean, some l => .onceBad (Fin.ofNat 256 l)
  | r, _ => r

/-- The vector instruction of index `i`: the one started last, or one of those before it that still land, oldest first (R201). -/
def VxSt.runAt (v : VxSt) (i : Nat) : Option VxRun := match i with | 0 => v.run | j + 1 => v.landing[j]?
/-- That instruction changed, or gone once it has completed. -/
def VxSt.setRun (v : VxSt) (i : Nat) (r : Option VxRun) : VxSt :=
  match i, r with
  | 0, r => { v with run := r }
  | j + 1, some r => { v with landing := v.landing.set j r }
  | j + 1, none => { v with landing := v.landing.eraseIdx j }

/-- A vector instruction has landed its last tile: the scratchpad rows of vepis are written, the status registers gather its events, and it
completes (R82, R202, R230). -/
def State.endVec (s : State) (key : Nat) (r : VxRun) : State :=
  let n := (s.core key).ctx.val
  let s1 := (r.rows.foldl (fun s x => s.writeMem x.1 x.2 false) s).padServed key padVx (r.rows.map fun x => (x.1, x.2.length))
  let s2 := (s1.numFlags n r.satHit r.nanGen).vxFlags n r.empty r.cntSat
  (s2.pmcOwn key 0x022 (1024 * r.draws)).complete key r.entry (if r.rows.isEmpty then 0 else r.entry.a.toNat)

/-- The next destination tile of a running vector instruction lands once it has read its sources and the scoreboard permits the write; with the
last one it completes (R89, R199, R202). -/
def State.landVec (s0 : State) (key i : Nat) (found : Residue) : State :=
  let s := if i = 0 then s0.readVec key else s0
  let c := s.core key
  let res := s.laneInjected key found
  match c.vx.runAt i with
  | none => s
  | some r =>
    if !r.unread && c.canWrite r.entry.seq ((r.out.take 1).map (·.1)) then
      let s1 := (s.residueRecord key r.entry res).tilesWritten key (portVx true 0) ((r.out.take 1).map (·.1))
      let left := r.out.drop 1
      let s2 := s1.modCore key fun c =>
        let c1 := match r.out with | (t, x) :: _ => c.setTile t x | [] => c
        { c1 with vx := c1.vx.setRun i (if left.isEmpty then none else some { r with out := left }) }
      if left.isEmpty then s2.endVec key r else s2
    else s

/-- VECTOR_TILE_LAND for the instruction of index `i` of a core's vector engine. -/
def execVectorTileLand (cid : CoreId) (l : VecLand) (s : State) : Out := .next (s.landVec (coreKey cid) l.place l.residue)

end Sys2Proof.Machine
end

