-- ==== Sys2Proof/Machine/Matrix.lean ====
section
/-! DEFINITION. The matrix engine (05_matrix_engine.md; 02_number_formats.md R57 to R77): dispatch of its instructions, stationary
banks, the results of a fed row, the checksum lines, repeats and replays, landing, tags and ballast. -/

namespace Sys2Proof.Machine

/-! Dispatch (R191 to R193). -/

/-- The slots of an arrangement, and the cells and MAC rows of one (R171). -/
def pkSlots (pk : Nat) : Nat := if pk = 0 then 1 else if pk = 1 then 4 else 16
def pkDim (pk : Nat) : Nat := if pk = 0 then 128 else if pk = 1 then 64 else 32
/-- Ks of an arrangement and a type (R171). -/
def pkK (pk t : Nat) : Nat := if t = 7 then 2 * pkDim pk else pkDim pk
/-- An MX type. -/
def isMx (t : Nat) : Bool := 5 ≤ t && t ≤ 7

/-- PK, EXP, TR, TYPE of an mst. -/
def mstPk (m : Nat) : Nat := m / 256
def mstExp (m : Nat) : Nat := m / 32 % 4
def mstTr (m : Nat) : Bool := m / 16 % 2 == 1
def mstType (m : Nat) : Nat := m % 16
/-- The type that the array sees: after any expansion (R159, R192). -/
def mstTarget (m : Nat) : Nat := if mstExp m = 0 then mstType m else if m / 128 % 2 = 1 then 3 else 1
/-- The load has an auxiliary array (R164). -/
def mstAux (m : Nat) : Bool := isMx (mstType m) || mstExp m != 0

/-- The bytes of the auxiliary array of a slot (R164). -/
def mstAuxLen (m : Nat) : Nat :=
  let ks := pkK (mstPk m) (mstType m)
  let ns := pkDim (mstPk m)
  if isMx (mstType m) then ns * (ks / 32) else if mstExp m = 1 then ns / 32 * (ks / 32) * 32 else ns * (ks / 32) * 4

/-- The rows of stationary memory: count and bytes (R163). -/
def mstRows (m : Nat) : Nat × Nat :=
  let ks := pkK (mstPk m) (mstType m)
  let ns := pkDim (mstPk m)
  let z := typeBits (mstType m)
  if mstTr m then (ns, ks * z / 8) else (ks, ns * z / 8)

/-- The MOD of an mst is one that R64, R192 and R193 permit. -/
def mstModOk (m : Nat) : Bool :=
  let t := mstType m
  mstPk m ≤ 2 && mstExp m ≤ 2 && t ≤ 9 && (mstExp m != 0) == (t == 8 || t == 9) && !(mstExp m == 1 && t == 8)

def execMst (cid : CoreId) (b : Body) (s : State) : Out :=
  let m := modOf b
  let k := coreKey cid
  let used := if mstAux m then [0, 1, 2, 3] else [0, 1, 2]
  .next (dispatchEng cid .mx ⟨0xA, 0x00, .ts, used⟩ b (mstModOk m) noPriv
    (fun q _ =>
      need (decide (bf b 40 7 < pkSlots (mstPk m)))
        (let (n, z) := mstRows m
         scratchChk k ([q.a.toNat, q.b.toNat] ++ if mstAux m then [q.c.toNat] else [])
           ((rowAddrs q.a q.b n).map (fun a => (a, z)) ++ if mstAux m then [(q.c.toNat, mstAuxLen m)] else []))) none s)

/-- The arrangement of the bank that an mmx dispatched now will use: that of the last mst dispatched (R162). (log 30, DEDUCED) -/
def Core.pkNow (c : Core) : Nat := c.pkAt c.seq

/-- SPL, MR, PRE and TYPE of an mmx. -/
def mmxSpl (m : Nat) : Nat := m / 256
def mmxPre (m : Nat) : Nat := m / 16 % 4
def mmxType (m : Nat) : Nat := m % 16

/-- The MOD of an mmx is one that R159 and R192 permit; `ts` marks the scratchpad-fed forms. -/
def mmxModOk (ts : Bool) (m : Nat) : Bool :=
  let t := mmxType m
  decide (m / 64 % 4 ≤ 2) && t ≤ 7 && (ts || t ≤ 4) && !(ts && mmxPre m == 2) &&
    (if t = 0 then mmxSpl m == 1 || mmxSpl m == 2 else mmxSpl m == 0)

/-- A transom-fed mmx. -/
def mmxT (op : Nat) (cid : CoreId) (b : Body) (s : State) : Out :=
  let m := modOf b
  let pre2 := mmxPre m == 2
  .next (dispatchEng cid .mx ⟨0xA, op, .t, if pre2 then [0, 1, 2] else [0, 1]⟩ b (mmxModOk false m) noPriv
    (fun _ _ =>
      let n := 4 * (mRows b / 32)
      let td := bf b 40 7
      let tb := bf b 26 7
      need (groupOk td n && groupOk (bf b 33 7) (streamTiles b) &&
        (!pre2 || (groupOk tb n && (tb == td || !overlap tb n td n)))) none) none s)

/-- A scratchpad-fed mmx. -/
def mmxS (op : Nat) (cid : CoreId) (b : Body) (s : State) : Out :=
  let m := modOf b
  let k := coreKey cid
  let t := mmxType m
  .next (dispatchEng cid .mx ⟨0xA, op, .ts, if isMx t then [0, 1, 2, 3] else [0, 1, 2]⟩ b (mmxModOk true m) noPriv
    (fun q st =>
      let pk := (st.core k).pkNow
      let rows := pkSlots pk * mRows b
      let ks := pkK pk t
      need (groupOk (bf b 40 7) ((if pk = 0 then 4 else if pk = 1 then 8 else 16) * (mRows b / 32)))
        (scratchChk k ([q.a.toNat, q.b.toNat] ++ if isMx t then [q.c.toNat] else [])
          ((rowAddrs q.a q.b rows).map (fun a => (a, ks * typeBits t / 8)) ++
            if isMx t then [(q.c.toNat, rows * (ks / 32))] else []))) none s)

def execMmx := mmxT 0x01
def execMmxn := mmxT 0x02
def execMmxs := mmxS 0x03
def execMmxsn := mmxS 0x04

/-- A matrix instruction without MOD fields. -/
def mxPlain (op : Nat) (fm : IFmt) (used : List Nat) (dest : Option Nat) (cid : CoreId) (b : Body) (s : State) : Out :=
  .next (dispatchEng cid .mx ⟨0xA, op, fm, used⟩ b (modZero b) noPriv (fun _ _ => none) dest s)

def execMbias := mxPlain 0x05 .t [1] none
def execMmask := mxPlain 0x06 .ts [1, 2] none
def execMtagRd (cid : CoreId) (b : Body) (s : State) : Out := mxPlain 0x07 .ts [0, 1] (some (bf b 34 6)) cid b s
def execMtagClr := mxPlain 0x08 .t [0] none

/-! Stationary banks (R162 to R165, R172; 02_number_formats.md R63 to R65). -/

/-- The code of element `i` of a packed memory row. -/
def State.packedAt (s : State) (a z i : Nat) : Nat :=
  if z = 4 then bits (s.readByte (a + i / 2)).toNat (4 * (i % 2)) 4 else s.readNat (a + i * (z / 8)) (z / 8)

/-- An element of the stationary operand after any expansion, with SAT_HIT and NAN_GEN (R62, R63, R164). -/
def State.statElem (s : State) (q : QEntry) (k n : Nat) : Nat × Bool × Bool :=
  let m := modOf q.body
  let t := mstType m
  let z := typeBits t
  let ks := pkK (mstPk m) t
  let row := (q.a + BitVec.ofNat 64 (if mstTr m then n else k) * q.b).toNat
  let code := s.packedAt row z (if mstTr m then k else n)
  if mstExp m = 0 then (code, false, false)
  else if mstExp m = 1 then
    let e := s.readNat (q.c.toNat + (n / 32 * (ks / 32) + k / 32) * 32 + 2 * code) 2
    (if mstTarget m = 3 then e % 256 else e, false, false)
  else
    let p := q.c.toNat + (n * (ks / 32) + k / 32) * 4
    let zp : Int := sext (s.readNat (p + 2) 1) z
    let d : Int := sext code z - zp
    let (v, nan) := mulFv (.fin (Ex.ofInt d)) (decodeFv fmtBF16 (s.readNat p 2))
    let o := convertFv (typeFmt (mstTarget m)) .rne true v
    (o.code, o.satHit, nan)

/-- The slot that an mst loads, and whether an expansion saturated or made a NaN. -/
def State.statSlot (s : State) (q : QEntry) : Slot × Bool × Bool :=
  let m := modOf q.body
  let ks := pkK (mstPk m) (mstType m)
  let ns := pkDim (mstPk m)
  let el := (List.range (ks * ns)).map fun i => s.statElem q (i / ns) (i % ns)
  let sc := if isMx (mstType m) then (List.range (ns * (ks / 32))).map fun i => (s.readByte (q.c.toNat + i)).toNat else []
  (⟨mstTarget m, el.map (·.1), sc⟩, el.any (·.2.1), el.any (·.2.2))

/-- The scratchpad bytes that an mst reads: its rows, then the auxiliary array (R163, R164). -/
def mstReads (q : QEntry) : List (Nat × Nat) :=
  let m := modOf q.body
  let (n, z) := mstRows m
  ((rowAddrs q.a q.b n).map fun a => (a, z)) ++ if mstAux m then [(q.c.toNat, mstAuxLen m)] else []

/-- An mst starts: it opens a run with the next bank in rotation or joins the run that is open (R162, R172). -/
def State.startMst (s : State) (key : Nat) (q : QEntry) : State :=
  let c := s.core key
  let m := modOf q.body
  let s1 := s.popQueue key .mx
  let bank := if c.mx.runOpen then c.mx.cur else if c.mx.filled then (c.mx.cur + 1) % 3 else 0
  if c.mx.runOpen && (tget Bank.empty c.mx.banks bank).mod != m then s1.engFault key .mx q .illegalOperand 0
  else match s.badIn (mstReads q) with
    | some a => (s1.poisonRecord a (some c.ctx)).engFault key .mx q .memoryError a
    | none =>
      let (sl, sat, nan) := s.statSlot q
      let s2 := (s1.numFlags c.ctx.val sat nan).padServed key padMx (mstReads q)
      s2.modCore key fun c =>
        let b0 := if c.mx.runOpen then tget Bank.empty c.mx.banks bank else ⟨m, [], 0⟩
        { c with mx := { c.mx with banks := tset c.mx.banks bank { b0 with loads := b0.loads + 1 }, cur := bank, runOpen := true,
                                   filled := true, loads := c.mx.loads ++ [⟨q, bank, bf q.body 40 7 % 16, sl⟩] } }

/-- The oldest load under way completes (R165). -/
def State.mstDone (s : State) (key : Nat) : State :=
  let c := s.core key
  match c.mx.loads with
  | [] => s
  | r :: rest =>
    let b := tget Bank.empty c.mx.banks r.bank
    let s1 := s.modCore key fun c =>
      { c with mx := { c.mx with loads := rest,
                                 banks := tset c.mx.banks r.bank { b with slots := tset b.slots r.slot r.data, loads := b.loads - 1 } } }
    s1.complete key r.entry r.entry.a.toNat

def execMstLoadComplete (cid : CoreId) (s : State) : Out := .next (s.mstDone (coreKey cid))

/-! The results of a fed row (R57 to R61, R66 to R73, R158 to R161, R179). -/

/-- The passes of a split mode: pieces of the streamed and the stationary operand, hi 0, mid 1, lo 2 (R68). -/
def splitPasses (spl : Nat) : List (Nat × Nat) :=
  if spl = 1 then [(1, 0), (0, 1), (0, 0)]
  else if spl = 2 then [(2, 0), (1, 1), (0, 2), (1, 0), (0, 1), (0, 0)]
  else [(0, 0)]

/-- A piece of an FP32 value, whose sign is flipped before the split by a negating form (R66, R69). -/
def splitPiece (neg : Bool) (w : Nat) (i : Nat) : Fv :=
  let (hi, mid, lo) := splitPieces (BitVec.ofNat 32 w ^^^ if neg then 0x80000000 else 0)
  f32 (if i = 0 then hi else if i = 1 then mid else lo)

/-- An element under way: the accumulator, whether a step or an addend overflowed, and whether a step made a NaN (R60, R62, R70). -/
structure Accum where
  acc  : Fv
  ovf  : Bool
  nan  : Bool

/-- A value scaled by 2^-shift, exact. -/
def scaleFv (v : Fv) (shift : Nat) : Fv := match v with | .fin x => .fin (x.scale (-(shift : Int))) | o => o

/-- An exact addend rounded to FP32 after the shift, and whether it overflows (R58, R59, R72). -/
def rndFv (mode : Rnd) (v : Fv) : Fv × Bool :=
  match v with
  | .fin x => (f32 (rnd32 mode x), ovf32 mode x)
  | o => (o, false)

/-- One accumulation step (R60, R70, R71). -/
def accStep (mode : Rnd) (shift : Nat) (a : Accum) (p : Fv × Bool) : Accum :=
  let (r, o1) := rndFv mode (scaleFv p.1 shift)
  let (t, g) := addFv a.acc r
  let (u, o2) := rndFv mode t
  ⟨u, a.ovf || o1 || o2, a.nan || p.2 || g⟩

/-- The accumulation of an element from its preload over its addends (R60). -/
def accumulate (mode : Rnd) (shift : Nat) (pre : Elem) (ps : List (Fv × Bool)) : Accum :=
  let (r, o) := rndFv mode (scaleFv (f32 pre) shift)
  ps.foldl (accStep mode shift) ⟨r, o, false⟩

/-- The FP32 code of an accumulator. -/
def fvElem (v : Fv) : Elem :=
  match v with
  | .nan => nan32
  | .inf g => inf32 g
  | .fin x => rnd32 .rtz x

/-- The exact sum of the products of a block, with a flag for a NaN made from inputs that hold none (R59, R61, R62). -/
def blockSum (ps : List (Fv × Fv)) : Fv × Bool :=
  let f (acc : Fv × Bool) (x : Fv × Fv) : Fv × Bool :=
    let (p, f) := mulFv x.1 x.2
    let (u, h) := addFv acc.1 p
    (u, acc.2 || f || h)
  match ps with
  | [] => (.fin (Ex.zero false), false)
  | x :: rest =>
    let (v, g) := rest.foldl f (mulFv x.1 x.2)
    (v, g && ps.all fun y => y.1 != .nan && y.2 != .nan)

/-- The exact addends of element (fed row, column n of slot j) in ascending reduction order (R57, R59, R68, R160). -/
def MxRun.addends (r : MxRun) (bank : Bank) (row j n : Nat) : List (Fv × Bool) :=
  let m := modOf r.entry.body
  let t := mmxType m
  let pk := bank.mod / 256
  let ks := pkK pk t
  let ns := pkDim pk
  let neg := r.entry.op == 0x02 || r.entry.op == 0x04
  let st := r.stream.getD row []
  let ss := r.sscales.getD row []
  let sl := tget ⟨mstTarget bank.mod, [], []⟩ bank.slots j
  let a (k : Nat) : Nat := st.getD (j * ks + k) 0
  let b (k : Nat) : Nat := sl.elems.getD (k * ns + n) 0
  let sgn (v : Fv) : Fv := if neg then negFv v else v
  if isMx t then
    (List.range (ks / 32)).map fun g =>
      let sa := ss.getD (j * (ks / 32) + g) 0
      let sb := sl.scales.getD (n * (ks / 32) + g) (if sl.elems.isEmpty then 127 else 0)
      blockSum ((List.range 32).map fun i => (sgn (mxFv t sa (a (32 * g + i))), mxFv sl.typ sb (b (32 * g + i))))
  else if t = 0 then
    let (x, y) := (splitPasses (mmxSpl m)).getD r.pass (0, 0)
    (List.range ks).map fun k => mulFv (splitPiece neg (a k) x) (splitPiece false (b k) y)
  else (List.range ks).map fun k => mulFv (sgn (typeFv t (a k))) (typeFv sl.typ (b k))

/-- Result columns of an arrangement. -/
def pkCols (pk : Nat) : Nat := pkSlots pk * pkDim pk

/-- The preload of a fed row in the current pass: the previous pass's results after the first (R179). -/
def MxRun.preOf (r : MxRun) (row col : Nat) : Elem :=
  if r.pass = 0 then (r.preload.getD row []).getD col 0 else (r.prior.getD row []).getD col 0

/-- The rounding of accumulation (R51). -/
def QEntry.accRnd (q : QEntry) : Rnd := if getFld q.numctl CTX_NUMCTL.ACC_RND = 1 then .rtz else .rne
/-- OVF_MODE is REPLAY. -/
def QEntry.replayMode (q : QEntry) : Bool := getFld q.numctl CTX_NUMCTL.OVF_MODE == 1

/-- The shift with which the preload of a pass is taken: a later pass's preload is already scaled. -/
def MxRun.accum (r : MxRun) (bank : Bank) (row col : Nat) : Accum :=
  let ns := pkDim (bank.mod / 256)
  let ps := r.addends bank row (col / ns) (col % ns)
  let mode := r.entry.accRnd
  if r.pass = 0 then accumulate mode r.shift (r.preOf row col) ps
  else ps.foldl (accStep mode r.shift) ⟨f32 (r.preOf row col), false, false⟩

/-- The preload, a streamed element or a stationary element of a result element holds a NaN, before any split (R62; log 68, DESIGN CHOICE). -/
def MxRun.nanIn (r : MxRun) (bank : Bank) (row col : Nat) : Bool :=
  let t := mmxType (modOf r.entry.body)
  let ks := pkK (bank.mod / 256) t
  let ns := pkDim (bank.mod / 256)
  let j := col / ns
  let sl := tget ⟨mstTarget bank.mod, [], []⟩ bank.slots j
  let scale (l : List Nat) (i : Nat) : Nat := if isMx t then l.getD i 0 else 127
  let nan (t scale code : Nat) : Bool := (if isMx t then mxFv t scale code else typeFv t code) == .nan
  isNan32 ((r.preload.getD row []).getD col 0) || (List.range ks).any fun k =>
    nan t (scale (r.sscales.getD row []) (j * (ks / 32) + k / 32)) ((r.stream.getD row []).getD (j * ks + k) 0) ||
      nan sl.typ (if sl.elems.isEmpty then 127 else scale sl.scales (col % ns * (ks / 32) + k / 32)) (sl.elems.getD (k * ns + col % ns) 0)

/-- The preload and every addend of an element are finite, over all passes: an operand that is not finite is so in its piece hi, which the
last pass takes (R67, R68, R70). -/
def MxRun.elemFin (r : MxRun) (bank : Bank) (row col : Nat) : Bool :=
  let ns := pkDim (bank.mod / 256)
  let last := (splitPasses (mmxSpl (modOf r.entry.body))).length - 1
  isFin32 ((r.preload.getD row []).getD col 0) &&
    ({ r with pass := last }.addends bank row (col / ns) (col % ns)).all fun p => match p.1 with | .fin _ => true | _ => false

/-! The checksum lines (R180 to R183). -/

/-- The exact preload and addends of an element in the current attempt and pass, shifted. -/
def MxRun.terms (r : MxRun) (bank : Bank) (row col : Nat) : List Fv :=
  let ns := pkDim (bank.mod / 256)
  let pre := f32 (r.preOf row col)
  (if r.pass = 0 then scaleFv pre r.shift else pre) ::
    (r.addends bank row (col / ns) (col % ns)).map fun p => scaleFv p.1 r.shift

/-- Exact sum of finite values. -/
def exSum (l : List Ex) : Ex := l.foldl Ex.add (Ex.zero false)
/-- The finite part of a value. -/
def finOf (v : Fv) : Ex := match v with | .fin x => x | _ => Ex.zero false

/-- What a check of a line finds: exempt, flagged or clean (R181, R182). `els` are its elements as (fed row, column). (log 28, DEDUCED) -/
def MxRun.lineCheck (r : MxRun) (bank : Bank) (res : Nat → Nat → Elem) (els : List (Nat × Nat)) : Bool × Bool :=
  let ts := els.map fun x => r.terms bank x.1 x.2
  let hs := els.map fun x => f32 (res x.1 x.2)
  let isFin (v : Fv) : Bool := match v with | .fin _ => true | _ => false
  if ts.any (fun l => l.any fun v => !isFin v) || hs.any (fun v => !isFin v) then (true, false)
  else
    let h := exSum (hs.map finOf)
    let all := (ts.flatMap id).map finOf
    let e := exSum all
    let u := exSum (all.map Ex.abs)
    let l := (ts.headD []).length - 1
    let t := Ex.add (Ex.mul u (Ex.ofNat (l + 2) (-23))) (Ex.ofNat ((l + 1) * els.length) (-147))
    (false, Ex.lt t (Ex.add h e.negate).abs)

/-- The fed rows of block `b`, as indices into the fed list (R175). -/
def MxRun.blockRows (r : MxRun) (b : Nat) : List Nat := (List.range r.fed.length).filter fun f => (r.fed.getD f 0) / 32 == b

/-- The checks of a block: lines exempt, row lines flagged, flagged columns with their MAC row (R180 to R183). (log 28, DEDUCED) (log 29, DESIGN CHOICE) -/
def MxRun.blockCheck (r : MxRun) (bank : Bank) (res : Nat → Nat → Elem) (b : Nat) : Nat × Nat × List Nat :=
  let pk := bank.mod / 256
  let ns := pkDim pk
  let rows := r.blockRows b
  if rows.isEmpty then (0, 0, [])
  else
    let rl := rows.flatMap fun f => (List.range (pkSlots pk)).map fun j =>
      r.lineCheck bank res ((List.range ns).map fun n => (f, j * ns + n))
    let cl := (List.range (pkCols pk)).map fun col => (col, r.lineCheck bank res (rows.map fun f => (f, col)))
    let mac (col : Nat) : Nat := if pk = 0 then col else if pk = 1 then 64 * (col / 64 / 2) + col % 64 else 32 * (col / 32 / 4) + col % 32
    ((rl.filter (·.1)).length + (cl.filter (·.2.1)).length, (rl.filter (·.2)).length,
      (cl.filter (·.2.2)).map fun x => mac x.1)

/-- SUB of the unit that a mismatch names (R183). -/
def mismatchSub (rows : Nat) (cols : List Nat) : Nat :=
  match cols with
  | [] => 128
  | [c] => if rows = 0 then 129 else c
  | _ => if rows = 0 then 129 else 0xFFFF

/-! Start of an mmx (R162, R166 to R170, R172, R173, R178, R193). -/

/-- A pairing of R159. -/
def pairingOk (streamed stat : Nat) : Bool :=
  ((streamed == 3 || streamed == 4) && (stat == 3 || stat == 4)) || (streamed == 1 && stat == 1) || (streamed == 2 && stat == 2) ||
    ((streamed == 5 || streamed == 6) && (stat == 5 || stat == 6)) || (streamed == 7 && stat == 7) || (streamed == 0 && stat == 0)

/-- The instruction rows that are fed, ascending (R167). -/
def fedRows (en : BitVec 128) (m : Nat) : List Nat :=
  (List.range m).filter fun i => bits en.toNat (i / 8 * 8) 8 != 0

/-- The codes of a streamed row, all slots, and its MX scales (R161, R173). -/
def State.streamRow (s : State) (key : Nat) (q : QEntry) (pk i : Nat) : List Nat × List Nat :=
  let t := mmxType (modOf q.body)
  let z := typeBits t
  let ks := pkK pk t
  let mr := mRows q.body
  if q.op = 0x01 ∨ q.op = 0x02 then
    let w := z / 8
    let e := 128 / w
    let c := s.core key
    ((List.range ks).map fun k =>
      let x := c.tile (bf q.body 33 7 + i / 32 * w + k / e)
      let p := k % e
      bits (x.at (i % 32) (p * z / 32)).toNat (p * z % 32) z, [])
  else
    let rowAt (j : Nat) : Nat := (q.a + BitVec.ofNat 64 (j * mr + i) * q.b).toNat
    ((List.range (pkSlots pk)).flatMap fun j => (List.range ks).map fun k => s.packedAt (rowAt j) z k,
      if isMx t then (List.range (pkSlots pk)).flatMap fun j => (List.range (ks / 32)).map fun g =>
        (s.readByte (q.c.toNat + (j * mr + i) * (ks / 32) + g)).toNat else [])

/-- The tile, row and element of a result (R161, R173). -/
def resPlace (pk td mr i col : Nat) : Nat × Nat × Nat :=
  let ns := pkDim pk
  let j := col / ns
  let c := col % ns
  (td + j * (mr / 32) * (ns / 32) + i / 32 * (ns / 32) + c / 32, i % 32, c % 32)

/-- The preload of an element of an enabled row (R169); `mac` is the MAC row that produces the column. -/
def Core.preElem (c : Core) (q : QEntry) (pk i col : Nat) : Elem :=
  let mr := mRows q.body
  let mac := if pk = 0 then col else if pk = 1 then 64 * (col / 64 / 2) + col % 64 else 32 * (col / 32 / 4) + col % 32
  match mmxPre (modOf q.body) with
  | 1 => c.mx.bias.getD mac 0
  | 2 => let (t, r, e) := resPlace pk (bf q.body 26 7) mr i col; (c.tile t).at r e
  | 3 => let (t, r, e) := resPlace pk (bf q.body 40 7) mr i col; (c.tile t).at r e
  | _ => 0

/-- The tile rows that an mmx reads: streamed rows of the fed rows, and preload rows of the enabled ones (R161, R167 to R169). -/
def mmxReads (q : QEntry) (pk : Nat) (fed : List Nat) (en : BitVec 128) : List (Nat × Nat) :=
  let m := modOf q.body
  let w := typeBits (mmxType m) / 8
  let pre (t : Nat) (i : Nat) : List (Nat × Nat) :=
    (List.range (pkCols pk / 32)).map fun g => let (x, r, _) := resPlace pk t (mRows q.body) i (32 * g); (x, r)
  fed.flatMap fun i =>
    (if q.op = 0x01 ∨ q.op = 0x02 then (group (bf q.body 33 7 + i / 32 * w) w).map fun t => (t, i % 32) else []) ++
      if !en.getLsbD i then []
      else if mmxPre m = 2 then pre (bf q.body 26 7) i
      else if mmxPre m = 3 then pre (bf q.body 40 7) i
      else []

/-- A row of a tile holds an uncorrectable word. -/
def Core.rowBad (c : Core) (x : Nat × Nat) : Bool := (c.tile x.1).poison.any fun w => w / 32 == x.2

/-- Byte ranges that a scratchpad-fed mmx reads for its fed rows. -/
def mmxRanges (q : QEntry) (pk : Nat) (fed : List Nat) : List (Nat × Nat) :=
  let t := mmxType (modOf q.body)
  let ks := pkK pk t
  let mr := mRows q.body
  (List.range (pkSlots pk)).flatMap fun j => fed.flatMap fun i =>
    [((q.a + BitVec.ofNat 64 (j * mr + i) * q.b).toNat, ks * typeBits t / 8)] ++
      if isMx t then [(q.c.toNat + (j * mr + i) * (ks / 32), ks / 32)] else []

/-- Sampling applies to a core: EN, and its cluster has a spare (R558, R559). -/
def State.sampling (s : State) (key : Nat) : Bool :=
  s.bit ERR_XSAMPLE.off ERR_XSAMPLE.EN && s.fld (PKG_CORE_MAP.off (keyDie key) (keyCl key)) PKG_CORE_MAP.SPARE != 0xF

/-- The spare of a cluster is busy with a test, a spare replay or a sample (R559). -/
def State.spareBusy (s : State) (k cl : Nat) : Bool :=
  let c := s.cluster (k * 12 + cl)
  c.test || c.sample.isSome || (clusterCores k cl).any fun key =>
    ((s.core key).mx.landing ++ (s.core key).mx.run.toList).any fun r => r.sample || r.phase == .spareWait || r.phase == .spareDone

/-- An mmx starts once its bank is loaded: the queue-head checks are made and its operands are captured; with no row to feed it
completes (R175, R178). The one before it goes on landing. -/
def State.startMmx (s : State) (key : Nat) (q : QEntry) (sample : Bool) : State :=
  let c := s.core key
  let m := modOf q.body
  let bank := tget Bank.empty c.mx.banks c.mx.cur
  let pk := bank.mod / 256
  let s1 := s.popQueue key .mx
  let fromT := q.op = 0x01 ∨ q.op = 0x02
  let n := 4 * (mRows q.body / 32)
  let preTiles := if mmxPre m = 2 then group (bf q.body 26 7) n else if mmxPre m = 3 then mmxDest pk q.body else []
  if !c.mx.filled || !pairingOk (mmxType m) (mstTarget bank.mod) || (decide fromT && pk != 0) ||
      preTiles.any (fun t => (c.tile t).shift != 0) then
    s1.engFault key .mx q .illegalOperand 0
  else
    let fed := fedRows c.mx.enable (mRows q.body)
    let rd := mmxReads q pk fed c.mx.enable
    let rs := if fromT then [] else mmxRanges q pk fed
    let s2 := s1.modCore key fun c => { c with mx := { c.mx with runOpen := false } }
    let pick := sample && s.sampling key
    let busy := s.spareBusy (keyDie key) (keyCl key)
    let s2 := if pick && busy && !fed.isEmpty then s2.bump ERR_XSAMPLE_CNT.off ERR_XSAMPLE_CNT.SKIPPED 1 else s2
    match rd.find? c.rowBad with
    | some x => (s1.tileRecord key x.1 q.cls q.op q.pc).engFault key .mx q .memoryError 0
    | none =>
      match s.badIn rs with
      | some a => (s1.poisonRecord a (some c.ctx)).engFault key .mx q .memoryError a
      | none =>
        if fed.isEmpty then s2.complete key q 0
        else
          let rows := fed.map fun i => s.streamRow key q pk i
          let s2 := ((s2.pmcOwn key 0x012 (mRows q.body - fed.length)).tilesRead key portMx (rd.map (·.1))).padServed key padMx rs
          let pre := fed.map fun i => (List.range (pkCols pk)).map fun col =>
            if c.mx.enable.getLsbD i then c.preElem q pk i col else 0
          s2.modCore key fun c =>
            { c with mx := { c.mx with landing := c.mx.landing ++ c.mx.run.toList, run := (some
              { entry := q, bank := c.mx.cur, enable := c.mx.enable, xreplay := s.bit (CTX_MXCTL.off c.ctx.val) CTX_MXCTL.XREPLAY,
                fed := fed, stream := rows.map (·.1), sscales := rows.map (·.2), preload := pre,
                suspIn := rd.any fun x => (c.tile x.1).susp, shift := 0, pass := 0, first := 0, done := [], prior := [], passes := [], ready := 0,
                landed := 0, doneTiles := [], phase := .feed, rowFlag := false, colFlag := [], isRep := false, repFlag := false,
                suspOut := false, spare := [], spareBad := false, nanGen := false, ovf := false, unchk := 0, recIdx := none,
                sample := pick && !busy } : Option MxRun) } }

/-- A matrix instruction that the engine executes at the head of its queue (R166, R169, R185). -/
def State.startMxPlain (s : State) (key : Nat) (q : QEntry) : State :=
  let s1 := s.popQueue key .mx
  let c := s.core key
  let td := bf q.body 40 7
  match q.op with
  | 0x05 =>
    let t := c.tile (bf q.body 33 7)
    if (List.range 4).all fun r => !c.rowBad (bf q.body 33 7, r) then
      (s1.modCore key fun c => { c with mx := { c.mx with bias := (List.range 128).map fun n => t.at (n / 32) (n % 32) } }).complete key q 0
    else (s1.tileRecord key (bf q.body 33 7) q.cls q.op q.pc).engFault key .mx q .memoryError 0
  | 0x06 => (s1.modCore key fun c => { c with mx := { c.mx with enable := q.b ++ q.a } }).complete key q 0
  | 0x07 =>
    let t := c.tile td
    (s1.writePend key (bf q.body 34 6) (BitVec.ofNat 64 (b2n t.susp * 256 + t.shift))).complete key q 0
  | _ => (s1.modCore key fun c => c.setTile td { c.tile td with shift := 0, susp := false }).complete key q 0

/-! Rows leave the array (R70 to R76, R175, R179, R184). -/

/-- Replay shifts in order (R72). -/
def nextShift (s : Nat) : Nat := if s = 0 then 16 else if s = 16 then 64 else 192

/-- The index of the first fed row at or after block `b`. -/
def MxRun.startRow (r : MxRun) (b : Nat) : Nat := (r.fed.filter fun i => i / 32 < b).length

/-- Results by fed row and column, the rows before `first` not being fed again. -/
def MxRun.resAt (r : MxRun) (f col : Nat) : Elem := (r.done.getD (f - r.startRow r.first) []).getD col 0

/-- An attempt or repeat begins again at block `first` (R72, R184). -/
def MxRun.restart (r : MxRun) (shift first : Nat) : MxRun :=
  { r with shift := shift, pass := 0, first := first, done := [], prior := [], passes := [], ready := r.landed, unchk := 0, rowFlag := false,
           colFlag := [], nanGen := false, ovf := false }

/-- The number of 32-row blocks (R166). -/
def MxRun.blocks (r : MxRun) : Nat := mRows r.entry.body / 32

/-- The passes of an instruction (R68). -/
def MxRun.numPasses (r : MxRun) : Nat := (splitPasses (mmxSpl (modOf r.entry.body))).length

/-- The blocks to be judged after fed row `f` is done: in INF mode the block that it ends, or every block at the end of a split pass; in REPLAY
mode every block of the attempt after the last row of its last pass (R76, R179, R182). (log 29, DESIGN CHOICE) -/
def MxRun.judged (r : MxRun) (f : Nat) : List Nat :=
  let last := f + 1 = r.fed.length
  if r.entry.replayMode || decide (1 < r.numPasses) then
    (if last ∧ (r.entry.replayMode = false ∨ r.numPasses ≤ r.pass + 1) then (List.range r.blocks).filter fun b => r.first ≤ b else [])
  else
    let b := (r.fed.getD f 0) / 32
    if last || decide ((r.fed.getD (f + 1) 0) / 32 ≠ b) then [b] else []

/-- The passes that a judgement covers: in REPLAY mode each pass of the attempt with its own preload and results, else the current one
(R76, R179). -/
def MxRun.judgedPasses (r : MxRun) : List MxRun :=
  (if r.entry.replayMode then r.passes.mapIdx fun p x => { r with pass := p, prior := x.1, done := x.2 } else []) ++ [r]

/-- The instruction's whole run on a fault-free array or with upsets, as the spare core makes it: results from block `first` on, final
shift and whether a line is flagged (R77, R184). -/
def MxRun.rowOf (r : MxRun) (bank : Bank) (f : Nat) (ups : List Upset) : List Elem × Bool × Bool :=
  let i := r.fed.getD f 0
  let live := r.enable.getLsbD i
  let accs := (List.range (pkCols (bank.mod / 256))).map fun col => r.accum bank f col
  let res := accs.mapIdx fun col a =>
    (ups.filter fun u => u.row == i && u.col == col).foldl (fun e u => e ^^^ u.mask) (fvElem a.acc)
  (res, live && (accs.mapIdx fun col a => a.ovf && r.elemFin bank f col).any id, live && (accs.mapIdx fun col a => a.nan && !r.nanIn bank f col).any id)

/-- A row's results enter the run. -/
def MxRun.addRow (r : MxRun) (row : List Elem × Bool × Bool) : MxRun :=
  { r with done := r.done ++ [row.1], ovf := r.ovf || row.2.1, nanGen := r.nanGen || row.2.2 }

/-- All rows of an attempt, pass by pass, on the spare. -/
def MxRun.spareAttempt (r : MxRun) (bank : Bank) (ups : List Upset) : MxRun × Bool :=
  let start := r.startRow r.first
  (List.range r.numPasses).foldl (fun (st : MxRun × Bool) p =>
    let r0 := { st.1 with pass := p, prior := List.replicate start [] ++ st.1.done, done := [] }
    let r1 := (List.range (r.fed.length - start)).foldl (fun x i => x.addRow (x.rowOf bank (start + i) ups)) r0
    let bad := (List.range r.blocks).any fun b =>
      decide (r.first ≤ b) && (let (_, n, cols) := r1.blockCheck bank r1.resAt b; n != 0 || !cols.isEmpty)
    (r1, st.2 || bad)) (r, false)

/-- The spare's run through its shifts (R72, R77). -/
def MxRun.spareRun (r : MxRun) (bank : Bank) (ups : List Upset) : Nat → MxRun × Bool
  | 0 => (r, false)
  | fuel + 1 =>
    let (x, bad) := r.spareAttempt bank ups
    if r.entry.replayMode && x.ovf then ({ r.restart (nextShift r.shift) r.first with landed := r.landed }).spareRun bank ups fuel
    else (x, bad)

/-- A mismatch of a first run: counted, recorded, and repeated from the first block that has not landed; what the landed blocks met stays
(R82, R184, R189). -/
def State.firstMismatch (s : State) (key : Nat) (r : MxRun) (bank : Bank) (rows : Nat) (cols : List Nat) : State × MxRun :=
  let c := s.core key
  let u := mkUnit (keyDie key) (keyCl key) (s.physCore key) engMx (mismatchSub rows cols)
  let (s0, idx) := (s.mismatch c.ctx.val).openRecord
    (mkDet 0x01 u (some c.ctx) 0 1 1 r.entry.cls r.entry.op 0 (BitVec.ofNat 64 r.entry.pc)) false
  let s1 := s0.repeats idx 1
  let kept := (List.range (r.startRow r.landed)).map fun f => r.rowOf bank f []
  let unchk := ((List.range r.landed).map fun b => (r.blockCheck bank r.resAt b).1).foldl (· + ·) 0
  (s1, { r.restart 0 r.landed with isRep := true, recIdx := idx, ovf := kept.any (·.2.1), nanGen := kept.any (·.2.2), unchk := unchk })

/-- The repeat has fed its last row (R184): clean, it lands; flagged, it goes to the spare or lands with SUSPECT. -/
def State.endRepeat (s : State) (key : Nat) (r : MxRun) : State × MxRun :=
  let unit := match r.recIdx with | some i => BitVec.ofNat 32 ((recWord (s.record i) 1).fld 0 32) | none => 0
  let close (s : State) (cls level h : Nat) : State := match r.recIdx with | some i => s.closeRecord i cls level h | none => s
  if !r.repFlag then (close (s.chargeRec r.recIdx unit 0x01 false) 1 1 0x02, { r with phase := .land, ready := r.blocks })
  else
    let spare := s.fld (PKG_CORE_MAP.off (keyDie key) (keyCl key)) PKG_CORE_MAP.SPARE
    if r.xreplay && spare != 0xF then
      (s.modCluster (keyCluster key) fun c => { c with replays := c.replays ++ [key] }, { r with phase := .spareWait })
    else (close (s.chargeRec r.recIdx unit 0x01 true) 2 1 0x04, { r with phase := .land, ready := r.blocks, suspOut := true })

/-- A slot of the core's array carries a data row: with the activity levels in force, at a level above 0 (R186). -/
def State.carries (s : State) (key : Nat) : Bool := !s.bit PWR_BALLAST.off PWR_BALLAST.EN || decide (0 < (s.core key).mx.level)

/-- The next fed row leaves the array with the upsets that strike it, and the decisions that fall due are made (R175, R184, R186). -/
def State.rowExit (s : State) (key : Nat) (ups : List Upset) : State :=
  let c := s.core key
  match c.mx.run with
  | none => s
  | some r0 =>
    if r0.phase != .feed || !s.carries key then s
    else
      let s := (s.pmcOwn key 0x010 1).modCore key fun c => { c with mx := { c.mx with cntI := 0 } }
      let bank := tget Bank.empty c.mx.banks r0.bank
      let f := r0.startRow r0.first + r0.done.length
      let r := r0.addRow (r0.rowOf bank f ups)
      let put' (s : State) (r : MxRun) : State := s.modCore key fun c => { c with mx := { c.mx with run := some r } }
      if r.entry.replayMode && r.ovf then put' (s.pmcOwn key 0x014 1) (r.restart (nextShift r.shift) r.first)
      else
        let js := r.judged f
        let chk := r.judgedPasses.flatMap fun p => js.map fun b => p.blockCheck bank p.resAt b
        let rows := (chk.map (·.2.1)).foldl (· + ·) 0
        let cols := chk.flatMap (·.2.2)
        let exempt := (chk.map (·.1)).foldl (· + ·) 0
        let lines := r.judgedPasses.length * (js.map fun b => if (r.blockRows b).isEmpty then 0 else
          (r.blockRows b).length * pkSlots (bank.mod / 256) + pkCols (bank.mod / 256)).foldl (· + ·) 0
        let s := (s.pmcOwn key 0x015 (lines - exempt)).pmcOwn key 0x016 (rows + cols.length)
        let r1 := { r with unchk := r.unchk + (chk.map (·.1)).foldl (· + ·) 0 }
        let flagged := rows != 0 || !cols.isEmpty
        if flagged && !r1.isRep then
          let (s1, r2) := s.firstMismatch key r1 bank rows cols
          put' s1 r2
        else
          let r2 := { r1 with repFlag := r1.repFlag || flagged }
          if f + 1 < r.fed.length then
            put' s (if !r2.isRep && !js.isEmpty then { r2 with ready := js.foldl (fun _ b => b + 1) r2.ready } else r2)
          else if r.pass + 1 < r.numPasses then
            put' s { r2 with pass := r.pass + 1, prior := List.replicate (r.startRow r.first) [] ++ r2.done, done := [],
                             passes := r2.passes ++ [(r2.prior, r2.done)] }
          else if r2.isRep then
            let (s1, r3) := s.endRepeat key r2
            put' s1 r3
          else put' s { r2 with phase := .land, ready := r.blocks }

def execMatrixRowExit (cid : CoreId) (ups : List Upset) (s : State) : Out := .next (s.rowExit (coreKey cid) ups)

/-! Landing (R168, R176 to R178, R185). -/

/-- A tile with the enabled rows of a block written and its tags set; a tile with no written row keeps both tags (R168, R185). -/
def MxRun.landTile (r : MxRun) (pk t : Nat) (b : Nat) (old : Tile) : Tile :=
  let mr := mRows r.entry.body
  let ns := pkDim pk
  let rows := (r.blockRows b).filter fun f => r.enable.getLsbD (r.fed.getD f 0)
  if rows.isEmpty then old
  else
    let td := bf r.entry.body 40 7
    let rel := t - td
    let j := rel / ((mr / 32) * (ns / 32))
    let cb := rel % (ns / 32)
    let words := (List.range 1024).map fun x =>
      match rows.find? fun f => (r.fed.getD f 0) % 32 == x / 32 with
      | some f => r.resAt f (j * ns + cb * 32 + x % 32)
      | none => old.words.getD x 0
    { old with words := words, shift := r.shift, susp := r.suspOut || r.suspIn,
               poison := old.poison.filter fun w => !(rows.any fun f => (r.fed.getD f 0) % 32 == w / 32) }

/-- The destination tiles of block `b` in ascending order (R161, R173, R176). -/
def MxRun.blockTiles (r : MxRun) (pk b : Nat) : List Nat :=
  let w := pkDim pk / 32
  (List.range (pkSlots pk)).flatMap fun j => group (bf r.entry.body 40 7 + j * (mRows r.entry.body / 32) * w + b * w) w

/-- Block `b` lands. -/
def State.landBlock (s : State) (key : Nat) (r : MxRun) (pk b : Nat) : State × MxRun :=
  let ts := r.blockTiles pk b
  ((s.modCore key fun c => ts.foldl (fun c t => c.setTile t (r.landTile pk t b (c.tile t))) c).tilesWritten key portMx ts,
    { r with landed := b + 1, doneTiles := r.doneTiles ++ ts })

/-- The mmx whose blocks land next: the oldest that has fed its last row and still lands, else the running one (R175, R176). -/
def MxSt.lander (m : MxSt) : Option MxRun := match m.landing with | r :: _ => some r | [] => m.run
/-- That mmx changed, or gone once it has completed. -/
def MxSt.setLander (m : MxSt) (r : Option MxRun) : MxSt :=
  match m.landing with
  | _ :: rest => { m with landing := r.toList ++ rest }
  | [] => { m with run := r }

/-- The instruction that lands has landed its last block: its events are gathered and it completes (R74, R82, R178, R190). A sample keeps the
physical core and the spare of this moment (R25, R560). -/
def State.endMmx (s : State) (key : Nat) (r : MxRun) : State :=
  let n := (s.core key).ctx.val
  let s1 := ((s.numFlags n false r.nanGen).ovfInf n (r.ovf && !r.entry.replayMode)).replayed n r.shift
  let s2 := (s1.unchecked n r.unchk).flagIf (CTX_MXSTS.off n) CTX_MXSTS.SUSPECT_LANDED r.suspOut
  let i := keyCluster key
  let sp := s.fld (PKG_CORE_MAP.off (keyDie key) (keyCl key)) PKG_CORE_MAP.SPARE
  let s3 := if !r.sample then s2
    else if (r.entry.replayMode && r.shift != 0) || sp == 0xF then s2.bump ERR_XSAMPLE_CNT.off ERR_XSAMPLE_CNT.SKIPPED 1
    else s2.modCluster i fun c =>
      { c with sample := some ⟨key, (s.core key).ctx, r.entry.cls, r.entry.op, r.entry.pc, s.physCore key, sp⟩ }
  (s3.modCore key fun c => { c with mx := c.mx.setLander none }).complete key r.entry 0

/-- The next block of result tiles lands when the scoreboard permits (R176). -/
def State.blockLand (s : State) (key : Nat) : State :=
  let c := s.core key
  match c.mx.lander with
  | none => s
  | some r =>
    let pk := (tget Bank.empty c.mx.banks r.bank).mod / 256
    if decide (r.landed < r.ready) && c.canWrite r.entry.seq (r.blockTiles pk r.landed) then
      let (s1, r1) := s.landBlock key r pk r.landed
      if r1.landed = r1.blocks then s1.endMmx key r1
      else s1.modCore key fun c => { c with mx := c.mx.setLander (some r1) }
    else s

def execMatrixBlockLand (cid : CoreId) (s : State) : Out := .next (s.blockLand (coreKey cid))

/-! The spare core (R77, R184). -/

/-- The first core of a cluster whose mmx is in a phase. -/
def State.mmxIn (s : State) (k cl : Nat) (ph : MxPhase) : Option Nat :=
  (clusterCores k cl).find? fun key => match (s.core key).mx.run with | some r => r.phase == ph | none => false

/-- The core whose replay is next: the oldest request, once no other replay of the cluster still has to land (R184). -/
def State.nextReplay (s : State) (k cl : Nat) : Option Nat :=
  if (s.mmxIn k cl .spareDone).isSome then none
  else (s.cluster (k * 12 + cl)).replays.find? fun key => match (s.core key).mx.run with | some r => r.phase == .spareWait | none => false

/-- The cluster sequencer replays a mismatched instruction on the spare core (R184); a test of the spare is aborted (R554). -/
def execSpareReplay (k : Fin 4) (cl : Fin 12) (ups : List Upset) (s : State) : Out :=
  .next (match s.nextReplay k.val cl.val with
    | none => s
    | some key =>
      match (s.core key).mx.run with
      | none => s
      | some r =>
        let bank := tget Bank.empty (s.core key).mx.banks r.bank
        let (x, bad) := (r.restart 0 r.first).spareRun bank ups 4
        let s := (s.repeats r.recIdx 1).modCluster (k.val * 12 + cl.val) fun c =>
          { c with test := false, replays := (c.replays.dropWhile (· != key)).drop 1 }
        s.modCore key fun c => { c with mx := { c.mx with run := (some
          { r with phase := .spareDone, spare := x.done, spareBad := bad,
                   shift := if bad then r.shift else x.shift, ovf := r.ovf || x.ovf, nanGen := r.nanGen || x.nanGen } : Option MxRun) } })

/-- Every block that has not landed lands. -/
def State.landAll (s : State) (key : Nat) (r : MxRun) (pk : Nat) : Nat → State × MxRun
  | 0 => (s, r)
  | fuel + 1 =>
    if r.landed < r.blocks then
      let (s1, r1) := s.landBlock key r pk r.landed
      State.landAll s1 key r1 pk fuel
    else (s, r)

/-- A physical core placed first in the field-test order of its cluster (R543, R553, R560). -/
def State.testFirst (s : State) (i phys : Nat) : State :=
  s.modCluster i fun c => { c with first := if c.first.contains phys then c.first else c.first ++ [phys] }

/-- The spare's results land in the original destination, or the repeat's land with SUSPECT when the spare also flags (R184). -/
def execSpareReplayLand (k : Fin 4) (cl : Fin 12) (s : State) : Out :=
  .next (match s.mmxIn k.val cl.val .spareDone with
    | none => s
    | some key =>
      match (s.core key).mx.run with
      | none => s
      | some r =>
        let c := s.core key
        let pk := (tget Bank.empty c.mx.banks r.bank).mod / 256
        let tiles := (List.range r.blocks).flatMap fun b => if r.landed ≤ b then r.blockTiles pk b else []
        if c.mx.landing.isEmpty && c.canWrite r.entry.seq tiles then
          let unit := match r.recIdx with | some i => BitVec.ofNat 32 ((recWord (s.record i) 1).fld 0 32) | none => 0
          let close (s : State) (cls level h : Nat) : State := match r.recIdx with | some i => s.closeRecord i cls level h | none => s
          let (s1, r1) := if r.spareBad then ((close s 3 2 0x04).testFirst (k.val * 12 + cl.val) (s.physCore key), { r with suspOut := true })
            else (close ((s.chargeRec r.recIdx unit 0x01 true).setFld (CTX_MXSTS.off c.ctx.val) CTX_MXSTS.XREPLAY_HIT 1) 2 2 0x03,
              { r with done := r.spare })
          let (s2, r2) := s1.landAll key r1 pk 4
          s2.endMmx key r2
        else s)

/-! Ballast (R186, R187). -/

/-- The cap of the louvre step in force on a core's die. (log 64, DEDUCED) -/
def State.mxCap (s : State) (key : Nat) : Nat := stepCap (s.louvre (keyDie key))

/-- A cycle in which a data row was ready and waited for a carrying slot: W counts, and when it reaches STEP below the cap the level rises by 1
and W restarts; I restarts (R186, R187). -/
def MxSt.waitCycle (m : MxSt) (step cap : Nat) : MxSt :=
  if step ≤ m.cntW + 1 ∧ m.level < cap then { m with level := m.level + 1, cntW := 0, cntI := 0 }
  else { m with cntW := m.cntW + 1, cntI := 0 }

/-- A cycle in which no data row is ready: I counts, and the level falls by 1 when it reaches HOLD and each further STEP; a fall restarts W
(R186, R187). -/
def MxSt.idleCycle (m : MxSt) (hold step : Nat) : MxSt :=
  let i := m.cntI + 1
  if hold ≤ i ∧ (i - hold) % step = 0 ∧ 0 < m.level then { m with level := m.level - 1, cntW := 0, cntI := i } else { m with cntI := i }

/-- STEP of PWR_BALLAST, 0 acting as 1 (R187). -/
def State.ballastStep (s : State) : Nat := max 1 (s.fld PWR_BALLAST.off PWR_BALLAST.STEP)

/-- For a span of cycles a data row waited for a carrying slot (R186). (log 64, DEDUCED) -/
def execBallastLevelRise (w : CoreSpan) (s : State) : Out :=
  let key := coreKey w.core
  .next (if s.bit PWR_BALLAST.off PWR_BALLAST.EN && !isCtl key then
      s.modCore key fun c => { c with mx := (List.range w.cycles).foldl (fun m _ => m.waitCycle s.ballastStep (s.mxCap key)) c.mx }
    else s)

/-- For a span of cycles no data row was ready (R186). (log 64, DEDUCED) -/
def execBallastLevelFall (w : CoreSpan) (s : State) : Out :=
  let key := coreKey w.core
  .next (if s.bit PWR_BALLAST.off PWR_BALLAST.EN && !isCtl key then
      s.modCore key fun c =>
        { c with mx := (List.range w.cycles).foldl (fun m _ => m.idleCycle (s.fld PWR_BALLAST.off PWR_BALLAST.HOLD) s.ballastStep) c.mx }
    else s)

end Sys2Proof.Machine
end

