-- ==== Sys2Proof/Machine/ErrCtl.lean ====
section
/-! DEFINITION. The error collector, the history, field test, sampled replay and injection (15_silent_errors_and_faults.md R534 to R563). -/

namespace Sys2Proof.Machine

/-! Detections and records (R534 to R543). -/

/-- The detectors whose correctable errors open no record when they re-read clean (R535). -/
def cellDet (d : Nat) : Bool := (decide (3 ≤ d) && decide (d ≤ 7)) || d == 0x0E || d == 0x11

/-- The logical core of a compute core's unit code, if it serves one. -/
def State.servedBy (s : State) (u : UnitCode) : Option Nat :=
  let die := bits u.toNat 28 4
  let cl := bits u.toNat 24 4
  if die < 4 ∧ cl < 12 then (clusterCores die cl).find? fun key => s.physCore key == bits u.toNat 20 4 else none

/-- The ladder level that first handles a detection (R20, R534). A link's coding acts at the cell or the block level, as the detection says;
the detectors of the power controller, which R534 does not list, are taken at the level that they say. -/
def firstLevel (d : Detection) : Fin 4 :=
  match d.det.toNat with
  | 0x01 | 0x02 | 0x09 | 0x0A | 0x0B | 0x0C | 0x0D | 0x10 | 0x12 => 1
  | 0x03 | 0x04 | 0x05 | 0x06 | 0x07 | 0x08 | 0x11 => 0
  | 0x0E | 0x0F => if d.level = 0 then 0 else 1
  | 0x13 | 0x14 => 3
  | 0x15 | 0x16 => 2
  | _ => d.level

/-- The data that an uncorrectable storage error leaves poisoned: the transom element, at four times its place in the core's tiles, or the
codeword at a local address, that DETAIL names (R239, R241; log 73, DESIGN CHOICE). -/
def State.detectedBad (s : State) (d : Detection) : State :=
  let at_ := d.detail.toNat
  if d.det.toNat = 0x03 then
    match s.servedBy d.unit with
    | some key =>
      if at_ < 0x80000 then
        s.modCore key fun c =>
          let t := c.tile (at_ / 4096)
          c.setTile (at_ / 4096) { t with poison := setIns t.poison (at_ % 4096 / 4) }
      else s
    | none => s
  else
    match tierOf at_ with
    | .csr | .hostWin _ | .none => s
    | _ => (s.markPoison (cwOf at_) 1 true).stageBad at_

/-- What a detection does beside its record where no other command does it: queue and dispatch parity removes the context by the hatch, an
uncorrectable error of a control core faults its context, and one of a storage poisons the data (R239, R534). The fault names the
instruction that the detection names, at the PC of the core that runs the context, and no data address. (log 73, DESIGN CHOICE) -/
def State.detectionActs (s : State) (d : Detection) (i : Option Nat) : State :=
  if 3 ≤ d.det.toNat ∧ d.det.toNat ≤ 7 then (if d.sev = 0 then s else s.detectedBad d)
  else match d.ctx with
  | some n =>
    if d.det.toNat = 0x09 then (s.handle i 1 0x05).startHatch n.val 5 d.unit none none false false
    else if d.det.toNat = 0x11 ∧ d.sev ≠ 0 then
      let pc := (s.setOf (0x1000 + bits d.unit.toNat 20 4) n.val).pc.toNat
      s.addFault ⟨n, .memoryError, d.cls.toNat, d.op.toNat, pc, 0, d.unit, s.time⟩
    else s
  | none => s

/-- A detection reaches the error collector (R535, R537). -/
def State.detect (s : State) (d : Detection) : State :=
  let det := d.det.toNat
  let s0 := match det, s.servedBy d.unit with
    | 3, some key => s.pmcEvent key 0x050 (b2n d.correctedClean) (d.ctx.map fun (n : CtxId) => n.val)
    | _, _ => s
  if d.correctedClean && cellDet det then (
    if tierDet det then (if s0.marked d.detail.toNat then s0 else s0.charge d.unit det false)
    else if s0.armed det d.unit then s0.fired none
    else s0.charge d.unit det false)
  else
    let (s1, i) := s0.openRecord { d with level := firstLevel d } (tierDet det && s0.marked d.detail.toNat)
    s1.detectionActs d i

def execErrorDetection (d : Detection) (s : State) : Out := .next (s.detect d)

/-- The detectors whose records stay unclassified (R543, R601). -/
def unclassified (d : Nat) : Bool :=
  (decide (0x0D ≤ d) && decide (d ≤ 0x10)) || d == 0x13 || d == 0x14 || (decide (0x17 ≤ d) && decide (d ≤ 0x1F))

/-- The last level to act closes a record: the event is classified and charged, then OPEN is cleared (R538, R543, R544). A transient error
went no higher than the level it had reached, whose handling did not fail (R20). -/
def State.finishRecord (s : State) (i : Nat) (c : Classification) : State :=
  let r := s.record i
  let det := (recWord r 0).fld 48 8
  let u : UnitCode := BitVec.ofNat 32 ((recWord r 1).fld 0 32)
  if recOpen r && (recWord r 0).fld 0 32 == i then
    let cls := if unclassified det then 0 else if det = 0x16 then 2 else c.cls.val
    let count := c.charge && (cls == 1 || cls == 2 || (cls == 3 && det == 0x15))
    let s1 := if count then s.chargeRec (some i) u det (cls == 2) else s
    s1.closeRecord i cls (if cls = 1 then (recWord r 0).fld 40 2 else max c.level.val ((recWord r 0).fld 40 2)) c.handling.toNat
  else s

def execErrorRecordClose (i : BitVec 32) (cls : Classification) (s : State) : Out := .next (s.finishRecord i.toNat cls)

/-- A second has passed since an instruction-cache parity record: persistent when its line recurred within it, else transient (R543). -/
def execIcacheRecurrenceWindow (i : BitVec 32) (s : State) : Out :=
  let r := s.record i.toNat
  let t := (recWord r 3).toNat
  let same (x : List Word) : Bool :=
    (recWord x 0).fld 48 8 == 0x08 && (recWord x 1).fld 0 32 == (recWord r 1).fld 0 32 && recWord x 5 == recWord r 5 &&
      (recWord x 0).fld 0 32 != i.toNat && decide (t ≤ (recWord x 3).toNat) && decide ((recWord x 3).toNat ≤ t + 1000000000)
  let again := decide (1 < (recWord r 7).fld 0 32) || s.ring.any fun x => (recWord x.2 0).flag 63 && same x.2
  .next (if recOpen r && (recWord r 0).fld 0 32 == i.toNat && (recWord r 0).fld 48 8 == 0x08 && decide (t + 1000000000 ≤ s.time) then
      s.finishRecord i.toNat ⟨if again then 2 else 1, 0, 0x01, true⟩
    else s)

/-! History (R544, R545). -/

/-- Both counts of an entry are halved at a boundary of WINDOW_H hours (R544). -/
def execHistoryHalving (unit : UnitCode) (s : State) : Out :=
  let hour := 3600000000000
  let w := max 1 (s.fld ERR_CTL.off ERR_CTL.WINDOW_H) * hour
  .next (match s.hist.find? fun h => h.unit == unit with
    | some h =>
      if h.made + (h.halvings + 1) * w ≤ s.time then
        s.putHist { h with trans := h.trans / 2, pers := h.pers / 2, halvings := h.halvings + 1, dirty := true }
      else s
    | none => s)

/-- A changed entry is written to flash (R545). -/
def execHistoryFlashWrite (unit : UnitCode) (s : State) : Out :=
  .next (match s.hist.find? fun h => h.unit == unit with
    | some h => if h.dirty then s.flashHist unit else s
    | none => s)

/-! Field test (R552 to R557, R619). -/

/-- TST_STS at the end of a command (R555). -/
def State.tstEnd (s : State) (u : UnitCode) (result : Nat) : State :=
  { s.csrSet TST_STS.off (BitVec.ofNat 64 (put result 60 + u.toNat)) with tst := { s.tst with cmd := none } }
/-- TST_STS while a command runs. -/
def State.tstBusy (s : State) (u : UnitCode) : State :=
  { s.csrSet TST_STS.off (BitVec.ofNat 64 (put 1 63 + u.toNat)) with tst := { s.tst with cmd := some u } }

/-- The record of field-test content that fails its verification (R619). (log 53, DEDUCED) -/
def State.contentRecord (s : State) : State :=
  let (s1, i) := s.openRecord (mkDet 0x16 0xD0000003 none 3 3 8 0 0 0 0) false
  match i with | some j => s1.closeRecord j 2 3 0x0A | none => s1

/-- The cluster's spare can be tested now. -/
def State.testable (s : State) (k cl : Nat) : Bool :=
  let o := PKG_CORE_MAP.off k cl
  let c := s.cluster (k * 12 + cl)
  !s.bit o PKG_CORE_MAP.CLUSTER_OFF && s.fld o PKG_CORE_MAP.SPARE != 0xF && c.repSt == 0 && !s.spareBusy k cl

/-- The cluster that the rotation visits next: the first with a spare from where the last visit left off, in ascending order of die and
cluster (R553). -/
def State.visitNext (s : State) : Option Nat :=
  ((List.range 48).map fun i => (s.tst.visit + i) % 48).find? fun i =>
    !s.bit (PKG_CORE_MAP.off (i / 12) (i % 12)) PKG_CORE_MAP.CLUSTER_OFF && s.fld (PKG_CORE_MAP.off (i / 12) (i % 12)) PKG_CORE_MAP.SPARE != 0xF

/-- A visit of the rotation is due at a cluster: ROT_S seconds after the last one, at the cluster next in order (R553, R555). -/
def State.visitDue (s : State) (i : Nat) : Bool :=
  s.bit TST_CTL.off TST_CTL.ROT_EN && s.power.fw && s.visitNext == some i &&
    decide (s.tst.visited + max 1 (s.fld TST_CTL.off TST_CTL.ROT_S) * 1000000000 ≤ s.time)

/-- A visit of the rotation starts with the test of the spare (R553). -/
def execFieldTestVisit (k : Fin 4) (cl : Fin 12) (s : State) : Out :=
  let i := k.val * 12 + cl.val
  let s1 := { s with tst := { s.tst with visit := (i + 1) % 48, visited := s.time } }
  .next (if s.visitDue i && s.testable k.val cl.val then
      if Config.contentOk s.flash.content then s1.modCluster i fun c => { c with test := true }
      else s1.contentRecord
    else s)

/-- The logical core that a visit moves onto the spare: one placed first in the order, else the one that TEST named, else the next in turn;
none when the visit makes no swap (R553, R556). -/
def State.swapCore (s : State) (k cl : Nat) : Option Nat :=
  let c := s.cluster (k * 12 + cl)
  match c.visitQ with
  | some q => if q < 8 then some q else none
  | none =>
    match c.first.findSome? fun p => (List.range 8).find? fun q => s.physCore (k * 256 + cl * 16 + q) == p with
    | some q => some q
    | none => some c.nextQ

/-- The spare has passed: the swap of the visit is decided, a hot repair in which the core that serves `q` becomes the spare. -/
def State.testPassed (s : State) (k cl : Nat) : State :=
  let c := s.cluster (k * 12 + cl)
  let q := s.swapCore k cl
  let turn := q == some c.nextQ && c.visitQ.isNone
  let s1 := s.modCluster (k * 12 + cl) fun c =>
    { c with test := false, testOk := true, visitQ := none, nextQ := if turn then (c.nextQ + 1) % 8 else c.nextQ }
  match q with
  | some q => s1.modCluster (k * 12 + cl) fun c => { c with repSt := 1, repPhys := s.physCore (k * 256 + cl * 16 + q), swap := true }
  | none => s1

/-- The spare has failed: a record, and the spare is retired, unless the failure was injected (R534, R553, R563). (log 53, DEDUCED) -/
def State.testFailed (s : State) (k cl : Nat) : State :=
  let phys := s.fld (PKG_CORE_MAP.off k cl) PKG_CORE_MAP.SPARE
  let u := mkUnit k cl phys 0 0xFFFF
  let (s1, i) := (s.modCluster (k * 12 + cl) fun c => { c with test := false, testOk := false, visitQ := none }).openRecord
    (mkDet 0x16 u none 1 2 8 0 0 0 0) false
  let s2 := if s1.recInj i then s1
    else
      let h := s1.histOf u
      let s2 := (s1.putHist { h with pers := h.pers + 1, last := s1.time, dirty := true }).markUnit u .retired
      s2.dropSpare k cl phys
  match i with | some j => s2.closeRecord j 2 3 0x06 | none => s2

/-- The test of a cluster's spare ends (R553, R556). -/
def execFieldTestDone (k : Fin 4) (cl : Fin 12) (pass : Bool) (s : State) : Out :=
  let c := s.cluster (k.val * 12 + cl.val)
  let u := mkUnit k.val cl.val (s.fld (PKG_CORE_MAP.off k.val cl.val) PKG_CORE_MAP.SPARE) 0 0xFFFF
  let ok := pass && !s.armed 0x16 u
  .next (if c.test then
      let s1 := if ok then s.testPassed k.val cl.val else s.testFailed k.val cl.val
      match s.tst.cmd with
      | some t =>
        if bits t.toNat 28 4 == k.val && bits t.toNat 24 4 == cl.val then s1.tstEnd t (if ok then 1 else 2) else s1
      | none => s1
    else s)

/-- The unit code names a unit (R24): a core has 32 RAM banks at most and a cluster memory 16 (R234), a near die 32 channels (R234), a
collective unit 16 adder slices (R549); which routers a NoC has the spec does not say. (log 74, DESIGN CHOICE) -/
def unitNamed (u : UnitCode) : Bool :=
  let v := u.toNat
  let die := bits v 28 4
  let cl := bits v 24 4
  let co := bits v 20 4
  let en := bits v 16 4
  let sub := bits v 0 16
  let whole := sub == 0xFFFF
  let upTo (n : Nat) : Bool := whole || decide (sub ≤ n)
  if die < 4 then
    if cl < 12 then
      (decide (co < 9) && decide (en < 4) && (if en = 1 then upTo 129 else if en = 2 then upTo 255 else upTo 31)) ||
        (co == 0xF && ((en == 0 && whole) || (en == 3 && upTo 15)))
    else if cl < 15 then co == 0 && ((en == 3 && upTo 63) || (en == 4 && whole))
    else co == 0 && en == 3 && (whole || Config.nocRouter sub)
  else if die < 8 then (decide (cl < 4) && co == 0 && en == 5 && upTo 7) || (cl == 15 && co == 0 && en == 6 && upTo 15)
  else if die = 8 then
    (cl == 0 && en == 7 && whole) || ((cl == 1 || cl == 2) && co == 0 && en == 3 && upTo 15) || (cl == 3 && co == 0 && en == 3 && whole) ||
      (cl == 4 && co == 0 && en == 5 && upTo 15)
  else if die < 13 then cl == 0 && co == 0 && en == 3 && upTo 31
  else die == 13 && decide (v - 0xD0000000 ≤ 3)

/-- The unit code names a compute core or one of its engines (R24). -/
def isCoreUnit (u : UnitCode) : Bool :=
  decide (bits u.toNat 28 4 < 4) && decide (bits u.toNat 24 4 < 12) && decide (bits u.toNat 20 4 < 9) && unitNamed u

/-- TST_CMD with OP TEST (R556). -/
def State.cmdTest (s : State) (u : UnitCode) : State :=
  let k := bits u.toNat 28 4
  let cl := bits u.toNat 24 4
  let phys := bits u.toNat 20 4
  let o := PKG_CORE_MAP.off k cl
  if s.bit TST_STS.off TST_STS.BUSY then s
  else if !isCoreUnit u || s.bit o PKG_CORE_MAP.CLUSTER_OFF || s.fld o PKG_CORE_MAP.SPARE == 0xF then s.tstEnd u 3
  else
    let q := if s.fld o PKG_CORE_MAP.SPARE = phys then some 8
      else (List.range 8).find? fun q => s.physCore (k * 256 + cl * 16 + q) == phys
    match q with
    | none => s.tstEnd u 3
    | some q =>
      if !Config.contentOk s.flash.content then s.contentRecord.tstEnd u 3
      else if s.testable k cl then (s.modCluster (k * 12 + cl) fun c => { c with test := true, visitQ := some q }).tstBusy u
      else s.tstEnd u 4

def execTest (unit : UnitCode) (s : State) : Out := .next (s.cmdTest unit)

/-- The bits of ERR_SVC that follow from the maps, the shutters, the spare rows and what flash holds, computed anew (R551, R573). -/
def State.svcBits (s : State) : State :=
  let off := (List.range 48).map fun i => PKG_CORE_MAP.off (i / 12) (i % 12)
  let shutEng (e : Nat) : Bool := s.shut.any fun u => bits u.toNat 28 4 < 9 && bits u.toNat 16 4 == e
  let few (k : Nat) : Bool := decide (8 < (s.shut.filter fun u => bits u.toNat 28 4 == 4 + k && bits u.toNat 16 4 == 6).length)
  let s1 := s.setFld ERR_SVC.off ERR_SVC.NOSPARE (b2n (off.any fun o => s.fld o PKG_CORE_MAP.SPARE == 0xF))
  let s2 := s1.setFld ERR_SVC.off ERR_SVC.CLOFF (b2n (off.any fun o => s.bit o PKG_CORE_MAP.CLUSTER_OFF))
  let s3 := (s2.setFld ERR_SVC.off ERR_SVC.UPD (b2n (shutEng 4))).setFld ERR_SVC.off ERR_SVC.CC (b2n (shutEng 7))
  let s4 := s3.setFld ERR_SVC.off ERR_SVC.COL (b2n ((List.range 4).any few))
  let near := nearSpent s.spareRows || s.shut.any fun u => decide (9 ≤ bits u.toNat 28 4)
  let s5 := (s4.setFld ERR_SVC.off ERR_SVC.NEAR (b2n near)).setFld ERR_SVC.off ERR_SVC.HBM (b2n s.flash.spent)
  s5.setFld ERR_SVC.off ERR_SVC.FLASH (b2n s.flash.full)

/-- A unit of the shutter list returns to service (R550, R557). -/
def State.unshut (s : State) (u : UnitCode) : State :=
  let s1 := { s with shut := s.shut.filter (· != u), flash := { s.flash with shut := s.flash.shut.filter (· != u) } }
  ((s1.markUnit u .active).measMaps).svcBits

/-- The core is retired by the history or by its cluster's map. -/
def State.isRetired (s : State) (k cl phys : Nat) : Bool :=
  bits (s.fld (PKG_CORE_MAP.off k cl) PKG_CORE_MAP.RETIRED) phys 1 == 1 || (s.histOf (mkUnit k cl phys 0 0xFFFF)).st == .retired

/-- A retired core that has passed becomes the spare, or completes the 8 good cores of a shuttered cluster (R557). -/
def State.restoreCore (s : State) (k cl phys : Nat) : State :=
  let o := PKG_CORE_MAP.off k cl
  let s1 := (s.setFld o PKG_CORE_MAP.RETIRED (s.fld o PKG_CORE_MAP.RETIRED &&& (0x1FF - 2 ^ phys))).markUnit (mkUnit k cl phys 0 0xFFFF) .active
  let s2 :=
    if s.bit o PKG_CORE_MAP.CLUSTER_OFF then
      let lmap := s.fld o PKG_CORE_MAP.LMAP
      let used := (List.range 8).map fun q => bits lmap (4 * q) 4
      let lost := used.find? fun p => s1.isRetired k cl p
      let s2 := (s1.setFld o PKG_CORE_MAP.CLUSTER_OFF 0)
      (match lost with
       | some p => (s2.setFld o PKG_CORE_MAP.LMAP (remap lmap p phys)).setFld o PKG_CORE_MAP.SPARE 0xF
       | none => if used.contains phys then s2 else s2.setFld o PKG_CORE_MAP.SPARE phys)
    else s1.setFld o PKG_CORE_MAP.SPARE phys
  ((s2.modCluster (k * 12 + cl) fun c => { c with testOk := true }).saveMap k cl).svcBits

/-- The good cores of a cluster once `phys` is good again. -/
def State.goodWith (s : State) (k cl phys : Nat) : Nat := ((List.range 9).filter fun p => p == phys || !s.isRetired k cl p).length

/-- The links whose repair maps a unit code clears (R557). -/
def restoreLinks (u : UnitCode) : List Nat :=
  if u = 0x8405FFFF then [12, 13, 14, 15]
  else match (List.range 4).find? fun k => u == mkUnit k 15 0 3 0xFFFF with
    | some k => [k, 4 + k, 8 + k]
    | none => []

/-- The repair maps of a list of links cleared, their modules trained without them (R557, R580). -/
def State.clearRepair (s : State) (l : List Nat) : State :=
  let keep (x : Nat × DlMap) : Bool := !l.contains (x.1 / 32)
  let s1 := { s with flash := { s.flash with repair := s.flash.repair.filter keep } }.dlTrainAll l
  (l.foldl (fun s n => s.bump (PKG_DL_ERR.off n) PKG_DL_ERR.RETRAIN (dlCount n)) s1).measMaps

/-- TST_CMD with OP RESTORE; `pass` is what the unit's test, or the training of every module, gave (R557). -/
def State.cmdRestore (s : State) (u : UnitCode) (pass : Bool) : State :=
  let k := bits u.toNat 28 4
  let cl := bits u.toNat 24 4
  let phys := bits u.toNat 20 4
  let o := PKG_CORE_MAP.off k cl
  let en := bits u.toNat 16 4
  if s.bit TST_STS.off TST_STS.BUSY then s
  else if !(restoreLinks u).isEmpty then (s.clearRepair (restoreLinks u)).tstEnd u (if pass then 1 else 2)
  else if isCoreUnit u then
    let off := s.bit o PKG_CORE_MAP.CLUSTER_OFF
    let fits := if off then decide (8 ≤ s.goodWith k cl phys) else s.fld o PKG_CORE_MAP.SPARE == 0xF
    if !s.isRetired k cl phys || !fits || !Config.contentOk s.flash.content then s.tstEnd u 3
    else if pass then (s.restoreCore k cl phys).tstEnd u 1
    else s.tstEnd u 2
  else if s.shut.contains u && (en == 4 || en == 7) then (if pass then (s.unshut u).tstEnd u 1 else s.tstEnd u 2)
  else s.tstEnd u 3

def execRestore (unit : UnitCode) (pass : Bool) (s : State) : Out := .next (s.cmdRestore unit pass)

/-- TST_CMD with OP CLEAR_HIST (R557). -/
def State.clearHist (s : State) (unit : UnitCode) : State :=
  if s.bit TST_STS.off TST_STS.BUSY then s
  else match s.hist.find? fun h => h.unit == unit with
    | some h => if h.st == .active then (s.putHist { h with trans := 0, pers := 0, dirty := true }).tstEnd unit 1 else s.tstEnd unit 3
    | none => s.tstEnd unit 3
def execClearHist (unit : UnitCode) (s : State) : Out := .next (s.clearHist unit)

/-! Sampled replay (R558 to R560). -/

/-- The spare's result of the sampled mmx is compared with what landed. An injection armed at the sampled core makes the first comparison
differ (R562). -/
def State.compareSample (s : State) (k cl : Nat) (x : Sample) (run1 run2 : SpareRun) : State :=
  let i := k * 12 + cl
  let phys := x.phys
  let u := mkUnit k cl phys engMx 0xFFFF
  let inj := s.armed 0x15 u
  let s1 := (s.modCluster i fun c => { c with sample := none }).bump ERR_XSAMPLE_CNT.off ERR_XSAMPLE_CNT.DONE 1
  let s1 := if run1.upset.isEmpty && !inj then s1
    else
      let s2 := s1.bump ERR_XSAMPLE_CNT.off ERR_XSAMPLE_CNT.DIFF 1
      let det (u : UnitCode) : Detection := mkDet 0x15 u (some x.ctx) 2 2 1 x.cls x.op 0 (BitVec.ofNat 64 x.pc)
      if run1 == run2 then
        let (s3, r) := s2.openRecord (det u) false
        let s4 := (s3.chargeRec r u 0x15 false).testFirst i phys
        match r with | some j => s4.closeRecord j 3 2 0x0A | none => s4
      else
        let v := mkUnit k cl x.spare engMx 0xFFFF
        let (s3, r) := s2.openRecord (det v) inj
        let s4 := s3.chargeRec r v 0x15 false
        let s4 := if s3.recInj r || s4.isRetired k cl x.spare then s4 else s4.retireCore k cl x.spare
        let s4 := if inj then s4.fired r else s4
        match r with | some j => s4.closeRecord j 3 3 0x06 | none => s4
  s1

def execSampleCompare (k : Fin 4) (cl : Fin 12) (run1 : SpareRun) (run2 : SpareRun) (s : State) : Out :=
  .next (match (s.cluster (k.val * 12 + cl.val)).sample with
    | some x => s.compareSample k.val cl.val x run1 run2
    | none => s)

/-! Injection (R561, R562). -/

/-- A detector of R534, or of the power controller (R596, R601). -/
def detListed (d : Nat) : Bool := decide (1 ≤ d) && decide (d ≤ 0x1F)

/-- A write to TST_INJ (R561, R562). (log 47, DEDUCED) -/
def State.writeInj (s : State) (sz : CsrSize) (v : Word) : State :=
  let old := s.csrGet TST_INJ.off
  let new := mergeSz old sz v
  let arm := getFld (match sz with | .lo32 => 0 | _ => new) TST_INJ.ARM == 1
  if getFld old TST_INJ.ARM = 1 then s
  else
    let body := new &&& ((0x7FFFC000FFFFFFFF : Word))
    let ok := arm && detListed (getFld new TST_INJ.DET) && unitNamed (BitVec.ofNat 32 (getFld new TST_INJ.UNIT))
    let s1 := s.csrSet TST_INJ.off (if ok then body.setFld 63 1 1 else body)
    if ok then
      { s1.setFld TST_INJ_STS.off TST_INJ_STS.FIRED 0 with tst := { s1.tst with left := max 1 (getFld new TST_INJ.COUNT) } }
    else s1

def execTstInjArm (sz : CsrSize) (v : Word) (s : State) : Out := .next (s.writeInj sz v)

end Sys2Proof.Machine
end

