-- ==== Sys2Proof/Machine/Louvre.lean ====
section
/-! DEFINITION. Louvre steps and the limiters that demand them (17_power_startup_thermal.md R592, R604 to R609), and the refresh of the
measured fields (R611). -/

namespace Sys2Proof.Machine

/-- The power controller's state changed. -/
def State.modPower (s : State) (f : Power → Power) : State := { s with power := f s.power }

/-- The unit that power records name (R600, R601). -/
def unitPower : UnitCode := 0xD0000002

/-- VCk in mV at a louvre step (R605). -/
def stepMv (st : Nat) : Nat := if st ≤ 8 then 750 - 10 * st else 670
/-- The set value of a rail in mV (R593): the rails of the compute dies' cores follow the louvre step. -/
def railMv (n : Nat) (step : Nat) : Nat :=
  if n < 4 then stepMv step else [800, 800, 800, 800, 800, 800, 750, 900, 1050, 700, 1800, 3300].getD (n - 4) 0
/-- The current limit of a rail in units of 0.1 A (R593). -/
def railLimit (n : Nat) : Nat := if n < 4 then 4200 else [1500, 1500, 1500, 1500, 1200, 1100, 2300, 2000, 2500, 1800, 200, 50].getD (n - 4) 0

/-! The step in force (R606, R607). -/

/-- A demand on a die by CAUSE, a louvre step from 0 to 15 (R605, R607, R608). (log 55, DEDUCED) -/
def State.demandOf (s : State) (k cause : Nat) : Nat :=
  if cause = 1 then s.fld PWR_LOUVRE.off PWR_LOUVRE.FLOOR else min 15 (tget 0 s.power.demand (k * 16 + cause))

/-- The greatest demand on a die and the lowest CAUSE among those equal to it (R607). -/
def State.greatest (s : State) (k : Nat) : Nat × Nat :=
  (List.range' 2 9).foldl (fun m c => if m.1 < s.demandOf k c then (s.demandOf k c, c) else m) (s.demandOf k 1, 1)

/-- The cores of a die above the activity cap fall to it at once (R186, R605). -/
def State.capLevels (s : State) (k cap : Nat) : State :=
  let f (x : Nat × Core) : Nat × Core :=
    if !isCtl x.1 && keyDie x.1 == k && decide (cap < x.2.mx.level) then (x.1, { x.2 with mx := { x.2.mx with level := cap, cntW := 0 } }) else x
  { s with cores := s.cores.map f }

/-- A die takes a new step (R606): to a higher one ACLK goes first, to a lower one VCk; the other follows when the change completes. An entry
into a step from 9 to 15 is an event and an in-band interrupt (R611, R650). -/
def State.changeStep (s : State) (k old st : Nat) : State :=
  let s1 := if 9 ≤ st then (s.setFld PWR_EVT.off PWR_EVT.LOUVRE_HIGH 1).ibi 0x01 else s
  let f (p : Power) : Power :=
    { p with moving := setIns p.moving k, changed := tset p.changed k s.time, due := if 9 ≤ st then setIns p.due k else p.due,
             aclk := if old < st then tset p.aclk k st else p.aclk }
  let s2 := (s1.modPower f).capLevels k (stepCap st)
  if old < st then s2 else s2.setFld (PWR_RAIL.off k) PWR_RAIL.SET (stepMv st)

/-- The step and the cause of a die follow its demands (R607). (log 55, DEDUCED) -/
def State.louvre1 (s : State) (k : Nat) : State :=
  let (st, ca) := s.greatest k
  let old := s.louvre k
  let s1 := s.csrSet PWR_LOUVRE.off (((s.csrGet PWR_LOUVRE.off).setFld (4 * k) 4 st).setFld (16 + 4 * k) 4 ca)
  if st = old then s1 else s1.changeStep k old st

/-- Every die follows its demands. -/
def State.louvres (s : State) : State := (List.range 4).foldl State.louvre1 s

/-- A demand set; above 15 it stays at 15. -/
def State.demand (s : State) (k cause v : Nat) : State := s.modPower fun p => { p with demand := tset p.demand (k * 16 + cause) (min v 15) }
/-- A demand raised on a list of dies. -/
def State.raiseD (s : State) (ks : List Nat) (cause n : Nat) : State := ks.foldl (fun s k => s.demand k cause (s.demandOf k cause + n)) s
/-- A demand lowered by 1 on a list of dies. -/
def State.lowerD (s : State) (ks : List Nat) (cause : Nat) : State := ks.foldl (fun s k => s.demand k cause (s.demandOf k cause - 1)) s
/-- A demand set on a list of dies. -/
def State.setD (s : State) (ks : List Nat) (cause v : Nat) : State := ks.foldl (fun s k => s.demand k cause v) s

/-! The limiters (R608). -/

def dies : List Nat := [0, 1, 2, 3]

/-- The evaluation of the power cap, each 1 ms (R608). A peak demand is held and falls with the power cap's. -/
def State.capEval (s : State) : State :=
  let p := s.fld PWR_IN.off PWR_IN.P1MS
  let cap := s.fld PWR_CAP.off PWR_CAP.CAP
  let calm := tget 0 s.power.calm 2
  let setCalm (s : State) (n : Nat) : State := s.modPower fun q => { q with calm := tset q.calm 2 n }
  if cap < p then ((setCalm s 0).setFld PWR_EVT.off PWR_EVT.CAP 1).raiseD dies 2 1
  else if p * 100 < cap * 95 then (if calm + 1 < 10 then setCalm s (calm + 1) else ((setCalm s 0).lowerD dies 2).lowerD dies 3)
  else setCalm s 0

def execPowerCapEvaluation (s : State) : Out := .next (if s.power.ok then s.capEval.louvres else s)

/-- The evaluation of the peak, each 100 us (R608). -/
def execPeakEvaluation (s : State) : Out :=
  .next (if s.power.ok && decide (s.fld PWR_CAP.off PWR_CAP.PEAK < s.fld PWR_IN.off PWR_IN.P100US) then
      ((s.setFld PWR_EVT.off PWR_EVT.CAP 1).raiseD dies 3 2).louvres
    else s)

/-- The LIMIT bit of a rail (R611). -/
def State.limitBit (s : State) (n : Nat) (b : Bool) : State :=
  s.csrSet PWR_STS.off ((s.csrGet PWR_STS.off).setFld (16 + n) 1 (b2n b))

/-- A rail of a compute die at its current limit, or clear of it (R608). -/
def execRailCurrentDemand (n : Fin 8) (ev : RailLimitEv) (s : State) : Out :=
  let k := n.val % 4
  .next (if s.power.ok then
      (match ev with
      | .reach => (s.limitBit n.val true).raiseD [k] 4 2
      | .stay => (s.limitBit n.val true).raiseD [k] 4 1
      | .clear10ms => (s.limitBit n.val false).lowerD [k] 4).louvres
    else s)

/-- A temperature demand of one die: 15 at once above `hot`, a rise of 1 above `hi`, a fall of 1 below `lo` when one is due (R608). -/
def State.thermD (s : State) (ks : List Nat) (cause : Nat) (t hot hi lo : Int) (tenth : Bool) : State :=
  if hot < t then (s.setFld PWR_EVT.off PWR_EVT.THERM 1).setD ks cause 15
  else if hi < t then (s.setFld PWR_EVT.off PWR_EVT.THERM 1).raiseD ks cause 1
  else if t < lo && tenth then s.lowerD ks cause
  else s

/-- The evaluation of the temperatures, each 1 ms (R608); degrees in units of 1/8. A converter stage has no limit that demands 15 at once. -/
def State.thermEval (s : State) (tm : Temps) : State :=
  let tj : Int := s.fld PWR_THERM.off PWR_THERM.TJ_TARGET
  let s1 := dies.foldl (fun s k => s.thermD [k] 5 (tm.tj.getD k 0) ((tj + 10) * 8) (tj * 8) ((tj - 3) * 8) tm.tenth) s
  let s2 := dies.foldl (fun s k => s.thermD [k] 6 (tm.thbm.getD k 0) 800 720 696 tm.tenth) s1
  s2.thermD dies 9 tm.conv (tm.conv + 1) 880 840 tm.tenth

def execThermalDemandEvaluation (tm : Temps) (s : State) : Out := .next (if s.power.ok then (s.thermEval tm).louvres else s)

/-- The demand of the coolant inlet: 2 for each whole degree above 40, 15 above 45 (R608). -/
def inletDemand (t : Int) : Nat := if 360 < t then 15 else 2 * ((t - 320) / 8).toNat
/-- The demand of the coolant flow (R608). -/
def flowDemand (f : Nat) : Nat := if f < 1500 then 15 else if f < 2500 then 8 else 0

def execCoolantDemand (inlet8 : Int) (flow : Nat) (s : State) : Out :=
  .next (if s.power.ok then
      let s1 := s.flagIf PWR_EVT.off PWR_EVT.COOLANT (inletDemand inlet8 != 0 || flowDemand flow != 0)
      ((s1.setD dies 7 (inletDemand inlet8)).setD dies 8 (flowDemand flow)).louvres
    else s)

/-- The power management link is silent for 1 ms (R592, R608). -/
def execPmLinkSilent (s : State) : Out :=
  .next (if s.power.ok then
      (((s.modPower fun p => { p with silent := true }).setFld PWR_STS.off PWR_STS.LINK 0).setD dies 10 15).louvres
    else s)

/-- The power controller's measurements of the input (R592, R611). -/
def State.inputMeas (s : State) (m : PmMeasure) : State :=
  s.csrSet PWR_IN.off (BitVec.ofNat 64 (put m.vin.toNat 48 + put m.iin.toNat 32 + put m.p1ms.toNat 16 + m.p100us.toNat))

/-- A message of the power management link: measurements come, and each millisecond fabric time goes; a silence ends (R592). -/
def execPmLinkMessage (m : PmMeasure) (s : State) : Out :=
  .next (if s.power.ok then
      let f (p : Power) : Power := { p with silent := false, heard := if p.heard + 1000000 ≤ s.time then s.time else p.heard }
      ((((s.inputMeas m).modPower f).setFld PWR_STS.off PWR_STS.LINK 1).setD dies 10 0).louvres
    else s)

/-- FLOOR written (R607). -/
def State.writeFloor (s : State) (v : Nat) : State := (s.setFld PWR_LOUVRE.off PWR_LOUVRE.FLOOR v).louvres

/-- A write to PWR_LOUVRE, whose one writable field, FLOOR, lies in its upper half (R6, R607). -/
def State.louvreWrite (s : State) (sz : CsrSize) (v : Word) : State :=
  match sz with
  | .lo32 => s
  | _ => s.writeFloor (getFld (mergeSz (s.csrGet PWR_LOUVRE.off) sz v) PWR_LOUVRE.FLOOR)

def execPwrLouvreWrite (sz : CsrSize) (v : Word) (s : State) : Out := .next (s.louvreWrite sz v)

/-- A change of step completes: ACLK and VCk stand at the step in force (R606). -/
def execLouvreChangeComplete (k : Fin 4) (s : State) : Out :=
  .next (if s.power.moving.contains k.val then
      let st := s.louvre k.val
      (s.setFld (PWR_RAIL.off k.val) PWR_RAIL.SET (stepMv st)).modPower fun p =>
        { p with moving := setDel p.moving k.val, aclk := tset p.aclk k.val st }
    else s)

/-- A step that stayed for 1 ms is reported, at most once in 10 ms but for an entry into a step from 9 to 15 (R609). -/
def execPowerRecord (k : Fin 4) (s : State) : Out :=
  .next (match tget? s.power.changed k.val with
    | some t =>
      let calm := match tget? s.power.posted k.val with | some p => decide (p + 10000000 ≤ s.time) | none => true
      if t + 1000000 ≤ s.time ∧ (calm || s.power.due.contains k.val) = true then
        let w := s.csrGet PWR_LOUVRE.off
        let f (p : Power) : Power :=
          { p with changed := terase p.changed k.val, posted := tset p.posted k.val s.time, due := setDel p.due k.val }
        (s.modPower f).postPfs 0x09 (put k.val 12 + put (w.fld (16 + 4 * k.val) 4) 8 + s.louvre k.val) 0 [w]
      else s
    | none => s)

/-! Droops and open sense lines (R595, R604). -/

/-- The droop count of a die. -/
def droopFld (k : Nat) : Fld := ⟨16 * k, 16⟩

/-- The record of a power detector that trips nothing. An injection strikes it at the sensor that PWR_INJSEL names, and only on a side that
it has (R562, R601). -/
def State.pwrRecord (s : State) (d : Detection) (sensor : Nat) (side : Bool) : State × Option Nat :=
  if s.fld PWR_INJSEL.off PWR_INJSEL.SENSOR == sensor && side then s.openRecord d false else s.takeDetection d false

/-- VCk falls below 92 % of its set value: ACLK is halved, the event counted; more than 16 within 1 ms raise the die's step by 1, which this
model places as a rail current demand (R604). (log 56, DESIGN CHOICE) -/
def State.droopEv (s : State) (k : Nat) (ov : Bool) : State :=
  let l := s.time :: (tget [] s.power.droops k).filter fun t => decide (s.time < t + 1000000)
  let up := ov || decide (16 < l.length)
  let f (p : Power) : Power := { p with halved := tset p.halved k s.time, droops := tset p.droops k (if up then [] else l) }
  let s1 := (((s.modPower f).bump PWR_DROOP.off (droopFld k) 1).setFld PWR_EVT.off PWR_EVT.DROOP 1)
  let s2 := (s1.pwrRecord (mkDet 0x1B unitPower none 0 0 0 0 0 0 (BitVec.ofNat 64 (put k 56))) k (!s.bit PWR_INJSEL.off PWR_INJSEL.SIDE)).1
  if up then (s2.raiseD [k] 4 1).louvres else s2

def execDroop (k : Fin 4) (over16 : Bool) (s : State) : Out := .next (if s.power.ok then s.droopEv k.val over16 else s)

/-- VCk has recovered and at least 200 ns have passed: ACLK is whole again (R604). -/
def execDroopRecovery (k : Fin 4) (s : State) : Out :=
  .next (match tget? s.power.halved k.val with
    | some t => if t + 200 ≤ s.time then s.modPower fun p => { p with halved := terase p.halved k.val } else s
    | none => s)

/-- A rail goes over to local sensing (R595). -/
def execSenseOpen (n : Fin 16) (s : State) : Out :=
  .next (if s.power.ok then
      let s1 := (s.csrSet PWR_STS.off ((s.csrGet PWR_STS.off).setFld (32 + n.val) 1 1)).setFld PWR_EVT.off PWR_EVT.SENSE_OPEN 1
      (s1.pwrRecord (mkDet 0x1A unitPower none 0 0 0 0 0 0 (BitVec.ofNat 64 (put n.val 56))) n.val true).1
    else s)

/-! Measured fields (R611). -/

/-- The greatest of signed 16-bit readings. -/
def hottest (l : List (BitVec 16)) : BitVec 16 :=
  match l with
  | [] => 0
  | a :: t => t.foldl (fun m x => if m.toInt < x.toInt then x else m) a

/-- The measured fields take a refresh; SET stays what the step in force makes it (R611). (log 57, DEDUCED) -/
def State.refresh (s : State) (m : Sensors) : State :=
  let s1 := { s.inputMeas m.pm with sens := m }
  let s2 := s1.csrSet PWR_TEMP.off (BitVec.ofNat 64 (put (hottest m.tj).toNat 48 + put (hottest m.thbm).toNat 32 + put m.inlet.toNat 16 + m.outlet.toNat))
  let s3 := (s2.setFld PWR_FLOW.off PWR_FLOW.FLOW m.flow.toNat).setFld PWR_STS.off PWR_STS.LIMIT m.limit.toNat
  (List.range 16).foldl (fun s n =>
    let r := m.rails.getD n (0, 0)
    (s.setFld (PWR_RAIL.off n) PWR_RAIL.V r.1.toNat).setFld (PWR_RAIL.off n) PWR_RAIL.I r.2.toNat) s3

def execSensorRefresh (m : Sensors) (s : State) : Out := .next (if s.power.ok then s.refresh m else s)

end Sys2Proof.Machine
end

