-- ==== Sys2Proof/Machine/Power.lean ====
section
/-! DEFINITION. Start-up, protection trips, cold reset and restart (17_power_startup_thermal.md R590 to R603), the verification of firmware
(18_security_attestation.md R616 to R620), READY (R529, R602, R617). -/

namespace Sys2Proof.Machine

/-! Trips (R596, R597). -/

/-- The group in which a rail rises, in the order 0, 1, 2, 2b, 3 (R593, R594). -/
def railStage (n : Nat) : Nat := if n < 4 then 4 else if n < 13 then 2 else if n = 13 then 3 else if n = 14 then 1 else 0
/-- The place of a rail group in the order of R594. -/
def groupStage : RailGroup → Nat
  | .g0 => 0
  | .g1 => 1
  | .g2 => 2
  | .g2b => 3
  | .g3 => 4

/-- A unit that a rail feeds, one of another die standing for those that have no code (R593). -/
def railUnit (n : Nat) : UnitCode :=
  if n < 4 then mkUnit n 0 0 0 0xFFFF
  else if n < 8 then mkUnit (n - 4) 15 0 3 0xFFFF
  else if n = 8 then unitPkg
  else if n = 9 then unitPort 0
  else if n = 10 then unitSite 0
  else unitPower

/-- Temperature, voltage, ACLK and louvre step last reported for the unit that a trip concerns (R597). -/
def State.tripEnv (s : State) (kind sensor : Nat) : Word :=
  if 5 ≤ kind ∧ kind ≤ 8 then (s.envWord (railUnit sensor)).setFld 32 16 (s.fld (PWR_RAIL.off sensor) PWR_RAIL.V)
  else if kind = 9 then s.envWord (mkUnit sensor 0 0 0 0xFFFF)
  else if kind = 10 then (s.envWord (unitHbm (sensor - 4))).setFld 48 16 (s.sens.thbm.getD (sensor - 4) 0).toNat
  else s.envWord unitPower

/-- A kind whose trip counts towards the three of R599 and gets a record (R600). -/
def protKind (k : Nat) : Bool := decide (2 ≤ k) && decide (k ≤ 14)

/-- A trip (R597, R599): the log, READY, the rails' fall, PWR_FAIL on its way. Whatever was being reset or started ends with it (R599). (log 54, DESIGN CHOICE) -/
def State.trip (s : State) (kind sensor value : Nat) : State :=
  if s.power.on then
    let now := s.power.clock
    let t : Trip := ⟨kind, sensor, value % 65536, s.power.heard, s.tripEnv kind sensor, !protKind kind⟩
    let near := if protKind kind then now :: s.power.recent.filter (fun x => decide (now ≤ x + 60000000000)) else s.power.recent
    let f (p : Power) : Power :=
      { p with on := false, groups := 0, ok := false, trip := some (kind, now), recent := near, held := p.held || (protKind kind && decide (3 ≤ near.length)),
               trips := (t :: p.trips).take 16, fail := true, fw := false, rst := none }
    ((s.setReady 0).setFld PWR_STS.off PWR_STS.PWR_OK 0).modPower f
  else s

/-- An injection makes a detector of the power controller read its sensor as past the threshold of a side (R601). -/
def State.pwrInjected (s : State) (det sensor : Nat) (high : Bool) : Bool :=
  s.armed det unitPower && s.fld PWR_INJSEL.off PWR_INJSEL.SENSOR == sensor && s.bit PWR_INJSEL.off PWR_INJSEL.SIDE == high

/-- A protection: a trip when the reading is past its threshold or an injection says so (R563, R596, R601). -/
def State.protect (s : State) (det kind sensor value : Nat) (high real : Bool) : State :=
  let inj := s.pwrInjected det sensor high
  if s.power.on && (real || inj) then (if inj then s.fired none else s).trip kind sensor value else s

/-- The 16-bit reading of a temperature in units of 1/8 degree. -/
def temp16 (t : Int) : Nat := (BitVec.ofInt 16 t).toNat

def execInputUndervoltage (mv : Nat) (s : State) : Out := .next (s.protect 0x17 1 0 mv false (decide (mv < 46000)))
def execInputOvervoltage (mv : Nat) (s : State) : Out := .next (s.protect 0x17 2 0 mv true (decide (60500 < mv)))
def execInputOvercurrent (dA : Nat) (s : State) : Out := .next (s.protect 0x18 3 0 dA true (decide (650 ≤ dA)))

/-- A short behind the input switch: a current above 90 A, or the bus below 8 V, of which the command gives only the current (R596). -/
def execInputSwitchShort (dA : Nat) (s : State) : Out := .next (s.protect 0x18 4 0 dA true true)

/-- A rail that is being started stays below 90 % of its set value (R596). -/
def execRailStartFail (n : Fin 16) (mv : Nat) (s : State) : Out :=
  .next (if railStage n.val = s.power.groups ∧ mv * 10 < railMv n.val 0 * 9 then s.trip 5 n.val mv else s)

/-- The set values of a rail now in force, lowest and highest: while a change of louvre step is in progress, VCk lies between the old and the
new (R595, R606, R611). -/
def State.setBand (s : State) (n : Nat) : Nat × Nat :=
  let v := if s.power.ok then s.fld (PWR_RAIL.off n) PWR_RAIL.SET else railMv n 0
  if s.power.moving.contains n then
    let a := stepMv (s.louvre n)
    let b := stepMv (tget 0 s.power.aclk n)
    (min v (min a b), max v (max a b))
  else (v, v)

/-- More than 5 % low after PWR_OK (R596). -/
def execRailUndervoltage (n : Fin 16) (mv : Nat) (s : State) : Out :=
  .next (if s.power.ok then s.protect 0x19 6 n.val mv false (decide (mv * 100 < (s.setBand n.val).1 * 95)) else s)

/-- More than 8 % high (R596). -/
def execRailOvervoltage (n : Fin 16) (mv : Nat) (s : State) : Out :=
  .next (s.protect 0x19 7 n.val mv true (decide ((s.setBand n.val).2 * 108 < mv * 100)))

def execRailOvercurrent (n : Fin 16) (dA : Nat) (s : State) : Out := .next (s.protect 0x19 8 n.val dA true (decide (railLimit n.val ≤ dA)))
def execDieOverTemperature (k : Fin 4) (t8 : Int) (s : State) : Out := .next (s.protect 0x1C 9 k.val (temp16 t8) true (decide (920 < t8)))
def execHbmOverTemperature (m : Fin 12) (t8 : Int) (s : State) : Out := .next (s.protect 0x1C 10 (4 + m.val) (temp16 t8) true (decide (840 < t8)))
def execCoolantTemperatureTrip (t8 : Int) (s : State) : Out := .next (s.protect 0x1D 11 0 (temp16 t8) true (decide (400 < t8)))
def execCoolantFlowTrip (mlMin : Nat) (s : State) : Out := .next (s.protect 0x1D 12 2 mlMin false (decide (mlMin < 500)))
def execConverterOverTemperature (stage : Fin 2) (t8 : Int) (s : State) : Out :=
  .next (s.protect 0x1E 13 stage.val (temp16 t8) true (decide (1000 < t8)))

/-- The link that has been silent stays so for 100 ms after PWR_OK (R592, R596). -/
def execPmLinkTrip (s : State) : Out :=
  .next (if s.power.ok then s.protect 0x1F 14 0 0 (s.bit PWR_INJSEL.off PWR_INJSEL.SIDE) s.power.silent else s)

/-! Cold reset and restart (R29, R530, R532, R598, R599). -/

/-- The state that a cold reset leaves: module flash, fuses and the power controller's own log and clock survive, and the levels that the host
drives on PERST# (R532). The count of cold resets goes up (R623). (log 54, DESIGN CHOICE) -/
def State.cold (s : State) : State :=
  let port (x : Nat × PPort) : Nat × PPort := (x.1, { PPort.reset with perst := x.2.perst })
  { State.reset with
    flash := { s.flash with colds := s.flash.colds + 1 }, fuses := s.fuses, pports := s.pports.map port, freeCtr := s.freeCtr, pending := s.pending,
    power := { Power.reset with clock := s.power.clock, trip := s.power.trip, recent := s.power.recent, held := s.power.held, trips := s.power.trips } }

/-- PWR_FAIL reaches the package controller: a flash program in progress completes, none starts, and the rails go (R597, R598). A program is one
command in this model, so that none is in progress here. -/
def execPwrFail (s : State) : Out := .next (if s.power.fail then s.cold else s)

/-- The switch closes: t0 of a start-up (R590, R602, R603). -/
def State.start (s : State) : State :=
  let s1 := if s.power.fail then s.cold else s
  s1.modPower fun p => { p with on := true, groups := 0, t0 := p.clock, trip := none }

/-- The input rises through 48.0 V (R590, R599): a start, unless a trip of another kind still sets its own time; after three trips the rise
ends the hold. -/
def execInputRise (s : State) : Out :=
  let free := match s.power.trip with | some (k, _) => k == 1 || s.power.held | none => true
  .next (if !s.power.on && free then (s.modPower fun p => if p.held then { p with held := false, recent := [] } else p).start else s)

/-- Reversed input powers nothing and records nothing (R596). -/
def execReversedInput (s : State) : Out := .next s

/-- The power controller starts again after a trip of KIND 2 to 15 (R599). -/
def execTripRestart (inlet8 : Int) (flow : Nat) (s : State) : Out :=
  .next (match s.power.trip with
    | some (k, t) =>
      let wait := if k = 15 then 100000000 else 1000000000
      let cool := !(k == 11 || k == 12) || (decide (inlet8 ≤ 320) && decide (2500 ≤ flow))
      if k != 1 && !s.power.held && decide (t + wait ≤ s.power.clock) && cool then s.start else s
    | none => s)

/-- PKG_RST with OP cold (R532): a trip of KIND 15. -/
def execPkgRstCold (s : State) : Out := .next (s.trip 15 0 0)

/-! Start-up (R594, R600, R602). -/

/-- A rail group is in regulation (R594). -/
def execRailGroupUp (g : RailGroup) (s : State) : Out :=
  .next (if s.power.on && s.power.groups == groupStage g then s.modPower fun p => { p with groups := p.groups + 1 } else s)

/-- The registers that the package controller loads from module flash at PWR_OK (R485, R508, R546, R555, R558, R581, R611, R662, R663). -/
def settingRegs : List Nat :=
  [HST_PORT_CFG.off 0, HST_PORT_CFG.off 1, PKG_DL_CTL.off, PKG_MOD_ID.off, PKG_ALERT.off, ERR_CTL.off, TST_CTL.off, ERR_XSAMPLE.off, PWR_CAP.off,
    PWR_LOUVRE.off, PWR_THERM.off] ++ (List.range 8).map ERR_THR.off ++ (List.range 64).map fun i => PKG_SHARE.off (i / 32) (i % 32)

/-- One setting loaded, its hardware fields left alone. -/
def State.loadSetting (s : State) (o : Nat) : State :=
  match tget? s.flash.regs o with
  | none => s
  | some v =>
    if o = PKG_MOD_ID.off then s.setFld o PKG_MOD_ID.BOARD_REV (getFld v PKG_MOD_ID.BOARD_REV)
    else if o = PKG_ALERT.off then (s.setFld o PKG_ALERT.MASK0 (getFld v PKG_ALERT.MASK0)).setFld o PKG_ALERT.MASK1 (getFld v PKG_ALERT.MASK1)
    else if o = PWR_LOUVRE.off then s.writeFloor (getFld v PWR_LOUVRE.FLOOR)
    else s.csrSet o v

/-- The newest logged trip shown, and the cause of the reset (R528, R600). -/
def State.showTrip (s : State) : State :=
  match s.power.trips with
  | [] => s
  | t :: _ =>
    let cause := if t.kind = 15 then 3 else if protKind t.kind then 6 else 0
    ((s.setFld PKG_RST_STS.off PKG_RST_STS.CAUSE cause).csrSet PWR_TRIP.off (BitVec.ofNat 64 (put t.kind 60 + put t.sensor 56 + put t.value 32))).csrSet
      PWR_TRIP_TIME.off (BitVec.ofNat 64 t.time)

/-- Four new words of the challenge (R630). -/
def State.newNonce (s : State) : State :=
  (List.range 4).foldl (fun s w => let (v, s1) := s.draw; s1.csrSet (SEC_DBG_NONCE.off w) v) s

/-- LOW and EXHAUSTED as NEXT stands (R628). -/
def State.attLimits (s : State) : State :=
  let next := s.fld SEC_ATT_IDX.off SEC_ATT_IDX.NEXT
  let s1 := s.setFld SEC_STS.off SEC_STS.LOW (b2n (decide (2 ^ 40 - 2 ^ 32 ≤ next)))
  if 2 ^ 40 - 1024 ≤ next then s1.setFld SEC_STS.off SEC_STS.ATT 2 else s1

/-- The valid copy of RESV with the higher sequence is taken, and NEXT is set to it (R626). With no valid copy the value is free. -/
def State.loadIndex (s : State) : State :=
  let best := s.flash.resv.foldl (fun (m : Option (Nat × Nat)) x =>
    if x.2.2 then (match m with | some b => if b.1 < x.1 then some (x.1, x.2.1) else some b | none => some (x.1, x.2.1)) else m) none
  let (v, s1) := match best with
    | some b => (b.2, s)
    | none => let (w, s1) := s.draw; (w.toNat % 2 ^ 40, s1)
  (s1.setFld SEC_ATT_RESV.off SEC_ATT_RESV.RESV v).setFld SEC_ATT_IDX.off SEC_ATT_IDX.NEXT v

/-- What the security engine shows at a start: fuse floor, rekey count, index, challenge (R617, R626, R630, R632). -/
def State.secStart (s : State) : State :=
  let s1 := (s.setFld SEC_STS.off SEC_STS.FLOOR s.fuses.floor).setFld SEC_STS.off SEC_STS.REKEYS s.flash.rekeys
  s1.loadIndex.newNonce

/-- PWR_OK (R602): the rails are in regulation, flash settings and history are loaded, the newest trip shown, the die links trained and the near
sites' capabilities decided; ports with PERST# released read their configuration; the fabric ports start to train. -/
def State.powerOk (s : State) (slot : BitVec 4) : State :=
  let s1 := (s.modPower fun p => { p with ok := true }).csrSet PWR_STS.off (BitVec.ofNat 64 (put 1 63 + put 1 62))
  let s2 := { s1 with hist := s1.flash.hist, spareRows := s1.flash.rows, shut := s1.flash.shut }
  let s3 := (List.range 16).foldl (fun s n => s.setFld (PWR_RAIL.off n) PWR_RAIL.SET (railMv n 0)) s2
  let s4 := (settingRegs.foldl State.loadSetting s3).showTrip
  let s5 := (s4.setFld PKG_MOD_ID.off PKG_MOD_ID.SLOT_ID slot.toNat).secStart
  let s6 := (s5.dlTrainAll (List.range 16)).negotiate
  let s7 := [0, 1].foldl (fun s p => if (s.pport p).perst then s else s.samplePort p) s6
  s7.loadFabric (s7.csrGet ROUTE_DIMS.off) (s7.csrGet ROUTE_SLICE.off)

def execPwrOk (slotId : BitVec 4) (s : State) : Out :=
  .next (if s.power.on && !s.power.ok && !s.power.fail && s.power.groups == 5 then s.powerOk slotId else s)

/-! Firmware (R486, R616 to R620). -/

/-- The image in a slot with its header. -/
def State.image (s : State) (i : Nat) : Option (Nat × List Byte × ImageHead) := (tget? s.flash.images i).map fun b => (i, b, Config.imageHead b)

/-- The images in descending SVN, A first on a tie (R616). -/
def State.imageOrder (s : State) : List (Nat × List Byte × ImageHead) :=
  match s.image 0, s.image 1 with
  | some a, some b => if a.2.2.svn.toNat < b.2.2.svn.toNat then [b, a] else [a, b]
  | a, b => a.toList ++ b.toList

/-- The body of an image after its header of 10 KiB. -/
def imageBody (b : List Byte) (h : ImageHead) : List Byte := (b.drop 10240).take h.len

/-- The checks of R616. -/
def State.imageOk (s : State) (x : Nat × List Byte × ImageHead) : Bool :=
  let h := x.2.2
  decide (h.slot < 4) && !s.fuses.revoked.getLsbD h.slot && Config.shake h.pub == Config.keyDigest h.slot &&
    Config.verify h.pub (x.2.1.take h.signed) h.sig && Config.shake (imageBody x.2.1 h) == h.body && decide (s.fuses.floor ≤ h.svn.toNat)

/-- What M3 is extended with: the flash settings that are loaded, in ascending CSR address (R620). -/
def State.settingDigest (s : State) : BitVec 256 :=
  let l := settingRegs ++ fabricFlash
  Config.digest 3 ((s.flash.regs.filter fun x => l.contains x.1).map fun x => x.2.toNat)

/-- H of the text relock (R620). -/
def relockDigest : BitVec 256 := Config.shake [0x72, 0x65, 0x6C, 0x6F, 0x63, 0x6B]

/-- M0 to M7 from zero in ascending order (R620, R631); M1 only with an accepted image. (log 58, DEDUCED) -/
def State.measureAll (s : State) (img : Option (List Byte × ImageHead)) : State :=
  let s0 := ({ s with sec := { s.sec with log := [], ovf := false } }).zeroMeas
  let s1 := s0.extend 0 Config.bootRom
  let s2 := match img with
    | some (b, h) => (s1.extend 1 (Config.shake (b.take 10240))).extend 1 h.body
    | none => s1
  let s3 := (s2.extend 2 (Config.digest 2 (s2.flash.content.map (·.toNat)))).extend 3 s2.settingDigest
  let s4 := s3.measMaps.extend 5 (Config.digest 5 ((List.range 4).map fun k => (s3.csrGet (PKG_DL_CAP.off k)).toNat))
  s4.measShares.extend 7 relockDigest

/-- A control core starts firmware, at an address that the spec does not give (R486). -/
def State.startFw (s : State) (n : Nat) : State :=
  let (w, s1) := s.draw
  s1.modCore (0x1000 + n) fun c => { c with ctx := 0, run := .running, pc := BitVec.ofNat 48 (w.toNat / 8 * 8) }

/-- Field-test content that fails its verification is recorded (R619). -/
def State.checkContent (s : State) : State := if s.flash.content.isEmpty || Config.contentOk s.flash.content then s else s.contentRecord

/-- The boot ROM accepts the first good image, or none (R616). The core maps are loaded and everything is measured (R114, R620). (log 58, DEDUCED) -/
def State.verifyFw (s : State) : State :=
  let s1 := s.loadMaps
  let l := s1.imageOrder
  match l.find? s1.imageOk with
  | some x =>
    let h := x.2.2
    let fell := match l with | y :: _ => y.1 != x.1 | [] => false
    let s2 := ((s1.measureAll (some x.2)).setFld SEC_STS.off SEC_STS.FW_SLOT x.1).setFld SEC_STS.off SEC_STS.FALLBACK (b2n fell)
    let s3 := ((s2.setFld SEC_STS.off SEC_STS.FW_OK 1).setFld SEC_STS.off SEC_STS.SVN h.svn.toNat).checkContent
    let s4 := { s3 with sec := { s3.sec with raise := h.raise } }
    s4.fwCores.foldl State.startFw (s4.modPower fun p => { p with fw := true })
  | none => ((s1.measureAll none).setFld SEC_STS.off SEC_STS.FW_OK 0).checkContent

def execFirmwareVerify (s : State) : Out := .next (if s.power.ok && !s.power.fw && !s.ready then s.verifyFw else s)

/-! READY (R529, R550, R600, R602, R617). -/

/-- The detector of a KIND (R596). -/
def kindDet (k : Nat) : Nat :=
  if k ≤ 2 then 0x17 else if k ≤ 4 then 0x18 else if k ≤ 8 then 0x19 else if k ≤ 10 then 0x1C else if k ≤ 12 then 0x1D else if k = 13 then 0x1E
  else 0x1F

/-- The record of a logged trip (R600). -/
def State.tripRecord (s : State) (t : Trip) : State :=
  let next := s.fld ERR_RING_STS.off ERR_RING_STS.NEXT
  let d := mkDet (kindDet t.kind) unitPower none 3 3 0 0 0 0 (BitVec.ofNat 64 (put t.kind 60 + put t.sensor 56 + put t.value 32))
  if recOpen (s.record next) then s.bump ERR_RING_STS.off ERR_RING_STS.LOST 1
  else
    let r := setWord (setWord (s.newRecord d next false) 3 (BitVec.ofNat 64 t.time)) 4 t.env
    let s1 := { s with ring := tset s.ring (next % 4096) r }
    let s2 := (s1.setFld ERR_RING_STS.off ERR_RING_STS.NEXT ((next + 1) % 2 ^ 32)).bump ERR_RING_STS.off ERR_RING_STS.OPENCNT 1
    (s2.ibi 0x02).notice (BitVec.ofNat 64 (put 0x04 56 + next)) |>.closeRecord next 0 3 0x0A

/-- One record for each logged trip of KIND 2 to 14 that no record has reported, oldest first (R600). -/
def State.tripRecords (s : State) : State :=
  let l := (s.power.trips.filter fun t => !t.told).reverse
  if l.isEmpty then s
  else
    let s1 := (l.foldl State.tripRecord s).setFld PWR_EVT.off PWR_EVT.TRIP_LOGGED 1
    s1.modPower fun p => { p with trips := p.trips.map fun t => { t with told := true } }

/-- An image with RAISE_FLOOR = 1 has reached READY: the floor rises to its SVN while a fuse step is left (R617). -/
def State.raiseFloor (s : State) : State :=
  let svn := s.fld SEC_STS.off SEC_STS.SVN
  if s.sec.raise && decide (s.fuses.floor < svn) && decide (0 < s.fuses.steps) then
    { s with fuses := { s.fuses with floor := svn, steps := s.fuses.steps - 1 } }.setFld SEC_STS.off SEC_STS.FLOOR svn
  else s

/-- READY is asserted and every RDY is 1; shutters show in ERR_SVC, and the watchdog starts (R516, R529, R550, R602). -/
def State.goReady (s : State) : State := ({ s.svcBits.raiseFloor with kicked := s.time }).setReady 1

/-- HBM and the near tier are zero (R602). -/
def State.zeroTiers (s : State) : State := s.zeroSram 0 clusterBase

def execReadyAssert (s : State) : Out :=
  .next (if s.power.ok && s.power.fw && !s.ready && s.power.rst.isNone then s.zeroTiers.tripRecords.goReady else s)

/-- Links 0 to 3 and 8 to 11 have a usable module, without which READY stays deasserted after a package reset (R578). -/
def State.linksUp (s : State) : Bool := [0, 1, 2, 3, 8, 9, 10, 11].all s.dlUsable

/-- The end of a package reset (R529): firmware runs again, and READY is asserted. -/
def execPackageResetReady (s : State) : Out :=
  .next (if s.power.ok && s.power.fw && s.power.rst.isSome && s.linksUp then (s.modPower fun p => { p with rst := none }).goReady else s)

end Sys2Proof.Machine
end

