-- ==== Sys2Proof/Machine/Security.lean ====
section
/-! DEFINITION. The security engine: quotes, the identity key and its index, debug unlock, image upload, measurement extends
(18_security_attestation.md R613 to R633). -/

namespace Sys2Proof.Machine

/-! The DOE mailbox (R622, R624). -/

/-- The mailbox of a link's physical function takes objects. -/
def State.mailbox (s : State) (p : Nat) (l : LinkAB) : Bool := s.power.ok && s.hasLink p l && s.fnLive p (pfSlot l)

/-- A response that begins with a status byte (R622). -/
def State.respond (s : State) (p : Nat) (l : LinkAB) (status : Nat) (bytes : List Byte) : State :=
  s.toHost (.doe p l (leBytes 1 status ++ bytes))

/-- DOE Discovery: the object type at an index and the next index (R622); the object has the PCIe layout (log 26, PRESUMED). -/
def execDoeDiscovery (p : Fin 2) (link : LinkAB) (index : Nat) (s : State) : Out :=
  .next (if s.mailbox p.val link then
      let vid := if index = 0 then 1 else if index ≤ 5 then Config.vendorId.toNat else 0xFFFF
      s.toHost (.doe p.val link (leBytes 2 vid ++ leBytes 1 (if index ≤ 5 then index else 0) ++ leBytes 1 (if index < 5 then index + 1 else 0)))
    else s)

/-! Index management (R626 to R628). -/

/-- The sequence numbers of the two copies of RESV, an invalid one counting as oldest. -/
def resvAge (x : Nat × Nat × Bool) : Nat := if x.2.2 then x.1 + 1 else 0

/-- A value of RESV programmed into the older copy with the next sequence number (R626). -/
def State.programResv (s : State) (v : Nat) : State :=
  let l := s.flash.resv
  let a := l.getD 0 (0, 0, false)
  let b := l.getD 1 (0, 0, false)
  let n := (max a.1 b.1 + 1, v, true)
  let f (x : Flash) : Flash := { x with resv := if resvAge a < resvAge b then [n, b] else [a, n] }
  { s with flash := f s.flash }.setFld SEC_ATT_RESV.off SEC_ATT_RESV.RESV v

/-- The record of a failed reservation program (R626); the spec gives its detector and severity nowhere, so that both are free. -/
def State.flashRecord (s : State) : State :=
  let (w, s1) := s.draw
  (s1.openRecord (mkDet (w.fld 0 8) 0xD0000003 none (Fin.ofNat 4 (w.fld 8 2)) 0 0 0 0 0 0) false).1

/-! Quotes (R620 to R625, R628). -/

/-- An entry of the measurement log (R621). -/
def logEntry (x : Nat × Nat × BitVec 256) : List Byte := leBytes 1 x.1 ++ zeroBytes 7 ++ leBytes 8 x.2.1 ++ leBytes 32 x.2.2.toNat

/-- A quote body (R623). -/
def State.quoteBody (s : State) (p : Nat) (index : Nat) (nonce : BitVec 256) (mask : BitVec 16) (log : Bool) : List Byte :=
  let sts := s.csrGet SEC_STS.off
  let flags := getFld sts SEC_STS.DEBUG + put (getFld sts SEC_STS.FW_SLOT) 3 + put (getFld sts SEC_STS.FALLBACK) 4 + put (getFld sts SEC_STS.LOW) 5 +
    put (b2n s.sec.ovf) 6
  leBytes 4 1 ++ leBytes 4 flags ++ leBytes 8 Config.serial.toNat ++ leBytes 8 index ++ leBytes 8 s.time ++ leBytes 8 s.flash.colds ++
    leBytes 2 mask.toNat ++ leBytes 1 p ++ zeroBytes 5 ++ leBytes 32 nonce.toNat ++
    ((List.range 16).filter fun n => mask.getLsbD n).flatMap (fun n => leBytes 32 (s.meas n).toNat) ++ (if log then s.sec.log.flatMap logEntry else [])

/-- The reservation that an index at RESV needs is programmed first; without it there is no signature (R626). (log 59, DEDUCED) -/
def State.reserve (s : State) (flashOk : Bool) : Option State :=
  let next := s.fld SEC_ATT_IDX.off SEC_ATT_IDX.NEXT
  if next = s.fld SEC_ATT_RESV.off SEC_ATT_RESV.RESV then (if flashOk then some (s.programResv (next + 1024)) else none) else some s

/-- A quote is signed at NEXT, which advances (R623, R626, R628). -/
def State.signQuote (s : State) (p : Nat) (l : LinkAB) (nonce : BitVec 256) (mask : BitVec 16) (log : Bool) : State :=
  let next := s.fld SEC_ATT_IDX.off SEC_ATT_IDX.NEXT
  let body := s.quoteBody p next nonce mask log
  let s1 := (s.setFld SEC_ATT_IDX.off SEC_ATT_IDX.NEXT (next + 1)).setFld SEC_STS.off SEC_STS.ATT 1
  s1.attLimits.respond p l 0 (body ++ Config.idSign s.flash.gen next body)

/-- QUOTE (R623 to R628). (log 59, DEDUCED) -/
def State.quote (s : State) (p : Nat) (l : LinkAB) (nonce : BitVec 256) (mask : BitVec 16) (log flashOk : Bool) : State :=
  if !s.sec.cache then s.respond p l 1 []
  else if !s.power.fw then s.respond p l 4 []
  else if 2 ^ 40 - 1024 ≤ s.fld SEC_ATT_IDX.off SEC_ATT_IDX.NEXT then (s.setFld SEC_STS.off SEC_STS.ATT 2).respond p l 2 []
  else match s.reserve flashOk with
    | some s1 => s1.signQuote p l nonce mask log
    | none => ((s.setFld SEC_STS.off SEC_STS.ATT 3).flashRecord).respond p l 3 []

def execQuote (p : Fin 2) (link : LinkAB) (nonce : BitVec 256) (mask : BitVec 16) (log : Bool) (flashOk : Bool) (s : State) : Out :=
  .next (if s.mailbox p.val link then s.quote p.val link nonce mask log flashOk else s)

/-- The identity key's cache is built, and quotes are served (R624, R632). -/
def execIdKeyCacheReady (s : State) : Out :=
  .next (if s.power.ok && !s.sec.cache then
      ({ s with sec := { s.sec with cache := true } }.setFld SEC_STS.off SEC_STS.ATT 1).attLimits
    else s)

/-! Debug unlock (R630, R631). -/

/-- The signed part of a token. -/
def tokenBytes (t : DebugToken) : List Byte := leBytes 8 t.serial.toNat ++ leBytes 32 t.challenge.toNat ++ leBytes 1 t.scope.toNat

/-- The challenge in force. -/
def State.challenge (s : State) : BitVec 256 := s.reg256 SEC_DBG_NONCE.off

/-- DEBUG_UNLOCK: an accepted token unlocks its scopes and extends M7; either way a new challenge is loaded (R630, R631). -/
def execDebugUnlock (p : Fin 2) (link : LinkAB) (tok : DebugToken) (s : State) : Out :=
  .next (if s.mailbox p.val link then
      if tok.serial == Config.serial && tok.challenge == s.challenge && Config.tokenSig (tokenBytes tok) tok.sig then
        let s1 := s.setFld SEC_STS.off SEC_STS.DEBUG (s.fld SEC_STS.off SEC_STS.DEBUG ||| tok.scope.toNat)
        (s1.extend 7 (Config.shake (tokenBytes tok ++ tok.sig))).newNonce.respond p.val link 0 []
      else s.newNonce.respond p.val link 6 []
    else s)

/-- RELOCK: the unlock ends and M7 is extended (R631). -/
def State.relock (s : State) : State := (s.setFld SEC_STS.off SEC_STS.DEBUG 0).extend 7 relockDigest
def execRelock (s : State) : Out := .next s.relock

/-! Firmware images (R618). -/

/-- Bytes written over a slot's; a gap that nothing has written holds 0. (log 60, DESIGN CHOICE) -/
def overlay (old : List Byte) (off : Nat) (b : List Byte) : List Byte :=
  (old ++ zeroBytes (off - old.length)).take off ++ b ++ old.drop (off + b.length)

/-- IMAGE: a piece of up to 64 KiB goes to the slot that did not boot (R618, R624). (log 60, DESIGN CHOICE) -/
def State.putImage (s : State) (p : Nat) (l : LinkAB) (off : Nat) (bytes : List Byte) : State :=
  if s.power.rst.isSome then s.respond p l 1 []
  else if !s.power.fw then s.respond p l 4 []
  else if bytes.isEmpty || decide (65536 < bytes.length) then s.respond p l 5 []
  else
    let slot := 1 - s.fld SEC_STS.off SEC_STS.FW_SLOT
    let f (x : Flash) : Flash := { x with images := tset x.images slot (overlay (tget [] x.images slot) off bytes) }
    { s with flash := f s.flash }.respond p l 0 []

def execImage (p : Fin 2) (link : LinkAB) (off : Nat) (bytes : List Byte) (s : State) : Out :=
  .next (if s.mailbox p.val link then s.putImage p.val link off bytes else s)

/-! The identity key (R615, R622, R629). -/

/-- The index of an identity key's transition statement, in its last block (R628). -/
def stmtIndex : Nat := 2 ^ 40 - 1024

/-- A transition statement before its signature (R629). -/
def stmtBody (count gen : Nat) : List Byte := leBytes 8 Config.serial.toNat ++ leBytes 1 count ++ Config.idPub gen

/-- A statement that a power loss left unsigned is signed with the old key (R629). -/
def State.signStmt (s : State) : State :=
  if s.flash.unsigned then
    let f (x : Flash) : Flash := { x with stmt := x.stmt ++ Config.idSign (x.gen - 1) stmtIndex x.stmt, unsigned := false }
    { s with flash := f s.flash }
  else s

/-- ID_CERT: certificate, public key, latest transition statement (R622, R629). -/
def execIdCert (p : Fin 2) (link : LinkAB) (s : State) : Out :=
  .next (if s.mailbox p.val link then
      let s1 := s.signStmt
      s1.respond p.val link 0 (Config.idCert ++ Config.idPub s1.flash.gen ++ s1.flash.stmt)
    else s)

/-- The signed part of a rekey authorisation. -/
def authBytes (a : RekeyAuth) : List Byte := leBytes 1 a.keySlot.val ++ leBytes 8 a.serial.toNat ++ leBytes 32 a.oldHash.toNat ++ leBytes 1 a.count.toNat

/-- A rekey authorisation is accepted (R629). -/
def State.authOk (s : State) (a : RekeyAuth) : Bool :=
  !s.fuses.revoked.getLsbD a.keySlot.val && Config.rekeySig a.keySlot.val (authBytes a) a.sig && a.serial == Config.serial &&
    a.oldHash == Config.shake (Config.idPub s.flash.gen) && decide (s.flash.rekeys < a.count.toNat)

/-- A new identity key: seeds, RESV = 0 and the count in flash, and the statement signed with the old key (R629). -/
def State.newKey (s : State) (count : Nat) : State :=
  let old := s.flash.gen
  let body := stmtBody count (old + 1)
  let f (x : Flash) : Flash := { x with gen := old + 1, rekeys := count, stmt := body ++ Config.idSign old stmtIndex body, unsigned := false }
  let s1 := { s with flash := f s.flash }.programResv 0
  let s2 := (s1.setFld SEC_ATT_IDX.off SEC_ATT_IDX.NEXT 0).setFld SEC_STS.off SEC_STS.REKEYS count
  (s2.setFld SEC_STS.off SEC_STS.LOW 0).setFld SEC_STS.off SEC_STS.ATT (if s.sec.cache then 1 else 0)

def execRekey (p : Fin 2) (link : LinkAB) (au : RekeyAuth) (s : State) : Out :=
  .next (if s.mailbox p.val link then
      if s.authOk au then
        let s1 := s.newKey au.count.toNat
        s1.respond p.val link 0 (s1.flash.stmt ++ Config.idPub s1.flash.gen)
      else s.respond p.val link 6 []
    else s)

/-! Measurement extends by firmware (R620, R632). -/

/-- SEC_MEAS_EXT extends M8 to M15; another N has no effect. -/
def State.measExtend (s : State) (n : Nat) : State := if 8 ≤ n ∧ n < 16 then s.extend n (s.reg256 SEC_MEAS_DATA.off) else s
def execSecMeasExtend (n : Fin 16) (s : State) : Out := .next (s.measExtend n.val)

end Sys2Proof.Machine
end

