-- ==== Sys2Proof/Machine/Tap.lean ====
section
/-! DEFINITION. The test access chain and the wickets (16_die_links_and_test_access.md R583 to R589; 18_security_attestation.md R630,
R631). -/

namespace Sys2Proof.Machine

def State.wkt (s : State) (d : Nat) : Wkt := tget Wkt.reset s.wkts d
def State.modWkt (s : State) (d : Nat) (f : Wkt → Wkt) : State := { s with wkts := tset s.wkts d (f (s.wkt d)) }

/-- The die has a wicket: a near site of another maker only with the debug class (R573, R586). -/
def State.hasWicket (s : State) (d : Nat) : Bool :=
  if d < 9 then true
  else if d < 13 then
    let c := PKG_DL_CAP.off (d - 9)
    s.fld c PKG_DL_CAP.KIND != 2 || bits (s.fld c PKG_DL_CAP.CLASSES) 3 1 == 1
  else false

/-- A scope of the debug unlock: 0 TAP, 1 TRACE, 2 HBM1500 (R630). -/
def State.scope (s : State) (b : Nat) : Bool := bits (s.fld SEC_STS.off SEC_STS.DEBUG) b 1 == 1

/-- The IDCODE of a die (R585). -/
def idcode (d : Nat) : BitVec 32 := BitVec.ofNat 32 (put 1 28 + put (0x4B20 + d) 12 + put 0x2C7 1 + 1)

/-- What Capture-DR loads into the data register that a die's TAP has selected, with the register's length: IDCODE, the wicket's while it is
unlocked, else the one bit of BYPASS. The boundary registers of EXTEST and SAMPLE/PRELOAD hold pins and bumps that are no state of the
model (R584, R585, R588; log 25, DESIGN CHOICE). -/
def State.captureDr (s : State) (d : Nat) : Nat × BitVec 98 :=
  let w := s.wkt d
  if w.ir = 0x01 then (32, (idcode d).setWidth 98)
  else if w.ir = 0x10 ∧ s.scope 0 = true ∧ s.hasWicket d = true then
    (98, BitVec.ofNat 98 (put (b2n w.tap.isSome) 97 + put (b2n w.denied) 96 + w.data.toNat))
  else (1, 0)

/-- Test-Logic-Reset of the chain: every TAP selects IDCODE (R584). -/
def execTapReset (s : State) : Out :=
  .next ((List.range 13).foldl (fun s d => s.modWkt d fun w => { w with ir := 0x01 }) s)

/-- Update-IR of a die's TAP. -/
def execTapUpdateIr (die : Fin 13) (ir : BitVec 8) (s : State) : Out := .next (s.modWkt die.val fun w => { w with ir := ir })

/-- Update-DR with WKT selected and unlocked issues the operation, one at a time (R584, R588). -/
def execWktUpdateDr (die : Fin 13) (dr : BitVec 98) (s : State) : Out :=
  let op := bits dr.toNat 96 2
  let go := (s.wkt die.val).ir == 0x10 && s.scope 0 && s.hasWicket die.val && (op == 1 || op == 2) && (s.wkt die.val).tap.isNone
  .next (if go then s.modWkt die.val fun w => { w with tap := some (op, bits dr.toNat 64 32, BitVec.ofNat 64 (bits dr.toNat 0 64)) } else s)

/-- TST_WKT_CMD with an OP (R589). -/
def State.wicketCmd (s : State) (op die addr : Nat) : State :=
  if s.bit TST_WKT_STS.off TST_WKT_STS.BUSY then s
  else if !s.hasWicket die then s.csrSet TST_WKT_STS.off (BitVec.ofNat 64 (put 3 60))
  else (s.csrSet TST_WKT_STS.off (BitVec.ofNat 64 (put 1 63))).modWkt die fun w => { w with ctl := some (op, addr) }

def execWicketRead (die : Fin 16) (a : BitVec 32) (s : State) : Out := .next (s.wicketCmd 1 die.val a.toNat)
def execWicketWrite (die : Fin 16) (a : BitVec 32) (s : State) : Out := .next (s.wicketCmd 2 die.val a.toNat)

/-- The die has a shuttered unit or a spare under field test. -/
def State.testableUnit (s : State) (d : Nat) : Bool :=
  s.shut.any (fun u => bits u.toNat 28 4 == d) ||
    (decide (d < 4) && (List.range 12).any fun c =>
      (s.cluster (d * 12 + c)).test || s.bit (PKG_CORE_MAP.off d c) PKG_CORE_MAP.CLUSTER_OFF || s.fld (PKG_CORE_MAP.off d c) PKG_CORE_MAP.RETIRED != 0)

/-- An operation lies within its scope (R586). Which unit an address of the first three regions names, and whether a stack holds traffic,
is free where it decides (log 1, DESIGN CHOICE, log 25, DESIGN CHOICE). -/
def State.wicketAllowed (s : State) (d op a : Nat) : Bool × State :=
  let unit : Bool × State := if s.testableUnit d then let (w, s1) := s.draw; (w.getLsbD 0, s1) else (false, s)
  if a < 0x10000000 then (if op = 1 then (true, s) else unit)
  else if a < 0x30000000 then unit
  else if a < 0x30100000 then (op == 1 && s.scope 1, s)
  else if 0x40000000 ≤ a ∧ a < 0x50000000 then
    (if decide (d < 4) && s.scope 2 then
       (if s.strmBusy || s.userRunning then let (w, s1) := s.draw; (w.getLsbD 0, s1) else (true, s))
     else (false, s))
  else (false, s)

/-- The controller's operation is served: what a read returns is free (log 1, DESIGN CHOICE). -/
def State.serveCtl (s : State) (d : Nat) (x : Nat × Nat) : State :=
  let (ok, s1) := s.wicketAllowed d x.1 x.2
  let s2 := s1.modWkt d fun w => { w with ctl := none, last := true }
  let s3 := if ok && x.1 == 1 then let (v, t) := s2.draw; t.csrSet TST_WKT_DATA.off v else s2
  s3.csrSet TST_WKT_STS.off (BitVec.ofNat 64 (put (if ok then 1 else 2) 60))

/-- The TAP's operation is served; after a relock it ends DENIED (R587, R588). -/
def State.serveTap (s : State) (d : Nat) (x : Nat × Nat × Word) : State :=
  let (ok0, s1) := if s.scope 0 then s.wicketAllowed d x.1 x.2.1 else (false, s)
  let (v, s2) := if ok0 && x.1 == 1 then s1.draw else ((s.wkt d).data, s1)
  s2.modWkt d fun w => { w with tap := none, last := false, denied := !ok0, data := v }

/-- A scan sequence of a field test holds the wicket of a compute die (R587). -/
def State.scanHeld (s : State) (d : Nat) : Bool :=
  decide (d < 4) && s.bit TST_CTL.off TST_CTL.SCAN_EN && (List.range 12).any fun c => (s.cluster (d * 12 + c)).test

/-- The wicket completes an operation: of two, the one whose turn it is (R22, R587). -/
def execWicketOperationComplete (die : Fin 13) (s : State) : Out :=
  let d := die.val
  let w := s.wkt d
  .next (if s.scanHeld d then s
    else match w.ctl, w.tap with
      | some x, some y => if w.last then s.serveTap d y else s.serveCtl d x
      | some x, none => s.serveCtl d x
      | none, some y => s.serveTap d y
      | none, none => s)

end Sys2Proof.Machine
end

