-- ==== Sys2Proof/Machine/Telemetry.lean ====
section
/-! DEFINITION. Counter wraps, marks of phase timers, the telemetry record, the I3C target and the 1 PPS input
(19_counters_and_telemetry.md R636, R644, R648 to R651; 20_module_contacts_mechanical.md R660, R664). -/

namespace Sys2Proof.Machine

/-! Counters and phase marks (R635, R636, R644). -/

/-- Occurrences that reach a programmable counter, those that cycles bring among them: past 48 bits it carries or sets OVF (R635, R636). -/
def execPmcCounterWrap (c : CoreId) (n : Fin 8) (amount : Nat) (s : State) : Out :=
  let key := coreKey c
  let i := n.val + 1
  let fed := decide (1 < i) && s.bit (pmcSel key (i - 1)) CORE_PMC_SEL.CHAIN
  .next (if !isCtl key && s.bit (pmcSel key i) CORE_PMC_SEL.EN && !s.bit PMC_CTL.off PMC_CTL.FREEZE && !fed then s.pmcAdd key amount 8 i else s)

def execPhaseStartMark (ctx : CtxId) (tag : Fin 16) (s : State) : Out := .next ((s.markedBy ctx.val tag.val).foldl State.startMark s)
def execPhaseEndMark (ctx : CtxId) (tag : Fin 16) (s : State) : Out := .next ((s.markedBy ctx.val tag.val).foldl State.endMark s)

/-! The telemetry record (R648, R649). -/

/-- Four 16-bit readings in a word, the first lowest. -/
def quad (l : List (BitVec 16)) : Nat := (List.range 4).foldl (fun m i => m + put (l.getD i 0).toNat (16 * i)) 0

/-- The hottest stack of each compute die. -/
def hotStacks (l : List (BitVec 16)) : List (BitVec 16) := (List.range 4).map fun k => hottest ((l.drop (3 * k)).take 3)

/-- The words of a record with its sequence number and energy in mJ (R648). (log 57, DEDUCED) -/
def State.telemWords (s : State) (seq energy : Nat) : List Word :=
  let m := s.sens
  let w0 := put seq 32 + put (b2n s.ready) 31 + put (b2n s.power.ok) 30 + s.fld PWR_LOUVRE.off PWR_LOUVRE.STEP
  let w4 := put m.h0.toNat 48 + put m.links.toNat 32 + put m.nears.toNat 16 + m.inlet.toNat
  let w5 := put m.outlet.toNat 48 + put m.flow.toNat 32 + put m.pm.vin.toNat 16 + m.pm.p1ms.toNat
  let w6 := put (s.fld ERR_RING_STS.off ERR_RING_STS.NEXT) 32 + put (s.fld ERR_RING_STS.off ERR_RING_STS.OPENCNT % 65536) 16 +
    put ((s.csrGet ERR_SVC.off).fld 0 8) 8
  [w0, s.time, quad m.tj, quad (hotStacks m.thbm), w4, w5, w6, energy / 1000 % 2 ^ 48].map (BitVec.ofNat 64)

/-- A refresh (R648, R649): SEQ counts from 1, and the energy grows by the mean power of the millisecond. -/
def execTelemetryRefresh (s : State) : Out :=
  .next (if s.power.ok then
      let seq := ((recWord s.tele.words 0).fld 32 32 + 1) % 2 ^ 32
      let e := s.tele.energy + s.sens.pm.p1ms.toNat
      { s with tele := { s.tele with words := s.telemWords seq e, energy := e } }
    else s)

/-! The I3C target (R650). -/

/-- The byte at a pointer. (log 61, PRESUMED) -/
def State.i3cByte (s : State) (p : Nat) : Byte :=
  let at' (w : Word) (i : Nat) : Byte := BitVec.ofNat 8 (w.fld (8 * i) 8)
  if p < 0x40 then at' (recWord s.tele.words (p / 8)) (p % 8)
  else if p < 0x48 then at' Config.serial (p - 0x40)
  else if p < 0x4A then BitVec.ofNat 8 (bits (s.fld SEC_STS.off SEC_STS.SVN) (8 * (p - 0x48)) 8)
  else 0xFF

/-- A private write sets the pointer from its first byte (R650). -/
def execI3cPrivateWrite (bytes : List Byte) (s : State) : Out :=
  .next (match s.power.ok && s.tele.da.isSome, bytes with
    | true, b :: _ => { s with tele := { s.tele with ptr := b.toNat } }
    | _, _ => s)

/-- A private read returns bytes from the pointer on, which advances with each (R650). -/
def execI3cPrivateRead (n : Nat) (s : State) : Out :=
  .next (if s.power.ok && s.tele.da.isSome then
      let out := (List.range n).map fun i => s.i3cByte ((s.tele.ptr + i) % 256)
      { s with tele := { s.tele with ptr := (s.tele.ptr + n) % 256, sent := s.tele.sent ++ [out] } }
    else s)

/-- ENTDAA gives a target without a dynamic address one (R650). -/
def execI3cEntdaa (da : BitVec 7) (s : State) : Out :=
  .next (if s.power.ok && s.tele.da.isNone then { s with tele := { s.tele with da := some da } } else s)

/-- SETDASA to the static address gives a dynamic address (R650). -/
def execI3cSetdasa (sa : BitVec 7) (da : BitVec 7) (s : State) : Out :=
  .next (if s.power.ok && sa == 0x5C && s.tele.da.isNone then { s with tele := { s.tele with da := some da } } else s)

/-! Alerts and the second (R660, R663, R664). -/

/-- The causes of PKG_ALERT (R663). -/
def State.alertCauses (s : State) : Nat :=
  let high := (List.range 4).any fun k => decide (9 ≤ s.louvre k)
  let sev3 := s.ring.any fun x => recOpen x.2 && (recWord x.2 0).fld 56 2 == 3
  put (b2n (s.bit PWR_EVT.off PWR_EVT.TRIP_LOGGED)) 3 + put (b2n ((s.csrGet ERR_SVC.off).fld 0 8 != 0)) 2 + put (b2n high) 1 + b2n sev3

/-- ALERT#p is driven low (R664). (log 61, PRESUMED) -/
def State.alertLow (s : State) (p : Nat) : Bool :=
  s.power.ok && (s.alertCauses &&& s.fld PKG_ALERT.off (if p = 0 then PKG_ALERT.MASK0 else PKG_ALERT.MASK1)) != 0

/-- A rising edge of PPS_IN disciplines fabric time, by a rule that the spec does not give (R660). -/
def execPpsEdge (s : State) : Out := .next (if s.power.ok then { s with time := Config.ppsTime s.time } else s)

end Sys2Proof.Machine
end

