-- ==== Sys2Proof/Machine/Csr.lean ====
section
/-! DEFINITION. Reads and writes of CSRs by their access codes, by a context or by a host through BAR0 (00_scope.md R5 to R13,
04_instruction_set.md R140, 13_host_interface.md R476, R477). -/

namespace Sys2Proof.Machine

/-! Reads (R8, R12). -/

/-- The value that a read returns: registers that show other state are computed, a register that is not defined reads 0. -/
def State.csrRead (s : State) (off : Nat) : Word :=
  if ERR_REC.off 0 ≤ off ∧ off < ERR_REC.off 8 then
    let i := s.fld ERR_SEL.off ERR_SEL.INDEX
    let r := s.record i
    if (recWord r 0).flag 63 && (recWord r 0).fld 0 32 == i then recWord r ((off - ERR_REC.off 0) / 8) else 0
  else if off = PKG_ALERT.off then (s.csrGet off).setFld 0 4 s.alertCauses
  else if PMC_TELEM.off 0 ≤ off ∧ off < PMC_TELEM.off 8 then recWord s.tele.words ((off - PMC_TELEM.off 0) / 8)
  else if 0x1000000 ≤ off ∧ off % 0x1000 = 0 ∧ (regAt off).isSome = true then s.cyc ((off - 0x1000000) / 0x100000)
  else s.csrGet off

/-! Writes (R6, R8, R10, R11). -/

/-- A write to a register without an effect beyond its fields. M6 follows every share and port configuration (R620). -/
def State.csrPlain (s : State) (off : Nat) (sz : CsrSize) (v : Word) : State :=
  match regAt off with
  | some d =>
    let old := s.csrGet off
    let s1 := s.csrSet off (writeAcc d (s.fieldOk off d (mergeSz old sz v)) old sz v)
    if d.base = PKG_SHARE.off 0 0 ∨ d.base = HST_PORT_CFG.off 0 then s1.measShares else s1
  | none => s

/-! Writes that act (R8). A half that is not written acts for nothing (R6). -/

/-- Halyard registers (R316, R317, R320, R324): with EN = 1 only EN of CTX_HAL_CFG is written. -/
def State.writeHal (s : State) (n : CtxId) (key h sub off : Nat) (sz : CsrSize) (v : Word) : State :=
  let on := mergeSz 0 sz v
  if sub = 0x00 then
    let w := mergeSz (s.csrGet off) sz v
    if getFld w CTX_HAL_CFG.EN = 1 then s.halOpen n h w
    else if s.bit off CTX_HAL_CFG.EN then s.halClose n h
    else s.csrPlain off sz v
  else if sub = 0x18 then s.halDoor n h key on
  else if sub = 0x20 then (match sz with | .hi32 => s | _ => s.halRelease n h (getFld on CTX_HAL_REL.N))
  else s.csrPlain off sz v

/-- A write to the CTX_ block of context `n`; `low` marks one by a core of a context other than 0. -/
def State.writeCtx (s : State) (n : CtxId) (low : Bool) (key r off : Nat) (sz : CsrSize) (v : Word) : State :=
  let on := mergeSz 0 sz v
  if 0x200 ≤ r ∧ r < 0x600 then s.writeHal n key ((r - 0x200) / 0x40) ((r - 0x200) % 0x40) off sz v
  else if 0x600 ≤ r ∧ r < 0x700 then
    (if (r - 0x600) % 0x10 = 0 then s.grpWrite n.val ((r - 0x600) / 0x10) sz v else s.subWrite n.val ((r - 0x600) / 0x10) sz v)
  else if off = CTX_UPD_CMD.off n.val then
    (if getFld on CTX_UPD_CMD.OP = 1 then s.updCommand n false (getFld on CTX_UPD_CMD.BLOCK)
     else if getFld on CTX_UPD_CMD.OP = 2 then s.updCommand n true (getFld on CTX_UPD_CMD.BLOCK)
     else s)
  else if off = CTX_VHOLD.off n.val then
    let owner : CtxId := Fin.ofNat 64 (getFld on CTX_VHOLD.OWNER)
    (if getFld on CTX_VHOLD.OP = 1 then s.acquire key n owner (getFld on CTX_VHOLD.TAG)
     else if getFld on CTX_VHOLD.OP = 2 then s.unhold key n owner (getFld on CTX_VHOLD.TAG)
     else s)
  else if off = CTX_PERM.off n.val then (if low then s else s.csrPlain off sz v)
  else if off = CTX_PHASE.off n.val then
    (if getFld on CTX_PHASE.OP = 1 then (s.markedBy n.val (getFld on CTX_PHASE.TAG)).foldl State.startMark s
     else if getFld on CTX_PHASE.OP = 2 then (s.markedBy n.val (getFld on CTX_PHASE.TAG)).foldl State.endMark s
     else s)
  else s.csrPlain off sz v

/-- The queue that a CFG register of a function page belongs to, by its offset in the page. -/
def pageQueue (r : Nat) : Option QueueSel :=
  if r = 0x10 then some .eq
  else if 0x40 ≤ r ∧ r < 0x1C0 then
    let q := Fin.ofNat 8 ((r - 0x40) / 0x30)
    let x := (r - 0x40) % 0x30
    if x = 0x08 then some (.sq q) else if x = 0x20 then some (.cq q) else none
  else none

/-- The CFG register of the queue whose BASE lies at an offset in a function page. -/
def pageBase (r : Nat) : Option QueueSel :=
  if r = 0x08 then some .eq
  else if 0x40 ≤ r ∧ r < 0x1C0 then
    let q := Fin.ofNat 8 ((r - 0x40) / 0x30)
    let x := (r - 0x40) % 0x30
    if x = 0x00 then some (.sq q) else if x = 0x18 then some (.cq q) else none
  else none

/-- A write to a function page (R483, R484, R488, R489). -/
def State.writePage (s : State) (p f r off : Nat) (sz : CsrSize) (v : Word) : State :=
  let w := mergeSz (s.csrGet off) sz v
  let q := (r - 0x40) / 0x30
  let x := (r - 0x40) % 0x30
  match pageQueue r, pageBase r with
  | some k, _ => s.writeQCfg p f k w
  | none, some k => if s.bit (cfgOff p f k) HST_SQ_CFG.EN then s else s.csrPlain off sz v
  | none, none =>
    match sz with
    | .hi32 => s
    | _ =>
      if r = 0x18 then s.writeEqHead p f w
      else if 0x40 ≤ r ∧ r < 0x1C0 ∧ x = 0x10 then s.writeTail p f q w
      else if 0x40 ≤ r ∧ r < 0x1C0 ∧ x = 0x28 then s.writeCqHead p f q w
      else s

/-- PKG_RST (R528). -/
def State.pkgRst (s : State) (op : Nat) : State :=
  if op = 1 then s.kick else if op = 2 then s.pkgReset 1 else if op = 3 then s.fabReset else if op = 4 then s.trip 15 0 0 else s

/-- TST_CMD (R555 to R557); the outcome of a RESTORE's test, which this command does not give, is free. -/
def State.tstCmd (s : State) (op : Nat) (u : UnitCode) : State :=
  if op = 1 then s.cmdTest u
  else if op = 2 then let (w, s1) := s.draw; s1.cmdRestore u (w.getLsbD 0)
  else if op = 3 then s.clearHist u
  else s

/-- FAB_CMD (R374 and the table of the port registers). -/
def State.fabCmd (s : State) (p op : Nat) : State := if op = 1 then s.retrainPort p else if op = 2 then s.shutterCmd p else s

/-- A write to a register outside the CTX_ blocks and function pages. -/
def State.writeRest (s : State) (off : Nat) (sz : CsrSize) (v : Word) : State :=
  let on := mergeSz 0 sz v
  if off = PKG_HBM_ILV.off then s.writeIlv sz v
  else if off = PKG_RST.off then s.pkgRst (getFld on PKG_RST.OP)
  else if FAB_CFG.off 0 ≤ off ∧ off < FAB_CFG.off 16 ∧ off % 0x1000 = 0 then s.fabCfg ((off - FAB_CFG.off 0) / 0x1000) sz v
  else if FAB_CMD.off 0 ≤ off ∧ off < FAB_CMD.off 16 ∧ off % 0x1000 = FAB_CMD.off 0 % 0x1000 then
    s.fabCmd ((off - FAB_CMD.off 0) / 0x1000) (getFld on FAB_CMD.OP)
  else if off = ROUTE_DIMS.off then s.routeDims sz v
  else if off = ROUTE_SLICE.off then s.routeSlice sz v
  else if UPD_STAGE.off 0 ≤ off ∧ off < UPD_STAGE.off 12 ∧ off % 0x1000 = 0 then s.writeStage ((off - UPD_STAGE.off 0) / 0x1000) sz v
  else if off = TST_CMD.off then s.tstCmd (getFld on TST_CMD.OP) (BitVec.ofNat 32 (getFld on TST_CMD.UNIT))
  else if off = TST_INJ.off then s.writeInj sz v
  else if off = TST_WKT_CMD.off then
    (if getFld on TST_WKT_CMD.OP = 1 ∨ getFld on TST_WKT_CMD.OP = 2 then
       s.wicketCmd (getFld on TST_WKT_CMD.OP) (getFld on TST_WKT_CMD.DIE) (getFld on TST_WKT_CMD.ADDR)
     else s)
  else if off = PWR_LOUVRE.off then s.louvreWrite sz v
  else if off = SEC_DBG.off then (if getFld on SEC_DBG.OP = 1 then s.relock else s)
  else if off = SEC_MEAS_EXT.off then (if getFld on SEC_MEAS_EXT.OP = 1 then s.measExtend (getFld on SEC_MEAS_EXT.N) else s)
  else s.csrPlain off sz v

/-- A write to a CSR by its offset; `key` is the core that issued it. (log 62, DESIGN CHOICE) -/
def State.csrPut (s : State) (low : Bool) (key off : Nat) (sz : CsrSize) (v : Word) : State :=
  if 0x20000 ≤ off ∧ off < 0x60000 then
    s.writeCtx (Fin.ofNat 64 ((off - 0x20000) / 0x1000)) low key ((off - 0x20000) % 0x1000) off sz v
  else if 0x10000 ≤ off ∧ off < 0x18000 then
    s.writePage ((off - 0x10000) / 0x4000) ((off - 0x10000) % 0x4000 / 0x200) ((off - 0x10000) % 0x200) off sz v
  else s.writeRest off sz v

/-! BAR0 (R476, R477, R651). -/

/-- A function reaches the CTX_ block of a context: bound to it, or to a virtual function of its link where it is a physical function. -/
def State.barCtx (s : State) (p f n : Nat) : Bool :=
  let c := s.ctx n
  c.bound && c.port == p && (c.slot == f || (s.isPf p f && (s.linkVfs p (s.linkOf p f)).contains c.slot))

/-- A write to the MSI-X table: an unmasked vector sends the message that it holds (R476; log 23, PRESUMED). -/
def State.writeMsix (s : State) (p f i : Nat) (sz : CsrSize) (v : Word) : State :=
  let key := fnKey p f * 32 + i
  let d : Word := if i % 2 = 1 then 0x100000000 else 0
  let s1 := { s with msix := tset s.msix key (mergeSz (tget d s.msix key) sz v) }
  let held := tget 0 s1.pba (fnKey p f)
  if !s1.vecMasked p f (i / 2) && bits held (i / 2) 1 == 1 then
    { s1 with pba := tset s1.pba (fnKey p f) (held - 2 ^ (i / 2)) }.toHost (.msix p f (i / 2))
  else s1

/-- A host's write through BAR0 of a function. (log 62, DESIGN CHOICE) -/
def State.barWrite (s : State) (p f off : Nat) (sz : CsrSize) (v : Word) : State :=
  if !s.fnLive p f then s
  else if off < 0x200 then s.csrPut false noCore (HST_FN_STS.off p f + off) sz v
  else if 0x20000 ≤ off ∧ off < 0x20100 then s.writeMsix p f ((off - 0x20000) / 8) sz v
  else if 0x40000 ≤ off ∧ off < 0x80000 then
    (if s.barCtx p f ((off - 0x40000) / 0x1000) then s.csrPut false noCore (off - 0x20000) sz v else s)
  else s

/-! The commands. -/

/-- A context's fault of a CSR access (R7, R140). The command names no core and no instruction: the fault names the package controller, CLS, OP
and PC are 0. (log 62, DESIGN CHOICE) -/
def State.csrFault (s : State) (n : CtxId) (off : Nat) : State := s.addFault ⟨n, .access, 0, 0, 0, csrBase + off, unitPkg, s.time⟩

/-- The unit that the record of a refused CSR access names: the PCIe port of a host's, the package controller for a context's. (log 62, DESIGN
CHOICE) -/
def whoUnit : Who → UnitCode
  | .ctx _ => unitPkg
  | .host p _ => unitPcie p.val

/-- The DET 0x13 record of a CSR access (R7, R536): a context that receives ACCESS is affected (SEV 2), a host's access is contained (SEV 1,
OPKIND 7); DETAIL is the address in CSR space, for a host the offset through BAR0. (log 62, DESIGN CHOICE) -/
def State.csrRecord (s : State) (who : Who) (off : Nat) : State :=
  let d := match who with
    | .ctx n => mkDet 0x13 (whoUnit who) (some n) 2 3 0 0 0 0 (BitVec.ofNat 64 (csrBase + off))
    | .host _ _ => mkDet 0x13 (whoUnit who) none 1 3 7 0 0 0 (BitVec.ofNat 64 off)
  (s.openRecord d false).1

/-- A CSR access of a size or alignment that R5 does not permit: the record, ACCESS to a context, a read of all ones to a host (R7). -/
def State.csrRefused (s : State) (who : Who) (off : Nat) (rd : Bool) : State :=
  let s1 := s.csrRecord who off
  match who with
  | .ctx n => s1.csrFault n off
  | .host p f => if rd then s1.toHost (.readData p.val f.val (List.replicate 8 0xFF) false) else s1

/-- CSR_WRITE (R5, R8, R140, R477); an armed injection makes it a misaligned one (R562). -/
def execCsrWrite (who : Who) (off : Nat) (sz : CsrSize) (v : Word) (s : State) : Out :=
  .next (if s.armed 0x13 (whoUnit who) then s.csrRefused who off false
    else match who with
      | .ctx n => if n = 0 ∨ ownBlock n.val off = true then s.csrPut (n != 0) noCore off sz v else s.csrFault n off
      | .host p f => s.barWrite p.val f.val off sz v)

/-- CSR_ACCESS_BAD_SIZE (R7). -/
def execCsrAccessBadSize (who : Who) (off : Nat) (rd : Bool) (s : State) : Out := .next (s.csrRefused who off rd)

end Sys2Proof.Machine
end

