-- ==== Sys2Proof/Machine/Access.lean ====
section
/-! DEFINITION. Instruction fetch, and the completion of scalar loads, scalar stores and semaphores (04_instruction_set.md R125 to
R128, R138 to R140; 07_memory_tiers_streams.md R241; 03_cores_clusters_branches.md R86, R101). -/

namespace Sys2Proof.Machine

/-! Fetch (R125, R126). -/

/-- Instructions are fetched from the four memory tiers only. -/
def fetchTier (a : Nat) : Bool :=
  match tierOf a with
  | .hbm => true
  | .near => true
  | .cluster _ _ => true
  | .scratch _ _ _ => true
  | _ => false

/-- The address of a fetch is one that a context may fetch from. -/
def State.fetchOk (s : State) (n a : Nat) : Bool :=
  a % 8 == 0 && fetchTier a && !s.unbacked a && s.reaches n a 8 false && s.limitsOk n a 8 false

/-- A FETCH fault: PC and ADDR hold the PC, and dispatch stops (R125, R152). -/
def State.fetchFault (s : State) (k a : Nat) : State :=
  (s.coreFault k engSeq .fetch 0 0 a a).modCore k fun c => { c with run := .stopped }

/-- A word put into the cache, which holds 4,096: one that a full cache gives up for it is free (R126; log 27, DESIGN CHOICE). -/
def State.cacheWord (s : State) (k a : Nat) (w : Word) : State :=
  let c := s.core k
  if (tget? c.icache a).isSome || decide (c.icache.length < 4096) then s.modCore k fun c => { c with icache := tset c.icache a w }
  else
    let (f, s1) := s.draw
    s1.modCore k fun c => { c with icache := tset (c.icache.eraseIdx (f.toNat % c.icache.length)) a w }

/-- A word read from memory into the cache and the sequencer. -/
def State.fetchRead (s : State) (k a : Nat) : State :=
  if s.poisoned a 8 then (s.poisonRecord a (some (s.core k).ctx)).fetchFault k a
  else
    let w := s.readWord a
    ((s.cacheWord k a w).modCore k fun c => { c with ir := some w }).pmcOwn k 0x051 1

/-- A word fetched through the cache, which does not observe stores (R126). Whether a word fetched before is still cached is a free value
(log 27, DESIGN CHOICE). -/
def State.fetchWord (s : State) (k a : Nat) : State :=
  match tget? (s.core k).icache a with
  | some w =>
    let (f, s1) := s.draw
    if f.getLsbD 0 then s1.modCore k fun c => { c with ir := some w } else s1.fetchRead k a
  | none => s.fetchRead k a

/-- A fetched word that is no operation of the opcode map raises ILLEGAL_INSTR at its dispatch (R123, R152). -/
def State.refuseWord (s : State) (k : Nat) : State :=
  match (s.core k).ir with
  | some w =>
    if listedOp w || s.repairing k || (s.core k).run != .running then s
    else s.seqFault k ⟨w.fld 60 4, w.fld 52 8, .r, []⟩ .illegalInstr 0
  | none => s

/-- INSTRUCTION_FETCH (R125): the word at the PC, unless the sequencer holds it already; a word of no operation is refused (R123). -/
def execInstructionFetch (cid : CoreId) (s : State) : Out :=
  let k := coreKey cid
  let c := s.core k
  let a := c.pc.toNat
  .next (if c.run == .running && c.hold == .none then
    if c.ir.isSome then s.refuseWord k
    else if s.fetchOk c.ctx.val a then (s.fetchWord k a).refuseWord k
    else s.fetchFault k a
  else s)

/-! Completion (R128). -/

/-- The context of a flight. -/
def State.flightCtx (s : State) (k fid : Nat) : CtxId := (s.setOf k (fidCtx fid)).ctx

/-- A flight of an access is over: a register that was pending for it is free, and a hold that waited for it may end. -/
def State.endFlight (s : State) (k : Nat) (f : Flight) : State :=
  s.modSet k (fidCtx f.fid) fun c =>
    ({ c with flights := c.flights.filter fun x => x.fid != f.fid,
              hold := if c.hold == Hold.sem f.fid then .none else c.hold,
              pend := match f.rd with | some r => setDel c.pend r | none => c.pend }).settle

/-- An access ends in a fault: nothing is written (R140, R241, R409). -/
def State.failFlight (s : State) (k : Nat) (f : Flight) (code : FaultCode) : State :=
  (s.endFlight k f).addFault ⟨s.flightCtx k f.fid, code, f.cls, f.opc, f.pc, f.gaddr, s.unitOf k engSeq, s.time⟩

/-- The value written to the destination and the flight's end. -/
def State.landFlight (s : State) (k : Nat) (f : Flight) (v : Word) : State :=
  let s1 := match f.rd with
    | some r => s.modSet k (fidCtx f.fid) fun c => c.setReg r v
    | none => s
  s1.endFlight k f

/-- A loaded number extended to 64 bits (R138). -/
def extendLoad (size : Nat) (signed : Bool) (v : Nat) : Word :=
  let m := v % 2 ^ (8 * size)
  if signed && decide (2 ^ (8 * size - 1) ≤ m) then BitVec.ofNat 64 (2 ^ 64 + m - 2 ^ (8 * size)) else BitVec.ofNat 64 m

/-- The bytes that a scalar load or store touches. -/
def FlightOp.bytes : FlightOp → Nat
  | .load z _ => z
  | .store z => z
  | _ => 0

/-- No earlier scalar access of the core to the same bytes is outstanding (R139). -/
def State.inOrder (s : State) (k : Nat) (f : Flight) : Bool :=
  ((s.setOf k (fidCtx f.fid)).flights.takeWhile fun x => x.fid != f.fid).all fun x =>
    x.remote.isSome || f.remote.isSome || !overlap x.addr x.op.bytes f.addr f.op.bytes

/-- No earlier scalar store of the core through the same port is outstanding (R482). -/
def State.portOrder (s : State) (k : Nat) (f : Flight) : Bool :=
  ((s.setOf k (fidCtx f.fid)).flights.takeWhile fun x => x.fid != f.fid).all fun x =>
    match x.op with
    | .store _ => x.remote.isSome || tierOf x.addr != tierOf f.addr
    | _ => true

/-- The value of a scalar load, with its count and its end. -/
def State.loadValue (s : State) (k : Nat) (f : Flight) (size : Nat) (signed : Bool) (v : Nat) : State :=
  (s.landFlight k f (extendLoad size signed v)).pmcEvent k 0x040 1 (some (s.flightCtx k f.fid).val)

/-- The die from which a core sends. -/
def coreDie (k : Nat) : Nat := if isCtl k then 8 else keyDie k

/-- A scalar access of a core has been served at its bank and has crossed the die links on its way (R102, R568). -/
def State.accessServed (s : State) (k a : Nat) : State :=
  let s1 := s.crossed (coreDie k) .memory a
  match s.bankOf k a with
  | some (x, r) => s1.arbServed x r
  | none => s1

/-- A load from the memory behind its address. -/
def State.loadLocal (s : State) (k : Nat) (f : Flight) (size : Nat) (signed : Bool) (h : HostReply) : State :=
  let n := s.flightCtx k f.fid
  match tierOf f.addr with
  | .csr =>
    let w := s.csrRead ((f.addr - csrBase) / 8 * 8)
    s.loadValue k f size signed (w.toNat / 2 ^ (8 * (f.addr % 8)))
  | .hostWin p =>
    if s.inWindow n.val p f.addr size false then
      match h with
      | .nothing => s
      | .data bs => s.loadValue k f size signed (leNat (bs.take size))
      | .poisoned _ => s.failFlight k f .memoryError
      | .error => let (w, s1) := s.draw; s1.loadValue k f size signed w.toNat
    else s.failFlight k f .access
  | _ =>
    let s1 := s.accessServed k f.addr
    if s.poisoned f.addr size then (s1.poisonRecord f.addr (some n)).failFlight k f .memoryError
    else s1.loadValue k f size signed (s.readNat f.addr size)

/-- SCALAR_LOAD_RETURN: the load numbered `i` of a core; `h` is what the host brings for one from a host window (log 27, DESIGN CHOICE). -/
def execScalarLoadReturn (cid : CoreId) (i : Nat) (h : HostReply) (s : State) : Out :=
  let k := coreKey cid
  .next (match s.flight k i with
    | some f =>
      (match f.op with
       | .load size signed =>
         if s.hatching (s.flightCtx k i).val || !s.inOrder k f then s
         else if f.remote.isSome then
           (if f.st != .answered then s
            else if f.refused then s.failFlight k f .access
            else if f.poison then s.failFlight k f .memoryError
            else s.loadValue k f size signed f.res.toNat)
         else s.loadLocal k f size signed h
       | _ => s)
    | none => s)

/-- The size of a CSR store of 4 or 8 bytes. -/
def storeSz (size a : Nat) : CsrSize := if size = 8 then .w64 else if a % 8 = 0 then .lo32 else .hi32

/-- A store performed at the memory behind its address. A CSR takes it while it is still in flight, so that a fault of the write names it; a pin
entry that forbids it by now refuses it (R270). -/
def State.storeLocal (s : State) (k : Nat) (f : Flight) (size : Nat) : State :=
  let n := s.flightCtx k f.fid
  match tierOf f.addr with
  | .csr => (s.csrPut (n != 0) k ((f.addr - csrBase) / 8 * 8) (storeSz size f.addr) f.val).endFlight k f
  | .hostWin p =>
    if !s.portOrder k f then s
    else if s.inWindow n.val p f.addr size true then
      { s.endFlight k f with
        hostOut := s.hostOut ++ [.write p (s.windowHost n.val p f.addr) (leBytes size f.val.toNat) false n] }
    else s.failFlight k f .access
  | _ =>
    let s1 := s.accessServed k f.addr
    if s.pinForbids (some n.val) false f.addr size then s1.failFlight k f .access
    else (s1.writeMem f.addr (leBytes size f.val.toNat) false).endFlight k f

/-- The store numbered `i` of a core, of 1 to 8 bytes, if it is in flight and its turn has come among the accesses to its bytes. -/
def State.storeReady (s : State) (k i : Nat) : Option (Flight × Nat) :=
  match s.flight k i with
  | some f =>
    (match f.op with
     | .store size => if s.hatching (s.flightCtx k i).val || !s.inOrder k f then none else some (f, size)
     | _ => none)
  | none => none

/-- A store is performed: at the memory of this package, or by the answer of another one. -/
def State.performStore (s : State) (k i : Nat) : State :=
  match s.storeReady k i with
  | some (f, size) =>
    if f.remote.isSome then
      (if f.st != .answered then s else if f.refused then s.failFlight k f .access else s.endFlight k f)
    else s.storeLocal k f size
  | none => s

/-- The bank arbiter that a store waits at, with the requester that its core is there (R102). -/
def State.storeBank (s : State) (x : CoreId × Nat) : Option (Arb × Nat) :=
  match s.storeReady (coreKey x.1) x.2 with
  | some (f, _) => if f.remote.isSome then none else s.bankOf (coreKey x.1) f.addr
  | none => none

/-- Stores that reach their memories together, one after the other: at a bank the arbiter's winner goes first (R22, R102). -/
def State.performStores : Nat → List (CoreId × Nat) → State → State
  | 0, _, s => s
  | _ + 1, [], s => s
  | n + 1, x :: t, s =>
    let y := match s.storeBank x with
      | some (a, _) =>
        let same := (x :: t).filter fun z => (s.storeBank z).map (·.1) == some a
        let w := s.arbWinner a (same.filterMap fun z => (s.storeBank z).map (·.2))
        (same.find? fun z => (s.storeBank z).map (·.2) == w).getD x
      | none => x
    State.performStores n ((x :: t).erase y) (s.performStore (coreKey y.1) y.2)

/-- SCALAR_STORE_PERFORMED: a store of a core, and those that reach their memories in the same cycle. -/
def execScalarStorePerformed (cid : CoreId) (w : StoreTurn) (s : State) : Out :=
  .next (s.performStores (w.rivals.length + 1) ((cid, w.flight) :: w.rivals))

/-- SEMAPHORE_RESULT_RETURN: the old value is written, the event is incremented and the sequencer goes on (R86, R128, R673). -/
def State.semDone (s : State) (k : Nat) (f : Flight) : State :=
  let n := (s.flightCtx k f.fid).val
  let s1 := (s.landFlight k f f.res).pmcEvent k 0x042 1 (some n)
  match f.ev with
  | some e => s1.evAddSet k n e 1 f.cls f.opc f.pc f.gaddr
  | none => s1

def execSemaphoreResultReturn (cid : CoreId) (i : Nat) (s : State) : Out :=
  let k := coreKey cid
  .next (match s.flight k i with
    | some f =>
      if f.op.atom?.isSome && f.st == .answered && !s.hatching (s.flightCtx k i).val then
        if f.refused then s.failFlight k f .access
        else if f.poison then s.failFlight k f .memoryError
        else s.semDone k f
      else s
    | none => s)

end Sys2Proof.Machine
end

