-- ==== Sys2Proof/Machine/Engine.lean ====
section
/-! DEFINITION. An engine starts the instruction at the head of its queue (03_cores_clusters_branches.md R83, R84, R89;
04_instruction_set.md R120; 05_matrix_engine.md R162, R175). -/

namespace Sys2Proof.Machine

/-- The scoreboard permits the source reads of an entry (R89). -/
def Core.readsOk (c : Core) (q : QEntry) : Bool := c.canRead q.seq (q.tiles (c.pkAt q.seq)).1

/-- A mismatch of the running mmx is not resolved (R184). -/
def MxSt.unresolved (m : MxSt) : Bool := match m.run with | some r => r.isRep && r.phase != .land | none => false

/-- No mmx that has not completed uses a bank (R162). -/
def MxSt.bankFree (m : MxSt) (bank : Nat) : Bool := (m.landing ++ m.run.toList).all fun r => r.bank != bank

/-- The running mmx has fed the last row of its final attempt, pass or repeat (R175). -/
def MxSt.fedAll (m : MxSt) : Bool := match m.run with | some r => r.phase == .land | none => true

/-- The matrix engine starts its head once no mismatch is unresolved (R184): an mst when no mmx under way uses the bank it fills, an mmx when
the one before it has fed its last row and its bank is loaded (R162, R175), any other once the scoreboard permits. -/
def State.startMx (s : State) (key : Nat) (q : QEntry) (sample : Bool) : State :=
  let c := s.core key
  if c.mx.unresolved then s
  else if q.op = 0x00 then
    let next := if c.mx.runOpen then c.mx.cur else if c.mx.filled then (c.mx.cur + 1) % 3 else 0
    if c.mx.bankFree next then s.startMst key q else s
  else if q.op ≤ 0x04 then
    if c.mx.fedAll && (tget Bank.empty c.mx.banks c.mx.cur).loads == 0 && c.readsOk q then s.startMmx key q sample else s
  else if c.readsOk q && c.canWrite q.seq (q.tiles (c.pkAt q.seq)).2 then s.startMxPlain key q
  else s

/-- The load/store engine starts its head. A waiting strm.issue goes on with its turn at the stream table (R259). -/
def State.startLs (s : State) (key : Nat) (q : QEntry) : State :=
  let c := s.core key
  if q.cls = 0x8 then (if c.lrun.isNone && c.readsOk q then s.startMove key q else s)
  else if c.lrun.isSome then s
  else if q.cls = 0x9 then
    (if q.op = 0x00 then (if c.lwait.isNone then s.startIssue key q else s)
     else if q.op = 0x01 then s.startCancel key q
     else s.startStat key q)
  else if q.op ≤ 0x02 then s.startColl key q
  else if q.op = 0x03 then s.startColCmt key q
  else if q.op = 0x04 then s.startColStat key q
  else s.startColAbort key q

/-- A null entry at the head completes (R120). -/
def State.startNull (s : State) (key : Nat) (e : Engine) (q : QEntry) : State :=
  ((s.popQueue key e).instrEv key q.fmt q.body q.cls q.op q.pc 0).settle key

/-- An engine looks at the head of its queue in the register set in place. After a hatch has begun no further entry starts (R520). -/
def State.startNext (s : State) (key : Nat) (e : Engine) (sample : Bool) : State :=
  let c := s.core key
  if s.hatching c.ctx.val then s
  else match c.queue e with
    | [] => s
    | q :: _ =>
      if q.null then s.startNull key e q
      else match e with
        | .mx => s.startMx key q sample
        | .vx =>
          let t := s.readVec key
          if (t.core key).vecReady q then t.startVec key q else t
        | .ls => s.startLs key q

/-- The head of a register set's load/store queue can go on: it does not wait for a stream-table entry. -/
def Core.lsGoes (c : Core) : Bool := !c.lq.isEmpty && c.lwait.isNone

/-- The register set whose queue an engine of a core serves: that in use; the load/store queue of a control core goes on to drain for a saved
set, when that in use gives it nothing to start (R124, R154). -/
def State.servedSet (s : State) (key : Nat) : Nat :=
  let c := s.core key
  if !isCtl key || c.lsGoes then c.ctx.val
  else
    match (List.range 64).find? fun n => n != c.ctx.val && (tget Core.reset s.ccRegs ((key - 0x1000) * 64 + n)).lsGoes with
    | some n => n
    | none => c.ctx.val

/-- An engine starts the head of its queue where it can. -/
def State.startHead (s : State) (key : Nat) (e : Engine) (sample : Bool) : State :=
  s.onSet key (s.servedSet key) fun t => t.startNext key e sample

def execEngineQueueStart (c : CoreId) (e : Engine) (sample : Bool) (s : State) : Out := .next (s.startHead (coreKey c) e sample)

end Sys2Proof.Machine
end

