-- ==== Sys2Proof/Machine/Dispatch.lean ====
section
/-! DEFINITION. The meaning of each command: one arm for each row of the table. -/

namespace Sys2Proof.Machine

/-- The effect of a command on everything but the queue. -/
def exec (i : Instr) (s : State) : Host.Outcome State Fault Refusal :=
  match i with
  | .csrWrite who off sz v => Sys2Proof.Machine.execCsrWrite who off sz v s
  | .csrAccessBadSize who off rd => Sys2Proof.Machine.execCsrAccessBadSize who off rd s
  | .add c b => Sys2Proof.Machine.execAdd c b s
  | .sub c b => Sys2Proof.Machine.execSub c b s
  | .mul c b => Sys2Proof.Machine.execMul c b s
  | .mulhS c b => Sys2Proof.Machine.execMulhS c b s
  | .mulhU c b => Sys2Proof.Machine.execMulhU c b s
  | .divS c b => Sys2Proof.Machine.execDivS c b s
  | .divU c b => Sys2Proof.Machine.execDivU c b s
  | .remS c b => Sys2Proof.Machine.execRemS c b s
  | .remU c b => Sys2Proof.Machine.execRemU c b s
  | .and c b => Sys2Proof.Machine.execAnd c b s
  | .or c b => Sys2Proof.Machine.execOr c b s
  | .xor c b => Sys2Proof.Machine.execXor c b s
  | .shl c b => Sys2Proof.Machine.execShl c b s
  | .shr c b => Sys2Proof.Machine.execShr c b s
  | .sra c b => Sys2Proof.Machine.execSra c b s
  | .minS c b => Sys2Proof.Machine.execMinS c b s
  | .maxS c b => Sys2Proof.Machine.execMaxS c b s
  | .minU c b => Sys2Proof.Machine.execMinU c b s
  | .maxU c b => Sys2Proof.Machine.execMaxU c b s
  | .clz c b => Sys2Proof.Machine.execClz c b s
  | .popc c b => Sys2Proof.Machine.execPopc c b s
  | .addi c b => Sys2Proof.Machine.execAddi c b s
  | .andi c b => Sys2Proof.Machine.execAndi c b s
  | .ori c b => Sys2Proof.Machine.execOri c b s
  | .xori c b => Sys2Proof.Machine.execXori c b s
  | .shli c b => Sys2Proof.Machine.execShli c b s
  | .shri c b => Sys2Proof.Machine.execShri c b s
  | .srai c b => Sys2Proof.Machine.execSrai c b s
  | .li c b => Sys2Proof.Machine.execLi c b s
  | .lih c b => Sys2Proof.Machine.execLih c b s
  | .faddF32 c b => Sys2Proof.Machine.execFaddF32 c b s
  | .fsubF32 c b => Sys2Proof.Machine.execFsubF32 c b s
  | .fmulF32 c b => Sys2Proof.Machine.execFmulF32 c b s
  | .ffmaF32 c b => Sys2Proof.Machine.execFfmaF32 c b s
  | .fminF32 c b => Sys2Proof.Machine.execFminF32 c b s
  | .fmaxF32 c b => Sys2Proof.Machine.execFmaxF32 c b s
  | .fcvtF32S64 c b => Sys2Proof.Machine.execFcvtF32S64 c b s
  | .fcvtS64F32 c b => Sys2Proof.Machine.execFcvtS64F32 c b s
  | .cmpEq c b => Sys2Proof.Machine.execCmpEq c b s
  | .cmpNe c b => Sys2Proof.Machine.execCmpNe c b s
  | .cmpLtS c b => Sys2Proof.Machine.execCmpLtS c b s
  | .cmpLtU c b => Sys2Proof.Machine.execCmpLtU c b s
  | .cmpLeS c b => Sys2Proof.Machine.execCmpLeS c b s
  | .cmpLeU c b => Sys2Proof.Machine.execCmpLeU c b s
  | .cmpiEq c b => Sys2Proof.Machine.execCmpiEq c b s
  | .cmpiNe c b => Sys2Proof.Machine.execCmpiNe c b s
  | .cmpiLtS c b => Sys2Proof.Machine.execCmpiLtS c b s
  | .cmpiLtU c b => Sys2Proof.Machine.execCmpiLtU c b s
  | .cmpiLeS c b => Sys2Proof.Machine.execCmpiLeS c b s
  | .cmpiLeU c b => Sys2Proof.Machine.execCmpiLeU c b s
  | .pand c b => Sys2Proof.Machine.execPand c b s
  | .por c b => Sys2Proof.Machine.execPor c b s
  | .pxor c b => Sys2Proof.Machine.execPxor c b s
  | .pnot c b => Sys2Proof.Machine.execPnot c b s
  | .fcmpEqF32 c b => Sys2Proof.Machine.execFcmpEqF32 c b s
  | .fcmpLtF32 c b => Sys2Proof.Machine.execFcmpLtF32 c b s
  | .fcmpLeF32 c b => Sys2Proof.Machine.execFcmpLeF32 c b s
  | .nop c b => Sys2Proof.Machine.execNop c b s
  | .br c b => Sys2Proof.Machine.execBr c b s
  | .brr c b => Sys2Proof.Machine.execBrr c b s
  | .call c b => Sys2Proof.Machine.execCall c b s
  | .ret c b => Sys2Proof.Machine.execRet c b s
  | .loop c b => Sys2Proof.Machine.execLoop c b s
  | .fence c b => Sys2Proof.Machine.execFence c b s
  | .fenceS c b => Sys2Proof.Machine.execFenceS c b s
  | .icinv c b => Sys2Proof.Machine.execIcinv c b s
  | .halt c b => Sys2Proof.Machine.execHalt c b s
  | .time c b => Sys2Proof.Machine.execTime c b s
  | .pmcRd c b => Sys2Proof.Machine.execPmcRd c b s
  | .hostev c b => Sys2Proof.Machine.execHostev c b s
  | .yield c b => Sys2Proof.Machine.execYield c b s
  | .evAdd c b => Sys2Proof.Machine.execEvAdd c b s
  | .evSet c b => Sys2Proof.Machine.execEvSet c b s
  | .evWait c b => Sys2Proof.Machine.execEvWait c b s
  | .evWaitr c b => Sys2Proof.Machine.execEvWaitr c b s
  | .evRead c b => Sys2Proof.Machine.execEvRead c b s
  | .barCl c b => Sys2Proof.Machine.execBarCl c b s
  | .barGrp c b => Sys2Proof.Machine.execBarGrp c b s
  | .semAdd c b => Sys2Proof.Machine.execSemAdd c b s
  | .semCas c b => Sys2Proof.Machine.execSemCas c b s
  | .semWait c b => Sys2Proof.Machine.execSemWait c b s
  | .ldU8 c b => Sys2Proof.Machine.execLdU8 c b s
  | .ldU16 c b => Sys2Proof.Machine.execLdU16 c b s
  | .ldU32 c b => Sys2Proof.Machine.execLdU32 c b s
  | .ldU64 c b => Sys2Proof.Machine.execLdU64 c b s
  | .ldS8 c b => Sys2Proof.Machine.execLdS8 c b s
  | .ldS16 c b => Sys2Proof.Machine.execLdS16 c b s
  | .ldS32 c b => Sys2Proof.Machine.execLdS32 c b s
  | .st8 c b => Sys2Proof.Machine.execSt8 c b s
  | .st16 c b => Sys2Proof.Machine.execSt16 c b s
  | .st32 c b => Sys2Proof.Machine.execSt32 c b s
  | .st64 c b => Sys2Proof.Machine.execSt64 c b s
  | .tld c b => Sys2Proof.Machine.execTld c b s
  | .tst c b => Sys2Proof.Machine.execTst c b s
  | .tmov c b => Sys2Proof.Machine.execTmov c b s
  | .tzero c b => Sys2Proof.Machine.execTzero c b s
  | .spcpy c b => Sys2Proof.Machine.execSpcpy c b s
  | .strmIssue c b => Sys2Proof.Machine.execStrmIssue c b s
  | .strmCancel c b => Sys2Proof.Machine.execStrmCancel c b s
  | .strmStat c b => Sys2Proof.Machine.execStrmStat c b s
  | .mst c b => Sys2Proof.Machine.execMst c b s
  | .mmx c b => Sys2Proof.Machine.execMmx c b s
  | .mmxn c b => Sys2Proof.Machine.execMmxn c b s
  | .mmxs c b => Sys2Proof.Machine.execMmxs c b s
  | .mmxsn c b => Sys2Proof.Machine.execMmxsn c b s
  | .mbias c b => Sys2Proof.Machine.execMbias c b s
  | .mmask c b => Sys2Proof.Machine.execMmask c b s
  | .mtagRd c b => Sys2Proof.Machine.execMtagRd c b s
  | .mtagClr c b => Sys2Proof.Machine.execMtagClr c b s
  | .vadd c b => Sys2Proof.Machine.execVadd c b s
  | .vsub c b => Sys2Proof.Machine.execVsub c b s
  | .vmul c b => Sys2Proof.Machine.execVmul c b s
  | .vfma c b => Sys2Proof.Machine.execVfma c b s
  | .vmin c b => Sys2Proof.Machine.execVmin c b s
  | .vmax c b => Sys2Proof.Machine.execVmax c b s
  | .vabs c b => Sys2Proof.Machine.execVabs c b s
  | .vneg c b => Sys2Proof.Machine.execVneg c b s
  | .vsel c b => Sys2Proof.Machine.execVsel c b s
  | .vcmp c b => Sys2Proof.Machine.execVcmp c b s
  | .vact c b => Sys2Proof.Machine.execVact c b s
  | .vdrop c b => Sys2Proof.Machine.execVdrop c b s
  | .vrand c b => Sys2Proof.Machine.execVrand c b s
  | .vtr c b => Sys2Proof.Machine.execVtr c b s
  | .vred c b => Sys2Proof.Machine.execVred c b s
  | .vfin c b => Sys2Proof.Machine.execVfin c b s
  | .vsmax c b => Sys2Proof.Machine.execVsmax c b s
  | .vlnorm c b => Sys2Proof.Machine.execVlnorm c b s
  | .vcvt c b => Sys2Proof.Machine.execVcvt c b s
  | .vunp c b => Sys2Proof.Machine.execVunp c b s
  | .vcvtmx c b => Sys2Proof.Machine.execVcvtmx c b s
  | .vepi c b => Sys2Proof.Machine.execVepi c b s
  | .vepis c b => Sys2Proof.Machine.execVepis c b s
  | .vset c b => Sys2Proof.Machine.execVset c b s
  | .colRs c b => Sys2Proof.Machine.execColRs c b s
  | .colAg c b => Sys2Proof.Machine.execColAg c b s
  | .colPerm c b => Sys2Proof.Machine.execColPerm c b s
  | .colCmt c b => Sys2Proof.Machine.execColCmt c b s
  | .colStat c b => Sys2Proof.Machine.execColStat c b s
  | .colAbort c b => Sys2Proof.Machine.execColAbort c b s
  | .hatch c b => Sys2Proof.Machine.execHatch c b s
  | .hostevF c b => Sys2Proof.Machine.execHostevF c b s
  | .wdb c b => Sys2Proof.Machine.execWdb c b s
  | .ctxEnter c b => Sys2Proof.Machine.execCtxEnter c b s
  | .instructionFetch c => Sys2Proof.Machine.execInstructionFetch c s
  | .engineQueueStart c e sample => Sys2Proof.Machine.execEngineQueueStart c e sample s
  | .scalarLoadReturn c ix h => Sys2Proof.Machine.execScalarLoadReturn c ix h s
  | .scalarStorePerformed c w => Sys2Proof.Machine.execScalarStorePerformed c w s
  | .semaphoreResultReturn c ix => Sys2Proof.Machine.execSemaphoreResultReturn c ix s
  | .tileMoveComplete c => Sys2Proof.Machine.execTileMoveComplete c s
  | .eventIncrement ix => Sys2Proof.Machine.execEventIncrement ix s
  | .atomicOperation u r => Sys2Proof.Machine.execAtomicOperation u r s
  | .semWaitResend c ix => Sys2Proof.Machine.execSemWaitResend c ix s
  | .clusterBarrierRelease k cl => Sys2Proof.Machine.execClusterBarrierRelease k cl s
  | .barrierReleaseDelivered c => Sys2Proof.Machine.execBarrierReleaseDelivered c s
  | .groupBarrierRelease ctx g => Sys2Proof.Machine.execGroupBarrierRelease ctx g s
  | .contextFault ctx => Sys2Proof.Machine.execContextFault ctx s
  | .ctxEnterTimeLimit n => Sys2Proof.Machine.execCtxEnterTimeLimit n s
  | .ccSliceTimer n => Sys2Proof.Machine.execCcSliceTimer n s
  | .wdbNotice notice => Sys2Proof.Machine.execWdbNotice notice s
  | .mstLoadComplete c => Sys2Proof.Machine.execMstLoadComplete c s
  | .matrixRowExit c upset => Sys2Proof.Machine.execMatrixRowExit c upset s
  | .matrixBlockLand c => Sys2Proof.Machine.execMatrixBlockLand c s
  | .spareReplay k cl upset => Sys2Proof.Machine.execSpareReplay k cl upset s
  | .spareReplayLand k cl => Sys2Proof.Machine.execSpareReplayLand k cl s
  | .ballastLevelRise w => Sys2Proof.Machine.execBallastLevelRise w s
  | .ballastLevelFall w => Sys2Proof.Machine.execBallastLevelFall w s
  | .vectorTileLand c l => Sys2Proof.Machine.execVectorTileLand c l s
  | .hotRepairDrained k cl => Sys2Proof.Machine.execHotRepairDrained k cl s
  | .hotRepairCopyDone k cl uncorrectable => Sys2Proof.Machine.execHotRepairCopyDone k cl uncorrectable s
  | .patrolScrub a found => Sys2Proof.Machine.execPatrolScrub a found s
  | .pkgHbmIlvWrite sz v => Sys2Proof.Machine.execPkgHbmIlvWrite sz v s
  | .streamEntryAssign c => Sys2Proof.Machine.execStreamEntryAssign c s
  | .streamActivate id => Sys2Proof.Machine.execStreamActivate id s
  | .streamPiece id fromHost => Sys2Proof.Machine.execStreamPiece id fromHost s
  | .streamFlushReadComplete r => Sys2Proof.Machine.execStreamFlushReadComplete r s
  | .streamRetire id => Sys2Proof.Machine.execStreamRetire id s
  | .streamCancelComplete id => Sys2Proof.Machine.execStreamCancelComplete id s
  | .updStageWrite u sz v => Sys2Proof.Machine.execUpdStageWrite u sz v s
  | .chunkStageAccept u => Sys2Proof.Machine.execChunkStageAccept u s
  | .applyStart u => Sys2Proof.Machine.execApplyStart u s
  | .blockApplyComplete ctx block => Sys2Proof.Machine.execBlockApplyComplete ctx block s
  | .regen ctx block => Sys2Proof.Machine.execRegen ctx block s
  | .verify ctx block => Sys2Proof.Machine.execVerify ctx block s
  | .updCommandComplete ctx => Sys2Proof.Machine.execUpdCommandComplete ctx s
  | .halyardOpen ctx h v => Sys2Proof.Machine.execHalyardOpen ctx h v s
  | .halyardClose ctx h => Sys2Proof.Machine.execHalyardClose ctx h s
  | .halyardOpenRetry ctx h => Sys2Proof.Machine.execHalyardOpenRetry ctx h s
  | .openPennantReceive h r => Sys2Proof.Machine.execOpenPennantReceive h r s
  | .acceptReceive h eseq a payload => Sys2Proof.Machine.execAcceptReceive h eseq a payload s
  | .rejectReceive h r => Sys2Proof.Machine.execRejectReceive h r s
  | .closeReceive h r => Sys2Proof.Machine.execCloseReceive h r s
  | .halyardDoorbell ctx h c v => Sys2Proof.Machine.execHalyardDoorbell ctx h c v s
  | .halyardSendStart ctx h => Sys2Proof.Machine.execHalyardSendStart ctx h s
  | .hdataReceive h eseq r => Sys2Proof.Machine.execHdataReceive h eseq r s
  | .halyardSendComplete ctx e => Sys2Proof.Machine.execHalyardSendComplete ctx e s
  | .halyardRelease ctx h n => Sys2Proof.Machine.execHalyardRelease ctx h n s
  | .hcredReceive h eseq r => Sys2Proof.Machine.execHcredReceive h eseq r s
  | .vholdAcquire c ctx owner tag => Sys2Proof.Machine.execVholdAcquire c ctx owner tag s
  | .vholdRelease c ctx owner tag => Sys2Proof.Machine.execVholdRelease c ctx owner tag s
  | .fabCfgWrite p sz v => Sys2Proof.Machine.execFabCfgWrite p sz v s
  | .portSignalDetect p lostMs => Sys2Proof.Machine.execPortSignalDetect p lostMs s
  | .detectRepeat p => Sys2Proof.Machine.execDetectRepeat p s
  | .laneCheckComplete p openLanes shortLanes => Sys2Proof.Machine.execLaneCheckComplete p openLanes shortLanes s
  | .blockLock p inverted => Sys2Proof.Machine.execBlockLock p inverted s
  | .rateSwitchTimer p => Sys2Proof.Machine.execRateSwitchTimer p s
  | .identityBlockReceive p ix => Sys2Proof.Machine.execIdentityBlockReceive p ix s
  | .equalisationComplete p => Sys2Proof.Machine.execEqualisationComplete p s
  | .portActive p => Sys2Proof.Machine.execPortActive p s
  | .rttMeasured p ns => Sys2Proof.Machine.execRttMeasured p ns s
  | .linkBlockSend p => Sys2Proof.Machine.execLinkBlockSend p s
  | .linkBlockReceive p lanes => Sys2Proof.Machine.execLinkBlockReceive p lanes s
  | .idleBlockTimer p => Sys2Proof.Machine.execIdleBlockTimer p s
  | .retryTimeout p => Sys2Proof.Machine.execRetryTimeout p s
  | .portSignalLoss p => Sys2Proof.Machine.execPortSignalLoss p s
  | .blockReceiveTimeout p => Sys2Proof.Machine.execBlockReceiveTimeout p s
  | .retrain p => Sys2Proof.Machine.execRetrain p s
  | .shutter p => Sys2Proof.Machine.execShutter p s
  | .routeDimsWrite sz v => Sys2Proof.Machine.execRouteDimsWrite sz v s
  | .routeSliceWrite sz v => Sys2Proof.Machine.execRouteSliceWrite sz v s
  | .routePennant => Sys2Proof.Machine.execRoutePennant s
  | .writeReceive pn => Sys2Proof.Machine.execWriteReceive pn s
  | .readReceive pn => Sys2Proof.Machine.execReadReceive pn s
  | .atomicReceive pn => Sys2Proof.Machine.execAtomicReceive pn s
  | .responseSend => Sys2Proof.Machine.execResponseSend s
  | .wackSend ix => Sys2Proof.Machine.execWackSend ix s
  | .rdataReceive pn => Sys2Proof.Machine.execRdataReceive pn s
  | .arespReceive pn => Sys2Proof.Machine.execArespReceive pn s
  | .wackReceive pn => Sys2Proof.Machine.execWackReceive pn s
  | .rnakReceive pn => Sys2Proof.Machine.execRnakReceive pn s
  | .responseTimeout ix => Sys2Proof.Machine.execResponseTimeout ix s
  | .dsetupReceive t m => Sys2Proof.Machine.execDsetupReceive t m s
  | .dackReceive d => Sys2Proof.Machine.execDackReceive d s
  | .dnakReceive d noPortToB => Sys2Proof.Machine.execDnakReceive d noPortToB s
  | .dtearReceive owner t count => Sys2Proof.Machine.execDtearReceive owner t count s
  | .dtearAnswerReceive d => Sys2Proof.Machine.execDtearAnswerReceive d s
  | .colGrpWrite ctx g sz v => Sys2Proof.Machine.execColGrpWrite ctx g sz v s
  | .colSubWrite ctx g sz v => Sys2Proof.Machine.execColSubWrite ctx g sz v s
  | .collectiveOpen ctx g e => Sys2Proof.Machine.execCollectiveOpen ctx g e s
  | .chunkSend ctx g e rank => Sys2Proof.Machine.execChunkSend ctx g e rank s
  | .chunkReceive pn upset => Sys2Proof.Machine.execChunkReceive pn upset s
  | .chunkCreditReceive pn => Sys2Proof.Machine.execChunkCreditReceive pn s
  | .countReceive pn => Sys2Proof.Machine.execCountReceive pn s
  | .collectivePark ctx g e => Sys2Proof.Machine.execCollectivePark ctx g e s
  | .stallWatchdog ctx g e waitUs => Sys2Proof.Machine.execStallWatchdog ctx g e waitUs s
  | .probeReceive pr => Sys2Proof.Machine.execProbeReceive pr s
  | .abortReceive gkey e cause => Sys2Proof.Machine.execAbortReceive gkey e cause s
  | .voteReady ctx step => Sys2Proof.Machine.execVoteReady ctx step s
  | .voteTokenReceive pn => Sys2Proof.Machine.execVoteTokenReceive pn s
  | .voteResultReceive pn => Sys2Proof.Machine.execVoteResultReceive pn s
  | .voteResultTimeout ctx => Sys2Proof.Machine.execVoteResultTimeout ctx s
  | .perstAssert p => Sys2Proof.Machine.execPerstAssert p s
  | .perstRelease p => Sys2Proof.Machine.execPerstRelease p s
  | .configSpaceReady p => Sys2Proof.Machine.execConfigSpaceReady p s
  | .hotReset p link => Sys2Proof.Machine.execHotReset p link s
  | .pcieLinkDown p link => Sys2Proof.Machine.execPcieLinkDown p link s
  | .flrVf p f => Sys2Proof.Machine.execFlrVf p f s
  | .flrPf p link => Sys2Proof.Machine.execFlrPf p link s
  | .vfEnableClear p link => Sys2Proof.Machine.execVfEnableClear p link s
  | .apertureWrite p f seg x bytes ep => Sys2Proof.Machine.execApertureWrite p f seg x bytes ep s
  | .apertureRead p f seg x n => Sys2Proof.Machine.execApertureRead p f seg x n s
  | .queueEnable p f q v => Sys2Proof.Machine.execQueueEnable p f q v s
  | .sqTailDoorbell p f q v => Sys2Proof.Machine.execSqTailDoorbell p f q v s
  | .cqHeadDoorbell p f q v => Sys2Proof.Machine.execCqHeadDoorbell p f q v s
  | .eqHeadWrite p f v => Sys2Proof.Machine.execEqHeadWrite p f v s
  | .commandFetch p f q entry => Sys2Proof.Machine.execCommandFetch p f q entry s
  | .completionWrite p f q => Sys2Proof.Machine.execCompletionWrite p f q s
  | .eventRecordPost p f => Sys2Proof.Machine.execEventRecordPost p f s
  | .lostRecordPost p f => Sys2Proof.Machine.execLostRecordPost p f s
  | .identify q => Sys2Proof.Machine.execIdentify q s
  | .ctxAlloc q => Sys2Proof.Machine.execCtxAlloc q s
  | .ctxFree q => Sys2Proof.Machine.execCtxFree q s
  | .launch q => Sys2Proof.Machine.execLaunch q s
  | .launchComplete ctx => Sys2Proof.Machine.execLaunchComplete ctx s
  | .launchTimeLimit ctx => Sys2Proof.Machine.execLaunchTimeLimit ctx s
  | .suspend q => Sys2Proof.Machine.execSuspend q s
  | .suspendComplete ctx => Sys2Proof.Machine.execSuspendComplete ctx s
  | .resume q => Sys2Proof.Machine.execResume q s
  | .cancel q => Sys2Proof.Machine.execCancel q s
  | .copy q desc => Sys2Proof.Machine.execCopy q desc s
  | .openWindow q => Sys2Proof.Machine.execOpenWindow q s
  | .closeWindow q => Sys2Proof.Machine.execCloseWindow q s
  | .mapAperture q => Sys2Proof.Machine.execMapAperture q s
  | .ccRun q chosen => Sys2Proof.Machine.execCcRun q chosen s
  | .contextHang ctx => Sys2Proof.Machine.execContextHang ctx s
  | .engineHang c e => Sys2Proof.Machine.execEngineHang c e s
  | .unitHang unit ctx => Sys2Proof.Machine.execUnitHang unit ctx s
  | .unitHangEscalate unit => Sys2Proof.Machine.execUnitHangEscalate unit s
  | .firmwareWatchdog => Sys2Proof.Machine.execFirmwareWatchdog s
  | .kick => Sys2Proof.Machine.execKick s
  | .pkgRstPackage => Sys2Proof.Machine.execPkgRstPackage s
  | .pkgRstFabric => Sys2Proof.Machine.execPkgRstFabric s
  | .pkgRstCold => Sys2Proof.Machine.execPkgRstCold s
  | .hatchSequence ctx => Sys2Proof.Machine.execHatchSequence ctx s
  | .hatchComplete ctx => Sys2Proof.Machine.execHatchComplete ctx s
  | .ctxDownReceive pn => Sys2Proof.Machine.execCtxDownReceive pn s
  | .functionResetComplete ctx => Sys2Proof.Machine.execFunctionResetComplete ctx s
  | .packageResetReady => Sys2Proof.Machine.execPackageResetReady s
  | .errorDetection d => Sys2Proof.Machine.execErrorDetection d s
  | .errorRecordClose ix cls => Sys2Proof.Machine.execErrorRecordClose ix cls s
  | .historyHalving unit => Sys2Proof.Machine.execHistoryHalving unit s
  | .historyFlashWrite unit => Sys2Proof.Machine.execHistoryFlashWrite unit s
  | .fieldTestVisit k cl => Sys2Proof.Machine.execFieldTestVisit k cl s
  | .fieldTestDone k cl pass => Sys2Proof.Machine.execFieldTestDone k cl pass s
  | .test unit => Sys2Proof.Machine.execTest unit s
  | .restore unit pass => Sys2Proof.Machine.execRestore unit pass s
  | .clearHist unit => Sys2Proof.Machine.execClearHist unit s
  | .sampleCompare k cl run1 run2 => Sys2Proof.Machine.execSampleCompare k cl run1 run2 s
  | .tstInjArm sz v => Sys2Proof.Machine.execTstInjArm sz v s
  | .flitCrcRetry n m => Sys2Proof.Machine.execFlitCrcRetry n m s
  | .moduleRetrain n m why => Sys2Proof.Machine.execModuleRetrain n m why s
  | .moduleRetrainComplete n m => Sys2Proof.Machine.execModuleRetrainComplete n m s
  | .repairMapWrite n => Sys2Proof.Machine.execRepairMapWrite n s
  | .tapReset => Sys2Proof.Machine.execTapReset s
  | .tapUpdateIr die ir => Sys2Proof.Machine.execTapUpdateIr die ir s
  | .wktUpdateDr die dr => Sys2Proof.Machine.execWktUpdateDr die dr s
  | .wicketRead die a => Sys2Proof.Machine.execWicketRead die a s
  | .wicketWrite die a => Sys2Proof.Machine.execWicketWrite die a s
  | .wicketOperationComplete die => Sys2Proof.Machine.execWicketOperationComplete die s
  | .inputRise => Sys2Proof.Machine.execInputRise s
  | .reversedInput => Sys2Proof.Machine.execReversedInput s
  | .railGroupUp g => Sys2Proof.Machine.execRailGroupUp g s
  | .pwrOk slotId => Sys2Proof.Machine.execPwrOk slotId s
  | .firmwareVerify => Sys2Proof.Machine.execFirmwareVerify s
  | .readyAssert => Sys2Proof.Machine.execReadyAssert s
  | .inputUndervoltage mv => Sys2Proof.Machine.execInputUndervoltage mv s
  | .inputOvervoltage mv => Sys2Proof.Machine.execInputOvervoltage mv s
  | .inputOvercurrent dA => Sys2Proof.Machine.execInputOvercurrent dA s
  | .inputSwitchShort dA => Sys2Proof.Machine.execInputSwitchShort dA s
  | .railStartFail n mv => Sys2Proof.Machine.execRailStartFail n mv s
  | .railUndervoltage n mv => Sys2Proof.Machine.execRailUndervoltage n mv s
  | .railOvervoltage n mv => Sys2Proof.Machine.execRailOvervoltage n mv s
  | .railOvercurrent n dA => Sys2Proof.Machine.execRailOvercurrent n dA s
  | .dieOverTemperature k t8 => Sys2Proof.Machine.execDieOverTemperature k t8 s
  | .hbmOverTemperature m t8 => Sys2Proof.Machine.execHbmOverTemperature m t8 s
  | .coolantTemperatureTrip t8 => Sys2Proof.Machine.execCoolantTemperatureTrip t8 s
  | .coolantFlowTrip mlMin => Sys2Proof.Machine.execCoolantFlowTrip mlMin s
  | .converterOverTemperature stage t8 => Sys2Proof.Machine.execConverterOverTemperature stage t8 s
  | .pmLinkTrip => Sys2Proof.Machine.execPmLinkTrip s
  | .pwrFail => Sys2Proof.Machine.execPwrFail s
  | .tripRestart inlet8 flow => Sys2Proof.Machine.execTripRestart inlet8 flow s
  | .senseOpen n => Sys2Proof.Machine.execSenseOpen n s
  | .droop k over16 => Sys2Proof.Machine.execDroop k over16 s
  | .droopRecovery k => Sys2Proof.Machine.execDroopRecovery k s
  | .pmLinkMessage m => Sys2Proof.Machine.execPmLinkMessage m s
  | .pmLinkSilent => Sys2Proof.Machine.execPmLinkSilent s
  | .powerCapEvaluation => Sys2Proof.Machine.execPowerCapEvaluation s
  | .peakEvaluation => Sys2Proof.Machine.execPeakEvaluation s
  | .railCurrentDemand n ev => Sys2Proof.Machine.execRailCurrentDemand n ev s
  | .thermalDemandEvaluation tm => Sys2Proof.Machine.execThermalDemandEvaluation tm s
  | .coolantDemand inlet8 flow => Sys2Proof.Machine.execCoolantDemand inlet8 flow s
  | .pwrLouvreWrite sz v => Sys2Proof.Machine.execPwrLouvreWrite sz v s
  | .louvreChangeComplete k => Sys2Proof.Machine.execLouvreChangeComplete k s
  | .powerRecord k => Sys2Proof.Machine.execPowerRecord k s
  | .sensorRefresh m => Sys2Proof.Machine.execSensorRefresh m s
  | .doeDiscovery p link index => Sys2Proof.Machine.execDoeDiscovery p link index s
  | .quote p link nonce mask log flashOk => Sys2Proof.Machine.execQuote p link nonce mask log flashOk s
  | .debugUnlock p link tok => Sys2Proof.Machine.execDebugUnlock p link tok s
  | .image p link off bytes => Sys2Proof.Machine.execImage p link off bytes s
  | .idCert p link => Sys2Proof.Machine.execIdCert p link s
  | .rekey p link au => Sys2Proof.Machine.execRekey p link au s
  | .idKeyCacheReady => Sys2Proof.Machine.execIdKeyCacheReady s
  | .relock => Sys2Proof.Machine.execRelock s
  | .secMeasExtend n => Sys2Proof.Machine.execSecMeasExtend n s
  | .phaseStartMark ctx tag => Sys2Proof.Machine.execPhaseStartMark ctx tag s
  | .phaseEndMark ctx tag => Sys2Proof.Machine.execPhaseEndMark ctx tag s
  | .pmcCounterWrap c n amount => Sys2Proof.Machine.execPmcCounterWrap c n amount s
  | .telemetryRefresh => Sys2Proof.Machine.execTelemetryRefresh s
  | .i3cPrivateWrite bytes => Sys2Proof.Machine.execI3cPrivateWrite bytes s
  | .i3cPrivateRead n => Sys2Proof.Machine.execI3cPrivateRead n s
  | .i3cEntdaa da => Sys2Proof.Machine.execI3cEntdaa da s
  | .i3cSetdasa sa da => Sys2Proof.Machine.execI3cSetdasa sa da s
  | .ppsEdge => Sys2Proof.Machine.execPpsEdge s
  | .pcieLinkUp p link gen log2w reversed => Sys2Proof.Machine.execPcieLinkUp p link gen log2w reversed s
  | .vfEnableSet p link numVfs => Sys2Proof.Machine.execVfEnableSet p link numVfs s
  | .icacheRecurrenceWindow ix => Sys2Proof.Machine.execIcacheRecurrenceWindow ix s

end Sys2Proof.Machine
end

