-- ==== Sys2Proof/Machine/Tick.lean ====
section
/-! DEFINITION. What an idle step does: one nanosecond passes (log 3, DESIGN CHOICE). -/

namespace Sys2Proof.Machine

/-- A halyard accumulates waiting time: OPEN with LEVEL 0, and on a send halyard with a send queued (R326). -/
def State.halWaits (s : State) (n h : Nat) : Bool :=
  s.hst n h == hOpen && s.hsts n h CTX_HAL_STS.LEVEL == 0 && (s.hRecv n h || !(s.hal n h).sends.isEmpty)

/-- One nanosecond added to a saturating time. -/
def State.addNs (s : State) (off : Nat) (f : Fld) : State := s.bump off f 1

/-- The waiting times of the halyards (R326). -/
def State.halTick (s : State) : State :=
  s.hals.foldl (fun t x => if s.halWaits (x.1 / 16) (x.1 % 16) then t.addNs (CTX_HAL_WAIT.off (x.1 / 16) (x.1 % 16)) CTX_HAL_WAIT.NS else t) s

/-- An update unit withholds the credit of a chunk (R282). -/
def State.withholds (s : State) (u : Nat) : Bool := s.offers.any fun o => o.chunk.unit == u && !s.takeable u o

/-- The time during which update units withhold credit (R284). -/
def State.bpTick (s : State) : State :=
  (List.range 12).foldl (fun t u => if s.withholds u then t.addNs (UPD_BP_TIME.off u) UPD_BP_TIME.NS else t) s

/-- ACLK cycles of a die in a nanosecond, in units of 1/2000 of a cycle: halved while a droop lasts (R604, R605, R635). (log 49, DEDUCED) -/
def State.aclkUnits (s : State) (k : Nat) : Nat :=
  let m := stepMhz (tget 0 s.power.aclk k)
  if (tget? s.power.halved k).isSome then m else 2 * m

/-- The cycle counters of the four dies and of the control cores, whose clock runs at 2.4 GHz (R635, R638). (log 49, DEDUCED) -/
def State.cycTick (s : State) : State :=
  { s with dieCyc := (List.range 4).foldl (fun t k => tset t k (tget 0 t k + s.aclkUnits k)) s.dieCyc, cclk5 := s.cclk5 + 12 }

/-- One nanosecond with no command: the power controller's clock moves always, the rest once the rails are up (R602). -/
def State.tick (s : State) : State :=
  let f (p : Power) : Power := { p with clock := p.clock + 1 }
  let s1 := { s with power := f s.power }
  if s.power.ok then { s1.halTick.bpTick.cycTick with time := s.time + 1 } else s1

end Sys2Proof.Machine
end

