-- ==== Sys2Proof/Safety.lean ====
section
/-! DEFINITION. What the statements speak of: a sound state, what a command answers, when an instruction runs, what it leaves alone, and the
tables of the arithmetic that the instruction chapter gives. -/

namespace Sys2Proof.Machine

/-- A sound state: the memory is in canonical form, so that equal memories are equal data (R530, R602). -/
def State.Sound (s : State) : Prop := s.mem.wf = true

/-- The command answers a next state of which `P` holds. -/
def Gives (i : Instr) (s : State) (P : State → Prop) : Prop := ∃ t, exec i s = .next t ∧ P t

/-- The register belongs to the performance counters of a core (R634, R635): a count, or the overflow flags. -/
def isCounter (k off : Nat) : Bool :=
  (List.range 8).any (fun i => off == pmcCnt k (i + 1)) || off == CORE_PMC_OVF.off (keyDie k) (keyCl k) (keyQ k)

/-- Nothing changes but performance counters of a core. -/
def CountsOnly (k : Nat) (s t : State) : Prop :=
  t = { s with csr := t.csr } ∧ ∀ off, isCounter k off = false → t.csrGet off = s.csrGet off

/-- The core `k` becomes `c`; every other core, every register outside the core's performance counters, every byte of memory and every
other piece of state is as before. -/
structure CoreBecomes (k : Nat) (c : Core) (s t : State) : Prop where
  rest  : t = { s with csr := t.csr, cores := t.cores }
  regs  : ∀ off, isCounter k off = false → t.csrGet off = s.csrGet off
  core  : t.core k = c
  cores : ∀ j, j ≠ k → t.core j = s.core j
  bytes : ∀ a, t.readByte a = s.readByte a

/-- As `CoreBecomes`, but for the pointers of the arbiters that the access went through (R22, R102, R568). -/
structure CoreLands (k : Nat) (c : Core) (s t : State) : Prop where
  rest  : t = { s with csr := t.csr, cores := t.cores, arb := t.arb }
  regs  : ∀ off, isCounter k off = false → t.csrGet off = s.csrGet off
  core  : t.core k = c
  cores : ∀ j, j ≠ k → t.core j = s.core j
  bytes : ∀ a, t.readByte a = s.readByte a

/-- The instruction executes normally: the sequencer can dispatch it, no repair of the cluster is in progress, the word is legal, and its
guard holds (R83, R86, R115, R119, R123, R127, R672). -/
structure Runs (cid : CoreId) (i : Ins) (b : Body) (s : State) : Prop where
  can    : (s.core (coreKey cid)).canDispatch i b = true
  live   : s.repairing (coreKey cid) = false
  word   : illegalWord (isCtl (coreKey cid)) i.cls i.op i.fm b = false
  fields : illegalFields i.cls i.fm i.used b = false
  guard  : (s.core (coreKey cid)).guard b = true

/-- The core after a dispatched instruction that changes nothing else: PC past the word. -/
def Core.past (c : Core) : Core := { c with pc := c.pc + 8, ir := none }

/-- The integer instructions of R130 and R131: word, format, and the result from the old destination, the first source and the second
source or immediate. -/
def intRule : Instr → Option (CoreId × Body × Ins × (Word → Word → Word → Word))
  | .add c b => some (c, b, ⟨0x0, 0x00, .r, [0, 1, 2]⟩, fun _ x y => x + y)
  | .sub c b => some (c, b, ⟨0x0, 0x01, .r, [0, 1, 2]⟩, fun _ x y => x - y)
  | .mul c b => some (c, b, ⟨0x0, 0x02, .r, [0, 1, 2]⟩, fun _ x y => BitVec.ofNat 64 (x.toNat * y.toNat))
  | .mulhS c b => some (c, b, ⟨0x0, 0x03, .r, [0, 1, 2]⟩, fun _ x y => BitVec.ofInt 64 (x.toInt * y.toInt / 2 ^ 64))
  | .mulhU c b => some (c, b, ⟨0x0, 0x04, .r, [0, 1, 2]⟩, fun _ x y => BitVec.ofNat 64 (x.toNat * y.toNat / 2 ^ 64))
  | .divS c b => some (c, b, ⟨0x0, 0x05, .r, [0, 1, 2]⟩, fun _ x y => if y = 0 then -1 else BitVec.ofInt 64 (x.toInt.tdiv y.toInt))
  | .divU c b => some (c, b, ⟨0x0, 0x06, .r, [0, 1, 2]⟩,
      fun _ x y => if y = 0 then 0xFFFFFFFFFFFFFFFF else BitVec.ofNat 64 (x.toNat / y.toNat))
  | .remS c b => some (c, b, ⟨0x0, 0x07, .r, [0, 1, 2]⟩, fun _ x y => if y = 0 then x else BitVec.ofInt 64 (x.toInt.tmod y.toInt))
  | .remU c b => some (c, b, ⟨0x0, 0x08, .r, [0, 1, 2]⟩, fun _ x y => if y = 0 then x else BitVec.ofNat 64 (x.toNat % y.toNat))
  | .and c b => some (c, b, ⟨0x0, 0x09, .r, [0, 1, 2]⟩, fun _ x y => x &&& y)
  | .or c b => some (c, b, ⟨0x0, 0x0A, .r, [0, 1, 2]⟩, fun _ x y => x ||| y)
  | .xor c b => some (c, b, ⟨0x0, 0x0B, .r, [0, 1, 2]⟩, fun _ x y => x ^^^ y)
  | .shl c b => some (c, b, ⟨0x0, 0x0C, .r, [0, 1, 2]⟩, fun _ x y => x <<< y.fld 0 6)
  | .shr c b => some (c, b, ⟨0x0, 0x0D, .r, [0, 1, 2]⟩, fun _ x y => x >>> y.fld 0 6)
  | .sra c b => some (c, b, ⟨0x0, 0x0E, .r, [0, 1, 2]⟩, fun _ x y => BitVec.ofInt 64 (x.toInt / 2 ^ y.fld 0 6))
  | .minS c b => some (c, b, ⟨0x0, 0x0F, .r, [0, 1, 2]⟩, fun _ x y => BitVec.ofInt 64 (min x.toInt y.toInt))
  | .maxS c b => some (c, b, ⟨0x0, 0x10, .r, [0, 1, 2]⟩, fun _ x y => BitVec.ofInt 64 (max x.toInt y.toInt))
  | .minU c b => some (c, b, ⟨0x0, 0x11, .r, [0, 1, 2]⟩, fun _ x y => BitVec.ofNat 64 (min x.toNat y.toNat))
  | .maxU c b => some (c, b, ⟨0x0, 0x12, .r, [0, 1, 2]⟩, fun _ x y => BitVec.ofNat 64 (max x.toNat y.toNat))
  | .clz c b => some (c, b, ⟨0x0, 0x13, .r, [0, 1]⟩, fun _ x _ => BitVec.ofNat 64 (if x = 0 then 64 else 63 - Nat.log2 x.toNat))
  | .popc c b => some (c, b, ⟨0x0, 0x14, .r, [0, 1]⟩, fun _ x _ => BitVec.ofNat 64 ((List.range 64).filter fun n => x.getLsbD n).length)
  | .addi c b => some (c, b, ⟨0x1, 0x00, .i, [0, 1]⟩, fun _ x y => x + y)
  | .andi c b => some (c, b, ⟨0x1, 0x09, .i, [0, 1]⟩, fun _ x y => x &&& y)
  | .ori c b => some (c, b, ⟨0x1, 0x0A, .i, [0, 1]⟩, fun _ x y => x ||| y)
  | .xori c b => some (c, b, ⟨0x1, 0x0B, .i, [0, 1]⟩, fun _ x y => x ^^^ y)
  | .shli c b => some (c, b, ⟨0x1, 0x0C, .i, [0, 1]⟩, fun _ x y => x <<< y.fld 0 6)
  | .shri c b => some (c, b, ⟨0x1, 0x0D, .i, [0, 1]⟩, fun _ x y => x >>> y.fld 0 6)
  | .srai c b => some (c, b, ⟨0x1, 0x0E, .i, [0, 1]⟩, fun _ x y => BitVec.ofInt 64 (x.toInt / 2 ^ y.fld 0 6))
  | .li c b => some (c, b, ⟨0x1, 0x20, .i, [0]⟩, fun _ _ y => y)
  | .lih c b => some (c, b, ⟨0x1, 0x21, .i, [0]⟩, fun d _ y => BitVec.ofNat 64 (y.fld 0 32 * 2 ^ 32 + d.fld 0 32))
  | _ => none

/-- The compares of R134: word, format, and the condition on the first source and the second source or immediate. -/
def cmpRule : Instr → Option (CoreId × Body × Ins × (Word → Word → Bool))
  | .cmpEq c b => some (c, b, ⟨0x3, 0x00, .p, [0, 1, 2]⟩, fun x y => decide (x = y))
  | .cmpNe c b => some (c, b, ⟨0x3, 0x01, .p, [0, 1, 2]⟩, fun x y => decide (x ≠ y))
  | .cmpLtS c b => some (c, b, ⟨0x3, 0x02, .p, [0, 1, 2]⟩, fun x y => decide (x.toInt < y.toInt))
  | .cmpLtU c b => some (c, b, ⟨0x3, 0x03, .p, [0, 1, 2]⟩, fun x y => decide (x.toNat < y.toNat))
  | .cmpLeS c b => some (c, b, ⟨0x3, 0x04, .p, [0, 1, 2]⟩, fun x y => decide (x.toInt ≤ y.toInt))
  | .cmpLeU c b => some (c, b, ⟨0x3, 0x05, .p, [0, 1, 2]⟩, fun x y => decide (x.toNat ≤ y.toNat))
  | .cmpiEq c b => some (c, b, ⟨0x3, 0x08, .pi, [0, 1]⟩, fun x y => decide (x = y))
  | .cmpiNe c b => some (c, b, ⟨0x3, 0x09, .pi, [0, 1]⟩, fun x y => decide (x ≠ y))
  | .cmpiLtS c b => some (c, b, ⟨0x3, 0x0A, .pi, [0, 1]⟩, fun x y => decide (x.toInt < y.toInt))
  | .cmpiLtU c b => some (c, b, ⟨0x3, 0x0B, .pi, [0, 1]⟩, fun x y => decide (x.toNat < y.toNat))
  | .cmpiLeS c b => some (c, b, ⟨0x3, 0x0C, .pi, [0, 1]⟩, fun x y => decide (x.toInt ≤ y.toInt))
  | .cmpiLeU c b => some (c, b, ⟨0x3, 0x0D, .pi, [0, 1]⟩, fun x y => decide (x.toNat ≤ y.toNat))
  | .fcmpEqF32 c b => some (c, b, ⟨0x3, 0x18, .p, [0, 1, 2]⟩, fun x y => eq32 (x.setWidth 32) (y.setWidth 32))
  | .fcmpLtF32 c b => some (c, b, ⟨0x3, 0x19, .p, [0, 1, 2]⟩, fun x y => lt32 (x.setWidth 32) (y.setWidth 32))
  | .fcmpLeF32 c b => some (c, b, ⟨0x3, 0x1A, .p, [0, 1, 2]⟩, fun x y => le32 (x.setWidth 32) (y.setWidth 32))
  | _ => none

/-- The logical operations on predicates of R134. -/
def predRule : Instr → Option (CoreId × Body × Ins × (Bool → Bool → Bool))
  | .pand c b => some (c, b, ⟨0x3, 0x10, .p, [0, 3, 4]⟩, fun x y => x && y)
  | .por c b => some (c, b, ⟨0x3, 0x11, .p, [0, 3, 4]⟩, fun x y => x || y)
  | .pxor c b => some (c, b, ⟨0x3, 0x12, .p, [0, 3, 4]⟩, fun x y => x != y)
  | .pnot c b => some (c, b, ⟨0x3, 0x13, .p, [0, 3]⟩, fun x _ => !x)
  | _ => none

/-- The second source of an instruction: the register of field 2, or the sign-extended immediate (R130). -/
def Core.second (c : Core) (fm : IFmt) (b : Body) : Word :=
  match fm with
  | .r => c.reg (opnd .r b 2)
  | .p => c.reg (opnd .p b 2)
  | _ => immW b

/-- The FP32 instructions of R132 and R133: word, format, and the result with SAT_HIT and NAN_GEN. -/
def fpRule : Instr → Option (CoreId × Body × Ins × (Word → Word → Word → Word × Bool × Bool))
  | .faddF32 c b => some (c, b, ⟨0x2, 0x00, .r, [0, 1, 2]⟩,
      fun x y _ => let r := add32 (x.setWidth 32) (y.setWidth 32); (r.1.setWidth 64, false, r.2))
  | .fsubF32 c b => some (c, b, ⟨0x2, 0x01, .r, [0, 1, 2]⟩,
      fun x y _ => let r := sub32 (x.setWidth 32) (y.setWidth 32); (r.1.setWidth 64, false, r.2))
  | .fmulF32 c b => some (c, b, ⟨0x2, 0x02, .r, [0, 1, 2]⟩,
      fun x y _ => let r := mul32 (x.setWidth 32) (y.setWidth 32); (r.1.setWidth 64, false, r.2))
  | .ffmaF32 c b => some (c, b, ⟨0x2, 0x03, .r, [0, 1, 2, 3]⟩,
      fun x y z => let r := fma32 (x.setWidth 32) (y.setWidth 32) (z.setWidth 32); (r.1.setWidth 64, false, r.2))
  | .fminF32 c b => some (c, b, ⟨0x2, 0x04, .r, [0, 1, 2]⟩, fun x y _ => ((min32 (x.setWidth 32) (y.setWidth 32)).setWidth 64, false, false))
  | .fmaxF32 c b => some (c, b, ⟨0x2, 0x05, .r, [0, 1, 2]⟩, fun x y _ => ((max32 (x.setWidth 32) (y.setWidth 32)).setWidth 64, false, false))
  | .fcvtF32S64 c b => some (c, b, ⟨0x2, 0x06, .r, [0, 1]⟩, fun x _ _ => ((rnd32 .rne (Ex.ofInt x.toInt)).setWidth 64, false, false))
  | .fcvtS64F32 c b => some (c, b, ⟨0x2, 0x07, .r, [0, 1]⟩, fun x _ _ => let r := toInt64 (x.setWidth 32); (r.1, r.2, false))
  | _ => none

/-- The fields of CTX_NUMSTS (R80). -/
def numstsFields : List Fld :=
  [CTX_NUMSTS.REPLAY_COUNT, CTX_NUMSTS.LAST_SHIFT, CTX_NUMSTS.SAT_HIT, CTX_NUMSTS.NAN_GEN, CTX_NUMSTS.OVF_INF, CTX_NUMSTS.REPLAY_MAX,
   CTX_NUMSTS.REPLAY_HIT]

/-- The scalar memory instructions of R138: word, operation code, size in bytes, the access, and whether it is a load. -/
def memRule : Instr → Option (CoreId × Body × Nat × Nat × FlightOp × Bool)
  | .ldU8 c b => some (c, b, 0x00, 1, .load 1 false, true)
  | .ldU16 c b => some (c, b, 0x01, 2, .load 2 false, true)
  | .ldU32 c b => some (c, b, 0x02, 4, .load 4 false, true)
  | .ldU64 c b => some (c, b, 0x03, 8, .load 8 false, true)
  | .ldS8 c b => some (c, b, 0x04, 1, .load 1 true, true)
  | .ldS16 c b => some (c, b, 0x05, 2, .load 2 true, true)
  | .ldS32 c b => some (c, b, 0x06, 4, .load 4 true, true)
  | .st8 c b => some (c, b, 0x08, 1, .store 1, false)
  | .st16 c b => some (c, b, 0x09, 2, .store 2, false)
  | .st32 c b => some (c, b, 0x0A, 4, .store 4, false)
  | .st64 c b => some (c, b, 0x0B, 8, .store 8, false)
  | _ => none

/-- The semaphore instructions of R141: word, operation code, the register fields in use, the access. -/
def semRule : Instr → Option (CoreId × Body × Nat × List Nat × FlightOp)
  | .semAdd c b => some (c, b, 0x00, [0, 1, 2], .semAdd)
  | .semCas c b => some (c, b, 0x01, [0, 1, 2, 3], .semCas)
  | .semWait c b => some (c, b, 0x02, [1, 2], .semWait)
  | _ => none

/-- The access that the core `c` starts with the next number: the address `a`, in this package or another. -/
def Core.newFlight (c : Core) (op : FlightOp) (rd : Option Nat) (pkg : Option PkgId) (a w : Nat) (val cmp : Word) (ev : Option Nat)
    (cls opc : Nat) : Flight :=
  ⟨c.nextFid, op, .issued, rd, pkg, a, w, val, cmp, ev, c.pc.toNat, cls, opc, 0, false, false, c.nextOrd⟩

/-- The core with one more access in flight; its destination is pending until the value is written (R86, R127). -/
def Core.inFlight (c : Core) (f : Flight) : Core :=
  { c with flights := c.flights ++ [f], nextFid := c.nextFid + 1, pend := c.pend ++ f.rd.toList }

/-- The event register that an S word increments when it completes: EV when EVE is 1 (R141). -/
def evOfS (b : Body) : Option Nat :=
  match evField .s b with
  | some (true, e) => some e
  | _ => none

/-- The core, held (R92). -/
def Core.heldBy (c : Core) (h : Hold) : Core := { c with hold := h }

/-- The core when an access is over: its destination written and no longer pending, the access gone, a hold whose condition is now met
ended (R86, R92, R128). -/
def Core.landed (c : Core) (f : Flight) (v : Word) : Core :=
  let d := match f.rd with | some r => c.setReg r v | none => c
  ({ d with flights := c.flights.filter fun x => x.fid != f.fid,
            hold := if c.hold = .sem f.fid then .none else c.hold,
            pend := match f.rd with | some r => setDel c.pend r | none => c.pend } : Core).settle

/-- The address is in a memory tier: a cluster memory, a scratchpad, a near memory or HBM (R4). -/
def inTier (a : Nat) : Bool :=
  match tierOf a with
  | .hbm => true
  | .near => true
  | .cluster _ _ => true
  | .scratch _ _ _ => true
  | _ => false

/-- Every byte whose place is none of the `n` places from `a` on reads as before. -/
def BytesBut (a n : Nat) (s t : State) : Prop := ∀ x, (∀ j, j < n → s.memKey (a + j) ≠ s.memKey x) → t.readByte x = s.readByte x

/-- A handshake pennant of a kind leaves on VC0 for a package: it is the last in the queue of the routing plane (R315, R317). -/
def SentShake (dst : PkgId) (m : HalMsg) (kind arg : Nat) (s t : State) : Prop :=
  ∃ p, t.rq = s.rq ++ [⟨p, none, none, false⟩] ∧ p.typ.toNat = tMGMT ∧ p.vc.toNat = 0 ∧ p.dst = dst ∧ p.src.toNat = s.self ∧
    Pennant.halKind p = kind ∧ Pennant.halMsg p = m ∧ Pennant.halArg p = arg

/-- The core with one more entry at the end of an engine's queue (R83, R84). -/
def Core.enqueue (c : Core) (e : Engine) (q : QEntry) (dest : Option Nat) : Core :=
  let d := c.setQueue e (c.queue e ++ [q])
  { d with seq := c.seq + 1, pend := c.pend ++ dest.toList }

/-- Every address is a multiple of 64 and every range lies in the scratchpad of the core (R142, R147). -/
def padOk (k : Nat) (al : List Nat) (rs : List (Nat × Nat)) : Bool :=
  al.all (fun a => a % 64 == 0) &&
    rs.all fun r => r.2 == 0 || (decide (scratchOf k ≤ r.1) && decide (r.1 + r.2 ≤ scratchOf k + 0x200000))

/-- An engine instruction: the core, the word, its encoding, the engine whose queue it enters, its scalar destination, what MOD must hold
(R672), and when its operands are legal for the entry that it takes. -/
structure EngIns where
  cid  : CoreId
  b    : Body
  ins  : Ins
  eng  : Engine
  dest : Option Nat
  mod  : Bool
  ok   : QEntry → State → Bool

/-- A vector instruction in T format: the MOD bits that it has no field for are 0, its own condition holds, its groups follow R146. -/
def vecIns (c : CoreId) (b : Body) (cls op : Nat) (used : List Nat) (allowed : Nat) (ok : Bool) (gs : List (Nat × Nat)) : Option EngIns :=
  some ⟨c, b, ⟨cls, op, .t, used⟩, .vx, none, modBits b allowed && ok, fun _ _ => gs.all fun g => groupOk g.1 g.2⟩

/-- A load/store instruction. -/
def lsIns (c : CoreId) (b : Body) (cls op : Nat) (fm : IFmt) (used : List Nat) (dest : Option Nat) (mod : Bool)
    (ok : QEntry → State → Bool) : Option EngIns := some ⟨c, b, ⟨cls, op, fm, used⟩, .ls, dest, mod, ok⟩

/-- A matrix instruction. -/
def mxIns (c : CoreId) (b : Body) (op : Nat) (fm : IFmt) (used : List Nat) (dest : Option Nat) (mod : Bool)
    (ok : QEntry → State → Bool) : Option EngIns := some ⟨c, b, ⟨0xA, op, fm, used⟩, .mx, dest, mod, ok⟩

/-- The groups of n tiles at the tile fields that start at the given bits of the word (R146). -/
def grp (b : Body) (los : List Nat) : List (Nat × Nat) := los.map fun lo => (bf b lo 7, gnOf b)
/-- A group at a second source, a single tile when BR broadcasts it (R198). -/
def grpBr (b : Body) (los : List Nat) : List (Nat × Nat) := los.map fun lo => (bf b lo 7, if brOf b = 0 then gnOf b else 1)
/-- The register fields of a reduction: with MSK a mask group is read. -/
def mskUsed (b : Body) : List Nat := if modOf b / 2 % 2 = 1 then [0, 1, 2] else [0, 1]
/-- The mask group of a reduction. -/
def mskGrp (b : Body) : List (Nat × Nat) := if modOf b / 2 % 2 = 1 then grp b [26] else []

/-- The operands of a transom-fed mmx: the groups of R146; a group of partial sums that is added is the destination
itself or apart from it (R164, R192). -/
def mmxOk (b : Body) : Bool :=
  let m := modOf b
  let n := 4 * (mRows b / 32)
  let td := bf b 40 7
  let tb := bf b 26 7
  groupOk td n && groupOk (bf b 33 7) (streamTiles b) &&
    (!(mmxPre m == 2) || (groupOk tb n && (tb == td || !overlap tb n td n)))

/-- The operands of a scratchpad-fed mmx, for the arrangement of the bank that it will use. -/
def mmxsOk (k : Nat) (b : Body) (q : QEntry) (s : State) : Bool :=
  let m := modOf b
  let t := mmxType m
  let pk := (s.core k).pkNow
  let rows := pkSlots pk * mRows b
  groupOk (bf b 40 7) ((if pk = 0 then 4 else if pk = 1 then 8 else 16) * (mRows b / 32)) &&
    padOk k ([q.a.toNat, q.b.toNat] ++ if isMx t then [q.c.toNat] else [])
      ((rowAddrs q.a q.b rows).map (fun a => (a, pkK pk t * typeBits t / 8)) ++ if isMx t then [(q.c.toNat, rows * (pkK pk t / 32))] else [])

/-- The engine instructions of classes 0x8 to 0xD (R142 to R148, R158, R164, R173, R193, R231 to R233, R468 to R470, R671). -/
def engRule : Instr → Option EngIns
  | .tld c b => lsIns c b 0x8 0x00 .ts [0, 1, 2] none (modOf b == 0) fun q _ =>
      padOk (coreKey c) [q.a.toNat, q.b.toNat] ((rowAddrs q.a q.b 32).map fun a => (a, 128))
  | .tst c b => lsIns c b 0x8 0x01 .ts [0, 1, 2] none (modOf b == 0) fun q _ =>
      padOk (coreKey c) [q.a.toNat, q.b.toNat] ((rowAddrs q.a q.b 32).map fun a => (a, 128))
  | .tmov c b => lsIns c b 0x8 0x02 .t [0, 1] none (modOf b == 0) fun _ _ => true
  | .tzero c b => lsIns c b 0x8 0x03 .t [0] none (modOf b == 0) fun _ _ => true
  | .spcpy c b => lsIns c b 0x8 0x04 .ts [1, 2, 3] none (modOf b == 0) fun q _ =>
      padOk (coreKey c) [q.a.toNat, q.b.toNat] [(q.a.toNat, q.c.toNat), (q.b.toNat, q.c.toNat)]
  | .strmIssue c b => lsIns c b 0x9 0x00 .s [0, 1] (some (opnd .s b 0)) true fun q s =>
      (s.recordFault (s.core (coreKey c)).ctx.val q.a.toNat).isNone
  | .strmCancel c b => lsIns c b 0x9 0x01 .s [1] none true fun _ _ => true
  | .strmStat c b => lsIns c b 0x9 0x02 .s [0, 1] (some (opnd .s b 0)) true fun _ _ => true
  | .mst c b =>
      let m := modOf b
      mxIns c b 0x00 .ts (if mstAux m then [0, 1, 2, 3] else [0, 1, 2]) none
        (decide (mstPk m ≤ 2) && decide (mstExp m ≤ 2) && decide (mstType m ≤ 9) &&
          ((mstExp m != 0) == (mstType m == 8 || mstType m == 9)) && !(mstExp m == 1 && mstType m == 8)) fun q _ =>
        decide (bf b 40 7 < pkSlots (mstPk m)) &&
          padOk (coreKey c) ([q.a.toNat, q.b.toNat] ++ if mstAux m then [q.c.toNat] else [])
            ((rowAddrs q.a q.b (mstRows m).1).map (fun a => (a, (mstRows m).2)) ++ if mstAux m then [(q.c.toNat, mstAuxLen m)] else [])
  | .mmx c b => mxIns c b 0x01 .t (if mmxPre (modOf b) == 2 then [0, 1, 2] else [0, 1]) none (mmxModOk false (modOf b)) fun _ _ => mmxOk b
  | .mmxn c b => mxIns c b 0x02 .t (if mmxPre (modOf b) == 2 then [0, 1, 2] else [0, 1]) none (mmxModOk false (modOf b)) fun _ _ => mmxOk b
  | .mmxs c b => mxIns c b 0x03 .ts (if isMx (mmxType (modOf b)) then [0, 1, 2, 3] else [0, 1, 2]) none
      (mmxModOk true (modOf b)) fun q s => mmxsOk (coreKey c) b q s
  | .mmxsn c b => mxIns c b 0x04 .ts (if isMx (mmxType (modOf b)) then [0, 1, 2, 3] else [0, 1, 2]) none
      (mmxModOk true (modOf b)) fun q s => mmxsOk (coreKey c) b q s
  | .mbias c b => mxIns c b 0x05 .t [1] none (modOf b == 0) fun _ _ => true
  | .mmask c b => mxIns c b 0x06 .ts [1, 2] none (modOf b == 0) fun _ _ => true
  | .mtagRd c b => mxIns c b 0x07 .ts [0, 1] (some (opnd .ts b 1)) (modOf b == 0) fun _ _ => true
  | .mtagClr c b => mxIns c b 0x08 .t [0] none (modOf b == 0) fun _ _ => true
  | .vadd c b => vecIns c b 0xB 0x00 [0, 1, 2] 0x3C0 true (grp b [40, 33] ++ grpBr b [26])
  | .vsub c b => vecIns c b 0xB 0x01 [0, 1, 2] 0x3C0 true (grp b [40, 33] ++ grpBr b [26])
  | .vmul c b => vecIns c b 0xB 0x02 [0, 1, 2] 0x3C0 true (grp b [40, 33] ++ grpBr b [26])
  | .vfma c b => vecIns c b 0xB 0x03 [0, 1, 2, 3] 0x3C0 true (grp b [40, 33] ++ grpBr b [26, 19])
  | .vmin c b => vecIns c b 0xB 0x04 [0, 1, 2] 0x3C0 true (grp b [40, 33] ++ grpBr b [26])
  | .vmax c b => vecIns c b 0xB 0x05 [0, 1, 2] 0x3C0 true (grp b [40, 33] ++ grpBr b [26])
  | .vabs c b => vecIns c b 0xB 0x06 [0, 1] 0x3C0 true (grp b [40, 33])
  | .vneg c b => vecIns c b 0xB 0x07 [0, 1] 0x3C0 true (grp b [40, 33])
  | .vsel c b => vecIns c b 0xB 0x08 [0, 1, 2, 3] 0x3C0 true (grp b [40, 33] ++ grpBr b [26, 19])
  | .vcmp c b => vecIns c b 0xB 0x09 [0, 1, 2] 0x3CF (decide (modOf b % 16 ≤ 3)) (grp b [40, 33] ++ grpBr b [26])
  | .vact c b => vecIns c b 0xB 0x0A [0, 1] 0x3CF (decide (modOf b % 16 ≤ 14)) (grp b [40, 33])
  | .vdrop c b => vecIns c b 0xB 0x0B [0, 1] 0x3C0 true (grp b [40, 33])
  | .vrand c b => vecIns c b 0xB 0x0C [0] 0x3C0 true (grp b [40])
  | .vtr c b => vecIns c b 0xB 0x0D [0, 1] 0 true []
  | .vred c b => vecIns c b 0xC 0x00 (mskUsed b) 0x3FE (decide (modOf b / 32 % 8 ≤ 5) && modOf b / 8 % 4 != 3)
      ((bf b 40 7, if modOf b / 8 % 4 = 1 then gnOf b else 1) :: (grp b [33] ++ mskGrp b))
  | .vfin c b => vecIns c b 0xC 0x01 [0, 1] 0x318 (modOf b / 8 % 4 != 3) (grp b [40, 33])
  | .vsmax c b => vecIns c b 0xC 0x02 (mskUsed b) 0x302 true (grp b [40, 33] ++ mskGrp b)
  | .vlnorm c b => vecIns c b 0xC 0x03 (mskUsed b) 0x302 true (grp b [40, 33] ++ mskGrp b)
  | .vcvt c b => vecIns c b 0xC 0x04 [0, 1] 0x3FE (cvtType (cvTy b) && decide (perWord (cvTy b) ≤ gnOf b))
      ((bf b 40 7, gnOf b / perWord (cvTy b)) :: grp b [33])
  | .vunp c b => vecIns c b 0xC 0x05 [0, 1] 0x3F0 (cvtType (cvTy b) && decide (perWord (cvTy b) ≤ gnOf b))
      (grp b [40] ++ [(bf b 33 7, gnOf b / perWord (cvTy b))])
  | .vcvtmx c b => some ⟨c, b, ⟨0xC, 0x06, .t, [0, 1, 2]⟩, .vx, none, modBits b 0xFC && decide (5 ≤ cvTy b) && decide (cvTy b ≤ 7),
      fun _ _ => bf b 40 7 != bf b 26 7 && groupOk (bf b 33 7) (if cvTy b = 7 then 8 else 4)⟩
  | .vepi c b => some ⟨c, b, ⟨0xC, 0x07, .t, [0, 1, 2]⟩, .vx, none, modBits b 0x300, fun _ s =>
      let w := perWord (vepiType (s.core (coreKey c)).vepiNow)
      decide (w ≤ gnOf b) && groupOk (bf b 40 7) (gnOf b / w) && groupOk (bf b 33 7) (gnOf b)⟩
  | .vepis c b => some ⟨c, b, ⟨0xC, 0x08, .ts, [0, 1, 2, 3]⟩, .vx, none, modBits b 0x300, fun q s =>
      let v := (s.core (coreKey c)).vepiNow
      decide (perWord (vepiType v) ≤ gnOf b) && groupOk (bf b 40 7) (gnOf b) &&
        padOk (coreKey c) [q.a.toNat, q.b.toNat, q.c.toNat] (vepisRanges v b q)⟩
  | .vset c b => some ⟨c, b, ⟨0xC, 0x09, .ts, [1]⟩, .vx, none, modBits b 7 && modOf b % 8 != 7,
      fun q _ => vsetOk (modOf b % 8) q.a⟩
  | .colRs c b => lsIns c b 0xD 0x00 .ts [1] none (modOf b == 0) fun q _ => q.a.toNat % 64 == 0
  | .colAg c b => lsIns c b 0xD 0x01 .ts [1] none (modOf b == 0) fun q _ => q.a.toNat % 64 == 0
  | .colPerm c b => lsIns c b 0xD 0x02 .ts [1] none (modOf b == 0) fun q _ => q.a.toNat % 64 == 0
  | .colCmt c b => lsIns c b 0xD 0x03 .ts [1, 2] (some (opnd .ts b 1)) (modOf b == 0) fun _ _ => true
  | .colStat c b => lsIns c b 0xD 0x04 .ts [1, 2] (some (opnd .ts b 1)) (modOf b == 0) fun _ _ => true
  | .colAbort c b => lsIns c b 0xD 0x05 .ts [2] none (modOf b == 0) fun _ _ => true
  | _ => none

/-- A command has ended with a status and a result (R491, R496). -/
def State.ended (s : State) (c : Cmd) (st res : Nat) : Prop := ∃ x ∈ s.cmds, x.id = c.id ∧ x.st = .ended ∧ x.status = st ∧ x.result = res

/-- The queue starts this command next, and it passes every check (R490, R495 to R497). -/
def State.starts (s : State) (q : QueueId) (opc : Nat) (c : Cmd) : Prop := s.nextCmd? q opc = some c ∧ s.cmdCheck c = none

/-- The command rows: the queue and the opcode (R495). -/
def cmdRow : Instr → Option (QueueId × Nat)
  | .identify q => some (q, 0x00)
  | .ctxAlloc q => some (q, 0x01)
  | .ctxFree q => some (q, 0x02)
  | .launch q => some (q, 0x03)
  | .suspend q => some (q, 0x04)
  | .resume q => some (q, 0x05)
  | .cancel q => some (q, 0x06)
  | .copy q _ => some (q, 0x07)
  | .openWindow q => some (q, 0x08)
  | .closeWindow q => some (q, 0x09)
  | .mapAperture q => some (q, 0x0A)
  | .ccRun q _ => some (q, 0x0B)
  | _ => none

end Sys2Proof.Machine
end

