-- ==== Sys2Proof/Certificates/Slice0/Obligations.lean ====
section
/-! DEFINITION. The statements for the provers, family by family. -/

open Sys2Proof Sys2Proof.Machine

/-! The machine as a whole. -/

/-- A command at the front of the queue is run on the state with the queue's rest. No command changes the queue behind it: commands run first
in, first out.
The queue, and that a step takes one command from it, are the model's form of a block driven from outside (log 5, log 8). -/
def Obligations.StepRunsFront : Prop :=
  (∀ (c : Instr) (rest : List Instr) (s : State), s.pending = c :: rest → step s = exec c { s with pending := rest }) ∧
  (∀ (c : Instr) (rest : List Instr) (s t : State), s.pending = c :: rest → step s = .next t → t.pending = rest)

/-- Every step keeps the memory in canonical form.
The canonical form, and that an unlisted byte reads 0, are the model's choice (log 4). -/
def Obligations.StepKeepsMemorySound : Prop := ∀ s t : State, s.Sound → step s = .next t → t.Sound

/-- The fuses only burn and the counts of module flash only rise, whatever command runs. -/
def Obligations.FusesOnlyBurn : Prop :=
  ∀ s t : State, step s = .next t →
    s.fuses.floor ≤ t.fuses.floor ∧ t.fuses.revoked = s.fuses.revoked ∧ s.flash.rekeys ≤ t.flash.rekeys ∧ s.flash.gen ≤ t.flash.gen ∧
      s.flash.colds ≤ t.flash.colds

/-- After reset the memory is sound and empty, nothing waits, and the rails are down.
Where the spec states no reset value the value is the model's choice (log 2, log 4); the empty queue is log 5. -/
def Obligations.ResetIsSound : Prop :=
  State.reset.Sound ∧ State.reset.pending = [] ∧ State.reset.power.ok = false ∧ (∀ a, State.reset.readByte a = 0) ∧
    ∀ off, State.reset.csrGet off = csrReset off

/-! Scalar instructions. -/

/-- The integer instructions write their result, PC moves past the word, and nothing else changes. -/
def Obligations.IntegerResult : Prop :=
  ∀ (i : Instr) (cid : CoreId) (b : Body) (ins : Ins) (f : Word → Word → Word → Word) (s : State),
    intRule i = some (cid, b, ins, f) → Runs cid ins b s →
      Gives i s fun t =>
        let k := coreKey cid
        let c := s.core k
        CoreBecomes k (c.past.setReg (opnd ins.fm b 0) (f (c.reg (opnd ins.fm b 0)) (c.reg (opnd ins.fm b 1)) (c.second ins.fm b))) s t

/-- The compares write a predicate; a write to p0 is ignored. The logical operations on predicates. -/
def Obligations.CompareAndPredicate : Prop :=
  (∀ (i : Instr) (cid : CoreId) (b : Body) (ins : Ins) (f : Word → Word → Bool) (s : State),
     cmpRule i = some (cid, b, ins, f) → Runs cid ins b s →
       Gives i s fun t =>
         let k := coreKey cid
         let c := s.core k
         CoreBecomes k { c.past with p := if opnd ins.fm b 0 = 0 then c.p else (t.core k).p } s t ∧
           (opnd ins.fm b 0 ≠ 0 → ∀ n, n < 16 → (t.core k).pred n =
             if n = opnd ins.fm b 0 then f (c.reg (opnd ins.fm b 1)) (c.second ins.fm b) else c.pred n)) ∧
  (∀ (i : Instr) (cid : CoreId) (b : Body) (ins : Ins) (f : Bool → Bool → Bool) (s : State),
     predRule i = some (cid, b, ins, f) → Runs cid ins b s →
       Gives i s fun t =>
         let k := coreKey cid
         let c := s.core k
         CoreBecomes k { c.past with p := if opnd ins.fm b 0 = 0 then c.p else (t.core k).p } s t ∧
           (opnd ins.fm b 0 ≠ 0 → ∀ n, n < 16 → (t.core k).pred n =
             if n = opnd ins.fm b 0 then f (c.pred (opnd ins.fm b 3)) (c.pred (opnd ins.fm b 4)) else c.pred n))

/-- The FP32 instructions write the rounded result to bits 31 to 0 and zeros above, or for fcvt.s64.f32 the 64-bit integer; SAT_HIT and
NAN_GEN of the context are set where the operation raises them. -/
def Obligations.Fp32Result : Prop :=
  ∀ (i : Instr) (cid : CoreId) (b : Body) (ins : Ins) (f : Word → Word → Word → Word × Bool × Bool) (s : State),
    fpRule i = some (cid, b, ins, f) → Runs cid ins b s →
      Gives i s fun t =>
        let k := coreKey cid
        let c := s.core k
        let r := f (c.reg (opnd .r b 1)) (c.reg (opnd .r b 2)) (c.reg (opnd .r b 3))
        let o := CTX_NUMSTS.off c.ctx.val
        t = { s with csr := t.csr, cores := t.cores } ∧ t.core k = c.past.setReg (opnd .r b 0) r.1 ∧ (∀ j, j ≠ k → t.core j = s.core j) ∧
          (∀ off, isCounter k off = false → off ≠ o → t.csrGet off = s.csrGet off) ∧
          t.bit o CTX_NUMSTS.SAT_HIT = (s.bit o CTX_NUMSTS.SAT_HIT || r.2.1) ∧
          t.bit o CTX_NUMSTS.NAN_GEN = (s.bit o CTX_NUMSTS.NAN_GEN || r.2.2) ∧
          (∀ g, g ≠ CTX_NUMSTS.SAT_HIT → g ≠ CTX_NUMSTS.NAN_GEN → g ∈ numstsFields → t.fld o g = s.fld o g) ∧
          ∀ a, t.readByte a = s.readByte a

/-- A false guard: the instruction has no effect but that PC moves past the word (shown for the integer, compare, predicate and FP32 instructions).
An illegal word raises ILLEGAL_INSTR, and a register field or EV field that breaks R672 raises ILLEGAL_OPERAND: the instruction has no effect, PC
stays, and dispatch stops (shown for the integer, compare, predicate and FP32 instructions). -/
def Obligations.GuardsAndLegality : Prop :=
  (∀ (i : Instr) (cid : CoreId) (b : Body) (ins : Ins) (s : State),
     ((∃ f, intRule i = some (cid, b, ins, f)) ∨ (∃ f, cmpRule i = some (cid, b, ins, f)) ∨ (∃ f, predRule i = some (cid, b, ins, f)) ∨
      ∃ f, fpRule i = some (cid, b, ins, f)) →
     (s.core (coreKey cid)).canDispatch ins b = true → s.repairing (coreKey cid) = false →
     illegalWord (isCtl (coreKey cid)) ins.cls ins.op ins.fm b = false → illegalFields ins.cls ins.fm ins.used b = false →
     (s.core (coreKey cid)).guard b = false →
       ∃ t, exec i s = .next t ∧ CoreBecomes (coreKey cid) (s.core (coreKey cid)).past s t) ∧
  (∀ (i : Instr) (cid : CoreId) (b : Body) (ins : Ins) (s : State),
     ((∃ f, intRule i = some (cid, b, ins, f)) ∨ (∃ f, cmpRule i = some (cid, b, ins, f)) ∨ (∃ f, predRule i = some (cid, b, ins, f)) ∨
      ∃ f, fpRule i = some (cid, b, ins, f)) →
     (s.core (coreKey cid)).canDispatch ins b = true → s.repairing (coreKey cid) = false →
     s.hatching (s.core (coreKey cid)).ctx.val = false →
     (illegalWord (isCtl (coreKey cid)) ins.cls ins.op ins.fm b = true ∨ illegalFields ins.cls ins.fm ins.used b = true) →
       let k := coreKey cid
       let c := s.core k
       let code := if illegalWord (isCtl k) ins.cls ins.op ins.fm b then FaultCode.illegalInstr else FaultCode.illegalOperand
       exec i s = .next { s with faults := s.faults ++ [⟨c.ctx, code, ins.cls, ins.op, c.pc.toNat, 0, s.unitOf k engSeq, s.time⟩],
                                 cores := tset s.cores k { c with run := .stopped } })


/-! Control flow, fences, events, barriers and the privileged forms. -/

/-- Branches, loop and calls: the target is PC + 8 x IMM modulo 2^48, a register target is the register's value. -/
def Obligations.ControlFlow : Prop :=
  ∀ (cid : CoreId) (b : Body) (s : State),
    let k := coreKey cid
    let c := s.core k
    let rel : BitVec 48 := BitVec.ofInt 48 (c.pc.toNat + 8 * (immW b).toInt)
    let a := c.reg (opnd .i b 1)
    (Runs cid ⟨0x4, 0x00, .i, []⟩ b s → Gives (.nop cid b) s (CoreBecomes k c.past s)) ∧
    (Runs cid ⟨0x4, 0x01, .i, []⟩ b s → Gives (.br cid b) s (CoreBecomes k { c.past with pc := rel } s)) ∧
    (Runs cid ⟨0x4, 0x02, .i, [1]⟩ b s → a.toNat % 8 = 0 →
      Gives (.brr cid b) s (CoreBecomes k { c.past with pc := BitVec.ofNat 48 a.toNat } s)) ∧
    (Runs cid ⟨0x4, 0x03, .i, [0]⟩ b s →
      Gives (.call cid b) s (CoreBecomes k { c.past.setReg (opnd .i b 0) (BitVec.ofNat 64 (c.pc.toNat + 8)) with pc := rel } s)) ∧
    (Runs cid ⟨0x4, 0x04, .i, [1]⟩ b s → a.toNat % 8 = 0 →
      Gives (.ret cid b) s (CoreBecomes k { c.past with pc := BitVec.ofNat 48 a.toNat } s)) ∧
    (Runs cid ⟨0x4, 0x05, .i, [1]⟩ b s →
      Gives (.loop cid b) s
        (CoreBecomes k { c.past.setReg (opnd .i b 1) (a - 1) with pc := if a = 1 then c.pc + 8 else rel } s))

/-- A register branch target that is not a multiple of 8 raises ALIGNMENT at the branch, which has no effect; dispatch stops there. A sum past
0xFFFF leaves the count at 0xFFFF and raises EVENT_OVERFLOW; ev.add with N = 0 or above 255 raises ILLEGAL_OPERAND. Privileged forms in a
context other than 0 raise PRIVILEGE when their guard holds, and have no effect. -/
def Obligations.DispatchFaults : Prop :=
  (∀ (cid : CoreId) (b : Body) (s : State) (i : Instr) (op : Nat),
     (i = .brr cid b ∧ op = 0x02) ∨ (i = .ret cid b ∧ op = 0x04) → Runs cid ⟨0x4, op, .i, [1]⟩ b s →
     ((s.core (coreKey cid)).reg (opnd .i b 1)).toNat % 8 ≠ 0 → s.hatching (s.core (coreKey cid)).ctx.val = false →
       let k := coreKey cid
       let c := s.core k
       exec i s = .next { s with faults := s.faults ++ [⟨c.ctx, .alignment, 0x4, op, c.pc.toNat, 0, s.unitOf k engSeq, s.time⟩],
                                 cores := tset s.cores k { c with run := .stopped } }) ∧
  (∀ (cid : CoreId) (b : Body) (s : State),
     let k := coreKey cid
     let c := s.core k
     let e := opnd .e b 0
     let n := bf b 0 16
     Runs cid ⟨0x5, 0x00, .e, [0]⟩ b s → s.hatching c.ctx.val = false →
     (1 ≤ n → n ≤ 255 → 0xFFFF < c.event e + n →
       Gives (.evAdd cid b) s fun t => (t.core k).event e = 0xFFFF ∧ (t.core k).pc = c.pc + 8 ∧
         t.faults = s.faults ++ [⟨c.ctx, .eventOverflow, 0x5, 0x00, c.pc.toNat, 0, s.unitOf k engSeq, s.time⟩]) ∧
     (n = 0 ∨ 255 < n →
       exec (.evAdd cid b) s = .next { s with
         faults := s.faults ++ [⟨c.ctx, .illegalOperand, 0x5, 0x00, c.pc.toNat, 0, s.unitOf k engSeq, s.time⟩],
         cores := tset s.cores k { c with run := .stopped } })) ∧
  (∀ (cid : CoreId) (b : Body) (s : State) (i : Instr) (op : Nat) (used : List Nat),
     ((i, op, used) = (.hatch cid b, 0x00, [1]) ∨ (i, op, used) = (.wdb cid b, 0x02, [0]) ∨ (i, op, used) = (.ctxEnter cid b, 0x03, [0, 1, 2, 3]) ∨
      ((i, op, used) = (.hostevF cid b, 0x01, [1, 2]) ∧
        s.portBusy (coreKey cid) (((s.core (coreKey cid)).reg (opnd .s b 2)).fld 8 1) = false)) →
     let k := coreKey cid
     let c := s.core k
     c.canDispatch ⟨0xE, op, .s, used⟩ b = true → c.guard b = true → s.repairing k = false → illegalWord (isCtl k) 0xE op .s b = false → c.ctx ≠ 0 →
     s.hatching c.ctx.val = false →
       exec i s = .next { s with faults := s.faults ++ [⟨c.ctx, .privilege, 0xE, op, c.pc.toNat, 0, s.unitOf k engSeq, s.time⟩],
                                 cores := tset s.cores k { c with run := .stopped } })

/-- fence, fence.s and icinv hold dispatch until their condition is met, and go on at once when it already is; icinv then empties the
instruction cache. halt ends the program; time and pmc.rd read the clock and a counter; yield goes back to firmware with reason 0. -/
def Obligations.FencesAndReads : Prop :=
  ∀ (cid : CoreId) (b : Body) (s : State),
    let k := coreKey cid
    let c := s.core k
    (Runs cid ⟨0x4, 0x08, .i, []⟩ b s →
      Gives (.fence cid b) s (CoreBecomes k (if c.fenced then { c.past with hold := .none } else { c.past with hold := .fence }) s)) ∧
    (Runs cid ⟨0x4, 0x09, .i, []⟩ b s →
      Gives (.fenceS cid b) s (CoreBecomes k (if c.noScalar then { c.past with hold := .none } else { c.past with hold := .fenceS }) s)) ∧
    (Runs cid ⟨0x4, 0x0A, .i, []⟩ b s →
      Gives (.icinv cid b) s
        (CoreBecomes k (if c.noStores then { c.past with hold := .none, icache := [] } else { c.past with hold := .icinv }) s)) ∧
    (Runs cid ⟨0x4, 0x0C, .i, []⟩ b s → isCtl k = false ∨ c.ctx = 0 →
      Gives (.halt cid b) s (CoreBecomes k { c.past with run := .halted } s)) ∧
    (Runs cid ⟨0x4, 0x10, .i, [0]⟩ b s →
      Gives (.time cid b) s (CoreBecomes k (c.past.setReg (opnd .i b 0) (BitVec.ofNat 64 s.time)) s)) ∧
    (Runs cid ⟨0x4, 0x11, .i, [0]⟩ b s → (c.ctx = 0 ∨ s.bit (CTX_PERM.off c.ctx.val) CTX_PERM.PMC_USER = true) → bf b 0 32 ≤ 8 →
      Gives (.pmcRd cid b) s fun t => CoreBecomes k (c.past.setReg (opnd .i b 0) (t.pmcRead k (bf b 0 32))) s t) ∧
    (Runs cid ⟨0x4, 0x13, .i, []⟩ b s → c.ctx = 0 → Gives (.yield cid b) s (CoreBecomes k c.past s)) ∧
    (∀ rd eve, Runs cid ⟨0x4, 0x13, .i, []⟩ b s → c.ctx ≠ 0 →
      (tget Core.reset s.ccRegs ((k - 0x1000) * 64)).hold = .ctxEnter c.ctx rd eve →
      Gives (.yield cid b) s fun t => (t.core k).reg rd = 0 ∧ (t.core k).hold = .none ∧
        (tget Core.reset t.ccRegs ((k - 0x1000) * 64 + c.ctx.val)).pc = c.pc + 8)

/-- The event instructions: ev.add adds, ev.set sets, a wait whose count suffices subtracts its threshold and goes on, one whose count does
not holds dispatch, ev.read reads. The barriers hold dispatch until they are released. -/
def Obligations.EventInstructions : Prop :=
  ∀ (cid : CoreId) (b : Body) (s : State),
    let k := coreKey cid
    let c := s.core k
    let e := opnd .e b 0
    let n := bf b 0 16
    let waits (thr : Nat) : Core :=
      if thr ≤ c.event e then { c.past with ev := tset c.ev e (c.event e - thr), hold := .none } else { c.past with hold := .ev e thr }
    (Runs cid ⟨0x5, 0x00, .e, [0]⟩ b s → 1 ≤ n → n ≤ 255 → c.event e + n ≤ 0xFFFF →
      Gives (.evAdd cid b) s (CoreBecomes k { c.past with ev := tset c.ev e (c.event e + n) } s)) ∧
    (Runs cid ⟨0x5, 0x01, .e, [0]⟩ b s → Gives (.evSet cid b) s (CoreBecomes k { c.past with ev := tset c.ev e n } s)) ∧
    (Runs cid ⟨0x5, 0x02, .e, [0]⟩ b s → Gives (.evWait cid b) s (CoreBecomes k (waits n) s)) ∧
    (Runs cid ⟨0x5, 0x03, .e, [0, 1]⟩ b s →
      Gives (.evWaitr cid b) s (CoreBecomes k (waits ((c.reg (opnd .e b 1)).fld 0 16)) s)) ∧
    (Runs cid ⟨0x5, 0x04, .e, [0, 1]⟩ b s →
      Gives (.evRead cid b) s (CoreBecomes k (c.past.setReg (opnd .e b 1) (BitVec.ofNat 64 (c.event e))) s)) ∧
    (Runs cid ⟨0x5, 0x08, .e, []⟩ b s → Gives (.barCl cid b) s (CoreBecomes k { c.past with hold := .barCl } s)) ∧
    (Runs cid ⟨0x5, 0x09, .e, []⟩ b s → Gives (.barGrp cid b) s (CoreBecomes k { c.past with hold := .barGrp } s))

/-- hatch begins the hatch of the context that its register names, with reason 1 and the core's unit. The records that a program posts wait at
the event queue of its function, or of the function that hostev.f names; wdb takes the oldest notice, or waits; ctx.enter runs a context, or
answers 2 when it cannot, a faulted context among them. -/
def Obligations.FirmwareForms : Prop :=
  (∀ (cid : CoreId) (b : Body) (s : State),
     let k := coreKey cid
     let c := s.core k
     let n := (c.reg (opnd .s b 1)).fld 0 6
     Runs cid ⟨0xE, 0x00, .s, [1]⟩ b s → c.ctx = 0 → n ≠ 0 → (s.ctx n).hatch = none →
       Gives (.hatch cid b) s fun t =>
         (∃ h, (t.ctx n).hatch = some h ∧ h.reason = 1 ∧ h.unit = s.unitOf k engSeq ∧ h.start = s.time) ∧
         (t.core k).pc = c.pc + 8 ∧ (∀ f ∈ t.faults, f.ctx.val ≠ n) ∧
         ∀ j, isCtl j = false → (s.core j).ctx.val = n → (s.core j).run = .running → (t.core j).run = .stopped) ∧
  (∀ (cid : CoreId) (b : Body) (s : State),
     let k := coreKey cid
     let c := s.core k
     let rec1 (a : Nat) : List Word := s.userRecord c.ctx.val (bytesToWords 8 (s.readBytes a 64))
     (let a := (c.reg (opnd .i b 1)).toNat
      let p := (s.ctx c.ctx.val).port
      let f := (s.ctx c.ctx.val).slot
      Runs cid ⟨0x4, 0x12, .i, [1]⟩ b s → s.recordFault c.ctx.val a = none → s.poisoned a 64 = false →
      (s.ctx c.ctx.val).bound = true → s.portBusy k p = false →
        Gives (.hostev cid b) s fun t => (t.core k) = c.past ∧
          (t.evq p f).waiting = (s.evq p f).waiting ++ (if s.bit (HST_EQ_CFG.off p f) HST_EQ_CFG.EN then [(true, rec1 a)] else []) ∧
          ∀ x, t.readByte x = s.readByte x) ∧
     (let a := (c.reg (opnd .s b 1)).toNat
      let w := c.reg (opnd .s b 2)
      let p := w.fld 8 1
      let f := w.fld 0 5
      Runs cid ⟨0xE, 0x01, .s, [1, 2]⟩ b s → c.ctx = 0 → s.recordFault 0 a = none → s.poisoned a 64 = false → s.portBusy k p = false →
        Gives (.hostevF cid b) s fun t => (t.core k).pc = c.pc + 8 ∧
          (t.evq p f).waiting = (s.evq p f).waiting ++ (if s.bit (HST_EQ_CFG.off p f) HST_EQ_CFG.EN then [(true, rec1 a)] else [])) ∧
     (∀ w rest, Runs cid ⟨0xE, 0x02, .s, [0]⟩ b s → c.ctx = 0 → s.notices = w :: rest →
        (∀ j ∈ allCtl, ∀ rd eve, (s.core j).hold ≠ .wdb rd eve) → k ∈ allCtl →
        Gives (.wdb cid b) s fun t => (t.core k).reg (opnd .s b 0) = w ∧ (t.core k).hold = .none ∧ t.notices = rest ∧
          ∀ e, (t.core k).event e = if evOfS b = some e then min (c.event e + 1) 0xFFFF else c.event e) ∧
     (Runs cid ⟨0xE, 0x02, .s, [0]⟩ b s → c.ctx = 0 → s.notices = [] →
        Gives (.wdb cid b) s fun t => (t.core k).hold = .wdb (opnd .s b 0) (evOfS b) ∧ (t.core k).pend = c.pend ++ [opnd .s b 0] ∧
          (t.core k).ev = c.ev) ∧
     (let n := (c.reg (opnd .s b 1)).fld 0 6
      let pc := c.reg (opnd .s b 2)
      Runs cid ⟨0xE, 0x03, .s, [0, 1, 2, 3]⟩ b s → c.ctx = 0 →
        (n ≠ 0 → pc ≠ 0 → (s.ctx n).st ≠ .faulted → Gives (.ctxEnter cid b) s fun t => (t.core k).ctx.val = n ∧ (t.core k).run = .running ∧
           (t.core k).pc = BitVec.ofNat 48 pc.toNat ∧ (t.core k).limit = (c.reg (opnd .s b 3)).toNat ∧ (t.core k).started = s.time) ∧
        (n = 0 ∨ (s.ctx n).st = .faulted → evOfS b = none → Gives (.ctxEnter cid b) s (CoreBecomes k (c.past.setReg (opnd .s b 0) 2) s))))


/-! Scalar memory, semaphores and the engine queues: dispatch. -/

/-- A scalar load or store whose address passes its checks goes in flight: in this package to its tier, for another package to the fabric as
well. A load's destination is pending. PC moves past the word and no byte of memory changes until the access is performed. A scalar access
whose address fails a check raises that fault, with the address in ADDR; it is not performed, and dispatch stops. One to CSR space of a size or
alignment that R5 does not allow faults likewise and opens or joins an error record of detector 0x13. No injection is armed for the access.
SEV and DETAIL of that record are the model's choice (log 62). -/
def Obligations.LoadStoreDispatch : Prop :=
  (∀ (i : Instr) (cid : CoreId) (b : Body) (opc size : Nat) (op : FlightOp) (ld : Bool) (s : State),
     memRule i = some (cid, b, opc, size, op, ld) →
     let k := coreKey cid
     let c := s.core k
     let w := (c.reg (opnd .i b 1) + immW b).toNat
     let v := if ld then 0 else c.reg (opnd .i b 0)
     let rd := if ld then some (opnd .i b 0) else none
     Runs cid ⟨0x7, opc, .i, [0, 1]⟩ b s → s.scalarFault c.ctx.val (gBit .i b) w size (!ld) = none →
     s.injCsr k (gBit .i b) w = none →
     (∀ a, s.resolve (gBit .i b) w = .here a →
       Gives i s (CoreBecomes k (c.past.inFlight (c.newFlight op rd none a w v 0 none 0x7 opc)) s)) ∧
     (∀ p a, s.resolve (gBit .i b) w = .away p a →
       Gives i s fun t =>
         t.core k = c.past.inFlight (c.newFlight op rd (some p) a w v 0 none 0x7 opc) ∧ (∀ j, j ≠ k → t.core j = s.core j) ∧
           (∀ x, t.readByte x = s.readByte x) ∧
           t.newReqs = s.newReqs ++ [if ld then ⟨.read, p, a, size, [], [], c.ctx, false, .flight k c.nextFid⟩
             else ⟨.write, p, a, size, leBytes size v.toNat, [], c.ctx, false, .flight k c.nextFid⟩])) ∧
  (∀ (i : Instr) (cid : CoreId) (b : Body) (opc size : Nat) (op : FlightOp) (ld : Bool) (s : State) (code : FaultCode) (a : Nat),
     memRule i = some (cid, b, opc, size, op, ld) →
     let k := coreKey cid
     let c := s.core k
     let w := (c.reg (opnd .i b 1) + immW b).toNat
     Runs cid ⟨0x7, opc, .i, [0, 1]⟩ b s → s.scalarFault c.ctx.val (gBit .i b) w size (!ld) = some (code, a) →
     s.injCsr k (gBit .i b) w = none → s.badCsr (gBit .i b) w size = none → s.hatching c.ctx.val = false →
       exec i s = .next { s with faults := s.faults ++ [⟨c.ctx, code, 0x7, opc, c.pc.toNat, a, s.unitOf k engSeq, s.time⟩],
                                 cores := tset s.cores k { c with run := .stopped } } ∧ a = w) ∧
  (∀ (i : Instr) (cid : CoreId) (b : Body) (opc size : Nat) (op : FlightOp) (ld : Bool) (s : State) (a : Nat),
     memRule i = some (cid, b, opc, size, op, ld) →
     let k := coreKey cid
     let c := s.core k
     let w := (c.reg (opnd .i b 1) + immW b).toNat
     Runs cid ⟨0x7, opc, .i, [0, 1]⟩ b s → isCtl k = false → s.injCsr k (gBit .i b) w = none → s.badCsr (gBit .i b) w size = some a →
     s.hatching c.ctx.val = false →
       let d := mkDet 0x13 (s.unitOf k engSeq) (some c.ctx) 2 3 1 0x7 opc 0 (BitVec.ofNat 64 a)
       Gives i s fun t => t.core k = { c with run := .stopped } ∧ (∀ x, t.readByte x = s.readByte x) ∧
         (∃ f, t.faults.getLast? = some f ∧ f.ctx = c.ctx ∧ f.addr = w ∧ f.pc = c.pc.toNat ∧ f.cls = 0x7 ∧ f.op = opc ∧
           f.code = (if bits w 0 48 % size ≠ 0 then .alignment else .access)) ∧
         (s.joinable d = none → recOpen (s.record (s.fld ERR_RING_STS.off ERR_RING_STS.NEXT)) = false →
           t.record (s.fld ERR_RING_STS.off ERR_RING_STS.NEXT) = s.newRecord d (s.fld ERR_RING_STS.off ERR_RING_STS.NEXT) false))

/-- A semaphore instruction whose address passes its checks goes in flight with its operands; sem.wait with EVE = 0 holds dispatch. -/
def Obligations.SemaphoreDispatch : Prop :=
  ∀ (i : Instr) (cid : CoreId) (b : Body) (opc : Nat) (used : List Nat) (op : FlightOp) (s : State),
    semRule i = some (cid, b, opc, used, op) →
    let k := coreKey cid
    let c := s.core k
    let w := (c.reg (opnd .s b 1)).toNat
    let v := c.reg (opnd .s b 2)
    let x := if op = .semCas then c.reg (opnd .s b 3) else 0
    let rd := if op = .semWait then none else some (opnd .s b 0)
    let ev := evOfS b
    let held (d : Core) : Core := if op = .semWait ∧ ev = none then d.heldBy (.sem c.nextFid) else d
    Runs cid ⟨0x6, opc, .s, used⟩ b s → s.semFault c.ctx.val (gBit .s b) w (op != .semWait) = none →
    (∀ a, s.resolve (gBit .s b) w = .here a →
      Gives i s (CoreBecomes k (held (c.past.inFlight (c.newFlight op rd none a w v x ev 0x6 opc))) s)) ∧
    (∀ p a, s.resolve (gBit .s b) w = .away p a →
      Gives i s fun t =>
        t.core k = held (c.past.inFlight (c.newFlight op rd (some p) a w v x ev 0x6 opc)) ∧ (∀ j, j ≠ k → t.core j = s.core j) ∧
          (∀ y, t.readByte y = s.readByte y) ∧
          t.newReqs = s.newReqs ++ [⟨.atomic opc, p, a, 8,
            leBytes 8 v.toNat ++ (if op = .semCas then leBytes 8 x.toNat else []), [], c.ctx, false, .flight k c.nextFid⟩])

/-- An engine instruction with legal operands enters its engine's queue with the scalars that it reads at dispatch; one whose guard is false
enters as a null entry; with a full queue it is not dispatched. A scalar destination is pending. The entry keeps the values that the scalar
sources hold when the instruction is dispatched, its pc and CTX_NUMCTL. A MOD that R672 does not allow raises ILLEGAL_OPERAND whatever the guard says.
That the command names the word at the PC is the sender's word (log 10). -/
def Obligations.EngineDispatch : Prop :=
  (∀ (i : Instr) (x : EngIns) (s : State), engRule i = some x →
     let k := coreKey x.cid
     let c := s.core k
     let room : Prop := (c.queue x.eng).length < (match x.eng with | .mx => 8 | _ => 32)
     (Runs x.cid x.ins x.b s → x.mod = true → x.ok (s.mkEntry k x.ins x.b false) s = true → room →
       Gives i s (CoreBecomes k (c.past.enqueue x.eng (s.mkEntry k x.ins x.b false) x.dest) s)) ∧
     (x.mod = true → c.canDispatch x.ins x.b = true → s.repairing k = false → illegalWord (isCtl k) x.ins.cls x.ins.op x.ins.fm x.b = false →
       illegalFields x.ins.cls x.ins.fm x.ins.used x.b = false → c.guard x.b = false → room →
         Gives i s (CoreBecomes k (c.past.enqueue x.eng (s.mkEntry k x.ins x.b true) none) s)) ∧
     (x.mod = false → c.canDispatch x.ins x.b = true → s.repairing k = false → illegalWord (isCtl k) x.ins.cls x.ins.op x.ins.fm x.b = false →
       illegalFields x.ins.cls x.ins.fm x.ins.used x.b = false → room → s.hatching c.ctx.val = false →
         exec i s = .next { s with
           faults := s.faults ++ [⟨c.ctx, .illegalOperand, x.ins.cls, x.ins.op, c.pc.toNat, 0, s.unitOf k engSeq, s.time⟩],
           cores := tset s.cores k { c with run := .stopped } }) ∧
     (¬ room → exec i s = .next s)) ∧
  (∀ (i : Instr) (x : EngIns) (s : State), engRule i = some x → Runs x.cid x.ins x.b s → x.mod = true →
     x.ok (s.mkEntry (coreKey x.cid) x.ins x.b false) s = true →
     (s.core (coreKey x.cid)).queue x.eng = [] →
     let k := coreKey x.cid
     let c := s.core k
     let v (n : Nat) : Word := if n ∈ x.ins.used ∧ x.ins.fm ≠ .t then c.reg (opnd x.ins.fm x.b n) else 0
     Gives i s fun t => (t.core k).queue x.eng = [⟨c.seq, x.ins.cls, x.ins.op, x.b, c.pc.toNat, v 1, v 2, v 3, s.csrGet (CTX_NUMCTL.off c.ctx.val), false⟩])


/-! Fetch, and the completion of scalar accesses, semaphores, tile moves and increments. -/

/-- A fetch of a word that is not cached reads memory into the sequencer and the cache; one of a cached word gives the cached word or, when it
has left the cache, the word in memory; a fetch from an address that the context may not fetch from raises FETCH with the PC; a word that is
no operation of the opcode map raises ILLEGAL_INSTR with its CLS and OP, and dispatch stops.
Whether a cached word is still cached, and which word a full cache gives up, are free values: the model's choice (log 27). -/
def Obligations.InstructionFetch : Prop :=
  ∀ (cid : CoreId) (s : State),
    let k := coreKey cid
    let c := s.core k
    let a := c.pc.toNat
    let w := s.readWord a
    c.run = .running → c.hold = .none →
    (c.ir = none → s.fetchOk c.ctx.val a = true → s.poisoned a 8 = false → tget? c.icache a = none → c.icache.length < 4096 →
      listedOp w = true →
        Gives (.instructionFetch cid) s (CoreBecomes k { c with ir := some w, icache := tset c.icache a w } s)) ∧
    (c.ir = none → s.fetchOk c.ctx.val a = true → s.poisoned a 8 = false → tget? c.icache a = none → 4096 ≤ c.icache.length →
      Gives (.instructionFetch cid) s fun t => (t.core k).ir = some w ∧ (t.core k).pc = c.pc ∧ tget? (t.core k).icache a = some w ∧
        (t.core k).icache.length = c.icache.length) ∧
    (∀ x, c.ir = none → s.fetchOk c.ctx.val a = true → s.poisoned a 8 = false → tget? c.icache a = some x →
      Gives (.instructionFetch cid) s fun t => ((t.core k).ir = some x ∨ (t.core k).ir = some w) ∧ (t.core k).pc = c.pc) ∧
    (c.ir = none → s.fetchOk c.ctx.val a = false → s.hatching c.ctx.val = false →
      exec (.instructionFetch cid) s = .next { s with
        faults := s.faults ++ [⟨c.ctx, .fetch, 0, 0, a, a, s.unitOf k engSeq, s.time⟩], cores := tset s.cores k { c with run := .stopped } }) ∧
    (∀ x, c.ir = some x → listedOp x = false → s.repairing k = false → s.hatching c.ctx.val = false →
      exec (.instructionFetch cid) s = .next { s with
        faults := s.faults ++ [⟨c.ctx, .illegalInstr, x.fld 60 4, x.fld 52 8, a, 0, s.unitOf k engSeq, s.time⟩],
        cores := tset s.cores k { c with run := .stopped } }) ∧
    (∀ x, c.ir = some x → listedOp x = true → exec (.instructionFetch cid) s = .next s)

/-- A load from a memory tier of this package writes its bytes, little-endian and zero- or sign-extended, to its destination; a load of poisoned
bytes raises MEMORY_ERROR and writes nothing. A load of another package writes the value that the fabric brought, a load from a host window the
bytes that the host brought. A store to a memory tier of this package writes its bytes, little-endian, and no other; a store to a host window
goes to the host in bytes; a store to a register is a write of that register; a store that another package refused, or a pin entry by now
forbids, raises ACCESS and writes nothing. Of two stores that reach one bank together the arbiter's winner is performed first.
What a host returns is the sender's word (log 27). -/
def Obligations.ScalarAccesses : Prop :=
  (∀ (cid : CoreId) (i : Nat) (h : HostReply) (s : State) (f : Flight) (z : Nat) (sg : Bool) (r : Nat),
     let k := coreKey cid
     let c := s.core k
     let ext (v : Nat) : Word := if sg then (BitVec.ofNat (8 * z) v).signExtend 64 else (BitVec.ofNat (8 * z) v).setWidth 64
     let failed (t : State) : Prop := (t.core k).reg r = c.reg r ∧
       t.faults.getLast? = some ⟨c.ctx, .memoryError, f.cls, f.opc, f.pc, f.gaddr, s.unitOf k engSeq, s.time⟩
     isCtl k = false → s.flight k i = some f → f.op = .load z sg → (z = 1 ∨ z = 2 ∨ z = 4 ∨ z = 8) → f.rd = some r →
     s.hatching c.ctx.val = false → s.inOrder k f = true →
     (f.remote = none → inTier f.addr = true → s.poisoned f.addr z = false →
       Gives (.scalarLoadReturn cid i h) s (CoreLands k (c.landed f (ext (s.readNat f.addr z))) s)) ∧
     (f.remote = none → inTier f.addr = true → s.poisoned f.addr z = true → Gives (.scalarLoadReturn cid i h) s failed) ∧
     (f.remote = none → tierOf f.addr = .csr →
       Gives (.scalarLoadReturn cid i h) s
         (CoreBecomes k (c.landed f (ext ((s.csrRead ((f.addr - csrBase) / 8 * 8)).toNat / 2 ^ (8 * (f.addr % 8))))) s)) ∧
     (∀ p bs, f.remote = none → tierOf f.addr = .hostWin p → s.inWindow c.ctx.val p f.addr z false = true → h = .data bs → bs.length = z →
       Gives (.scalarLoadReturn cid i h) s (CoreBecomes k (c.landed f (ext (leNat bs))) s)) ∧
     (∀ p bs, f.remote = none → tierOf f.addr = .hostWin p → s.inWindow c.ctx.val p f.addr z false = true → h = .poisoned bs →
       Gives (.scalarLoadReturn cid i h) s failed) ∧
     (f.remote.isSome = true → f.st = .answered → f.refused = false → f.poison = false →
       Gives (.scalarLoadReturn cid i h) s (CoreBecomes k (c.landed f (ext f.res.toNat)) s)) ∧
     (f.remote.isSome = true → f.st = .answered → f.refused = false → f.poison = true → Gives (.scalarLoadReturn cid i h) s failed)) ∧
  (∀ (cid : CoreId) (i : Nat) (s : State) (f : Flight) (z : Nat),
     let k := coreKey cid
     let c := s.core k
     isCtl k = false → s.flight k i = some f → f.op = .store z → f.rd = none → s.hatching c.ctx.val = false → s.inOrder k f = true →
     let refused (t : State) : Prop := (∀ x, t.readByte x = s.readByte x) ∧ t.core k = c.landed f 0 ∧
       t.faults = s.faults ++ [⟨c.ctx, .access, f.cls, f.opc, f.pc, f.gaddr, s.unitOf k engSeq, s.time⟩]
     (f.remote = none → inTier f.addr = true → z ≤ 8 → f.addr % 8 + z ≤ 8 → s.pinForbids (some c.ctx.val) false f.addr z = false →
       Gives (.scalarStorePerformed cid ⟨i, []⟩) s fun t =>
         (∀ j, j < z → t.readByte (f.addr + j) = f.val.extractLsb' (8 * j) 8) ∧ BytesBut f.addr z s t ∧
           (t.core k).flights.all (fun x => x.fid != f.fid) = true ∧ (s.poisoned f.addr z = false → s.tst.left = 0 → t.csr = s.csr)) ∧
     (f.remote = none → inTier f.addr = true → s.pinForbids (some c.ctx.val) false f.addr z = true →
       Gives (.scalarStorePerformed cid ⟨i, []⟩) s refused) ∧
     (f.remote = none → tierOf f.addr = .csr →
       exec (.scalarStorePerformed cid ⟨i, []⟩) s = .next ((s.csrPut (c.ctx != 0) k ((f.addr - csrBase) / 8 * 8)
         (if z = 8 then .w64 else if f.addr % 8 = 0 then .lo32 else .hi32) f.val).endFlight k f)) ∧
     (∀ p, f.remote = none → tierOf f.addr = .hostWin p → s.portOrder k f = true → s.inWindow c.ctx.val p f.addr z true = true →
       Gives (.scalarStorePerformed cid ⟨i, []⟩) s fun t => t.core k = c.landed f 0 ∧
         t.hostOut = s.hostOut ++ [.write p (s.windowHost c.ctx.val p f.addr) (leBytes z f.val.toNat) false c.ctx] ∧
         ∀ x, t.readByte x = s.readByte x) ∧
     (f.remote.isSome = true → f.st = .answered → f.refused = false →
       Gives (.scalarStorePerformed cid ⟨i, []⟩) s (CoreBecomes k (c.landed f 0) s)) ∧
     (f.remote.isSome = true → f.st = .answered → f.refused = true → Gives (.scalarStorePerformed cid ⟨i, []⟩) s refused)) ∧
  (∀ (a b : CoreId) (i j : Nat) (s : State) (x : Arb) (p q : Nat),
     s.storeBank (a, i) = some (x, p) → s.storeBank (b, j) = some (x, q) → p ≠ q → s.arbWinner x [p, q] = some q →
       ∃ t, exec (.scalarStorePerformed b ⟨j, []⟩) s = .next t ∧
         exec (.scalarStorePerformed a ⟨i, [(b, j)]⟩) s = exec (.scalarStorePerformed a ⟨i, []⟩) t)

/-- An operation at an atomic unit is performed indivisibly on the 8 bytes of the word, read and written little-endian: an add answers the old
value and stores the sum modulo 2^64, a compare-and-swap stores its operand when the old value equals the comparand, a wait whose threshold
is not above the value answers it, and any other wait is parked. Operations of several requesters that arrive in one cycle take effect in
ascending order of unit code. A semaphore that its unit has answered writes the old value to its destination, adds its increment and frees
dispatch; a wait returned from a full unit is sent again behind the core's other accesses.
The unit code that a request of another package presents is the model's choice (log 8). -/
def Obligations.AtomicsAndSemaphores : Prop :=
  (∀ (u : AtomicUnit) (cid : CoreId) (s : State) (f : Flight),
     let k := coreKey cid
     let n := unitNo u
     let m := s.readNat f.addr 8
     isCtl k = false → f.addr % 8 = 0 → s.poisoned f.addr 8 = false → tget [] s.parked n = [] → (s.core k).flights = [f] →
     f.st = .issued → f.remote = none → s.atomUnit f.addr = some n →
     (f.op = .semAdd → s.pinForbids (some (s.core k).ctx.val) false f.addr 8 = false →
       Gives (.atomicOperation u [.core cid]) s fun t => t.readNat f.addr 8 = (m + f.val.toNat) % 2 ^ 64 ∧ BytesBut f.addr 8 s t ∧
         (t.core k).flights = [{ f with st := .answered, res := BitVec.ofNat 64 m, poison := false }]) ∧
     (f.op = .semCas → s.pinForbids (some (s.core k).ctx.val) false f.addr 8 = false →
       Gives (.atomicOperation u [.core cid]) s fun t => t.readNat f.addr 8 = (if BitVec.ofNat 64 m = f.cmp then f.val.toNat else m) ∧
         BytesBut f.addr 8 s t ∧ (t.core k).flights = [{ f with st := .answered, res := BitVec.ofNat 64 m, poison := false }]) ∧
     (f.op = .semAdd ∨ f.op = .semCas → s.pinForbids (some (s.core k).ctx.val) false f.addr 8 = true →
       Gives (.atomicOperation u [.core cid]) s fun t => (∀ x, t.readByte x = s.readByte x) ∧
         (t.core k).flights = [{ f with st := .answered, refused := true }]) ∧
     (f.op = .semWait →
       Gives (.atomicOperation u [.core cid]) s fun t => (∀ x, t.readByte x = s.readByte x) ∧
         (if f.val.toNat ≤ m then (t.core k).flights = [{ f with st := .answered, res := BitVec.ofNat 64 m, poison := false }]
          else tget [] t.parked n = [⟨f.addr, f.val, .core k f.fid⟩] ∧ (t.core k).flights = [{ f with st := .parked }]))) ∧
  (∀ (u : AtomicUnit) (src : PkgId) (s : State) (q : AtomReq),
     let n := unitNo u
     let m := s.readNat q.addr 8
     s.serving = [q] → q.src = src → q.unit = n → q.wait = true → q.op = 0 → q.addr % 8 = 0 → s.poisoned q.addr 8 = false →
     s.pinForbids none false q.addr 8 = false → tget [] s.parked n = [] → s.atomUnit q.addr = some n →
       Gives (.atomicOperation u [.remote src]) s fun t => t.readNat q.addr 8 = (m + q.b.toNat) % 2 ^ 64 ∧ BytesBut q.addr 8 s t ∧
         t.atomAns = s.atomAns ++ [(q.id, BitVec.ofNat 64 m, false)]) ∧
  (∀ (u : AtomicUnit) (a b : Requester) (s : State),
     (∃ x y, a = .core x ∧ b = .core y ∧ (s.unitOf (coreKey x) engSeq).toNat < (s.unitOf (coreKey y) engSeq).toNat) ∨
       (∃ x y, a = .remote x ∧ b = .remote y ∧ x.toNat < y.toNat) →
     exec (.atomicOperation u [b, a]) s = exec (.atomicOperation u [a, b]) s ∧
     ∃ t, exec (.atomicOperation u [a]) s = .next t ∧ exec (.atomicOperation u [a, b]) s = exec (.atomicOperation u [b]) t) ∧
  (∀ (cid : CoreId) (i : Nat) (s : State) (f : Flight),
     let k := coreKey cid
     let c := s.core k
     isCtl k = false → s.flight k i = some f →
     ((f.op = .semAdd ∨ f.op = .semCas ∨ f.op = .semWait) → f.st = .answered → s.hatching c.ctx.val = false → f.refused = false →
       f.poison = false →
         (f.ev = none → Gives (.semaphoreResultReturn cid i) s (CoreBecomes k (c.landed f f.res) s)) ∧
         (∀ e, f.ev = some e → c.hold = .none → c.event e < 0xFFFF →
           Gives (.semaphoreResultReturn cid i) s
             (CoreBecomes k { c.landed f f.res with ev := tset c.ev e (c.event e + 1) } s))) ∧
     (f.st = .bounced →
       Gives (.semWaitResend cid i) s
         (CoreBecomes k { c with flights := (c.flights.filter fun g => g.fid != i) ++ [{ f with st := .issued, ord := c.nextOrd }],
                                 nextFid := c.nextFid + 1 } s)))

/-- A tile move completes once the scoreboard permits: its tile lands, the bytes that it stores are written and no others, and the load/store
engine is free. Increments that arrive in one cycle are added, saturating at 0xFFFF with EVENT_OVERFLOW, before the hold of their core is
tested; one for a context that no longer has the core is dropped.
An engine takes the head of its queue, and none starts in a hatch. A null entry completes at once. A tile move starts when no move is under
way and the scoreboard permits its reads: it takes the rows of the scratchpad or the tile that it reads; a poisoned source raises
MEMORY_ERROR and the queue is discarded. -/
def Obligations.MovesAndStarts : Prop :=
  (∀ (cid : CoreId) (s : State) (r : LsRun),
     let k := coreKey cid
     let c := s.core k
     c.lrun = some r → c.canWrite r.entry.seq (r.tile.toList.map (·.1)) = true → isCtl k = false →
       Gives (.tileMoveComplete cid) s fun t => (t.core k).lrun = none ∧ (t.core k).s = c.s ∧
         (∀ j, (t.core k).tile j = (match r.tile with | some (n, x) => if j = n then x else c.tile j | none => c.tile j)) ∧
         (∀ y, (∀ x ∈ r.bytes, ∀ j, j < x.2.length → s.memKey (x.1 + j) ≠ s.memKey y) → t.readByte y = s.readByte y) ∧
         (∀ a bs, r.bytes = [(a, bs)] → inTier a = true → tierOf a ≠ .hbm → ∀ j x, bs[j]? = some x → t.readByte (a + j) = x)) ∧
  (∀ (cid : CoreId) (i : Nat) (x : Inc) (s : State),
     let k := coreKey cid
     let c := s.core k
     s.incs[i]? = some x → x.core = k → (s.ctx x.ctx.val).saveAt = none →
     (c.ctx = x.ctx → s.hatching c.ctx.val = false →
       exec (.eventIncrement [i]) s = .next { s with
         incs := s.incs.eraseIdx i,
         cores := tset s.cores k ({ c with ev := tset c.ev x.ev (min (c.event x.ev + x.n) 0xFFFF) } : Core).settle,
         faults := if 0xFFFF < c.event x.ev + x.n then s.faults ++ [⟨x.ctx, .eventOverflow, 0, 0, 0, 0, s.unitOf k engSeq, s.time⟩]
           else s.faults }) ∧
     (isCtl k = false → c.ctx ≠ x.ctx → exec (.eventIncrement [i]) s = .next { s with incs := s.incs.eraseIdx i }) ∧
     (∀ j y, i < j → s.incs[j]? = some y → y.core = k → y.ctx = x.ctx → y.ev = x.ev → c.ctx = x.ctx →
       Gives (.eventIncrement [i, j]) s fun t =>
         t.core k = ({ c with ev := tset c.ev x.ev (min (c.event x.ev + x.n + y.n) 0xFFFF) } : Core).settle ∧
         t.incs = (s.incs.eraseIdx j).eraseIdx i)) ∧
  (∀ (cid : CoreId) (e : Engine) (sample : Bool) (s : State) (q : QEntry) (rest : List QEntry),
    let k := coreKey cid
    let c := s.core k
    let td := bf q.body 40 7
    let ta := bf q.body 33 7
    let rows := rowAddrs q.a q.b 32
    let starts (i : Instr) (r : LsRun) : Prop :=
      Gives i s fun t => (t.core k).lq = rest ∧ (t.core k).lrun = some r ∧ (t.core k).tiles = c.tiles ∧ ∀ y, t.readByte y = s.readByte y
    let fails (i : Instr) (a : Nat) : Prop :=
      Gives i s fun t => (t.core k).lq = [] ∧ (t.core k).lrun = none ∧
        t.faults.getLast? = some ⟨c.ctx, .memoryError, q.cls, q.op, q.pc, a, s.unitOf k engLs, s.time⟩
    c.queue e = q :: rest → isCtl k = false →
    (s.hatching c.ctx.val = true → exec (.engineQueueStart cid e sample) s = .next s) ∧
    (s.hatching c.ctx.val = false →
      (q.null = true → Gives (.engineQueueStart cid e sample) s fun t => (t.core k).queue e = rest ∧ (t.core k).s = c.s ∧
        (t.core k).tiles = c.tiles ∧ ∀ y, t.readByte y = s.readByte y) ∧
      (e = .ls → q.null = false → q.cls = 0x8 → c.lrun = none → c.readsOk q = true →
        let i := Instr.engineQueueStart cid e sample
        (q.op = 0x00 →
          (s.badIn (rows.map fun a => (a, 128)) = none → starts i ⟨q, some (td, tileOfRows (rows.map fun a => s.readBytes a 128)), [], []⟩) ∧
          (∀ a, s.badIn (rows.map fun a => (a, 128)) = some a → fails i a)) ∧
        (q.op = 0x01 →
          ((c.tile td).poison = [] → starts i ⟨q, none, (List.range 32).zipWith (fun r a => (a, (c.tile td).row r)) rows, []⟩) ∧
          ((c.tile td).poison ≠ [] → fails i 0)) ∧
        (q.op = 0x02 →
          ((c.tile ta).poison = [] → starts i ⟨q, some (td, c.tile ta), [], []⟩) ∧ ((c.tile ta).poison ≠ [] → fails i 0)) ∧
        (q.op = 0x03 → starts i ⟨q, some (td, Tile.zero), [], []⟩) ∧
        (q.op = 0x04 → s.badByte q.b.toNat q.c.toNat = none →
          starts i ⟨q, none, if q.c.toNat = 0 then [] else [(q.a.toNat, s.readBytes q.b.toNat q.c.toNat)], []⟩))))

/-! Barriers, context faults and control cores. -/

/-- The cluster barrier releases once each of the 8 cores has arrived or ended, one of them at the barrier, and not before; a group barrier
releases once every core of the group has arrived; a core resumes dispatch when the release reaches it. When the time limit of a ctx.enter
has passed, the control core goes back to firmware with 3; when a slice is over, the next runnable program in round-robin order gets the
core for its slice. A notice goes to the lowest-numbered control core that waits, else it is queued, and two doorbell notices of one queue
merge. -/
def Obligations.BarriersAndControlCores : Prop :=
  (∀ (d : Fin 4) (cl : Fin 12) (n : CtxId) (g : Fin 8) (cid : CoreId) (s : State),
     let sent (keys : List Nat) (h : Hold) (t : State) : Prop :=
       (∀ j ∈ keys, t.core j = if (s.core j).hold = h then (s.core j).heldBy .barSent else s.core j) ∧ (∀ j, j ∉ keys → t.core j = s.core j) ∧
         t = { s with cores := t.cores }
     let arrived (keys : List Nat) (h : Hold) : Prop :=
       (∀ j ∈ keys, (s.core j).hold = h ∨ (s.core j).run = .halted) ∧ ∃ j ∈ keys, (s.core j).hold = h
     let ks := clusterCores d.val cl.val
     let gs := s.groupCores n.val g.val
     (arrived ks .barCl → Gives (.clusterBarrierRelease d cl) s (sent ks .barCl)) ∧
     (¬ arrived ks .barCl → exec (.clusterBarrierRelease d cl) s = .next s) ∧
     (arrived gs .barGrp → Gives (.groupBarrierRelease n g) s (sent gs .barGrp)) ∧
     (¬ arrived gs .barGrp → exec (.groupBarrierRelease n g) s = .next s) ∧
     ((s.core (coreKey cid)).hold = .barSent →
       Gives (.barrierReleaseDelivered cid) s (CoreBecomes (coreKey cid) ((s.core (coreKey cid)).heldBy .none) s))) ∧
  (∀ (n : Fin 16) (s : State) (w : Word),
     let k := 0x1000 + n.val
     let c := s.core k
     let fw := tget Core.reset s.ccRegs (n.val * 64)
     (∀ x rd eve, c.ctx.val ≠ 0 → c.limit ≠ 0 → c.started + c.limit * 1000 ≤ s.time → fw.hold = .ctxEnter x rd eve →
       Gives (.ctxEnterTimeLimit n) s fun t => (t.core k).reg rd = 3 ∧ (t.core k).pc = fw.pc ∧ (t.core k).hold = .none ∧
         (tget Core.reset t.ccRegs (n.val * 64 + c.ctx.val)).pc = c.pc ∧ (tget Core.reset t.ccRegs (n.val * 64 + c.ctx.val)).s = c.s) ∧
     (∀ p, nextProg (s.runnable n.val) c.ctx.val = some p → (c.ctx.val = 0 ∨ (c.limit ≠ 0 ∧ c.started + c.limit * 1000 ≤ s.time)) →
       Gives (.ccSliceTimer n) s fun t => (t.core k).ctx = p.ctx ∧ (t.core k).run = .running ∧ (t.core k).started = s.time ∧ (t.core k).limit = p.slice) ∧
     ((∀ j ∈ allCtl, ∀ rd eve, (s.core j).hold ≠ .wdb rd eve) →
       exec (.wdbNotice w) s = .next (if w.fld 56 8 = 1 ∧ w ∈ s.notices then s else { s with notices := s.notices ++ [w] })) ∧
     (∀ rd, s.notices = [] → (s.core 0x1000).hold = .wdb rd none →
       Gives (.wdbNotice w) s
         (CoreBecomes 0x1000 { (s.core 0x1000).setReg rd w with hold := .none, pend := setDel (s.core 0x1000).pend rd } s)))

/-- The first fault of a running context is put in its CTX_FAULT registers with code, class, operation, unit, pc, address and time; the context
is FAULTED and each of its compute cores stops; a later fault only raises MORE, saturating. -/
def Obligations.FirstFault : Prop :=
  ∀ (n : CtxId) (s : State) (f : FaultRec),
    s.nextFault n.val = some f →
    (s.bit (CTX_FAULT_INFO.off n.val) CTX_FAULT_INFO.VALID = false → (s.ctx n.val).st = .running →
      Gives (.contextFault n) s fun t =>
        let o := CTX_FAULT_INFO.off n.val
        t.bit o CTX_FAULT_INFO.VALID = true ∧ t.fld o CTX_FAULT_INFO.CODE = f.code.num ∧
          (f.cls < 16 → f.op < 256 → t.fld o CTX_FAULT_INFO.CLS = f.cls ∧ t.fld o CTX_FAULT_INFO.OP = f.op ∧ t.fld o CTX_FAULT_INFO.UNIT = f.unit.toNat) ∧
          t.csrGet (CTX_FAULT_PC.off n.val) = BitVec.ofNat 64 (f.pc % 2 ^ 48) ∧ t.csrGet (CTX_FAULT_ADDR.off n.val) = BitVec.ofNat 64 f.addr ∧
          t.csrGet (CTX_FAULT_TIME.off n.val) = BitVec.ofNat 64 f.time ∧ (t.ctx n.val).st = .faulted ∧
          ∀ j, isCtl j = false → (s.core j).ctx = n → (s.core j).run = .running → (t.core j).run = .stopped ∧ (t.core j).pc = (s.core j).pc) ∧
    (s.bit (CTX_FAULT_INFO.off n.val) CTX_FAULT_INFO.VALID = true → (s.ctx n.val).st = .faulted →
      Gives (.contextFault n) s fun t =>
        t.fld (CTX_FAULT_CNT.off n.val) CTX_FAULT_CNT.MORE = min (s.fld (CTX_FAULT_CNT.off n.val) CTX_FAULT_CNT.MORE + 1) (2 ^ CTX_FAULT_CNT.MORE.len - 1) ∧
          (∀ o, o ≠ CTX_FAULT_CNT.off n.val → t.csrGet o = s.csrGet o) ∧ t.cores = s.cores ∧ (t.ctx n.val).st = .faulted ∧ t.faults = s.faults.erase f)


/-! The matrix engine, the ballast and the vector engine. -/

/-- The matrix engine starts its head once no mismatch is unresolved: an mst loads the next bank in rotation, or the bank of the open run, when no
mmx under way uses it; an mmx when the one before it has fed its last row and its bank is loaded, with the rows that are enabled, or completes
with none; the other matrix instructions act there. Poisoned operands raise MEMORY_ERROR and a pairing that is not allowed ILLEGAL_OPERAND, and
the queue is discarded. A load of a stationary slot lands in its bank; a row leaves the array with each element accumulated in reduction
order; a row of a REPLAY instruction that overflows starts the next attempt with shift 16, 64 or 192; the last row of the last pass ends a
clean first run, and a flagged one is repeated from the first block that has not landed.
When the checks are judged is the model's choice (log 29). -/
def Obligations.MatrixFeeds : Prop :=
  (∀ (cid : CoreId) (sample : Bool) (s : State) (q : QEntry) (rest : List QEntry),
     let k := coreKey cid
     let c := s.core k
     let m := modOf q.body
     let i := Instr.engineQueueStart cid .mx sample
     let next := if c.mx.runOpen then c.mx.cur else if c.mx.filled then (c.mx.cur + 1) % 3 else 0
     let bank := tget Bank.empty c.mx.banks c.mx.cur
     let pk := bank.mod / 256
     let td := bf q.body 40 7
     let ta := bf q.body 33 7
     let fromT : Prop := q.op = 0x01 ∨ q.op = 0x02
     let n := 4 * (mRows q.body / 32)
     let preTiles := if mmxPre m = 2 then group (bf q.body 26 7) n else if mmxPre m = 3 then mmxDest pk q.body else []
     let fed := fedRows c.mx.enable (mRows q.body)
     let fails (code : FaultCode) (a : Nat) : Prop := Gives i s fun t => (t.core k).mq = [] ∧ (t.core k).tiles = c.tiles ∧
       t.faults.getLast? = some ⟨c.ctx, code, q.cls, q.op, q.pc, a, s.unitOf k engMx, s.time⟩
     c.mq = q :: rest → isCtl k = false → s.hatching c.ctx.val = false → q.null = false → c.mx.unresolved = false →
     (q.op = 0x00 → c.mx.bankFree next = true →
       (c.mx.runOpen = true → (tget Bank.empty c.mx.banks next).mod ≠ m → fails .illegalOperand 0) ∧
       ((c.mx.runOpen = true → (tget Bank.empty c.mx.banks next).mod = m) →
         (∀ a, s.badIn (mstReads q) = some a → fails .memoryError a) ∧
         (s.badIn (mstReads q) = none → Gives i s fun t => (t.core k).mq = rest ∧ (t.core k).mx.cur = next ∧ (t.core k).mx.runOpen = true ∧
           (t.core k).mx.loads = c.mx.loads ++ [⟨q, next, td % 16, (s.statSlot q).1⟩] ∧
           (tget Bank.empty (t.core k).mx.banks next).mod = m ∧ (t.core k).tiles = c.tiles ∧ ∀ y, t.readByte y = s.readByte y))) ∧
     (1 ≤ q.op → q.op ≤ 4 → c.mx.fedAll = true → bank.loads = 0 → c.readsOk q = true →
       ((c.mx.filled = false ∨ pairingOk (mmxType m) (mstTarget bank.mod) = false ∨ (fromT ∧ pk ≠ 0) ∨ ∃ t ∈ preTiles, (c.tile t).shift ≠ 0) →
         fails .illegalOperand 0) ∧
       (c.mx.filled = true → pairingOk (mmxType m) (mstTarget bank.mod) = true → (fromT → pk = 0) → (∀ t ∈ preTiles, (c.tile t).shift = 0) →
        (∀ x ∈ mmxReads q pk fed c.mx.enable, c.rowBad x = false) → (¬ fromT → s.badIn (mmxRanges q pk fed) = none) →
          (fed = [] → Gives i s fun t => (t.core k).mq = rest ∧ (t.core k).mx.run = c.mx.run ∧ (t.core k).tiles = c.tiles) ∧
          (fed ≠ [] → Gives i s fun t => (t.core k).mq = rest ∧ (t.core k).mx.landing = c.mx.landing ++ c.mx.run.toList ∧
            (t.core k).tiles = c.tiles ∧ ∃ r, (t.core k).mx.run = some r ∧ r.entry = q ∧ r.bank = c.mx.cur ∧ r.fed = fed ∧ r.phase = .feed ∧
              r.done = [] ∧ r.landed = 0 ∧ r.shift = 0 ∧ r.stream = fed.map (fun x => (s.streamRow k q pk x).1) ∧
              r.preload = fed.map (fun x => (List.range (pkCols pk)).map fun col =>
                if c.mx.enable.getLsbD x then c.preElem q pk x col else 0)))) ∧
     (5 ≤ q.op → q.op ≤ 8 → c.readsOk q = true → c.canWrite q.seq (q.tiles (c.pkAt q.seq)).2 = true →
       (q.op = 0x05 → ((List.range 4).all fun r => !c.rowBad (ta, r)) = true → Gives i s fun t => (t.core k).mq = rest ∧
         (t.core k).mx.bias = (List.range 128).map (fun n => (c.tile ta).at (n / 32) (n % 32)) ∧ (t.core k).tiles = c.tiles) ∧
       (q.op = 0x05 → ((List.range 4).all fun r => !c.rowBad (ta, r)) = false → fails .memoryError 0) ∧
       (q.op = 0x06 → Gives i s fun t => (t.core k).mq = rest ∧ (t.core k).mx.enable = q.b ++ q.a ∧ (t.core k).tiles = c.tiles) ∧
       (q.op = 0x07 → Gives i s fun t => (t.core k).mq = rest ∧
         (t.core k).reg (bf q.body 34 6) = BitVec.ofNat 64 (b2n (c.tile td).susp * 256 + (c.tile td).shift) ∧ (t.core k).tiles = c.tiles) ∧
       (q.op = 0x08 → Gives i s fun t => (t.core k).mq = rest ∧
         ∀ j, (t.core k).tile j = if j = td then { c.tile td with shift := 0, susp := false } else c.tile j))) ∧
  (∀ (cid : CoreId) (s : State),
     let k := coreKey cid
     let c := s.core k
     (∀ r rest, c.mx.loads = r :: rest →
       Gives (.mstLoadComplete cid) s fun t =>
         tget? (tget Bank.empty (t.core k).mx.banks r.bank).slots r.slot = some r.data ∧ (t.core k).mx.loads = rest ∧
           (tget Bank.empty (t.core k).mx.banks r.bank).loads = (tget Bank.empty c.mx.banks r.bank).loads - 1 ∧
           (t.core k).tiles = c.tiles ∧ ∀ y, t.readByte y = s.readByte y) ∧
     (∀ r, c.mx.run = some r → r.phase = .feed → s.carries k = true →
       let bank := tget Bank.empty c.mx.banks r.bank
       let f := r.startRow r.first + r.done.length
       let row := r.rowOf bank f []
       let x := r.addRow row
       let clean : Prop := ∀ p ∈ x.judgedPasses, ∀ b ∈ x.judged f, (p.blockCheck bank p.resAt b).2 = (0, [])
       (∀ n, n < pkCols (bank.mod / 256) → row.1[n]? = some (fvElem (r.accum bank f n).acc)) ∧
       ((r.entry.replayMode && x.ovf) = false → x.judged f = [] → f + 1 < r.fed.length →
         Gives (.matrixRowExit cid []) s fun t => (t.core k).mx.run = some x ∧ (t.core k).tiles = c.tiles ∧ ∀ y, t.readByte y = s.readByte y) ∧
       ((r.entry.replayMode && x.ovf) = false → r.isRep = false → clean → f + 1 = r.fed.length → r.numPasses ≤ r.pass + 1 →
         Gives (.matrixRowExit cid []) s fun t => (t.core k).tiles = c.tiles ∧ ∃ q, (t.core k).mx.run = some q ∧ q.phase = .land ∧
           q.ready = r.blocks ∧ q.done = x.done ∧ q.entry = r.entry) ∧
       ((r.entry.replayMode && x.ovf) = false → r.isRep = false → ¬ clean → isCtl k = false →
         Gives (.matrixRowExit cid []) s fun t => (t.core k).tiles = c.tiles ∧ ∃ q, (t.core k).mx.run = some q ∧ q.isRep = true ∧
           q.first = r.landed ∧ q.done = [] ∧ q.pass = 0 ∧ q.shift = 0 ∧ q.entry = r.entry) ∧
       (r.entry.replayMode = true → x.ovf = true →
         Gives (.matrixRowExit cid []) s fun t => ∃ q, (t.core k).mx.run = some q ∧ q.done = [] ∧ q.pass = 0 ∧ q.entry = r.entry ∧
           q.shift = (if r.shift = 0 then 16 else if r.shift = 16 then 64 else 192))))

/-- The next block of an mmx lands in its destination tiles and in no other, and the last one completes it; the spare's results land where the
instruction's own would, with SUSPECT when the spare flags a line too; the ballast counts the cycles that a data row waits or that none is
ready, and its level moves by 1 within its bounds at STEP and HOLD, and only with EN. The vector engine starts its head: vset writes its register
there, any other instruction takes the vector state as it stands and reads its sources once it may. The next result tile of a vector
instruction lands, and nothing else, until the last tile completes it; vepis writes its rows and no other byte.
The ballast cycles are the sender's word (log 64). -/
def Obligations.EngineLands : Prop :=
  (∀ (cid : CoreId) (d : Fin 4) (cl : Fin 12) (ups : List Upset) (s : State),
     let k := coreKey cid
     let c := s.core k
     let step := max 1 (s.fld PWR_BALLAST.off PWR_BALLAST.STEP)
     let hold := s.fld PWR_BALLAST.off PWR_BALLAST.HOLD
     let w := c.mx.cntW + 1
     let i := c.mx.cntI + 1
     let up : MxSt := if step ≤ w ∧ c.mx.level < s.mxCap k then { c.mx with level := c.mx.level + 1, cntW := 0, cntI := 0 }
       else { c.mx with cntW := w, cntI := 0 }
     let down : MxSt := if hold ≤ i ∧ (i - hold) % step = 0 ∧ 0 < c.mx.level then { c.mx with level := c.mx.level - 1, cntW := 0, cntI := i }
       else { c.mx with cntI := i }
     (∀ r, c.mx.lander = some r → r.landed < r.ready →
       let pk := (tget Bank.empty c.mx.banks r.bank).mod / 256
       let ts := r.blockTiles pk r.landed
       c.canWrite r.entry.seq ts = true → ts.Nodup →
         Gives (.matrixBlockLand cid) s fun t =>
           (∀ x, (t.core k).tile x = if x ∈ ts then r.landTile pk x r.landed (c.tile x) else c.tile x) ∧ (∀ y, t.readByte y = s.readByte y) ∧
             (t.core k).mx = c.mx.setLander (if r.landed + 1 = r.blocks then none
               else some { r with landed := r.landed + 1, doneTiles := r.doneTiles ++ ts })) ∧
     (∀ key r, s.nextReplay d.val cl.val = some key → (s.core key).mx.run = some r →
       let a := (r.restart 0 r.first).spareRun (tget Bank.empty (s.core key).mx.banks r.bank) ups 4
       Gives (.spareReplay d cl ups) s fun t => (t.core key).tiles = (s.core key).tiles ∧ ∃ q, (t.core key).mx.run = some q ∧ q.phase = .spareDone ∧
         q.entry = r.entry ∧ q.done = r.done ∧ q.spare = a.1.done ∧ q.spareBad = a.2) ∧
     (∀ key r, s.mmxIn d.val cl.val .spareDone = some key → (s.core key).mx.run = some r → (s.core key).mx.landing = [] → r.blocks ≤ r.landed + 4 →
       let pk := (tget Bank.empty (s.core key).mx.banks r.bank).mod / 256
       let bs := (List.range r.blocks).filter fun b => decide (r.landed ≤ b)
       let ts := bs.flatMap fun b => r.blockTiles pk b
       let x := if r.spareBad then { r with suspOut := true } else { r with done := r.spare }
       (s.core key).canWrite r.entry.seq ts = true → ts.Nodup →
         Gives (.spareReplayLand d cl) s fun t => (t.core key).mx.run = none ∧
           (r.spareBad = false → t.bit (CTX_MXSTS.off (s.core key).ctx.val) CTX_MXSTS.XREPLAY_HIT = true) ∧
           (∀ b ∈ bs, ∀ y ∈ r.blockTiles pk b, (t.core key).tile y = x.landTile pk y b ((s.core key).tile y)) ∧
           ∀ y, y ∉ ts → (t.core key).tile y = (s.core key).tile y) ∧
     (isCtl k = false → s.bit PWR_BALLAST.off PWR_BALLAST.EN = true →
       Gives (.ballastLevelRise ⟨cid, 1⟩) s (CoreBecomes k { c with mx := up } s) ∧
       Gives (.ballastLevelFall ⟨cid, 1⟩) s (CoreBecomes k { c with mx := down } s)) ∧
     (∀ n, (∃ t, exec (.ballastLevelRise ⟨cid, n⟩) s = .next t ∧ exec (.ballastLevelRise ⟨cid, n + 1⟩) s = exec (.ballastLevelRise ⟨cid, 1⟩) t) ∧
       ∃ t, exec (.ballastLevelFall ⟨cid, n⟩) s = .next t ∧ exec (.ballastLevelFall ⟨cid, n + 1⟩) s = exec (.ballastLevelFall ⟨cid, 1⟩) t) ∧
     (∀ n, s.bit PWR_BALLAST.off PWR_BALLAST.EN = false →
       exec (.ballastLevelRise ⟨cid, n⟩) s = .next s ∧ exec (.ballastLevelFall ⟨cid, n⟩) s = .next s)) ∧
  (∀ (cid : CoreId) (sample : Bool) (s : State) (q : QEntry) (rest : List QEntry),
     let k := coreKey cid
     let c := s.core k
     let i := Instr.engineQueueStart cid .vx sample
     let x := c.vecDraws q
     let r0 : VxRun := ⟨q, [], [], false, x, false, false, 0, false, true, c.vx.params⟩
     let c0 : Core := { c with vq := rest, vx := { c.vx with landing := c.vx.landing ++ c.vx.run.toList, run := some r0 } }
     let o := c0.vecOut q fun a => BitVec.ofNat 32 (s.readNat a 4)
     let rd := c0.vecReads q
     let susp := rd.any fun t => (c.tile t).susp
     c.vq = q :: rest → isCtl k = false → s.hatching c.ctx.val = false → q.null = false → (∀ r, c.vx.run = some r → r.unread = false) →
     (q.cls = 0xC → q.op = 0x09 →
       Gives i s fun t => (t.core k).vq = rest ∧ (t.core k).vx = c.vx.set (modOf q.body % 8) q.a ∧ (t.core k).tiles = c.tiles) ∧
     (¬ (q.cls = 0xC ∧ q.op = 0x09) → c.vecReady q = true →
       (c0.canRead q.seq rd = false →
         Gives i s (CoreBecomes k { c0 with vx := { c0.vx with vidx := c.vx.vidx + BitVec.ofNat 64 (1024 * x) } } s)) ∧
       (c0.canRead q.seq rd = true → (∀ t ∈ rd, (c.tile t).poison = []) → s.badIn (c0.vepisReads q) = none →
         Gives i s (CoreLands k { c0 with vx := { c0.vx with
           vidx := c.vx.vidx + BitVec.ofNat 64 (1024 * x),
           run := some { r0 with unread := false, out := o.out.map fun y => (y.1, { y.2 with susp := y.2.susp || susp }), rows := o.rows,
                                 susp := susp, satHit := o.sat, nanGen := o.nan, empty := o.empty, cntSat := o.cntSat } } } s)))) ∧
  (∀ (cid : CoreId) (i : Nat) (s : State) (r : VxRun),
     let k := coreKey cid
     let c := s.core k
     c.vx.runAt i = some r → r.unread = false → s.tst.left = 0 → c.canWrite r.entry.seq ((r.out.take 1).map (·.1)) = true →
     (∀ n x left, r.out = (n, x) :: left → left ≠ [] → Gives (.vectorTileLand cid ⟨i, .clean⟩) s
       (CoreLands k { c.setTile n x with vx := c.vx.setRun i (some { r with out := left }) } s)) ∧
     (∀ n x, r.out = [(n, x)] → r.rows = [] → Gives (.vectorTileLand cid ⟨i, .clean⟩) s fun t =>
       (t.core k).vx = c.vx.setRun i none ∧ (∀ j, (t.core k).tile j = if j = n then x else c.tile j) ∧ (t.core k).s = c.s ∧
         (∀ j, j ≠ k → t.core j = s.core j) ∧ ∀ y, t.readByte y = s.readByte y) ∧
     (r.out = [] → isCtl k = false → Gives (.vectorTileLand cid ⟨i, .clean⟩) s fun t =>
       (t.core k).vx = c.vx.setRun i none ∧ (t.core k).tiles = c.tiles ∧
         (∀ y, (∀ z ∈ r.rows, ∀ j, j < z.2.length → s.memKey (z.1 + j) ≠ s.memKey y) → t.readByte y = s.readByte y) ∧
         ∀ pre a bs post, r.rows = pre ++ (a, bs) :: post → (∀ j, j < bs.length → tierOf (a + j) ≠ .hbm) →
           (∀ z ∈ post, ∀ m, m < z.2.length → ∀ j, j < bs.length → z.1 + m ≠ a + j) → ∀ j x, bs[j]? = some x → t.readByte (a + j) = x))

/-! Hot repair, patrol scrub, the interleave. -/

/-- Once the queues of its 8 cores have drained, the copy of a repair begins; when the copy ends, LMAP names the spare wherever it named the failed
core and is otherwise as before, SPARE reads F, the failed core's RETIRED bit is set, and dispatch may go on; in the swap of a field-test visit the
core that served becomes the spare and none is retired. Patrol scrub changes no byte: a clean codeword leaves the state as it is, a correctable one
of the tiers opens no record and adds 1 to TRANS of the history entry of its storage unit, unless an injection caused it (thresholds of 0 never
act; the unit of an entry is the model's reading, log 37), an uncorrectable one is marked poisoned.
A write to PKG_HBM_ILV takes effect only while no user context runs and no stream is in use, and a SPLIT above 64 leaves that field. -/
def Obligations.RepairAndScrub : Prop :=
  (∀ (d : Fin 4) (cl : Fin 12) (s : State),
     let i := d.val * 12 + cl.val
     let o := PKG_CORE_MAP.off d.val cl.val
     let p := (s.cluster i).repPhys
     ((s.cluster i).repSt = 1 → (∀ k ∈ clusterCores d.val cl.val, (s.core k).drained = true) →
       Gives (.hotRepairDrained d cl) s fun t => (t.cluster i).repSt = 2 ∧ (∀ j, j ≠ i → t.cluster j = s.cluster j) ∧
         t = { s with clusters := t.clusters }) ∧
     (∀ bad, (s.cluster i).repSt = 2 → (s.cluster i).repWait = [] → p < 16 →
       Gives (.hotRepairCopyDone d cl bad) s fun t => (t.cluster i).repSt = 0 ∧
         t.fld o PKG_CORE_MAP.SPARE = (if (s.cluster i).swap then p else 0xF) ∧
         (p < PKG_CORE_MAP.RETIRED.len → t.fld o PKG_CORE_MAP.RETIRED =
           if (s.cluster i).swap then s.fld o PKG_CORE_MAP.RETIRED else s.fld o PKG_CORE_MAP.RETIRED ||| 2 ^ p) ∧
         ∀ q, q < 8 → bits (t.fld o PKG_CORE_MAP.LMAP) (4 * q) 4 =
           if bits (s.fld o PKG_CORE_MAP.LMAP) (4 * q) 4 = p then s.fld o PKG_CORE_MAP.SPARE else bits (s.fld o PKG_CORE_MAP.LMAP) (4 * q) 4)) ∧
  (∀ (a : Addr) (sz : CsrSize) (v : Word) (s : State),
     let w := mergeSz (s.csrGet PKG_HBM_ILV.off) sz v
     let ud := s.storageUnit a.toNat
     let u := histUnit ud.1 ud.2.toNat
     exec (.patrolScrub a .clean) s = .next s ∧
     (inTier a.toNat = true → s.marked a.toNat = true → exec (.patrolScrub a .correctable) s = .next s) ∧
     (inTier a.toNat = true → s.marked a.toNat = false → s.hist.length < 8192 →
       (∀ k, thrKind ud.1 ud.2.toNat = some k →
         s.fld (ERR_THR.off k) ERR_THR.TRANS = 0 ∧ s.fld (ERR_THR.off k) ERR_THR.PERS = 0) →
       Gives (.patrolScrub a .correctable) s fun t => t = { s with hist := t.hist } ∧ (t.histOf u).trans = (s.histOf u).trans + 1) ∧
     (inTier a.toNat = true →
       Gives (.patrolScrub a .uncorrectable) s fun t => t.mem.cells = s.mem.cells ∧ t.mem.poison.contains (s.memKey (cwOf a.toNat)) = true) ∧
     (s.ilvFree = true →
       Gives (.pkgHbmIlvWrite sz v) s fun t =>
         t.fld PKG_HBM_ILV.off PKG_HBM_ILV.UPPER_MODE = getFld w PKG_HBM_ILV.UPPER_MODE ∧
           t.fld PKG_HBM_ILV.off PKG_HBM_ILV.SPLIT = (if getFld w PKG_HBM_ILV.SPLIT ≤ 64 then getFld w PKG_HBM_ILV.SPLIT
             else s.fld PKG_HBM_ILV.off PKG_HBM_ILV.SPLIT) ∧
           t.mem = s.mem ∧ t.cores = s.cores ∧ ∀ x, x ≠ PKG_HBM_ILV.off → t.csrGet x = s.csrGet x) ∧
     (s.ilvFree = false → exec (.pkgHbmIlvWrite sz v) s = .next s))


/-! Streams. -/

/-- A strm.issue at the head of its queue reads its descriptor: a free entry takes it when no issuer waits, else it waits with the descriptor;
poison raises MEMORY_ERROR and an endpoint that is not allowed STREAM. A freed entry goes to the waiting issuer whose turn it is. The stream is
entered, QUEUED or ACTIVE, the ID is written to the instruction's destination, and INUSE rises. strm.cancel ends a QUEUED stream CANCELLED and
lets an ACTIVE one start no further piece; strm.stat reads the status of a stream of its own context. A QUEUED stream becomes ACTIVE when a
place is free for it, or FAILS with error 6 when its dependency did. A stream retires DONE once all its writes have been performed, towards a
host window only once the reads behind its last write have returned, of which a failed one ends it FAILED with error 5; FAILED with error 3
when it met poison; a cancelled stream ends CANCELLED once nothing is outstanding. INUSE falls.
Where the rule is silent on the moment, it is the model's choice (log 12). -/
def Obligations.StreamEntry : Prop :=
  (∀ (cid : CoreId) (s : State),
     let k := coreKey cid
     let c := s.core k
     let o := CTX_STRM_USE.off c.ctx.val
     let entered (i : Nat) (q : QEntry) (d : List Word) (rest : List QEntry) (t : State) : Prop :=
       (∃ x, t.strm? i = some x ∧ x.ctx = c.ctx ∧ x.core = k ∧ x.desc = d ∧ (x.st = .queued ∨ x.st = .active)) ∧
         (t.core k).lq = rest ∧ (t.core k).lwait = none ∧ (t.core k).reg (bf q.body 41 6) = BitVec.ofNat 64 i ∧
         t.fld o CTX_STRM_USE.INUSE = s.fld o CTX_STRM_USE.INUSE + 1
     (∀ u d q rest i, s.nextIssuer = some (u, k, c.ctx.val) → c.lwait = some d → c.lq = q :: rest → s.freeId = some i →
       s.quotaFull c.ctx.val = false → s.fld o CTX_STRM_USE.INUSE + 1 < 2 ^ CTX_STRM_USE.INUSE.len →
         Gives (.streamEntryAssign cid) s (entered i q d rest)) ∧
     (∀ sample q rest, c.lq = q :: rest → q.null = false → q.cls = 0x9 → isCtl k = false → s.hatching c.ctx.val = false → c.lrun = none →
       let i := Instr.engineQueueStart cid .ls sample
       let d := bytesToWords 8 (s.readBytes q.a.toNat 64)
       let fails (code : FaultCode) (a : Nat) : Prop := Gives i s fun t => (t.core k).lq = [] ∧
         t.faults.getLast? = some ⟨c.ctx, code, q.cls, q.op, q.pc, a, s.unitOf k engLs, s.time⟩
       let y := s.strm? (q.a.toNat % 65536)
       (q.op = 0x00 → c.lwait = none →
         (s.poisoned q.a.toNat 64 = true → fails .memoryError q.a.toNat) ∧
         (s.poisoned q.a.toNat 64 = false →
           (∀ a, s.descFault c.ctx.val d q.a.toNat = some a → fails .stream a) ∧
           (s.descFault c.ctx.val d q.a.toNat = none →
             (∀ n, s.waitingIssuers = [] → s.freeId = some n → s.quotaFull c.ctx.val = false →
               s.fld o CTX_STRM_USE.INUSE + 1 < 2 ^ CTX_STRM_USE.INUSE.len → Gives i s (entered n q d rest)) ∧
             (s.waitingIssuers ≠ [] ∨ s.freeId = none ∨ s.quotaFull c.ctx.val = true →
               Gives i s (CoreBecomes k { c with lwait := some d } s))))) ∧
       (q.op = 0x01 →
         ((∀ x, y = some x → x.ctx ≠ c.ctx ∨ (x.st ≠ .queued ∧ x.st ≠ .active) ∨ (x.st = .active ∧ x.served = true ∧ x.outst = 0)) →
           Gives i s fun t => (t.core k).lq = rest ∧ t.strms = s.strms) ∧
         (∀ x, y = some x → x.ctx = c.ctx → x.st = .queued →
           Gives i s fun t => (t.core k).lq = rest ∧ ∃ z, t.strm? (q.a.toNat % 65536) = some z ∧ z.st = .cancelled ∧ z.desc = x.desc) ∧
         (∀ x, y = some x → x.ctx = c.ctx → x.st = .active → (x.served = true → x.outst ≠ 0) →
           Gives i s fun t => (t.core k).lq = rest ∧ t.strm? (q.a.toNat % 65536) = some { x with cancel := true, cancelBy := x.cancelBy ++ [(k, c.nextFid)] } ∧
             (∃ f ∈ (t.core k).flights, f.fid = c.nextFid ∧ f.op = .cancel))) ∧
       (q.op = 0x02 → Gives i s fun t => (t.core k).lq = rest ∧ t.strms = s.strms ∧
         (t.core k).reg (bf q.body 41 6) = (match y with | some x => if x.ctx = c.ctx then x.status else 0 | none => 0)))) ∧
  (∀ (id : StreamId) (s : State) (x : Stream), s.strm? id.toNat = some x → x.st = .queued →
     (x.depBad = false → s.activeOn x.eng < x.eng.places → s.firstQueued x.eng = some id.toNat →
       Gives (.streamActivate id) s fun t => t.strm? id.toNat = some { x with st := .active } ∧
         (∀ j, j ≠ id.toNat → t.strm? j = s.strm? j) ∧ t = { s with strms := t.strms }) ∧
     (x.depBad = true →
       Gives (.streamActivate id) s fun t => ∃ y, t.strm? id.toNat = some y ∧ y.st = .failed ∧ y.err = 6 ∧ y.desc = x.desc)) ∧
  (∀ (id : StreamId) (s : State) (x : Stream),
     let i := id.toNat
     let o := CTX_STRM_USE.off x.ctx.val
     let ends (st : StrmSt) (e : Nat) (t : State) : Prop :=
       (∃ y, t.strm? i = some y ∧ y.st = st ∧ y.err = e ∧ y.desc = x.desc) ∧ t.fld o CTX_STRM_USE.INUSE = s.fld o CTX_STRM_USE.INUSE - 1 ∧
         t.mem = s.mem
     s.strm? i = some x → x.st = .active →
     (x.outst = 0 → x.cancel = false → x.err = 0 → x.served = true → x.drained = true → x.bad = false → Gives (.streamRetire id) s (ends .done 0)) ∧
     (x.outst = 0 → x.cancel = false → x.err = 0 → x.served = true → x.drained = true → x.bad = true → Gives (.streamRetire id) s (ends .failed 3)) ∧
     (x.outst = 0 → x.cancel = false → x.err ≠ 0 → Gives (.streamRetire id) s (ends .failed x.err)) ∧
     (x.cancel = true → exec (.streamRetire id) s = .next s) ∧
     (x.outst = 0 → x.cancel = true → Gives (.streamCancelComplete id) s (ends .cancelled x.err)) ∧
     (∀ p : Fin 2, p.val ∈ x.flushes →
       (Gives (.streamFlushReadComplete ⟨id, p, true⟩) s fun t => t.strm? i = some { x with flushes := setDel x.flushes p.val } ∧
         t = { s with strms := t.strms }) ∧
       (x.outst = 0 → x.err = 0 → Gives (.streamFlushReadComplete ⟨id, p, false⟩) s (ends .failed 5))))

/-- A piece of a stream from a memory tier of this package, or of a FILL, writes exactly the bytes of the piece at a memory tier, or gives
them to the host at a host window: the bytes of its source, for FILL the pattern's; and the stream moves past the piece. GATHER and SCATTER
take the row that the index names. A stream whose turn it is not is not served.
When an index is read is the model's choice (log 12). -/
def Obligations.StreamPieces : Prop :=
  ∀ (id : StreamId) (h : HostReply) (s : State) (x : Stream) (b : Nat),
    let d := x.desc
    let ix := if 3 ≤ dKind d then (s.rowIndex x).1 else 0
    let p := x.nextPiece ix (s.topDown d)
    let n := p.1
    let moved (t : State) : Prop := ∃ y, t.strm? id.toNat = some y ∧ y.row = (x.past n).row ∧ y.off = (x.past n).off ∧ y.outst = x.outst
    s.strm? id.toNat = some x →
    (s.pieceTurn x.eng ≠ some id.toNat → exec (.streamPiece id h) s = .next s) ∧
    (x.hasPiece = true → s.pieceTurn x.eng = some id.toNat → 0 < n → s.resolve (dDG d) p.2.2.2.toNat = .here b →
     (3 ≤ dKind d → (s.rowIndex x).2 = false) → (x.off = 0 → s.rowErr x (rowAddr d x.row ix).1 (rowAddr d x.row ix).2 = none) →
      (∀ a, dKind d ≠ 2 → s.resolve (dSG d) p.2.2.1.toNat = .here a → inTier a = true → x.buf = none → s.badParts a n = [] →
        (s.selfOverlap d = true → p.2.1 ≤ a ∧ s.badParts (a - p.2.1) (dLen d) = []) →
          (inTier b = true → s.pinForbids (some x.ctx.val) false b n = false →
            Gives (.streamPiece id h) s fun t => (∀ j, j < n → t.readByte (b + j) = s.readByte (a + j)) ∧ BytesBut b n s t ∧ moved t) ∧
          (∀ port, tierOf b = .hostWin port → s.inWindow x.ctx.val port b n true = true →
            Gives (.streamPiece id h) s fun t => moved t ∧ (∀ y, t.readByte y = s.readByte y) ∧
              (HostOut.write port (s.windowHost x.ctx.val port b) (s.readBytes a n) false x.ctx) ∈ t.hostOut)) ∧
      (dKind d = 2 → inTier b = true → s.pinForbids (some x.ctx.val) false b n = false →
        Gives (.streamPiece id h) s fun t =>
          (∀ j, j < n → t.readByte (b + j) = BitVec.ofNat 8 ((dw d 6).fld (8 * ((x.off + j) % 8)) 8)) ∧ BytesBut b n s t ∧ moved t))

/-! The update unit. -/

/-- UPD_STAGE changes only while no user context runs and no stream is in use; a chunk that staging can take is accepted: it is staged, its
offer is gone, and USED rises by 4 KiB; one past the range, or more than 4 steps ahead, waits; one of a discarded step is dropped. REGEN and
VERIFY: ignored while one is BUSY; a bad block, or one whose words are poisoned, ends at once with MISMATCH all ones; else BUSY is set and
the command waits. VERIFY counts the elements of the working copy that differ and writes no memory; REGEN writes the working copy and
nothing else.
Poisoned words counting as a bad block is read by inference (log 39). -/
def Obligations.UpdateUnit : Prop :=
  (∀ (u : Fin 12) (sz : CsrSize) (v : Word) (s : State),
     let o := UPD_STAGE.off u.val
     let w := mergeSz (s.csrGet o) sz v
     (s.ilvFree = true →
       Gives (.updStageWrite u sz v) s fun t => t.fld o UPD_STAGE.EN = getFld w UPD_STAGE.EN ∧ t.fld o UPD_STAGE.SIZE = getFld w UPD_STAGE.SIZE ∧
         t.fld o UPD_STAGE.OFF = getFld w UPD_STAGE.OFF ∧ ∀ x, x ≠ o → t.csrGet x = s.csrGet x) ∧
     (s.ilvFree = false → exec (.updStageWrite u sz v) s = .next s) ∧
     (∀ f rest, takeFirst (s.takeable u.val) s.offers = some (f, rest) → s.offerOld f = false →
       Gives (.chunkStageAccept u) s fun t => (∀ x ∈ t.offers, x ∈ rest) ∧
         t.stageUsed u.val = (s.stageUsed u.val + 4) % 2 ^ UPD_STAGE_USE.USED.len ∧
         (s.coll? f.chunk.ctx.val f.grp f.epoch = none → t.offers = rest ∧ t.mem = s.mem) ∧
         ∃ ch, t.staged = s.staged ++ [ch] ∧ ch.ctx = f.chunk.ctx ∧ ch.step = f.chunk.step ∧ ch.block = f.chunk.block ∧ ch.gran = f.chunk.gran ∧
           ch.data = f.chunk.data) ∧
     (∀ f rest, takeFirst (s.takeable u.val) s.offers = some (f, rest) → s.offerOld f = true →
       Gives (.chunkStageAccept u) s fun t => (∀ x ∈ t.offers, x ∈ rest) ∧ t.staged = s.staged) ∧
     ((∀ f ∈ s.offers, s.takeable u.val f = false) → exec (.chunkStageAccept u) s = .next s)) ∧
  (∀ (n : CtxId) (block : Nat) (vf : Bool) (s : State) (u : UpdCmd),
     let o := CTX_UPD_CMDSTS.off n.val
     let b := block % 32768
     let i : Instr := if vf then .verify n block else .regen n block
     (s.bit o CTX_UPD_CMDSTS.BUSY = true → exec i s = .next s) ∧
     (s.bit o CTX_UPD_CMDSTS.BUSY = false → b < s.fld (CTX_UPD_TBL.off n.val) CTX_UPD_TBL.NBLK → s.usable n.val b = true →
       s.badIn (s.blockWords n.val b) = none →
       Gives i s fun t => t.bit o CTX_UPD_CMDSTS.BUSY = true ∧ t.updCmds = s.updCmds ++ [⟨n, vf, b⟩] ∧ t.mem = s.mem) ∧
     (s.bit o CTX_UPD_CMDSTS.BUSY = false → (s.fld (CTX_UPD_TBL.off n.val) CTX_UPD_TBL.NBLK ≤ b ∨ s.usable n.val b = false ∨ s.badIn (s.blockWords n.val b) ≠ none) →
       Gives i s fun t => t.bit o CTX_UPD_CMDSTS.DONE = true ∧ t.fld o CTX_UPD_CMDSTS.MISMATCH = 0xFFFFFFFF ∧ t.updCmds = s.updCmds ∧ t.mem = s.mem) ∧
     ((s.updCmds.find? fun x => x.ctx == n) = some u → (∀ a ∈ s.applies, ¬ (a.ctx = n ∧ a.block = u.block ∧ a.behind = false)) →
       let w0 := s.bdw n.val u.block 0
       let z := typeBits (dWfmt w0) / 8
       let wk := (s.bdw n.val u.block 3).fld 0 48 + ((s.bdw n.val u.block 8).fld 48 8 % dNver w0) * (s.bdw n.val u.block 4).fld 0 48
       let codes := (s.regenCodes n.val u.block).map (·.code)
       (u.verify = true → Gives (.updCommandComplete n) s fun t => t.mem = s.mem ∧ t.bit o CTX_UPD_CMDSTS.BUSY = false ∧ t.bit o CTX_UPD_CMDSTS.DONE = true ∧
         t.fld o CTX_UPD_CMDSTS.MISMATCH = min ((List.range codes.length).filter fun i => s.readNat (wk + z * i) z != codes.getD i 0).length 0xFFFFFFFF) ∧
       (u.verify = false → Gives (.updCommandComplete n) s fun t => BytesBut wk (z * codes.length) s t ∧ t.bit o CTX_UPD_CMDSTS.BUSY = false ∧
         t.bit o CTX_UPD_CMDSTS.DONE = true)))

/-- An apply under way performs its unit's next granule: the master array gets the optimiser's result under the
descriptor and set words that the apply read at its start, no byte is written outside the master,
moment and working-copy granules, and the chunk leaves staging. The first granule fixes the apply's constants. A version slot that is
protected holds the block's apply back, and a descriptor that is not usable, or whose words are poisoned, sets BADDESC and drops the
block's chunks. When every granule of a block is done, words 8 to 11 of its
descriptor are written: VERSION and the step, the count of updates, the powers of beta, and the step with the busy mark clear.
What an apply covers is read by inference (log 39). -/
def Obligations.UpdateApplies : Prop :=
  (∀ (u : Fin 12) (s : State) (a : Apply) (c : Chunk),
     let n := a.ctx.val
     s.nextWork u.val = some (a, c) →
     (∀ k, a.k = some k →
       let w0 := k.dw 0
       let opt := (k.hw 0).fld 0 4
       let w (i : Nat) : Word := k.hw i
       let am := w0.fld 0 48 + 4096 * c.gran
       let a1 := (k.dw 1).fld 0 48 + 4096 * c.gran
       let a2 := (k.dw 2).fld 0 48 + 4096 * c.gran
       let z := typeBits (dWfmt w0) / 8 * 1024
       let wk := (k.dw 3).fld 0 48 + (k.ver % dNver w0) * (k.dw 4).fld 0 48 + z * c.gran
       let el (x i : Nat) : Elem := BitVec.ofNat 32 (s.readNat (x + 4 * i) 4)
       Gives (.applyStart u) s fun t =>
         t.staged = (s.staged.filter fun x => !(x == c)) ∧
           (∀ x, (∀ j, j < 4096 → s.memKey (am + j) ≠ s.memKey x ∧ s.memKey (a1 + j) ≠ s.memKey x ∧ (opt = 2 → s.memKey (a2 + j) ≠ s.memKey x)) →
             (∀ j, j < z → s.memKey (wk + j) ≠ s.memKey x) → t.readByte x = s.readByte x) ∧
           (am % 4096 = 0 → (∀ i, i < 4096 → (∀ j, j < 4096 → s.memKey (a1 + j) ≠ s.memKey (am + i) ∧ (opt = 2 → s.memKey (a2 + j) ≠ s.memKey (am + i))) ∧
               ∀ j, j < z → s.memKey (wk + j) ≠ s.memKey (am + i)) →
             ∀ i, i < 1024 → t.readNat (am + 4 * i) 4 =
               (applyElem opt (loE (w 1)) (hiE (w 1)) (loE (w 2)) (hiE (w 2)) (loE (w 3)) (hiE (w 3)) k (el am i) (el a1 i)
                 (if opt = 2 then el a2 i else 0) (c.data.getD i 0)).1.1.toNat)) ∧
     (a.k = none → s.usable n a.block = true → s.badIn (s.applyReads n a.block a.step) = none → s.slotProtected a.ctx a.block = true →
       exec (.applyStart u) s = .next s) ∧
     (a.k = none → s.usable n a.block = true → s.badIn (s.applyReads n a.block a.step) = none → s.slotProtected a.ctx a.block = false →
       Gives (.applyStart u) s fun t => t.staged = (s.staged.filter fun x => !(x == c)) ∧ t.offers = s.offers ∧
         t.applies = updWhere (fun x => x == a) (fun x => { x with k := some (s.applyConsts a) }) s.applies) ∧
     (a.k = none → (s.usable n a.block = false ∨ s.badIn (s.applyReads n a.block a.step) ≠ none) →
       Gives (.applyStart u) s fun t => t.bit (CTX_UPD_STS.off n) CTX_UPD_STS.BADDESC = true ∧ t.mem = s.mem ∧
         ∀ x ∈ t.staged, ¬ (x.ctx = a.ctx ∧ x.step = a.step ∧ x.block = a.block))) ∧
  (∀ (n : CtxId) (b : Nat) (s : State) (a : Apply) (k : ApplyK),
     (s.applies.find? fun a => a.ctx == n && a.block == b && a.k.isSome && !s.applyLeft a) = some a → a.k = some k →
       Gives (.blockApplyComplete n b) s fun t =>
         t.bdw n.val b 8 = BitVec.ofNat 64 (put k.ver 48 + a.step % 2 ^ 48) ∧
           t.bdw n.val b 9 = BitVec.ofNat 64 (((k.dw 9).fld 0 48 + 1) % 2 ^ 48) ∧
           t.bdw n.val b 10 = BitVec.ofNat 64 (put k.b2p.toNat 32 + k.b1p.toNat) ∧ t.bdw n.val b 11 = BitVec.ofNat 64 (a.step % 2 ^ 48) ∧
           BytesBut (s.tblBase n.val + 0x800 + b * 0x80 + 64) 32 s t)


/-! Halyards and holds. -/

/-- Opening: a send halyard sends OPEN and is OPENING, or DOWN with reason 4 where its peer is unreachable, and sends it again on a retry; a
receive halyard is OPENING with a good ring and in ERROR with reason 2 with a bad one, opens on the OPEN of the peer that it names and answers
ACCEPT; a halyard that is not a receive halyard answers REJECT; ACCEPT opens the sender with full credits, REJECT puts it in ERROR. A write of
EN over EN = 1 changes nothing. Closing: EN written 0 leaves the halyard CLOSED with no send left and tells the peer of a live halyard; a
CLOSE from the peer that the halyard names puts it in DOWN with reason 5.
That the sends left at a close fail is read by inference (log 13); where a pennant holds the halyards' numbers is the model's choice
(log 70). -/
def Obligations.HalyardOpens : Prop :=
  (∀ (n : CtxId) (h : Fin 16) (v : Word) (s : State),
     let o := CTX_HAL_CFG.off n.val h.val
     let peer : PkgId := BitVec.ofNat 15 (getFld v CTX_HAL_CFG.PEER)
     let m : HalMsg := ⟨n, h, Fin.ofNat 64 (getFld v CTX_HAL_CFG.PEER_CTX), Fin.ofNat 16 (getFld v CTX_HAL_CFG.PEER_HAL)⟩
     (s.bit o CTX_HAL_CFG.EN = true → exec (.halyardOpen n h v) s = .next s) ∧
     (s.bit o CTX_HAL_CFG.EN = false → getFld v CTX_HAL_CFG.DIR = 0 →
       Gives (.halyardOpen n h v) s fun t => t.bit o CTX_HAL_CFG.EN = true ∧ t.mem = s.mem ∧
         (∀ f ∈ [CTX_HAL_CFG.DIR, CTX_HAL_CFG.PEER, CTX_HAL_CFG.PEER_HAL, CTX_HAL_CFG.PEER_CTX], t.fld o f = getFld v f) ∧
         (s.unreachable peer.toNat = false → t.hst n.val h.val = 1 ∧ SentShake peer m hkOpen 0 s t) ∧
         (s.unreachable peer.toNat = true → t.hst n.val h.val = 3 ∧ t.hsts n.val h.val CTX_HAL_STS.ERR = 4 ∧ t.rq = s.rq)) ∧
     (s.bit o CTX_HAL_CFG.EN = false → getFld v CTX_HAL_CFG.DIR = 1 →
       Gives (.halyardOpen n h v) s fun t => t.bit o CTX_HAL_CFG.EN = true ∧ t.rq = s.rq ∧ t.mem = s.mem ∧
         (t.ringOk n.val h.val = false → t.hst n.val h.val = 4 ∧ t.hsts n.val h.val CTX_HAL_STS.ERR = 2) ∧
         (t.ringOk n.val h.val = true → t.hst n.val h.val = if s.unreachable peer.toNat then 3 else 1)) ∧
     (s.hst n.val h.val = 1 → s.hRecv n.val h.val = false →
       Gives (.halyardOpenRetry n h) s fun t => SentShake (s.hPeer n.val h.val) (s.hMsg n h.val) hkOpen 0 s t ∧ t.csr = s.csr ∧ t.mem = s.mem) ∧
     (s.bit o CTX_HAL_CFG.EN = true → s.halLive n.val h.val = true → (s.hal n.val h.val).sends = [] →
       Gives (.halyardClose n h) s fun t => t.bit o CTX_HAL_CFG.EN = false ∧ t.hst n.val h.val = 0 ∧ t.hsts n.val h.val CTX_HAL_STS.LEVEL = 0 ∧
         SentShake (s.hPeer n.val h.val) (s.hMsg n h.val) hkClose 0 s t ∧ t.mem = s.mem) ∧
     (s.bit o CTX_HAL_CFG.EN = false → exec (.halyardClose n h) s = .next s)) ∧
  (∀ (pn : Pennant) (s : State),
     let m := Pennant.halMsg pn
     let x := m.dstCtx.val
     let y := m.dstHal.val
     let k := Pennant.halKind pn
     let arg := Pennant.halArg pn
     let shape := s.hcfg x y CTX_HAL_CFG.SLOTS * 2 ^ 12 + s.hcfg x y CTX_HAL_CFG.SLOT_SZ
     pn.typ.toNat = tMGMT →
     (k = hkOpen → s.bit (CTX_HAL_CFG.off x y) CTX_HAL_CFG.EN = true →
       (s.hRecv x y = false → Gives (.openPennantReceive (headOf pn) (tailOf pn)) s fun t => SentShake pn.src (halBack m) hkReject 0 s t ∧ t.csr = s.csr) ∧
       (s.hRecv x y = true → (s.hst x y = 1 ∨ s.hst x y = 2) → s.hNames pn.src m = true →
         Gives (.openPennantReceive (headOf pn) (tailOf pn)) s fun t => t.hst x y = 2 ∧ SentShake pn.src (halBack m) hkAccept shape s t)) ∧
     (k = hkAccept → s.answers pn.src m = true → 2 ^ (arg / 2 ^ 12 % 16) < 2 ^ CTX_HAL_STS.LEVEL.len →
       Gives (.acceptReceive (headOf pn) pn.eseq pn.addr pn.payload) s fun t => t.hst x y = 2 ∧ t.hsts x y CTX_HAL_STS.LEVEL = 2 ^ (arg / 2 ^ 12 % 16) ∧
         (t.hal x y).slotSz = arg % 2 ^ 12 ∧ t.mem = s.mem) ∧
     (k = hkReject → s.answers pn.src m = true →
       Gives (.rejectReceive (headOf pn) (tailOf pn)) s fun t => t.hst x y = 4 ∧ t.hsts x y CTX_HAL_STS.ERR = 1 ∧ (t.hal x y).sends = []) ∧
     (s.answers pn.src m = false → (k = hkAccept → Gives (.acceptReceive (headOf pn) pn.eseq pn.addr pn.payload) s fun t => t.csr = s.csr ∧ t.hals = s.hals) ∧
       (k = hkReject → Gives (.rejectReceive (headOf pn) (tailOf pn)) s fun t => t.csr = s.csr ∧ t.hals = s.hals)) ∧
     ((k = hkClose ∨ k = hkRefused) → s.halLive x y = true → s.hNames pn.src m = true →
       Gives (.closeReceive (headOf pn) (tailOf pn)) s fun t => t.hst x y = (if k = hkClose then 3 else 4) ∧
         t.hsts x y CTX_HAL_STS.ERR = (if k = hkClose then 5 else 2) ∧ (t.hal x y).sends = [] ∧ t.mem = s.mem))

/-- Sending: a doorbell queues its descriptor, up to 64, and sets QFULL beyond; the first send that has not started takes one credit and its
sequence number and leaves on VC2 as its payload 64 bytes at a time and then its header, and a bad descriptor takes it from the queue; the
oldest under way whose DLV selects the point reached completes. Credits that return raise LEVEL to 256 at most, each pennant counted once.
Where a pennant holds the halyards' numbers, and how a delivery elsewhere is reported, is the model's choice (log 70). -/
def Obligations.HalyardSends : Prop :=
  ∀ (n : CtxId) (h : Fin 16) (cid : CoreId) (pn : Pennant) (v : Word) (dlv : Bool) (s : State),
    let y := h.val
    let m := Pennant.halMsg pn
    let q := s.hsts n.val y CTX_HAL_STS.QUEUED
    (s.hRecv n.val y = false → s.bit (CTX_HAL_CFG.off n.val y) CTX_HAL_CFG.EN = true → (s.hst n.val y = 1 ∨ s.hst n.val y = 2) →
      (q < 64 → Gives (.halyardDoorbell n h cid v) s fun t =>
        (t.hal n.val y).sends = (s.hal n.val y).sends ++ [⟨v.fld 6 42 * 64, coreKey cid, false, 0, 0⟩] ∧ t.hsts n.val y CTX_HAL_STS.QUEUED = q + 1) ∧
      (64 ≤ q → Gives (.halyardDoorbell n h cid v) s fun t => t.hal n.val y = s.hal n.val y ∧ t.hsts n.val y CTX_HAL_STS.QFULL = 1 ∧
        t.hsts n.val y CTX_HAL_STS.QUEUED = q)) ∧
    (∀ x, (s.hal n.val y).sends.find? (fun x => !x.started) = some x → s.hst n.val y = 2 → s.hsts n.val y CTX_HAL_STS.LEVEL ≠ 0 →
      (s.ctx n.val).suspend = none → (s.ctx n.val).st ≠ .suspended →
      let d := bytesToWords 8 (s.readBytes x.desc 64)
      let a := (dw d 0).fld 0 48
      let len := (dw d 1).fld 0 32
      let lead (p : Pennant) : Prop := p.typ.toNat = tHDATA ∧ p.vc.toNat = 2 ∧ p.dst = s.hPeer n.val y ∧ Pennant.halMsg p = s.hMsg n y
      (s.sendBad n.val x.desc d ((s.hal n.val y).slotSz * 4096) = true →
        Gives (.halyardSendStart n h) s fun t => (t.hal n.val y).sends = (s.hal n.val y).sends.erase x ∧
          t.hsts n.val y CTX_HAL_STS.QUEUED = q - 1 ∧ t.rq = s.rq ∧ t.mem = s.mem) ∧
      (s.sendBad n.val x.desc d ((s.hal n.val y).slotSz * 4096) = false → s.poisoned x.desc 64 = false →
        Gives (.halyardSendStart n h) s fun t =>
          (∃ ps hd, t.rq = s.rq ++ (ps ++ [hd]).map (fun p => RIn.mk p none none false) ∧ ps.length = (len + 63) / 64 ∧
            (∀ i p, ps[i]? = some p → lead p ∧ Pennant.halKind p = hkPayload ∧ Pennant.halArg p = i ∧
              Pennant.bytes p (min 64 (len - 64 * i)) = s.readBytes (a + 64 * i) (min 64 (len - 64 * i))) ∧
            lead hd ∧ Pennant.halKind hd = hkHeader ∧ (Pennant.held hd).take 24 =
              leBytes 8 (len * 2 ^ 32 + s.hsts n.val y CTX_HAL_STS.SEQ) ++ leBytes 8 ((dw d 1).fld 32 24) ++ leBytes 8 s.time) ∧
          t.hsts n.val y CTX_HAL_STS.LEVEL = s.hsts n.val y CTX_HAL_STS.LEVEL - 1 ∧
          t.hsts n.val y CTX_HAL_STS.SEQ = (s.hsts n.val y CTX_HAL_STS.SEQ + 1) % 2 ^ 32 ∧ t.mem = s.mem)) ∧
    (∀ x, (s.hal n.val y).sends.find? (fun x => x.started && sDlv x.word2 == dlv) = some x → (dlv = true → s.wasDelivered n.val y x = true) →
      x.core ≠ noCore → s.hatching n.val = false → (s.ctx n.val).saveAt = none →
      Gives (.halyardSendComplete n ⟨h, dlv⟩) s fun t => (t.hal n.val y).sends = (s.hal n.val y).sends.erase x ∧
        t.hsts n.val y CTX_HAL_STS.QUEUED = q - 1 ∧
        t.incs = s.incs ++ (if sEve x.word2 then [⟨x.core, n, sEv x.word2, sEvInc x.word2⟩] else [])) ∧
    (pn.typ.toNat = tHCRED → s.hRecv m.dstCtx.val m.dstHal.val = false → s.hst m.dstCtx.val m.dstHal.val = 2 → s.hNames pn.src m = true →
      Gives (.hcredReceive (headOf pn) pn.eseq (partOf pn)) s fun t => t.hst m.dstCtx.val m.dstHal.val = 2 ∧ t.hsts m.dstCtx.val m.dstHal.val CTX_HAL_STS.LEVEL =
        if (s.eseqIn pn).2 then min 256 (s.hsts m.dstCtx.val m.dstHal.val CTX_HAL_STS.LEVEL + Pennant.halArg pn)
        else s.hsts m.dstCtx.val m.dstHal.val CTX_HAL_STS.LEVEL)

/-- Receiving: a pennant whose sequence number is accepted puts its payload at its own offset past byte 64 of the slot that the sequence number
names and on no other byte; a header of the number due goes to offset 0, raises LEVEL and SEQ and is signalled, and one of another number does
nothing; one that is not accepted does nothing; a release frees the oldest slots and returns their credits, one of more than LEVEL setting
RELERR.
The order of slots and credits at the port is the model's choice (log 17), and so is where a pennant holds its offset (log 70). -/
def Obligations.HalyardReceives : Prop :=
  ∀ (n : CtxId) (h : Fin 16) (pn : Pennant) (k : Nat) (s : State),
    let m := Pennant.halMsg pn
    let x := m.dstCtx.val
    let y := m.dstHal.val
    let sq := s.hsts x y CTX_HAL_STS.SEQ
    let slot := s.ringBase x y + sq % s.ringSlots x y * s.slotBytes x y
    let z := slot + 64 + 64 * Pennant.halArg pn
    let put := (Pennant.bytes pn (pn.len.toNat + 1)).take (s.slotBytes x y - 64 - 64 * Pennant.halArg pn)
    let lv := s.hsts n.val h.val CTX_HAL_STS.LEVEL
    let f := min (k % 512) lv
    (pn.typ.toNat = tHDATA → s.hRecv x y = true → s.hst x y = 2 → s.hNames pn.src m = true →
      ((s.eseqIn pn).2 = true → Pennant.halKind pn = hkPayload → s.pinForbids (some x) false z put.length = false →
        Gives (.hdataReceive (headOf pn) pn.eseq (partOf pn)) s fun t => BytesBut z put.length s t ∧ t.hsts x y CTX_HAL_STS.SEQ = sq ∧
          ((∀ i j, i < j → j < put.length → s.memKey (z + i) ≠ s.memKey (z + j)) → ∀ i, i < put.length → t.readByte (z + i) = put.getD i 0)) ∧
      ((s.eseqIn pn).2 = true → Pennant.halKind pn ≠ hkPayload → leNat ((Pennant.held pn).take 4) = sq →
        s.pinForbids (some x) false slot 64 = false → s.hsts x y CTX_HAL_STS.LEVEL + 1 < 2 ^ CTX_HAL_STS.LEVEL.len →
        Gives (.hdataReceive (headOf pn) pn.eseq (partOf pn)) s fun t => BytesBut slot 64 s t ∧
          (slot % 64 = 0 → t.readNat slot 8 = leNat ((Pennant.held pn).take 8) ∧ t.readNat (slot + 16) 8 = leNat (((Pennant.held pn).drop 16).take 8)) ∧
          t.hsts x y CTX_HAL_STS.LEVEL = s.hsts x y CTX_HAL_STS.LEVEL + 1 ∧ t.hsts x y CTX_HAL_STS.SEQ = (sq + 1) % 2 ^ 32) ∧
      (((s.eseqIn pn).2 = false ∨ (Pennant.halKind pn ≠ hkPayload ∧ leNat ((Pennant.held pn).take 4) ≠ sq)) →
        Gives (.hdataReceive (headOf pn) pn.eseq (partOf pn)) s fun t => t.mem = s.mem ∧ t.hsts x y CTX_HAL_STS.SEQ = sq ∧
          t.hsts x y CTX_HAL_STS.LEVEL = s.hsts x y CTX_HAL_STS.LEVEL)) ∧
    (s.hRecv n.val h.val = true →
      Gives (.halyardRelease n h k) s fun t => t.hsts n.val h.val CTX_HAL_STS.LEVEL = lv - f ∧ t.mem = s.mem ∧
        (lv < k % 512 → t.hsts n.val h.val CTX_HAL_STS.RELERR = 1) ∧
        (f ≠ 0 → s.hst n.val h.val = 2 → ∃ p, t.rq = s.rq ++ [⟨p, none, none, false⟩] ∧ p.typ.toNat = tHCRED ∧ p.vc.toNat = 2 ∧
          p.dst = s.hPeer n.val h.val ∧ Pennant.halMsg p = s.hMsg n h.val ∧ Pennant.halArg p = f) ∧
        ((f = 0 ∨ s.hst n.val h.val ≠ 2) → t.rq = s.rq))

/-- Holds: an acquire of a tag that R334 permits makes an entry of count 1 or counts up; one that it does not permit, and a release without an
entry, is an ILLEGAL_OPERAND fault of the holder, with the class, operation and pc of the store that asked; a release counts down and the
last one frees the entry.
The unit of that fault is the model's choice (log 69). -/
def Obligations.VersionHolds : Prop :=
  ∀ (cid : CoreId) (n owner : CtxId) (tag : Nat) (s : State),
    let g := tag % 256
    let a := csrBase + CTX_VHOLD.off n.val
    let e := s.vholds.find? fun h => h.holder == n && h.owner == owner && h.tag == g
    let st := (s.allFlights (coreKey cid)).find? fun f => match f.op with | .store _ => f.remote.isNone && f.addr == a | _ => false
    let fault : State := { s with faults := s.faults ++ [match st with
      | some f => ⟨n, .illegalOperand, f.cls, f.opc, f.pc, a, unitPkg, s.time⟩
      | none => ⟨n, .illegalOperand, 0, 0, 0, a, unitPkg, s.time⟩] }
    (s.holdOk n owner g = true → e = none → s.vholds.length < 1024 →
      Gives (.vholdAcquire cid n owner tag) s fun t => t.vholds = s.vholds ++ [⟨n, owner, g, 1⟩] ∧ t.cores = s.cores ∧ t.mem = s.mem) ∧
    (∀ h, s.holdOk n owner g = true → e = some h → h.count < 0xFFFF →
      Gives (.vholdAcquire cid n owner tag) s fun t => { h with count := h.count + 1 } ∈ t.vholds ∧ t.vholds.length = s.vholds.length) ∧
    (s.hatching n.val = false → s.holdOk n owner g = false → exec (.vholdAcquire cid n owner tag) s = .next fault) ∧
    (s.hatching n.val = false → e = none → exec (.vholdRelease cid n owner tag) s = .next fault) ∧
    (∀ h, e = some h → h.count = 1 →
      Gives (.vholdRelease cid n owner tag) s fun t => t.vholds = s.vholds.filter (fun x => x != h) ∧ t.mem = s.mem) ∧
    (∀ h, e = some h → 1 < h.count →
      Gives (.vholdRelease cid n owner tag) s fun t => { h with count := h.count - 1 } ∈ t.vholds ∧ t.vholds.length = s.vholds.length)

/-! Fabric ports. -/

/-- Training: EN lets a port with a direction leave DISABLED for DETECT, signal takes a port in DETECT to LANE_CHECK with its configuration and
direction latched, and a port in DOWN, or in SHUT after 100 ms without signal, to DETECT; lane check, block lock and equalisation move it on,
each only from its own state; EN written 0 disables it from any state, and a write of the lower half alone starts or stops nothing. -/
def Obligations.PortTrains : Prop :=
  ∀ (p : PortId) (sz : CsrSize) (v : Word) (ms : Nat) (op sh inv : BitVec 8) (s : State),
    let n := p.val
    let o := FAB_LANE.off n
    let w := mergeSz (s.csrGet (FAB_CFG.off n)) sz v
    let f := s.fport n
    (sz ≠ .lo32 → s.pst n = 0 → getFld w FAB_CFG.EN = 1 → s.allocDir n ≠ 7 →
      Gives (.fabCfgWrite p sz v) s fun t => t.pst n = 1 ∧ (t.fport n).dir = s.allocDir n ∧ t.bit (FAB_CFG.off n) FAB_CFG.EN = true ∧
        t.fld (FAB_CFG.off n) FAB_CFG.MINW = (if getFld w FAB_CFG.MINW = 0 then s.fld (FAB_CFG.off n) FAB_CFG.MINW else getFld w FAB_CFG.MINW) ∧
        t.mem = s.mem) ∧
    (sz ≠ .lo32 → getFld w FAB_CFG.EN = 0 → Gives (.fabCfgWrite p sz v) s fun t => t.pst n = 0 ∧ t.bit (FAB_CFG.off n) FAB_CFG.EN = false) ∧
    (sz = .lo32 → Gives (.fabCfgWrite p sz v) s fun t => t.pst n = s.pst n ∧ t.bit (FAB_CFG.off n) FAB_CFG.EN = s.bit (FAB_CFG.off n) FAB_CFG.EN) ∧
    (s.pst n = 1 → Gives (.portSignalDetect p ms) s fun t => t.pst n = (if s.allocDir n = 7 then 0 else 2) ∧
      (t.fport n).cfg = s.csrGet (FAB_CFG.off n) ∧ (t.fport n).dir = s.allocDir n ∧ (t.fport n).signal = true) ∧
    ((s.pst n = 8 ∨ (s.pst n = 9 ∧ 100 ≤ ms)) → Gives (.portSignalDetect p ms) s fun t => t.pst n = 1 ∧ (t.fport n).dir = f.dir) ∧
    (s.pst n = 9 → ms < 100 → exec (.portSignalDetect p ms) s = .next s) ∧
    (s.pst n = 1 → Gives (.detectRepeat p) s fun t => t.pst n = 1 ∧ (t.fport n).signal = false ∧ t.csr = s.csr) ∧
    (s.pst n = 2 → Gives (.laneCheckComplete p op sh) s fun t => t.pst n = 3 ∧ t.fld o FAB_LANE.OPEN = op.toNat ∧ t.fld o FAB_LANE.SHORT = sh.toNat ∧
      t.fld o FAB_LANE.BAD = (if f.newBad then s.fld o FAB_LANE.BAD else 0) ||| op.toNat ||| sh.toNat) ∧
    (s.pst n = 3 → Gives (.blockLock p inv) s fun t => t.pst n = 4 ∧ t.fld o FAB_LANE.POLINV = inv.toNat) ∧
    (s.pst n = 3 → getFld f.cfg FAB_CFG.LH = 1 → getFld f.cfg FAB_CFG.RATE64 = 0 →
      exec (.rateSwitchTimer p) s = .next (s.modFport n fun f => { f with fast := !f.fast })) ∧
    (s.pst n = 5 → Gives (.equalisationComplete p) s fun t => t.pst n = 6 ∧ t = { s with csr := t.csr }) ∧
    (s.pst n ≠ 2 → exec (.laneCheckComplete p op sh) s = .next s) ∧ (s.pst n ≠ 3 → exec (.blockLock p inv) s = .next s) ∧
    (s.pst n ≠ 5 → exec (.equalisationComplete p) s = .next s)

/-- The identity block that the configuration expects names the peer and goes on to RATE; one that shows a mismatch shutters the port
with its cause, one with SHUT set with cause 6. Deskew, with no equalisation left to do, makes the port ACTIVE with its widths, or SHUT with
cause 4 below MINW. The first round trip is kept in FAB_RTT and decides long-haul mode. Loss of signal, of block lock or of blocks takes an
ACTIVE port DOWN with cause 8, or SHUT with cause 5 when it flaps, its pennants handed back first in order; RETRAIN starts full training in any
state but DISABLED; SHUTTER shutters the port with cause 7.
Signal loss acting in ACTIVE only, and CAUSE under EN = 0, are read by inference (log 43). -/
def Obligations.PortUpAndDown : Prop :=
  (∀ (p : PortId) (i : Identity) (ns : BitVec 32) (s : State),
     let n := p.val
     let f := s.fport n
     let kt1 := s.fsts n FAB_STS.PEER_GEN == 1
     let rx := widthOf f.good.1 kt1
     let tx := widthOf f.good.2 kt1
     let minw := 2 ^ getFld f.cfg FAB_CFG.MINW
     let aligned := s.pst n = 6 ∨ (s.pst n = 5 ∧ s.eqDue n = false)
     (s.pst n = 4 → i.shut = false → s.identBad n i = 0 →
       Gives (.identityBlockReceive p i) s fun t => t.pst n = 5 ∧ t.fsts n FAB_STS.PEER_ID = i.pkg.toNat ∧
         t.fsts n FAB_STS.PEER_PORT = i.port.val) ∧
     (s.pst n = 4 → i.shut = false → s.identBad n i ≠ 0 →
       Gives (.identityBlockReceive p i) s fun t => t.pst n = 9 ∧ t.fsts n FAB_STS.CAUSE = s.identBad n i) ∧
     (s.pst n ≠ 0 → s.pst n ≠ 9 → i.shut = true →
       Gives (.identityBlockReceive p i) s fun t => t.pst n = 9 ∧ t.fsts n FAB_STS.CAUSE = 6 ∧ t.fsts n FAB_STS.WIDTH = 0) ∧
     (aligned → minw ≤ rx → minw ≤ tx →
       Gives (.portActive p) s fun t => t.pst n = 7 ∧ t.fsts n FAB_STS.WIDTH = rx ∧ t.fsts n FAB_STS.TXW = tx ∧
         t.bit (FAB_EVT.off n) FAB_EVT.TRAINED = true ∧ (t.fport n).win = [] ∧ (t.fport n).nextSeq = 0) ∧
     (aligned → (rx < minw ∨ tx < minw) → Gives (.portActive p) s fun t => t.pst n = 9 ∧ t.fsts n FAB_STS.CAUSE = 4) ∧
     (s.pst n = 7 → Gives (.rttMeasured p ns) s fun t => t.pst n = 7 ∧ t.fld (FAB_RTT.off n) FAB_RTT.NS = ns.toNat ∧
       (s.bit (FAB_LHCFG.off n) FAB_LHCFG.PAIRV = false → t.mem = s.mem) ∧
       (getFld f.cfg FAB_CFG.LH = 1 → f.lhDone = false → s.bit (FAB_LHCFG.off n) FAB_LHCFG.PAIRV = false →
         if s.lhRefused n then t.bit (FAB_EVT.off n) FAB_EVT.LH_REFUSED = true ∧ t.fsts n FAB_STS.LH_ACT = s.fsts n FAB_STS.LH_ACT
         else t.fsts n FAB_STS.LH_ACT = 1))) ∧
  (∀ (p : PortId) (s : State),
     let n := p.val
     let downs (i : Instr) : Prop := Gives i s fun t => t.pst n = (if s.flaps n then 9 else 8) ∧
       t.fsts n FAB_STS.CAUSE = (if s.flaps n then 5 else 8) ∧ t.fsts n FAB_STS.WIDTH = 0 ∧ t.rq = s.handed n ++ s.rq
     (s.pst n = 7 → s.fsts n FAB_STS.PAIR_ACT = 0 → downs (.portSignalLoss p) ∧ downs (.blockReceiveTimeout p)) ∧
     (s.pst n ≠ 0 → Gives (.retrain p) s fun t => t.pst n = 1 ∧ (t.fport n).lastRate = 0) ∧
     (s.pst n = 0 → exec (.retrain p) s = .next s) ∧
     Gives (.shutter p) s fun t => t.pst n = 9 ∧ t.fsts n FAB_STS.CAUSE = 7)

/-- Blocks: a block of new pennants takes the next sequence number and stays in the window; with a full window an idle block leaves; an idle block
leaves after 1 µs of silence, and an identity block in IDENT and SHUT; the retry timer resends the oldest block without ACK, and a block due for
resending leaves as it was until it has been resent RETRY_MAX times, which takes the port down with cause 9. Of the bytes on the lanes, a good
block in sequence delivers its pennants in order and advances; a bad block, and one out of sequence, is counted and makes NAK due. -/
def Obligations.PortBlocks : Prop :=
  (∀ (p : PortId) (s : State),
     let n := p.val
     let f := s.fport n
     let ident (t : State) : Prop := (t.fport n).out = f.out ++ [⟨f.trailer f.nextSeq, btIdent, [], some (s.ownIdentity n), []⟩] ∧ t.csr = s.csr
     (s.pst n = 4 ∨ s.pst n = 9) → Gives (.linkBlockSend p) s ident ∧ Gives (.idleBlockTimer p) s ident) ∧
  (∀ (p : PortId) (lanes : List (List Byte)) (s : State),
     let n := p.val
     let f := s.fport n
     let idle (t : State) : Prop := (t.fport n).win = f.win ∧ t.csr = s.csr ∧ (t.fport n).out = f.out ++
       [⟨f.trailer f.nextSeq, btIdle, [], none, (s.onLanes n (blockBytes (f.trailer f.nextSeq) btIdle [])).1⟩]
     let fresh := f.msStart + 1000000 ≤ s.time
     let bad := if fresh then 0 else f.msBad
     let within (corr : List Nat) : Prop := ∀ l, l < 8 → (if fresh then 0 else f.msCorr.getD l 0) + corr.getD l 0 ≤ s.fld (FAB_ERRCTL.off n) FAB_ERRCTL.LANE_LIM
     let unc := s.fld (FAB_ERRCTL.off n) FAB_ERRCTL.UNC_LIM
     let counted (t : State) : Prop := t.fld (FAB_ERRCNT.off n) FAB_ERRCNT.UNCORR =
       min (s.fld (FAB_ERRCNT.off n) FAB_ERRCNT.UNCORR + 1) (2 ^ FAB_ERRCNT.UNCORR.len - 1)
     let r := (s.rxLine n lanes).1
     s.pst n = 7 → s.fsts n FAB_STS.PAIR_ACT = 0 →
     (f.resend = none → f.win.length < s.winBlocks n → (FPort.fill (s.poolSlots n) 6 f).1 ≠ [] →
       Gives (.linkBlockSend p) s fun t => ∃ pens b, pens ≠ [] ∧ pens.length ≤ 6 ∧ (t.fport n).win = f.win ++ [⟨f.nextSeq, pens, false⟩] ∧
         (t.fport n).nextSeq = (f.nextSeq + 1) % 2 ^ 24 ∧ (t.fport n).out = f.out ++ [b] ∧ (t.fport n).nakDue = false ∧
         b.typ = btData ∧ b.slots = pens.map (wirePen (s.peerKt1 n)) ∧ b.trailer.bseq = BitVec.ofNat 24 f.nextSeq) ∧
     (f.resend = none → s.winBlocks n ≤ f.win.length → Gives (.linkBlockSend p) s idle) ∧
     Gives (.idleBlockTimer p) s idle ∧
     (∀ b, (f.resend.bind fun q => f.win.find? fun b => b.seq == q) = some b →
       let k := if f.resent.1 = b.seq then f.resent.2 else 0
       let lim := max 1 (s.fld (FAB_ERRCTL.off n) FAB_ERRCTL.RETRY_MAX)
       (k < lim → Gives (.linkBlockSend p) s fun t => (t.fport n).win = f.win ∧ ∃ x, (t.fport n).out = f.out ++ [x] ∧ x.typ = btData ∧
         x.slots = (s.winPens n b).map (wirePen (s.peerKt1 n)) ∧ x.trailer.bseq = BitVec.ofNat 24 b.seq) ∧
       (lim ≤ k → s.flaps n = false → Gives (.linkBlockSend p) s fun t => t.pst n = 8 ∧ t.fsts n FAB_STS.CAUSE = 9)) ∧
     (∀ b, f.win.find? (fun b => !b.acked) = some b → exec (.retryTimeout p) s = .next (s.modFport n fun f => { f with resend := some b.seq })) ∧
     (∀ corr, r = .bad corr → within corr → bad + 1 ≤ unc → f.nakAt = none →
       Gives (.linkBlockReceive p lanes) s fun t => t.pst n = 7 ∧ (t.fport n).nakDue = true ∧ t.rq = s.rq ∧ counted t) ∧
     (∀ tr corr, (r = .idle tr corr ∨ r = .other corr) → within corr → bad ≤ unc →
       Gives (.linkBlockReceive p lanes) s fun t => t.pst n = 7 ∧ (t.fport n).rxNext = f.rxNext ∧ t.rq = s.rq) ∧
     (∀ tr slots corr, r = .data tr slots corr → within corr → bad ≤ unc →
       (tr.bseq.toNat = f.rxNext → (∀ pn, some pn ∈ slots → penOk (s.peerKt1 n) pn = true) →
         Gives (.linkBlockReceive p lanes) s fun t => t.pst n = 7 ∧ (t.fport n).rxNext = (f.rxNext + 1) % 2 ^ 24 ∧
           t.rq = s.rq ++ (slots.filterMap id).zipIdx.map fun x => RIn.mk x.1 (some (opp f.dir)) (some (n, f.nextRx + x.2)) false) ∧
       (tr.bseq.toNat ≠ f.rxNext → f.nakAt = none →
         Gives (.linkBlockReceive p lanes) s fun t => t.pst n = 7 ∧ (t.fport n).nakDue = true ∧ (t.fport n).rxNext = f.rxNext ∧
           t.rq = s.rq ∧ counted t)))

/-! The routing plane. -/

/-- A write to ROUTE_DIMS or ROUTE_SLICE sets its fields, but ORDER 6 and 7 leave that field, ends every group and rewrites the rings. A pennant
for this package is delivered, read from the receive queue where it waits there; one for another goes to the port of its direction on its channel;
with none to move, the next request whose destination can be reached becomes pennants and is outstanding, and one to an unreachable package is
counted.
The routing plane's record code is the model's (log 18), local refusal of an unreachable request is read by inference (log 44). -/
def Obligations.Routing : Prop :=
  (∀ (sz : CsrSize) (v : Word) (s : State),
     let w := mergeSz (s.csrGet ROUTE_DIMS.off) sz v
     let x := mergeSz (s.csrGet ROUTE_SLICE.off) sz v
     let rings (t : State) : Prop := ∀ a, a < 3 → t.csrGet (ROUTE_RING.off a) = t.ringWord a
     (Gives (.routeDimsWrite sz v) s fun t =>
       (∀ f ∈ [ROUTE_DIMS.VALID, ROUTE_DIMS.WZ, ROUTE_DIMS.WY, ROUTE_DIMS.WX, ROUTE_DIMS.NZ, ROUTE_DIMS.NY, ROUTE_DIMS.NX, ROUTE_DIMS.SELF],
         t.fld ROUTE_DIMS.off f = getFld w f) ∧
       t.fld ROUTE_DIMS.off ROUTE_DIMS.ORDER = (if getFld w ROUTE_DIMS.ORDER < 6 then getFld w ROUTE_DIMS.ORDER else s.fld ROUTE_DIMS.off ROUTE_DIMS.ORDER) ∧
       rings t ∧ t.mem = s.mem) ∧
     Gives (.routeSliceWrite sz v) s fun t =>
       (∀ f ∈ [ROUTE_SLICE.VALID, ROUTE_SLICE.PERM, ROUTE_SLICE.EZ, ROUTE_SLICE.EY, ROUTE_SLICE.EX, ROUTE_SLICE.OZ, ROUTE_SLICE.OY, ROUTE_SLICE.OX],
         t.fld ROUTE_SLICE.off f = getFld x f) ∧ rings t ∧ t.mem = s.mem) ∧
  (∀ (s : State) (r : RIn),
     let dst := r.pn.dst.toNat
     let x := ({ s with rq := [] } : State).fetchIn r
     (s.rq = [r] → x.1.pn.dtr = false → x.1.pn.dst.toNat = x.2.self → x.1.pn.typ.toNat ≠ tMGMT →
       exec .routePennant s = .next { x.2 with inbox := x.2.inbox ++ [x.1] }) ∧
     ((∀ o, r.origin = some o → s.fsts o.1 FAB_STS.LH_ACT = 0) → x = (r, { s with rq := [] })) ∧
     (∀ d inj p, s.rq = [r] → x = (r, { s with rq := [] }) → r.pn.dtr = false → dst ≠ s.self → s.noSuchPkg dst = false → r.pn.hops.toNat < 255 → s.routeDir r.arr dst = (d, inj) →
       s.dirUp d = true → (s.det d).st ≠ .tear → s.penPort d r.pn.vc.toNat r.pn = some p →
         Gives .routePennant s fun t => t.rq = [] ∧ t.inbox = s.inbox ∧
           ∃ q, (t.fport p).txq = (s.fport p).txq ++ [q] ∧ q.pn = r.pn ∧ q.vc = r.pn.vc.toNat ∧ q.inj = inj ∧ q.origin = r.origin) ∧
     (∀ q, s.rq = [] → s.newReqs = [q] → s.unreachable q.dst.toNat = false → s.outPens q.dst q.vc + q.pens ≤ 16384 →
       Gives .routePennant s fun t => t.newReqs = [] ∧ t.rq.length = q.pens ∧ ∃ x, t.oreqs = s.oreqs ++ [x] ∧ x.req = q ∧ x.vc = q.vc ∧ x.sent = s.time) ∧
     (∀ q, s.rq = [] → s.newReqs = [q] → q.ref = .none → s.unreachable q.dst.toNat = true →
       Gives .routePennant s fun t => t.newReqs = [] ∧ t.oreqs = s.oreqs ∧
         t.fld ROUTE_STS.off ROUTE_STS.UNREACH = min (s.fld ROUTE_STS.off ROUTE_STS.UNREACH + 1) (2 ^ ROUTE_STS.UNREACH.len - 1)))

/-- Requests of other packages: a WRITE in sequence that is permitted stores its payload and no other byte, one that is not stores nothing, and the
last pennant of a message makes its acknowledgement due; a READ is answered with the bytes read; an ATOMIC goes to the unit of its word; a
duplicate has no effect but a count.
What a malformed READ or ATOMIC does is the model's choice (log 19). -/
def Obligations.ServesRequests : Prop :=
  ∀ (pn : Pennant) (s : State) (rest : List RIn) (r : RIn) (e : Nat) (fl : Bool),
    let k := flowKey pn.src.toNat pn.vc.toNat
    let n := pn.len.toNat + 1
    let a := pn.addr.toNat
    takeFirst (fun x : RIn => x.pn == pn) s.inbox = some (r, rest) → r.origin = none → tget? s.eseqRx k = some (e, fl) → pn.eseq.toNat ≠ 0 →
    (pn.eseq.toNat % 65535 = e % 65535 →
      (s.remoteOk pn.src.toNat a n true = true → a % 4096 + n ≤ 4096 → n ≤ 64 →
        Gives (.writeReceive pn) s fun t => (∀ j, j < n → (Pennant.bytes pn n)[j]? = some (t.readByte (a + j))) ∧ BytesBut a n s t ∧ t.inbox = rest) ∧
      (s.remoteOk pn.src.toNat a n true = false → pn.last = true →
        Gives (.writeReceive pn) s fun t => t.mem = s.mem ∧ t.inbox = rest ∧ t.wacks = s.wacks ++ [⟨pn.src, pn.vc.toNat, pn.eseq, pn.ctx, false⟩]) ∧
      (s.remoteOk pn.src.toNat a n true = true → pn.last = true → tget 0 s.wbad k = 0 →
        Gives (.writeReceive pn) s fun t => t.wacks = s.wacks ++ [⟨pn.src, pn.vc.toNat, pn.eseq, pn.ctx, true⟩]) ∧
      (let len := leNat ((Pennant.held pn).take 4)
       0 < len → a % 4096 + len ≤ 4096 → s.remoteOk pn.src.toNat a len false = true →
        Gives (.readReceive pn) s fun t => t.mem = s.mem ∧ t.inbox = rest ∧ t.resps.length = s.resps.length + (len + 63) / 64 ∧
          ∀ i, i < (len + 63) / 64 → ∃ q, t.resps[s.resps.length + i]? = some q ∧ q.typ.toNat = tRDATA ∧ q.dst = pn.src ∧
            q.payload = payloadOf (s.readBytes (a + 64 * i) (min 64 (len - 64 * i))) ∧ q.poison = s.poisoned (a + 64 * i) (min 64 (len - 64 * i))) ∧
      (∀ u, let op := leNat ((Pennant.held pn).take 1)
       s.atomUnit a = some u → op ≤ 2 → a % 8 = 0 → s.remoteOk pn.src.toNat a 8 (op != 2) = true →
        Gives (.atomicReceive pn) s fun t => t.mem = s.mem ∧ t.inbox = rest ∧
          ∃ q, t.serving = s.serving ++ [q] ∧ q.src = pn.src ∧ q.unit = u ∧ q.addr = a ∧ q.op = op ∧ q.wait = true)) ∧
    (32768 ≤ (pn.eseq.toNat + 65535 - e) % 65535 → e ≤ 65535 →
      Gives (.writeReceive pn) s fun t => t.mem = s.mem ∧ t.wacks = s.wacks ∧
        t.fld ROUTE_STS.off ROUTE_STS.DUP = min (s.fld ROUTE_STS.off ROUTE_STS.DUP + 1) (2 ^ ROUTE_STS.DUP.len - 1))

/-- Answers that are due leave as pennants: a held response, the result of an atomic operation when none is held, a write acknowledgement.
Answers that arrive complete the request that they match: status 0x00 as performed, status 0x04, an RNAK or a time-out as refused; the data
of a READ reaches the load that waits for it. -/
def Obligations.Answers : Prop :=
  (∀ (i : Nat) (s : State),
     (∀ p rest, s.resps = p :: rest → Gives .responseSend s fun t => t.resps = rest ∧ t.mem = s.mem ∧
       ∃ q, t.rq = s.rq ++ [⟨q, none, none, false⟩] ∧ q.typ = p.typ ∧ q.vc = p.vc ∧ q.dst = p.dst ∧ q.addr = p.addr ∧ q.len = p.len ∧ q.last = p.last) ∧
     (∀ id v po rest q, s.resps = [] → s.atomAns = (id, v, po) :: rest → s.serving.find? (fun q => q.id == id) = some q →
       Gives .responseSend s fun t => t.atomAns = rest ∧ ∃ x, t.rq = s.rq ++ [⟨x, none, none, false⟩] ∧ x.typ.toNat = tARESP ∧ x.dst = q.src ∧
         x.poison = po ∧ x.payload = payloadOf (leBytes 8 v.toNat)) ∧
     (∀ w, s.wacks[i]? = some w → Gives (.wackSend i) s fun t => t.wacks = s.wacks.eraseIdx i ∧
       ∃ x, t.rq = s.rq ++ [⟨x, none, none, false⟩] ∧ x.typ.toNat = tWACK ∧ x.dst = w.src ∧ x.addr.toNat = w.eseq.toNat + (if w.ok then 0 else 4 * 65536))) ∧
  (∀ (pn : Pennant) (s : State) (rest : List RIn) (r : RIn) (x : OReq) (k fid : Nat) (f : Flight),
     let n := pn.len.toNat + 1
     let done (i : Instr) (ok : Bool) (bs : List Byte) (po : Bool) : Prop := Gives i s fun t => t.oreqs = [] ∧
       t.flight k fid = some { f with st := .answered, res := BitVec.ofNat 64 (leNat (bs.take 8)), poison := po, refused := !ok }
     isCtl k = false → s.flight k fid = some f → x.req.ref = .flight k fid → s.oreqs = [x] →
     (takeFirst (fun x : RIn => x.pn == pn) s.inbox = some (r, rest) → r.origin = none →
       tget? s.eseqRx (flowKey pn.src.toNat pn.vc.toNat) = some (pn.eseq.toNat, false) → pn.eseq.toNat ≠ 0 → x.vc + 2 = pn.vc.toNat → x.req.dst = pn.src →
       (x.req.kind = .read → (x.ret + x.got) % 2 ^ 48 = pn.addr.toNat → pn.last = true →
         done (.rdataReceive pn) true (Pennant.bytes pn n) pn.poison) ∧
       (x.eseq.toNat = bits pn.addr.toNat 0 16 →
         (x.req.kind = .write → done (.wackReceive pn) (bits pn.addr.toNat 16 8 == 0) (Pennant.held pn) pn.poison) ∧
         (∀ op, x.req.kind = .atomic op → done (.arespReceive pn) (bits pn.addr.toNat 16 8 == 0) (Pennant.held pn) pn.poison) ∧
         (x.req.kind = .read → done (.rnakReceive pn) false [] false))) ∧
     (x.sent + max 1 (s.fld ROUTE_CTL.off ROUTE_CTL.TMO) * 1000000 ≤ s.time → done (.responseTimeout 0) false [] false))

/-- Detours: a DSETUP at the end of its path installs its entry and is answered DACK, one that finds an entry of another owner DNAK; DACK puts the
detour in force; DNAK tears down what was installed and tries the next candidate; a DTEAR whose pennants have been handled clears the entry; the
last answer ends the detour.
The reverse path of DACK and DNAK is not walked (log 44). -/
def Obligations.Detours : Prop :=
  ∀ (t6 d : Fin 6) (m : DetourMsg) (owner : PkgId) (s : State),
    let o := ROUTE_RELAY.off t6.val
    let x := s.det d.val
    (m.path = [] → s.bit o ROUTE_RELAY.VALID = false →
      Gives (.dsetupReceive t6 m) s fun t => t.bit o ROUTE_RELAY.VALID = true ∧ t.fld o ROUTE_RELAY.OWNER = m.owner.toNat ∧
        t.fld o ROUTE_RELAY.OUT = m.out.val ∧ t.fld o ROUTE_RELAY.MODE = m.mode.val ∧ t.netOut = s.netOut ++ [.dack m.owner m.out.val]) ∧
    (m.path = [] → s.bit o ROUTE_RELAY.VALID = true → s.fld o ROUTE_RELAY.OWNER ≠ m.owner.toNat →
      exec (.dsetupReceive t6 m) s = .next { s with netOut := s.netOut ++ [.dnak m.owner m.out.val false] }) ∧
    (∀ c, x.cur = some c → c < 6 → x.byp = false → x.sides = [] →
      Gives (.dackReceive d) s fun t => (t.det d.val).st = .force ∧ (t.det d.val).sides = [c] ∧ (t.det d.val).cur = none ∧
        t.fld (ROUTE_DET.off d.val) ROUTE_DET.INF = 1 ∧ t.fld (ROUTE_DET.off d.val) ROUTE_DET.SIDE = c) ∧
    (∀ c c2 more, x.cur = some c → x.todo = c2 :: more → x.byp = false → x.sides = [] →
      Gives (.dnakReceive d false) s fun t => (t.det d.val).cur = some c2 ∧ (t.det d.val).todo = more ∧
        ∃ msg, t.netOut = s.netOut ++ [.dtear (BitVec.ofNat 15 s.self) c 0, .dsetup c2 msg]) ∧
    (s.bit o ROUTE_RELAY.VALID = true → s.fld o ROUTE_RELAY.OWNER = owner.toNat → s.fld o ROUTE_RELAY.MODE = 2 →
      Gives (.dtearReceive owner t6 0) s fun t => t.csrGet o = 0 ∧ t.netOut = s.netOut ++ [.dtearAnswer owner (s.fld o ROUTE_RELAY.OUT)]) ∧
    (x.st = .tear → x.left ≤ 1 → s.dirUp d.val = true →
      Gives (.dtearAnswerReceive d) s fun t => t.det d.val = Detour.idle ∧ t.fld (ROUTE_DET.off d.val) ROUTE_DET.INF = 0)

/-! Collectives and votes. -/

/-- Groups: a write while the group is busy only sets BUSYWR; otherwise its fields are written, and VALID = 1 is in force, with NEXT_EPOCH 0 and
RANK and SIZE computed, exactly when the conditions of R426 hold; when one fails VALID stays 0 and CFGERR is set. The lower half alone holds
no field that a write changes. -/
def Obligations.CollectiveGroups : Prop :=
  ∀ (n : CtxId) (g : Fin 16) (sz : CsrSize) (v : Word) (s : State),
    let o := CTX_COL_GRP.off n.val g.val
    let u := CTX_COL_SUB.off n.val g.val
    let sts := CTX_COL_STS.off n.val
    let w := mergeSz (s.csrGet o) sz v
    let x := mergeSz (s.csrGet u) sz v
    let l := s.axesOf w (s.csrGet u)
    let named : List Fld := [CTX_COL_GRP.AX0, CTX_COL_GRP.AX1, CTX_COL_GRP.AX2, CTX_COL_GRP.GKEY]
    (s.gBusy n.val g.val = true → exec (.colGrpWrite n g sz v) s = .next (s.setFld sts CTX_COL_STS.BUSYWR 1) ∧
      exec (.colSubWrite n g sz v) s = .next (s.setFld sts CTX_COL_STS.BUSYWR 1)) ∧
    (s.gBusy n.val g.val = false →
      (sz = .lo32 → exec (.colGrpWrite n g sz v) s = .next s) ∧
      (sz ≠ .lo32 → Gives (.colGrpWrite n g sz v) s fun t => (∀ f ∈ named, t.fld o f = getFld w f) ∧
        t = { s with csr := t.csr, colls := t.colls } ∧ (∀ off, off ≠ o → off ≠ u → off ≠ sts → t.csrGet off = s.csrGet off) ∧
        (getFld w CTX_COL_GRP.VALID = 0 → t.gValid n.val g.val = false ∧ t.colls = s.colls ∧ t.csrGet sts = s.csrGet sts) ∧
        (getFld w CTX_COL_GRP.VALID = 1 → s.gOk n.val g.val w (s.csrGet u) = true → t.gValid n.val g.val = true ∧
          t.fld o CTX_COL_GRP.NEXT_EPOCH = 0 ∧ t.fld o CTX_COL_GRP.RANK = s.gRankOf l s.self % 2 ^ CTX_COL_GRP.RANK.len ∧
          t.fld u CTX_COL_SUB.SIZE = (gSize l - 1) % 2 ^ CTX_COL_SUB.SIZE.len) ∧
        (getFld w CTX_COL_GRP.VALID = 1 → s.gOk n.val g.val w (s.csrGet u) = false → t.gValid n.val g.val = false ∧
          t.bit sts CTX_COL_STS.CFGERR = true)) ∧
      (Gives (.colSubWrite n g sz v) s fun t => t = { s with csr := t.csr } ∧ (∀ off, off ≠ u → t.csrGet off = s.csrGet off) ∧
        t.fld u CTX_COL_SUB.SIZE = s.fld u CTX_COL_SUB.SIZE ∧
        ∀ f ∈ [CTX_COL_SUB.FULL, CTX_COL_SUB.LENZ, CTX_COL_SUB.LENY, CTX_COL_SUB.LENX, CTX_COL_SUB.LOZ, CTX_COL_SUB.LOY, CTX_COL_SUB.LOX],
          t.fld u f = getFld x f))

/-- A collective runs: it opens when its window of buffer fits, and stays QUEUED when it does not; a chunk is sent only with a credit and in its
collective's turn at the unit, its data pennants before its trailer, and takes one credit; a credit pennant adds its number of credits; a pennant
of no open or parked collective is counted in DUP; a new data pennant is kept; a COUNT message gives the places of the chunks to come; a suspend
parks it; an ABORT ends it with the cause that it carries.
The byte form of a COUNT message is the model's choice (log 15), as are points of the permute (log 14). -/
def Obligations.CollectiveRuns : Prop :=
  ∀ (n : CtxId) (g : Fin 16) (e : Epoch) (c : Coll) (rank : Nat) (pn : Pennant) (s : State),
    let k := s.arrDie pn
    (s.coll? n.val g.val e = some c →
      let used := (s.colls.filter fun x => x.running && x.unit == c.unit).foldl (fun m x => m + s.window x) 0
      let sent := tget 0 c.sentTo rank
      let held := tget 0 c.credit rank
      (c.st = .queued → 0x1000000 < used + s.window c → exec (.collectiveOpen n g e) s = .next s) ∧
      (c.st = .queued → used + s.window c ≤ 0x1000000 → Gives (.collectiveOpen n g e) s fun t =>
        (∃ d, t.coll? n.val g.val e = some d ∧ d.st ≠ .queued ∧ d.desc = c.desc ∧ d.kind = c.kind ∧ d.progress = s.time) ∧
        (c.kind ≠ 2 → ∀ r ∈ s.senders c, ∃ x ∈ t.rq, x.pn.dst = BitVec.ofNat 15 (s.gPkg (s.cAxes c) r) ∧ x.pn.eseq = e ∧ pnSub x.pn = 2 ∧
          (pnBytes x.pn).take 1 = [4])) ∧
      ((held = 0 ∨ s.colTurn c = false) → exec (.chunkSend n g e rank) s = .next s) ∧
      (∀ o, c.st = .open → held ≠ 0 → s.colTurn c = true → c.ready.find? (fun o => o.rank == rank && o.cidx == sent) = some o →
        Gives (.chunkSend n g e rank) s fun t =>
          (∃ d, t.coll? n.val g.val e = some d ∧ tget 0 d.sentTo rank = sent + 1 ∧ tget 0 d.credit rank = held - 1) ∧
          ∃ ps, t.rq = s.rq ++ ps ∧ ps.length = (o.bytes.length + 63) / 64 + 1 + (if o.grant.isSome then 1 else 0) ∧
            ∀ i x, ps[i]? = some x → x.pn.eseq = e ∧ pnSub x.pn = (if i < (o.bytes.length + 63) / 64 then 0
              else if i = (o.bytes.length + 63) / 64 then 1 else 2)) ∧
      (c.st = .open → (s.ctx n.val).suspend.isSome = true →
        Gives (.collectivePark n g e) s fun t => t.bit (CTX_COL_STS.off n.val) CTX_COL_STS.PARKED = true ∧ t.mem = s.mem ∧
          t.coll? n.val g.val e = some { c with st := .parked }) ∧
      (∀ key cause, s.gByKey key = some (n, g.val) → c.live = true → cause < 256 → key < 65536 →
        Gives (.abortReceive (BitVec.ofNat 16 key) e cause) s fun t => t.bit (CTX_COL_STS.off n.val) CTX_COL_STS.ABORTED = true ∧
          ∃ d, t.coll? n.val g.val e = some d ∧ d.st = .aborted ∧ d.cause = cause)) ∧
    (s.chunkColl pn = none →
      let dup : State → Prop := fun t => t.rq = s.rq ∧ t.colls = s.colls ∧ t.fld (COL_ERR.off k) COL_ERR.DUP =
        min (s.fld (COL_ERR.off k) COL_ERR.DUP + 1) (2 ^ COL_ERR.DUP.len - 1)
      (∀ up, pnSub pn ≤ 1 → Gives (.chunkReceive pn up) s dup) ∧ (pnSub pn = 2 → Gives (.chunkCreditReceive pn) s dup) ∧
        (pnSub pn = 3 → Gives (.countReceive pn) s dup)) ∧
    (s.chunkColl pn = some (c, rank) →
      let seen (t : State) : Option Coll := t.coll? c.ctx.val c.grp c.epoch
      let got := tget 0 c.gotFrom rank
      let diff := (pnCidx pn + 2 ^ 18 - got % 2 ^ 18) % 2 ^ 18
      (pnSub pn = 2 → Gives (.chunkCreditReceive pn) s fun t =>
        seen t = some { c with credit := tset c.credit rank (tget 0 c.credit rank + leNat ((pnBytes pn).take 1)), progress := s.time, fired := false }) ∧
      (∀ up, pnSub pn = 0 → diff < 2 ^ 17 → c.kind ≠ 2 → c.refused = false → (∀ x ∈ c.inq, x.used = true ∨ x.complete = false) →
        (c.inq.find? fun x => x.rank == rank && x.cidx == got + diff) = none →
        Gives (.chunkReceive pn up) s fun t =>
          seen t = some { c with inq := c.inq ++ [⟨rank, got + diff, [(pnPidx pn, pnBytes pn)], none, pn.poison, false⟩] }) ∧
      (∀ up, pnSub pn ≤ 1 → 2 ^ 17 ≤ diff → Gives (.chunkReceive pn up) s fun t => t.colls = s.colls ∧
        t.fld (COL_ERR.off c.unit) COL_ERR.DUP = min (s.fld (COL_ERR.off c.unit) COL_ERR.DUP + 1) (2 ^ COL_ERR.DUP.len - 1)) ∧
      (∀ pl, pnSub pn = 3 → c.kind = 2 → cExpert c.desc = false → pnPidx pn = 0 → c.own = [] → countPlaces c (pnBytes pn) = some pl →
        (pl.any fun p => decide (cDst c.desc + cRwin c.desc < p.1 + p.2)) = false →
        Gives (.countReceive pn) s fun t => ∃ d, seen t = some d ∧ tget [] d.places rank = pl ∧ tget? d.expect rank = some pl.length) ∧
      (∀ pl, pnSub pn = 3 → c.kind = 2 → cExpert c.desc = false → pnPidx pn = 0 → c.own = [] → countPlaces c (pnBytes pn) = some pl →
        (pl.any fun p => decide (cDst c.desc + cRwin c.desc < p.1 + p.2)) = true →
        Gives (.countReceive pn) s fun t => ∃ d, seen t = some d ∧ d.st = .aborted ∧ d.cause = 6))

/-- The vote of a step. A member with nothing live left is ready; a token at another rank waits; back at rank 0 it decides COMMIT when BAD is clear
and FAIL otherwise; the first result is taken; a VOTING member that a CTX_DOWN has reached and no result fails with reason 5. The stall watchdog
sends a PROBE to the member waited on and fires once; a PROBE for an unknown group is answered NOT_ISSUED, and one that comes back is reported
in CTX_COL_STALL.
The probe's byte form and its answers are the model's (log 42); which collectives a vote counts is read by inference (log 16). -/
def Obligations.StepVotes : Prop :=
  ∀ (n : CtxId) (g : Fin 16) (step : StepNo) (pn : Pennant) (pr : Probe) (us : Nat) (s : State),
    let st := step.toNat
    let p := pn.addr.toNat
    let sts := CTX_COL_STS.off n.val
    let failed (t : State) (q reason rank : Nat) : Prop := t.stepSt n q = 6 ∧ t.bit sts CTX_COL_STS.FAIL = true ∧
      t.fld sts CTX_COL_STS.FAIL_REASON = reason % 16 ∧ t.fld sts CTX_COL_STS.FAIL_RANK = rank % 2 ^ 15
    (∀ v, s.votes.find? (fun v => v.ctx == n && v.step == st && !v.ready) = some v → s.cmtRank n.val ≠ 0 → s.tokens = [] →
      (∀ c ∈ s.colls, c.ctx = n → cStep c.desc = st → c.live = true → v.ord ≤ c.ord) →
      (∀ o ∈ s.offers, o.chunk.ctx = n → o.chunk.step ≠ st) →
      Gives (.voteReady n step) s fun t => { v with ready := true } ∈ t.votes ∧ t.votes.length = s.votes.length ∧ t.steps = s.steps ∧
        t.tokens = s.tokens ∧ t.rq = s.rq ∧ t.mem = s.mem) ∧
    (s.cmtCtx (vKey pn) = some n →
      (vKind pn = 0 → s.cmtRank n.val ≠ 0 → s.votes = [] → Gives (.voteTokenReceive pn) s fun t => (n, pn) ∈ t.tokens ∧ t.steps = s.steps) ∧
      (vKind pn = 0 → s.cmtRank n.val = 0 → s.stepSt n p = 2 → vFlags pn % 2 = 0 → Gives (.voteTokenReceive pn) s fun t => t.cmtStep n.val = p) ∧
      (vKind pn = 0 → s.cmtRank n.val = 0 → s.stepSt n p = 2 → vFlags pn % 2 = 1 →
        Gives (.voteTokenReceive pn) s fun t => failed t p (vReason pn) (vRank pn)) ∧
      (vKind pn = 1 → s.cmtStep n.val < p → s.stepSt n p = 1 ∨ s.stepSt n p = 2 →
        (vFlags pn / 2 % 2 = 1 → Gives (.voteResultReceive pn) s fun t => t.cmtStep n.val = p) ∧
        (vFlags pn / 2 % 2 = 0 → Gives (.voteResultReceive pn) s fun t => failed t p (vReason pn) (vRank pn))) ∧
      (vKind pn = 1 → p ≤ s.cmtStep n.val → Gives (.voteResultReceive pn) s fun t => t.steps = s.steps ∧ t.rq = s.rq ∧ t.csr = s.csr)) ∧
    (∀ v, s.votes.find? (fun v => v.ctx == n && v.down && s.stepSt n v.step == 2) = some v →
      Gives (.voteResultTimeout n) s fun t => failed t v.step 5 (s.cmtRank n.val)) ∧
    (let lim := s.fld (CTX_COL_CTL.off n.val) CTX_COL_CTL.WDOG_US
     (∀ e, lim = 0 ∨ us ≤ lim → exec (.stallWatchdog n g e us) s = .next s) ∧
     (∀ e c r, lim ≠ 0 → lim < us → s.coll? n.val g.val e = some c → c.st = .open → c.fired = false → s.collWaits c = some r →
       Gives (.stallWatchdog n g (some e) us) s fun t => t.coll? n.val g.val e = some { c with fired := true } ∧
         t.netOut = s.netOut ++ [.probe (BitVec.ofNat 15 (s.gPkg (s.gAxes n.val g.val) r))
           ⟨BitVec.ofNat 15 s.self, BitVec.ofNat 16 (s.gKey n.val g.val), some e, [], none⟩])) ∧
    (s.gByKey pr.gkey.toNat = none → pr.origin.toNat ≠ s.self →
      exec (.probeReceive pr) s = .next { s with netOut := s.netOut ++ [.probe pr.origin { pr with back := some 1 }] }) ∧
    (s.gByKey pr.gkey.toNat = some (n, g.val) → pr.origin.toNat = s.self →
      let o := CTX_COL_STALL.off n.val
      Gives (.probeReceive pr) s fun t => t.bit sts CTX_COL_STS.STALL = true ∧ t.netOut = s.netOut ∧ t.colls = s.colls ∧
        ∀ rank last cause, pr.path = [(rank, last)] → rank < 2 ^ 15 → pr.back = some cause → cause < 16 →
          t.fld o CTX_COL_STALL.CAUSE = cause ∧ t.fld o CTX_COL_STALL.GRP = g.val ∧ t.fld o CTX_COL_STALL.RANK = rank ∧
            t.fld o CTX_COL_STALL.EPOCH = (match pr.epoch with | some e => e.toNat | none => 0))

/-! The host interface: PCIe functions, apertures, queues. -/

/-- The PCIe events on ports and functions: PERST#, link up and down, hot reset, FLR, VF Enable. Every context bound to a function that is reset
gets a function reset (reason 8 of R505); the commands of the function are gone; the function reset ends with the context IDLE, or FREE where
its cause unbinds it.
What PCIe is presumed to do on FLR and hot reset is log 50. -/
def Obligations.PcieFunctions : Prop :=
  ∀ (p : Fin 2) (l : LinkAB) (f : Fin 32) (gen : Fin 7) (w : Fin 5) (rev : Bool) (vfs : Nat) (n : CtxId) (s : State),
    let q := s.pport p.val
    let k := q.link l
    let pf := pfSlot l
    let sts := HST_PORT_STS.off p.val
    let fld := (match l with | .a => HST_PORT_STS.LINK_A | .b => HST_PORT_STS.LINK_B)
    let resets (t : State) (sel : Nat → Bool) : Prop := ∀ m, m < 64 → (s.ctx m).bound = true → (s.ctx m).port = p.val →
      sel (s.ctx m).slot = true → (t.ctx m).hatch.isSome = true ∧ ((s.ctx m).hatch = none → ∃ h, (t.ctx m).hatch = some h ∧ h.reason = 8 ∧ h.freset = true)
    let noCmds (t : State) (sel : Nat → Bool) : Prop := ∀ c ∈ t.cmds, c.port = p.val → sel c.slot = false
    let mine (x : Nat) : Bool := (s.linkSlots p.val l).contains x
    (q.perst = false → Gives (.perstAssert p) s fun t => (t.pport p.val).perst = true ∧ (t.pport p.val).ready = false ∧
      ((t.pport p.val).link .a).up = false ∧ resets t (fun x => decide (x < 32)) ∧ noCmds t (fun x => decide (x < 32)) ∧ t.mem = s.mem) ∧
    (q.perst = true → s.power.ok = true → Gives (.perstRelease p) s fun t => t = { s with pports := t.pports } ∧ (t.pport p.val).perst = false ∧
      (t.pport p.val).bifur = s.bit (HST_PORT_CFG.off p.val) HST_PORT_CFG.BIF ∧
      (t.pport p.val).totalVf = (if s.bit (HST_PORT_CFG.off p.val) HST_PORT_CFG.BIF then min (s.fld (HST_PORT_CFG.off p.val) HST_PORT_CFG.TOTALVF) 15
        else s.fld (HST_PORT_CFG.off p.val) HST_PORT_CFG.TOTALVF)) ∧
    (q.perst = false → exec (.perstRelease p) s = .next s) ∧ (q.perst = true → exec (.perstAssert p) s = .next s) ∧
    (q.perst = false → s.power.ok = true → Gives (.configSpaceReady p) s fun t => t = { s with pports := t.pports } ∧ (t.pport p.val).ready = true) ∧
    (q.perst = true → exec (.configSpaceReady p) s = .next s) ∧
    (q.perst = false → s.power.ok = true → s.hasLink p.val l = true → 1 ≤ gen.val → gen.val ≤ q.maxGen → w.val ≤ (if q.bifur then 3 else 4) →
      Gives (.pcieLinkUp p l gen w rev) s fun t => ((t.pport p.val).link l).up = true ∧ ((t.pport p.val).link l).gen = gen.val ∧
        ((t.pport p.val).link l).log2w = w.val ∧ t.fld sts fld = 0x80 + 0x40 * b2n rev + 8 * gen.val + w.val ∧ t.mem = s.mem) ∧
    (s.hasLink p.val l = true → k.up = true →
      (Gives (.pcieLinkDown p l) s fun t => ((t.pport p.val).link l).up = false ∧ t.fld sts fld = 0 ∧ resets t mine ∧ noCmds t mine ∧ t.mem = s.mem) ∧
      (Gives (.hotReset p l) s fun t => ((t.pport p.val).link l).up = true ∧ ((t.pport p.val).link l).vfEn = false ∧ resets t mine ∧ noCmds t mine)) ∧
    (k.up = false → exec (.pcieLinkDown p l) s = .next s ∧ exec (.hotReset p l) s = .next s) ∧
    (s.fnLive p.val f.val = true → s.isPf p.val f.val = false →
      Gives (.flrVf p f) s fun t => t.pports = s.pports ∧ resets t (fun x => x == f.val) ∧ noCmds t (fun x => x == f.val)) ∧
    (s.hasLink p.val l = true → s.fnLive p.val pf = true →
      (Gives (.flrPf p l) s fun t => ((t.pport p.val).link l).vfEn = false ∧ resets t mine ∧ noCmds t mine) ∧
      (k.vfEn = true → Gives (.vfEnableClear p l) s fun t => ((t.pport p.val).link l).vfEn = false ∧ resets t mine ∧ noCmds t mine) ∧
      (k.vfEn = false → vfs ≤ q.totalVf → Gives (.vfEnableSet p l vfs) s fun t => t = { s with pports := t.pports } ∧
        ((t.pport p.val).link l).vfEn = true ∧ ((t.pport p.val).link l).numVfs = vfs) ∧
      (q.totalVf < vfs → exec (.vfEnableSet p l vfs) s = .next s)) ∧
    (∀ h, (s.ctx n.val).hatch = some h → h.freset = true →
      (s.hatchOver n h = true → Gives (.functionResetComplete n) s fun t => (t.ctx n.val).hatch = none ∧ (t.ctx n.val).launch = none ∧
        (t.ctx n.val).st = (if h.unbind then .free else .idle) ∧ (t.ctx n.val).bound = (if h.unbind then false else (s.ctx n.val).bound)) ∧
      (s.hatchOver n h = false → exec (.functionResetComplete n) s = .next s))

/-- Apertures and queues. A permitted write through an aperture writes its bytes and nothing else, a permitted read answers with the bytes; one
that R478 does not permit changes no memory and is logged. EN written 1 over 0 takes SIZE and starts the queue at 0; EN = 1 keeps SIZE. A tail
within SIZE is stored and tells firmware, one above is logged. A command is fetched when both queues are enabled, TAIL differs and a completion
entry is free, in the turn of its queue among those of the function. Completions, event records and the LOST record are written at the ring's tail
with the phase bit, and the tail moves on.
The layout and masking of MSI-X are presumed (log 23); how a waiting user record is passed is log 51. -/
def Obligations.AperturesAndQueues : Prop :=
  ∀ (p : Fin 2) (f : Fin 32) (q : Fin 8) (seg : Fin 16) (x len : Nat) (bytes : List Byte) (ep : Bool) (v : Word) (entry : List Word) (s : State),
    let a := p.val
    let b := f.val
    let i := q.val
    let quiet : Prop := ∀ k ∈ allCtl, ∀ rd eve, (s.core k).hold ≠ .wdb rd eve
    let bell (n : Nat) : Word := BitVec.ofNat 64 (put 0x01 56 + put a 40 + put b 32 + n)
    let sq := HST_SQ_CFG.off a b i
    let cq := HST_CQ_CFG.off a b i
    let eq := HST_EQ_CFG.off a b
    let msg (off vec : Nat) (l : List HostOut) : Prop := l = [] ∨ l = [.msix a vec off]
    (s.fnLive a b = true → bytes ≠ [] →
      (∀ y n, s.apertureAt a b seg.val x bytes.length true = some (y, n) → Gives (.apertureWrite p f seg x bytes ep) s fun t =>
        (∀ j, j < bytes.length → t.readByte (y + j) = bytes.getD j 0) ∧ BytesBut y bytes.length s t ∧ t.hostOut = s.hostOut ∧ t.aps = s.aps) ∧
      (s.apertureAt a b seg.val x bytes.length true = none →
        exec (.apertureWrite p f seg x bytes ep) s = .next { s with hostOut := s.hostOut ++ [.aer a b] })) ∧
    (s.fnLive a b = true → len ≠ 0 →
      (∀ y n, s.apertureAt a b seg.val x len false = some (y, n) → Gives (.apertureRead p f seg x len) s fun t =>
        t.hostOut = s.hostOut ++ [.readData a b (s.readBytes y len) (s.poisoned y len)] ∧ t.mem = s.mem) ∧
      (s.apertureAt a b seg.val x len false = none →
        exec (.apertureRead p f seg x len) s = .next { s with hostOut := s.hostOut ++ [.unsupported a b] ++ [.aer a b] })) ∧
    (s.fnLive a b = true →
      (s.bit sq HST_SQ_CFG.EN = false → getFld v HST_SQ_CFG.EN = 1 → Gives (.queueEnable p f (.sq q) v) s fun t => t.bit sq HST_SQ_CFG.EN = true ∧
        t.fld sq HST_SQ_CFG.SIZE = getFld v HST_SQ_CFG.SIZE ∧ (t.qp a b i).head = 0 ∧ t.csrGet (HST_SQ_TAIL.off a b i) = 0) ∧
      (s.bit cq HST_CQ_CFG.EN = false → getFld v HST_CQ_CFG.EN = 1 → Gives (.queueEnable p f (.cq q) v) s fun t => t.bit cq HST_CQ_CFG.EN = true ∧
        t.fld cq HST_CQ_CFG.SIZE = getFld v HST_CQ_CFG.SIZE ∧ t.fld cq HST_CQ_CFG.VEC = getFld v HST_CQ_CFG.VEC ∧
        (t.qp a b i).tail = 0 ∧ (t.qp a b i).phase = true ∧ t.csrGet (HST_CQ_HEAD.off a b i) = 0) ∧
      (s.bit eq HST_EQ_CFG.EN = false → getFld v HST_EQ_CFG.EN = 1 → Gives (.queueEnable p f .eq v) s fun t => t.bit eq HST_EQ_CFG.EN = true ∧
        t.fld eq HST_EQ_CFG.SIZE = getFld v HST_EQ_CFG.SIZE ∧ (t.evq a b).tail = 0 ∧ (t.evq a b).phase = true ∧
        t.csrGet (HST_EQ_HEAD.off a b) = 0 ∧ t.csrGet (HST_EQ_LOST.off a b) = 0) ∧
      (s.bit sq HST_SQ_CFG.EN = true → Gives (.queueEnable p f (.sq q) v) s fun t => t = { s with csr := t.csr } ∧
        t.fld sq HST_SQ_CFG.SIZE = s.fld sq HST_SQ_CFG.SIZE ∧ t.fld sq HST_SQ_CFG.EN = getFld v HST_SQ_CFG.EN) ∧
      (let tail := getFld v HST_SQ_TAIL.TAIL
       (s.fld sq HST_SQ_CFG.SIZE + 1 ≤ tail → exec (.sqTailDoorbell p f q v) s = .next { s with hostOut := s.hostOut ++ [.aer a b] }) ∧
       (tail ≤ s.fld sq HST_SQ_CFG.SIZE → quiet → s.notices.contains (bell i) = false → Gives (.sqTailDoorbell p f q v) s fun t =>
         t.fld (HST_SQ_TAIL.off a b i) HST_SQ_TAIL.TAIL = tail ∧ t.notices = s.notices ++ [bell i] ∧ t.cores = s.cores)) ∧
      (quiet → s.notices.contains (bell i) = false → Gives (.cqHeadDoorbell p f q v) s fun t =>
        t.fld (HST_CQ_HEAD.off a b i) HST_CQ_HEAD.HEAD = getFld v HST_CQ_HEAD.HEAD ∧ t.notices = s.notices ++ [bell i]) ∧
      (Gives (.eqHeadWrite p f v) s fun t => t = { s with csr := t.csr } ∧ t.fld (HST_EQ_HEAD.off a b) HST_EQ_HEAD.HEAD = getFld v HST_EQ_HEAD.HEAD ∧
        ∀ off, off ≠ HST_EQ_HEAD.off a b → t.csrGet off = s.csrGet off)) ∧
    (let y := s.qp a b i
     let h := (y.head + 1) % (s.fld sq HST_SQ_CFG.SIZE + 1)
     let can (j : Nat) : Prop := s.bit (HST_SQ_CFG.off a b j) HST_SQ_CFG.EN = true ∧ s.bit (HST_CQ_CFG.off a b j) HST_CQ_CFG.EN = true ∧ s.power.rst = none ∧
       (s.qp a b j).head ≠ s.fld (HST_SQ_TAIL.off a b j) HST_SQ_TAIL.TAIL ∧ s.cqFree a b j ≠ 0
     (can i → (∀ j, j < 8 → j ≠ i → ¬ can j) → s.fetchTurn a b = some i) ∧ (can i → ∃ j, j < 8 ∧ can j ∧ s.fetchTurn a b = some j) ∧
     (¬ can i → s.fetchTurn a b ≠ some i) ∧
     (s.fetchTurn a b = some i → entry.length = 8 → Gives (.commandFetch p f q entry) s fun t => (t.qp a b i).head = h ∧ t.csr = s.csr ∧ t.mem = s.mem ∧
         ∃ c, t.cmds = s.cmds ++ [c] ∧ c.words = entry ∧ c.sqhd = h ∧ c.port = a ∧ c.slot = b ∧ c.q = i ∧
           (cmdOpc entry ≤ 0x0B → c.st = .waiting) ∧ (0x0B < cmdOpc entry → c.st = .ended ∧ c.status = 0x01)) ∧
     (s.fetchTurn a b ≠ some i → exec (.commandFetch p f q entry) s = .next s) ∧
     (∀ c, (s.cmds.find? fun c => c.port == a && c.slot == b && c.q == i && s.completable c) = some c →
       (cmdNocpl c.words = true → c.status = 0 → exec (.completionWrite p f q) s = .next { s with cmds := s.cmds.filter fun z => z.id != c.id }) ∧
       (cmdNocpl c.words = false ∨ c.status ≠ 0 → s.bit cq HST_CQ_CFG.EN = true → s.cqFree a b i ≠ 0 →
         Gives (.completionWrite p f q) s fun t => (t.qp a b i).tail = (y.tail + 1) % (s.fld cq HST_CQ_CFG.SIZE + 1) ∧
           t.cmds = (s.cmds.filter fun z => z.id != c.id) ∧ ∃ m, msg (s.fld cq HST_CQ_CFG.VEC) b m ∧ t.hostOut = s.hostOut ++ [.write a
             (s.fld (HST_CQ_BASE.off a b i) HST_CQ_BASE.BASE * 4096 + 16 * y.tail) (cplBytes c y.phase) false 0] ++ m))) ∧
    (let z := s.evq a b
     let size := s.fld eq HST_EQ_CFG.SIZE + 1
     let puts (t : State) (ws : List Word) : Prop := (t.evq a b).tail = (z.tail + 1) % size ∧ ∃ m, msg (s.fld eq HST_EQ_CFG.VEC) b m ∧
       t.hostOut = s.hostOut ++ [.write a (s.fld (HST_EQ_BASE.off a b) HST_EQ_BASE.BASE * 4096 + 64 * z.tail)
         (wordsToBytes (setWord ws 0 ((recWord ws 0).setFld 63 1 (b2n z.phase)))) false 0] ++ m
     s.bit eq HST_EQ_CFG.EN = true →
     (∀ ws rest, z.waiting = (false, ws) :: rest → ws.length = 8 → z.lost = 0 → 2 ≤ s.eqFree a b →
       Gives (.eventRecordPost p f) s fun t => (t.evq a b).waiting = rest ∧ puts t ws) ∧
     (∀ ws rest, z.waiting = (true, ws) :: rest → ws.length = 8 → z.lost = 0 → 8 ≤ s.eqFree a b →
       Gives (.eventRecordPost p f) s fun t => (t.evq a b).waiting = rest ∧ puts t ws) ∧
     (∀ ws rest, z.waiting = (false, ws) :: rest → s.eqFree a b < 2 →
       Gives (.eventRecordPost p f) s fun t => (t.evq a b).lost = z.lost + 1 ∧ t.hostOut = s.hostOut) ∧
     (z.lost ≠ 0 → 2 ≤ s.eqFree a b → Gives (.lostRecordPost p f) s fun t => (t.evq a b).lost = 0 ∧
       puts t (s.evRecord 0x0B 0 none 0 [BitVec.ofNat 64 z.lost])) ∧
     (z.lost = 0 → exec (.lostRecordPost p f) s = .next s))

/-! Commands of the hosts. -/

/-- A command that is next and fails a check ends with the status of the check; no command at the front changes nothing. IDENTIFY, CTX_ALLOC,
CTX_FREE, COPY, OPEN_WINDOW, CLOSE_WINDOW, MAP_APERTURE and CC_RUN have their effect and end with their status.
The order of checks is the model's choice (log 22). -/
def Obligations.HostCommands : Prop :=
  ∀ (q : QueueId) (c : Cmd) (desc : List Word) (chosen : Fin 16) (s : State),
    let n : CtxId := Fin.ofNat 64 c.ctx
    let port := (s.ctx n.val).port
    (∀ i opc, cmdRow i = some (q, opc) → (s.nextCmd? q opc = none → exec i s = .next s) ∧
      ∀ st, s.nextCmd? q opc = some c → s.cmdCheck c = some st → exec i s = .next (s.endCmd c.id st 0)) ∧
    (s.starts q 0x00 c → Gives (.identify q) s fun t => t.ended c 0 0 ∧ t.mem = s.mem ∧
      ∃ bs, bs.length = 4096 ∧ t.hostOut = s.hostOut ++ [.write c.port (c.w 1).toNat bs false 0]) ∧
    (s.starts q 0x01 c →
      let slot := (c.w 1).fld 0 5
      let full := s.fld (HST_PORT_CFG.off c.port) HST_PORT_CFG.CTX_MAX ≤ s.fld (HST_PORT_STS.off c.port) HST_PORT_STS.CTX_HELD
      (s.ownSlot c.port c.slot slot = false → Gives (.ctxAlloc q) s fun t => t.ended c 0x02 0 ∧ t.ctxs = s.ctxs) ∧
      (s.ownSlot c.port c.slot slot = true → (full ∨ s.freeCtx = none) → Gives (.ctxAlloc q) s fun t => t.ended c 0x05 0 ∧ t.ctxs = s.ctxs) ∧
      (∀ m, s.ownSlot c.port c.slot slot = true → ¬ full → s.freeCtx = some m → Gives (.ctxAlloc q) s fun t => t.ended c 0 m ∧
        (t.ctx m).st = .idle ∧ (t.ctx m).bound = true ∧ (t.ctx m).port = c.port ∧ (t.ctx m).slot = slot ∧ ∀ j, j ≠ m → t.ctx j = s.ctx j)) ∧
    (s.starts q 0x02 c → Gives (.ctxFree q) s fun t =>
      ∃ h, (t.ctx c.ctx).hatch = some h ∧ h.reason = 8 ∧ h.freset = true ∧ h.unbind = true ∧ c.id ∈ h.cmds) ∧
    (s.starts q 0x07 c →
      let d := (desc ++ List.replicate 8 0).take 8
      let bad := (s.descFault c.ctx d (c.w 1).toNat).isSome
      (bad = true → Gives (.copy q desc) s fun t => t.ended c 0x02 0 ∧ t.strms = s.strms) ∧
      (bad = false → s.freeId = none ∨ s.quotaFull c.ctx = true ∨ s.waitingIssuers ≠ [] → exec (.copy q desc) s = .next s) ∧
      (∀ id, bad = false → s.quotaFull c.ctx = false → s.waitingIssuers = [] → s.freeId = some id → Gives (.copy q desc) s fun t =>
        ∃ x, t.strm? id = some x ∧ x.cmd = some c.id ∧ x.ctx = n ∧ x.desc = d)) ∧
    (s.starts q 0x08 c →
      let lo := (c.w 1).toNat
      let ha := (c.w 2).toNat
      let len := (c.w 3).toNat
      let bad := len = 0 ∨ 0x200000000000 < lo + len ∨ 2 ^ 64 < ha + len ∨ s.windowOverlap port lo len = true
      let num := (List.range 256).find? fun i => (tget? s.windows (port * 256 + i)).isNone
      (bad → Gives (.openWindow q) s fun t => t.ended c 0x0B 0 ∧ t.windows = s.windows) ∧
      (¬ bad → num = none → Gives (.openWindow q) s fun t => t.ended c 0x05 0 ∧ t.windows = s.windows) ∧
      (∀ i, ¬ bad → num = some i → Gives (.openWindow q) s fun t => t.ended c 0 i ∧
        tget? t.windows (port * 256 + i) = some ⟨n, port, lo, ha, len, (c.w 4).flag 0, (c.w 4).flag 1⟩)) ∧
    (s.starts q 0x09 c →
      let k := (s.ctx c.ctx).port * 256 + (c.w 1).fld 0 8
      let mine := ∃ w, tget? s.windows k = some w ∧ w.ctx.val = c.ctx
      (mine → Gives (.closeWindow q) s fun t => t.ended c 0 0 ∧ tget? t.windows k = none) ∧
      (¬ mine → Gives (.closeWindow q) s fun t => t.ended c 0x0B 0 ∧ t.windows = s.windows)) ∧
    (s.starts q 0x0A c →
      let a := (c.w 2).toNat
      let f := c.w 3
      let k := fnKey port (s.ctx n.val).slot * 16 + (c.w 1).fld 0 4
      let bad := f.flag 2 && (s.localFault n.val a 4096 (!f.flag 0 && f.flag 1)).isSome
      (bad = true → Gives (.mapAperture q) s fun t => t.ended c 0x0B 0 ∧ t.aps = s.aps) ∧
      (bad = false → Gives (.mapAperture q) s fun t => t.ended c 0 0 ∧ tget? t.aps k = some ⟨n, a, f.flag 0, f.flag 1, f.flag 2⟩)) ∧
    (s.starts q 0x0B c →
      (s.placeFor n.val c chosen.val = none → Gives (.ccRun q chosen) s fun t => t.ended c 0x05 0 ∧ t.progs = s.progs) ∧
      (∀ k, s.placeFor n.val c chosen.val = some k → Gives (.ccRun q chosen) s fun t => (t.ctx n.val).st = .running ∧
        t.progs = s.progs ++ [⟨n, k, (c.w 3).fld 0 32, c.id, false, 0, false⟩] ∧
        (tget Core.reset t.ccRegs (k * 64 + n.val)).pc = (c.w 1).setWidth 48 ∧ (tget Core.reset t.ccRegs (k * 64 + n.val)).ctx = n))

/-- LAUNCH with its refusals, its start of every core (R111), its end and its time limit; SUSPEND, its completion, RESUME; CANCEL.
The order of checks is the model's choice (log 22); the bytes that hold the state of a core in a save area are free (log 24). -/
def Obligations.Launches : Prop :=
  ∀ (q : QueueId) (c : Cmd) (n : CtxId) (s : State),
    let m := c.ctx
    let x := s.ctx n.val
    let freed (t : State) (k : Nat) : Prop := ∀ i, i < 48 → ∀ h, (t.cluster i).holder = some h → h.val ≠ k
    let hatched (t : State) (k reason : Nat) : Prop := ∃ h, (t.ctx k).hatch = some h ∧ h.reason = reason
    (s.starts q 0x03 c →
      let a := (c.w 1).toNat
      let masks := s.groupMasks m
      let busy := s.busyWith m (maskClusters masks)
      (∀ r, s.launchRefused m a = some r → Gives (.launch q) s fun t => t.ended c 0x06 r ∧ t.ctxs = s.ctxs ∧ t.cores = s.cores) ∧
      (∀ h, s.launchRefused m a = none → busy = some h → Gives (.launch q) s fun t => t.ended c 0x04 h ∧ t.ctxs = s.ctxs ∧ t.cores = s.cores) ∧
      (s.launchRefused m a = none → busy = none → s.poisoned a 64 = true → Gives (.launch q) s fun t => t.ended c 0x06 6) ∧
      (s.launchRefused m a = none → busy = none → s.poisoned a 64 = false → Gives (.launch q) s fun t =>
        (t.ctx m).st = .running ∧ (t.ctx m).launch = some c.id ∧ (t.ctx m).groups = masks ∧ (t.ctx m).limit = (c.w 2).fld 0 32 ∧
        (t.ctx m).started = s.time ∧ (∀ i ∈ maskClusters masks, ∃ h, (t.cluster i).holder = some h ∧ h.val = m) ∧
        ∀ g ∈ s.validGroups m, ∀ i key, (maskCores (masks.getD g 0))[i]? = some key →
          (t.core key).run = .running ∧ (t.core key).ctx.val = m ∧ (t.core key).group = g ∧
          (t.core key).pc = (recWord (s.entryTable a).1 g).setWidth 48 ∧ (t.core key).reg 0 = BitVec.ofNat 64 i ∧
          (t.core key).reg 1 = BitVec.ofNat 64 (maskCores (masks.getD g 0)).length ∧ (t.core key).reg 2 = BitVec.ofNat 64 g)) ∧
    (x.hatch = none → x.suspend = none → x.st = .running → (∀ p ∈ s.progs, p.ctx ≠ n) →
      (s.coresDone n.val = true → Gives (.launchComplete n) s fun t => (t.ctx n.val).st = .idle ∧ (t.ctx n.val).launch = none ∧ freed t n.val ∧
        ∀ d ∈ s.cmds, x.launch = some d.id → d.st = .running → t.ended d 0 0) ∧
      (s.coresDone n.val = false → exec (.launchComplete n) s = .next s)) ∧
    (x.hatch = none → x.st = .faulted → s.ctxDrained n.val = true → s.faultPending n.val = false → x.faultCode ≠ 0 →
      Gives (.launchComplete n) s fun t => (t.ctx n.val).st = .faulted ∧ (t.ctx n.val).launch = none ∧
        ∀ d ∈ s.cmds, x.launch = some d.id → d.st = .running → t.ended d 0x08 x.faultCode) ∧
    (x.hatch = none → x.launch.isSome = true → x.limit ≠ 0 → x.started + x.limit * 1000000 ≤ s.time → x.st = .running → s.coresDone n.val = false →
      Gives (.launchTimeLimit n) s fun t => hatched t n.val 3) ∧
    (s.time < x.started + x.limit * 1000000 → exec (.launchTimeLimit n) s = .next s) ∧
    (s.starts q 0x04 c → (s.ctx m).suspend = none → s.coresDone m = false → (∀ p ∈ s.progs, p.ctx.val ≠ m) →
      let a := (c.w 1).toNat
      (s.hatchedNow c = true → Gives (.suspend q) s fun t => t.ended c 0x0A 0 ∧ t.ctxs = s.ctxs) ∧
      (s.hatchedNow c = false → a ≠ 0 → s.saveBad m a = true → Gives (.suspend q) s fun t => t.ended c 0x02 0 ∧ t.cores = s.cores) ∧
      (s.hatchedNow c = false → a = 0 ∨ s.saveBad m a = false → Gives (.suspend q) s fun t => (t.ctx m).suspend = some (c.id, a) ∧ (t.ctx m).st = .running ∧
        ∀ key, isCtl key = false → (s.core key).ctx.val = m → (s.core key).run = .running → (t.core key).run = .stopped)) ∧
    (∀ id a, x.suspend = some (id, a) → x.st = .running → x.hatch = none →
      (s.suspendReady n.val = false → exec (.suspendComplete n) s = .next s) ∧
      (s.suspendReady n.val = true → Gives (.suspendComplete n) s fun t => (t.ctx n.val).st = .suspended ∧ (t.ctx n.val).suspend = none ∧
        (a ≠ 0 → (t.ctx n.val).saveAt = some a ∧ (t.ctx n.val).saved = (s.launchCores n.val).map (fun k => (k, s.core k)) ∧ freed t n.val) ∧
        ∀ d ∈ s.cmds, d.id = id → d.st = .running → t.ended d 0 0)) ∧
    (s.starts q 0x05 c →
      ((s.ctx m).saveAt = none → Gives (.resume q) s fun t => t.ended c 0 0 ∧ (t.ctx m).st = .running ∧
        ∀ k ∈ s.launchCores m, (s.core k).run = .stopped → (t.core k).run = .running) ∧
      (∀ a h, (s.ctx m).saveAt = some a → s.busyWith m (s.launchClusters m) = some h → Gives (.resume q) s fun t => t.ended c 0x04 h ∧ t.ctxs = s.ctxs) ∧
      (∀ a, (s.ctx m).saveAt = some a → s.busyWith m (s.launchClusters m) = none → Gives (.resume q) s fun t => t.ended c 0 0 ∧
        (t.ctx m).st = .running ∧ (t.ctx m).saveAt = none ∧
        ∀ g, g < 8 → ∀ i ∈ maskClusters [(s.ctx m).groups.getD g 0], ∃ h, (t.cluster i).holder = some h ∧ h.val = m)) ∧
    (s.starts q 0x06 c →
      ((s.ctx m).st = .faulted → Gives (.cancel q) s fun t => ∃ h, (t.ctx m).hatch = some h ∧ h.reason = 2 ∧ c.id ∈ h.cmds) ∧
      ((s.ctx m).st ≠ .faulted → s.cancelTarget c = none → Gives (.cancel q) s fun t => t.ended c 0 0) ∧
      (∀ d, (s.ctx m).st ≠ .faulted → s.cancelTarget c = some d →
        (d.st = .waiting → Gives (.cancel q) s fun t => t.ended d 0x07 0 ∧ t.ended c 0 1) ∧
        (d.st = .ended → Gives (.cancel q) s fun t => t.ended c 0 0) ∧
        (d.st = .running → cmdOpc d.words = 0x03 → Gives (.cancel q) s fun t => ∃ h, (t.ctx m).hatch = some h ∧ h.reason = 2 ∧ c.id ∈ h.cmds)))

/-! Hangs, the hatch, CTX_DOWN, resets. -/

/-- A hung context, engine or unit starts the hatch with its reason (4, 5, 6), an engine hang also opens a record; the hatch sequence stops and
empties every core of the context, after the hatches of lower contexts that started in the same cycle, zeroes and releases its clusters, ends its
collectives and records itself in CTX_HATCH; once it is over the context is IDLE and its launch has ended. A CTX_DOWN acts once and ends the
collectives of its group PEER_DOWN.
That the span without progress has passed is the sender's word (log 20). -/
def Obligations.HangsAndHatch : Prop :=
  ∀ (n : CtxId) (cid : CoreId) (e : Engine) (u : UnitCode) (pn : Pennant) (s : State),
    let x := s.ctx n.val
    let key := coreKey cid
    let c := s.core key
    let hatched (t : State) (k reason : Nat) (unit : UnitCode) : Prop :=
      ∃ h, (t.ctx k).hatch = some h ∧ h.reason = reason ∧ h.unit = unit ∧ h.start = s.time ∧ h.acted = false
    let stopped (t : State) (k : Nat) : Prop := ∀ j, isCtl j = false → (s.core j).ctx.val = k → (s.core j).run = .running → (t.core j).run = .stopped
    (x.st = .running → s.bit (CTX_HANG.off n.val) CTX_HANG.EN = true → x.hatch = none →
      Gives (.contextHang n) s fun t => hatched t n.val 4 unitPkg ∧ stopped t n.val) ∧
    (x.st ≠ .running ∨ s.bit (CTX_HANG.off n.val) CTX_HANG.EN = false → exec (.contextHang n) s = .next s) ∧
    (let unit := s.unitOf key (engNo e)
     let next := s.fld ERR_RING_STS.off ERR_RING_STS.NEXT
     c.engineBusy e = true → (s.ctx c.ctx.val).hatch = none →
       Gives (.engineHang cid e) s fun t => hatched t c.ctx.val 5 unit ∧ stopped t c.ctx.val ∧
         (s.joinable (mkDet 0x0A unit (some c.ctx) 2 1 1 0 0 0 0) = none → recOpen (s.record next) = false →
           recOpen (t.record next) = true ∧ (recWord (t.record next) 0).fld 48 8 = 0x0A ∧ (recWord (t.record next) 1).fld 0 32 = unit.toNat)) ∧
    (c.engineBusy e = false → exec (.engineHang cid e) s = .next s) ∧
    (n.val ≠ 0 → x.hatch = none → Gives (.unitHang u n) s fun t => hatched t n.val 6 u ∧ stopped t n.val) ∧
    (∀ h, x.hatch = some h →
      ((h.acted = true ∨ s.hatchAhead n.val h = true) → exec (.hatchSequence n) s = .next s) ∧
      (h.acted = false → s.hatchAhead n.val h = false → Gives (.hatchSequence n) s fun t => (t.ctx n.val).hatch = some { h with acted := true } ∧
        (∀ j, isCtl j = false → (s.core j).ctx = n → (t.core j).run = .idle ∧ ∀ r, (t.core j).reg r = 0) ∧
        (∀ i, i < 48 → s.holds n.val (i / 12) (i % 12) = true → (t.cluster i).holder = none ∧
          ∀ y, y < 0x800000 → t.readByte (clusterMem (i / 12) (i % 12) + y) = 0) ∧
        (∀ d ∈ t.colls, d.ctx ≠ n) ∧ (∀ v ∈ t.votes, v.ctx ≠ n) ∧
        t.fld (CTX_HATCH.off n.val) CTX_HATCH.REASON = h.reason % 16 ∧ t.fld (CTX_HATCH.off n.val) CTX_HATCH.UNIT = h.unit.toNat ∧
        t.csrGet (CTX_HATCH_TIME.off n.val) = BitVec.ofNat 64 h.start) ∧
      (s.hatchOver n h = true → h.freset = false → Gives (.hatchComplete n) s fun t => (t.ctx n.val).hatch = none ∧ (t.ctx n.val).st = .idle ∧
        (t.ctx n.val).launch = none ∧ (∀ d ∈ s.cmds, x.launch = some d.id → d.st = .running →
          t.ended d (hatchStatus h.reason x.faultCode).1 (hatchStatus h.reason x.faultCode).2)) ∧
      (s.hatchOver n h = false → exec (.hatchComplete n) s = .next s)) ∧
    (let b := Pennant.held pn
     let at' (i k : Nat) : Nat := leNat ((b.drop i).take k)
     let id : DownId := ⟨at' 2 2, at' 6 2 % 32768, at' 0 1 % 64, at' 8 8⟩
     let down : Prop := pn.typ.toNat = tMGMT ∧ bits pn.addr.toNat 40 8 = 1
     (¬ down → exec (.ctxDownReceive pn) s = .next s) ∧
     (down → s.seenDown.contains id = true → Gives (.ctxDownReceive pn) s fun t => t.seenDown = s.seenDown ∧ t.colls = s.colls ∧ t.rq = s.rq) ∧
     (down → s.seenDown.contains id = false → Gives (.ctxDownReceive pn) s fun t => t.seenDown = s.seenDown ++ [id] ∧
       ∀ k g, id.gkey ≠ 0 → s.gByKey id.gkey = some (k, g) → ∀ d ∈ s.colls, d.live = true → d.ctx = k → d.grp = g →
         ∃ f ∈ t.colls, f.ctx = d.ctx ∧ f.grp = d.grp ∧ f.epoch = d.epoch ∧ f.st = .peerDown ∧ f.cause = 1))

/-- Resets. A package reset ends every command, deasserts READY, idles every core, zeroes the SRAM tiers, keeps HBM and the near tier, and records
its cause; the watchdog (cause 4) and a unit still stuck (cause 5 with AUTO) cause one, and without AUTO the unit is shuttered. A fabric-domain
reset ends every collective and empties the routing plane. OP cold is a trip of KIND 15. KICK restarts the watchdog; the end of a package reset
asserts READY when every link that a package reset answers for has a usable module.
What a reset keeps where the rules are silent is read by inference (log 48). -/
def Obligations.Resets : Prop :=
  ∀ (u : UnitCode) (s : State),
    let sts := PKG_RST_STS.off
    let reset (t : State) (cause : Nat) : Prop := t.power.rst = some cause ∧ t.power.fw = false ∧ t.ready = false ∧ t.fld sts PKG_RST_STS.CAUSE = cause ∧
      t.csrGet PKG_RST_TIME.off = BitVec.ofNat 64 s.time ∧ (∀ c ∈ t.cmds, c.st = .ended) ∧ (∀ k, (t.core k).run = .idle) ∧
      (∀ a, tierOf a = .hbm ∨ tierOf a = .near → t.readByte a = s.readByte a) ∧ t.colls = [] ∧ t.votes = [] ∧ t.staged = [] ∧
      (∀ a, (∃ k c, tierOf a = .cluster k c) ∨ (∃ k c q, tierOf a = .scratch k c q) → t.readByte a = 0)
    Gives .pkgRstPackage s (fun t => reset t 1) ∧
    (let lim := max 1 (s.fld PKG_RSTCTL.off PKG_RSTCTL.FW_WD_MS)
     let on := s.bit PKG_RSTCTL.off PKG_RSTCTL.FWWD_EN = true ∧ s.ready = true ∧ s.kicked + lim * 1000000 ≤ s.time
     (on → Gives .firmwareWatchdog s fun t => reset t 4) ∧ (¬ on → exec .firmwareWatchdog s = .next s)) ∧
    (s.armed 0x14 unitPkg = false → exec .kick s = .next { s with kicked := s.time }) ∧
    (s.armed 0x14 unitPkg = true → Gives .kick s fun t => t.kicked = s.kicked ∧ t.power = s.power) ∧
    (∀ i r, s.ring.find? (fun x => recOpen x.2 && (recWord x.2 0).fld 48 8 == 0x12 && (recWord x.2 1).fld 0 32 == u.toNat) = some (i, r) →
      (s.ctx ((recWord r 1).fld 32 6)).hatch = none →
      (s.bit PKG_RSTCTL.off PKG_RSTCTL.AUTO = true → Gives (.unitHangEscalate u) s fun t => reset t 5) ∧
      (s.bit PKG_RSTCTL.off PKG_RSTCTL.AUTO = false → Gives (.unitHangEscalate u) s fun t => u ∈ t.shut ∧ u ∈ t.flash.shut ∧ t.power = s.power)) ∧
    Gives .pkgRstFabric s (fun t => (∀ c ∈ t.colls, c.live = false) ∧ t.inbox = [] ∧ t.eseqTx = [] ∧ t.eseqRx = [] ∧
      t.fld sts PKG_RST_STS.CAUSE = 2 ∧ t.csrGet PKG_RST_TIME.off = BitVec.ofNat 64 s.time) ∧
    (s.power.on = true → Gives .pkgRstCold s fun t => t.power.on = false ∧ t.power.ok = false ∧ t.power.fail = true ∧ t.ready = false ∧
      ∃ tr rest, t.power.trips = tr :: rest ∧ tr.kind = 15) ∧
    (s.power.on = false → exec .pkgRstCold s = .next s) ∧
    (s.power.ok = true → s.power.fw = true → s.power.rst.isSome = true → s.linksUp = true → Gives .packageResetReady s fun t => t.power.rst = none ∧ t.ready = true ∧
      t.kicked = s.time ∧ t.mem = s.mem ∧ ∀ p f, p < 2 → f < 32 → t.bit (HST_FN_STS.off p f) HST_FN_STS.RDY = true) ∧
    (s.power.rst = none ∨ s.linksUp = false → exec .packageResetReady s = .next s)

/-! Errors, field test, injection, die links. -/

/-- The error collector. A detection joins the newest open record of its detector and unit, opens a record at NEXT, or, when that entry holds an
open record, only counts LOST; a corrected cell error that re-reads clean opens none and is charged. A record closes with its class; the history is
halved at its boundaries and written to flash. -/
def Obligations.ErrorRecords : Prop :=
  ∀ (d : Detection) (i : BitVec 32) (cl : Classification) (u : UnitCode) (s : State),
    let next := s.fld ERR_RING_STS.off ERR_RING_STS.NEXT
    let r := s.record i.toNat
    let named := recOpen r = true ∧ (recWord r 0).fld 0 32 = i.toNat
    (d.correctedClean = false → s.joinable d = none → recOpen (s.record next) = false →
      Gives (.errorDetection d) s fun t => recOpen (t.record next) = true ∧ (recWord (t.record next) 0).fld 48 8 = d.det.toNat ∧
        (recWord (t.record next) 0).fld 56 2 = d.sev.val ∧ (recWord (t.record next) 0).fld 40 2 = (firstLevel d).val ∧ (recWord (t.record next) 0).fld 0 32 = next ∧
        (recWord (t.record next) 1).fld 0 32 = d.unit.toNat ∧ recWord (t.record next) 3 = BitVec.ofNat 64 s.time ∧
        recWord (t.record next) 5 = d.detail ∧ t.fld ERR_RING_STS.off ERR_RING_STS.NEXT = (next + 1) % 2 ^ 32) ∧
    (d.correctedClean = false → s.joinable d = none → recOpen (s.record next) = true →
      Gives (.errorDetection d) s fun t => t.ring = s.ring ∧ t.fld ERR_RING_STS.off ERR_RING_STS.NEXT = next ∧
        t.fld ERR_RING_STS.off ERR_RING_STS.LOST = min (s.fld ERR_RING_STS.off ERR_RING_STS.LOST + 1) (2 ^ ERR_RING_STS.LOST.len - 1)) ∧
    (∀ k, d.correctedClean = false → s.joinable d = some k → (tget [] s.ring k).length = 8 →
      Gives (.errorDetection d) s fun t => t.fld ERR_RING_STS.off ERR_RING_STS.NEXT = next ∧
        (recWord (tget [] t.ring k) 7).fld 0 32 = min ((recWord (tget [] s.ring k) 7).fld 0 32 + 1) 0xFFFFFFFF) ∧
    (∀ h k, d.correctedClean = true → cellDet d.det.toNat = true → s.armed d.det.toNat d.unit = false → s.marked d.detail.toNat = false →
      s.hist.find? (fun h => h.unit == histUnit d.unit d.det.toNat) = some h → thrKind d.unit d.det.toNat = some k →
      s.fld (ERR_THR.off k) ERR_THR.TRANS = 0 → s.fld (ERR_THR.off k) ERR_THR.PERS = 0 →
      Gives (.errorDetection d) s fun t => t.ring = s.ring ∧
        t.hist.find? (fun h => h.unit == histUnit d.unit d.det.toNat) = some { h with trans := h.trans + 1, last := s.time, dirty := true }) ∧
    (named → cl.charge = false → Gives (.errorRecordClose i cl) s fun t => recOpen (t.record i.toNat) = false ∧
      (recWord (t.record i.toNat) 0).fld 58 3 = (if unclassified ((recWord r 0).fld 48 8) then 0 else if (recWord r 0).fld 48 8 = 0x16 then 2 else cl.cls.val) ∧ t.hist = s.hist) ∧
    (¬ named → exec (.errorRecordClose i cl) s = .next s ∧ exec (.icacheRecurrenceWindow i) s = .next s) ∧
    (named → (recWord r 0).fld 48 8 = 0x08 → (recWord r 3).toNat + 1000000000 ≤ s.time →
      Gives (.icacheRecurrenceWindow i) s fun t => recOpen (t.record i.toNat) = false) ∧
    (∀ h, s.hist.find? (fun h => h.unit == u) = some h →
      let due := h.made + (h.halvings + 1) * (max 1 (s.fld ERR_CTL.off ERR_CTL.WINDOW_H) * 3600000000000)
      (due ≤ s.time → Gives (.historyHalving u) s fun t => t = { s with hist := t.hist } ∧ t.hist.find? (fun h => h.unit == u) =
        some { h with trans := h.trans / 2, pers := h.pers / 2, halvings := h.halvings + 1, dirty := true }) ∧
      (s.time < due → exec (.historyHalving u) s = .next s) ∧
      (h.dirty = true → Gives (.historyFlashWrite u) s fun t => t = { s with hist := t.hist, flash := t.flash } ∧
        { h with dirty := false } ∈ t.flash.hist ∧ t.hist.find? (fun h => h.unit == u) = some { h with dirty := false }) ∧
      (h.dirty = false → exec (.historyFlashWrite u) s = .next s)) ∧
    (s.hist.find? (fun h => h.unit == u) = none → exec (.historyHalving u) s = .next s ∧ exec (.historyFlashWrite u) s = .next s)

/-- Field test in rotation order and time, TEST, RESTORE and CLEAR_HIST with their results; the sampled comparison; arming an injection.
Fields of the records are read by inference (log 53), injection is log 47. -/
def Obligations.FieldTests : Prop :=
  ∀ (k : Fin 4) (c : Fin 12) (u : UnitCode) (pass : Bool) (run1 run2 : SpareRun) (sz : CsrSize) (v : Word) (s : State),
    let j := k.val * 12 + c.val
    let x := s.cluster j
    let o := PKG_CORE_MAP.off k.val c.val
    let spare := s.fld o PKG_CORE_MAP.SPARE
    let busy := s.bit TST_STS.off TST_STS.BUSY
    let result (t : State) (n : Nat) : Prop := t.fld TST_STS.off TST_STS.RESULT = n ∧ t.bit TST_STS.off TST_STS.BUSY = false ∧
      t.fld TST_STS.off TST_STS.UNIT = u.toNat
    let due : Prop := s.bit TST_CTL.off TST_CTL.ROT_EN = true ∧ s.power.fw = true ∧ s.visitNext = some j ∧ s.testable k.val c.val = true ∧
      s.tst.visited + max 1 (s.fld TST_CTL.off TST_CTL.ROT_S) * 1000000000 ≤ s.time
    (due → Gives (.fieldTestVisit k c) s fun t =>
      (Config.contentOk s.flash.content = true →
        t = ({ s with tst := { s.tst with visit := (j + 1) % 48, visited := s.time } } : State).modCluster j fun c => { c with test := true }) ∧
        (Config.contentOk s.flash.content = false → t.clusters = s.clusters)) ∧
    (¬ due → exec (.fieldTestVisit k c) s = .next s) ∧
    (x.test = true → s.tst.cmd = none → s.armed 0x16 (mkUnit k.val c.val spare 0 0xFFFF) = false →
      (∀ q, s.swapCore k.val c.val = some q → Gives (.fieldTestDone k c true) s fun t => t = { s with clusters := t.clusters } ∧
        (t.cluster j).test = false ∧ (t.cluster j).testOk = true ∧ (t.cluster j).repSt = 1 ∧ (t.cluster j).swap = true ∧
        (t.cluster j).repPhys = s.physCore (k.val * 256 + c.val * 16 + q)) ∧
      (s.ring = [] → spare < 9 → Gives (.fieldTestDone k c false) s fun t => (t.cluster j).test = false ∧ t.fld o PKG_CORE_MAP.SPARE = 0xF ∧
        t.fld o PKG_CORE_MAP.RETIRED = s.fld o PKG_CORE_MAP.RETIRED ||| 2 ^ spare)) ∧
    (x.test = false → exec (.fieldTestDone k c pass) s = .next s) ∧
    (busy = true → exec (.test u) s = .next s ∧ exec (.restore u pass) s = .next s ∧ exec (.clearHist u) s = .next s) ∧
    (busy = false →
      (isCoreUnit u = false → Gives (.test u) s fun t => result t 3 ∧ t.clusters = s.clusters) ∧
      (isCoreUnit u = true → bits u.toNat 28 4 = k.val → bits u.toNat 24 4 = c.val → spare = bits u.toNat 20 4 →
        s.testable k.val c.val = true → Gives (.test u) s fun t =>
          (Config.contentOk s.flash.content = true → (t.cluster j).test = true ∧ (t.cluster j).visitQ = some 8 ∧
            t.bit TST_STS.off TST_STS.BUSY = true ∧ t.fld TST_STS.off TST_STS.UNIT = u.toNat) ∧
          (Config.contentOk s.flash.content = false → result t 3)) ∧
      (isCoreUnit u = false → restoreLinks u = [] → s.shut.contains u = true → bits u.toNat 16 4 = 4 ∨ bits u.toNat 16 4 = 7 →
        Gives (.restore u pass) s fun t => result t (if pass then 1 else 2) ∧ (pass = true → u ∉ t.shut ∧ u ∉ t.flash.shut) ∧
          (pass = false → t.shut = s.shut)) ∧
      (isCoreUnit u = true → restoreLinks u = [] → s.isRetired (bits u.toNat 28 4) (bits u.toNat 24 4) (bits u.toNat 20 4) = false →
        Gives (.restore u pass) s fun t => result t 3) ∧
      (∀ h, s.hist.find? (fun h => h.unit == u) = some h →
        (h.st = .active → Gives (.clearHist u) s fun t => result t 1 ∧ t.hist.find? (fun h => h.unit == u) = some { h with trans := 0, pers := 0, dirty := true }) ∧
        (h.st ≠ .active → Gives (.clearHist u) s fun t => result t 3 ∧ t.hist = s.hist)) ∧
      (s.hist.find? (fun h => h.unit == u) = none → Gives (.clearHist u) s fun t => result t 3)) ∧
    (x.sample = none → exec (.sampleCompare k c run1 run2) s = .next s) ∧
    (∀ p, x.sample = some p → run1.upset = [] → s.armed 0x15 (mkUnit k.val c.val p.phys engMx 0xFFFF) = false →
      Gives (.sampleCompare k c run1 run2) s fun t => (t.cluster j).sample = none ∧ t.ring = s.ring ∧ t.hist = s.hist ∧
        t.fld ERR_XSAMPLE_CNT.off ERR_XSAMPLE_CNT.DONE = min (s.fld ERR_XSAMPLE_CNT.off ERR_XSAMPLE_CNT.DONE + 1) (2 ^ ERR_XSAMPLE_CNT.DONE.len - 1) ∧
        t.fld ERR_XSAMPLE_CNT.off ERR_XSAMPLE_CNT.DIFF = s.fld ERR_XSAMPLE_CNT.off ERR_XSAMPLE_CNT.DIFF) ∧
    (let new := mergeSz (s.csrGet TST_INJ.off) sz v
     (s.bit TST_INJ.off TST_INJ.ARM = true → exec (.tstInjArm sz v) s = .next s) ∧
     (s.bit TST_INJ.off TST_INJ.ARM = false → sz ≠ .lo32 → getFld new TST_INJ.ARM = 1 → detListed (getFld new TST_INJ.DET) = true →
       unitNamed (BitVec.ofNat 32 (getFld new TST_INJ.UNIT)) = true → Gives (.tstInjArm sz v) s fun t => t.bit TST_INJ.off TST_INJ.ARM = true ∧
         t.fld TST_INJ.off TST_INJ.DET = getFld new TST_INJ.DET ∧ t.fld TST_INJ.off TST_INJ.UNIT = getFld new TST_INJ.UNIT ∧
         t.fld TST_INJ_STS.off TST_INJ_STS.FIRED = 0 ∧ t.tst.left = max 1 (getFld new TST_INJ.COUNT)))

/-- Die links: a retried flit is counted; parity above LANE_LIM takes the module for training with a free redundant lane in place of the bad one,
and the retrained module takes its new width; a changed map reaches flash.
The link's state during a retrain is read by inference (log 46). -/
def Obligations.DieLinks : Prop :=
  ∀ (n : Fin 16) (m : Nat) (lane : Fin 64) (dir : Bool) (e : BitVec 32) (s : State),
    let x := s.dlMod n.val m
    let o := PKG_DL_ERR.off n.val
    (m < dlCount n.val → x.usable = true →
      (Gives (.flitCrcRetry n m) s fun t => t.fld o PKG_DL_ERR.CRC = min (s.fld o PKG_DL_ERR.CRC + 1) (2 ^ PKG_DL_ERR.CRC.len - 1) ∧ t.dls = s.dls) ∧
      (s.fld PKG_DL_CTL.off PKG_DL_CTL.LANE_LIM < e.toNat → (x.map.lanes.filter fun l => l.2 == dir).length < 4 →
        Gives (.moduleRetrain n m (.parity lane dir e)) s fun t => (t.dlMod n.val m).st = .training ∧
          (t.dlMod n.val m).map.lanes = x.map.lanes ++ [(lane.val, dir)] ∧ (t.dlMod n.val m).dirty = true ∧
          ∀ j, j ≠ m → j < dlCount n.val → t.dlMod n.val j = s.dlMod n.val j) ∧
      (e.toNat ≤ s.fld PKG_DL_CTL.off PKG_DL_CTL.LANE_LIM → exec (.moduleRetrain n m (.parity lane dir e)) s = .next s)) ∧
    (x.usable = false → exec (.flitCrcRetry n m) s = .next s ∧ exec (.moduleRetrain n m .retry) s = .next s) ∧
    (m < dlCount n.val → x.st = .training → x.next = .full ∨ x.next = .half →
      Gives (.moduleRetrainComplete n m) s fun t => (t.dlMod n.val m).st = x.next ∧ (t.dlMod n.val m).map = x.map ∧ t.mem = s.mem) ∧
    (x.st ≠ .training → exec (.moduleRetrainComplete n m) s = .next s) ∧
    (m < dlCount n.val → x.dirty = true → x.map.lanes ≠ [] →
      Gives (.repairMapWrite n) s fun t => tget? t.flash.repair (dlKey n.val m) = some x.map ∧ ∀ j, j < dlCount n.val → (t.dlMod n.val j).dirty = false) ∧
    ((∀ j, j < dlCount n.val → (s.dlMod n.val j).dirty = false) → exec (.repairMapWrite n) s = .next s)

/-! Test access and security. -/

/-- The TAPs and wickets: Test-Logic-Reset selects IDCODE, whose four fields Capture-DR then loads for each die, Update-IR loads the instruction,
Update-DR issues an operation only with WKT selected and unlocked; TST_WKT_CMD is ignored while BUSY and refused for a die without a wicket; a read
of the units' state passes, an address outside every region and any TAP operation after a relock end DENIED, and the turn passes on. What a read of
a unit returns is a free value (log 25). -/
def Obligations.TestAccess : Prop :=
  ∀ (d : Fin 13) (e : Fin 16) (ir : BitVec 8) (dr : BitVec 98) (a : BitVec 32) (s : State),
    let w := s.wkt d.val
    let op := bits dr.toNat 96 2
    let go := w.ir = 0x10 ∧ s.scope 0 = true ∧ s.hasWicket d.val = true ∧ (op = 1 ∨ op = 2) ∧ w.tap = none
    let busy := s.bit TST_WKT_STS.off TST_WKT_STS.BUSY
    let code := s.captureDr d.val
    (w.ir = 0x01 → code.1 = 32 ∧ bits code.2.toNat 28 4 = 1 ∧ bits code.2.toNat 12 16 = 0x4B20 + d.val ∧ bits code.2.toNat 1 11 = 0x2C7 ∧
      bits code.2.toNat 0 1 = 1) ∧
    Gives .tapReset s (fun t => t = { s with wkts := t.wkts } ∧ ∀ k, k < 13 → t.wkt k = { s.wkt k with ir := 0x01 }) ∧
    Gives (.tapUpdateIr d ir) s (fun t => t = { s with wkts := t.wkts } ∧ t.wkt d.val = { w with ir := ir } ∧ ∀ k, k ≠ d.val → t.wkt k = s.wkt k) ∧
    (go → Gives (.wktUpdateDr d dr) s fun t => t = { s with wkts := t.wkts } ∧
      t.wkt d.val = { w with tap := some (op, bits dr.toNat 64 32, BitVec.ofNat 64 (bits dr.toNat 0 64)) }) ∧
    (¬ go → exec (.wktUpdateDr d dr) s = .next s) ∧
    (busy = true → exec (.wicketRead e a) s = .next s ∧ exec (.wicketWrite e a) s = .next s) ∧
    (busy = false → s.hasWicket e.val = false →
      (Gives (.wicketRead e a) s fun t => t = { s with csr := t.csr } ∧ t.fld TST_WKT_STS.off TST_WKT_STS.RESULT = 3) ∧
      (Gives (.wicketWrite e a) s fun t => t = { s with csr := t.csr } ∧ t.fld TST_WKT_STS.off TST_WKT_STS.RESULT = 3)) ∧
    (busy = false → s.hasWicket e.val = true →
      (Gives (.wicketRead e a) s fun t => t.bit TST_WKT_STS.off TST_WKT_STS.BUSY = true ∧ t.wkt e.val = { s.wkt e.val with ctl := some (1, a.toNat) }) ∧
      (Gives (.wicketWrite e a) s fun t => t.bit TST_WKT_STS.off TST_WKT_STS.BUSY = true ∧ t.wkt e.val = { s.wkt e.val with ctl := some (2, a.toNat) })) ∧
    (s.scanHeld d.val = true → exec (.wicketOperationComplete d) s = .next s) ∧
    (∀ x, s.scanHeld d.val = false → w.ctl = some x → w.tap = none ∨ w.last = false →
      (x.1 = 1 → x.2 < 0x10000000 → Gives (.wicketOperationComplete d) s fun t => t.fld TST_WKT_STS.off TST_WKT_STS.RESULT = 1 ∧
        t.bit TST_WKT_STS.off TST_WKT_STS.BUSY = false ∧ t.wkt d.val = { w with ctl := none, last := true }) ∧
      (0x50000000 ≤ x.2 → Gives (.wicketOperationComplete d) s fun t => t.fld TST_WKT_STS.off TST_WKT_STS.RESULT = 2 ∧
        t.bit TST_WKT_STS.off TST_WKT_STS.BUSY = false ∧ t.wkt d.val = { w with ctl := none, last := true })) ∧
    (∀ x, s.scanHeld d.val = false → w.tap = some x → w.ctl = none ∨ w.last = true → s.scope 0 = false →
      Gives (.wicketOperationComplete d) s fun t => t = { s with wkts := t.wkts } ∧ t.wkt d.val = { w with tap := none, last := false, denied := true })

/-- The security engine. Through a mailbox that takes objects: Discovery lists the objects; QUOTE answers BUSY, NOT_READY or EXHAUSTED, else signs at
NEXT, which advances, and at RESV programs the next reservation first or answers FLASH; a good token unlocks its scopes; IMAGE writes the slot that
did not boot; a good authorisation makes a new identity key with RESV and NEXT 0. RELOCK ends the unlock. Only M8 to M15 are extended by firmware.
The order of statuses is read by inference (log 59), the DOE layout is presumed (log 26). -/
def Obligations.SecurityEngine : Prop :=
  ∀ (p : Fin 2) (l : LinkAB) (index off : Nat) (nonce : BitVec 256) (mask : BitVec 16) (log flashOk : Bool) (tok : DebugToken) (bytes : List Byte)
    (au : RekeyAuth) (n : Fin 16) (s : State),
    let next := s.fld SEC_ATT_IDX.off SEC_ATT_IDX.NEXT
    let resv := s.fld SEC_ATT_RESV.off SEC_ATT_RESV.RESV
    let answers (t : State) (b : List Byte) : Prop := t.hostOut = s.hostOut ++ [.doe p.val l b]
    (s.mailbox p.val l = false → exec (.doeDiscovery p l index) s = .next s ∧ exec (.quote p l nonce mask log flashOk) s = .next s ∧
      exec (.debugUnlock p l tok) s = .next s ∧ exec (.image p l off bytes) s = .next s ∧ exec (.idCert p l) s = .next s ∧ exec (.rekey p l au) s = .next s) ∧
    (s.mailbox p.val l = true →
      (index ≤ 5 → Gives (.doeDiscovery p l index) s fun t => t = { s with hostOut := t.hostOut } ∧
        answers t (leBytes 2 (if index = 0 then 1 else Config.vendorId.toNat) ++ leBytes 1 index ++ leBytes 1 (if index < 5 then index + 1 else 0))) ∧
      (s.sec.cache = false → Gives (.quote p l nonce mask log flashOk) s fun t => t = { s with hostOut := t.hostOut } ∧ answers t [1]) ∧
      (s.sec.cache = true → s.power.fw = false → Gives (.quote p l nonce mask log flashOk) s fun t => t = { s with hostOut := t.hostOut } ∧ answers t [4]) ∧
      (s.sec.cache = true → s.power.fw = true →
        (2 ^ 40 - 1024 ≤ next → Gives (.quote p l nonce mask log flashOk) s fun t => answers t [2] ∧ t.fld SEC_STS.off SEC_STS.ATT = 2 ∧
          t.fld SEC_ATT_IDX.off SEC_ATT_IDX.NEXT = next) ∧
        (next < 2 ^ 40 - 1024 → next = resv → flashOk = false → Gives (.quote p l nonce mask log flashOk) s fun t => answers t [3] ∧
          t.fld SEC_STS.off SEC_STS.ATT = 3 ∧ t.fld SEC_ATT_IDX.off SEC_ATT_IDX.NEXT = next) ∧
        (next < 2 ^ 40 - 1024 → next ≠ resv ∨ flashOk = true → Gives (.quote p l nonce mask log flashOk) s fun t =>
          t.fld SEC_ATT_IDX.off SEC_ATT_IDX.NEXT = next + 1 ∧ t.fld SEC_ATT_RESV.off SEC_ATT_RESV.RESV = (if next = resv then next + 1024 else resv) ∧
          ∃ body, answers t ([0] ++ (body ++ Config.idSign s.flash.gen next body)) ∧ (body.drop 16).take 8 = leBytes 8 next)) ∧
      (let good := tok.serial == Config.serial && tok.challenge == s.challenge && Config.tokenSig (tokenBytes tok) tok.sig
       Gives (.debugUnlock p l tok) s fun t =>
         (good = true → answers t [0] ∧ t.fld SEC_STS.off SEC_STS.DEBUG = s.fld SEC_STS.off SEC_STS.DEBUG ||| tok.scope.toNat % 8) ∧
         (good = false → answers t [6] ∧ t.fld SEC_STS.off SEC_STS.DEBUG = s.fld SEC_STS.off SEC_STS.DEBUG)) ∧
      (s.power.rst = none → s.power.fw = true → bytes ≠ [] → bytes.length ≤ 65536 → Gives (.image p l off bytes) s fun t => answers t [0] ∧
        t = { s with hostOut := t.hostOut, flash := t.flash } ∧
        let slot := 1 - s.fld SEC_STS.off SEC_STS.FW_SLOT
        ∃ b, tget? t.flash.images slot = some b ∧ (b.drop off).take bytes.length = bytes ∧
          tget? t.flash.images (s.fld SEC_STS.off SEC_STS.FW_SLOT) = tget? s.flash.images (s.fld SEC_STS.off SEC_STS.FW_SLOT)) ∧
      (s.power.rst.isSome = true → Gives (.image p l off bytes) s fun t => t = { s with hostOut := t.hostOut } ∧ answers t [1]) ∧
      (s.flash.unsigned = false → Gives (.idCert p l) s fun t => t = { s with hostOut := t.hostOut } ∧
        answers t ([0] ++ (Config.idCert ++ Config.idPub s.flash.gen ++ s.flash.stmt))) ∧
      (Gives (.rekey p l au) s fun t =>
        (s.authOk au = true → t.flash.gen = s.flash.gen + 1 ∧ t.flash.rekeys = au.count.toNat ∧
          t.fld SEC_ATT_IDX.off SEC_ATT_IDX.NEXT = 0 ∧ t.fld SEC_ATT_RESV.off SEC_ATT_RESV.RESV = 0 ∧
          t.fld SEC_STS.off SEC_STS.REKEYS = au.count.toNat % 2 ^ SEC_STS.REKEYS.len ∧
          answers t ([0] ++ (t.flash.stmt ++ Config.idPub (s.flash.gen + 1)))) ∧
        (s.authOk au = false → t = { s with hostOut := t.hostOut } ∧ answers t [6]))) ∧
    Gives .relock s (fun t => t.fld SEC_STS.off SEC_STS.DEBUG = 0 ∧
      t.meas 7 = Config.shake (leBytes 32 (s.meas 7).toNat ++ leBytes 32 relockDigest.toNat) ∧ t.flash = s.flash) ∧
    (n.val < 8 → exec (.secMeasExtend n) s = .next s) ∧
    (8 ≤ n.val → Gives (.secMeasExtend n) s fun t =>
      t.meas n.val = Config.shake (leBytes 32 (s.meas n.val).toNat ++ leBytes 32 (s.reg256 SEC_MEAS_DATA.off).toNat) ∧
      ∀ m, m < 16 → m ≠ n.val → t.meas m = s.meas m) ∧
    (s.power.ok = true → s.sec.cache = false → next < 2 ^ 40 - 1024 → Gives .idKeyCacheReady s fun t => t.sec.cache = true ∧
      t.fld SEC_STS.off SEC_STS.ATT = 1) ∧
    (s.sec.cache = true → exec .idKeyCacheReady s = .next s)

/-! Power: trips, start-up, louvres. -/

/-- A protection whose reading passes its threshold trips a module that is on: PWR_OK and READY fall, PWR_FAIL is due, memory is not yet touched, and
the newest of the at most 16 logged trips has the KIND, the sensor, the value and the fabric time last received. A reading within the threshold
changes nothing unless an injection says otherwise. A rail is held against its set value in force; while a louvre change moves it, against the old
and the new one.
What a trip touches before PWR_FAIL is the model's choice (log 54). -/
def Obligations.PowerTrips : Prop :=
  ∀ (n : Fin 16) (d : Fin 4) (m : Fin 12) (st : Fin 2) (v : Nat) (t8 : Int) (s : State),
    let tripped (kind sensor value : Nat) (t : State) : Prop :=
      t.power.on = false ∧ t.power.ok = false ∧ t.power.fail = true ∧ t.power.fw = false ∧ t.ready = false ∧
        t.bit PWR_STS.off PWR_STS.PWR_OK = false ∧ t.mem = s.mem ∧ t.power.trips.length ≤ 16 ∧
        ∃ x rest, t.power.trips = x :: rest ∧ x.kind = kind ∧ x.sensor = sensor ∧ x.value = value % 65536 ∧ x.time = s.power.heard
    let prot (i : Instr) (det kind sensor value : Nat) (high : Bool) (past : Prop) : Prop :=
      (past → s.power.on = true → Gives i s (tripped kind sensor value)) ∧
      (¬ past → s.pwrInjected det sensor high = false → exec i s = .next s) ∧ (s.power.on = false → exec i s = .next s)
    let deg := (BitVec.ofInt 16 t8).toNat
    let up := s.power.ok = true
    let set := s.fld (PWR_RAIL.off n.val) PWR_RAIL.SET
    (up → s.power.moving.contains n.val = false → s.setBand n.val = (set, set)) ∧
    prot (.inputUndervoltage v) 0x17 1 0 v false (v < 46000) ∧
    prot (.inputOvervoltage v) 0x17 2 0 v true (60500 < v) ∧
    prot (.inputOvercurrent v) 0x18 3 0 v true (650 ≤ v) ∧
    prot (.inputSwitchShort v) 0x18 4 0 v true True ∧
    (railStage n.val = s.power.groups → v * 10 < railMv n.val 0 * 9 → s.power.on = true → Gives (.railStartFail n v) s (tripped 5 n.val v)) ∧
    (railStage n.val ≠ s.power.groups ∨ railMv n.val 0 * 9 ≤ v * 10 → exec (.railStartFail n v) s = .next s) ∧
    (up → prot (.railUndervoltage n v) 0x19 6 n.val v false (v * 100 < (s.setBand n.val).1 * 95)) ∧
    (¬ up → exec (.railUndervoltage n v) s = .next s ∧ exec .pmLinkTrip s = .next s) ∧
    prot (.railOvervoltage n v) 0x19 7 n.val v true ((s.setBand n.val).2 * 108 < v * 100) ∧
    prot (.railOvercurrent n v) 0x19 8 n.val v true (railLimit n.val ≤ v) ∧
    prot (.dieOverTemperature d t8) 0x1C 9 d.val deg true (115 * 8 < t8) ∧
    prot (.hbmOverTemperature m t8) 0x1C 10 (4 + m.val) deg true (105 * 8 < t8) ∧
    prot (.coolantTemperatureTrip t8) 0x1D 11 0 deg true (50 * 8 < t8) ∧
    prot (.coolantFlowTrip v) 0x1D 12 2 v false (v < 500) ∧
    prot (.converterOverTemperature st t8) 0x1E 13 st.val deg true (125 * 8 < t8) ∧
    (up → s.power.silent = true → s.power.on = true → Gives .pmLinkTrip s (tripped 14 0 0)) ∧
    exec .reversedInput s = .next s

/-- PWR_FAIL leaves the machine as after a cold reset but for flash, fuses and the trip log. After a trip the module starts again by its KIND; rail
groups rise in order, PWR_OK follows group 3, and READY is asserted with verified firmware over tiers of zeros.
What survives and the restart conditions where R599 is silent are the model's choice (log 54, log 58). -/
def Obligations.StartUp : Prop :=
  ∀ (g : RailGroup) (id : BitVec 4) (inlet8 : Int) (flow : Nat) (s : State),
    let starts (t : State) : Prop := t.power.on = true ∧ t.power.ok = false ∧ t.power.groups = 0 ∧ t.power.t0 = s.power.clock ∧ t.power.trip = none
    (s.power.fail = true → Gives .pwrFail s fun t => t.csr = State.reset.csr ∧ t.mem = State.reset.mem ∧ t.cores = State.reset.cores ∧ t.ring = State.reset.ring ∧ t.fuses = s.fuses ∧
      t.flash.regs = s.flash.regs ∧ t.flash.images = s.flash.images ∧ t.flash.colds = s.flash.colds + 1 ∧ t.power.trips = s.power.trips ∧
      t.pending = s.pending) ∧
    (s.power.fail = false → exec .pwrFail s = .next s) ∧
    (s.power.on = false → s.power.ok = false →
      (s.power.trip = none ∨ (∃ t1, s.power.trip = some (1, t1)) → Gives .inputRise s starts) ∧
      (∀ k t1, s.power.trip = some (k, t1) → k ≠ 1 → s.power.held = false → exec .inputRise s = .next s) ∧
      (∀ k t1, s.power.trip = some (k, t1) → k ≠ 1 →
        (s.power.held = false → t1 + (if k = 15 then 100000000 else 1000000000) ≤ s.power.clock → (k = 11 ∨ k = 12 → inlet8 ≤ 40 * 8 ∧ 2500 ≤ flow) →
          Gives (.tripRestart inlet8 flow) s starts) ∧
        (s.power.held = true ∨ s.power.clock < t1 + (if k = 15 then 100000000 else 1000000000) ∨ ((k = 11 ∨ k = 12) ∧ (40 * 8 < inlet8 ∨ flow < 2500)) →
          exec (.tripRestart inlet8 flow) s = .next s))) ∧
    (s.power.on = true → exec .inputRise s = .next s) ∧
    (s.power.on = true → s.power.groups = groupStage g → Gives (.railGroupUp g) s fun t =>
      t = { s with power := t.power } ∧ t.power.groups = groupStage g + 1 ∧ t.power.on = true) ∧
    (s.power.groups ≠ groupStage g → exec (.railGroupUp g) s = .next s) ∧
    (s.power.on = true → s.power.ok = false → s.power.fail = false → s.power.groups = 5 → Gives (.pwrOk id) s fun t =>
      t.power.ok = true ∧ t.power.on = true ∧ t.bit PWR_STS.off PWR_STS.PWR_OK = true ∧ t.fuses = s.fuses ∧
        ∀ x rest, s.power.trips = x :: rest → t.fld PKG_RST_STS.off PKG_RST_STS.CAUSE = (if x.kind = 15 then 3 else if 2 ≤ x.kind ∧ x.kind ≤ 14 then 6 else 0)) ∧
    (s.power.groups ≠ 5 → exec (.pwrOk id) s = .next s) ∧
    (s.power.ok = true → s.power.fw = false → s.ready = false →
      Gives .firmwareVerify s fun t =>
        (∀ x, s.imageOrder.find? s.imageOk = some x → t.power.fw = true ∧ t.fld SEC_STS.off SEC_STS.FW_OK = 1 ∧
          t.fld SEC_STS.off SEC_STS.SVN = x.2.2.svn.toNat) ∧
        (s.imageOrder.find? s.imageOk = none → t.power.fw = false ∧ t.fld SEC_STS.off SEC_STS.FW_OK = 0 ∧ t.ready = false)) ∧
    (s.power.ok = true → s.power.fw = true → s.ready = false → s.power.rst = none → Gives .readyAssert s fun t =>
      t.ready = true ∧ ∀ a, tierOf a = .hbm ∨ tierOf a = .near → t.readByte a = 0) ∧
    (s.power.ok = false ∨ s.power.fw = false → exec .readyAssert s = .next s)

/-- The louvre step of each compute die is the greatest demand on it and CAUSE the lowest of the greatest; each limiter raises and lowers its
demand as its row says.
That a peak demand falls with the power cap's is read by inference (log 55). -/
def Obligations.LouvreDemands : Prop :=
  ∀ (n : Fin 8) (tm : Temps) (pm : PmMeasure) (v : Word) (inlet8 : Int) (flow : Nat) (s : State),
    let settled (t : State) : Prop := ∀ k, k < 4 → ∃ c, 1 ≤ c ∧ c ≤ 10 ∧ t.fld PWR_LOUVRE.off ⟨16 + 4 * k, 4⟩ = c ∧ t.demandOf k c = t.louvre k ∧
      ∀ x, 1 ≤ x → x ≤ 10 → t.demandOf k x ≤ t.louvre k ∧ (t.demandOf k x = t.louvre k → c ≤ x)
    let up (x a : Nat) : Nat := min 15 (x + a)
    let p1 := s.fld PWR_IN.off PWR_IN.P1MS
    let cap := s.fld PWR_CAP.off PWR_CAP.CAP
    let tj : Int := s.fld PWR_THERM.off PWR_THERM.TJ_TARGET
    let therm (old : Nat) (t hi lo : Int) : Nat := if hi < t then up old 1 else if t < lo ∧ tm.tenth = true then old - 1 else old
    (s.power.ok = true →
      (cap < p1 → Gives .powerCapEvaluation s fun t => settled t ∧ t.bit PWR_EVT.off PWR_EVT.CAP = true ∧
        ∀ k, k < 4 → t.demandOf k 2 = up (s.demandOf k 2) 1) ∧
      (p1 * 100 < cap * 95 → 9 ≤ tget 0 s.power.calm 2 → Gives .powerCapEvaluation s fun t => settled t ∧
        ∀ k, k < 4 → t.demandOf k 2 = s.demandOf k 2 - 1 ∧ t.demandOf k 3 = s.demandOf k 3 - 1) ∧
      (p1 ≤ cap → ¬ (p1 * 100 < cap * 95 ∧ 9 ≤ tget 0 s.power.calm 2) → Gives .powerCapEvaluation s fun t => settled t ∧
        ∀ k c, t.demandOf k c = s.demandOf k c) ∧
      (s.fld PWR_CAP.off PWR_CAP.PEAK < s.fld PWR_IN.off PWR_IN.P100US → Gives .peakEvaluation s fun t => settled t ∧
        ∀ k, k < 4 → t.demandOf k 3 = up (s.demandOf k 3) 2) ∧
      (s.fld PWR_IN.off PWR_IN.P100US ≤ s.fld PWR_CAP.off PWR_CAP.PEAK → exec .peakEvaluation s = .next s) ∧
      (Gives (.railCurrentDemand n .reach) s fun t => settled t ∧ t.demandOf (n.val % 4) 4 = up (s.demandOf (n.val % 4) 4) 2 ∧
        t.bit PWR_STS.off ⟨16 + n.val, 1⟩ = true) ∧
      (Gives (.railCurrentDemand n .stay) s fun t => settled t ∧ t.demandOf (n.val % 4) 4 = up (s.demandOf (n.val % 4) 4) 1) ∧
      (Gives (.railCurrentDemand n .clear10ms) s fun t => settled t ∧ t.demandOf (n.val % 4) 4 = s.demandOf (n.val % 4) 4 - 1 ∧
        t.bit PWR_STS.off ⟨16 + n.val, 1⟩ = false) ∧
      (Gives (.thermalDemandEvaluation tm) s fun t => settled t ∧ ∀ k, k < 4 →
        t.demandOf k 5 = (if (tj + 10) * 8 < tm.tj.getD k 0 then 15 else therm (s.demandOf k 5) (tm.tj.getD k 0) (tj * 8) ((tj - 3) * 8)) ∧
        t.demandOf k 6 = (if 100 * 8 < tm.thbm.getD k 0 then 15 else therm (s.demandOf k 6) (tm.thbm.getD k 0) (90 * 8) (87 * 8)) ∧
        t.demandOf k 9 = therm (s.demandOf k 9) tm.conv (110 * 8) (105 * 8)) ∧
      (Gives (.coolantDemand inlet8 flow) s fun t => settled t ∧ ∀ k, k < 4 →
        t.demandOf k 7 = (if 45 * 8 < inlet8 then 15 else 2 * ((inlet8 - 40 * 8) / 8).toNat) ∧
        t.demandOf k 8 = if flow < 1500 then 15 else if flow < 2500 then 8 else 0) ∧
      (Gives .pmLinkSilent s fun t => settled t ∧ t.bit PWR_STS.off PWR_STS.LINK = false ∧ ∀ k, k < 4 → t.demandOf k 10 = 15 ∧ t.louvre k = 15) ∧
      (Gives (.pmLinkMessage pm) s fun t => settled t ∧ t.bit PWR_STS.off PWR_STS.LINK = true ∧ t.power.silent = false ∧
        t.fld PWR_IN.off PWR_IN.VIN = pm.vin.toNat ∧ t.fld PWR_IN.off PWR_IN.IIN = pm.iin.toNat ∧ t.fld PWR_IN.off PWR_IN.P1MS = pm.p1ms.toNat ∧
        t.fld PWR_IN.off PWR_IN.P100US = pm.p100us.toNat ∧ ∀ k, k < 4 → t.demandOf k 10 = 0)) ∧
    (s.power.ok = false → ∀ i ∈ [Instr.powerCapEvaluation, .peakEvaluation, .railCurrentDemand n .reach, .thermalDemandEvaluation tm,
      .coolantDemand inlet8 flow, .pmLinkSilent, .pmLinkMessage pm], exec i s = .next s) ∧
    (Gives (.pwrLouvreWrite .w64 v) s fun t => settled t ∧ t.fld PWR_LOUVRE.off PWR_LOUVRE.FLOOR = v.fld 44 4) ∧
    exec (.pwrLouvreWrite .lo32 v) s = .next s

/-- A step change completes at the voltage and clock of the step in force; a step that stayed for 1 ms is reported; a droop halves ACLK, is counted
and ends after 200 ns; a rail goes to local sensing; a refresh shows the measurements.
The raise after repeated droops as a demand of cause 4 is the model's choice (log 56). -/
def Obligations.PowerMeasures : Prop :=
  ∀ (k : Fin 4) (n : Fin 16) (m : Sensors) (s : State),
    (s.power.moving.contains k.val = true → Gives (.louvreChangeComplete k) s fun t =>
      t.fld (PWR_RAIL.off k.val) PWR_RAIL.SET = (if s.louvre k.val ≤ 8 then 750 - 10 * s.louvre k.val else 670) ∧
        tget? t.power.aclk k.val = some (s.louvre k.val) ∧ t.power.moving.contains k.val = false) ∧
    (s.power.moving.contains k.val = false → exec (.louvreChangeComplete k) s = .next s) ∧
    (∀ t1, tget? s.power.changed k.val = some t1 →
      (t1 + 1000000 ≤ s.time → (tget? s.power.posted k.val = none ∨ s.power.due.contains k.val = true) → Gives (.powerRecord k) s fun t =>
        tget? t.power.changed k.val = none ∧ tget? t.power.posted k.val = some s.time ∧ t.power.due.contains k.val = false) ∧
      (s.time < t1 + 1000000 → exec (.powerRecord k) s = .next s) ∧
      (∀ t2, tget? s.power.posted k.val = some t2 → s.time < t2 + 10000000 → s.power.due.contains k.val = false → exec (.powerRecord k) s = .next s)) ∧
    (tget? s.power.changed k.val = none → exec (.powerRecord k) s = .next s) ∧
    (s.power.ok = true → Gives (.droop k false) s fun t =>
      t.fld PWR_DROOP.off ⟨16 * k.val, 16⟩ = min (s.fld PWR_DROOP.off ⟨16 * k.val, 16⟩ + 1) 0xFFFF ∧ t.bit PWR_EVT.off PWR_EVT.DROOP = true ∧
        tget? t.power.halved k.val = some s.time) ∧
    (s.power.ok = true → (tget [] s.power.droops k.val).length < 16 → Gives (.droop k false) s fun t => ∀ j, t.louvre j = s.louvre j) ∧
    (∀ t1, tget? s.power.halved k.val = some t1 →
      (t1 + 200 ≤ s.time → Gives (.droopRecovery k) s fun t => t = { s with power := t.power } ∧ tget? t.power.halved k.val = none) ∧
      (s.time < t1 + 200 → exec (.droopRecovery k) s = .next s)) ∧
    (tget? s.power.halved k.val = none → exec (.droopRecovery k) s = .next s) ∧
    (s.power.ok = true → Gives (.senseOpen n) s fun t => t.bit PWR_STS.off ⟨32 + n.val, 1⟩ = true ∧ t.bit PWR_EVT.off PWR_EVT.SENSE_OPEN = true ∧
      ∀ j, j ≠ n.val → j < 16 → t.bit PWR_STS.off ⟨32 + j, 1⟩ = s.bit PWR_STS.off ⟨32 + j, 1⟩) ∧
    (s.power.ok = true → Gives (.sensorRefresh m) s fun t => t.fld PWR_FLOW.off PWR_FLOW.FLOW = m.flow.toNat ∧
      t.fld PWR_STS.off PWR_STS.LIMIT = m.limit.toNat ∧ t.fld PWR_IN.off PWR_IN.P1MS = m.pm.p1ms.toNat ∧
      ∀ j, j < 16 → t.fld (PWR_RAIL.off j) PWR_RAIL.V = (m.rails.getD j (0, 0)).1.toNat ∧
        t.fld (PWR_RAIL.off j) PWR_RAIL.I = (m.rails.getD j (0, 0)).2.toNat ∧ t.fld (PWR_RAIL.off j) PWR_RAIL.SET = s.fld (PWR_RAIL.off j) PWR_RAIL.SET) ∧
    (s.power.ok = false → exec (.droop k false) s = .next s ∧ exec (.senseOpen n) s = .next s ∧ exec (.sensorRefresh m) s = .next s)

/-! Counters, telemetry, registers. -/

/-- Marks open and close the timers of their context and tag, the end marks of one moment before its start marks (log 76); counters wrap at 48 bits
into a chained one or into OVF. The telemetry record and the I3C target that reads it; PPS_IN.
The address rules of I3C are presumed (log 61); fabric time after 1 PPS is a constant of Config (log 7). -/
def Obligations.CountersAndTelemetry : Prop :=
  ∀ (n : CtxId) (tag : Fin 16) (c : CoreId) (p : Fin 8) (amount len : Nat) (b : Byte) (bs : List Byte) (da : BitVec 7) (s : State),
    let marked (i : Nat) : Prop := i ∈ s.markedBy n.val tag.val
    let isOpen (i : Nat) : Prop := s.bit (PHT_STS.off i) PHT_STS.OPEN = true
    let nend (i : Nat) := max 1 (s.fld (PHT_CFG.off i) PHT_CFG.NEND)
    let kept (i : Nat) (t : State) : Prop := ∀ o ∈ [PHT_CFG.off i, PHT_START.off i, PHT_END.off i, PHT_STS.off i, PHT_SUM.off i], t.csrGet o = s.csrGet o
    let key := coreKey c
    let j := p.val + 1
    let cnt (t : State) (j : Nat) := t.fld (pmcCnt key j) CORE_PMC_CNT.COUNT
    let sum := cnt s j + amount
    let runs := isCtl key = false ∧ s.bit (pmcSel key j) CORE_PMC_SEL.EN = true ∧ s.bit PMC_CTL.off PMC_CTL.FREEZE = false ∧
      (j = 1 ∨ s.bit (pmcSel key (j - 1)) CORE_PMC_SEL.CHAIN = false)
    let fresh (i : Nat) : Prop := s.markedNow i = true ∧ (s.csrGet (PHT_START.off i)).toNat = s.time
    (Gives (.phaseStartMark n tag) s fun t => t = { s with csr := t.csr, phMark := t.phMark } ∧ ∀ i, i < 32 →
      (marked i → t.markedNow i = true) ∧
      (marked i → ¬ isOpen i → t.csrGet (PHT_START.off i) = BitVec.ofNat 64 s.time ∧ t.bit (PHT_STS.off i) PHT_STS.OPEN = true ∧
        t.fld (PHT_STS.off i) PHT_STS.MARKS = 0 ∧ t.fld (PHT_STS.off i) PHT_STS.COUNT = s.fld (PHT_STS.off i) PHT_STS.COUNT) ∧
      (¬ marked i ∨ isOpen i → kept i t)) ∧
    (Gives (.phaseEndMark n tag) s fun t => t = { s with csr := t.csr } ∧ ∀ i, i < 32 →
      (marked i → isOpen i → ¬ fresh i → nend i ≤ s.fld (PHT_STS.off i) PHT_STS.MARKS + 1 → t.csrGet (PHT_END.off i) = BitVec.ofNat 64 s.time ∧
        t.bit (PHT_STS.off i) PHT_STS.OPEN = s.markedNow i ∧ (s.markedNow i = true → t.csrGet (PHT_START.off i) = BitVec.ofNat 64 s.time) ∧ t.fld (PHT_STS.off i) PHT_STS.COUNT = min (s.fld (PHT_STS.off i) PHT_STS.COUNT + 1) 0xFFFFFFFF ∧
        t.fld (PHT_SUM.off i) PHT_SUM.NS =
          min (s.fld (PHT_SUM.off i) PHT_SUM.NS + (s.time - (s.csrGet (PHT_START.off i)).toNat)) 0xFFFFFFFFFFFFFFFF) ∧
      (marked i → isOpen i → ¬ fresh i → s.fld (PHT_STS.off i) PHT_STS.MARKS + 1 < nend i → t.bit (PHT_STS.off i) PHT_STS.OPEN = true ∧
        t.fld (PHT_STS.off i) PHT_STS.MARKS = s.fld (PHT_STS.off i) PHT_STS.MARKS + 1 ∧ t.csrGet (PHT_SUM.off i) = s.csrGet (PHT_SUM.off i)) ∧
      (¬ marked i ∨ ¬ isOpen i ∨ fresh i → kept i t)) ∧
    (runs → Gives (.pmcCounterWrap c p amount) s fun t => CountsOnly key s t ∧ cnt t j = sum % 2 ^ 48 ∧
      (sum < 2 ^ 48 → t.csrGet (CORE_PMC_OVF.off (keyDie key) (keyCl key) (keyQ key)) = s.csrGet (CORE_PMC_OVF.off (keyDie key) (keyCl key) (keyQ key))) ∧
      (2 ^ 48 ≤ sum → s.bit (pmcSel key j) CORE_PMC_SEL.CHAIN = false ∨ j = 8 →
        t.fld (CORE_PMC_OVF.off (keyDie key) (keyCl key) (keyQ key)) CORE_PMC_OVF.OVF / 2 ^ p.val % 2 = 1) ∧
      (2 ^ 48 ≤ sum → s.bit (pmcSel key j) CORE_PMC_SEL.CHAIN = true → j < 8 → s.bit (pmcSel key (j + 1)) CORE_PMC_SEL.EN = true →
        cnt t (j + 1) = (cnt s (j + 1) + sum / 2 ^ 48) % 2 ^ 48)) ∧
    (isCtl key = true ∨ s.bit (pmcSel key j) CORE_PMC_SEL.EN = false ∨ s.bit PMC_CTL.off PMC_CTL.FREEZE = true →
      exec (.pmcCounterWrap c p amount) s = .next s) ∧
    (s.power.ok = true → Gives .telemetryRefresh s fun t => t = { s with tele := t.tele } ∧ t.tele.words.length = 8 ∧
      (recWord t.tele.words 0).fld 32 32 = ((recWord s.tele.words 0).fld 32 32 + 1) % 2 ^ 32 ∧ (recWord t.tele.words 0).flag 31 = s.ready ∧
      (recWord t.tele.words 0).flag 30 = true ∧ recWord t.tele.words 1 = BitVec.ofNat 64 s.time ∧
      t.tele.energy = s.tele.energy + s.sens.pm.p1ms.toNat ∧ recWord t.tele.words 7 = BitVec.ofNat 64 (t.tele.energy / 1000 % 2 ^ 48)) ∧
    (s.power.ok = true → s.tele.da = none →
      (Gives (.i3cEntdaa da) s fun t => t = { s with tele := t.tele } ∧ t.tele.da = some da ∧ t.tele.words = s.tele.words) ∧
      (Gives (.i3cSetdasa 0x5C da) s fun t => t = { s with tele := t.tele } ∧ t.tele.da = some da) ∧
      (∀ sa : BitVec 7, sa ≠ 0x5C → exec (.i3cSetdasa sa da) s = .next s) ∧
      exec (.i3cPrivateWrite (b :: bs)) s = .next s ∧ exec (.i3cPrivateRead len) s = .next s) ∧
    (s.power.ok = true → s.tele.da ≠ none →
      (Gives (.i3cPrivateWrite (b :: bs)) s fun t => t = { s with tele := t.tele } ∧ t.tele.ptr = b.toNat) ∧
      (Gives (.i3cPrivateRead len) s fun t => t = { s with tele := t.tele } ∧ t.tele.ptr = (s.tele.ptr + len) % 256 ∧
        ∃ out, t.tele.sent = s.tele.sent ++ [out] ∧ out.length = len ∧ ∀ i, i < len →
          (let a := (s.tele.ptr + i) % 256
           (a < 0x40 → out.getD i 0 = BitVec.ofNat 8 ((recWord s.tele.words (a / 8)).fld (8 * (a % 8)) 8)) ∧ (0x4A ≤ a → out.getD i 0 = 0xFF))) ∧
      exec (.i3cEntdaa da) s = .next s ∧ exec (.i3cSetdasa 0x5C da) s = .next s) ∧
    (s.power.ok = true → Gives .ppsEdge s fun t => t = { s with time := t.time } ∧ t.time = Config.ppsTime s.time) ∧
    (s.power.ok = false → exec .telemetryRefresh s = .next s ∧ exec .ppsEdge s = .next s ∧ exec (.i3cPrivateWrite (b :: bs)) s = .next s ∧
      exec (.i3cPrivateRead len) s = .next s ∧ exec (.i3cEntdaa da) s = .next s)

/-- Writes of registers by access code, by halves and within a field's range; a context's access outside its block and an access of a bad size
make the fault ACCESS, a host reads all ones and a record opens with DET 0x13; an injection armed for it makes a write such an access. SEV, DETAIL
and UNIT of the record are the model's choice (log 62). With no command waiting, fabric time and the power clock go on (log 3).
Half writes of action registers are log 62; the idle step is the model's choice. -/
def Obligations.RegisterAccess : Prop :=
  ∀ (n : CtxId) (p : Fin 2) (f : Fin 32) (off : Nat) (sz : CsrSize) (v : Word) (rd : Bool) (who : Who) (s : State),
    let next := s.fld ERR_RING_STS.off ERR_RING_STS.NEXT
    let free := s.armed 0x13 unitPkg = false
    let hfree := s.armed 0x13 (unitPcie p.val) = false
    let recorded (u : UnitCode) (sev opkind a : Nat) (t : State) : Prop := recOpen (s.record next) = false →
      (∀ d : Detection, d.det = 0x13 → d.unit = u → s.joinable d = none) →
      let r := t.record next
      recOpen r = true ∧ (recWord r 0).fld 48 8 = 0x13 ∧ (recWord r 0).fld 56 2 = sev ∧ (recWord r 2).fld 56 8 = opkind ∧
        (recWord r 1).fld 0 32 = u.toNat ∧ recWord r 5 = BitVec.ofNat 64 a
    let fault : FaultRec := ⟨n, .access, 0, 0, 0, csrBase + off, unitPkg, s.time⟩
    let tj := v.fld 56 8
    (s.armed 0x13 (whoUnit who) = true → Gives (.csrWrite who off sz v) s fun t => exec (.csrAccessBadSize who off false) s = .next t) ∧
    (free → n ≠ 0 → (off < 0x20000 + n.val * 0x1000 ∨ 0x20000 + (n.val + 1) * 0x1000 ≤ off) → s.hatching n.val = false →
      Gives (.csrWrite (.ctx n) off sz v) s fun t => t = { s with faults := s.faults ++ [fault] }) ∧
    (free → Gives (.csrWrite (.ctx 0) PWR_THERM.off .w64 v) s fun t =>
      t.fld PWR_THERM.off PWR_THERM.TJ_TARGET = (if 70 ≤ tj ∧ tj ≤ 100 then tj else s.fld PWR_THERM.off PWR_THERM.TJ_TARGET) ∧
        (∀ o, o ≠ PWR_THERM.off → t.csrGet o = s.csrGet o) ∧ t = { s with csr := t.csr }) ∧
    (free → Gives (.csrWrite (.ctx 0) PWR_THERM.off .lo32 v) s fun t => ∀ o, t.csrGet o = s.csrGet o) ∧
    (free → Gives (.csrWrite (.ctx 0) PWR_LOUVRE.off .lo32 v) s fun t => t = s) ∧
    (free → Gives (.csrWrite (.ctx 0) PWR_EVT.off .w64 v) s fun t => (∀ o, o ≠ PWR_EVT.off → t.csrGet o = s.csrGet o) ∧
      ∀ i, i < 7 → t.bit PWR_EVT.off ⟨i, 1⟩ = (s.bit PWR_EVT.off ⟨i, 1⟩ && !v.getLsbD i)) ∧
    (∀ o ∈ [PWR_IN.off, PWR_STS.off, PWR_TEMP.off, PWR_FLOW.off, PWR_TRIP.off, SEC_STS.off],
      free → Gives (.csrWrite (.ctx 0) o sz v) s fun t => (∀ x, t.csrGet x = s.csrGet x) ∧ t = { s with csr := t.csr }) ∧
    (free → 0x60000 ≤ off → regAt off = none → exec (.csrWrite (.ctx 0) off sz v) s = .next s) ∧
    (free → Gives (.csrWrite (.ctx n) (CTX_PHASE.off n.val) .w64 (BitVec.ofNat 64 (put 1 62))) s fun t => exec (.phaseStartMark n 0) s = .next t) ∧
    (hfree → s.fnLive p.val f.val = false → exec (.csrWrite (.host p f) off sz v) s = .next s) ∧
    (hfree → s.fnLive p.val f.val = true → 0x80000 ≤ off → exec (.csrWrite (.host p f) off sz v) s = .next s) ∧
    (s.hatching n.val = false → Gives (.csrAccessBadSize (.ctx n) off rd) s fun t => fault ∈ t.faults ∧ t.mem = s.mem ∧
      recorded unitPkg 2 0 (csrBase + off) t) ∧
    (Gives (.csrAccessBadSize (.host p f) off true) s fun t =>
      t.hostOut = s.hostOut ++ [.readData p.val f.val (List.replicate 8 0xFF) false] ∧ t.mem = s.mem ∧
      recorded (unitPcie p.val) 1 7 off t) ∧
    (Gives (.csrAccessBadSize (.host p f) off false) s fun t => t.hostOut = s.hostOut ∧ t.mem = s.mem ∧ recorded (unitPcie p.val) 1 7 off t) ∧
    (s.pending = [] → ∃ t, step s = .next t ∧ t.pending = [] ∧ t.mem = s.mem ∧ t.cores = s.cores ∧ t.ring = s.ring ∧ t.faults = s.faults ∧
      t.power.clock = s.power.clock + 1 ∧ t.time = if s.power.ok = true then s.time + 1 else s.time)
end

