-- ==== Sys2Proof/Laws/Keeps.lean ====
section
/-! SUPPORT. What no command undoes: the memory's canonical form, the queue of commands, the fuses and the counts of module flash that only
rise, and the number of free values drawn. -/

namespace Sys2Proof.Machine

/-- What every operation keeps from `a` to `b`. -/
structure State.Keeps (a b : State) : Prop where
  mem     : a.mem.wf = true → b.mem.wf = true
  pending : b.pending = a.pending
  floor   : a.fuses.floor ≤ b.fuses.floor
  revoked : b.fuses.revoked = a.fuses.revoked
  gen     : a.flash.gen ≤ b.flash.gen
  rekeys  : a.flash.rekeys ≤ b.flash.rekeys
  colds   : a.flash.colds ≤ b.flash.colds
  free    : a.freeCtr ≤ b.freeCtr

theorem State.Keeps.refl (a : State) : a.Keeps a :=
  ⟨id, rfl, Nat.le_refl _, rfl, Nat.le_refl _, Nat.le_refl _, Nat.le_refl _, Nat.le_refl _⟩

/-- The state of an outcome keeps what `a` has. -/
structure State.KeepsOut (a : State) (o : Host.Outcome State Fault Refusal) : Prop where
  out : ∀ t, o = .next t → a.Keeps t
theorem State.KeepsOut.next {a t : State} (h : a.Keeps t) : a.KeepsOut (.next t) := ⟨fun _ e => by injection e with e; exact e ▸ h⟩

/-- The state of an optional result keeps what `a` has. -/
structure State.KeepsO (a : State) (o : Option State) : Prop where
  out : ∀ t, o = some t → a.Keeps t
theorem State.KeepsO.none {a : State} : a.KeepsO .none := ⟨fun _ e => by cases e⟩
theorem State.KeepsO.some {a t : State} (h : a.Keeps t) : a.KeepsO (.some t) := ⟨fun _ e => by injection e with e; exact e ▸ h⟩
theorem State.KeepsO.map {a : State} {o : Option State} {f : State → State} (h : a.KeepsO o) (hf : ∀ s, a.Keeps s → a.Keeps (f s)) :
    a.KeepsO (o.map f) := by
  cases o with
  | none => exact .none
  | some t => exact .some (hf t (h.out t rfl))

theorem State.Keeps.foldl {α : Type} {a : State} {f : State → α → State} (hf : ∀ s x, a.Keeps s → a.Keeps (f s x)) (l : List α) {s : State}
    (h : a.Keeps s) : a.Keeps (l.foldl f s) := by
  induction l generalizing s with
  | nil => exact h
  | cons x t ih => exact ih (hf s x h)

theorem State.Keeps.foldl1 {α β : Type} {a : State} {f : State × β → α → State × β} (hf : ∀ s x, a.Keeps s.1 → a.Keeps (f s x).1) (l : List α)
    {s : State × β} (h : a.Keeps s.1) : a.Keeps (l.foldl f s).1 := by
  induction l generalizing s with
  | nil => exact h
  | cons x t ih => exact ih (hf s x h)

theorem State.Keeps.foldl2 {α β : Type} {a : State} {f : β × State → α → β × State} (hf : ∀ s x, a.Keeps s.2 → a.Keeps (f s x).2) (l : List α)
    {s : β × State} (h : a.Keeps s.2) : a.Keeps (l.foldl f s).2 := by
  induction l generalizing s with
  | nil => exact h
  | cons x t ih => exact ih (hf s x h)

theorem State.Keeps.foldl22 {α β γ : Type} {a : State} {f : β × γ × State → α → β × γ × State} (hf : ∀ s x, a.Keeps s.2.2 → a.Keeps (f s x).2.2)
    (l : List α) {s : β × γ × State} (h : a.Keeps s.2.2) : a.Keeps (l.foldl f s).2.2 := by
  induction l generalizing s with
  | nil => exact h
  | cons x t ih => exact ih (hf s x h)

theorem State.Keeps.elim {α : Type} {a x : State} {f : α → State} {o : Option α} (h : a.Keeps x) (hf : ∀ y, a.Keeps (f y)) : a.Keeps (o.elim x f) := by
  cases o with
  | none => exact h
  | some y => exact hf y

/-! An update of fields that are not kept. -/

theorem State.Keeps.ite {a x y : State} {c : Prop} {d : Decidable c} (h : c → a.Keeps x) (k : ¬ c → a.Keeps y) : a.Keeps (ite c x y) := by
  by_cases hc : c
  · rw [if_pos hc]; exact h hc
  · rw [if_neg hc]; exact k hc

theorem State.Keeps.ite1 {α : Type} {a : State} {x y : State × α} {c : Prop} {d : Decidable c} (h : c → a.Keeps x.1) (k : ¬ c → a.Keeps y.1) :
    a.Keeps (if c then x else y).1 := by
  by_cases hc : c
  · rw [if_pos hc]; exact h hc
  · rw [if_neg hc]; exact k hc

theorem State.Keeps.ite2 {α : Type} {a : State} {x y : α × State} {c : Prop} {d : Decidable c} (h : c → a.Keeps x.2) (k : ¬ c → a.Keeps y.2) :
    a.Keeps (if c then x else y).2 := by
  by_cases hc : c
  · rw [if_pos hc]; exact h hc
  · rw [if_neg hc]; exact k hc

theorem State.Keeps.upd {a b : State} {csr : Tbl Word} {cores : Tbl Core} {clusters : Tbl Cluster} {parked : Tbl (List Parked)} {atomAns :
    List (Nat × Word × Bool)} {strms : StreamTab} {incs : List Inc} {faults : List FaultRec} {hostOut : List HostOut} {ring : Tbl (List
    Word)} {hist : List Hist} {spareRows : Tbl Nat} {shut : List UnitCode} {ctxs : Tbl Ctx} {cmds : List Cmd} {nextCmd : Nat} {qpos : Tbl
    QPos} {evqs : Tbl EvQ} {windows : Tbl Window} {aps : Tbl Aperture} {notices : List Word} {progs : List CcProg} {ccRegs : Tbl Core}
    {pports : Tbl PPort} {newReqs : List Req} {rq : List RIn} {inbox : List RIn} {fports : Tbl FPort} {dets : Tbl Detour} {relays : Tbl
    Relay} {eseqTx : Tbl Nat} {eseqRx : Tbl (Nat × Bool)} {oreqs : List OReq} {late : List (PkgId × Nat × BitVec 16)} {wbad : Tbl Nat}
    {wacks : List WAck} {resps : List Pennant} {netOut : List NetMsg} {serving : List AtomReq} {offers : List Offer} {staged : List Chunk}
    {steps : List StepRec} {applies : List Apply} {updCmds : List UpdCmd} {hals : Tbl Hal} {vholds : List VHold} {colls : List Coll} {votes
    : List Vote} {tokens : List (CtxId × Pennant)} {colOrd : Nat} {nextServe : Nat} {sens : Sensors} {kicked : Nat} {msix : Tbl Word} {pba :
    Tbl Nat} {seenDown : List DownId} {dls : Tbl DlMod} {wkts : Tbl Wkt} {power : Power} {sec : Sec} {tst : Tst} {tele : Tele} {dieCyc : Tbl
    Nat} {autoStep : Tbl Nat} {phMark : Tbl Nat} {arb : Tbl Nat} {time : Nat} {cclk5 : Nat} :
    a.Keeps (State.mk csr b.mem cores clusters parked atomAns strms incs faults hostOut ring hist spareRows shut ctxs cmds nextCmd qpos evqs
    windows aps notices progs ccRegs pports newReqs rq inbox fports dets relays eseqTx eseqRx oreqs late wbad wacks resps netOut serving
    offers staged steps applies updCmds hals vholds colls votes tokens colOrd nextServe sens kicked msix pba seenDown dls wkts power b.flash
    b.fuses sec tst tele dieCyc autoStep phMark arb time cclk5 b.freeCtr b.pending) ↔ a.Keeps b :=
  ⟨fun h => ⟨h.mem, h.pending, h.floor, h.revoked, h.gen, h.rekeys, h.colds, h.free⟩,
    fun h => ⟨h.mem, h.pending, h.floor, h.revoked, h.gen, h.rekeys, h.colds, h.free⟩⟩

theorem State.Keeps.updFlash {a b : State} {csr : Tbl Word} {cores : Tbl Core} {clusters : Tbl Cluster} {parked : Tbl (List Parked)}
    {atomAns : List (Nat × Word × Bool)} {strms : StreamTab} {incs : List Inc} {faults : List FaultRec} {hostOut : List HostOut} {ring : Tbl
    (List Word)} {hist : List Hist} {spareRows : Tbl Nat} {shut : List UnitCode} {ctxs : Tbl Ctx} {cmds : List Cmd} {nextCmd : Nat} {qpos :
    Tbl QPos} {evqs : Tbl EvQ} {windows : Tbl Window} {aps : Tbl Aperture} {notices : List Word} {progs : List CcProg} {ccRegs : Tbl Core}
    {pports : Tbl PPort} {newReqs : List Req} {rq : List RIn} {inbox : List RIn} {fports : Tbl FPort} {dets : Tbl Detour} {relays : Tbl
    Relay} {eseqTx : Tbl Nat} {eseqRx : Tbl (Nat × Bool)} {oreqs : List OReq} {late : List (PkgId × Nat × BitVec 16)} {wbad : Tbl Nat}
    {wacks : List WAck} {resps : List Pennant} {netOut : List NetMsg} {serving : List AtomReq} {offers : List Offer} {staged : List Chunk}
    {steps : List StepRec} {applies : List Apply} {updCmds : List UpdCmd} {hals : Tbl Hal} {vholds : List VHold} {colls : List Coll} {votes
    : List Vote} {tokens : List (CtxId × Pennant)} {colOrd : Nat} {nextServe : Nat} {sens : Sensors} {kicked : Nat} {msix : Tbl Word} {pba :
    Tbl Nat} {seenDown : List DownId} {dls : Tbl DlMod} {wkts : Tbl Wkt} {power : Power} {sec : Sec} {tst : Tst} {tele : Tele} {dieCyc : Tbl
    Nat} {autoStep : Tbl Nat} {phMark : Tbl Nat} {arb : Tbl Nat} {time : Nat} {cclk5 : Nat} {f_regs : Tbl Word} {f_hist : List Hist} {f_shut
    : List UnitCode} {f_rows : Tbl Nat} {f_repair : Tbl DlMap} {f_images : Tbl (List Byte)} {f_content : List Byte} {f_resv : List (Nat ×
    Nat × Bool)} {f_stmt : List Byte} {f_unsigned : Bool} {f_spent : Bool} {f_full : Bool} :
    a.Keeps (State.mk csr b.mem cores clusters parked atomAns strms incs faults hostOut ring hist spareRows shut ctxs cmds nextCmd qpos evqs
    windows aps notices progs ccRegs pports newReqs rq inbox fports dets relays eseqTx eseqRx oreqs late wbad wacks resps netOut serving
    offers staged steps applies updCmds hals vholds colls votes tokens colOrd nextServe sens kicked msix pba seenDown dls wkts power
    (Flash.mk f_regs f_hist f_shut f_rows f_repair f_images f_content f_resv b.flash.gen b.flash.rekeys b.flash.colds f_stmt f_unsigned
    f_spent f_full) b.fuses sec tst tele dieCyc autoStep phMark arb time cclk5 b.freeCtr b.pending) ↔ a.Keeps b :=
  ⟨fun h => ⟨h.mem, h.pending, h.floor, h.revoked, h.gen, h.rekeys, h.colds, h.free⟩,
    fun h => ⟨h.mem, h.pending, h.floor, h.revoked, h.gen, h.rekeys, h.colds, h.free⟩⟩

theorem State.Keeps.updPoison {a b : State} {csr : Tbl Word} {cores : Tbl Core} {clusters : Tbl Cluster} {parked : Tbl (List Parked)}
    {atomAns : List (Nat × Word × Bool)} {strms : StreamTab} {incs : List Inc} {faults : List FaultRec} {hostOut : List HostOut} {ring : Tbl
    (List Word)} {hist : List Hist} {spareRows : Tbl Nat} {shut : List UnitCode} {ctxs : Tbl Ctx} {cmds : List Cmd} {nextCmd : Nat} {qpos :
    Tbl QPos} {evqs : Tbl EvQ} {windows : Tbl Window} {aps : Tbl Aperture} {notices : List Word} {progs : List CcProg} {ccRegs : Tbl Core}
    {pports : Tbl PPort} {newReqs : List Req} {rq : List RIn} {inbox : List RIn} {fports : Tbl FPort} {dets : Tbl Detour} {relays : Tbl
    Relay} {eseqTx : Tbl Nat} {eseqRx : Tbl (Nat × Bool)} {oreqs : List OReq} {late : List (PkgId × Nat × BitVec 16)} {wbad : Tbl Nat}
    {wacks : List WAck} {resps : List Pennant} {netOut : List NetMsg} {serving : List AtomReq} {offers : List Offer} {staged : List Chunk}
    {steps : List StepRec} {applies : List Apply} {updCmds : List UpdCmd} {hals : Tbl Hal} {vholds : List VHold} {colls : List Coll} {votes
    : List Vote} {tokens : List (CtxId × Pennant)} {colOrd : Nat} {nextServe : Nat} {sens : Sensors} {kicked : Nat} {msix : Tbl Word} {pba :
    Tbl Nat} {seenDown : List DownId} {dls : Tbl DlMod} {wkts : Tbl Wkt} {power : Power} {sec : Sec} {tst : Tst} {tele : Tele} {dieCyc : Tbl
    Nat} {autoStep : Tbl Nat} {phMark : Tbl Nat} {arb : Tbl Nat} {time : Nat} {cclk5 : Nat} {poison : List Nat} :
    a.Keeps (State.mk csr (Memory.mk b.mem.cells poison) cores clusters parked atomAns strms incs faults hostOut ring hist spareRows shut
    ctxs cmds nextCmd qpos evqs windows aps notices progs ccRegs pports newReqs rq inbox fports dets relays eseqTx eseqRx oreqs late wbad
    wacks resps netOut serving offers staged steps applies updCmds hals vholds colls votes tokens colOrd nextServe sens kicked msix pba
    seenDown dls wkts power b.flash b.fuses sec tst tele dieCyc autoStep phMark arb time cclk5 b.freeCtr b.pending) ↔ a.Keeps b :=
  ⟨fun h => ⟨h.mem, h.pending, h.floor, h.revoked, h.gen, h.rekeys, h.colds, h.free⟩,
    fun h => ⟨h.mem, h.pending, h.floor, h.revoked, h.gen, h.rekeys, h.colds, h.free⟩⟩

/-! Memory. -/

theorem cellsWf_cons {k : Nat} {v : Byte} {t : List Host.Cell} :
    cellsWf ((k, v) :: t) = true ↔ v ≠ 0 ∧ (∀ x ∈ t, k < x.1) ∧ cellsWf t = true := by
  simp [cellsWf, and_assoc]

theorem mem_tset {α : Type} {t : Tbl α} {k : Nat} {a : α} {x : Nat × α} (h : x ∈ tset t k a) : x = (k, a) ∨ x ∈ t := by
  induction t with
  | nil => simpa [tset] using h
  | cons y t ih =>
    simp only [tset] at h
    split at h
    · simpa using h
    · split at h
      · grind
      · grind

theorem cellsWf_tset {t : List Host.Cell} {k : Nat} {v : Byte} (h : cellsWf t = true) (hv : v ≠ 0) : cellsWf (tset t k v) = true := by
  induction t with
  | nil => exact cellsWf_cons.2 ⟨hv, by simp, rfl⟩
  | cons y t ih =>
    obtain ⟨j, b⟩ := y
    obtain ⟨hb, hj, ht⟩ := cellsWf_cons.1 h
    simp only [tset]
    split
    · refine cellsWf_cons.2 ⟨hv, ?_, h⟩
      intro x hx
      rcases List.mem_cons.1 hx with rfl | hx
      · assumption
      · have := hj x hx; omega
    · split
      · next hk => subst hk; exact cellsWf_cons.2 ⟨hv, hj, ht⟩
      · refine cellsWf_cons.2 ⟨hb, ?_, ih ht⟩
        intro x hx
        rcases mem_tset hx with rfl | hx
        · simp only; omega
        · exact hj x hx

theorem cellsWf_filter {t : List Host.Cell} {p : Host.Cell → Bool} (h : cellsWf t = true) : cellsWf (t.filter p) = true := by
  induction t with
  | nil => rfl
  | cons y t ih =>
    obtain ⟨j, b⟩ := y
    obtain ⟨hb, hj, ht⟩ := cellsWf_cons.1 h
    simp only [List.filter_cons]
    split
    · exact cellsWf_cons.2 ⟨hb, fun x hx => hj x (List.mem_filter.1 hx).1, ih ht⟩
    · exact ih ht

/-- Writing one byte keeps the canonical form. -/
theorem Memory.put_wf {m : Memory} (k : Nat) (v : Byte) (h : m.wf = true) : (m.put k v).wf = true := by
  unfold Memory.put Memory.wf
  split
  · exact cellsWf_filter h
  · exact cellsWf_tset h ‹_›

/-- A read of the byte written gives it, and of any other byte what it held. -/
theorem tget_tset {α : Type} (d : α) (t : Tbl α) (k j : Nat) (a : α) : tget d (tset t k a) j = if j = k then a else tget d t j := by
  induction t with
  | nil => grind [tset, tget]
  | cons y t ih => grind [tset, tget]

theorem tget_terase {α : Type} (d : α) (t : Tbl α) (k j : Nat) : tget d (terase t k) j = if j = k then d else tget d t j := by
  induction t with
  | nil => simp [terase, tget]
  | cons y t ih =>
    have e : terase (y :: t) k = if y.1 = k then terase t k else y :: terase t k := by
      simp only [terase, List.filter_cons]
      split <;> split <;> simp_all
    rw [e]
    grind [tget]

/-- Reading a byte after a write of one. -/
theorem Memory.get_put (m : Memory) (k j : Nat) (v : Byte) : (m.put k v).get j = if j = k then v else m.get j := by
  unfold Memory.put Memory.get
  split
  · next h => simp only [tget_terase]; simp [h]
  · simp only [tget_tset]

end Sys2Proof.Machine
end

