-- ==== Sys2Proof/Laws/Csr.lean ====
section
/-! SUPPORT. Reading a register or a field after a write: what the write set, everything else unchanged. -/

namespace Sys2Proof.Machine

theorem bits_testBit (v lo len i : Nat) : (bits v lo len).testBit i = (decide (i < len) && v.testBit (lo + i)) := by
  simp [bits, Nat.testBit_mod_two_pow, Nat.testBit_shiftRight]

theorem setFld_testBit {lo len : Nat} (w : Word) (v i : Nat) (hi : i < 64) :
    (w.setFld lo len v).toNat.testBit i = if lo ≤ i ∧ i < lo + len then v.testBit (i - lo) else w.toNat.testBit i := by
  have h1 : ((w.setFld lo len v).toNat.testBit i) = (w.setFld lo len v).getLsbD i := by
    rw [BitVec.getLsbD]
  have h2 : w.toNat.testBit i = w.getLsbD i := by rw [BitVec.getLsbD]
  rw [h1, h2]
  simp only [Word.setFld, BitVec.getLsbD_or, BitVec.getLsbD_and, BitVec.getLsbD_not, BitVec.getLsbD_ofNat, Nat.testBit_mod_two_pow,
    Nat.testBit_shiftLeft, Nat.testBit_two_pow_sub_one, hi, decide_true, Bool.true_and]
  by_cases h : lo ≤ i <;> by_cases k : i < lo + len
  · have : i - lo < len := by omega
    simp [h, k, this]
  · have : ¬ (i - lo < len) := by omega
    simp [h, k, this]
  · simp [h]
  · simp [h]

/-- The field written reads as the value. -/
theorem getFld_putFld (w : Word) (f : Fld) (v : Nat) (h : f.lo + f.len ≤ 64) : getFld (putFld w f v) f = v % 2 ^ f.len := by
  apply Nat.eq_of_testBit_eq
  intro i
  simp only [getFld, putFld, Word.fld, bits_testBit, Nat.testBit_mod_two_pow]
  by_cases hi : i < f.len
  · rw [setFld_testBit _ _ _ (by omega)]
    simp [hi]
  · simp [hi]

/-- A field that does not overlap the one written reads as before. -/
theorem getFld_putFld_ne (w : Word) (f g : Fld) (v : Nat) (hg : g.lo + g.len ≤ 64) (h : f.lo + f.len ≤ g.lo ∨ g.lo + g.len ≤ f.lo) :
    getFld (putFld w f v) g = getFld w g := by
  apply Nat.eq_of_testBit_eq
  intro i
  simp only [getFld, putFld, Word.fld, bits_testBit]
  by_cases hi : i < g.len
  · rw [setFld_testBit _ _ _ (by omega)]
    have : ¬ (f.lo ≤ g.lo + i ∧ g.lo + i < f.lo + f.len) := by omega
    simp [hi, this]
  · simp [hi]

theorem csrGet_csrSet (s : State) (off off' : Nat) (v : Word) : (s.csrSet off v).csrGet off' = if off' = off then v else s.csrGet off' := by
  unfold State.csrSet State.csrGet
  by_cases h : off' = off <;> simp [tget_tset, h]

@[simp] theorem csrGet_csrSet_same (s : State) (off : Nat) (v : Word) : (s.csrSet off v).csrGet off = v := by simp [csrGet_csrSet]
theorem csrGet_csrSet_ne {s : State} {off off' : Nat} {v : Word} (h : off' ≠ off) : (s.csrSet off v).csrGet off' = s.csrGet off' := by
  simp [csrGet_csrSet, h]

@[simp] theorem csrGet_setFld_same (s : State) (off : Nat) (f : Fld) (v : Nat) : (s.setFld off f v).csrGet off = putFld (s.csrGet off) f v := by
  simp [State.setFld]
theorem csrGet_setFld_ne {s : State} {off off' : Nat} {f : Fld} {v : Nat} (h : off' ≠ off) : (s.setFld off f v).csrGet off' = s.csrGet off' := by
  simp [State.setFld, csrGet_csrSet, h]

theorem fld_setFld_same (s : State) (off : Nat) (f : Fld) (v : Nat) (h : f.lo + f.len ≤ 64) : (s.setFld off f v).fld off f = v % 2 ^ f.len := by
  simp [State.fld, getFld_putFld _ _ _ h]
theorem fld_setFld_other (s : State) (off : Nat) (f g : Fld) (v : Nat) (hg : g.lo + g.len ≤ 64) (h : f.lo + f.len ≤ g.lo ∨ g.lo + g.len ≤ f.lo) :
    (s.setFld off f v).fld off g = s.fld off g := by
  simp [State.fld, getFld_putFld_ne _ _ _ _ hg h]
theorem fld_setFld_ne {s : State} {off off' : Nat} {f g : Fld} {v : Nat} (h : off' ≠ off) : (s.setFld off f v).fld off' g = s.fld off' g := by
  simp [State.fld, csrGet_setFld_ne h]

end Sys2Proof.Machine
end

