-- ==== Sys2Proof/Laws/State.lean ====
section
/-! SUPPORT. What a named update leaves alone: one lemma for each field of the state and each of the plain updates. -/

namespace Sys2Proof.Machine

@[simp] theorem State.csrSet_mem (s : State) (off : Nat) (v : Word) : (s.csrSet off v).mem = s.mem := rfl
@[simp] theorem State.csrSet_cores (s : State) (off : Nat) (v : Word) : (s.csrSet off v).cores = s.cores := rfl
@[simp] theorem State.csrSet_clusters (s : State) (off : Nat) (v : Word) : (s.csrSet off v).clusters = s.clusters := rfl
@[simp] theorem State.csrSet_parked (s : State) (off : Nat) (v : Word) : (s.csrSet off v).parked = s.parked := rfl
@[simp] theorem State.csrSet_atomAns (s : State) (off : Nat) (v : Word) : (s.csrSet off v).atomAns = s.atomAns := rfl
@[simp] theorem State.csrSet_strms (s : State) (off : Nat) (v : Word) : (s.csrSet off v).strms = s.strms := rfl
@[simp] theorem State.csrSet_incs (s : State) (off : Nat) (v : Word) : (s.csrSet off v).incs = s.incs := rfl
@[simp] theorem State.csrSet_faults (s : State) (off : Nat) (v : Word) : (s.csrSet off v).faults = s.faults := rfl
@[simp] theorem State.csrSet_hostOut (s : State) (off : Nat) (v : Word) : (s.csrSet off v).hostOut = s.hostOut := rfl
@[simp] theorem State.csrSet_ring (s : State) (off : Nat) (v : Word) : (s.csrSet off v).ring = s.ring := rfl
@[simp] theorem State.csrSet_hist (s : State) (off : Nat) (v : Word) : (s.csrSet off v).hist = s.hist := rfl
@[simp] theorem State.csrSet_spareRows (s : State) (off : Nat) (v : Word) : (s.csrSet off v).spareRows = s.spareRows := rfl
@[simp] theorem State.csrSet_shut (s : State) (off : Nat) (v : Word) : (s.csrSet off v).shut = s.shut := rfl
@[simp] theorem State.csrSet_ctxs (s : State) (off : Nat) (v : Word) : (s.csrSet off v).ctxs = s.ctxs := rfl
@[simp] theorem State.csrSet_cmds (s : State) (off : Nat) (v : Word) : (s.csrSet off v).cmds = s.cmds := rfl
@[simp] theorem State.csrSet_nextCmd (s : State) (off : Nat) (v : Word) : (s.csrSet off v).nextCmd = s.nextCmd := rfl
@[simp] theorem State.csrSet_qpos (s : State) (off : Nat) (v : Word) : (s.csrSet off v).qpos = s.qpos := rfl
@[simp] theorem State.csrSet_evqs (s : State) (off : Nat) (v : Word) : (s.csrSet off v).evqs = s.evqs := rfl
@[simp] theorem State.csrSet_windows (s : State) (off : Nat) (v : Word) : (s.csrSet off v).windows = s.windows := rfl
@[simp] theorem State.csrSet_aps (s : State) (off : Nat) (v : Word) : (s.csrSet off v).aps = s.aps := rfl
@[simp] theorem State.csrSet_notices (s : State) (off : Nat) (v : Word) : (s.csrSet off v).notices = s.notices := rfl
@[simp] theorem State.csrSet_progs (s : State) (off : Nat) (v : Word) : (s.csrSet off v).progs = s.progs := rfl
@[simp] theorem State.csrSet_ccRegs (s : State) (off : Nat) (v : Word) : (s.csrSet off v).ccRegs = s.ccRegs := rfl
@[simp] theorem State.csrSet_pports (s : State) (off : Nat) (v : Word) : (s.csrSet off v).pports = s.pports := rfl
@[simp] theorem State.csrSet_newReqs (s : State) (off : Nat) (v : Word) : (s.csrSet off v).newReqs = s.newReqs := rfl
@[simp] theorem State.csrSet_rq (s : State) (off : Nat) (v : Word) : (s.csrSet off v).rq = s.rq := rfl
@[simp] theorem State.csrSet_inbox (s : State) (off : Nat) (v : Word) : (s.csrSet off v).inbox = s.inbox := rfl
@[simp] theorem State.csrSet_fports (s : State) (off : Nat) (v : Word) : (s.csrSet off v).fports = s.fports := rfl
@[simp] theorem State.csrSet_dets (s : State) (off : Nat) (v : Word) : (s.csrSet off v).dets = s.dets := rfl
@[simp] theorem State.csrSet_relays (s : State) (off : Nat) (v : Word) : (s.csrSet off v).relays = s.relays := rfl
@[simp] theorem State.csrSet_eseqTx (s : State) (off : Nat) (v : Word) : (s.csrSet off v).eseqTx = s.eseqTx := rfl
@[simp] theorem State.csrSet_eseqRx (s : State) (off : Nat) (v : Word) : (s.csrSet off v).eseqRx = s.eseqRx := rfl
@[simp] theorem State.csrSet_oreqs (s : State) (off : Nat) (v : Word) : (s.csrSet off v).oreqs = s.oreqs := rfl
@[simp] theorem State.csrSet_wbad (s : State) (off : Nat) (v : Word) : (s.csrSet off v).wbad = s.wbad := rfl
@[simp] theorem State.csrSet_wacks (s : State) (off : Nat) (v : Word) : (s.csrSet off v).wacks = s.wacks := rfl
@[simp] theorem State.csrSet_resps (s : State) (off : Nat) (v : Word) : (s.csrSet off v).resps = s.resps := rfl
@[simp] theorem State.csrSet_netOut (s : State) (off : Nat) (v : Word) : (s.csrSet off v).netOut = s.netOut := rfl
@[simp] theorem State.csrSet_serving (s : State) (off : Nat) (v : Word) : (s.csrSet off v).serving = s.serving := rfl
@[simp] theorem State.csrSet_offers (s : State) (off : Nat) (v : Word) : (s.csrSet off v).offers = s.offers := rfl
@[simp] theorem State.csrSet_staged (s : State) (off : Nat) (v : Word) : (s.csrSet off v).staged = s.staged := rfl
@[simp] theorem State.csrSet_steps (s : State) (off : Nat) (v : Word) : (s.csrSet off v).steps = s.steps := rfl
@[simp] theorem State.csrSet_applies (s : State) (off : Nat) (v : Word) : (s.csrSet off v).applies = s.applies := rfl
@[simp] theorem State.csrSet_updCmds (s : State) (off : Nat) (v : Word) : (s.csrSet off v).updCmds = s.updCmds := rfl
@[simp] theorem State.csrSet_hals (s : State) (off : Nat) (v : Word) : (s.csrSet off v).hals = s.hals := rfl
@[simp] theorem State.csrSet_vholds (s : State) (off : Nat) (v : Word) : (s.csrSet off v).vholds = s.vholds := rfl
@[simp] theorem State.csrSet_colls (s : State) (off : Nat) (v : Word) : (s.csrSet off v).colls = s.colls := rfl
@[simp] theorem State.csrSet_votes (s : State) (off : Nat) (v : Word) : (s.csrSet off v).votes = s.votes := rfl
@[simp] theorem State.csrSet_tokens (s : State) (off : Nat) (v : Word) : (s.csrSet off v).tokens = s.tokens := rfl
@[simp] theorem State.csrSet_colOrd (s : State) (off : Nat) (v : Word) : (s.csrSet off v).colOrd = s.colOrd := rfl
@[simp] theorem State.csrSet_nextServe (s : State) (off : Nat) (v : Word) : (s.csrSet off v).nextServe = s.nextServe := rfl
@[simp] theorem State.csrSet_sens (s : State) (off : Nat) (v : Word) : (s.csrSet off v).sens = s.sens := rfl
@[simp] theorem State.csrSet_kicked (s : State) (off : Nat) (v : Word) : (s.csrSet off v).kicked = s.kicked := rfl
@[simp] theorem State.csrSet_msix (s : State) (off : Nat) (v : Word) : (s.csrSet off v).msix = s.msix := rfl
@[simp] theorem State.csrSet_pba (s : State) (off : Nat) (v : Word) : (s.csrSet off v).pba = s.pba := rfl
@[simp] theorem State.csrSet_seenDown (s : State) (off : Nat) (v : Word) : (s.csrSet off v).seenDown = s.seenDown := rfl
@[simp] theorem State.csrSet_dls (s : State) (off : Nat) (v : Word) : (s.csrSet off v).dls = s.dls := rfl
@[simp] theorem State.csrSet_wkts (s : State) (off : Nat) (v : Word) : (s.csrSet off v).wkts = s.wkts := rfl
@[simp] theorem State.csrSet_power (s : State) (off : Nat) (v : Word) : (s.csrSet off v).power = s.power := rfl
@[simp] theorem State.csrSet_flash (s : State) (off : Nat) (v : Word) : (s.csrSet off v).flash = s.flash := rfl
@[simp] theorem State.csrSet_fuses (s : State) (off : Nat) (v : Word) : (s.csrSet off v).fuses = s.fuses := rfl
@[simp] theorem State.csrSet_sec (s : State) (off : Nat) (v : Word) : (s.csrSet off v).sec = s.sec := rfl
@[simp] theorem State.csrSet_tst (s : State) (off : Nat) (v : Word) : (s.csrSet off v).tst = s.tst := rfl
@[simp] theorem State.csrSet_tele (s : State) (off : Nat) (v : Word) : (s.csrSet off v).tele = s.tele := rfl
@[simp] theorem State.csrSet_dieCyc (s : State) (off : Nat) (v : Word) : (s.csrSet off v).dieCyc = s.dieCyc := rfl
@[simp] theorem State.csrSet_autoStep (s : State) (off : Nat) (v : Word) : (s.csrSet off v).autoStep = s.autoStep := rfl
@[simp] theorem State.csrSet_late (s : State) (off : Nat) (v : Word) : (s.csrSet off v).late = s.late := rfl
@[simp] theorem State.csrSet_phMark (s : State) (off : Nat) (v : Word) : (s.csrSet off v).phMark = s.phMark := rfl
@[simp] theorem State.csrSet_arb (s : State) (off : Nat) (v : Word) : (s.csrSet off v).arb = s.arb := rfl
@[simp] theorem State.csrSet_time (s : State) (off : Nat) (v : Word) : (s.csrSet off v).time = s.time := rfl
@[simp] theorem State.csrSet_cclk5 (s : State) (off : Nat) (v : Word) : (s.csrSet off v).cclk5 = s.cclk5 := rfl
@[simp] theorem State.csrSet_freeCtr (s : State) (off : Nat) (v : Word) : (s.csrSet off v).freeCtr = s.freeCtr := rfl
@[simp] theorem State.csrSet_pending (s : State) (off : Nat) (v : Word) : (s.csrSet off v).pending = s.pending := rfl

@[simp] theorem State.setFld_mem (s : State) (off : Nat) (f : Fld) (v : Nat) : (s.setFld off f v).mem = s.mem := rfl
@[simp] theorem State.setFld_cores (s : State) (off : Nat) (f : Fld) (v : Nat) : (s.setFld off f v).cores = s.cores := rfl
@[simp] theorem State.setFld_clusters (s : State) (off : Nat) (f : Fld) (v : Nat) : (s.setFld off f v).clusters = s.clusters := rfl
@[simp] theorem State.setFld_parked (s : State) (off : Nat) (f : Fld) (v : Nat) : (s.setFld off f v).parked = s.parked := rfl
@[simp] theorem State.setFld_atomAns (s : State) (off : Nat) (f : Fld) (v : Nat) : (s.setFld off f v).atomAns = s.atomAns := rfl
@[simp] theorem State.setFld_strms (s : State) (off : Nat) (f : Fld) (v : Nat) : (s.setFld off f v).strms = s.strms := rfl
@[simp] theorem State.setFld_incs (s : State) (off : Nat) (f : Fld) (v : Nat) : (s.setFld off f v).incs = s.incs := rfl
@[simp] theorem State.setFld_faults (s : State) (off : Nat) (f : Fld) (v : Nat) : (s.setFld off f v).faults = s.faults := rfl
@[simp] theorem State.setFld_hostOut (s : State) (off : Nat) (f : Fld) (v : Nat) : (s.setFld off f v).hostOut = s.hostOut := rfl
@[simp] theorem State.setFld_ring (s : State) (off : Nat) (f : Fld) (v : Nat) : (s.setFld off f v).ring = s.ring := rfl
@[simp] theorem State.setFld_hist (s : State) (off : Nat) (f : Fld) (v : Nat) : (s.setFld off f v).hist = s.hist := rfl
@[simp] theorem State.setFld_spareRows (s : State) (off : Nat) (f : Fld) (v : Nat) : (s.setFld off f v).spareRows = s.spareRows := rfl
@[simp] theorem State.setFld_shut (s : State) (off : Nat) (f : Fld) (v : Nat) : (s.setFld off f v).shut = s.shut := rfl
@[simp] theorem State.setFld_ctxs (s : State) (off : Nat) (f : Fld) (v : Nat) : (s.setFld off f v).ctxs = s.ctxs := rfl
@[simp] theorem State.setFld_cmds (s : State) (off : Nat) (f : Fld) (v : Nat) : (s.setFld off f v).cmds = s.cmds := rfl
@[simp] theorem State.setFld_nextCmd (s : State) (off : Nat) (f : Fld) (v : Nat) : (s.setFld off f v).nextCmd = s.nextCmd := rfl
@[simp] theorem State.setFld_qpos (s : State) (off : Nat) (f : Fld) (v : Nat) : (s.setFld off f v).qpos = s.qpos := rfl
@[simp] theorem State.setFld_evqs (s : State) (off : Nat) (f : Fld) (v : Nat) : (s.setFld off f v).evqs = s.evqs := rfl
@[simp] theorem State.setFld_windows (s : State) (off : Nat) (f : Fld) (v : Nat) : (s.setFld off f v).windows = s.windows := rfl
@[simp] theorem State.setFld_aps (s : State) (off : Nat) (f : Fld) (v : Nat) : (s.setFld off f v).aps = s.aps := rfl
@[simp] theorem State.setFld_notices (s : State) (off : Nat) (f : Fld) (v : Nat) : (s.setFld off f v).notices = s.notices := rfl
@[simp] theorem State.setFld_progs (s : State) (off : Nat) (f : Fld) (v : Nat) : (s.setFld off f v).progs = s.progs := rfl
@[simp] theorem State.setFld_ccRegs (s : State) (off : Nat) (f : Fld) (v : Nat) : (s.setFld off f v).ccRegs = s.ccRegs := rfl
@[simp] theorem State.setFld_pports (s : State) (off : Nat) (f : Fld) (v : Nat) : (s.setFld off f v).pports = s.pports := rfl
@[simp] theorem State.setFld_newReqs (s : State) (off : Nat) (f : Fld) (v : Nat) : (s.setFld off f v).newReqs = s.newReqs := rfl
@[simp] theorem State.setFld_rq (s : State) (off : Nat) (f : Fld) (v : Nat) : (s.setFld off f v).rq = s.rq := rfl
@[simp] theorem State.setFld_inbox (s : State) (off : Nat) (f : Fld) (v : Nat) : (s.setFld off f v).inbox = s.inbox := rfl
@[simp] theorem State.setFld_fports (s : State) (off : Nat) (f : Fld) (v : Nat) : (s.setFld off f v).fports = s.fports := rfl
@[simp] theorem State.setFld_dets (s : State) (off : Nat) (f : Fld) (v : Nat) : (s.setFld off f v).dets = s.dets := rfl
@[simp] theorem State.setFld_relays (s : State) (off : Nat) (f : Fld) (v : Nat) : (s.setFld off f v).relays = s.relays := rfl
@[simp] theorem State.setFld_eseqTx (s : State) (off : Nat) (f : Fld) (v : Nat) : (s.setFld off f v).eseqTx = s.eseqTx := rfl
@[simp] theorem State.setFld_eseqRx (s : State) (off : Nat) (f : Fld) (v : Nat) : (s.setFld off f v).eseqRx = s.eseqRx := rfl
@[simp] theorem State.setFld_oreqs (s : State) (off : Nat) (f : Fld) (v : Nat) : (s.setFld off f v).oreqs = s.oreqs := rfl
@[simp] theorem State.setFld_wbad (s : State) (off : Nat) (f : Fld) (v : Nat) : (s.setFld off f v).wbad = s.wbad := rfl
@[simp] theorem State.setFld_wacks (s : State) (off : Nat) (f : Fld) (v : Nat) : (s.setFld off f v).wacks = s.wacks := rfl
@[simp] theorem State.setFld_resps (s : State) (off : Nat) (f : Fld) (v : Nat) : (s.setFld off f v).resps = s.resps := rfl
@[simp] theorem State.setFld_netOut (s : State) (off : Nat) (f : Fld) (v : Nat) : (s.setFld off f v).netOut = s.netOut := rfl
@[simp] theorem State.setFld_serving (s : State) (off : Nat) (f : Fld) (v : Nat) : (s.setFld off f v).serving = s.serving := rfl
@[simp] theorem State.setFld_offers (s : State) (off : Nat) (f : Fld) (v : Nat) : (s.setFld off f v).offers = s.offers := rfl
@[simp] theorem State.setFld_staged (s : State) (off : Nat) (f : Fld) (v : Nat) : (s.setFld off f v).staged = s.staged := rfl
@[simp] theorem State.setFld_steps (s : State) (off : Nat) (f : Fld) (v : Nat) : (s.setFld off f v).steps = s.steps := rfl
@[simp] theorem State.setFld_applies (s : State) (off : Nat) (f : Fld) (v : Nat) : (s.setFld off f v).applies = s.applies := rfl
@[simp] theorem State.setFld_updCmds (s : State) (off : Nat) (f : Fld) (v : Nat) : (s.setFld off f v).updCmds = s.updCmds := rfl
@[simp] theorem State.setFld_hals (s : State) (off : Nat) (f : Fld) (v : Nat) : (s.setFld off f v).hals = s.hals := rfl
@[simp] theorem State.setFld_vholds (s : State) (off : Nat) (f : Fld) (v : Nat) : (s.setFld off f v).vholds = s.vholds := rfl
@[simp] theorem State.setFld_colls (s : State) (off : Nat) (f : Fld) (v : Nat) : (s.setFld off f v).colls = s.colls := rfl
@[simp] theorem State.setFld_votes (s : State) (off : Nat) (f : Fld) (v : Nat) : (s.setFld off f v).votes = s.votes := rfl
@[simp] theorem State.setFld_tokens (s : State) (off : Nat) (f : Fld) (v : Nat) : (s.setFld off f v).tokens = s.tokens := rfl
@[simp] theorem State.setFld_colOrd (s : State) (off : Nat) (f : Fld) (v : Nat) : (s.setFld off f v).colOrd = s.colOrd := rfl
@[simp] theorem State.setFld_nextServe (s : State) (off : Nat) (f : Fld) (v : Nat) : (s.setFld off f v).nextServe = s.nextServe := rfl
@[simp] theorem State.setFld_sens (s : State) (off : Nat) (f : Fld) (v : Nat) : (s.setFld off f v).sens = s.sens := rfl
@[simp] theorem State.setFld_kicked (s : State) (off : Nat) (f : Fld) (v : Nat) : (s.setFld off f v).kicked = s.kicked := rfl
@[simp] theorem State.setFld_msix (s : State) (off : Nat) (f : Fld) (v : Nat) : (s.setFld off f v).msix = s.msix := rfl
@[simp] theorem State.setFld_pba (s : State) (off : Nat) (f : Fld) (v : Nat) : (s.setFld off f v).pba = s.pba := rfl
@[simp] theorem State.setFld_seenDown (s : State) (off : Nat) (f : Fld) (v : Nat) : (s.setFld off f v).seenDown = s.seenDown := rfl
@[simp] theorem State.setFld_dls (s : State) (off : Nat) (f : Fld) (v : Nat) : (s.setFld off f v).dls = s.dls := rfl
@[simp] theorem State.setFld_wkts (s : State) (off : Nat) (f : Fld) (v : Nat) : (s.setFld off f v).wkts = s.wkts := rfl
@[simp] theorem State.setFld_power (s : State) (off : Nat) (f : Fld) (v : Nat) : (s.setFld off f v).power = s.power := rfl
@[simp] theorem State.setFld_flash (s : State) (off : Nat) (f : Fld) (v : Nat) : (s.setFld off f v).flash = s.flash := rfl
@[simp] theorem State.setFld_fuses (s : State) (off : Nat) (f : Fld) (v : Nat) : (s.setFld off f v).fuses = s.fuses := rfl
@[simp] theorem State.setFld_sec (s : State) (off : Nat) (f : Fld) (v : Nat) : (s.setFld off f v).sec = s.sec := rfl
@[simp] theorem State.setFld_tst (s : State) (off : Nat) (f : Fld) (v : Nat) : (s.setFld off f v).tst = s.tst := rfl
@[simp] theorem State.setFld_tele (s : State) (off : Nat) (f : Fld) (v : Nat) : (s.setFld off f v).tele = s.tele := rfl
@[simp] theorem State.setFld_dieCyc (s : State) (off : Nat) (f : Fld) (v : Nat) : (s.setFld off f v).dieCyc = s.dieCyc := rfl
@[simp] theorem State.setFld_autoStep (s : State) (off : Nat) (f : Fld) (v : Nat) : (s.setFld off f v).autoStep = s.autoStep := rfl
@[simp] theorem State.setFld_late (s : State) (off : Nat) (f : Fld) (v : Nat) : (s.setFld off f v).late = s.late := rfl
@[simp] theorem State.setFld_phMark (s : State) (off : Nat) (f : Fld) (v : Nat) : (s.setFld off f v).phMark = s.phMark := rfl
@[simp] theorem State.setFld_arb (s : State) (off : Nat) (f : Fld) (v : Nat) : (s.setFld off f v).arb = s.arb := rfl
@[simp] theorem State.setFld_time (s : State) (off : Nat) (f : Fld) (v : Nat) : (s.setFld off f v).time = s.time := rfl
@[simp] theorem State.setFld_cclk5 (s : State) (off : Nat) (f : Fld) (v : Nat) : (s.setFld off f v).cclk5 = s.cclk5 := rfl
@[simp] theorem State.setFld_freeCtr (s : State) (off : Nat) (f : Fld) (v : Nat) : (s.setFld off f v).freeCtr = s.freeCtr := rfl
@[simp] theorem State.setFld_pending (s : State) (off : Nat) (f : Fld) (v : Nat) : (s.setFld off f v).pending = s.pending := rfl

@[simp] theorem State.bump_mem (s : State) (off : Nat) (f : Fld) (n : Nat) : (s.bump off f n).mem = s.mem := rfl
@[simp] theorem State.bump_cores (s : State) (off : Nat) (f : Fld) (n : Nat) : (s.bump off f n).cores = s.cores := rfl
@[simp] theorem State.bump_clusters (s : State) (off : Nat) (f : Fld) (n : Nat) : (s.bump off f n).clusters = s.clusters := rfl
@[simp] theorem State.bump_parked (s : State) (off : Nat) (f : Fld) (n : Nat) : (s.bump off f n).parked = s.parked := rfl
@[simp] theorem State.bump_atomAns (s : State) (off : Nat) (f : Fld) (n : Nat) : (s.bump off f n).atomAns = s.atomAns := rfl
@[simp] theorem State.bump_strms (s : State) (off : Nat) (f : Fld) (n : Nat) : (s.bump off f n).strms = s.strms := rfl
@[simp] theorem State.bump_incs (s : State) (off : Nat) (f : Fld) (n : Nat) : (s.bump off f n).incs = s.incs := rfl
@[simp] theorem State.bump_faults (s : State) (off : Nat) (f : Fld) (n : Nat) : (s.bump off f n).faults = s.faults := rfl
@[simp] theorem State.bump_hostOut (s : State) (off : Nat) (f : Fld) (n : Nat) : (s.bump off f n).hostOut = s.hostOut := rfl
@[simp] theorem State.bump_ring (s : State) (off : Nat) (f : Fld) (n : Nat) : (s.bump off f n).ring = s.ring := rfl
@[simp] theorem State.bump_hist (s : State) (off : Nat) (f : Fld) (n : Nat) : (s.bump off f n).hist = s.hist := rfl
@[simp] theorem State.bump_spareRows (s : State) (off : Nat) (f : Fld) (n : Nat) : (s.bump off f n).spareRows = s.spareRows := rfl
@[simp] theorem State.bump_shut (s : State) (off : Nat) (f : Fld) (n : Nat) : (s.bump off f n).shut = s.shut := rfl
@[simp] theorem State.bump_ctxs (s : State) (off : Nat) (f : Fld) (n : Nat) : (s.bump off f n).ctxs = s.ctxs := rfl
@[simp] theorem State.bump_cmds (s : State) (off : Nat) (f : Fld) (n : Nat) : (s.bump off f n).cmds = s.cmds := rfl
@[simp] theorem State.bump_nextCmd (s : State) (off : Nat) (f : Fld) (n : Nat) : (s.bump off f n).nextCmd = s.nextCmd := rfl
@[simp] theorem State.bump_qpos (s : State) (off : Nat) (f : Fld) (n : Nat) : (s.bump off f n).qpos = s.qpos := rfl
@[simp] theorem State.bump_evqs (s : State) (off : Nat) (f : Fld) (n : Nat) : (s.bump off f n).evqs = s.evqs := rfl
@[simp] theorem State.bump_windows (s : State) (off : Nat) (f : Fld) (n : Nat) : (s.bump off f n).windows = s.windows := rfl
@[simp] theorem State.bump_aps (s : State) (off : Nat) (f : Fld) (n : Nat) : (s.bump off f n).aps = s.aps := rfl
@[simp] theorem State.bump_notices (s : State) (off : Nat) (f : Fld) (n : Nat) : (s.bump off f n).notices = s.notices := rfl
@[simp] theorem State.bump_progs (s : State) (off : Nat) (f : Fld) (n : Nat) : (s.bump off f n).progs = s.progs := rfl
@[simp] theorem State.bump_ccRegs (s : State) (off : Nat) (f : Fld) (n : Nat) : (s.bump off f n).ccRegs = s.ccRegs := rfl
@[simp] theorem State.bump_pports (s : State) (off : Nat) (f : Fld) (n : Nat) : (s.bump off f n).pports = s.pports := rfl
@[simp] theorem State.bump_newReqs (s : State) (off : Nat) (f : Fld) (n : Nat) : (s.bump off f n).newReqs = s.newReqs := rfl
@[simp] theorem State.bump_rq (s : State) (off : Nat) (f : Fld) (n : Nat) : (s.bump off f n).rq = s.rq := rfl
@[simp] theorem State.bump_inbox (s : State) (off : Nat) (f : Fld) (n : Nat) : (s.bump off f n).inbox = s.inbox := rfl
@[simp] theorem State.bump_fports (s : State) (off : Nat) (f : Fld) (n : Nat) : (s.bump off f n).fports = s.fports := rfl
@[simp] theorem State.bump_dets (s : State) (off : Nat) (f : Fld) (n : Nat) : (s.bump off f n).dets = s.dets := rfl
@[simp] theorem State.bump_relays (s : State) (off : Nat) (f : Fld) (n : Nat) : (s.bump off f n).relays = s.relays := rfl
@[simp] theorem State.bump_eseqTx (s : State) (off : Nat) (f : Fld) (n : Nat) : (s.bump off f n).eseqTx = s.eseqTx := rfl
@[simp] theorem State.bump_eseqRx (s : State) (off : Nat) (f : Fld) (n : Nat) : (s.bump off f n).eseqRx = s.eseqRx := rfl
@[simp] theorem State.bump_oreqs (s : State) (off : Nat) (f : Fld) (n : Nat) : (s.bump off f n).oreqs = s.oreqs := rfl
@[simp] theorem State.bump_wbad (s : State) (off : Nat) (f : Fld) (n : Nat) : (s.bump off f n).wbad = s.wbad := rfl
@[simp] theorem State.bump_wacks (s : State) (off : Nat) (f : Fld) (n : Nat) : (s.bump off f n).wacks = s.wacks := rfl
@[simp] theorem State.bump_resps (s : State) (off : Nat) (f : Fld) (n : Nat) : (s.bump off f n).resps = s.resps := rfl
@[simp] theorem State.bump_netOut (s : State) (off : Nat) (f : Fld) (n : Nat) : (s.bump off f n).netOut = s.netOut := rfl
@[simp] theorem State.bump_serving (s : State) (off : Nat) (f : Fld) (n : Nat) : (s.bump off f n).serving = s.serving := rfl
@[simp] theorem State.bump_offers (s : State) (off : Nat) (f : Fld) (n : Nat) : (s.bump off f n).offers = s.offers := rfl
@[simp] theorem State.bump_staged (s : State) (off : Nat) (f : Fld) (n : Nat) : (s.bump off f n).staged = s.staged := rfl
@[simp] theorem State.bump_steps (s : State) (off : Nat) (f : Fld) (n : Nat) : (s.bump off f n).steps = s.steps := rfl
@[simp] theorem State.bump_applies (s : State) (off : Nat) (f : Fld) (n : Nat) : (s.bump off f n).applies = s.applies := rfl
@[simp] theorem State.bump_updCmds (s : State) (off : Nat) (f : Fld) (n : Nat) : (s.bump off f n).updCmds = s.updCmds := rfl
@[simp] theorem State.bump_hals (s : State) (off : Nat) (f : Fld) (n : Nat) : (s.bump off f n).hals = s.hals := rfl
@[simp] theorem State.bump_vholds (s : State) (off : Nat) (f : Fld) (n : Nat) : (s.bump off f n).vholds = s.vholds := rfl
@[simp] theorem State.bump_colls (s : State) (off : Nat) (f : Fld) (n : Nat) : (s.bump off f n).colls = s.colls := rfl
@[simp] theorem State.bump_votes (s : State) (off : Nat) (f : Fld) (n : Nat) : (s.bump off f n).votes = s.votes := rfl
@[simp] theorem State.bump_tokens (s : State) (off : Nat) (f : Fld) (n : Nat) : (s.bump off f n).tokens = s.tokens := rfl
@[simp] theorem State.bump_colOrd (s : State) (off : Nat) (f : Fld) (n : Nat) : (s.bump off f n).colOrd = s.colOrd := rfl
@[simp] theorem State.bump_nextServe (s : State) (off : Nat) (f : Fld) (n : Nat) : (s.bump off f n).nextServe = s.nextServe := rfl
@[simp] theorem State.bump_sens (s : State) (off : Nat) (f : Fld) (n : Nat) : (s.bump off f n).sens = s.sens := rfl
@[simp] theorem State.bump_kicked (s : State) (off : Nat) (f : Fld) (n : Nat) : (s.bump off f n).kicked = s.kicked := rfl
@[simp] theorem State.bump_msix (s : State) (off : Nat) (f : Fld) (n : Nat) : (s.bump off f n).msix = s.msix := rfl
@[simp] theorem State.bump_pba (s : State) (off : Nat) (f : Fld) (n : Nat) : (s.bump off f n).pba = s.pba := rfl
@[simp] theorem State.bump_seenDown (s : State) (off : Nat) (f : Fld) (n : Nat) : (s.bump off f n).seenDown = s.seenDown := rfl
@[simp] theorem State.bump_dls (s : State) (off : Nat) (f : Fld) (n : Nat) : (s.bump off f n).dls = s.dls := rfl
@[simp] theorem State.bump_wkts (s : State) (off : Nat) (f : Fld) (n : Nat) : (s.bump off f n).wkts = s.wkts := rfl
@[simp] theorem State.bump_power (s : State) (off : Nat) (f : Fld) (n : Nat) : (s.bump off f n).power = s.power := rfl
@[simp] theorem State.bump_flash (s : State) (off : Nat) (f : Fld) (n : Nat) : (s.bump off f n).flash = s.flash := rfl
@[simp] theorem State.bump_fuses (s : State) (off : Nat) (f : Fld) (n : Nat) : (s.bump off f n).fuses = s.fuses := rfl
@[simp] theorem State.bump_sec (s : State) (off : Nat) (f : Fld) (n : Nat) : (s.bump off f n).sec = s.sec := rfl
@[simp] theorem State.bump_tst (s : State) (off : Nat) (f : Fld) (n : Nat) : (s.bump off f n).tst = s.tst := rfl
@[simp] theorem State.bump_tele (s : State) (off : Nat) (f : Fld) (n : Nat) : (s.bump off f n).tele = s.tele := rfl
@[simp] theorem State.bump_dieCyc (s : State) (off : Nat) (f : Fld) (n : Nat) : (s.bump off f n).dieCyc = s.dieCyc := rfl
@[simp] theorem State.bump_autoStep (s : State) (off : Nat) (f : Fld) (n : Nat) : (s.bump off f n).autoStep = s.autoStep := rfl
@[simp] theorem State.bump_late (s : State) (off : Nat) (f : Fld) (n : Nat) : (s.bump off f n).late = s.late := rfl
@[simp] theorem State.bump_phMark (s : State) (off : Nat) (f : Fld) (n : Nat) : (s.bump off f n).phMark = s.phMark := rfl
@[simp] theorem State.bump_arb (s : State) (off : Nat) (f : Fld) (n : Nat) : (s.bump off f n).arb = s.arb := rfl
@[simp] theorem State.bump_time (s : State) (off : Nat) (f : Fld) (n : Nat) : (s.bump off f n).time = s.time := rfl
@[simp] theorem State.bump_cclk5 (s : State) (off : Nat) (f : Fld) (n : Nat) : (s.bump off f n).cclk5 = s.cclk5 := rfl
@[simp] theorem State.bump_freeCtr (s : State) (off : Nat) (f : Fld) (n : Nat) : (s.bump off f n).freeCtr = s.freeCtr := rfl
@[simp] theorem State.bump_pending (s : State) (off : Nat) (f : Fld) (n : Nat) : (s.bump off f n).pending = s.pending := rfl

@[simp] theorem State.setCore_csr (s : State) (k : Nat) (c : Core) : (s.setCore k c).csr = s.csr := rfl
@[simp] theorem State.setCore_mem (s : State) (k : Nat) (c : Core) : (s.setCore k c).mem = s.mem := rfl
@[simp] theorem State.setCore_clusters (s : State) (k : Nat) (c : Core) : (s.setCore k c).clusters = s.clusters := rfl
@[simp] theorem State.setCore_parked (s : State) (k : Nat) (c : Core) : (s.setCore k c).parked = s.parked := rfl
@[simp] theorem State.setCore_atomAns (s : State) (k : Nat) (c : Core) : (s.setCore k c).atomAns = s.atomAns := rfl
@[simp] theorem State.setCore_strms (s : State) (k : Nat) (c : Core) : (s.setCore k c).strms = s.strms := rfl
@[simp] theorem State.setCore_incs (s : State) (k : Nat) (c : Core) : (s.setCore k c).incs = s.incs := rfl
@[simp] theorem State.setCore_faults (s : State) (k : Nat) (c : Core) : (s.setCore k c).faults = s.faults := rfl
@[simp] theorem State.setCore_hostOut (s : State) (k : Nat) (c : Core) : (s.setCore k c).hostOut = s.hostOut := rfl
@[simp] theorem State.setCore_ring (s : State) (k : Nat) (c : Core) : (s.setCore k c).ring = s.ring := rfl
@[simp] theorem State.setCore_hist (s : State) (k : Nat) (c : Core) : (s.setCore k c).hist = s.hist := rfl
@[simp] theorem State.setCore_spareRows (s : State) (k : Nat) (c : Core) : (s.setCore k c).spareRows = s.spareRows := rfl
@[simp] theorem State.setCore_shut (s : State) (k : Nat) (c : Core) : (s.setCore k c).shut = s.shut := rfl
@[simp] theorem State.setCore_ctxs (s : State) (k : Nat) (c : Core) : (s.setCore k c).ctxs = s.ctxs := rfl
@[simp] theorem State.setCore_cmds (s : State) (k : Nat) (c : Core) : (s.setCore k c).cmds = s.cmds := rfl
@[simp] theorem State.setCore_nextCmd (s : State) (k : Nat) (c : Core) : (s.setCore k c).nextCmd = s.nextCmd := rfl
@[simp] theorem State.setCore_qpos (s : State) (k : Nat) (c : Core) : (s.setCore k c).qpos = s.qpos := rfl
@[simp] theorem State.setCore_evqs (s : State) (k : Nat) (c : Core) : (s.setCore k c).evqs = s.evqs := rfl
@[simp] theorem State.setCore_windows (s : State) (k : Nat) (c : Core) : (s.setCore k c).windows = s.windows := rfl
@[simp] theorem State.setCore_aps (s : State) (k : Nat) (c : Core) : (s.setCore k c).aps = s.aps := rfl
@[simp] theorem State.setCore_notices (s : State) (k : Nat) (c : Core) : (s.setCore k c).notices = s.notices := rfl
@[simp] theorem State.setCore_progs (s : State) (k : Nat) (c : Core) : (s.setCore k c).progs = s.progs := rfl
@[simp] theorem State.setCore_ccRegs (s : State) (k : Nat) (c : Core) : (s.setCore k c).ccRegs = s.ccRegs := rfl
@[simp] theorem State.setCore_pports (s : State) (k : Nat) (c : Core) : (s.setCore k c).pports = s.pports := rfl
@[simp] theorem State.setCore_newReqs (s : State) (k : Nat) (c : Core) : (s.setCore k c).newReqs = s.newReqs := rfl
@[simp] theorem State.setCore_rq (s : State) (k : Nat) (c : Core) : (s.setCore k c).rq = s.rq := rfl
@[simp] theorem State.setCore_inbox (s : State) (k : Nat) (c : Core) : (s.setCore k c).inbox = s.inbox := rfl
@[simp] theorem State.setCore_fports (s : State) (k : Nat) (c : Core) : (s.setCore k c).fports = s.fports := rfl
@[simp] theorem State.setCore_dets (s : State) (k : Nat) (c : Core) : (s.setCore k c).dets = s.dets := rfl
@[simp] theorem State.setCore_relays (s : State) (k : Nat) (c : Core) : (s.setCore k c).relays = s.relays := rfl
@[simp] theorem State.setCore_eseqTx (s : State) (k : Nat) (c : Core) : (s.setCore k c).eseqTx = s.eseqTx := rfl
@[simp] theorem State.setCore_eseqRx (s : State) (k : Nat) (c : Core) : (s.setCore k c).eseqRx = s.eseqRx := rfl
@[simp] theorem State.setCore_oreqs (s : State) (k : Nat) (c : Core) : (s.setCore k c).oreqs = s.oreqs := rfl
@[simp] theorem State.setCore_wbad (s : State) (k : Nat) (c : Core) : (s.setCore k c).wbad = s.wbad := rfl
@[simp] theorem State.setCore_wacks (s : State) (k : Nat) (c : Core) : (s.setCore k c).wacks = s.wacks := rfl
@[simp] theorem State.setCore_resps (s : State) (k : Nat) (c : Core) : (s.setCore k c).resps = s.resps := rfl
@[simp] theorem State.setCore_netOut (s : State) (k : Nat) (c : Core) : (s.setCore k c).netOut = s.netOut := rfl
@[simp] theorem State.setCore_serving (s : State) (k : Nat) (c : Core) : (s.setCore k c).serving = s.serving := rfl
@[simp] theorem State.setCore_offers (s : State) (k : Nat) (c : Core) : (s.setCore k c).offers = s.offers := rfl
@[simp] theorem State.setCore_staged (s : State) (k : Nat) (c : Core) : (s.setCore k c).staged = s.staged := rfl
@[simp] theorem State.setCore_steps (s : State) (k : Nat) (c : Core) : (s.setCore k c).steps = s.steps := rfl
@[simp] theorem State.setCore_applies (s : State) (k : Nat) (c : Core) : (s.setCore k c).applies = s.applies := rfl
@[simp] theorem State.setCore_updCmds (s : State) (k : Nat) (c : Core) : (s.setCore k c).updCmds = s.updCmds := rfl
@[simp] theorem State.setCore_hals (s : State) (k : Nat) (c : Core) : (s.setCore k c).hals = s.hals := rfl
@[simp] theorem State.setCore_vholds (s : State) (k : Nat) (c : Core) : (s.setCore k c).vholds = s.vholds := rfl
@[simp] theorem State.setCore_colls (s : State) (k : Nat) (c : Core) : (s.setCore k c).colls = s.colls := rfl
@[simp] theorem State.setCore_votes (s : State) (k : Nat) (c : Core) : (s.setCore k c).votes = s.votes := rfl
@[simp] theorem State.setCore_tokens (s : State) (k : Nat) (c : Core) : (s.setCore k c).tokens = s.tokens := rfl
@[simp] theorem State.setCore_colOrd (s : State) (k : Nat) (c : Core) : (s.setCore k c).colOrd = s.colOrd := rfl
@[simp] theorem State.setCore_nextServe (s : State) (k : Nat) (c : Core) : (s.setCore k c).nextServe = s.nextServe := rfl
@[simp] theorem State.setCore_sens (s : State) (k : Nat) (c : Core) : (s.setCore k c).sens = s.sens := rfl
@[simp] theorem State.setCore_kicked (s : State) (k : Nat) (c : Core) : (s.setCore k c).kicked = s.kicked := rfl
@[simp] theorem State.setCore_msix (s : State) (k : Nat) (c : Core) : (s.setCore k c).msix = s.msix := rfl
@[simp] theorem State.setCore_pba (s : State) (k : Nat) (c : Core) : (s.setCore k c).pba = s.pba := rfl
@[simp] theorem State.setCore_seenDown (s : State) (k : Nat) (c : Core) : (s.setCore k c).seenDown = s.seenDown := rfl
@[simp] theorem State.setCore_dls (s : State) (k : Nat) (c : Core) : (s.setCore k c).dls = s.dls := rfl
@[simp] theorem State.setCore_wkts (s : State) (k : Nat) (c : Core) : (s.setCore k c).wkts = s.wkts := rfl
@[simp] theorem State.setCore_power (s : State) (k : Nat) (c : Core) : (s.setCore k c).power = s.power := rfl
@[simp] theorem State.setCore_flash (s : State) (k : Nat) (c : Core) : (s.setCore k c).flash = s.flash := rfl
@[simp] theorem State.setCore_fuses (s : State) (k : Nat) (c : Core) : (s.setCore k c).fuses = s.fuses := rfl
@[simp] theorem State.setCore_sec (s : State) (k : Nat) (c : Core) : (s.setCore k c).sec = s.sec := rfl
@[simp] theorem State.setCore_tst (s : State) (k : Nat) (c : Core) : (s.setCore k c).tst = s.tst := rfl
@[simp] theorem State.setCore_tele (s : State) (k : Nat) (c : Core) : (s.setCore k c).tele = s.tele := rfl
@[simp] theorem State.setCore_dieCyc (s : State) (k : Nat) (c : Core) : (s.setCore k c).dieCyc = s.dieCyc := rfl
@[simp] theorem State.setCore_autoStep (s : State) (k : Nat) (c : Core) : (s.setCore k c).autoStep = s.autoStep := rfl
@[simp] theorem State.setCore_late (s : State) (k : Nat) (c : Core) : (s.setCore k c).late = s.late := rfl
@[simp] theorem State.setCore_phMark (s : State) (k : Nat) (c : Core) : (s.setCore k c).phMark = s.phMark := rfl
@[simp] theorem State.setCore_arb (s : State) (k : Nat) (c : Core) : (s.setCore k c).arb = s.arb := rfl
@[simp] theorem State.setCore_time (s : State) (k : Nat) (c : Core) : (s.setCore k c).time = s.time := rfl
@[simp] theorem State.setCore_cclk5 (s : State) (k : Nat) (c : Core) : (s.setCore k c).cclk5 = s.cclk5 := rfl
@[simp] theorem State.setCore_freeCtr (s : State) (k : Nat) (c : Core) : (s.setCore k c).freeCtr = s.freeCtr := rfl
@[simp] theorem State.setCore_pending (s : State) (k : Nat) (c : Core) : (s.setCore k c).pending = s.pending := rfl

@[simp] theorem State.modCore_csr (s : State) (k : Nat) (f : Core → Core) : (s.modCore k f).csr = s.csr := rfl
@[simp] theorem State.modCore_mem (s : State) (k : Nat) (f : Core → Core) : (s.modCore k f).mem = s.mem := rfl
@[simp] theorem State.modCore_clusters (s : State) (k : Nat) (f : Core → Core) : (s.modCore k f).clusters = s.clusters := rfl
@[simp] theorem State.modCore_parked (s : State) (k : Nat) (f : Core → Core) : (s.modCore k f).parked = s.parked := rfl
@[simp] theorem State.modCore_atomAns (s : State) (k : Nat) (f : Core → Core) : (s.modCore k f).atomAns = s.atomAns := rfl
@[simp] theorem State.modCore_strms (s : State) (k : Nat) (f : Core → Core) : (s.modCore k f).strms = s.strms := rfl
@[simp] theorem State.modCore_incs (s : State) (k : Nat) (f : Core → Core) : (s.modCore k f).incs = s.incs := rfl
@[simp] theorem State.modCore_faults (s : State) (k : Nat) (f : Core → Core) : (s.modCore k f).faults = s.faults := rfl
@[simp] theorem State.modCore_hostOut (s : State) (k : Nat) (f : Core → Core) : (s.modCore k f).hostOut = s.hostOut := rfl
@[simp] theorem State.modCore_ring (s : State) (k : Nat) (f : Core → Core) : (s.modCore k f).ring = s.ring := rfl
@[simp] theorem State.modCore_hist (s : State) (k : Nat) (f : Core → Core) : (s.modCore k f).hist = s.hist := rfl
@[simp] theorem State.modCore_spareRows (s : State) (k : Nat) (f : Core → Core) : (s.modCore k f).spareRows = s.spareRows := rfl
@[simp] theorem State.modCore_shut (s : State) (k : Nat) (f : Core → Core) : (s.modCore k f).shut = s.shut := rfl
@[simp] theorem State.modCore_ctxs (s : State) (k : Nat) (f : Core → Core) : (s.modCore k f).ctxs = s.ctxs := rfl
@[simp] theorem State.modCore_cmds (s : State) (k : Nat) (f : Core → Core) : (s.modCore k f).cmds = s.cmds := rfl
@[simp] theorem State.modCore_nextCmd (s : State) (k : Nat) (f : Core → Core) : (s.modCore k f).nextCmd = s.nextCmd := rfl
@[simp] theorem State.modCore_qpos (s : State) (k : Nat) (f : Core → Core) : (s.modCore k f).qpos = s.qpos := rfl
@[simp] theorem State.modCore_evqs (s : State) (k : Nat) (f : Core → Core) : (s.modCore k f).evqs = s.evqs := rfl
@[simp] theorem State.modCore_windows (s : State) (k : Nat) (f : Core → Core) : (s.modCore k f).windows = s.windows := rfl
@[simp] theorem State.modCore_aps (s : State) (k : Nat) (f : Core → Core) : (s.modCore k f).aps = s.aps := rfl
@[simp] theorem State.modCore_notices (s : State) (k : Nat) (f : Core → Core) : (s.modCore k f).notices = s.notices := rfl
@[simp] theorem State.modCore_progs (s : State) (k : Nat) (f : Core → Core) : (s.modCore k f).progs = s.progs := rfl
@[simp] theorem State.modCore_ccRegs (s : State) (k : Nat) (f : Core → Core) : (s.modCore k f).ccRegs = s.ccRegs := rfl
@[simp] theorem State.modCore_pports (s : State) (k : Nat) (f : Core → Core) : (s.modCore k f).pports = s.pports := rfl
@[simp] theorem State.modCore_newReqs (s : State) (k : Nat) (f : Core → Core) : (s.modCore k f).newReqs = s.newReqs := rfl
@[simp] theorem State.modCore_rq (s : State) (k : Nat) (f : Core → Core) : (s.modCore k f).rq = s.rq := rfl
@[simp] theorem State.modCore_inbox (s : State) (k : Nat) (f : Core → Core) : (s.modCore k f).inbox = s.inbox := rfl
@[simp] theorem State.modCore_fports (s : State) (k : Nat) (f : Core → Core) : (s.modCore k f).fports = s.fports := rfl
@[simp] theorem State.modCore_dets (s : State) (k : Nat) (f : Core → Core) : (s.modCore k f).dets = s.dets := rfl
@[simp] theorem State.modCore_relays (s : State) (k : Nat) (f : Core → Core) : (s.modCore k f).relays = s.relays := rfl
@[simp] theorem State.modCore_eseqTx (s : State) (k : Nat) (f : Core → Core) : (s.modCore k f).eseqTx = s.eseqTx := rfl
@[simp] theorem State.modCore_eseqRx (s : State) (k : Nat) (f : Core → Core) : (s.modCore k f).eseqRx = s.eseqRx := rfl
@[simp] theorem State.modCore_oreqs (s : State) (k : Nat) (f : Core → Core) : (s.modCore k f).oreqs = s.oreqs := rfl
@[simp] theorem State.modCore_wbad (s : State) (k : Nat) (f : Core → Core) : (s.modCore k f).wbad = s.wbad := rfl
@[simp] theorem State.modCore_wacks (s : State) (k : Nat) (f : Core → Core) : (s.modCore k f).wacks = s.wacks := rfl
@[simp] theorem State.modCore_resps (s : State) (k : Nat) (f : Core → Core) : (s.modCore k f).resps = s.resps := rfl
@[simp] theorem State.modCore_netOut (s : State) (k : Nat) (f : Core → Core) : (s.modCore k f).netOut = s.netOut := rfl
@[simp] theorem State.modCore_serving (s : State) (k : Nat) (f : Core → Core) : (s.modCore k f).serving = s.serving := rfl
@[simp] theorem State.modCore_offers (s : State) (k : Nat) (f : Core → Core) : (s.modCore k f).offers = s.offers := rfl
@[simp] theorem State.modCore_staged (s : State) (k : Nat) (f : Core → Core) : (s.modCore k f).staged = s.staged := rfl
@[simp] theorem State.modCore_steps (s : State) (k : Nat) (f : Core → Core) : (s.modCore k f).steps = s.steps := rfl
@[simp] theorem State.modCore_applies (s : State) (k : Nat) (f : Core → Core) : (s.modCore k f).applies = s.applies := rfl
@[simp] theorem State.modCore_updCmds (s : State) (k : Nat) (f : Core → Core) : (s.modCore k f).updCmds = s.updCmds := rfl
@[simp] theorem State.modCore_hals (s : State) (k : Nat) (f : Core → Core) : (s.modCore k f).hals = s.hals := rfl
@[simp] theorem State.modCore_vholds (s : State) (k : Nat) (f : Core → Core) : (s.modCore k f).vholds = s.vholds := rfl
@[simp] theorem State.modCore_colls (s : State) (k : Nat) (f : Core → Core) : (s.modCore k f).colls = s.colls := rfl
@[simp] theorem State.modCore_votes (s : State) (k : Nat) (f : Core → Core) : (s.modCore k f).votes = s.votes := rfl
@[simp] theorem State.modCore_tokens (s : State) (k : Nat) (f : Core → Core) : (s.modCore k f).tokens = s.tokens := rfl
@[simp] theorem State.modCore_colOrd (s : State) (k : Nat) (f : Core → Core) : (s.modCore k f).colOrd = s.colOrd := rfl
@[simp] theorem State.modCore_nextServe (s : State) (k : Nat) (f : Core → Core) : (s.modCore k f).nextServe = s.nextServe := rfl
@[simp] theorem State.modCore_sens (s : State) (k : Nat) (f : Core → Core) : (s.modCore k f).sens = s.sens := rfl
@[simp] theorem State.modCore_kicked (s : State) (k : Nat) (f : Core → Core) : (s.modCore k f).kicked = s.kicked := rfl
@[simp] theorem State.modCore_msix (s : State) (k : Nat) (f : Core → Core) : (s.modCore k f).msix = s.msix := rfl
@[simp] theorem State.modCore_pba (s : State) (k : Nat) (f : Core → Core) : (s.modCore k f).pba = s.pba := rfl
@[simp] theorem State.modCore_seenDown (s : State) (k : Nat) (f : Core → Core) : (s.modCore k f).seenDown = s.seenDown := rfl
@[simp] theorem State.modCore_dls (s : State) (k : Nat) (f : Core → Core) : (s.modCore k f).dls = s.dls := rfl
@[simp] theorem State.modCore_wkts (s : State) (k : Nat) (f : Core → Core) : (s.modCore k f).wkts = s.wkts := rfl
@[simp] theorem State.modCore_power (s : State) (k : Nat) (f : Core → Core) : (s.modCore k f).power = s.power := rfl
@[simp] theorem State.modCore_flash (s : State) (k : Nat) (f : Core → Core) : (s.modCore k f).flash = s.flash := rfl
@[simp] theorem State.modCore_fuses (s : State) (k : Nat) (f : Core → Core) : (s.modCore k f).fuses = s.fuses := rfl
@[simp] theorem State.modCore_sec (s : State) (k : Nat) (f : Core → Core) : (s.modCore k f).sec = s.sec := rfl
@[simp] theorem State.modCore_tst (s : State) (k : Nat) (f : Core → Core) : (s.modCore k f).tst = s.tst := rfl
@[simp] theorem State.modCore_tele (s : State) (k : Nat) (f : Core → Core) : (s.modCore k f).tele = s.tele := rfl
@[simp] theorem State.modCore_dieCyc (s : State) (k : Nat) (f : Core → Core) : (s.modCore k f).dieCyc = s.dieCyc := rfl
@[simp] theorem State.modCore_autoStep (s : State) (k : Nat) (f : Core → Core) : (s.modCore k f).autoStep = s.autoStep := rfl
@[simp] theorem State.modCore_late (s : State) (k : Nat) (f : Core → Core) : (s.modCore k f).late = s.late := rfl
@[simp] theorem State.modCore_phMark (s : State) (k : Nat) (f : Core → Core) : (s.modCore k f).phMark = s.phMark := rfl
@[simp] theorem State.modCore_arb (s : State) (k : Nat) (f : Core → Core) : (s.modCore k f).arb = s.arb := rfl
@[simp] theorem State.modCore_time (s : State) (k : Nat) (f : Core → Core) : (s.modCore k f).time = s.time := rfl
@[simp] theorem State.modCore_cclk5 (s : State) (k : Nat) (f : Core → Core) : (s.modCore k f).cclk5 = s.cclk5 := rfl
@[simp] theorem State.modCore_freeCtr (s : State) (k : Nat) (f : Core → Core) : (s.modCore k f).freeCtr = s.freeCtr := rfl
@[simp] theorem State.modCore_pending (s : State) (k : Nat) (f : Core → Core) : (s.modCore k f).pending = s.pending := rfl

@[simp] theorem State.modCluster_csr (s : State) (k : Nat) (f : Cluster → Cluster) : (s.modCluster k f).csr = s.csr := rfl
@[simp] theorem State.modCluster_mem (s : State) (k : Nat) (f : Cluster → Cluster) : (s.modCluster k f).mem = s.mem := rfl
@[simp] theorem State.modCluster_cores (s : State) (k : Nat) (f : Cluster → Cluster) : (s.modCluster k f).cores = s.cores := rfl
@[simp] theorem State.modCluster_parked (s : State) (k : Nat) (f : Cluster → Cluster) : (s.modCluster k f).parked = s.parked := rfl
@[simp] theorem State.modCluster_atomAns (s : State) (k : Nat) (f : Cluster → Cluster) : (s.modCluster k f).atomAns = s.atomAns := rfl
@[simp] theorem State.modCluster_strms (s : State) (k : Nat) (f : Cluster → Cluster) : (s.modCluster k f).strms = s.strms := rfl
@[simp] theorem State.modCluster_incs (s : State) (k : Nat) (f : Cluster → Cluster) : (s.modCluster k f).incs = s.incs := rfl
@[simp] theorem State.modCluster_faults (s : State) (k : Nat) (f : Cluster → Cluster) : (s.modCluster k f).faults = s.faults := rfl
@[simp] theorem State.modCluster_hostOut (s : State) (k : Nat) (f : Cluster → Cluster) : (s.modCluster k f).hostOut = s.hostOut := rfl
@[simp] theorem State.modCluster_ring (s : State) (k : Nat) (f : Cluster → Cluster) : (s.modCluster k f).ring = s.ring := rfl
@[simp] theorem State.modCluster_hist (s : State) (k : Nat) (f : Cluster → Cluster) : (s.modCluster k f).hist = s.hist := rfl
@[simp] theorem State.modCluster_spareRows (s : State) (k : Nat) (f : Cluster → Cluster) : (s.modCluster k f).spareRows = s.spareRows := rfl
@[simp] theorem State.modCluster_shut (s : State) (k : Nat) (f : Cluster → Cluster) : (s.modCluster k f).shut = s.shut := rfl
@[simp] theorem State.modCluster_ctxs (s : State) (k : Nat) (f : Cluster → Cluster) : (s.modCluster k f).ctxs = s.ctxs := rfl
@[simp] theorem State.modCluster_cmds (s : State) (k : Nat) (f : Cluster → Cluster) : (s.modCluster k f).cmds = s.cmds := rfl
@[simp] theorem State.modCluster_nextCmd (s : State) (k : Nat) (f : Cluster → Cluster) : (s.modCluster k f).nextCmd = s.nextCmd := rfl
@[simp] theorem State.modCluster_qpos (s : State) (k : Nat) (f : Cluster → Cluster) : (s.modCluster k f).qpos = s.qpos := rfl
@[simp] theorem State.modCluster_evqs (s : State) (k : Nat) (f : Cluster → Cluster) : (s.modCluster k f).evqs = s.evqs := rfl
@[simp] theorem State.modCluster_windows (s : State) (k : Nat) (f : Cluster → Cluster) : (s.modCluster k f).windows = s.windows := rfl
@[simp] theorem State.modCluster_aps (s : State) (k : Nat) (f : Cluster → Cluster) : (s.modCluster k f).aps = s.aps := rfl
@[simp] theorem State.modCluster_notices (s : State) (k : Nat) (f : Cluster → Cluster) : (s.modCluster k f).notices = s.notices := rfl
@[simp] theorem State.modCluster_progs (s : State) (k : Nat) (f : Cluster → Cluster) : (s.modCluster k f).progs = s.progs := rfl
@[simp] theorem State.modCluster_ccRegs (s : State) (k : Nat) (f : Cluster → Cluster) : (s.modCluster k f).ccRegs = s.ccRegs := rfl
@[simp] theorem State.modCluster_pports (s : State) (k : Nat) (f : Cluster → Cluster) : (s.modCluster k f).pports = s.pports := rfl
@[simp] theorem State.modCluster_newReqs (s : State) (k : Nat) (f : Cluster → Cluster) : (s.modCluster k f).newReqs = s.newReqs := rfl
@[simp] theorem State.modCluster_rq (s : State) (k : Nat) (f : Cluster → Cluster) : (s.modCluster k f).rq = s.rq := rfl
@[simp] theorem State.modCluster_inbox (s : State) (k : Nat) (f : Cluster → Cluster) : (s.modCluster k f).inbox = s.inbox := rfl
@[simp] theorem State.modCluster_fports (s : State) (k : Nat) (f : Cluster → Cluster) : (s.modCluster k f).fports = s.fports := rfl
@[simp] theorem State.modCluster_dets (s : State) (k : Nat) (f : Cluster → Cluster) : (s.modCluster k f).dets = s.dets := rfl
@[simp] theorem State.modCluster_relays (s : State) (k : Nat) (f : Cluster → Cluster) : (s.modCluster k f).relays = s.relays := rfl
@[simp] theorem State.modCluster_eseqTx (s : State) (k : Nat) (f : Cluster → Cluster) : (s.modCluster k f).eseqTx = s.eseqTx := rfl
@[simp] theorem State.modCluster_eseqRx (s : State) (k : Nat) (f : Cluster → Cluster) : (s.modCluster k f).eseqRx = s.eseqRx := rfl
@[simp] theorem State.modCluster_oreqs (s : State) (k : Nat) (f : Cluster → Cluster) : (s.modCluster k f).oreqs = s.oreqs := rfl
@[simp] theorem State.modCluster_wbad (s : State) (k : Nat) (f : Cluster → Cluster) : (s.modCluster k f).wbad = s.wbad := rfl
@[simp] theorem State.modCluster_wacks (s : State) (k : Nat) (f : Cluster → Cluster) : (s.modCluster k f).wacks = s.wacks := rfl
@[simp] theorem State.modCluster_resps (s : State) (k : Nat) (f : Cluster → Cluster) : (s.modCluster k f).resps = s.resps := rfl
@[simp] theorem State.modCluster_netOut (s : State) (k : Nat) (f : Cluster → Cluster) : (s.modCluster k f).netOut = s.netOut := rfl
@[simp] theorem State.modCluster_serving (s : State) (k : Nat) (f : Cluster → Cluster) : (s.modCluster k f).serving = s.serving := rfl
@[simp] theorem State.modCluster_offers (s : State) (k : Nat) (f : Cluster → Cluster) : (s.modCluster k f).offers = s.offers := rfl
@[simp] theorem State.modCluster_staged (s : State) (k : Nat) (f : Cluster → Cluster) : (s.modCluster k f).staged = s.staged := rfl
@[simp] theorem State.modCluster_steps (s : State) (k : Nat) (f : Cluster → Cluster) : (s.modCluster k f).steps = s.steps := rfl
@[simp] theorem State.modCluster_applies (s : State) (k : Nat) (f : Cluster → Cluster) : (s.modCluster k f).applies = s.applies := rfl
@[simp] theorem State.modCluster_updCmds (s : State) (k : Nat) (f : Cluster → Cluster) : (s.modCluster k f).updCmds = s.updCmds := rfl
@[simp] theorem State.modCluster_hals (s : State) (k : Nat) (f : Cluster → Cluster) : (s.modCluster k f).hals = s.hals := rfl
@[simp] theorem State.modCluster_vholds (s : State) (k : Nat) (f : Cluster → Cluster) : (s.modCluster k f).vholds = s.vholds := rfl
@[simp] theorem State.modCluster_colls (s : State) (k : Nat) (f : Cluster → Cluster) : (s.modCluster k f).colls = s.colls := rfl
@[simp] theorem State.modCluster_votes (s : State) (k : Nat) (f : Cluster → Cluster) : (s.modCluster k f).votes = s.votes := rfl
@[simp] theorem State.modCluster_tokens (s : State) (k : Nat) (f : Cluster → Cluster) : (s.modCluster k f).tokens = s.tokens := rfl
@[simp] theorem State.modCluster_colOrd (s : State) (k : Nat) (f : Cluster → Cluster) : (s.modCluster k f).colOrd = s.colOrd := rfl
@[simp] theorem State.modCluster_nextServe (s : State) (k : Nat) (f : Cluster → Cluster) : (s.modCluster k f).nextServe = s.nextServe := rfl
@[simp] theorem State.modCluster_sens (s : State) (k : Nat) (f : Cluster → Cluster) : (s.modCluster k f).sens = s.sens := rfl
@[simp] theorem State.modCluster_kicked (s : State) (k : Nat) (f : Cluster → Cluster) : (s.modCluster k f).kicked = s.kicked := rfl
@[simp] theorem State.modCluster_msix (s : State) (k : Nat) (f : Cluster → Cluster) : (s.modCluster k f).msix = s.msix := rfl
@[simp] theorem State.modCluster_pba (s : State) (k : Nat) (f : Cluster → Cluster) : (s.modCluster k f).pba = s.pba := rfl
@[simp] theorem State.modCluster_seenDown (s : State) (k : Nat) (f : Cluster → Cluster) : (s.modCluster k f).seenDown = s.seenDown := rfl
@[simp] theorem State.modCluster_dls (s : State) (k : Nat) (f : Cluster → Cluster) : (s.modCluster k f).dls = s.dls := rfl
@[simp] theorem State.modCluster_wkts (s : State) (k : Nat) (f : Cluster → Cluster) : (s.modCluster k f).wkts = s.wkts := rfl
@[simp] theorem State.modCluster_power (s : State) (k : Nat) (f : Cluster → Cluster) : (s.modCluster k f).power = s.power := rfl
@[simp] theorem State.modCluster_flash (s : State) (k : Nat) (f : Cluster → Cluster) : (s.modCluster k f).flash = s.flash := rfl
@[simp] theorem State.modCluster_fuses (s : State) (k : Nat) (f : Cluster → Cluster) : (s.modCluster k f).fuses = s.fuses := rfl
@[simp] theorem State.modCluster_sec (s : State) (k : Nat) (f : Cluster → Cluster) : (s.modCluster k f).sec = s.sec := rfl
@[simp] theorem State.modCluster_tst (s : State) (k : Nat) (f : Cluster → Cluster) : (s.modCluster k f).tst = s.tst := rfl
@[simp] theorem State.modCluster_tele (s : State) (k : Nat) (f : Cluster → Cluster) : (s.modCluster k f).tele = s.tele := rfl
@[simp] theorem State.modCluster_dieCyc (s : State) (k : Nat) (f : Cluster → Cluster) : (s.modCluster k f).dieCyc = s.dieCyc := rfl
@[simp] theorem State.modCluster_autoStep (s : State) (k : Nat) (f : Cluster → Cluster) : (s.modCluster k f).autoStep = s.autoStep := rfl
@[simp] theorem State.modCluster_late (s : State) (k : Nat) (f : Cluster → Cluster) : (s.modCluster k f).late = s.late := rfl
@[simp] theorem State.modCluster_phMark (s : State) (k : Nat) (f : Cluster → Cluster) : (s.modCluster k f).phMark = s.phMark := rfl
@[simp] theorem State.modCluster_arb (s : State) (k : Nat) (f : Cluster → Cluster) : (s.modCluster k f).arb = s.arb := rfl
@[simp] theorem State.modCluster_time (s : State) (k : Nat) (f : Cluster → Cluster) : (s.modCluster k f).time = s.time := rfl
@[simp] theorem State.modCluster_cclk5 (s : State) (k : Nat) (f : Cluster → Cluster) : (s.modCluster k f).cclk5 = s.cclk5 := rfl
@[simp] theorem State.modCluster_freeCtr (s : State) (k : Nat) (f : Cluster → Cluster) : (s.modCluster k f).freeCtr = s.freeCtr := rfl
@[simp] theorem State.modCluster_pending (s : State) (k : Nat) (f : Cluster → Cluster) : (s.modCluster k f).pending = s.pending := rfl

@[simp] theorem State.modCtx_csr (s : State) (n : Nat) (f : Ctx → Ctx) : (s.modCtx n f).csr = s.csr := rfl
@[simp] theorem State.modCtx_mem (s : State) (n : Nat) (f : Ctx → Ctx) : (s.modCtx n f).mem = s.mem := rfl
@[simp] theorem State.modCtx_cores (s : State) (n : Nat) (f : Ctx → Ctx) : (s.modCtx n f).cores = s.cores := rfl
@[simp] theorem State.modCtx_clusters (s : State) (n : Nat) (f : Ctx → Ctx) : (s.modCtx n f).clusters = s.clusters := rfl
@[simp] theorem State.modCtx_parked (s : State) (n : Nat) (f : Ctx → Ctx) : (s.modCtx n f).parked = s.parked := rfl
@[simp] theorem State.modCtx_atomAns (s : State) (n : Nat) (f : Ctx → Ctx) : (s.modCtx n f).atomAns = s.atomAns := rfl
@[simp] theorem State.modCtx_strms (s : State) (n : Nat) (f : Ctx → Ctx) : (s.modCtx n f).strms = s.strms := rfl
@[simp] theorem State.modCtx_incs (s : State) (n : Nat) (f : Ctx → Ctx) : (s.modCtx n f).incs = s.incs := rfl
@[simp] theorem State.modCtx_faults (s : State) (n : Nat) (f : Ctx → Ctx) : (s.modCtx n f).faults = s.faults := rfl
@[simp] theorem State.modCtx_hostOut (s : State) (n : Nat) (f : Ctx → Ctx) : (s.modCtx n f).hostOut = s.hostOut := rfl
@[simp] theorem State.modCtx_ring (s : State) (n : Nat) (f : Ctx → Ctx) : (s.modCtx n f).ring = s.ring := rfl
@[simp] theorem State.modCtx_hist (s : State) (n : Nat) (f : Ctx → Ctx) : (s.modCtx n f).hist = s.hist := rfl
@[simp] theorem State.modCtx_spareRows (s : State) (n : Nat) (f : Ctx → Ctx) : (s.modCtx n f).spareRows = s.spareRows := rfl
@[simp] theorem State.modCtx_shut (s : State) (n : Nat) (f : Ctx → Ctx) : (s.modCtx n f).shut = s.shut := rfl
@[simp] theorem State.modCtx_cmds (s : State) (n : Nat) (f : Ctx → Ctx) : (s.modCtx n f).cmds = s.cmds := rfl
@[simp] theorem State.modCtx_nextCmd (s : State) (n : Nat) (f : Ctx → Ctx) : (s.modCtx n f).nextCmd = s.nextCmd := rfl
@[simp] theorem State.modCtx_qpos (s : State) (n : Nat) (f : Ctx → Ctx) : (s.modCtx n f).qpos = s.qpos := rfl
@[simp] theorem State.modCtx_evqs (s : State) (n : Nat) (f : Ctx → Ctx) : (s.modCtx n f).evqs = s.evqs := rfl
@[simp] theorem State.modCtx_windows (s : State) (n : Nat) (f : Ctx → Ctx) : (s.modCtx n f).windows = s.windows := rfl
@[simp] theorem State.modCtx_aps (s : State) (n : Nat) (f : Ctx → Ctx) : (s.modCtx n f).aps = s.aps := rfl
@[simp] theorem State.modCtx_notices (s : State) (n : Nat) (f : Ctx → Ctx) : (s.modCtx n f).notices = s.notices := rfl
@[simp] theorem State.modCtx_progs (s : State) (n : Nat) (f : Ctx → Ctx) : (s.modCtx n f).progs = s.progs := rfl
@[simp] theorem State.modCtx_ccRegs (s : State) (n : Nat) (f : Ctx → Ctx) : (s.modCtx n f).ccRegs = s.ccRegs := rfl
@[simp] theorem State.modCtx_pports (s : State) (n : Nat) (f : Ctx → Ctx) : (s.modCtx n f).pports = s.pports := rfl
@[simp] theorem State.modCtx_newReqs (s : State) (n : Nat) (f : Ctx → Ctx) : (s.modCtx n f).newReqs = s.newReqs := rfl
@[simp] theorem State.modCtx_rq (s : State) (n : Nat) (f : Ctx → Ctx) : (s.modCtx n f).rq = s.rq := rfl
@[simp] theorem State.modCtx_inbox (s : State) (n : Nat) (f : Ctx → Ctx) : (s.modCtx n f).inbox = s.inbox := rfl
@[simp] theorem State.modCtx_fports (s : State) (n : Nat) (f : Ctx → Ctx) : (s.modCtx n f).fports = s.fports := rfl
@[simp] theorem State.modCtx_dets (s : State) (n : Nat) (f : Ctx → Ctx) : (s.modCtx n f).dets = s.dets := rfl
@[simp] theorem State.modCtx_relays (s : State) (n : Nat) (f : Ctx → Ctx) : (s.modCtx n f).relays = s.relays := rfl
@[simp] theorem State.modCtx_eseqTx (s : State) (n : Nat) (f : Ctx → Ctx) : (s.modCtx n f).eseqTx = s.eseqTx := rfl
@[simp] theorem State.modCtx_eseqRx (s : State) (n : Nat) (f : Ctx → Ctx) : (s.modCtx n f).eseqRx = s.eseqRx := rfl
@[simp] theorem State.modCtx_oreqs (s : State) (n : Nat) (f : Ctx → Ctx) : (s.modCtx n f).oreqs = s.oreqs := rfl
@[simp] theorem State.modCtx_wbad (s : State) (n : Nat) (f : Ctx → Ctx) : (s.modCtx n f).wbad = s.wbad := rfl
@[simp] theorem State.modCtx_wacks (s : State) (n : Nat) (f : Ctx → Ctx) : (s.modCtx n f).wacks = s.wacks := rfl
@[simp] theorem State.modCtx_resps (s : State) (n : Nat) (f : Ctx → Ctx) : (s.modCtx n f).resps = s.resps := rfl
@[simp] theorem State.modCtx_netOut (s : State) (n : Nat) (f : Ctx → Ctx) : (s.modCtx n f).netOut = s.netOut := rfl
@[simp] theorem State.modCtx_serving (s : State) (n : Nat) (f : Ctx → Ctx) : (s.modCtx n f).serving = s.serving := rfl
@[simp] theorem State.modCtx_offers (s : State) (n : Nat) (f : Ctx → Ctx) : (s.modCtx n f).offers = s.offers := rfl
@[simp] theorem State.modCtx_staged (s : State) (n : Nat) (f : Ctx → Ctx) : (s.modCtx n f).staged = s.staged := rfl
@[simp] theorem State.modCtx_steps (s : State) (n : Nat) (f : Ctx → Ctx) : (s.modCtx n f).steps = s.steps := rfl
@[simp] theorem State.modCtx_applies (s : State) (n : Nat) (f : Ctx → Ctx) : (s.modCtx n f).applies = s.applies := rfl
@[simp] theorem State.modCtx_updCmds (s : State) (n : Nat) (f : Ctx → Ctx) : (s.modCtx n f).updCmds = s.updCmds := rfl
@[simp] theorem State.modCtx_hals (s : State) (n : Nat) (f : Ctx → Ctx) : (s.modCtx n f).hals = s.hals := rfl
@[simp] theorem State.modCtx_vholds (s : State) (n : Nat) (f : Ctx → Ctx) : (s.modCtx n f).vholds = s.vholds := rfl
@[simp] theorem State.modCtx_colls (s : State) (n : Nat) (f : Ctx → Ctx) : (s.modCtx n f).colls = s.colls := rfl
@[simp] theorem State.modCtx_votes (s : State) (n : Nat) (f : Ctx → Ctx) : (s.modCtx n f).votes = s.votes := rfl
@[simp] theorem State.modCtx_tokens (s : State) (n : Nat) (f : Ctx → Ctx) : (s.modCtx n f).tokens = s.tokens := rfl
@[simp] theorem State.modCtx_colOrd (s : State) (n : Nat) (f : Ctx → Ctx) : (s.modCtx n f).colOrd = s.colOrd := rfl
@[simp] theorem State.modCtx_nextServe (s : State) (n : Nat) (f : Ctx → Ctx) : (s.modCtx n f).nextServe = s.nextServe := rfl
@[simp] theorem State.modCtx_sens (s : State) (n : Nat) (f : Ctx → Ctx) : (s.modCtx n f).sens = s.sens := rfl
@[simp] theorem State.modCtx_kicked (s : State) (n : Nat) (f : Ctx → Ctx) : (s.modCtx n f).kicked = s.kicked := rfl
@[simp] theorem State.modCtx_msix (s : State) (n : Nat) (f : Ctx → Ctx) : (s.modCtx n f).msix = s.msix := rfl
@[simp] theorem State.modCtx_pba (s : State) (n : Nat) (f : Ctx → Ctx) : (s.modCtx n f).pba = s.pba := rfl
@[simp] theorem State.modCtx_seenDown (s : State) (n : Nat) (f : Ctx → Ctx) : (s.modCtx n f).seenDown = s.seenDown := rfl
@[simp] theorem State.modCtx_dls (s : State) (n : Nat) (f : Ctx → Ctx) : (s.modCtx n f).dls = s.dls := rfl
@[simp] theorem State.modCtx_wkts (s : State) (n : Nat) (f : Ctx → Ctx) : (s.modCtx n f).wkts = s.wkts := rfl
@[simp] theorem State.modCtx_power (s : State) (n : Nat) (f : Ctx → Ctx) : (s.modCtx n f).power = s.power := rfl
@[simp] theorem State.modCtx_flash (s : State) (n : Nat) (f : Ctx → Ctx) : (s.modCtx n f).flash = s.flash := rfl
@[simp] theorem State.modCtx_fuses (s : State) (n : Nat) (f : Ctx → Ctx) : (s.modCtx n f).fuses = s.fuses := rfl
@[simp] theorem State.modCtx_sec (s : State) (n : Nat) (f : Ctx → Ctx) : (s.modCtx n f).sec = s.sec := rfl
@[simp] theorem State.modCtx_tst (s : State) (n : Nat) (f : Ctx → Ctx) : (s.modCtx n f).tst = s.tst := rfl
@[simp] theorem State.modCtx_tele (s : State) (n : Nat) (f : Ctx → Ctx) : (s.modCtx n f).tele = s.tele := rfl
@[simp] theorem State.modCtx_dieCyc (s : State) (n : Nat) (f : Ctx → Ctx) : (s.modCtx n f).dieCyc = s.dieCyc := rfl
@[simp] theorem State.modCtx_autoStep (s : State) (n : Nat) (f : Ctx → Ctx) : (s.modCtx n f).autoStep = s.autoStep := rfl
@[simp] theorem State.modCtx_late (s : State) (n : Nat) (f : Ctx → Ctx) : (s.modCtx n f).late = s.late := rfl
@[simp] theorem State.modCtx_phMark (s : State) (n : Nat) (f : Ctx → Ctx) : (s.modCtx n f).phMark = s.phMark := rfl
@[simp] theorem State.modCtx_arb (s : State) (n : Nat) (f : Ctx → Ctx) : (s.modCtx n f).arb = s.arb := rfl
@[simp] theorem State.modCtx_time (s : State) (n : Nat) (f : Ctx → Ctx) : (s.modCtx n f).time = s.time := rfl
@[simp] theorem State.modCtx_cclk5 (s : State) (n : Nat) (f : Ctx → Ctx) : (s.modCtx n f).cclk5 = s.cclk5 := rfl
@[simp] theorem State.modCtx_freeCtr (s : State) (n : Nat) (f : Ctx → Ctx) : (s.modCtx n f).freeCtr = s.freeCtr := rfl
@[simp] theorem State.modCtx_pending (s : State) (n : Nat) (f : Ctx → Ctx) : (s.modCtx n f).pending = s.pending := rfl

@[simp] theorem State.settle_csr (s : State) (k : Nat) : (s.settle k).csr = s.csr := rfl
@[simp] theorem State.settle_mem (s : State) (k : Nat) : (s.settle k).mem = s.mem := rfl
@[simp] theorem State.settle_clusters (s : State) (k : Nat) : (s.settle k).clusters = s.clusters := rfl
@[simp] theorem State.settle_parked (s : State) (k : Nat) : (s.settle k).parked = s.parked := rfl
@[simp] theorem State.settle_atomAns (s : State) (k : Nat) : (s.settle k).atomAns = s.atomAns := rfl
@[simp] theorem State.settle_strms (s : State) (k : Nat) : (s.settle k).strms = s.strms := rfl
@[simp] theorem State.settle_incs (s : State) (k : Nat) : (s.settle k).incs = s.incs := rfl
@[simp] theorem State.settle_faults (s : State) (k : Nat) : (s.settle k).faults = s.faults := rfl
@[simp] theorem State.settle_hostOut (s : State) (k : Nat) : (s.settle k).hostOut = s.hostOut := rfl
@[simp] theorem State.settle_ring (s : State) (k : Nat) : (s.settle k).ring = s.ring := rfl
@[simp] theorem State.settle_hist (s : State) (k : Nat) : (s.settle k).hist = s.hist := rfl
@[simp] theorem State.settle_spareRows (s : State) (k : Nat) : (s.settle k).spareRows = s.spareRows := rfl
@[simp] theorem State.settle_shut (s : State) (k : Nat) : (s.settle k).shut = s.shut := rfl
@[simp] theorem State.settle_ctxs (s : State) (k : Nat) : (s.settle k).ctxs = s.ctxs := rfl
@[simp] theorem State.settle_cmds (s : State) (k : Nat) : (s.settle k).cmds = s.cmds := rfl
@[simp] theorem State.settle_nextCmd (s : State) (k : Nat) : (s.settle k).nextCmd = s.nextCmd := rfl
@[simp] theorem State.settle_qpos (s : State) (k : Nat) : (s.settle k).qpos = s.qpos := rfl
@[simp] theorem State.settle_evqs (s : State) (k : Nat) : (s.settle k).evqs = s.evqs := rfl
@[simp] theorem State.settle_windows (s : State) (k : Nat) : (s.settle k).windows = s.windows := rfl
@[simp] theorem State.settle_aps (s : State) (k : Nat) : (s.settle k).aps = s.aps := rfl
@[simp] theorem State.settle_notices (s : State) (k : Nat) : (s.settle k).notices = s.notices := rfl
@[simp] theorem State.settle_progs (s : State) (k : Nat) : (s.settle k).progs = s.progs := rfl
@[simp] theorem State.settle_ccRegs (s : State) (k : Nat) : (s.settle k).ccRegs = s.ccRegs := rfl
@[simp] theorem State.settle_pports (s : State) (k : Nat) : (s.settle k).pports = s.pports := rfl
@[simp] theorem State.settle_newReqs (s : State) (k : Nat) : (s.settle k).newReqs = s.newReqs := rfl
@[simp] theorem State.settle_rq (s : State) (k : Nat) : (s.settle k).rq = s.rq := rfl
@[simp] theorem State.settle_inbox (s : State) (k : Nat) : (s.settle k).inbox = s.inbox := rfl
@[simp] theorem State.settle_fports (s : State) (k : Nat) : (s.settle k).fports = s.fports := rfl
@[simp] theorem State.settle_dets (s : State) (k : Nat) : (s.settle k).dets = s.dets := rfl
@[simp] theorem State.settle_relays (s : State) (k : Nat) : (s.settle k).relays = s.relays := rfl
@[simp] theorem State.settle_eseqTx (s : State) (k : Nat) : (s.settle k).eseqTx = s.eseqTx := rfl
@[simp] theorem State.settle_eseqRx (s : State) (k : Nat) : (s.settle k).eseqRx = s.eseqRx := rfl
@[simp] theorem State.settle_oreqs (s : State) (k : Nat) : (s.settle k).oreqs = s.oreqs := rfl
@[simp] theorem State.settle_wbad (s : State) (k : Nat) : (s.settle k).wbad = s.wbad := rfl
@[simp] theorem State.settle_wacks (s : State) (k : Nat) : (s.settle k).wacks = s.wacks := rfl
@[simp] theorem State.settle_resps (s : State) (k : Nat) : (s.settle k).resps = s.resps := rfl
@[simp] theorem State.settle_netOut (s : State) (k : Nat) : (s.settle k).netOut = s.netOut := rfl
@[simp] theorem State.settle_serving (s : State) (k : Nat) : (s.settle k).serving = s.serving := rfl
@[simp] theorem State.settle_offers (s : State) (k : Nat) : (s.settle k).offers = s.offers := rfl
@[simp] theorem State.settle_staged (s : State) (k : Nat) : (s.settle k).staged = s.staged := rfl
@[simp] theorem State.settle_steps (s : State) (k : Nat) : (s.settle k).steps = s.steps := rfl
@[simp] theorem State.settle_applies (s : State) (k : Nat) : (s.settle k).applies = s.applies := rfl
@[simp] theorem State.settle_updCmds (s : State) (k : Nat) : (s.settle k).updCmds = s.updCmds := rfl
@[simp] theorem State.settle_hals (s : State) (k : Nat) : (s.settle k).hals = s.hals := rfl
@[simp] theorem State.settle_vholds (s : State) (k : Nat) : (s.settle k).vholds = s.vholds := rfl
@[simp] theorem State.settle_colls (s : State) (k : Nat) : (s.settle k).colls = s.colls := rfl
@[simp] theorem State.settle_votes (s : State) (k : Nat) : (s.settle k).votes = s.votes := rfl
@[simp] theorem State.settle_tokens (s : State) (k : Nat) : (s.settle k).tokens = s.tokens := rfl
@[simp] theorem State.settle_colOrd (s : State) (k : Nat) : (s.settle k).colOrd = s.colOrd := rfl
@[simp] theorem State.settle_nextServe (s : State) (k : Nat) : (s.settle k).nextServe = s.nextServe := rfl
@[simp] theorem State.settle_sens (s : State) (k : Nat) : (s.settle k).sens = s.sens := rfl
@[simp] theorem State.settle_kicked (s : State) (k : Nat) : (s.settle k).kicked = s.kicked := rfl
@[simp] theorem State.settle_msix (s : State) (k : Nat) : (s.settle k).msix = s.msix := rfl
@[simp] theorem State.settle_pba (s : State) (k : Nat) : (s.settle k).pba = s.pba := rfl
@[simp] theorem State.settle_seenDown (s : State) (k : Nat) : (s.settle k).seenDown = s.seenDown := rfl
@[simp] theorem State.settle_dls (s : State) (k : Nat) : (s.settle k).dls = s.dls := rfl
@[simp] theorem State.settle_wkts (s : State) (k : Nat) : (s.settle k).wkts = s.wkts := rfl
@[simp] theorem State.settle_power (s : State) (k : Nat) : (s.settle k).power = s.power := rfl
@[simp] theorem State.settle_flash (s : State) (k : Nat) : (s.settle k).flash = s.flash := rfl
@[simp] theorem State.settle_fuses (s : State) (k : Nat) : (s.settle k).fuses = s.fuses := rfl
@[simp] theorem State.settle_sec (s : State) (k : Nat) : (s.settle k).sec = s.sec := rfl
@[simp] theorem State.settle_tst (s : State) (k : Nat) : (s.settle k).tst = s.tst := rfl
@[simp] theorem State.settle_tele (s : State) (k : Nat) : (s.settle k).tele = s.tele := rfl
@[simp] theorem State.settle_dieCyc (s : State) (k : Nat) : (s.settle k).dieCyc = s.dieCyc := rfl
@[simp] theorem State.settle_autoStep (s : State) (k : Nat) : (s.settle k).autoStep = s.autoStep := rfl
@[simp] theorem State.settle_late (s : State) (k : Nat) : (s.settle k).late = s.late := rfl
@[simp] theorem State.settle_phMark (s : State) (k : Nat) : (s.settle k).phMark = s.phMark := rfl
@[simp] theorem State.settle_arb (s : State) (k : Nat) : (s.settle k).arb = s.arb := rfl
@[simp] theorem State.settle_time (s : State) (k : Nat) : (s.settle k).time = s.time := rfl
@[simp] theorem State.settle_cclk5 (s : State) (k : Nat) : (s.settle k).cclk5 = s.cclk5 := rfl
@[simp] theorem State.settle_freeCtr (s : State) (k : Nat) : (s.settle k).freeCtr = s.freeCtr := rfl
@[simp] theorem State.settle_pending (s : State) (k : Nat) : (s.settle k).pending = s.pending := rfl

@[simp] theorem State.flagIf_mem (s : State) (off : Nat) (f : Fld) (b : Bool) : (s.flagIf off f b).mem = s.mem := by unfold State.flagIf; split <;> rfl
@[simp] theorem State.flagIf_cores (s : State) (off : Nat) (f : Fld) (b : Bool) : (s.flagIf off f b).cores = s.cores := by unfold State.flagIf; split <;> rfl
@[simp] theorem State.flagIf_clusters (s : State) (off : Nat) (f : Fld) (b : Bool) : (s.flagIf off f b).clusters = s.clusters := by unfold State.flagIf; split <;> rfl
@[simp] theorem State.flagIf_parked (s : State) (off : Nat) (f : Fld) (b : Bool) : (s.flagIf off f b).parked = s.parked := by unfold State.flagIf; split <;> rfl
@[simp] theorem State.flagIf_atomAns (s : State) (off : Nat) (f : Fld) (b : Bool) : (s.flagIf off f b).atomAns = s.atomAns := by unfold State.flagIf; split <;> rfl
@[simp] theorem State.flagIf_strms (s : State) (off : Nat) (f : Fld) (b : Bool) : (s.flagIf off f b).strms = s.strms := by unfold State.flagIf; split <;> rfl
@[simp] theorem State.flagIf_incs (s : State) (off : Nat) (f : Fld) (b : Bool) : (s.flagIf off f b).incs = s.incs := by unfold State.flagIf; split <;> rfl
@[simp] theorem State.flagIf_faults (s : State) (off : Nat) (f : Fld) (b : Bool) : (s.flagIf off f b).faults = s.faults := by unfold State.flagIf; split <;> rfl
@[simp] theorem State.flagIf_hostOut (s : State) (off : Nat) (f : Fld) (b : Bool) : (s.flagIf off f b).hostOut = s.hostOut := by unfold State.flagIf; split <;> rfl
@[simp] theorem State.flagIf_ring (s : State) (off : Nat) (f : Fld) (b : Bool) : (s.flagIf off f b).ring = s.ring := by unfold State.flagIf; split <;> rfl
@[simp] theorem State.flagIf_hist (s : State) (off : Nat) (f : Fld) (b : Bool) : (s.flagIf off f b).hist = s.hist := by unfold State.flagIf; split <;> rfl
@[simp] theorem State.flagIf_spareRows (s : State) (off : Nat) (f : Fld) (b : Bool) : (s.flagIf off f b).spareRows = s.spareRows := by unfold State.flagIf; split <;> rfl
@[simp] theorem State.flagIf_shut (s : State) (off : Nat) (f : Fld) (b : Bool) : (s.flagIf off f b).shut = s.shut := by unfold State.flagIf; split <;> rfl
@[simp] theorem State.flagIf_ctxs (s : State) (off : Nat) (f : Fld) (b : Bool) : (s.flagIf off f b).ctxs = s.ctxs := by unfold State.flagIf; split <;> rfl
@[simp] theorem State.flagIf_cmds (s : State) (off : Nat) (f : Fld) (b : Bool) : (s.flagIf off f b).cmds = s.cmds := by unfold State.flagIf; split <;> rfl
@[simp] theorem State.flagIf_nextCmd (s : State) (off : Nat) (f : Fld) (b : Bool) : (s.flagIf off f b).nextCmd = s.nextCmd := by unfold State.flagIf; split <;> rfl
@[simp] theorem State.flagIf_qpos (s : State) (off : Nat) (f : Fld) (b : Bool) : (s.flagIf off f b).qpos = s.qpos := by unfold State.flagIf; split <;> rfl
@[simp] theorem State.flagIf_evqs (s : State) (off : Nat) (f : Fld) (b : Bool) : (s.flagIf off f b).evqs = s.evqs := by unfold State.flagIf; split <;> rfl
@[simp] theorem State.flagIf_windows (s : State) (off : Nat) (f : Fld) (b : Bool) : (s.flagIf off f b).windows = s.windows := by unfold State.flagIf; split <;> rfl
@[simp] theorem State.flagIf_aps (s : State) (off : Nat) (f : Fld) (b : Bool) : (s.flagIf off f b).aps = s.aps := by unfold State.flagIf; split <;> rfl
@[simp] theorem State.flagIf_notices (s : State) (off : Nat) (f : Fld) (b : Bool) : (s.flagIf off f b).notices = s.notices := by unfold State.flagIf; split <;> rfl
@[simp] theorem State.flagIf_progs (s : State) (off : Nat) (f : Fld) (b : Bool) : (s.flagIf off f b).progs = s.progs := by unfold State.flagIf; split <;> rfl
@[simp] theorem State.flagIf_ccRegs (s : State) (off : Nat) (f : Fld) (b : Bool) : (s.flagIf off f b).ccRegs = s.ccRegs := by unfold State.flagIf; split <;> rfl
@[simp] theorem State.flagIf_pports (s : State) (off : Nat) (f : Fld) (b : Bool) : (s.flagIf off f b).pports = s.pports := by unfold State.flagIf; split <;> rfl
@[simp] theorem State.flagIf_newReqs (s : State) (off : Nat) (f : Fld) (b : Bool) : (s.flagIf off f b).newReqs = s.newReqs := by unfold State.flagIf; split <;> rfl
@[simp] theorem State.flagIf_rq (s : State) (off : Nat) (f : Fld) (b : Bool) : (s.flagIf off f b).rq = s.rq := by unfold State.flagIf; split <;> rfl
@[simp] theorem State.flagIf_inbox (s : State) (off : Nat) (f : Fld) (b : Bool) : (s.flagIf off f b).inbox = s.inbox := by unfold State.flagIf; split <;> rfl
@[simp] theorem State.flagIf_fports (s : State) (off : Nat) (f : Fld) (b : Bool) : (s.flagIf off f b).fports = s.fports := by unfold State.flagIf; split <;> rfl
@[simp] theorem State.flagIf_dets (s : State) (off : Nat) (f : Fld) (b : Bool) : (s.flagIf off f b).dets = s.dets := by unfold State.flagIf; split <;> rfl
@[simp] theorem State.flagIf_relays (s : State) (off : Nat) (f : Fld) (b : Bool) : (s.flagIf off f b).relays = s.relays := by unfold State.flagIf; split <;> rfl
@[simp] theorem State.flagIf_eseqTx (s : State) (off : Nat) (f : Fld) (b : Bool) : (s.flagIf off f b).eseqTx = s.eseqTx := by unfold State.flagIf; split <;> rfl
@[simp] theorem State.flagIf_eseqRx (s : State) (off : Nat) (f : Fld) (b : Bool) : (s.flagIf off f b).eseqRx = s.eseqRx := by unfold State.flagIf; split <;> rfl
@[simp] theorem State.flagIf_oreqs (s : State) (off : Nat) (f : Fld) (b : Bool) : (s.flagIf off f b).oreqs = s.oreqs := by unfold State.flagIf; split <;> rfl
@[simp] theorem State.flagIf_wbad (s : State) (off : Nat) (f : Fld) (b : Bool) : (s.flagIf off f b).wbad = s.wbad := by unfold State.flagIf; split <;> rfl
@[simp] theorem State.flagIf_wacks (s : State) (off : Nat) (f : Fld) (b : Bool) : (s.flagIf off f b).wacks = s.wacks := by unfold State.flagIf; split <;> rfl
@[simp] theorem State.flagIf_resps (s : State) (off : Nat) (f : Fld) (b : Bool) : (s.flagIf off f b).resps = s.resps := by unfold State.flagIf; split <;> rfl
@[simp] theorem State.flagIf_netOut (s : State) (off : Nat) (f : Fld) (b : Bool) : (s.flagIf off f b).netOut = s.netOut := by unfold State.flagIf; split <;> rfl
@[simp] theorem State.flagIf_serving (s : State) (off : Nat) (f : Fld) (b : Bool) : (s.flagIf off f b).serving = s.serving := by unfold State.flagIf; split <;> rfl
@[simp] theorem State.flagIf_offers (s : State) (off : Nat) (f : Fld) (b : Bool) : (s.flagIf off f b).offers = s.offers := by unfold State.flagIf; split <;> rfl
@[simp] theorem State.flagIf_staged (s : State) (off : Nat) (f : Fld) (b : Bool) : (s.flagIf off f b).staged = s.staged := by unfold State.flagIf; split <;> rfl
@[simp] theorem State.flagIf_steps (s : State) (off : Nat) (f : Fld) (b : Bool) : (s.flagIf off f b).steps = s.steps := by unfold State.flagIf; split <;> rfl
@[simp] theorem State.flagIf_applies (s : State) (off : Nat) (f : Fld) (b : Bool) : (s.flagIf off f b).applies = s.applies := by unfold State.flagIf; split <;> rfl
@[simp] theorem State.flagIf_updCmds (s : State) (off : Nat) (f : Fld) (b : Bool) : (s.flagIf off f b).updCmds = s.updCmds := by unfold State.flagIf; split <;> rfl
@[simp] theorem State.flagIf_hals (s : State) (off : Nat) (f : Fld) (b : Bool) : (s.flagIf off f b).hals = s.hals := by unfold State.flagIf; split <;> rfl
@[simp] theorem State.flagIf_vholds (s : State) (off : Nat) (f : Fld) (b : Bool) : (s.flagIf off f b).vholds = s.vholds := by unfold State.flagIf; split <;> rfl
@[simp] theorem State.flagIf_colls (s : State) (off : Nat) (f : Fld) (b : Bool) : (s.flagIf off f b).colls = s.colls := by unfold State.flagIf; split <;> rfl
@[simp] theorem State.flagIf_votes (s : State) (off : Nat) (f : Fld) (b : Bool) : (s.flagIf off f b).votes = s.votes := by unfold State.flagIf; split <;> rfl
@[simp] theorem State.flagIf_tokens (s : State) (off : Nat) (f : Fld) (b : Bool) : (s.flagIf off f b).tokens = s.tokens := by unfold State.flagIf; split <;> rfl
@[simp] theorem State.flagIf_colOrd (s : State) (off : Nat) (f : Fld) (b : Bool) : (s.flagIf off f b).colOrd = s.colOrd := by unfold State.flagIf; split <;> rfl
@[simp] theorem State.flagIf_nextServe (s : State) (off : Nat) (f : Fld) (b : Bool) : (s.flagIf off f b).nextServe = s.nextServe := by unfold State.flagIf; split <;> rfl
@[simp] theorem State.flagIf_sens (s : State) (off : Nat) (f : Fld) (b : Bool) : (s.flagIf off f b).sens = s.sens := by unfold State.flagIf; split <;> rfl
@[simp] theorem State.flagIf_kicked (s : State) (off : Nat) (f : Fld) (b : Bool) : (s.flagIf off f b).kicked = s.kicked := by unfold State.flagIf; split <;> rfl
@[simp] theorem State.flagIf_msix (s : State) (off : Nat) (f : Fld) (b : Bool) : (s.flagIf off f b).msix = s.msix := by unfold State.flagIf; split <;> rfl
@[simp] theorem State.flagIf_pba (s : State) (off : Nat) (f : Fld) (b : Bool) : (s.flagIf off f b).pba = s.pba := by unfold State.flagIf; split <;> rfl
@[simp] theorem State.flagIf_seenDown (s : State) (off : Nat) (f : Fld) (b : Bool) : (s.flagIf off f b).seenDown = s.seenDown := by unfold State.flagIf; split <;> rfl
@[simp] theorem State.flagIf_dls (s : State) (off : Nat) (f : Fld) (b : Bool) : (s.flagIf off f b).dls = s.dls := by unfold State.flagIf; split <;> rfl
@[simp] theorem State.flagIf_wkts (s : State) (off : Nat) (f : Fld) (b : Bool) : (s.flagIf off f b).wkts = s.wkts := by unfold State.flagIf; split <;> rfl
@[simp] theorem State.flagIf_power (s : State) (off : Nat) (f : Fld) (b : Bool) : (s.flagIf off f b).power = s.power := by unfold State.flagIf; split <;> rfl
@[simp] theorem State.flagIf_flash (s : State) (off : Nat) (f : Fld) (b : Bool) : (s.flagIf off f b).flash = s.flash := by unfold State.flagIf; split <;> rfl
@[simp] theorem State.flagIf_fuses (s : State) (off : Nat) (f : Fld) (b : Bool) : (s.flagIf off f b).fuses = s.fuses := by unfold State.flagIf; split <;> rfl
@[simp] theorem State.flagIf_sec (s : State) (off : Nat) (f : Fld) (b : Bool) : (s.flagIf off f b).sec = s.sec := by unfold State.flagIf; split <;> rfl
@[simp] theorem State.flagIf_tst (s : State) (off : Nat) (f : Fld) (b : Bool) : (s.flagIf off f b).tst = s.tst := by unfold State.flagIf; split <;> rfl
@[simp] theorem State.flagIf_tele (s : State) (off : Nat) (f : Fld) (b : Bool) : (s.flagIf off f b).tele = s.tele := by unfold State.flagIf; split <;> rfl
@[simp] theorem State.flagIf_dieCyc (s : State) (off : Nat) (f : Fld) (b : Bool) : (s.flagIf off f b).dieCyc = s.dieCyc := by unfold State.flagIf; split <;> rfl
@[simp] theorem State.flagIf_autoStep (s : State) (off : Nat) (f : Fld) (b : Bool) : (s.flagIf off f b).autoStep = s.autoStep := by unfold State.flagIf; split <;> rfl
@[simp] theorem State.flagIf_late (s : State) (off : Nat) (f : Fld) (b : Bool) : (s.flagIf off f b).late = s.late := by unfold State.flagIf; split <;> rfl
@[simp] theorem State.flagIf_phMark (s : State) (off : Nat) (f : Fld) (b : Bool) : (s.flagIf off f b).phMark = s.phMark := by unfold State.flagIf; split <;> rfl
@[simp] theorem State.flagIf_arb (s : State) (off : Nat) (f : Fld) (b : Bool) : (s.flagIf off f b).arb = s.arb := by unfold State.flagIf; split <;> rfl
@[simp] theorem State.flagIf_time (s : State) (off : Nat) (f : Fld) (b : Bool) : (s.flagIf off f b).time = s.time := by unfold State.flagIf; split <;> rfl
@[simp] theorem State.flagIf_cclk5 (s : State) (off : Nat) (f : Fld) (b : Bool) : (s.flagIf off f b).cclk5 = s.cclk5 := by unfold State.flagIf; split <;> rfl
@[simp] theorem State.flagIf_freeCtr (s : State) (off : Nat) (f : Fld) (b : Bool) : (s.flagIf off f b).freeCtr = s.freeCtr := by unfold State.flagIf; split <;> rfl
@[simp] theorem State.flagIf_pending (s : State) (off : Nat) (f : Fld) (b : Bool) : (s.flagIf off f b).pending = s.pending := by unfold State.flagIf; split <;> rfl
@[simp] theorem State.draw_csr (s : State) : s.draw.2.csr = s.csr := rfl
@[simp] theorem State.draw_mem (s : State) : s.draw.2.mem = s.mem := rfl
@[simp] theorem State.draw_cores (s : State) : s.draw.2.cores = s.cores := rfl
@[simp] theorem State.draw_clusters (s : State) : s.draw.2.clusters = s.clusters := rfl
@[simp] theorem State.draw_parked (s : State) : s.draw.2.parked = s.parked := rfl
@[simp] theorem State.draw_atomAns (s : State) : s.draw.2.atomAns = s.atomAns := rfl
@[simp] theorem State.draw_strms (s : State) : s.draw.2.strms = s.strms := rfl
@[simp] theorem State.draw_incs (s : State) : s.draw.2.incs = s.incs := rfl
@[simp] theorem State.draw_faults (s : State) : s.draw.2.faults = s.faults := rfl
@[simp] theorem State.draw_hostOut (s : State) : s.draw.2.hostOut = s.hostOut := rfl
@[simp] theorem State.draw_ring (s : State) : s.draw.2.ring = s.ring := rfl
@[simp] theorem State.draw_hist (s : State) : s.draw.2.hist = s.hist := rfl
@[simp] theorem State.draw_spareRows (s : State) : s.draw.2.spareRows = s.spareRows := rfl
@[simp] theorem State.draw_shut (s : State) : s.draw.2.shut = s.shut := rfl
@[simp] theorem State.draw_ctxs (s : State) : s.draw.2.ctxs = s.ctxs := rfl
@[simp] theorem State.draw_cmds (s : State) : s.draw.2.cmds = s.cmds := rfl
@[simp] theorem State.draw_nextCmd (s : State) : s.draw.2.nextCmd = s.nextCmd := rfl
@[simp] theorem State.draw_qpos (s : State) : s.draw.2.qpos = s.qpos := rfl
@[simp] theorem State.draw_evqs (s : State) : s.draw.2.evqs = s.evqs := rfl
@[simp] theorem State.draw_windows (s : State) : s.draw.2.windows = s.windows := rfl
@[simp] theorem State.draw_aps (s : State) : s.draw.2.aps = s.aps := rfl
@[simp] theorem State.draw_notices (s : State) : s.draw.2.notices = s.notices := rfl
@[simp] theorem State.draw_progs (s : State) : s.draw.2.progs = s.progs := rfl
@[simp] theorem State.draw_ccRegs (s : State) : s.draw.2.ccRegs = s.ccRegs := rfl
@[simp] theorem State.draw_pports (s : State) : s.draw.2.pports = s.pports := rfl
@[simp] theorem State.draw_newReqs (s : State) : s.draw.2.newReqs = s.newReqs := rfl
@[simp] theorem State.draw_rq (s : State) : s.draw.2.rq = s.rq := rfl
@[simp] theorem State.draw_inbox (s : State) : s.draw.2.inbox = s.inbox := rfl
@[simp] theorem State.draw_fports (s : State) : s.draw.2.fports = s.fports := rfl
@[simp] theorem State.draw_dets (s : State) : s.draw.2.dets = s.dets := rfl
@[simp] theorem State.draw_relays (s : State) : s.draw.2.relays = s.relays := rfl
@[simp] theorem State.draw_eseqTx (s : State) : s.draw.2.eseqTx = s.eseqTx := rfl
@[simp] theorem State.draw_eseqRx (s : State) : s.draw.2.eseqRx = s.eseqRx := rfl
@[simp] theorem State.draw_oreqs (s : State) : s.draw.2.oreqs = s.oreqs := rfl
@[simp] theorem State.draw_wbad (s : State) : s.draw.2.wbad = s.wbad := rfl
@[simp] theorem State.draw_wacks (s : State) : s.draw.2.wacks = s.wacks := rfl
@[simp] theorem State.draw_resps (s : State) : s.draw.2.resps = s.resps := rfl
@[simp] theorem State.draw_netOut (s : State) : s.draw.2.netOut = s.netOut := rfl
@[simp] theorem State.draw_serving (s : State) : s.draw.2.serving = s.serving := rfl
@[simp] theorem State.draw_offers (s : State) : s.draw.2.offers = s.offers := rfl
@[simp] theorem State.draw_staged (s : State) : s.draw.2.staged = s.staged := rfl
@[simp] theorem State.draw_steps (s : State) : s.draw.2.steps = s.steps := rfl
@[simp] theorem State.draw_applies (s : State) : s.draw.2.applies = s.applies := rfl
@[simp] theorem State.draw_updCmds (s : State) : s.draw.2.updCmds = s.updCmds := rfl
@[simp] theorem State.draw_hals (s : State) : s.draw.2.hals = s.hals := rfl
@[simp] theorem State.draw_vholds (s : State) : s.draw.2.vholds = s.vholds := rfl
@[simp] theorem State.draw_colls (s : State) : s.draw.2.colls = s.colls := rfl
@[simp] theorem State.draw_votes (s : State) : s.draw.2.votes = s.votes := rfl
@[simp] theorem State.draw_tokens (s : State) : s.draw.2.tokens = s.tokens := rfl
@[simp] theorem State.draw_colOrd (s : State) : s.draw.2.colOrd = s.colOrd := rfl
@[simp] theorem State.draw_nextServe (s : State) : s.draw.2.nextServe = s.nextServe := rfl
@[simp] theorem State.draw_sens (s : State) : s.draw.2.sens = s.sens := rfl
@[simp] theorem State.draw_kicked (s : State) : s.draw.2.kicked = s.kicked := rfl
@[simp] theorem State.draw_msix (s : State) : s.draw.2.msix = s.msix := rfl
@[simp] theorem State.draw_pba (s : State) : s.draw.2.pba = s.pba := rfl
@[simp] theorem State.draw_seenDown (s : State) : s.draw.2.seenDown = s.seenDown := rfl
@[simp] theorem State.draw_dls (s : State) : s.draw.2.dls = s.dls := rfl
@[simp] theorem State.draw_wkts (s : State) : s.draw.2.wkts = s.wkts := rfl
@[simp] theorem State.draw_power (s : State) : s.draw.2.power = s.power := rfl
@[simp] theorem State.draw_flash (s : State) : s.draw.2.flash = s.flash := rfl
@[simp] theorem State.draw_fuses (s : State) : s.draw.2.fuses = s.fuses := rfl
@[simp] theorem State.draw_sec (s : State) : s.draw.2.sec = s.sec := rfl
@[simp] theorem State.draw_tst (s : State) : s.draw.2.tst = s.tst := rfl
@[simp] theorem State.draw_tele (s : State) : s.draw.2.tele = s.tele := rfl
@[simp] theorem State.draw_dieCyc (s : State) : s.draw.2.dieCyc = s.dieCyc := rfl
@[simp] theorem State.draw_autoStep (s : State) : s.draw.2.autoStep = s.autoStep := rfl
@[simp] theorem State.draw_late (s : State) : s.draw.2.late = s.late := rfl
@[simp] theorem State.draw_phMark (s : State) : s.draw.2.phMark = s.phMark := rfl
@[simp] theorem State.draw_arb (s : State) : s.draw.2.arb = s.arb := rfl
@[simp] theorem State.draw_time (s : State) : s.draw.2.time = s.time := rfl
@[simp] theorem State.draw_cclk5 (s : State) : s.draw.2.cclk5 = s.cclk5 := rfl
@[simp] theorem State.draw_pending (s : State) : s.draw.2.pending = s.pending := rfl

theorem State.core_modCore (s : State) (k j : Nat) (f : Core → Core) : (s.modCore k f).core j = if j = k then f (s.core k) else s.core j := by
  unfold State.modCore State.setCore State.core; simp only [tget_tset]
@[simp] theorem State.core_modCore_same (s : State) (k : Nat) (f : Core → Core) : (s.modCore k f).core k = f (s.core k) := by simp [State.core_modCore]
theorem State.core_modCore_ne {s : State} {k j : Nat} {f : Core → Core} (h : j ≠ k) : (s.modCore k f).core j = s.core j := by simp [State.core_modCore, h]
@[simp] theorem State.core_csrSet (s : State) (off : Nat) (v : Word) (k : Nat) : (s.csrSet off v).core k = s.core k := rfl
@[simp] theorem State.core_setFld (s : State) (off : Nat) (f : Fld) (v k : Nat) : (s.setFld off f v).core k = s.core k := rfl
@[simp] theorem State.core_modCtx (s : State) (n : Nat) (f : Ctx → Ctx) (k : Nat) : (s.modCtx n f).core k = s.core k := rfl
@[simp] theorem State.core_modCluster (s : State) (i : Nat) (f : Cluster → Cluster) (k : Nat) : (s.modCluster i f).core k = s.core k := rfl
@[simp] theorem State.csrGet_modCore (s : State) (k : Nat) (f : Core → Core) (off : Nat) : (s.modCore k f).csrGet off = s.csrGet off := rfl
@[simp] theorem State.csrGet_modCtx (s : State) (n : Nat) (f : Ctx → Ctx) (off : Nat) : (s.modCtx n f).csrGet off = s.csrGet off := rfl
@[simp] theorem State.csrGet_modCluster (s : State) (i : Nat) (f : Cluster → Cluster) (off : Nat) : (s.modCluster i f).csrGet off = s.csrGet off := rfl
@[simp] theorem State.fld_modCore (s : State) (k : Nat) (f : Core → Core) (off : Nat) (x : Fld) : (s.modCore k f).fld off x = s.fld off x := rfl
@[simp] theorem State.fld_modCtx (s : State) (n : Nat) (f : Ctx → Ctx) (off : Nat) (x : Fld) : (s.modCtx n f).fld off x = s.fld off x := rfl
@[simp] theorem State.fld_modCluster (s : State) (i : Nat) (f : Cluster → Cluster) (off : Nat) (x : Fld) : (s.modCluster i f).fld off x = s.fld off x := rfl
@[simp] theorem State.ctx_modCtx_same (s : State) (n : Nat) (f : Ctx → Ctx) : (s.modCtx n f).ctx n = f (s.ctx n) := by
  unfold State.modCtx State.ctx; simp [tget_tset]
theorem State.ctx_modCtx_ne {s : State} {n m : Nat} {f : Ctx → Ctx} (h : m ≠ n) : (s.modCtx n f).ctx m = s.ctx m := by
  unfold State.modCtx State.ctx; simp [tget_tset, h]
@[simp] theorem State.cluster_modCluster_same (s : State) (i : Nat) (f : Cluster → Cluster) : (s.modCluster i f).cluster i = f (s.cluster i) := by
  unfold State.modCluster State.cluster; simp [tget_tset]

end Sys2Proof.Machine
end

