-- ==== Sys2Proof/Laws/Tables.lean ====
section
/-! SUPPORT. Tables and sets: two writes of one entry, reading an entry that may be absent, membership after a number is taken out. -/

namespace Sys2Proof.Machine

theorem tset_tset {α : Type} (t : Tbl α) (k : Nat) (a b : α) : tset (tset t k a) k b = tset t k b := by
  induction t with
  | nil => simp [tset]
  | cons y t ih => grind [tset]

theorem tget?_tset {α : Type} (t : Tbl α) (k j : Nat) (a : α) : tget? (tset t k a) j = if j = k then some a else tget? t j := by
  induction t with
  | nil => grind [tset, tget?]
  | cons y t ih => grind [tset, tget?]

theorem tget?_terase {α : Type} (t : Tbl α) (k j : Nat) : tget? (terase t k) j = if j = k then none else tget? t j := by
  induction t with
  | nil => simp [terase, tget?]
  | cons y t ih =>
    have e : terase (y :: t) k = if y.1 = k then terase t k else y :: terase t k := by
      simp only [terase, List.filter_cons]
      split <;> split <;> simp_all
    rw [e]
    grind [tget?]

theorem contains_setDel (l : List Nat) (k j : Nat) : (setDel l k).contains j = (l.contains j && j != k) := by
  unfold setDel
  induction l with
  | nil => simp
  | cons a l ih => grind

theorem contains_setIns (l : List Nat) (k j : Nat) : (setIns l k).contains j = (l.contains j || j == k) := by
  induction l with
  | nil => grind [setIns]
  | cons a l ih => grind [setIns]

end Sys2Proof.Machine
end

