-- ==== Sys2Proof/Laws/Dispatch.lean ====
section
/-! SUPPORT. What dispatch does when an instruction executes normally, and what the performance counters leave alone. -/

namespace Sys2Proof.Machine

/-! Counters. -/

theorem CountsOnly.refl (k : Nat) (s : State) : CountsOnly k s s := ⟨rfl, fun _ _ => rfl⟩
theorem CountsOnly.trans {k : Nat} {a b c : State} (h : CountsOnly k a b) (g : CountsOnly k b c) : CountsOnly k a c := by
  refine ⟨?_, fun off ho => (g.2 off ho).trans (h.2 off ho)⟩
  rw [g.1, h.1]
theorem CountsOnly.cores {k : Nat} {a b : State} (h : CountsOnly k a b) : b.cores = a.cores := by rw [h.1]
theorem CountsOnly.core {k : Nat} {a b : State} (h : CountsOnly k a b) (j : Nat) : b.core j = a.core j := by unfold State.core; rw [h.cores]

theorem countsOnly_setFld {k off : Nat} (s : State) (f : Fld) (v : Nat) (h : isCounter k off = true) : CountsOnly k s (s.setFld off f v) := by
  refine ⟨rfl, fun o ho => csrGet_setFld_ne ?_⟩
  intro e; subst e; simp [h] at ho

theorem isCounter_cnt {k n : Nat} (h : 1 ≤ n) (h8 : n ≤ 8) : isCounter k (pmcCnt k n) = true := by
  unfold isCounter
  simp only [Bool.or_eq_true, List.any_eq_true, List.mem_range, beq_iff_eq]
  exact Or.inl ⟨n - 1, by omega, by congr 1; omega⟩
theorem isCounter_ovf (k : Nat) : isCounter k (CORE_PMC_OVF.off (keyDie k) (keyCl k) (keyQ k)) = true := by simp [isCounter]

theorem countsOnly_pmcAdd (key fuel : Nat) (s : State) (amt n : Nat) (h : 1 ≤ n) (h8 : n ≤ 8) : CountsOnly key s (s.pmcAdd key amt fuel n) := by
  induction fuel generalizing s amt n with
  | zero => exact CountsOnly.refl key s
  | succ m ih =>
    unfold State.pmcAdd
    have h1 := countsOnly_setFld s CORE_PMC_CNT.COUNT ((s.fld (pmcCnt key n) CORE_PMC_CNT.COUNT + amt) % 2 ^ 48) (isCounter_cnt (k := key) h h8)
    dsimp only
    split
    · exact h1
    · split
      · next hc =>
        simp only [Bool.and_eq_true, decide_eq_true_eq] at hc
        split
        · exact h1.trans (ih _ _ _ (by omega) (by omega))
        · exact h1
      · exact h1.trans (countsOnly_setFld _ _ _ (isCounter_ovf key))

theorem countsOnly_pmcEvent (key : Nat) (s : State) (code amt : Nat) (ctx : Option Nat) : CountsOnly key s (s.pmcEvent key code amt ctx) := by
  unfold State.pmcEvent
  split
  · exact CountsOnly.refl key s
  · have : ∀ (l : List Nat), (∀ i ∈ l, i < 8) → ∀ t : State, CountsOnly key t (l.foldl (fun s i =>
        if s.fld (pmcSel key (i + 1)) CORE_PMC_SEL.EVENT == code && s.pmcCounts key (i + 1) ctx then s.pmcAdd key amt 8 (i + 1) else s) t) := by
      intro l
      induction l with
      | nil => intro _ t; exact CountsOnly.refl key t
      | cons i l ih =>
        intro hl t
        refine CountsOnly.trans (b := _) ?_ (ih (fun j hj => hl j (List.mem_cons_of_mem _ hj)) _)
        dsimp only
        split
        · exact countsOnly_pmcAdd _ _ _ _ _ (by omega) (by have := hl i List.mem_cons_self; omega)
        · exact CountsOnly.refl key t
    exact this _ (fun i hi => List.mem_range.1 hi) s

theorem countsOnly_pmcOwn (key : Nat) (s : State) (code amt : Nat) : CountsOnly key s (s.pmcOwn key code amt) := countsOnly_pmcEvent _ _ _ _ _

/-- The interleave register is no counter, so reading a byte does not depend on the counters. -/
theorem isCounter_ge {k off : Nat} (h : isCounter k off = true) : 0x1000000 ≤ off := by
  unfold isCounter at h
  rcases (by simpa only [Bool.or_eq_true] using h : _ ∨ _) with h | h
  · obtain ⟨i, -, e⟩ := List.any_eq_true.1 h
    rw [beq_iff_eq.1 e]
    unfold pmcCnt CORE_PMC_CNT.off
    exact Nat.le_trans (by decide) (Nat.le_trans (Nat.le_add_right _ _) (Nat.le_trans (Nat.le_add_right _ _) (Nat.le_trans (Nat.le_add_right _ _)
      (Nat.le_add_right _ _))))
  · rw [beq_iff_eq.1 h]
    unfold CORE_PMC_OVF.off
    exact Nat.le_trans (by decide) (Nat.le_trans (Nat.le_add_right _ _) (Nat.le_trans (Nat.le_add_right _ _) (Nat.le_add_right _ _)))
theorem not_isCounter {k off : Nat} (h : off < 0x1000000) : isCounter k off = false := by
  cases e : isCounter k off
  · rfl
  · exact absurd (isCounter_ge e) (Nat.not_le.2 h)
theorem isCounter_ilv (k : Nat) : isCounter k PKG_HBM_ILV.off = false := not_isCounter (by decide)

theorem readByte_congr {s t : State} (hm : t.mem = s.mem) (hi : t.csrGet PKG_HBM_ILV.off = s.csrGet PKG_HBM_ILV.off) (a : Nat) :
    t.readByte a = s.readByte a := by
  have e : ∀ f, t.fld PKG_HBM_ILV.off f = s.fld PKG_HBM_ILV.off f := fun f => by unfold State.fld; rw [hi]
  have p : t.hbmPlace a = s.hbmPlace a := by
    unfold State.hbmPlace State.bit
    simp only [e]
  unfold State.readByte State.memKey
  rw [hm, p]

/-! Dispatch. -/

/-- An instruction that the sequencer executes: its effect on the state in which PC has moved past the word and the dispatch has been
counted. -/
theorem dispatchSeq_runs {cid : CoreId} {i : Ins} {b : Body} {priv : State → Bool} {chk : State → Option (FaultCode × Nat)}
    {eff : Nat → State → State} {s : State} (h : Runs cid i b s) (hp : priv s = false) (hc : chk s = none) :
    dispatchSeq cid i b priv chk eff s =
      eff (s.core (coreKey cid)).pc.toNat ((s.modCore (coreKey cid) Core.advance).pmcOwn (coreKey cid) 0x001 1) := by
  unfold dispatchSeq dispatchFault
  simp only [h.can, h.live, h.word, h.fields, h.guard, hp, hc, Bool.not_false, Bool.not_true, Bool.and_self, Bool.and_false, Bool.or_self, if_true,
    Bool.false_eq_true, if_false]

/-- The state on which an effect acts. -/
theorem dispatched_countsOnly (s : State) (k : Nat) :
    CountsOnly k (s.modCore k Core.advance) ((s.modCore k Core.advance).pmcOwn k 0x001 1) := countsOnly_pmcOwn _ _ _ _

theorem dispatched_core (s : State) (k : Nat) : ((s.modCore k Core.advance).pmcOwn k 0x001 1).core k = (s.core k).past := by
  rw [(dispatched_countsOnly s k).core]; simp [Core.past, Core.advance]

/-- An effect on the core alone. -/
theorem coreBecomes_modCore {s : State} {k : Nat} (f : Core → Core) :
    CoreBecomes k (f (s.core k).past) s (((s.modCore k Core.advance).pmcOwn k 0x001 1).modCore k f) := by
  have h := dispatched_countsOnly s k
  generalize hu : (s.modCore k Core.advance).pmcOwn k 0x001 1 = u at h
  have hc : u.core k = (s.core k).past := by rw [← hu]; exact dispatched_core s k
  refine ⟨?_, fun off ho => ?_, ?_, fun j hj => ?_, fun a => ?_⟩
  · rw [h.1]; rfl
  · simpa only [State.csrGet_modCore] using h.2 off ho
  · simp [hc]
  · rw [State.core_modCore_ne hj, h.core, State.core_modCore_ne hj]
  · exact readByte_congr (s := s) (by simp only [State.modCore_mem]; rw [h.1]; rfl) (by simpa only [State.csrGet_modCore] using h.2 _ (isCounter_ilv k)) a

theorem State.modCore_modCore (s : State) (k : Nat) (f g : Core → Core) : (s.modCore k f).modCore k g = s.modCore k fun c => g (f c) := by
  unfold State.modCore State.setCore State.core
  simp only [tget_tset, tset_tset, if_true]

theorem becomes_of_mod {s : State} {k : Nat} {c : Core} (f : Core → Core) (h : f (s.core k).past = c) :
    CoreBecomes k c s (((s.modCore k Core.advance).pmcOwn k 0x001 1).modCore k f) := h ▸ coreBecomes_modCore f

theorem becomes_id {s : State} {k : Nat} : CoreBecomes k (s.core k).past s ((s.modCore k Core.advance).pmcOwn k 0x001 1) := by
  have h := dispatched_countsOnly s k
  refine ⟨?_, fun off ho => ?_, dispatched_core s k, fun j hj => ?_, fun a => ?_⟩
  · rw [h.1]; rfl
  · simpa using h.2 off ho
  · rw [h.core, State.core_modCore_ne hj]
  · exact readByte_congr (s := s) (by rw [h.1]; rfl) (by simpa only [State.csrGet_modCore] using h.2 _ (isCounter_ilv k)) a

/-! Engine instructions: legal operands pass the check, and the entry is queued. -/

/-- Scratchpad operands that are aligned and inside pass the check. -/
theorem scratchChk_of_padOk {k : Nat} {al : List Nat} {rs : List (Nat × Nat)} (h : padOk k al rs = true) : scratchChk k al rs = none := by
  unfold padOk at h
  rw [Bool.and_eq_true, List.all_eq_true, List.all_eq_true] at h
  unfold scratchChk
  have h1 : al.find? (fun a => a % 64 != 0) = none := by
    rw [List.find?_eq_none]; intro a ha; have := h.1 a ha; simp at this; simp [this]
  rw [h1]
  have h2 : outsideScratch k rs = none := by
    unfold outsideScratch
    rw [List.findSome?_eq_none_iff]
    intro r hr
    have := h.2 r hr
    obtain ⟨a, n⟩ := r
    simp at this ⊢
    by_cases hn : n = 0
    · simp [hn]
    · simp only [hn, false_or] at this ⊢
      have g1 : ¬ (a < scratchOf k ∨ scratchOf k + 2097152 ≤ a) := by omega
      have g2 : ¬ (scratchOf k + 2097152 < a + n) := by omega
      rw [if_neg g1, if_neg g2]
      intro _
      rfl
  rw [h2]; rfl

theorem need_none {a : Bool} {r : Option (FaultCode × Nat)} (h : a = true) (hr : r = none) : need a r = none := by subst h; simp [need, hr]

/-- Every engine instruction is a dispatch to its engine, with what it requires of MOD and a check that legal operands pass. -/
theorem engRule_exec (i : Instr) (x : EngIns) (s : State) (h : engRule i = some x) :
    ∃ chk, exec i s = .next (dispatchEng x.cid x.eng x.ins x.b x.mod noPriv chk x.dest s) ∧ ∀ q, x.ok q s = true → chk q s = none := by
  cases i <;> simp only [engRule, lsIns, mxIns, vecIns, Option.some.injEq, reduceCtorEq] at h
  all_goals subst h
  case vact c b =>
    have e : (modBits b (mElem + 0xF) && modOf b % 16 != 0xF) = (modBits b 0x3CF && decide (modOf b % 16 ≤ 14)) := by
      congr 1
      rw [Bool.eq_iff_iff]
      simp
      omega
    refine ⟨_, congrArg (fun m => Host.Outcome.next (dispatchEng c .vx ⟨0xB, 0x0A, .t, [0, 1]⟩ b m noPriv _ none s)) e, fun q ho => ?_⟩
    exact need_none (by simpa [elemGroups, grp] using ho) rfl
  all_goals refine ⟨_, rfl, fun q ho => ?_⟩
  all_goals simp only [Bool.and_eq_true, and_assoc] at ho
  case tmov | tzero | strmCancel | strmStat | mbias | mmask | mtagRd | mtagClr => rfl
  case tld | tst | spcpy => exact scratchChk_of_padOk ho
  case strmIssue => simpa using ho
  case mst => exact need_none ho.1 (scratchChk_of_padOk ho.2)
  case mmx | mmxn => exact need_none (by simpa only [mmxOk] using ho) rfl
  case mmxs | mmxsn =>
    simp only [mmxsOk, Bool.and_eq_true] at ho
    exact need_none ho.1 (scratchChk_of_padOk ho.2)
  case vepi => exact need_none (by simp_all) rfl
  case vepis => exact need_none (by simp_all) (scratchChk_of_padOk ho.2.2)
  case vset => exact need_none (by simp_all) rfl
  case colRs | colAg | colPerm | colCmt | colStat | colAbort => simp_all
  all_goals refine need_none ?_ rfl
  all_goals simp_all [elemGroups, maskGroups, grp, grpBr, mskGrp]
  all_goals grind

/-- An engine instruction that executes normally enters its queue. -/
theorem dispatchEng_runs {x : EngIns} {chk : QEntry → State → Option (FaultCode × Nat)} {s : State} (h : Runs x.cid x.ins x.b s)
    (hm : x.mod = true) (hc : chk (s.mkEntry (coreKey x.cid) x.ins x.b false) s = none)
    (hr : ((s.core (coreKey x.cid)).queue x.eng).length < queueDepth x.eng) :
    dispatchEng x.cid x.eng x.ins x.b x.mod noPriv chk x.dest s =
      (s.modCore (coreKey x.cid) fun c =>
        c.advance.enqueue x.eng (s.mkEntry (coreKey x.cid) x.ins x.b false) x.dest).pmcOwn (coreKey x.cid) 1 1 := by
  unfold dispatchEng dispatchFault
  simp only [h.can, h.live, h.word, h.fields, h.guard, hr, hm, noPriv, Bool.not_true, hc, Bool.not_false, Bool.and_self, Bool.and_false,
    Bool.or_self, if_true, Bool.false_eq_true, if_false, decide_true]
  congr 2
  funext c
  unfold Core.enqueue
  cases x.dest <;> simp [State.mkEntry, Core.advance] <;> cases x.eng <;> rfl

/-- A scalar access that its check lets pass and that reaches a register is of 4 or 8 bytes (R5, R7). -/
theorem scalarFault_size {s : State} {n w size a : Nat} {g wr : Bool} (h : s.scalarFault n g w size wr = none) (hr : s.resolve g w = .here a) :
    tierOf a = .csr → 4 ≤ size := by
  unfold State.scalarFault at h
  intro ht
  rw [hr] at h
  split at h
  · cases h
  · simp only [ht, if_true] at h
    split at h
    · exact (‹_ ∧ _›).2
    · cases h

end Sys2Proof.Machine
end

