-- ==== Sys2Proof/Laws/KeepOps.lean ====
section
/-! SUPPORT. What the operations of Machine/Ops.lean keep. -/

set_option linter.all false

namespace Sys2Proof.Machine

theorem State.csrSet_keeps {orig : State} {s : State} (off : Nat) (v : Word) (h0 : orig.Keeps s) :
    orig.Keeps (State.csrSet s off v) := by
  unfold State.csrSet
  repeat' first
    | with_reducible assumption
    | intro _
    | with_reducible apply State.Keeps.ite | with_reducible apply State.Keeps.ite1 | with_reducible apply State.Keeps.ite2 | with_reducible apply State.Keeps.elim
    | with_reducible apply State.Keeps.foldl | with_reducible apply State.Keeps.foldl1 | with_reducible apply State.Keeps.foldl2 | with_reducible apply State.Keeps.foldl22
    | simp only [↓State.Keeps.upd, ↓State.Keeps.updFlash, ↓State.Keeps.updPoison]
    | split
    | dsimp only

theorem State.setFld_keeps {orig : State} {s : State} (off : Nat) (f : Fld) (v : Nat) (h0 : orig.Keeps s) :
    orig.Keeps (State.setFld s off f v) := by
  unfold State.setFld
  repeat' first
    | with_reducible assumption
    | intro _
    | (with_reducible apply State.csrSet_keeps)
    | with_reducible apply State.Keeps.ite | with_reducible apply State.Keeps.ite1 | with_reducible apply State.Keeps.ite2 | with_reducible apply State.Keeps.elim
    | with_reducible apply State.Keeps.foldl | with_reducible apply State.Keeps.foldl1 | with_reducible apply State.Keeps.foldl2 | with_reducible apply State.Keeps.foldl22
    | simp only [↓State.Keeps.upd, ↓State.Keeps.updFlash, ↓State.Keeps.updPoison]
    | split
    | dsimp only

theorem State.bump_keeps {orig : State} {s : State} (off : Nat) (f : Fld) (n : Nat) (h0 : orig.Keeps s) :
    orig.Keeps (State.bump s off f n) := by
  unfold State.bump
  repeat' first
    | with_reducible assumption
    | intro _
    | (with_reducible apply State.setFld_keeps)
    | with_reducible apply State.Keeps.ite | with_reducible apply State.Keeps.ite1 | with_reducible apply State.Keeps.ite2 | with_reducible apply State.Keeps.elim
    | with_reducible apply State.Keeps.foldl | with_reducible apply State.Keeps.foldl1 | with_reducible apply State.Keeps.foldl2 | with_reducible apply State.Keeps.foldl22
    | simp only [↓State.Keeps.upd, ↓State.Keeps.updFlash, ↓State.Keeps.updPoison]
    | split
    | dsimp only

theorem State.flagIf_keeps {orig : State} {s : State} (off : Nat) (f : Fld) (b : Bool) (h0 : orig.Keeps s) :
    orig.Keeps (State.flagIf s off f b) := by
  unfold State.flagIf
  repeat' first
    | with_reducible assumption
    | intro _
    | (with_reducible apply State.setFld_keeps)
    | with_reducible apply State.Keeps.ite | with_reducible apply State.Keeps.ite1 | with_reducible apply State.Keeps.ite2 | with_reducible apply State.Keeps.elim
    | with_reducible apply State.Keeps.foldl | with_reducible apply State.Keeps.foldl1 | with_reducible apply State.Keeps.foldl2 | with_reducible apply State.Keeps.foldl22
    | simp only [↓State.Keeps.upd, ↓State.Keeps.updFlash, ↓State.Keeps.updPoison]
    | split
    | dsimp only

theorem State.draw_keeps {orig : State} {s : State} (h0 : orig.Keeps s) : orig.Keeps (State.draw s).2 :=
  ⟨h0.mem, h0.pending, h0.floor, h0.revoked, h0.gen, h0.rekeys, h0.colds, Nat.le_succ_of_le h0.free⟩
theorem State.draw_eq {orig : State} {s : State} (h0 : orig.Keeps s)
    {x : Word} {t : State} (e : State.draw s = (x, t)) : orig.Keeps t := by
  have := State.draw_keeps (orig := orig) h0
  rw [e] at this
  exact this

theorem State.setCore_keeps {orig : State} {s : State} (key : Nat) (c : Core) (h0 : orig.Keeps s) :
    orig.Keeps (State.setCore s key c) := by
  unfold State.setCore
  repeat' first
    | with_reducible assumption
    | intro _
    | with_reducible apply State.Keeps.ite | with_reducible apply State.Keeps.ite1 | with_reducible apply State.Keeps.ite2 | with_reducible apply State.Keeps.elim
    | with_reducible apply State.Keeps.foldl | with_reducible apply State.Keeps.foldl1 | with_reducible apply State.Keeps.foldl2 | with_reducible apply State.Keeps.foldl22
    | simp only [↓State.Keeps.upd, ↓State.Keeps.updFlash, ↓State.Keeps.updPoison]
    | split
    | dsimp only

theorem State.modCore_keeps {orig : State} {s : State} (key : Nat) (f : Core → Core) (h0 : orig.Keeps s) :
    orig.Keeps (State.modCore s key f) := by
  unfold State.modCore
  repeat' first
    | with_reducible assumption
    | intro _
    | (with_reducible apply State.setCore_keeps)
    | with_reducible apply State.Keeps.ite | with_reducible apply State.Keeps.ite1 | with_reducible apply State.Keeps.ite2 | with_reducible apply State.Keeps.elim
    | with_reducible apply State.Keeps.foldl | with_reducible apply State.Keeps.foldl1 | with_reducible apply State.Keeps.foldl2 | with_reducible apply State.Keeps.foldl22
    | simp only [↓State.Keeps.upd, ↓State.Keeps.updFlash, ↓State.Keeps.updPoison]
    | split
    | dsimp only

theorem State.modCluster_keeps {orig : State} {s : State} (i : Nat) (f : Cluster → Cluster) (h0 : orig.Keeps s) :
    orig.Keeps (State.modCluster s i f) := by
  unfold State.modCluster
  repeat' first
    | with_reducible assumption
    | intro _
    | with_reducible apply State.Keeps.ite | with_reducible apply State.Keeps.ite1 | with_reducible apply State.Keeps.ite2 | with_reducible apply State.Keeps.elim
    | with_reducible apply State.Keeps.foldl | with_reducible apply State.Keeps.foldl1 | with_reducible apply State.Keeps.foldl2 | with_reducible apply State.Keeps.foldl22
    | simp only [↓State.Keeps.upd, ↓State.Keeps.updFlash, ↓State.Keeps.updPoison]
    | split
    | dsimp only

theorem State.modCtx_keeps {orig : State} {s : State} (n : Nat) (f : Ctx → Ctx) (h0 : orig.Keeps s) :
    orig.Keeps (State.modCtx s n f) := by
  unfold State.modCtx
  repeat' first
    | with_reducible assumption
    | intro _
    | with_reducible apply State.Keeps.ite | with_reducible apply State.Keeps.ite1 | with_reducible apply State.Keeps.ite2 | with_reducible apply State.Keeps.elim
    | with_reducible apply State.Keeps.foldl | with_reducible apply State.Keeps.foldl1 | with_reducible apply State.Keeps.foldl2 | with_reducible apply State.Keeps.foldl22
    | simp only [↓State.Keeps.upd, ↓State.Keeps.updFlash, ↓State.Keeps.updPoison]
    | split
    | dsimp only

theorem State.putBytes_keeps {orig : State} {s : State} (a : Nat) (bs : List Byte) (h0 : orig.Keeps s) : orig.Keeps (State.putBytes s a bs) := by
  induction bs generalizing a s with
  | nil => unfold State.putBytes; exact h0
  | cons b bs ih =>
    unfold State.putBytes
    exact ih _ ⟨fun h => Memory.put_wf _ _ (h0.mem h), h0.pending, h0.floor, h0.revoked, h0.gen, h0.rekeys, h0.colds, h0.free⟩

theorem State.markPoison_keeps {orig : State} {s : State} (a len : Nat) (poison : Bool) (h0 : orig.Keeps s) :
    orig.Keeps (State.markPoison s a len poison) := by
  unfold State.markPoison
  refine State.Keeps.foldl (fun s x h => ?_) _ h0
  dsimp only
  split
  · exact ⟨fun k => h.mem k, h.pending, h.floor, h.revoked, h.gen, h.rekeys, h.colds, h.free⟩
  · split
    · exact ⟨fun k => h.mem k, h.pending, h.floor, h.revoked, h.gen, h.rekeys, h.colds, h.free⟩
    · exact h

theorem State.addFault_keeps {orig : State} {s : State} (f : FaultRec) (h0 : orig.Keeps s) :
    orig.Keeps (State.addFault s f) := by
  unfold State.addFault
  repeat' first
    | with_reducible assumption
    | intro _
    | with_reducible apply State.Keeps.ite | with_reducible apply State.Keeps.ite1 | with_reducible apply State.Keeps.ite2 | with_reducible apply State.Keeps.elim
    | with_reducible apply State.Keeps.foldl | with_reducible apply State.Keeps.foldl1 | with_reducible apply State.Keeps.foldl2 | with_reducible apply State.Keeps.foldl22
    | simp only [↓State.Keeps.upd, ↓State.Keeps.updFlash, ↓State.Keeps.updPoison]
    | split
    | dsimp only

theorem State.coreFault_keeps {orig : State} {s : State} (key : Nat) (eng : Nat) (code : FaultCode) (cls : Nat) (op : Nat) (pc : Nat) (addr : Nat) (h0 : orig.Keeps s) :
    orig.Keeps (State.coreFault s key eng code cls op pc addr) := by
  unfold State.coreFault
  repeat' first
    | with_reducible assumption
    | intro _
    | (with_reducible apply State.addFault_keeps)
    | with_reducible apply State.Keeps.ite | with_reducible apply State.Keeps.ite1 | with_reducible apply State.Keeps.ite2 | with_reducible apply State.Keeps.elim
    | with_reducible apply State.Keeps.foldl | with_reducible apply State.Keeps.foldl1 | with_reducible apply State.Keeps.foldl2 | with_reducible apply State.Keeps.foldl22
    | simp only [↓State.Keeps.upd, ↓State.Keeps.updFlash, ↓State.Keeps.updPoison]
    | split
    | dsimp only

theorem State.pmcAdd_keeps {orig : State} {s : State} (key amt fuel n : Nat) (h0 : orig.Keeps s) :
    orig.Keeps (State.pmcAdd s key amt fuel n) := by
  induction fuel generalizing s amt n with
  | zero => unfold State.pmcAdd; exact h0
  | succ m ih =>
    unfold State.pmcAdd
    repeat' first
      | with_reducible assumption
      | intro _
      | with_reducible apply ih
      | with_reducible apply State.setFld_keeps
      | with_reducible apply State.Keeps.ite
      | dsimp only

theorem State.pmcEvent_keeps {orig : State} {s : State} (key : Nat) (code : Nat) (amt : Nat) (ctx : Option Nat) (h0 : orig.Keeps s) :
    orig.Keeps (State.pmcEvent s key code amt ctx) := by
  unfold State.pmcEvent
  repeat' first
    | with_reducible assumption
    | intro _
    | (with_reducible apply State.pmcAdd_keeps)
    | with_reducible apply State.Keeps.ite | with_reducible apply State.Keeps.ite1 | with_reducible apply State.Keeps.ite2 | with_reducible apply State.Keeps.elim
    | with_reducible apply State.Keeps.foldl | with_reducible apply State.Keeps.foldl1 | with_reducible apply State.Keeps.foldl2 | with_reducible apply State.Keeps.foldl22
    | simp only [↓State.Keeps.upd, ↓State.Keeps.updFlash, ↓State.Keeps.updPoison]
    | split
    | dsimp only

theorem State.pmcOwn_keeps {orig : State} {s : State} (key : Nat) (code : Nat) (amt : Nat) (h0 : orig.Keeps s) :
    orig.Keeps (State.pmcOwn s key code amt) := by
  unfold State.pmcOwn
  repeat' first
    | with_reducible assumption
    | intro _
    | (with_reducible apply State.pmcEvent_keeps)
    | with_reducible apply State.Keeps.ite | with_reducible apply State.Keeps.ite1 | with_reducible apply State.Keeps.ite2 | with_reducible apply State.Keeps.elim
    | with_reducible apply State.Keeps.foldl | with_reducible apply State.Keeps.foldl1 | with_reducible apply State.Keeps.foldl2 | with_reducible apply State.Keeps.foldl22
    | simp only [↓State.Keeps.upd, ↓State.Keeps.updFlash, ↓State.Keeps.updPoison]
    | split
    | dsimp only

theorem State.settle_keeps {orig : State} {s : State} (key : Nat) (h0 : orig.Keeps s) :
    orig.Keeps (State.settle s key) := by
  unfold State.settle
  repeat' first
    | with_reducible assumption
    | intro _
    | (with_reducible apply State.modCore_keeps)
    | with_reducible apply State.Keeps.ite | with_reducible apply State.Keeps.ite1 | with_reducible apply State.Keeps.ite2 | with_reducible apply State.Keeps.elim
    | with_reducible apply State.Keeps.foldl | with_reducible apply State.Keeps.foldl1 | with_reducible apply State.Keeps.foldl2 | with_reducible apply State.Keeps.foldl22
    | simp only [↓State.Keeps.upd, ↓State.Keeps.updFlash, ↓State.Keeps.updPoison]
    | split
    | dsimp only

theorem State.evAdd_keeps {orig : State} {s : State} (key : Nat) (e : Nat) (n : Nat) (cls : Nat) (op : Nat) (pc : Nat) (addr : Nat) (h0 : orig.Keeps s) :
    orig.Keeps (State.evAdd s key e n cls op pc addr) := by
  unfold State.evAdd
  repeat' first
    | with_reducible assumption
    | intro _
    | (with_reducible apply State.modCore_keeps) | (with_reducible apply State.coreFault_keeps)
    | with_reducible apply State.Keeps.ite | with_reducible apply State.Keeps.ite1 | with_reducible apply State.Keeps.ite2 | with_reducible apply State.Keeps.elim
    | with_reducible apply State.Keeps.foldl | with_reducible apply State.Keeps.foldl1 | with_reducible apply State.Keeps.foldl2 | with_reducible apply State.Keeps.foldl22
    | simp only [↓State.Keeps.upd, ↓State.Keeps.updFlash, ↓State.Keeps.updPoison]
    | split
    | dsimp only

theorem State.modSet_keeps {orig : State} {s : State} (key : Nat) (n : Nat) (f : Core → Core) (h0 : orig.Keeps s) :
    orig.Keeps (State.modSet s key n f) := by
  unfold State.modSet
  repeat' first
    | with_reducible assumption
    | intro _
    | (with_reducible apply State.modCore_keeps)
    | with_reducible apply State.Keeps.ite | with_reducible apply State.Keeps.ite1 | with_reducible apply State.Keeps.ite2 | with_reducible apply State.Keeps.elim
    | with_reducible apply State.Keeps.foldl | with_reducible apply State.Keeps.foldl1 | with_reducible apply State.Keeps.foldl2 | with_reducible apply State.Keeps.foldl22
    | simp only [↓State.Keeps.upd, ↓State.Keeps.updFlash, ↓State.Keeps.updPoison]
    | split
    | dsimp only

theorem State.swapSet_keeps {orig : State} {s : State} (key : Nat) (x : Core) (h0 : orig.Keeps s) :
    orig.Keeps (State.swapSet s key x) := by
  unfold State.swapSet
  repeat' first
    | with_reducible assumption
    | intro _
    | (with_reducible apply State.setCore_keeps)
    | with_reducible apply State.Keeps.ite | with_reducible apply State.Keeps.ite1 | with_reducible apply State.Keeps.ite2 | with_reducible apply State.Keeps.elim
    | with_reducible apply State.Keeps.foldl | with_reducible apply State.Keeps.foldl1 | with_reducible apply State.Keeps.foldl2 | with_reducible apply State.Keeps.foldl22
    | simp only [↓State.Keeps.upd, ↓State.Keeps.updFlash, ↓State.Keeps.updPoison]
    | split
    | dsimp only

theorem State.modFlight_keeps {orig : State} {s : State} (key : Nat) (fid : Nat) (f : Flight → Flight) (h0 : orig.Keeps s) :
    orig.Keeps (State.modFlight s key fid f) := by
  unfold State.modFlight
  repeat' first
    | with_reducible assumption
    | intro _
    | (with_reducible apply State.modSet_keeps)
    | with_reducible apply State.Keeps.ite | with_reducible apply State.Keeps.ite1 | with_reducible apply State.Keeps.ite2 | with_reducible apply State.Keeps.elim
    | with_reducible apply State.Keeps.foldl | with_reducible apply State.Keeps.foldl1 | with_reducible apply State.Keeps.foldl2 | with_reducible apply State.Keeps.foldl22
    | simp only [↓State.Keeps.upd, ↓State.Keeps.updFlash, ↓State.Keeps.updPoison]
    | split
    | dsimp only

theorem State.dropFlight_keeps {orig : State} {s : State} (key : Nat) (fid : Nat) (h0 : orig.Keeps s) :
    orig.Keeps (State.dropFlight s key fid) := by
  unfold State.dropFlight
  repeat' first
    | with_reducible assumption
    | intro _
    | (with_reducible apply State.modSet_keeps)
    | with_reducible apply State.Keeps.ite | with_reducible apply State.Keeps.ite1 | with_reducible apply State.Keeps.ite2 | with_reducible apply State.Keeps.elim
    | with_reducible apply State.Keeps.foldl | with_reducible apply State.Keeps.foldl1 | with_reducible apply State.Keeps.foldl2 | with_reducible apply State.Keeps.foldl22
    | simp only [↓State.Keeps.upd, ↓State.Keeps.updFlash, ↓State.Keeps.updPoison]
    | split
    | dsimp only

theorem State.evAddSet_keeps {orig : State} {s : State} (key : Nat) (n : Nat) (e : Nat) (k : Nat) (cls : Nat) (op : Nat) (pc : Nat) (addr : Nat) (h0 : orig.Keeps s) :
    orig.Keeps (State.evAddSet s key n e k cls op pc addr) := by
  unfold State.evAddSet
  repeat' first
    | with_reducible assumption
    | intro _
    | (with_reducible apply State.modSet_keeps) | (with_reducible apply State.addFault_keeps) | (with_reducible apply State.evAdd_keeps)
    | with_reducible apply State.Keeps.ite | with_reducible apply State.Keeps.ite1 | with_reducible apply State.Keeps.ite2 | with_reducible apply State.Keeps.elim
    | with_reducible apply State.Keeps.foldl | with_reducible apply State.Keeps.foldl1 | with_reducible apply State.Keeps.foldl2 | with_reducible apply State.Keeps.foldl22
    | simp only [↓State.Keeps.upd, ↓State.Keeps.updFlash, ↓State.Keeps.updPoison]
    | split
    | dsimp only

theorem State.answerAtom_keeps {orig : State} {s : State} (r : AtomRef) (v : Word) (poison : Bool) (h0 : orig.Keeps s) :
    orig.Keeps (State.answerAtom s r v poison) := by
  unfold State.answerAtom
  repeat' first
    | with_reducible assumption
    | intro _
    | (with_reducible apply State.modFlight_keeps)
    | with_reducible apply State.Keeps.ite | with_reducible apply State.Keeps.ite1 | with_reducible apply State.Keeps.ite2 | with_reducible apply State.Keeps.elim
    | with_reducible apply State.Keeps.foldl | with_reducible apply State.Keeps.foldl1 | with_reducible apply State.Keeps.foldl2 | with_reducible apply State.Keeps.foldl22
    | simp only [↓State.Keeps.upd, ↓State.Keeps.updFlash, ↓State.Keeps.updPoison]
    | split
    | dsimp only

theorem State.wakeUnit_keeps {orig : State} {s : State} (a : Nat) (len : Nat) (h0 : orig.Keeps s) :
    orig.Keeps (State.wakeUnit s a len) := by
  unfold State.wakeUnit
  repeat' first
    | with_reducible assumption
    | intro _
    | (with_reducible apply State.answerAtom_keeps)
    | with_reducible apply State.Keeps.ite | with_reducible apply State.Keeps.ite1 | with_reducible apply State.Keeps.ite2 | with_reducible apply State.Keeps.elim
    | with_reducible apply State.Keeps.foldl | with_reducible apply State.Keeps.foldl1 | with_reducible apply State.Keeps.foldl2 | with_reducible apply State.Keeps.foldl22
    | simp only [↓State.Keeps.upd, ↓State.Keeps.updFlash, ↓State.Keeps.updPoison]
    | split
    | dsimp only

theorem State.wake_keeps {orig : State} {s : State} (a : Nat) (len : Nat) (h0 : orig.Keeps s) :
    orig.Keeps (State.wake s a len) := by
  unfold State.wake
  repeat' first
    | with_reducible assumption
    | intro _
    | (with_reducible apply State.wakeUnit_keeps)
    | with_reducible apply State.Keeps.ite | with_reducible apply State.Keeps.ite1 | with_reducible apply State.Keeps.ite2 | with_reducible apply State.Keeps.elim
    | with_reducible apply State.Keeps.foldl | with_reducible apply State.Keeps.foldl1 | with_reducible apply State.Keeps.foldl2 | with_reducible apply State.Keeps.foldl22
    | simp only [↓State.Keeps.upd, ↓State.Keeps.updFlash, ↓State.Keeps.updPoison]
    | split
    | dsimp only

theorem State.sendInc_keeps {orig : State} {s : State} (i : Inc) (h0 : orig.Keeps s) :
    orig.Keeps (State.sendInc s i) := by
  unfold State.sendInc
  repeat' first
    | with_reducible assumption
    | intro _
    | (with_reducible apply State.modCtx_keeps)
    | with_reducible apply State.Keeps.ite | with_reducible apply State.Keeps.ite1 | with_reducible apply State.Keeps.ite2 | with_reducible apply State.Keeps.elim
    | with_reducible apply State.Keeps.foldl | with_reducible apply State.Keeps.foldl1 | with_reducible apply State.Keeps.foldl2 | with_reducible apply State.Keeps.foldl22
    | simp only [↓State.Keeps.upd, ↓State.Keeps.updFlash, ↓State.Keeps.updPoison]
    | split
    | dsimp only

theorem State.arbServed_keeps {orig : State} {s : State} (a : Arb) (r : Nat) (h0 : orig.Keeps s) :
    orig.Keeps (State.arbServed s a r) := by
  unfold State.arbServed
  repeat' first
    | with_reducible assumption
    | intro _
    | with_reducible apply State.Keeps.ite | with_reducible apply State.Keeps.ite1 | with_reducible apply State.Keeps.ite2 | with_reducible apply State.Keeps.elim
    | with_reducible apply State.Keeps.foldl | with_reducible apply State.Keeps.foldl1 | with_reducible apply State.Keeps.foldl2 | with_reducible apply State.Keeps.foldl22
    | simp only [↓State.Keeps.upd, ↓State.Keeps.updFlash, ↓State.Keeps.updPoison]
    | split
    | dsimp only

theorem State.arbServedAll_keeps {orig : State} {s : State} (l : List Arb) (r : Nat) (h0 : orig.Keeps s) :
    orig.Keeps (State.arbServedAll s l r) := by
  unfold State.arbServedAll
  repeat' first
    | with_reducible assumption
    | intro _
    | (with_reducible apply State.arbServed_keeps)
    | with_reducible apply State.Keeps.ite | with_reducible apply State.Keeps.ite1 | with_reducible apply State.Keeps.ite2 | with_reducible apply State.Keeps.elim
    | with_reducible apply State.Keeps.foldl | with_reducible apply State.Keeps.foldl1 | with_reducible apply State.Keeps.foldl2 | with_reducible apply State.Keeps.foldl22
    | simp only [↓State.Keeps.upd, ↓State.Keeps.updFlash, ↓State.Keeps.updPoison]
    | split
    | dsimp only

theorem State.tilesRead_keeps {orig : State} {s : State} (key : Nat) (r : Nat) (ts : List Nat) (h0 : orig.Keeps s) :
    orig.Keeps (State.tilesRead s key r ts) := by
  unfold State.tilesRead
  repeat' first
    | with_reducible assumption
    | intro _
    | (with_reducible apply State.arbServedAll_keeps)
    | with_reducible apply State.Keeps.ite | with_reducible apply State.Keeps.ite1 | with_reducible apply State.Keeps.ite2 | with_reducible apply State.Keeps.elim
    | with_reducible apply State.Keeps.foldl | with_reducible apply State.Keeps.foldl1 | with_reducible apply State.Keeps.foldl2 | with_reducible apply State.Keeps.foldl22
    | simp only [↓State.Keeps.upd, ↓State.Keeps.updFlash, ↓State.Keeps.updPoison]
    | split
    | dsimp only

theorem State.tilesWritten_keeps {orig : State} {s : State} (key : Nat) (r : Nat) (ts : List Nat) (h0 : orig.Keeps s) :
    orig.Keeps (State.tilesWritten s key r ts) := by
  unfold State.tilesWritten
  repeat' first
    | with_reducible assumption
    | intro _
    | (with_reducible apply State.arbServedAll_keeps)
    | with_reducible apply State.Keeps.ite | with_reducible apply State.Keeps.ite1 | with_reducible apply State.Keeps.ite2 | with_reducible apply State.Keeps.elim
    | with_reducible apply State.Keeps.foldl | with_reducible apply State.Keeps.foldl1 | with_reducible apply State.Keeps.foldl2 | with_reducible apply State.Keeps.foldl22
    | simp only [↓State.Keeps.upd, ↓State.Keeps.updFlash, ↓State.Keeps.updPoison]
    | split
    | dsimp only

theorem State.padServed_keeps {orig : State} {s : State} (key : Nat) (r : Nat) (rs : List (Nat × Nat)) (h0 : orig.Keeps s) :
    orig.Keeps (State.padServed s key r rs) := by
  unfold State.padServed
  repeat' first
    | with_reducible assumption
    | intro _
    | (with_reducible apply State.arbServedAll_keeps)
    | with_reducible apply State.Keeps.ite | with_reducible apply State.Keeps.ite1 | with_reducible apply State.Keeps.ite2 | with_reducible apply State.Keeps.elim
    | with_reducible apply State.Keeps.foldl | with_reducible apply State.Keeps.foldl1 | with_reducible apply State.Keeps.foldl2 | with_reducible apply State.Keeps.foldl22
    | simp only [↓State.Keeps.upd, ↓State.Keeps.updFlash, ↓State.Keeps.updPoison]
    | split
    | dsimp only

theorem State.inServed_keeps {orig : State} {s : State} (dma : Bool) (a : Nat) (len : Nat) (h0 : orig.Keeps s) :
    orig.Keeps (State.inServed s dma a len) := by
  unfold State.inServed
  repeat' first
    | with_reducible assumption
    | intro _
    | (with_reducible apply State.arbServedAll_keeps)
    | with_reducible apply State.Keeps.ite | with_reducible apply State.Keeps.ite1 | with_reducible apply State.Keeps.ite2 | with_reducible apply State.Keeps.elim
    | with_reducible apply State.Keeps.foldl | with_reducible apply State.Keeps.foldl1 | with_reducible apply State.Keeps.foldl2 | with_reducible apply State.Keeps.foldl22
    | simp only [↓State.Keeps.upd, ↓State.Keeps.updFlash, ↓State.Keeps.updPoison]
    | split
    | dsimp only

end Sys2Proof.Machine
end

