-- ==== Sys2Proof/Laws/KeepPhase.lean ====
section
/-! SUPPORT. What the operations of Machine/Phase.lean keep. -/

set_option linter.all false

namespace Sys2Proof.Machine

theorem State.openPhase_keeps {orig : State} {s : State} (i : Nat) (h0 : orig.Keeps s) :
    orig.Keeps (State.openPhase s i) := by
  unfold State.openPhase
  repeat' first
    | with_reducible assumption
    | intro _
    | (with_reducible apply State.setFld_keeps) | (with_reducible apply State.csrSet_keeps)
    | with_reducible apply State.Keeps.ite | with_reducible apply State.Keeps.ite1 | with_reducible apply State.Keeps.ite2 | with_reducible apply State.Keeps.elim
    | with_reducible apply State.Keeps.foldl | with_reducible apply State.Keeps.foldl1 | with_reducible apply State.Keeps.foldl2 | with_reducible apply State.Keeps.foldl22
    | simp only [↓State.Keeps.upd, ↓State.Keeps.updFlash, ↓State.Keeps.updPoison]
    | split
    | dsimp only

theorem State.closePhase_keeps {orig : State} {s : State} (i : Nat) (h0 : orig.Keeps s) :
    orig.Keeps (State.closePhase s i) := by
  unfold State.closePhase
  repeat' first
    | with_reducible assumption
    | intro _
    | (with_reducible apply State.bump_keeps) | (with_reducible apply State.csrSet_keeps) | (with_reducible apply State.setFld_keeps)
    | with_reducible apply State.Keeps.ite | with_reducible apply State.Keeps.ite1 | with_reducible apply State.Keeps.ite2 | with_reducible apply State.Keeps.elim
    | with_reducible apply State.Keeps.foldl | with_reducible apply State.Keeps.foldl1 | with_reducible apply State.Keeps.foldl2 | with_reducible apply State.Keeps.foldl22
    | simp only [↓State.Keeps.upd, ↓State.Keeps.updFlash, ↓State.Keeps.updPoison]
    | split
    | dsimp only

theorem State.startMark_keeps {orig : State} {s : State} (i : Nat) (h0 : orig.Keeps s) :
    orig.Keeps (State.startMark s i) := by
  unfold State.startMark
  repeat' first
    | with_reducible assumption
    | intro _
    | (with_reducible apply State.openPhase_keeps)
    | with_reducible apply State.Keeps.ite | with_reducible apply State.Keeps.ite1 | with_reducible apply State.Keeps.ite2 | with_reducible apply State.Keeps.elim
    | with_reducible apply State.Keeps.foldl | with_reducible apply State.Keeps.foldl1 | with_reducible apply State.Keeps.foldl2 | with_reducible apply State.Keeps.foldl22
    | simp only [↓State.Keeps.upd, ↓State.Keeps.updFlash, ↓State.Keeps.updPoison]
    | split
    | dsimp only

theorem State.endMark_keeps {orig : State} {s : State} (i : Nat) (h0 : orig.Keeps s) :
    orig.Keeps (State.endMark s i) := by
  unfold State.endMark
  repeat' first
    | with_reducible assumption
    | intro _
    | (with_reducible apply State.setFld_keeps) | (with_reducible apply State.closePhase_keeps)
    | (with_reducible apply State.openPhase_keeps)
    | with_reducible apply State.Keeps.ite | with_reducible apply State.Keeps.ite1 | with_reducible apply State.Keeps.ite2 | with_reducible apply State.Keeps.elim
    | with_reducible apply State.Keeps.foldl | with_reducible apply State.Keeps.foldl1 | with_reducible apply State.Keeps.foldl2 | with_reducible apply State.Keeps.foldl22
    | simp only [↓State.Keeps.upd, ↓State.Keeps.updFlash, ↓State.Keeps.updPoison]
    | split
    | dsimp only

theorem State.autoStart_keeps {orig : State} {s : State} (n : Nat) (st : Nat) (h0 : orig.Keeps s) :
    orig.Keeps (State.autoStart s n st) := by
  unfold State.autoStart
  repeat' first
    | with_reducible assumption
    | intro _
    | (with_reducible apply State.openPhase_keeps)
    | with_reducible apply State.Keeps.ite | with_reducible apply State.Keeps.ite1 | with_reducible apply State.Keeps.ite2 | with_reducible apply State.Keeps.elim
    | with_reducible apply State.Keeps.foldl | with_reducible apply State.Keeps.foldl1 | with_reducible apply State.Keeps.foldl2 | with_reducible apply State.Keeps.foldl22
    | simp only [↓State.Keeps.upd, ↓State.Keeps.updFlash, ↓State.Keeps.updPoison]
    | split
    | dsimp only

theorem State.autoEnd_keeps {orig : State} {s : State} (n : Nat) (st : Nat) (h0 : orig.Keeps s) :
    orig.Keeps (State.autoEnd s n st) := by
  unfold State.autoEnd
  repeat' first
    | with_reducible assumption
    | intro _
    | (with_reducible apply State.closePhase_keeps)
    | with_reducible apply State.Keeps.ite | with_reducible apply State.Keeps.ite1 | with_reducible apply State.Keeps.ite2 | with_reducible apply State.Keeps.elim
    | with_reducible apply State.Keeps.foldl | with_reducible apply State.Keeps.foldl1 | with_reducible apply State.Keeps.foldl2 | with_reducible apply State.Keeps.foldl22
    | simp only [↓State.Keeps.upd, ↓State.Keeps.updFlash, ↓State.Keeps.updPoison]
    | split
    | dsimp only

end Sys2Proof.Machine
end

