-- ==== Sys2Proof/Laws/KeepMeasure.lean ====
section
/-! SUPPORT. What the operations of Machine/Measure.lean keep. -/

set_option linter.all false

namespace Sys2Proof.Machine

theorem State.setReg256_keeps {orig : State} {s : State} (off : Nat → Nat) (v : BitVec 256) (h0 : orig.Keeps s) :
    orig.Keeps (State.setReg256 s off v) := by
  unfold State.setReg256
  repeat' first
    | with_reducible assumption
    | intro _
    | (with_reducible apply State.csrSet_keeps)
    | with_reducible apply State.Keeps.ite | with_reducible apply State.Keeps.ite1 | with_reducible apply State.Keeps.ite2 | with_reducible apply State.Keeps.elim
    | with_reducible apply State.Keeps.foldl | with_reducible apply State.Keeps.foldl1 | with_reducible apply State.Keeps.foldl2 | with_reducible apply State.Keeps.foldl22
    | simp only [↓State.Keeps.upd, ↓State.Keeps.updFlash, ↓State.Keeps.updPoison]
    | split
    | dsimp only

theorem State.extend_keeps {orig : State} {s : State} (n : Nat) (d : BitVec 256) (h0 : orig.Keeps s) :
    orig.Keeps (State.extend s n d) := by
  unfold State.extend
  repeat' first
    | with_reducible assumption
    | intro _
    | (with_reducible apply State.setReg256_keeps)
    | with_reducible apply State.Keeps.ite | with_reducible apply State.Keeps.ite1 | with_reducible apply State.Keeps.ite2 | with_reducible apply State.Keeps.elim
    | with_reducible apply State.Keeps.foldl | with_reducible apply State.Keeps.foldl1 | with_reducible apply State.Keeps.foldl2 | with_reducible apply State.Keeps.foldl22
    | simp only [↓State.Keeps.upd, ↓State.Keeps.updFlash, ↓State.Keeps.updPoison]
    | split
    | dsimp only

theorem State.measMaps_keeps {orig : State} {s : State} (h0 : orig.Keeps s) :
    orig.Keeps (State.measMaps s) := by
  unfold State.measMaps
  repeat' first
    | with_reducible assumption
    | intro _
    | (with_reducible apply State.extend_keeps)
    | with_reducible apply State.Keeps.ite | with_reducible apply State.Keeps.ite1 | with_reducible apply State.Keeps.ite2 | with_reducible apply State.Keeps.elim
    | with_reducible apply State.Keeps.foldl | with_reducible apply State.Keeps.foldl1 | with_reducible apply State.Keeps.foldl2 | with_reducible apply State.Keeps.foldl22
    | simp only [↓State.Keeps.upd, ↓State.Keeps.updFlash, ↓State.Keeps.updPoison]
    | split
    | dsimp only

theorem State.measShares_keeps {orig : State} {s : State} (h0 : orig.Keeps s) :
    orig.Keeps (State.measShares s) := by
  unfold State.measShares
  repeat' first
    | with_reducible assumption
    | intro _
    | (with_reducible apply State.extend_keeps)
    | with_reducible apply State.Keeps.ite | with_reducible apply State.Keeps.ite1 | with_reducible apply State.Keeps.ite2 | with_reducible apply State.Keeps.elim
    | with_reducible apply State.Keeps.foldl | with_reducible apply State.Keeps.foldl1 | with_reducible apply State.Keeps.foldl2 | with_reducible apply State.Keeps.foldl22
    | simp only [↓State.Keeps.upd, ↓State.Keeps.updFlash, ↓State.Keeps.updPoison]
    | split
    | dsimp only

theorem State.zeroMeas_keeps {orig : State} {s : State} (h0 : orig.Keeps s) :
    orig.Keeps (State.zeroMeas s) := by
  unfold State.zeroMeas
  repeat' first
    | with_reducible assumption
    | intro _
    | with_reducible apply State.Keeps.ite | with_reducible apply State.Keeps.ite1 | with_reducible apply State.Keeps.ite2 | with_reducible apply State.Keeps.elim
    | with_reducible apply State.Keeps.foldl | with_reducible apply State.Keeps.foldl1 | with_reducible apply State.Keeps.foldl2 | with_reducible apply State.Keeps.foldl22
    | simp only [↓State.Keeps.upd, ↓State.Keeps.updFlash, ↓State.Keeps.updPoison]
    | split
    | dsimp only

theorem State.toFlash_keeps {orig : State} {s : State} (off : Nat) (h0 : orig.Keeps s) :
    orig.Keeps (State.toFlash s off) := by
  unfold State.toFlash
  repeat' first
    | with_reducible assumption
    | intro _
    | with_reducible apply State.Keeps.ite | with_reducible apply State.Keeps.ite1 | with_reducible apply State.Keeps.ite2 | with_reducible apply State.Keeps.elim
    | with_reducible apply State.Keeps.foldl | with_reducible apply State.Keeps.foldl1 | with_reducible apply State.Keeps.foldl2 | with_reducible apply State.Keeps.foldl22
    | simp only [↓State.Keeps.upd, ↓State.Keeps.updFlash, ↓State.Keeps.updPoison]
    | split
    | dsimp only

theorem State.saveMap_keeps {orig : State} {s : State} (k : Nat) (cl : Nat) (h0 : orig.Keeps s) :
    orig.Keeps (State.saveMap s k cl) := by
  unfold State.saveMap
  repeat' first
    | with_reducible assumption
    | intro _
    | (with_reducible apply State.measMaps_keeps) | (with_reducible apply State.toFlash_keeps)
    | with_reducible apply State.Keeps.ite | with_reducible apply State.Keeps.ite1 | with_reducible apply State.Keeps.ite2 | with_reducible apply State.Keeps.elim
    | with_reducible apply State.Keeps.foldl | with_reducible apply State.Keeps.foldl1 | with_reducible apply State.Keeps.foldl2 | with_reducible apply State.Keeps.foldl22
    | simp only [↓State.Keeps.upd, ↓State.Keeps.updFlash, ↓State.Keeps.updPoison]
    | split
    | dsimp only

end Sys2Proof.Machine
end

