-- ==== Sys2Proof/Laws/KeepErrors.lean ====
section
/-! SUPPORT. What the operations of Machine/Errors.lean keep. -/

set_option linter.all false

namespace Sys2Proof.Machine

theorem State.modEvq_keeps {orig : State} {s : State} (p : Nat) (f : Nat) (g : EvQ → EvQ) (h0 : orig.Keeps s) :
    orig.Keeps (State.modEvq s p f g) := by
  unfold State.modEvq
  repeat' first
    | with_reducible assumption
    | intro _
    | with_reducible apply State.Keeps.ite | with_reducible apply State.Keeps.ite1 | with_reducible apply State.Keeps.ite2 | with_reducible apply State.Keeps.elim
    | with_reducible apply State.Keeps.foldl | with_reducible apply State.Keeps.foldl1 | with_reducible apply State.Keeps.foldl2 | with_reducible apply State.Keeps.foldl22
    | simp only [↓State.Keeps.upd, ↓State.Keeps.updFlash, ↓State.Keeps.updPoison]
    | split
    | dsimp only

theorem State.postDev_keeps {orig : State} {s : State} (p : Nat) (f : Nat) (w : List Word) (h0 : orig.Keeps s) :
    orig.Keeps (State.postDev s p f w) := by
  unfold State.postDev
  repeat' first
    | with_reducible assumption
    | intro _
    | (with_reducible apply State.modEvq_keeps) | (with_reducible apply State.bump_keeps)
    | with_reducible apply State.Keeps.ite | with_reducible apply State.Keeps.ite1 | with_reducible apply State.Keeps.ite2 | with_reducible apply State.Keeps.elim
    | with_reducible apply State.Keeps.foldl | with_reducible apply State.Keeps.foldl1 | with_reducible apply State.Keeps.foldl2 | with_reducible apply State.Keeps.foldl22
    | simp only [↓State.Keeps.upd, ↓State.Keeps.updFlash, ↓State.Keeps.updPoison]
    | split
    | dsimp only

theorem State.postCtx_keeps {orig : State} {s : State} (n : Nat) (typ : Nat) (info : Nat) (unit : Nat) (data : List Word) (h0 : orig.Keeps s) :
    orig.Keeps (State.postCtx s n typ info unit data) := by
  unfold State.postCtx
  repeat' first
    | with_reducible assumption
    | intro _
    | (with_reducible apply State.postDev_keeps)
    | with_reducible apply State.Keeps.ite | with_reducible apply State.Keeps.ite1 | with_reducible apply State.Keeps.ite2 | with_reducible apply State.Keeps.elim
    | with_reducible apply State.Keeps.foldl | with_reducible apply State.Keeps.foldl1 | with_reducible apply State.Keeps.foldl2 | with_reducible apply State.Keeps.foldl22
    | simp only [↓State.Keeps.upd, ↓State.Keeps.updFlash, ↓State.Keeps.updPoison]
    | split
    | dsimp only

theorem State.postPfs_keeps {orig : State} {s : State} (typ : Nat) (info : Nat) (unit : Nat) (data : List Word) (h0 : orig.Keeps s) :
    orig.Keeps (State.postPfs s typ info unit data) := by
  unfold State.postPfs
  repeat' first
    | with_reducible assumption
    | intro _
    | (with_reducible apply State.postDev_keeps)
    | with_reducible apply State.Keeps.ite | with_reducible apply State.Keeps.ite1 | with_reducible apply State.Keeps.ite2 | with_reducible apply State.Keeps.elim
    | with_reducible apply State.Keeps.foldl | with_reducible apply State.Keeps.foldl1 | with_reducible apply State.Keeps.foldl2 | with_reducible apply State.Keeps.foldl22
    | simp only [↓State.Keeps.upd, ↓State.Keeps.updFlash, ↓State.Keeps.updPoison]
    | split
    | dsimp only

theorem State.fwEvent_keeps {orig : State} {s : State} (key : Nat) (eve : Option Nat) (op : Nat) (h0 : orig.Keeps s) :
    orig.Keeps (State.fwEvent s key eve op) := by
  unfold State.fwEvent
  repeat' first
    | with_reducible assumption
    | intro _
    | (with_reducible apply State.evAdd_keeps)
    | with_reducible apply State.Keeps.ite | with_reducible apply State.Keeps.ite1 | with_reducible apply State.Keeps.ite2 | with_reducible apply State.Keeps.elim
    | with_reducible apply State.Keeps.foldl | with_reducible apply State.Keeps.foldl1 | with_reducible apply State.Keeps.foldl2 | with_reducible apply State.Keeps.foldl22
    | simp only [↓State.Keeps.upd, ↓State.Keeps.updFlash, ↓State.Keeps.updPoison]
    | split
    | dsimp only

theorem State.giveNotice_keeps {orig : State} {s : State} (h0 : orig.Keeps s) :
    orig.Keeps (State.giveNotice s) := by
  unfold State.giveNotice
  repeat' first
    | with_reducible assumption
    | intro _
    | (with_reducible apply State.fwEvent_keeps) | (with_reducible apply State.modCore_keeps)
    | with_reducible apply State.Keeps.ite | with_reducible apply State.Keeps.ite1 | with_reducible apply State.Keeps.ite2 | with_reducible apply State.Keeps.elim
    | with_reducible apply State.Keeps.foldl | with_reducible apply State.Keeps.foldl1 | with_reducible apply State.Keeps.foldl2 | with_reducible apply State.Keeps.foldl22
    | simp only [↓State.Keeps.upd, ↓State.Keeps.updFlash, ↓State.Keeps.updPoison]
    | split
    | dsimp only

theorem State.notice_keeps {orig : State} {s : State} (w : Word) (h0 : orig.Keeps s) :
    orig.Keeps (State.notice s w) := by
  unfold State.notice
  repeat' first
    | with_reducible assumption
    | intro _
    | (with_reducible apply State.giveNotice_keeps)
    | with_reducible apply State.Keeps.ite | with_reducible apply State.Keeps.ite1 | with_reducible apply State.Keeps.ite2 | with_reducible apply State.Keeps.elim
    | with_reducible apply State.Keeps.foldl | with_reducible apply State.Keeps.foldl1 | with_reducible apply State.Keeps.foldl2 | with_reducible apply State.Keeps.foldl22
    | simp only [↓State.Keeps.upd, ↓State.Keeps.updFlash, ↓State.Keeps.updPoison]
    | split
    | dsimp only

theorem State.endCmd_keeps {orig : State} {s : State} (id : Nat) (status : Nat) (result : Nat) (h0 : orig.Keeps s) :
    orig.Keeps (State.endCmd s id status result) := by
  unfold State.endCmd
  repeat' first
    | with_reducible assumption
    | intro _
    | with_reducible apply State.Keeps.ite | with_reducible apply State.Keeps.ite1 | with_reducible apply State.Keeps.ite2 | with_reducible apply State.Keeps.elim
    | with_reducible apply State.Keeps.foldl | with_reducible apply State.Keeps.foldl1 | with_reducible apply State.Keeps.foldl2 | with_reducible apply State.Keeps.foldl22
    | simp only [↓State.Keeps.upd, ↓State.Keeps.updFlash, ↓State.Keeps.updPoison]
    | split
    | dsimp only

theorem State.ccBack_keeps {orig : State} {s : State} (key : Nat) (fin : Bool) (w : Word) (h0 : orig.Keeps s) :
    orig.Keeps (State.ccBack s key fin w) := by
  unfold State.ccBack
  repeat' first
    | with_reducible assumption
    | intro _
    | (with_reducible apply State.fwEvent_keeps) | (with_reducible apply State.swapSet_keeps)
    | with_reducible apply State.Keeps.ite | with_reducible apply State.Keeps.ite1 | with_reducible apply State.Keeps.ite2 | with_reducible apply State.Keeps.elim
    | with_reducible apply State.Keeps.foldl | with_reducible apply State.Keeps.foldl1 | with_reducible apply State.Keeps.foldl2 | with_reducible apply State.Keeps.foldl22
    | simp only [↓State.Keeps.upd, ↓State.Keeps.updFlash, ↓State.Keeps.updPoison]
    | split
    | dsimp only

theorem State.ccReturn_keeps {orig : State} {s : State} (key : Nat) (reason : Nat) (h0 : orig.Keeps s) :
    orig.Keeps (State.ccReturn s key reason) := by
  unfold State.ccReturn
  repeat' first
    | with_reducible assumption
    | intro _
    | (with_reducible apply State.ccBack_keeps) | (with_reducible apply State.notice_keeps)
    | with_reducible apply State.Keeps.ite | with_reducible apply State.Keeps.ite1 | with_reducible apply State.Keeps.ite2 | with_reducible apply State.Keeps.elim
    | with_reducible apply State.Keeps.foldl | with_reducible apply State.Keeps.foldl1 | with_reducible apply State.Keeps.foldl2 | with_reducible apply State.Keeps.foldl22
    | simp only [↓State.Keeps.upd, ↓State.Keeps.updFlash, ↓State.Keeps.updPoison]
    | split
    | dsimp only

theorem State.stopCores_keeps {orig : State} {s : State} (n : Nat) (h0 : orig.Keeps s) :
    orig.Keeps (State.stopCores s n) := by
  unfold State.stopCores
  repeat' first
    | with_reducible assumption
    | intro _
    | with_reducible apply State.Keeps.ite | with_reducible apply State.Keeps.ite1 | with_reducible apply State.Keeps.ite2 | with_reducible apply State.Keeps.elim
    | with_reducible apply State.Keeps.foldl | with_reducible apply State.Keeps.foldl1 | with_reducible apply State.Keeps.foldl2 | with_reducible apply State.Keeps.foldl22
    | simp only [↓State.Keeps.upd, ↓State.Keeps.updFlash, ↓State.Keeps.updPoison]
    | split
    | dsimp only

theorem State.stopCtl_keeps {orig : State} {s : State} (n : Nat) (reason : Nat) (h0 : orig.Keeps s) :
    orig.Keeps (State.stopCtl s n reason) := by
  unfold State.stopCtl
  repeat' first
    | with_reducible assumption
    | intro _
    | (with_reducible apply State.ccReturn_keeps)
    | with_reducible apply State.Keeps.ite | with_reducible apply State.Keeps.ite1 | with_reducible apply State.Keeps.ite2 | with_reducible apply State.Keeps.elim
    | with_reducible apply State.Keeps.foldl | with_reducible apply State.Keeps.foldl1 | with_reducible apply State.Keeps.foldl2 | with_reducible apply State.Keeps.foldl22
    | simp only [↓State.Keeps.upd, ↓State.Keeps.updFlash, ↓State.Keeps.updPoison]
    | split
    | dsimp only

theorem State.startHatch_keeps {orig : State} {s : State} (n : Nat) (reason : Nat) (unit : UnitCode) (core : Option (Nat × Nat × Option Nat)) (cmd : Option Nat) (freset : Bool) (unbind : Bool) (h0 : orig.Keeps s) :
    orig.Keeps (State.startHatch s n reason unit core cmd freset unbind) := by
  unfold State.startHatch
  repeat' first
    | with_reducible assumption
    | intro _
    | (with_reducible apply State.modCtx_keeps) | (with_reducible apply State.stopCores_keeps)
    | with_reducible apply State.Keeps.ite | with_reducible apply State.Keeps.ite1 | with_reducible apply State.Keeps.ite2 | with_reducible apply State.Keeps.elim
    | with_reducible apply State.Keeps.foldl | with_reducible apply State.Keeps.foldl1 | with_reducible apply State.Keeps.foldl2 | with_reducible apply State.Keeps.foldl22
    | simp only [↓State.Keeps.upd, ↓State.Keeps.updFlash, ↓State.Keeps.updPoison]
    | split
    | dsimp only

theorem State.fired_keeps {orig : State} {s : State} (last : Option Nat) (h0 : orig.Keeps s) :
    orig.Keeps (State.fired s last) := by
  unfold State.fired
  repeat' first
    | with_reducible assumption
    | intro _
    | (with_reducible apply State.bump_keeps) | (with_reducible apply State.setFld_keeps)
    | with_reducible apply State.Keeps.ite | with_reducible apply State.Keeps.ite1 | with_reducible apply State.Keeps.ite2 | with_reducible apply State.Keeps.elim
    | with_reducible apply State.Keeps.foldl | with_reducible apply State.Keeps.foldl1 | with_reducible apply State.Keeps.foldl2 | with_reducible apply State.Keeps.foldl22
    | simp only [↓State.Keeps.upd, ↓State.Keeps.updFlash, ↓State.Keeps.updPoison]
    | split
    | dsimp only

theorem State.ibi_keeps {orig : State} {s : State} (b : Nat) (h0 : orig.Keeps s) :
    orig.Keeps (State.ibi s b) := by
  unfold State.ibi
  repeat' first
    | with_reducible assumption
    | intro _
    | with_reducible apply State.Keeps.ite | with_reducible apply State.Keeps.ite1 | with_reducible apply State.Keeps.ite2 | with_reducible apply State.Keeps.elim
    | with_reducible apply State.Keeps.foldl | with_reducible apply State.Keeps.foldl1 | with_reducible apply State.Keeps.foldl2 | with_reducible apply State.Keeps.foldl22
    | simp only [↓State.Keeps.upd, ↓State.Keeps.updFlash, ↓State.Keeps.updPoison]
    | split
    | dsimp only

theorem State.takeDetection_keeps {orig : State} {s : State} (d : Detection) (inj : Bool) (h0 : orig.Keeps s) :
    orig.Keeps (State.takeDetection s d inj).1 := by
  unfold State.takeDetection
  repeat' first
    | with_reducible assumption
    | intro _
    | (with_reducible apply State.bump_keeps) | (with_reducible apply State.setFld_keeps) | (with_reducible apply State.ibi_keeps)
    | (with_reducible apply State.notice_keeps)
    | with_reducible apply State.Keeps.ite | with_reducible apply State.Keeps.ite1 | with_reducible apply State.Keeps.ite2 | with_reducible apply State.Keeps.elim
    | with_reducible apply State.Keeps.foldl | with_reducible apply State.Keeps.foldl1 | with_reducible apply State.Keeps.foldl2 | with_reducible apply State.Keeps.foldl22
    | simp only [↓State.Keeps.upd, ↓State.Keeps.updFlash, ↓State.Keeps.updPoison]
    | split
    | dsimp only
theorem State.takeDetection_eq {orig : State} {s : State} (d : Detection) (inj : Bool) (h0 : orig.Keeps s)
    {other : Option Nat} {result : State} (e : (State.takeDetection s d inj) = (result, other)) : orig.Keeps result := by
  have := State.takeDetection_keeps (orig := orig) d inj h0
  rw [e] at this
  exact this

theorem State.openRecord_keeps {orig : State} {s : State} (d : Detection) (inj : Bool) (h0 : orig.Keeps s) :
    orig.Keeps (State.openRecord s d inj).1 := by
  unfold State.openRecord
  repeat' first
    | with_reducible assumption
    | intro _
    | (with_reducible apply State.takeDetection_keeps)
    | (with_reducible refine State.takeDetection_eq _ _ ?_ (by with_reducible assumption)) | (with_reducible apply State.fired_keeps)
    | (with_reducible apply State.setFld_keeps)
    | with_reducible apply State.Keeps.ite | with_reducible apply State.Keeps.ite1 | with_reducible apply State.Keeps.ite2 | with_reducible apply State.Keeps.elim
    | with_reducible apply State.Keeps.foldl | with_reducible apply State.Keeps.foldl1 | with_reducible apply State.Keeps.foldl2 | with_reducible apply State.Keeps.foldl22
    | simp only [↓State.Keeps.upd, ↓State.Keeps.updFlash, ↓State.Keeps.updPoison]
    | split
    | dsimp only
theorem State.openRecord_eq {orig : State} {s : State} (d : Detection) (inj : Bool) (h0 : orig.Keeps s)
    {other : Option Nat} {result : State} (e : (State.openRecord s d inj) = (result, other)) : orig.Keeps result := by
  have := State.openRecord_keeps (orig := orig) d inj h0
  rw [e] at this
  exact this

theorem State.handle_keeps {orig : State} {s : State} (i : Option Nat) (level : Nat) (code : Nat) (h0 : orig.Keeps s) :
    orig.Keeps (State.handle s i level code) := by
  unfold State.handle
  repeat' first
    | with_reducible assumption
    | intro _
    | with_reducible apply State.Keeps.ite | with_reducible apply State.Keeps.ite1 | with_reducible apply State.Keeps.ite2 | with_reducible apply State.Keeps.elim
    | with_reducible apply State.Keeps.foldl | with_reducible apply State.Keeps.foldl1 | with_reducible apply State.Keeps.foldl2 | with_reducible apply State.Keeps.foldl22
    | simp only [↓State.Keeps.upd, ↓State.Keeps.updFlash, ↓State.Keeps.updPoison]
    | split
    | dsimp only

theorem State.repeats_keeps {orig : State} {s : State} (i : Option Nat) (n : Nat) (h0 : orig.Keeps s) :
    orig.Keeps (State.repeats s i n) := by
  unfold State.repeats
  repeat' first
    | with_reducible assumption
    | intro _
    | with_reducible apply State.Keeps.ite | with_reducible apply State.Keeps.ite1 | with_reducible apply State.Keeps.ite2 | with_reducible apply State.Keeps.elim
    | with_reducible apply State.Keeps.foldl | with_reducible apply State.Keeps.foldl1 | with_reducible apply State.Keeps.foldl2 | with_reducible apply State.Keeps.foldl22
    | simp only [↓State.Keeps.upd, ↓State.Keeps.updFlash, ↓State.Keeps.updPoison]
    | split
    | dsimp only

theorem State.reportRecord_keeps {orig : State} {s : State} (r : List Word) (h0 : orig.Keeps s) :
    orig.Keeps (State.reportRecord s r) := by
  unfold State.reportRecord
  repeat' first
    | with_reducible assumption
    | intro _
    | (with_reducible apply State.postDev_keeps)
    | with_reducible apply State.Keeps.ite | with_reducible apply State.Keeps.ite1 | with_reducible apply State.Keeps.ite2 | with_reducible apply State.Keeps.elim
    | with_reducible apply State.Keeps.foldl | with_reducible apply State.Keeps.foldl1 | with_reducible apply State.Keeps.foldl2 | with_reducible apply State.Keeps.foldl22
    | simp only [↓State.Keeps.upd, ↓State.Keeps.updFlash, ↓State.Keeps.updPoison]
    | split
    | dsimp only

theorem State.closeRecord_keeps {orig : State} {s : State} (idx : Nat) (cls : Nat) (level : Nat) (handling : Nat) (h0 : orig.Keeps s) :
    orig.Keeps (State.closeRecord s idx cls level handling) := by
  unfold State.closeRecord
  repeat' first
    | with_reducible assumption
    | intro _
    | (with_reducible apply State.setFld_keeps) | (with_reducible apply State.reportRecord_keeps)
    | with_reducible apply State.Keeps.ite | with_reducible apply State.Keeps.ite1 | with_reducible apply State.Keeps.ite2 | with_reducible apply State.Keeps.elim
    | with_reducible apply State.Keeps.foldl | with_reducible apply State.Keeps.foldl1 | with_reducible apply State.Keeps.foldl2 | with_reducible apply State.Keeps.foldl22
    | simp only [↓State.Keeps.upd, ↓State.Keeps.updFlash, ↓State.Keeps.updPoison]
    | split
    | dsimp only

theorem State.putHist_keeps {orig : State} {s : State} (h : Hist) (h0 : orig.Keeps s) :
    orig.Keeps (State.putHist s h) := by
  unfold State.putHist
  repeat' first
    | with_reducible assumption
    | intro _
    | (with_reducible apply State.setFld_keeps)
    | with_reducible apply State.Keeps.ite | with_reducible apply State.Keeps.ite1 | with_reducible apply State.Keeps.ite2 | with_reducible apply State.Keeps.elim
    | with_reducible apply State.Keeps.foldl | with_reducible apply State.Keeps.foldl1 | with_reducible apply State.Keeps.foldl2 | with_reducible apply State.Keeps.foldl22
    | simp only [↓State.Keeps.upd, ↓State.Keeps.updFlash, ↓State.Keeps.updPoison]
    | split
    | dsimp only

theorem State.flashHist_keeps {orig : State} {s : State} (u : UnitCode) (h0 : orig.Keeps s) :
    orig.Keeps (State.flashHist s u) := by
  unfold State.flashHist
  repeat' first
    | with_reducible assumption
    | intro _
    | with_reducible apply State.Keeps.ite | with_reducible apply State.Keeps.ite1 | with_reducible apply State.Keeps.ite2 | with_reducible apply State.Keeps.elim
    | with_reducible apply State.Keeps.foldl | with_reducible apply State.Keeps.foldl1 | with_reducible apply State.Keeps.foldl2 | with_reducible apply State.Keeps.foldl22
    | simp only [↓State.Keeps.upd, ↓State.Keeps.updFlash, ↓State.Keeps.updPoison]
    | split
    | dsimp only

theorem State.markUnit_keeps {orig : State} {s : State} (u : UnitCode) (st : UnitSt) (h0 : orig.Keeps s) :
    orig.Keeps (State.markUnit s u st) := by
  unfold State.markUnit
  repeat' first
    | with_reducible assumption
    | intro _
    | (with_reducible apply State.flashHist_keeps) | (with_reducible apply State.putHist_keeps)
    | with_reducible apply State.Keeps.ite | with_reducible apply State.Keeps.ite1 | with_reducible apply State.Keeps.ite2 | with_reducible apply State.Keeps.elim
    | with_reducible apply State.Keeps.foldl | with_reducible apply State.Keeps.foldl1 | with_reducible apply State.Keeps.foldl2 | with_reducible apply State.Keeps.foldl22
    | simp only [↓State.Keeps.upd, ↓State.Keeps.updFlash, ↓State.Keeps.updPoison]
    | split
    | dsimp only

theorem State.shutCluster_keeps {orig : State} {s : State} (k : Nat) (cl : Nat) (h0 : orig.Keeps s) :
    orig.Keeps (State.shutCluster s k cl) := by
  unfold State.shutCluster
  repeat' first
    | with_reducible assumption
    | intro _
    | (with_reducible apply State.saveMap_keeps) | (with_reducible apply State.setFld_keeps)
    | (with_reducible apply State.startHatch_keeps) | (with_reducible apply State.postPfs_keeps)
    | with_reducible apply State.Keeps.ite | with_reducible apply State.Keeps.ite1 | with_reducible apply State.Keeps.ite2 | with_reducible apply State.Keeps.elim
    | with_reducible apply State.Keeps.foldl | with_reducible apply State.Keeps.foldl1 | with_reducible apply State.Keeps.foldl2 | with_reducible apply State.Keeps.foldl22
    | simp only [↓State.Keeps.upd, ↓State.Keeps.updFlash, ↓State.Keeps.updPoison]
    | split
    | dsimp only

theorem State.dropSpare_keeps {orig : State} {s : State} (k : Nat) (cl : Nat) (phys : Nat) (h0 : orig.Keeps s) :
    orig.Keeps (State.dropSpare s k cl phys) := by
  unfold State.dropSpare
  repeat' first
    | with_reducible assumption
    | intro _
    | (with_reducible apply State.setFld_keeps) | (with_reducible apply State.saveMap_keeps)
    | (with_reducible apply State.modCluster_keeps)
    | with_reducible apply State.Keeps.ite | with_reducible apply State.Keeps.ite1 | with_reducible apply State.Keeps.ite2 | with_reducible apply State.Keeps.elim
    | with_reducible apply State.Keeps.foldl | with_reducible apply State.Keeps.foldl1 | with_reducible apply State.Keeps.foldl2 | with_reducible apply State.Keeps.foldl22
    | simp only [↓State.Keeps.upd, ↓State.Keeps.updFlash, ↓State.Keeps.updPoison]
    | split
    | dsimp only

theorem State.retiredBit_keeps {orig : State} {s : State} (k : Nat) (cl : Nat) (phys : Nat) (h0 : orig.Keeps s) :
    orig.Keeps (State.retiredBit s k cl phys) := by
  unfold State.retiredBit
  repeat' first
    | with_reducible assumption
    | intro _
    | (with_reducible apply State.setFld_keeps)
    | with_reducible apply State.Keeps.ite | with_reducible apply State.Keeps.ite1 | with_reducible apply State.Keeps.ite2 | with_reducible apply State.Keeps.elim
    | with_reducible apply State.Keeps.foldl | with_reducible apply State.Keeps.foldl1 | with_reducible apply State.Keeps.foldl2 | with_reducible apply State.Keeps.foldl22
    | simp only [↓State.Keeps.upd, ↓State.Keeps.updFlash, ↓State.Keeps.updPoison]
    | split
    | dsimp only

theorem State.retireCore_keeps {orig : State} {s : State} (k : Nat) (cl : Nat) (phys : Nat) (h0 : orig.Keeps s) :
    orig.Keeps (State.retireCore s k cl phys) := by
  unfold State.retireCore
  repeat' first
    | with_reducible assumption
    | intro _
    | (with_reducible apply State.markUnit_keeps) | (with_reducible apply State.saveMap_keeps)
    | (with_reducible apply State.retiredBit_keeps) | (with_reducible apply State.modCluster_keeps)
    | (with_reducible apply State.shutCluster_keeps) | (with_reducible apply State.dropSpare_keeps)
    | with_reducible apply State.Keeps.ite | with_reducible apply State.Keeps.ite1 | with_reducible apply State.Keeps.ite2 | with_reducible apply State.Keeps.elim
    | with_reducible apply State.Keeps.foldl | with_reducible apply State.Keeps.foldl1 | with_reducible apply State.Keeps.foldl2 | with_reducible apply State.Keeps.foldl22
    | simp only [↓State.Keeps.upd, ↓State.Keeps.updFlash, ↓State.Keeps.updPoison]
    | split
    | dsimp only

theorem State.spareRow_keeps {orig : State} {s : State} (u : UnitCode) (total : Nat) (h0 : orig.Keeps s) :
    orig.Keeps (State.spareRow s u total).1 := by
  unfold State.spareRow
  repeat' first
    | with_reducible assumption
    | intro _
    | with_reducible apply State.Keeps.ite | with_reducible apply State.Keeps.ite1 | with_reducible apply State.Keeps.ite2 | with_reducible apply State.Keeps.elim
    | with_reducible apply State.Keeps.foldl | with_reducible apply State.Keeps.foldl1 | with_reducible apply State.Keeps.foldl2 | with_reducible apply State.Keeps.foldl22
    | simp only [↓State.Keeps.upd, ↓State.Keeps.updFlash, ↓State.Keeps.updPoison]
    | split
    | dsimp only
theorem State.spareRow_eq {orig : State} {s : State} (u : UnitCode) (total : Nat) (h0 : orig.Keeps s)
    {other : Bool} {result : State} (e : (State.spareRow s u total) = (result, other)) : orig.Keeps result := by
  have := State.spareRow_keeps (orig := orig) u total h0
  rw [e] at this
  exact this

theorem State.moveFirmware_keeps {orig : State} {s : State} (key : Nat) (h0 : orig.Keeps s) :
    orig.Keeps (State.moveFirmware s key) := by
  unfold State.moveFirmware
  repeat' first
    | with_reducible assumption
    | intro _
    | (with_reducible apply State.modCore_keeps) | (with_reducible apply State.swapSet_keeps)
    | with_reducible apply State.Keeps.ite | with_reducible apply State.Keeps.ite1 | with_reducible apply State.Keeps.ite2 | with_reducible apply State.Keeps.elim
    | with_reducible apply State.Keeps.foldl | with_reducible apply State.Keeps.foldl1 | with_reducible apply State.Keeps.foldl2 | with_reducible apply State.Keeps.foldl22
    | simp only [↓State.Keeps.upd, ↓State.Keeps.updFlash, ↓State.Keeps.updPoison]
    | split
    | dsimp only

theorem State.shutUnit_keeps {orig : State} {s : State} (u : UnitCode) (h0 : orig.Keeps s) :
    orig.Keeps (State.shutUnit s u) := by
  unfold State.shutUnit
  repeat' first
    | with_reducible assumption
    | intro _
    | (with_reducible apply State.markUnit_keeps) | (with_reducible apply State.measMaps_keeps)
    | (with_reducible apply State.setFld_keeps) | (with_reducible apply State.moveFirmware_keeps)
    | (with_reducible apply State.startHatch_keeps)
    | with_reducible apply State.Keeps.ite | with_reducible apply State.Keeps.ite1 | with_reducible apply State.Keeps.ite2 | with_reducible apply State.Keeps.elim
    | with_reducible apply State.Keeps.foldl | with_reducible apply State.Keeps.foldl1 | with_reducible apply State.Keeps.foldl2 | with_reducible apply State.Keeps.foldl22
    | simp only [↓State.Keeps.upd, ↓State.Keeps.updFlash, ↓State.Keeps.updPoison]
    | split
    | dsimp only

theorem State.hbmSpent_keeps {orig : State} {s : State} (h0 : orig.Keeps s) :
    orig.Keeps (State.hbmSpent s) := by
  unfold State.hbmSpent
  repeat' first
    | with_reducible assumption
    | intro _
    | (with_reducible apply State.setFld_keeps)
    | with_reducible apply State.Keeps.ite | with_reducible apply State.Keeps.ite1 | with_reducible apply State.Keeps.ite2 | with_reducible apply State.Keeps.elim
    | with_reducible apply State.Keeps.foldl | with_reducible apply State.Keeps.foldl1 | with_reducible apply State.Keeps.foldl2 | with_reducible apply State.Keeps.foldl22
    | simp only [↓State.Keeps.upd, ↓State.Keeps.updFlash, ↓State.Keeps.updPoison]
    | split
    | dsimp only

theorem State.thrAction_keeps {orig : State} {s : State} (kind : Nat) (u : UnitCode) (h0 : orig.Keeps s) :
    orig.Keeps (State.thrAction s kind u) := by
  unfold State.thrAction
  repeat' first
    | with_reducible assumption
    | intro _
    | (with_reducible apply State.retireCore_keeps) | (with_reducible apply State.spareRow_keeps)
    | (with_reducible refine State.spareRow_eq _ _ ?_ (by with_reducible assumption)) | (with_reducible apply State.shutCluster_keeps)
    | (with_reducible apply State.setFld_keeps) | (with_reducible apply State.hbmSpent_keeps)
    | (with_reducible apply State.shutUnit_keeps)
    | with_reducible apply State.Keeps.ite | with_reducible apply State.Keeps.ite1 | with_reducible apply State.Keeps.ite2 | with_reducible apply State.Keeps.elim
    | with_reducible apply State.Keeps.foldl | with_reducible apply State.Keeps.foldl1 | with_reducible apply State.Keeps.foldl2 | with_reducible apply State.Keeps.foldl22
    | simp only [↓State.Keeps.upd, ↓State.Keeps.updFlash, ↓State.Keeps.updPoison]
    | split
    | dsimp only

theorem State.charge_keeps {orig : State} {s : State} (u0 : UnitCode) (det : Nat) (pers : Bool) (h0 : orig.Keeps s) :
    orig.Keeps (State.charge s u0 det pers) := by
  unfold State.charge
  repeat' first
    | with_reducible assumption
    | intro _
    | (with_reducible apply State.putHist_keeps) | (with_reducible apply State.thrAction_keeps)
    | with_reducible apply State.Keeps.ite | with_reducible apply State.Keeps.ite1 | with_reducible apply State.Keeps.ite2 | with_reducible apply State.Keeps.elim
    | with_reducible apply State.Keeps.foldl | with_reducible apply State.Keeps.foldl1 | with_reducible apply State.Keeps.foldl2 | with_reducible apply State.Keeps.foldl22
    | simp only [↓State.Keeps.upd, ↓State.Keeps.updFlash, ↓State.Keeps.updPoison]
    | split
    | dsimp only

theorem State.chargeRec_keeps {orig : State} {s : State} (idx : Option Nat) (u : UnitCode) (det : Nat) (pers : Bool) (h0 : orig.Keeps s) :
    orig.Keeps (State.chargeRec s idx u det pers) := by
  unfold State.chargeRec
  repeat' first
    | with_reducible assumption
    | intro _
    | (with_reducible apply State.handle_keeps) | (with_reducible apply State.charge_keeps)
    | with_reducible apply State.Keeps.ite | with_reducible apply State.Keeps.ite1 | with_reducible apply State.Keeps.ite2 | with_reducible apply State.Keeps.elim
    | with_reducible apply State.Keeps.foldl | with_reducible apply State.Keeps.foldl1 | with_reducible apply State.Keeps.foldl2 | with_reducible apply State.Keeps.foldl22
    | simp only [↓State.Keeps.upd, ↓State.Keeps.updFlash, ↓State.Keeps.updPoison]
    | split
    | dsimp only

theorem State.poisonRecord_keeps {orig : State} {s : State} (a : Nat) (ctx : Option CtxId) (h0 : orig.Keeps s) :
    orig.Keeps (State.poisonRecord s a ctx) := by
  unfold State.poisonRecord
  repeat' first
    | with_reducible assumption
    | intro _
    | (with_reducible apply State.openRecord_keeps) | (with_reducible refine State.openRecord_eq _ _ ?_ (by with_reducible assumption))
    | with_reducible apply State.Keeps.ite | with_reducible apply State.Keeps.ite1 | with_reducible apply State.Keeps.ite2 | with_reducible apply State.Keeps.elim
    | with_reducible apply State.Keeps.foldl | with_reducible apply State.Keeps.foldl1 | with_reducible apply State.Keeps.foldl2 | with_reducible apply State.Keeps.foldl22
    | simp only [↓State.Keeps.upd, ↓State.Keeps.updFlash, ↓State.Keeps.updPoison]
    | split
    | dsimp only

theorem State.tileRecord_keeps {orig : State} {s : State} (key : Nat) (t : Nat) (cls : Nat) (op : Nat) (pc : Nat) (h0 : orig.Keeps s) :
    orig.Keeps (State.tileRecord s key t cls op pc) := by
  unfold State.tileRecord
  repeat' first
    | with_reducible assumption
    | intro _
    | (with_reducible apply State.openRecord_keeps) | (with_reducible refine State.openRecord_eq _ _ ?_ (by with_reducible assumption))
    | with_reducible apply State.Keeps.ite | with_reducible apply State.Keeps.ite1 | with_reducible apply State.Keeps.ite2 | with_reducible apply State.Keeps.elim
    | with_reducible apply State.Keeps.foldl | with_reducible apply State.Keeps.foldl1 | with_reducible apply State.Keeps.foldl2 | with_reducible apply State.Keeps.foldl22
    | simp only [↓State.Keeps.upd, ↓State.Keeps.updFlash, ↓State.Keeps.updPoison]
    | split
    | dsimp only

theorem State.mergeRead_keeps {orig : State} {s : State} (a : Nat) (len : Nat) (h0 : orig.Keeps s) :
    orig.Keeps (State.mergeRead s a len) := by
  unfold State.mergeRead
  repeat' first
    | with_reducible assumption
    | intro _
    | (with_reducible apply State.poisonRecord_keeps)
    | with_reducible apply State.Keeps.ite | with_reducible apply State.Keeps.ite1 | with_reducible apply State.Keeps.ite2 | with_reducible apply State.Keeps.elim
    | with_reducible apply State.Keeps.foldl | with_reducible apply State.Keeps.foldl1 | with_reducible apply State.Keeps.foldl2 | with_reducible apply State.Keeps.foldl22
    | simp only [↓State.Keeps.upd, ↓State.Keeps.updFlash, ↓State.Keeps.updPoison]
    | split
    | dsimp only

theorem State.inject_keeps {orig : State} {s : State} (a : Nat) (len : Nat) (h0 : orig.Keeps s) :
    orig.Keeps (State.inject s a len) := by
  unfold State.inject
  repeat' first
    | with_reducible assumption
    | intro _
    | (with_reducible apply State.fired_keeps) | (with_reducible apply State.markPoison_keeps)
    | with_reducible apply State.Keeps.ite | with_reducible apply State.Keeps.ite1 | with_reducible apply State.Keeps.ite2 | with_reducible apply State.Keeps.elim
    | with_reducible apply State.Keeps.foldl | with_reducible apply State.Keeps.foldl1 | with_reducible apply State.Keeps.foldl2 | with_reducible apply State.Keeps.foldl22
    | simp only [↓State.Keeps.upd, ↓State.Keeps.updFlash, ↓State.Keeps.updPoison]
    | split
    | dsimp only

theorem State.writeParts_keeps {orig : State} {s : State} (a : Nat) (bytes : List Byte) (bad : List (Nat × Nat)) (h0 : orig.Keeps s) :
    orig.Keeps (State.writeParts s a bytes bad) := by
  unfold State.writeParts
  repeat' first
    | with_reducible assumption
    | intro _
    | (with_reducible apply State.mergeRead_keeps) | (with_reducible apply State.wake_keeps) | (with_reducible apply State.inject_keeps)
    | (with_reducible apply State.markPoison_keeps) | (with_reducible apply State.putBytes_keeps)
    | with_reducible apply State.Keeps.ite | with_reducible apply State.Keeps.ite1 | with_reducible apply State.Keeps.ite2 | with_reducible apply State.Keeps.elim
    | with_reducible apply State.Keeps.foldl | with_reducible apply State.Keeps.foldl1 | with_reducible apply State.Keeps.foldl2 | with_reducible apply State.Keeps.foldl22
    | simp only [↓State.Keeps.upd, ↓State.Keeps.updFlash, ↓State.Keeps.updPoison]
    | split
    | dsimp only

theorem State.writeMem_keeps {orig : State} {s : State} (a : Nat) (bytes : List Byte) (poison : Bool) (h0 : orig.Keeps s) :
    orig.Keeps (State.writeMem s a bytes poison) := by
  unfold State.writeMem
  repeat' first
    | with_reducible assumption
    | intro _
    | (with_reducible apply State.wake_keeps) | (with_reducible apply State.inject_keeps)
    | (with_reducible apply State.markPoison_keeps) | (with_reducible apply State.putBytes_keeps)
    | (with_reducible apply State.mergeRead_keeps)
    | with_reducible apply State.Keeps.ite | with_reducible apply State.Keeps.ite1 | with_reducible apply State.Keeps.ite2 | with_reducible apply State.Keeps.elim
    | with_reducible apply State.Keeps.foldl | with_reducible apply State.Keeps.foldl1 | with_reducible apply State.Keeps.foldl2 | with_reducible apply State.Keeps.foldl22
    | simp only [↓State.Keeps.upd, ↓State.Keeps.updFlash, ↓State.Keeps.updPoison]
    | split
    | dsimp only

theorem State.writeNat_keeps {orig : State} {s : State} (a : Nat) (n : Nat) (v : Nat) (h0 : orig.Keeps s) :
    orig.Keeps (State.writeNat s a n v) := by
  unfold State.writeNat
  repeat' first
    | with_reducible assumption
    | intro _
    | (with_reducible apply State.writeMem_keeps)
    | with_reducible apply State.Keeps.ite | with_reducible apply State.Keeps.ite1 | with_reducible apply State.Keeps.ite2 | with_reducible apply State.Keeps.elim
    | with_reducible apply State.Keeps.foldl | with_reducible apply State.Keeps.foldl1 | with_reducible apply State.Keeps.foldl2 | with_reducible apply State.Keeps.foldl22
    | simp only [↓State.Keeps.upd, ↓State.Keeps.updFlash, ↓State.Keeps.updPoison]
    | split
    | dsimp only

theorem State.quickRecord_keeps {orig : State} {s : State} (d : Detection) (cls : Nat) (level : Nat) (handling : Nat) (charged : Bool) (h0 : orig.Keeps s) :
    orig.Keeps (State.quickRecord s d cls level handling charged) := by
  unfold State.quickRecord
  repeat' first
    | with_reducible assumption
    | intro _
    | (with_reducible apply State.openRecord_keeps) | (with_reducible refine State.openRecord_eq _ _ ?_ (by with_reducible assumption))
    | (with_reducible apply State.repeats_keeps) | (with_reducible apply State.chargeRec_keeps)
    | (with_reducible apply State.closeRecord_keeps)
    | with_reducible apply State.Keeps.ite | with_reducible apply State.Keeps.ite1 | with_reducible apply State.Keeps.ite2 | with_reducible apply State.Keeps.elim
    | with_reducible apply State.Keeps.foldl | with_reducible apply State.Keeps.foldl1 | with_reducible apply State.Keeps.foldl2 | with_reducible apply State.Keeps.foldl22
    | simp only [↓State.Keeps.upd, ↓State.Keeps.updFlash, ↓State.Keeps.updPoison]
    | split
    | dsimp only

end Sys2Proof.Machine
end

