-- ==== Sys2Proof/Laws/KeepOperands.lean ====
section
/-! SUPPORT. What the operations of Machine/Operands.lean keep. -/

set_option linter.all false

namespace Sys2Proof.Machine

theorem State.seqFault_keeps {orig : State} {s : State} (key : Nat) (i : Ins) (code : FaultCode) (addr : Nat) (h0 : orig.Keeps s) :
    orig.Keeps (State.seqFault s key i code addr) := by
  unfold State.seqFault
  repeat' first
    | with_reducible assumption
    | intro _
    | (with_reducible apply State.coreFault_keeps) | (with_reducible apply State.modCore_keeps)
    | with_reducible apply State.Keeps.ite | with_reducible apply State.Keeps.ite1 | with_reducible apply State.Keeps.ite2 | with_reducible apply State.Keeps.elim
    | with_reducible apply State.Keeps.foldl | with_reducible apply State.Keeps.foldl1 | with_reducible apply State.Keeps.foldl2 | with_reducible apply State.Keeps.foldl22
    | simp only [↓State.Keeps.upd, ↓State.Keeps.updFlash, ↓State.Keeps.updPoison]
    | split
    | dsimp only

theorem dispatchSeq_keeps {orig : State} (cid : CoreId) (i : Ins) (b : Body) (priv : State → Bool) (chk : State → Option (FaultCode × Nat)) (eff : Nat → State → State) {s : State} (h5 : ∀ n s, orig.Keeps s → orig.Keeps (eff n s)) (h6 : orig.Keeps s) :
    orig.Keeps (dispatchSeq cid i b priv chk eff s) := by
  unfold dispatchSeq
  repeat' first
    | with_reducible assumption
    | intro _
    | (with_reducible apply State.seqFault_keeps) | (with_reducible apply State.pmcOwn_keeps)
    | (with_reducible apply State.modCore_keeps) | (with_reducible apply h5)
    | with_reducible apply State.Keeps.ite | with_reducible apply State.Keeps.ite1 | with_reducible apply State.Keeps.ite2 | with_reducible apply State.Keeps.elim
    | with_reducible apply State.Keeps.foldl | with_reducible apply State.Keeps.foldl1 | with_reducible apply State.Keeps.foldl2 | with_reducible apply State.Keeps.foldl22
    | simp only [↓State.Keeps.upd, ↓State.Keeps.updFlash, ↓State.Keeps.updPoison]
    | split
    | dsimp only

theorem dispatchEng_keeps {orig : State} (cid : CoreId) (e : Engine) (i : Ins) (b : Body) (modOk : Bool) (priv : State → Bool) (chk : QEntry → State → Option (FaultCode × Nat)) (dest : Option Nat) {s : State} (h8 : orig.Keeps s) :
    orig.Keeps (dispatchEng cid e i b modOk priv chk dest s) := by
  unfold dispatchEng
  repeat' first
    | with_reducible assumption
    | intro _
    | (with_reducible apply State.seqFault_keeps) | (with_reducible apply State.pmcOwn_keeps)
    | (with_reducible apply State.modCore_keeps)
    | with_reducible apply State.Keeps.ite | with_reducible apply State.Keeps.ite1 | with_reducible apply State.Keeps.ite2 | with_reducible apply State.Keeps.elim
    | with_reducible apply State.Keeps.foldl | with_reducible apply State.Keeps.foldl1 | with_reducible apply State.Keeps.foldl2 | with_reducible apply State.Keeps.foldl22
    | simp only [↓State.Keeps.upd, ↓State.Keeps.updFlash, ↓State.Keeps.updPoison]
    | split
    | dsimp only

theorem State.instrEv_keeps {orig : State} {s : State} (key : Nat) (fm : IFmt) (b : Body) (cls : Nat) (op : Nat) (pc : Nat) (addr : Nat) (h0 : orig.Keeps s) :
    orig.Keeps (State.instrEv s key fm b cls op pc addr) := by
  unfold State.instrEv
  repeat' first
    | with_reducible assumption
    | intro _
    | (with_reducible apply State.evAdd_keeps)
    | with_reducible apply State.Keeps.ite | with_reducible apply State.Keeps.ite1 | with_reducible apply State.Keeps.ite2 | with_reducible apply State.Keeps.elim
    | with_reducible apply State.Keeps.foldl | with_reducible apply State.Keeps.foldl1 | with_reducible apply State.Keeps.foldl2 | with_reducible apply State.Keeps.foldl22
    | simp only [↓State.Keeps.upd, ↓State.Keeps.updFlash, ↓State.Keeps.updPoison]
    | split
    | dsimp only

theorem State.writePend_keeps {orig : State} {s : State} (key : Nat) (r : Nat) (v : Word) (h0 : orig.Keeps s) :
    orig.Keeps (State.writePend s key r v) := by
  unfold State.writePend
  repeat' first
    | with_reducible assumption
    | intro _
    | (with_reducible apply State.modCore_keeps)
    | with_reducible apply State.Keeps.ite | with_reducible apply State.Keeps.ite1 | with_reducible apply State.Keeps.ite2 | with_reducible apply State.Keeps.elim
    | with_reducible apply State.Keeps.foldl | with_reducible apply State.Keeps.foldl1 | with_reducible apply State.Keeps.foldl2 | with_reducible apply State.Keeps.foldl22
    | simp only [↓State.Keeps.upd, ↓State.Keeps.updFlash, ↓State.Keeps.updPoison]
    | split
    | dsimp only

theorem State.wr_keeps {orig : State} {s : State} (key : Nat) (fm : IFmt) (b : Body) (i : Nat) (v : Word) (h0 : orig.Keeps s) :
    orig.Keeps (State.wr s key fm b i v) := by
  unfold State.wr
  repeat' first
    | with_reducible assumption
    | intro _
    | (with_reducible apply State.modCore_keeps)
    | with_reducible apply State.Keeps.ite | with_reducible apply State.Keeps.ite1 | with_reducible apply State.Keeps.ite2 | with_reducible apply State.Keeps.elim
    | with_reducible apply State.Keeps.foldl | with_reducible apply State.Keeps.foldl1 | with_reducible apply State.Keeps.foldl2 | with_reducible apply State.Keeps.foldl22
    | simp only [↓State.Keeps.upd, ↓State.Keeps.updFlash, ↓State.Keeps.updPoison]
    | split
    | dsimp only

theorem State.wp_keeps {orig : State} {s : State} (key : Nat) (fm : IFmt) (b : Body) (i : Nat) (v : Bool) (h0 : orig.Keeps s) :
    orig.Keeps (State.wp s key fm b i v) := by
  unfold State.wp
  repeat' first
    | with_reducible assumption
    | intro _
    | (with_reducible apply State.modCore_keeps)
    | with_reducible apply State.Keeps.ite | with_reducible apply State.Keeps.ite1 | with_reducible apply State.Keeps.ite2 | with_reducible apply State.Keeps.elim
    | with_reducible apply State.Keeps.foldl | with_reducible apply State.Keeps.foldl1 | with_reducible apply State.Keeps.foldl2 | with_reducible apply State.Keeps.foldl22
    | simp only [↓State.Keeps.upd, ↓State.Keeps.updFlash, ↓State.Keeps.updPoison]
    | split
    | dsimp only

end Sys2Proof.Machine
end

