-- ==== Sys2Proof/Laws/KeepFlags.lean ====
section
/-! SUPPORT. What the operations of Machine/Flags.lean keep. -/

set_option linter.all false

namespace Sys2Proof.Machine

theorem State.numFlags_keeps {orig : State} {s : State} (n : Nat) (sat : Bool) (nan : Bool) (h0 : orig.Keeps s) :
    orig.Keeps (State.numFlags s n sat nan) := by
  unfold State.numFlags
  repeat' first
    | with_reducible assumption
    | intro _
    | (with_reducible apply State.flagIf_keeps)
    | with_reducible apply State.Keeps.ite | with_reducible apply State.Keeps.ite1 | with_reducible apply State.Keeps.ite2 | with_reducible apply State.Keeps.elim
    | with_reducible apply State.Keeps.foldl | with_reducible apply State.Keeps.foldl1 | with_reducible apply State.Keeps.foldl2 | with_reducible apply State.Keeps.foldl22
    | simp only [↓State.Keeps.upd, ↓State.Keeps.updFlash, ↓State.Keeps.updPoison]
    | split
    | dsimp only

theorem State.ovfInf_keeps {orig : State} {s : State} (n : Nat) (b : Bool) (h0 : orig.Keeps s) :
    orig.Keeps (State.ovfInf s n b) := by
  unfold State.ovfInf
  repeat' first
    | with_reducible assumption
    | intro _
    | (with_reducible apply State.flagIf_keeps)
    | with_reducible apply State.Keeps.ite | with_reducible apply State.Keeps.ite1 | with_reducible apply State.Keeps.ite2 | with_reducible apply State.Keeps.elim
    | with_reducible apply State.Keeps.foldl | with_reducible apply State.Keeps.foldl1 | with_reducible apply State.Keeps.foldl2 | with_reducible apply State.Keeps.foldl22
    | simp only [↓State.Keeps.upd, ↓State.Keeps.updFlash, ↓State.Keeps.updPoison]
    | split
    | dsimp only

theorem State.replayed_keeps {orig : State} {s : State} (n : Nat) (shift : Nat) (h0 : orig.Keeps s) :
    orig.Keeps (State.replayed s n shift) := by
  unfold State.replayed
  repeat' first
    | with_reducible assumption
    | intro _
    | (with_reducible apply State.bump_keeps) | (with_reducible apply State.setFld_keeps) | (with_reducible apply State.flagIf_keeps)
    | with_reducible apply State.Keeps.ite | with_reducible apply State.Keeps.ite1 | with_reducible apply State.Keeps.ite2 | with_reducible apply State.Keeps.elim
    | with_reducible apply State.Keeps.foldl | with_reducible apply State.Keeps.foldl1 | with_reducible apply State.Keeps.foldl2 | with_reducible apply State.Keeps.foldl22
    | simp only [↓State.Keeps.upd, ↓State.Keeps.updFlash, ↓State.Keeps.updPoison]
    | split
    | dsimp only

theorem State.unchecked_keeps {orig : State} {s : State} (n : Nat) (k : Nat) (h0 : orig.Keeps s) :
    orig.Keeps (State.unchecked s n k) := by
  unfold State.unchecked
  repeat' first
    | with_reducible assumption
    | intro _
    | (with_reducible apply State.bump_keeps)
    | with_reducible apply State.Keeps.ite | with_reducible apply State.Keeps.ite1 | with_reducible apply State.Keeps.ite2 | with_reducible apply State.Keeps.elim
    | with_reducible apply State.Keeps.foldl | with_reducible apply State.Keeps.foldl1 | with_reducible apply State.Keeps.foldl2 | with_reducible apply State.Keeps.foldl22
    | simp only [↓State.Keeps.upd, ↓State.Keeps.updFlash, ↓State.Keeps.updPoison]
    | split
    | dsimp only

theorem State.mismatch_keeps {orig : State} {s : State} (n : Nat) (h0 : orig.Keeps s) :
    orig.Keeps (State.mismatch s n) := by
  unfold State.mismatch
  repeat' first
    | with_reducible assumption
    | intro _
    | (with_reducible apply State.setFld_keeps) | (with_reducible apply State.bump_keeps)
    | with_reducible apply State.Keeps.ite | with_reducible apply State.Keeps.ite1 | with_reducible apply State.Keeps.ite2 | with_reducible apply State.Keeps.elim
    | with_reducible apply State.Keeps.foldl | with_reducible apply State.Keeps.foldl1 | with_reducible apply State.Keeps.foldl2 | with_reducible apply State.Keeps.foldl22
    | simp only [↓State.Keeps.upd, ↓State.Keeps.updFlash, ↓State.Keeps.updPoison]
    | split
    | dsimp only

theorem State.vxFlags_keeps {orig : State} {s : State} (n : Nat) (empty : Nat) (cntSat : Bool) (h0 : orig.Keeps s) :
    orig.Keeps (State.vxFlags s n empty cntSat) := by
  unfold State.vxFlags
  repeat' first
    | with_reducible assumption
    | intro _
    | (with_reducible apply State.setFld_keeps) | (with_reducible apply State.bump_keeps) | (with_reducible apply State.flagIf_keeps)
    | with_reducible apply State.Keeps.ite | with_reducible apply State.Keeps.ite1 | with_reducible apply State.Keeps.ite2 | with_reducible apply State.Keeps.elim
    | with_reducible apply State.Keeps.foldl | with_reducible apply State.Keeps.foldl1 | with_reducible apply State.Keeps.foldl2 | with_reducible apply State.Keeps.foldl22
    | simp only [↓State.Keeps.upd, ↓State.Keeps.updFlash, ↓State.Keeps.updPoison]
    | split
    | dsimp only

end Sys2Proof.Machine
end

