-- ==== Sys2Proof/Laws/KeepScalar.lean ====
section
/-! SUPPORT. What the operations of Machine/Scalar.lean keep. -/

set_option linter.all false

namespace Sys2Proof.Machine

theorem intRR_keeps {orig : State} (op : Nat) (f : Word → Word → Word) (cid : CoreId) (b : Body) {s : State} (h4 : orig.Keeps s) :
    orig.KeepsOut (intRR op f cid b s) := by
  unfold intRR
  repeat' first
    | with_reducible assumption
    | intro _
    | with_reducible apply State.KeepsOut.next
    | (with_reducible apply dispatchSeq_keeps) | (with_reducible apply State.wr_keeps)
    | with_reducible apply State.Keeps.ite | with_reducible apply State.Keeps.ite1 | with_reducible apply State.Keeps.ite2 | with_reducible apply State.Keeps.elim
    | with_reducible apply State.Keeps.foldl | with_reducible apply State.Keeps.foldl1 | with_reducible apply State.Keeps.foldl2 | with_reducible apply State.Keeps.foldl22
    | simp only [↓State.Keeps.upd, ↓State.Keeps.updFlash, ↓State.Keeps.updPoison]
    | split
    | dsimp only

theorem intR_keeps {orig : State} (op : Nat) (f : Word → Word) (cid : CoreId) (b : Body) {s : State} (h4 : orig.Keeps s) :
    orig.KeepsOut (intR op f cid b s) := by
  unfold intR
  repeat' first
    | with_reducible assumption
    | intro _
    | with_reducible apply State.KeepsOut.next
    | (with_reducible apply dispatchSeq_keeps) | (with_reducible apply State.wr_keeps)
    | with_reducible apply State.Keeps.ite | with_reducible apply State.Keeps.ite1 | with_reducible apply State.Keeps.ite2 | with_reducible apply State.Keeps.elim
    | with_reducible apply State.Keeps.foldl | with_reducible apply State.Keeps.foldl1 | with_reducible apply State.Keeps.foldl2 | with_reducible apply State.Keeps.foldl22
    | simp only [↓State.Keeps.upd, ↓State.Keeps.updFlash, ↓State.Keeps.updPoison]
    | split
    | dsimp only

theorem intRI_keeps {orig : State} (op : Nat) (f : Word → Word → Word) (cid : CoreId) (b : Body) {s : State} (h4 : orig.Keeps s) :
    orig.KeepsOut (intRI op f cid b s) := by
  unfold intRI
  repeat' first
    | with_reducible assumption
    | intro _
    | with_reducible apply State.KeepsOut.next
    | (with_reducible apply dispatchSeq_keeps) | (with_reducible apply State.wr_keeps)
    | with_reducible apply State.Keeps.ite | with_reducible apply State.Keeps.ite1 | with_reducible apply State.Keeps.ite2 | with_reducible apply State.Keeps.elim
    | with_reducible apply State.Keeps.foldl | with_reducible apply State.Keeps.foldl1 | with_reducible apply State.Keeps.foldl2 | with_reducible apply State.Keeps.foldl22
    | simp only [↓State.Keeps.upd, ↓State.Keeps.updFlash, ↓State.Keeps.updPoison]
    | split
    | dsimp only

theorem execAdd_keeps {orig : State} (cid : CoreId) (b : Body) {s : State} (h2 : orig.Keeps s) :
    orig.KeepsOut (execAdd cid b s) := by
  unfold execAdd
  repeat' first
    | with_reducible assumption
    | intro _
    | with_reducible apply State.KeepsOut.next
    | (with_reducible apply intRR_keeps)
    | with_reducible apply State.Keeps.ite | with_reducible apply State.Keeps.ite1 | with_reducible apply State.Keeps.ite2 | with_reducible apply State.Keeps.elim
    | with_reducible apply State.Keeps.foldl | with_reducible apply State.Keeps.foldl1 | with_reducible apply State.Keeps.foldl2 | with_reducible apply State.Keeps.foldl22
    | simp only [↓State.Keeps.upd, ↓State.Keeps.updFlash, ↓State.Keeps.updPoison]
    | split
    | dsimp only

theorem execSub_keeps {orig : State} (cid : CoreId) (b : Body) {s : State} (h2 : orig.Keeps s) :
    orig.KeepsOut (execSub cid b s) := by
  unfold execSub
  repeat' first
    | with_reducible assumption
    | intro _
    | with_reducible apply State.KeepsOut.next
    | (with_reducible apply intRR_keeps)
    | with_reducible apply State.Keeps.ite | with_reducible apply State.Keeps.ite1 | with_reducible apply State.Keeps.ite2 | with_reducible apply State.Keeps.elim
    | with_reducible apply State.Keeps.foldl | with_reducible apply State.Keeps.foldl1 | with_reducible apply State.Keeps.foldl2 | with_reducible apply State.Keeps.foldl22
    | simp only [↓State.Keeps.upd, ↓State.Keeps.updFlash, ↓State.Keeps.updPoison]
    | split
    | dsimp only

theorem execMul_keeps {orig : State} (cid : CoreId) (b : Body) {s : State} (h2 : orig.Keeps s) :
    orig.KeepsOut (execMul cid b s) := by
  unfold execMul
  repeat' first
    | with_reducible assumption
    | intro _
    | with_reducible apply State.KeepsOut.next
    | (with_reducible apply intRR_keeps)
    | with_reducible apply State.Keeps.ite | with_reducible apply State.Keeps.ite1 | with_reducible apply State.Keeps.ite2 | with_reducible apply State.Keeps.elim
    | with_reducible apply State.Keeps.foldl | with_reducible apply State.Keeps.foldl1 | with_reducible apply State.Keeps.foldl2 | with_reducible apply State.Keeps.foldl22
    | simp only [↓State.Keeps.upd, ↓State.Keeps.updFlash, ↓State.Keeps.updPoison]
    | split
    | dsimp only

theorem execMulhS_keeps {orig : State} (cid : CoreId) (b : Body) {s : State} (h2 : orig.Keeps s) :
    orig.KeepsOut (execMulhS cid b s) := by
  unfold execMulhS
  repeat' first
    | with_reducible assumption
    | intro _
    | with_reducible apply State.KeepsOut.next
    | (with_reducible apply intRR_keeps)
    | with_reducible apply State.Keeps.ite | with_reducible apply State.Keeps.ite1 | with_reducible apply State.Keeps.ite2 | with_reducible apply State.Keeps.elim
    | with_reducible apply State.Keeps.foldl | with_reducible apply State.Keeps.foldl1 | with_reducible apply State.Keeps.foldl2 | with_reducible apply State.Keeps.foldl22
    | simp only [↓State.Keeps.upd, ↓State.Keeps.updFlash, ↓State.Keeps.updPoison]
    | split
    | dsimp only

theorem execMulhU_keeps {orig : State} (cid : CoreId) (b : Body) {s : State} (h2 : orig.Keeps s) :
    orig.KeepsOut (execMulhU cid b s) := by
  unfold execMulhU
  repeat' first
    | with_reducible assumption
    | intro _
    | with_reducible apply State.KeepsOut.next
    | (with_reducible apply intRR_keeps)
    | with_reducible apply State.Keeps.ite | with_reducible apply State.Keeps.ite1 | with_reducible apply State.Keeps.ite2 | with_reducible apply State.Keeps.elim
    | with_reducible apply State.Keeps.foldl | with_reducible apply State.Keeps.foldl1 | with_reducible apply State.Keeps.foldl2 | with_reducible apply State.Keeps.foldl22
    | simp only [↓State.Keeps.upd, ↓State.Keeps.updFlash, ↓State.Keeps.updPoison]
    | split
    | dsimp only

theorem execDivS_keeps {orig : State} (cid : CoreId) (b : Body) {s : State} (h2 : orig.Keeps s) :
    orig.KeepsOut (execDivS cid b s) := by
  unfold execDivS
  repeat' first
    | with_reducible assumption
    | intro _
    | with_reducible apply State.KeepsOut.next
    | (with_reducible apply intRR_keeps)
    | with_reducible apply State.Keeps.ite | with_reducible apply State.Keeps.ite1 | with_reducible apply State.Keeps.ite2 | with_reducible apply State.Keeps.elim
    | with_reducible apply State.Keeps.foldl | with_reducible apply State.Keeps.foldl1 | with_reducible apply State.Keeps.foldl2 | with_reducible apply State.Keeps.foldl22
    | simp only [↓State.Keeps.upd, ↓State.Keeps.updFlash, ↓State.Keeps.updPoison]
    | split
    | dsimp only

theorem execDivU_keeps {orig : State} (cid : CoreId) (b : Body) {s : State} (h2 : orig.Keeps s) :
    orig.KeepsOut (execDivU cid b s) := by
  unfold execDivU
  repeat' first
    | with_reducible assumption
    | intro _
    | with_reducible apply State.KeepsOut.next
    | (with_reducible apply intRR_keeps)
    | with_reducible apply State.Keeps.ite | with_reducible apply State.Keeps.ite1 | with_reducible apply State.Keeps.ite2 | with_reducible apply State.Keeps.elim
    | with_reducible apply State.Keeps.foldl | with_reducible apply State.Keeps.foldl1 | with_reducible apply State.Keeps.foldl2 | with_reducible apply State.Keeps.foldl22
    | simp only [↓State.Keeps.upd, ↓State.Keeps.updFlash, ↓State.Keeps.updPoison]
    | split
    | dsimp only

theorem execRemS_keeps {orig : State} (cid : CoreId) (b : Body) {s : State} (h2 : orig.Keeps s) :
    orig.KeepsOut (execRemS cid b s) := by
  unfold execRemS
  repeat' first
    | with_reducible assumption
    | intro _
    | with_reducible apply State.KeepsOut.next
    | (with_reducible apply intRR_keeps)
    | with_reducible apply State.Keeps.ite | with_reducible apply State.Keeps.ite1 | with_reducible apply State.Keeps.ite2 | with_reducible apply State.Keeps.elim
    | with_reducible apply State.Keeps.foldl | with_reducible apply State.Keeps.foldl1 | with_reducible apply State.Keeps.foldl2 | with_reducible apply State.Keeps.foldl22
    | simp only [↓State.Keeps.upd, ↓State.Keeps.updFlash, ↓State.Keeps.updPoison]
    | split
    | dsimp only

theorem execRemU_keeps {orig : State} (cid : CoreId) (b : Body) {s : State} (h2 : orig.Keeps s) :
    orig.KeepsOut (execRemU cid b s) := by
  unfold execRemU
  repeat' first
    | with_reducible assumption
    | intro _
    | with_reducible apply State.KeepsOut.next
    | (with_reducible apply intRR_keeps)
    | with_reducible apply State.Keeps.ite | with_reducible apply State.Keeps.ite1 | with_reducible apply State.Keeps.ite2 | with_reducible apply State.Keeps.elim
    | with_reducible apply State.Keeps.foldl | with_reducible apply State.Keeps.foldl1 | with_reducible apply State.Keeps.foldl2 | with_reducible apply State.Keeps.foldl22
    | simp only [↓State.Keeps.upd, ↓State.Keeps.updFlash, ↓State.Keeps.updPoison]
    | split
    | dsimp only

theorem execAnd_keeps {orig : State} (cid : CoreId) (b : Body) {s : State} (h2 : orig.Keeps s) :
    orig.KeepsOut (execAnd cid b s) := by
  unfold execAnd
  repeat' first
    | with_reducible assumption
    | intro _
    | with_reducible apply State.KeepsOut.next
    | (with_reducible apply intRR_keeps)
    | with_reducible apply State.Keeps.ite | with_reducible apply State.Keeps.ite1 | with_reducible apply State.Keeps.ite2 | with_reducible apply State.Keeps.elim
    | with_reducible apply State.Keeps.foldl | with_reducible apply State.Keeps.foldl1 | with_reducible apply State.Keeps.foldl2 | with_reducible apply State.Keeps.foldl22
    | simp only [↓State.Keeps.upd, ↓State.Keeps.updFlash, ↓State.Keeps.updPoison]
    | split
    | dsimp only

theorem execOr_keeps {orig : State} (cid : CoreId) (b : Body) {s : State} (h2 : orig.Keeps s) :
    orig.KeepsOut (execOr cid b s) := by
  unfold execOr
  repeat' first
    | with_reducible assumption
    | intro _
    | with_reducible apply State.KeepsOut.next
    | (with_reducible apply intRR_keeps)
    | with_reducible apply State.Keeps.ite | with_reducible apply State.Keeps.ite1 | with_reducible apply State.Keeps.ite2 | with_reducible apply State.Keeps.elim
    | with_reducible apply State.Keeps.foldl | with_reducible apply State.Keeps.foldl1 | with_reducible apply State.Keeps.foldl2 | with_reducible apply State.Keeps.foldl22
    | simp only [↓State.Keeps.upd, ↓State.Keeps.updFlash, ↓State.Keeps.updPoison]
    | split
    | dsimp only

theorem execXor_keeps {orig : State} (cid : CoreId) (b : Body) {s : State} (h2 : orig.Keeps s) :
    orig.KeepsOut (execXor cid b s) := by
  unfold execXor
  repeat' first
    | with_reducible assumption
    | intro _
    | with_reducible apply State.KeepsOut.next
    | (with_reducible apply intRR_keeps)
    | with_reducible apply State.Keeps.ite | with_reducible apply State.Keeps.ite1 | with_reducible apply State.Keeps.ite2 | with_reducible apply State.Keeps.elim
    | with_reducible apply State.Keeps.foldl | with_reducible apply State.Keeps.foldl1 | with_reducible apply State.Keeps.foldl2 | with_reducible apply State.Keeps.foldl22
    | simp only [↓State.Keeps.upd, ↓State.Keeps.updFlash, ↓State.Keeps.updPoison]
    | split
    | dsimp only

theorem execShl_keeps {orig : State} (cid : CoreId) (b : Body) {s : State} (h2 : orig.Keeps s) :
    orig.KeepsOut (execShl cid b s) := by
  unfold execShl
  repeat' first
    | with_reducible assumption
    | intro _
    | with_reducible apply State.KeepsOut.next
    | (with_reducible apply intRR_keeps)
    | with_reducible apply State.Keeps.ite | with_reducible apply State.Keeps.ite1 | with_reducible apply State.Keeps.ite2 | with_reducible apply State.Keeps.elim
    | with_reducible apply State.Keeps.foldl | with_reducible apply State.Keeps.foldl1 | with_reducible apply State.Keeps.foldl2 | with_reducible apply State.Keeps.foldl22
    | simp only [↓State.Keeps.upd, ↓State.Keeps.updFlash, ↓State.Keeps.updPoison]
    | split
    | dsimp only

theorem execShr_keeps {orig : State} (cid : CoreId) (b : Body) {s : State} (h2 : orig.Keeps s) :
    orig.KeepsOut (execShr cid b s) := by
  unfold execShr
  repeat' first
    | with_reducible assumption
    | intro _
    | with_reducible apply State.KeepsOut.next
    | (with_reducible apply intRR_keeps)
    | with_reducible apply State.Keeps.ite | with_reducible apply State.Keeps.ite1 | with_reducible apply State.Keeps.ite2 | with_reducible apply State.Keeps.elim
    | with_reducible apply State.Keeps.foldl | with_reducible apply State.Keeps.foldl1 | with_reducible apply State.Keeps.foldl2 | with_reducible apply State.Keeps.foldl22
    | simp only [↓State.Keeps.upd, ↓State.Keeps.updFlash, ↓State.Keeps.updPoison]
    | split
    | dsimp only

theorem execSra_keeps {orig : State} (cid : CoreId) (b : Body) {s : State} (h2 : orig.Keeps s) :
    orig.KeepsOut (execSra cid b s) := by
  unfold execSra
  repeat' first
    | with_reducible assumption
    | intro _
    | with_reducible apply State.KeepsOut.next
    | (with_reducible apply intRR_keeps)
    | with_reducible apply State.Keeps.ite | with_reducible apply State.Keeps.ite1 | with_reducible apply State.Keeps.ite2 | with_reducible apply State.Keeps.elim
    | with_reducible apply State.Keeps.foldl | with_reducible apply State.Keeps.foldl1 | with_reducible apply State.Keeps.foldl2 | with_reducible apply State.Keeps.foldl22
    | simp only [↓State.Keeps.upd, ↓State.Keeps.updFlash, ↓State.Keeps.updPoison]
    | split
    | dsimp only

theorem execMinS_keeps {orig : State} (cid : CoreId) (b : Body) {s : State} (h2 : orig.Keeps s) :
    orig.KeepsOut (execMinS cid b s) := by
  unfold execMinS
  repeat' first
    | with_reducible assumption
    | intro _
    | with_reducible apply State.KeepsOut.next
    | (with_reducible apply intRR_keeps)
    | with_reducible apply State.Keeps.ite | with_reducible apply State.Keeps.ite1 | with_reducible apply State.Keeps.ite2 | with_reducible apply State.Keeps.elim
    | with_reducible apply State.Keeps.foldl | with_reducible apply State.Keeps.foldl1 | with_reducible apply State.Keeps.foldl2 | with_reducible apply State.Keeps.foldl22
    | simp only [↓State.Keeps.upd, ↓State.Keeps.updFlash, ↓State.Keeps.updPoison]
    | split
    | dsimp only

theorem execMaxS_keeps {orig : State} (cid : CoreId) (b : Body) {s : State} (h2 : orig.Keeps s) :
    orig.KeepsOut (execMaxS cid b s) := by
  unfold execMaxS
  repeat' first
    | with_reducible assumption
    | intro _
    | with_reducible apply State.KeepsOut.next
    | (with_reducible apply intRR_keeps)
    | with_reducible apply State.Keeps.ite | with_reducible apply State.Keeps.ite1 | with_reducible apply State.Keeps.ite2 | with_reducible apply State.Keeps.elim
    | with_reducible apply State.Keeps.foldl | with_reducible apply State.Keeps.foldl1 | with_reducible apply State.Keeps.foldl2 | with_reducible apply State.Keeps.foldl22
    | simp only [↓State.Keeps.upd, ↓State.Keeps.updFlash, ↓State.Keeps.updPoison]
    | split
    | dsimp only

theorem execMinU_keeps {orig : State} (cid : CoreId) (b : Body) {s : State} (h2 : orig.Keeps s) :
    orig.KeepsOut (execMinU cid b s) := by
  unfold execMinU
  repeat' first
    | with_reducible assumption
    | intro _
    | with_reducible apply State.KeepsOut.next
    | (with_reducible apply intRR_keeps)
    | with_reducible apply State.Keeps.ite | with_reducible apply State.Keeps.ite1 | with_reducible apply State.Keeps.ite2 | with_reducible apply State.Keeps.elim
    | with_reducible apply State.Keeps.foldl | with_reducible apply State.Keeps.foldl1 | with_reducible apply State.Keeps.foldl2 | with_reducible apply State.Keeps.foldl22
    | simp only [↓State.Keeps.upd, ↓State.Keeps.updFlash, ↓State.Keeps.updPoison]
    | split
    | dsimp only

theorem execMaxU_keeps {orig : State} (cid : CoreId) (b : Body) {s : State} (h2 : orig.Keeps s) :
    orig.KeepsOut (execMaxU cid b s) := by
  unfold execMaxU
  repeat' first
    | with_reducible assumption
    | intro _
    | with_reducible apply State.KeepsOut.next
    | (with_reducible apply intRR_keeps)
    | with_reducible apply State.Keeps.ite | with_reducible apply State.Keeps.ite1 | with_reducible apply State.Keeps.ite2 | with_reducible apply State.Keeps.elim
    | with_reducible apply State.Keeps.foldl | with_reducible apply State.Keeps.foldl1 | with_reducible apply State.Keeps.foldl2 | with_reducible apply State.Keeps.foldl22
    | simp only [↓State.Keeps.upd, ↓State.Keeps.updFlash, ↓State.Keeps.updPoison]
    | split
    | dsimp only

theorem execClz_keeps {orig : State} (cid : CoreId) (b : Body) {s : State} (h2 : orig.Keeps s) :
    orig.KeepsOut (execClz cid b s) := by
  unfold execClz
  repeat' first
    | with_reducible assumption
    | intro _
    | with_reducible apply State.KeepsOut.next
    | (with_reducible apply intR_keeps)
    | with_reducible apply State.Keeps.ite | with_reducible apply State.Keeps.ite1 | with_reducible apply State.Keeps.ite2 | with_reducible apply State.Keeps.elim
    | with_reducible apply State.Keeps.foldl | with_reducible apply State.Keeps.foldl1 | with_reducible apply State.Keeps.foldl2 | with_reducible apply State.Keeps.foldl22
    | simp only [↓State.Keeps.upd, ↓State.Keeps.updFlash, ↓State.Keeps.updPoison]
    | split
    | dsimp only

theorem execPopc_keeps {orig : State} (cid : CoreId) (b : Body) {s : State} (h2 : orig.Keeps s) :
    orig.KeepsOut (execPopc cid b s) := by
  unfold execPopc
  repeat' first
    | with_reducible assumption
    | intro _
    | with_reducible apply State.KeepsOut.next
    | (with_reducible apply intR_keeps)
    | with_reducible apply State.Keeps.ite | with_reducible apply State.Keeps.ite1 | with_reducible apply State.Keeps.ite2 | with_reducible apply State.Keeps.elim
    | with_reducible apply State.Keeps.foldl | with_reducible apply State.Keeps.foldl1 | with_reducible apply State.Keeps.foldl2 | with_reducible apply State.Keeps.foldl22
    | simp only [↓State.Keeps.upd, ↓State.Keeps.updFlash, ↓State.Keeps.updPoison]
    | split
    | dsimp only

theorem execAddi_keeps {orig : State} (cid : CoreId) (b : Body) {s : State} (h2 : orig.Keeps s) :
    orig.KeepsOut (execAddi cid b s) := by
  unfold execAddi
  repeat' first
    | with_reducible assumption
    | intro _
    | with_reducible apply State.KeepsOut.next
    | (with_reducible apply intRI_keeps)
    | with_reducible apply State.Keeps.ite | with_reducible apply State.Keeps.ite1 | with_reducible apply State.Keeps.ite2 | with_reducible apply State.Keeps.elim
    | with_reducible apply State.Keeps.foldl | with_reducible apply State.Keeps.foldl1 | with_reducible apply State.Keeps.foldl2 | with_reducible apply State.Keeps.foldl22
    | simp only [↓State.Keeps.upd, ↓State.Keeps.updFlash, ↓State.Keeps.updPoison]
    | split
    | dsimp only

theorem execAndi_keeps {orig : State} (cid : CoreId) (b : Body) {s : State} (h2 : orig.Keeps s) :
    orig.KeepsOut (execAndi cid b s) := by
  unfold execAndi
  repeat' first
    | with_reducible assumption
    | intro _
    | with_reducible apply State.KeepsOut.next
    | (with_reducible apply intRI_keeps)
    | with_reducible apply State.Keeps.ite | with_reducible apply State.Keeps.ite1 | with_reducible apply State.Keeps.ite2 | with_reducible apply State.Keeps.elim
    | with_reducible apply State.Keeps.foldl | with_reducible apply State.Keeps.foldl1 | with_reducible apply State.Keeps.foldl2 | with_reducible apply State.Keeps.foldl22
    | simp only [↓State.Keeps.upd, ↓State.Keeps.updFlash, ↓State.Keeps.updPoison]
    | split
    | dsimp only

theorem execOri_keeps {orig : State} (cid : CoreId) (b : Body) {s : State} (h2 : orig.Keeps s) :
    orig.KeepsOut (execOri cid b s) := by
  unfold execOri
  repeat' first
    | with_reducible assumption
    | intro _
    | with_reducible apply State.KeepsOut.next
    | (with_reducible apply intRI_keeps)
    | with_reducible apply State.Keeps.ite | with_reducible apply State.Keeps.ite1 | with_reducible apply State.Keeps.ite2 | with_reducible apply State.Keeps.elim
    | with_reducible apply State.Keeps.foldl | with_reducible apply State.Keeps.foldl1 | with_reducible apply State.Keeps.foldl2 | with_reducible apply State.Keeps.foldl22
    | simp only [↓State.Keeps.upd, ↓State.Keeps.updFlash, ↓State.Keeps.updPoison]
    | split
    | dsimp only

theorem execXori_keeps {orig : State} (cid : CoreId) (b : Body) {s : State} (h2 : orig.Keeps s) :
    orig.KeepsOut (execXori cid b s) := by
  unfold execXori
  repeat' first
    | with_reducible assumption
    | intro _
    | with_reducible apply State.KeepsOut.next
    | (with_reducible apply intRI_keeps)
    | with_reducible apply State.Keeps.ite | with_reducible apply State.Keeps.ite1 | with_reducible apply State.Keeps.ite2 | with_reducible apply State.Keeps.elim
    | with_reducible apply State.Keeps.foldl | with_reducible apply State.Keeps.foldl1 | with_reducible apply State.Keeps.foldl2 | with_reducible apply State.Keeps.foldl22
    | simp only [↓State.Keeps.upd, ↓State.Keeps.updFlash, ↓State.Keeps.updPoison]
    | split
    | dsimp only

theorem execShli_keeps {orig : State} (cid : CoreId) (b : Body) {s : State} (h2 : orig.Keeps s) :
    orig.KeepsOut (execShli cid b s) := by
  unfold execShli
  repeat' first
    | with_reducible assumption
    | intro _
    | with_reducible apply State.KeepsOut.next
    | (with_reducible apply intRI_keeps)
    | with_reducible apply State.Keeps.ite | with_reducible apply State.Keeps.ite1 | with_reducible apply State.Keeps.ite2 | with_reducible apply State.Keeps.elim
    | with_reducible apply State.Keeps.foldl | with_reducible apply State.Keeps.foldl1 | with_reducible apply State.Keeps.foldl2 | with_reducible apply State.Keeps.foldl22
    | simp only [↓State.Keeps.upd, ↓State.Keeps.updFlash, ↓State.Keeps.updPoison]
    | split
    | dsimp only

theorem execShri_keeps {orig : State} (cid : CoreId) (b : Body) {s : State} (h2 : orig.Keeps s) :
    orig.KeepsOut (execShri cid b s) := by
  unfold execShri
  repeat' first
    | with_reducible assumption
    | intro _
    | with_reducible apply State.KeepsOut.next
    | (with_reducible apply intRI_keeps)
    | with_reducible apply State.Keeps.ite | with_reducible apply State.Keeps.ite1 | with_reducible apply State.Keeps.ite2 | with_reducible apply State.Keeps.elim
    | with_reducible apply State.Keeps.foldl | with_reducible apply State.Keeps.foldl1 | with_reducible apply State.Keeps.foldl2 | with_reducible apply State.Keeps.foldl22
    | simp only [↓State.Keeps.upd, ↓State.Keeps.updFlash, ↓State.Keeps.updPoison]
    | split
    | dsimp only

theorem execSrai_keeps {orig : State} (cid : CoreId) (b : Body) {s : State} (h2 : orig.Keeps s) :
    orig.KeepsOut (execSrai cid b s) := by
  unfold execSrai
  repeat' first
    | with_reducible assumption
    | intro _
    | with_reducible apply State.KeepsOut.next
    | (with_reducible apply intRI_keeps)
    | with_reducible apply State.Keeps.ite | with_reducible apply State.Keeps.ite1 | with_reducible apply State.Keeps.ite2 | with_reducible apply State.Keeps.elim
    | with_reducible apply State.Keeps.foldl | with_reducible apply State.Keeps.foldl1 | with_reducible apply State.Keeps.foldl2 | with_reducible apply State.Keeps.foldl22
    | simp only [↓State.Keeps.upd, ↓State.Keeps.updFlash, ↓State.Keeps.updPoison]
    | split
    | dsimp only

theorem execLi_keeps {orig : State} (cid : CoreId) (b : Body) {s : State} (h2 : orig.Keeps s) :
    orig.KeepsOut (execLi cid b s) := by
  unfold execLi
  repeat' first
    | with_reducible assumption
    | intro _
    | with_reducible apply State.KeepsOut.next
    | (with_reducible apply dispatchSeq_keeps) | (with_reducible apply State.wr_keeps)
    | with_reducible apply State.Keeps.ite | with_reducible apply State.Keeps.ite1 | with_reducible apply State.Keeps.ite2 | with_reducible apply State.Keeps.elim
    | with_reducible apply State.Keeps.foldl | with_reducible apply State.Keeps.foldl1 | with_reducible apply State.Keeps.foldl2 | with_reducible apply State.Keeps.foldl22
    | simp only [↓State.Keeps.upd, ↓State.Keeps.updFlash, ↓State.Keeps.updPoison]
    | split
    | dsimp only

theorem execLih_keeps {orig : State} (cid : CoreId) (b : Body) {s : State} (h2 : orig.Keeps s) :
    orig.KeepsOut (execLih cid b s) := by
  unfold execLih
  repeat' first
    | with_reducible assumption
    | intro _
    | with_reducible apply State.KeepsOut.next
    | (with_reducible apply dispatchSeq_keeps) | (with_reducible apply State.wr_keeps)
    | with_reducible apply State.Keeps.ite | with_reducible apply State.Keeps.ite1 | with_reducible apply State.Keeps.ite2 | with_reducible apply State.Keeps.elim
    | with_reducible apply State.Keeps.foldl | with_reducible apply State.Keeps.foldl1 | with_reducible apply State.Keeps.foldl2 | with_reducible apply State.Keeps.foldl22
    | simp only [↓State.Keeps.upd, ↓State.Keeps.updFlash, ↓State.Keeps.updPoison]
    | split
    | dsimp only

theorem fpOp_keeps {orig : State} (op : Nat) (used : List Nat) (f : Word → Word → Word → Word × Bool × Bool) (cid : CoreId) (b : Body) {s : State} (h5 : orig.Keeps s) :
    orig.KeepsOut (fpOp op used f cid b s) := by
  unfold fpOp
  repeat' first
    | with_reducible assumption
    | intro _
    | with_reducible apply State.KeepsOut.next
    | (with_reducible apply dispatchSeq_keeps) | (with_reducible apply State.wr_keeps) | (with_reducible apply State.numFlags_keeps)
    | with_reducible apply State.Keeps.ite | with_reducible apply State.Keeps.ite1 | with_reducible apply State.Keeps.ite2 | with_reducible apply State.Keeps.elim
    | with_reducible apply State.Keeps.foldl | with_reducible apply State.Keeps.foldl1 | with_reducible apply State.Keeps.foldl2 | with_reducible apply State.Keeps.foldl22
    | simp only [↓State.Keeps.upd, ↓State.Keeps.updFlash, ↓State.Keeps.updPoison]
    | split
    | dsimp only

theorem execFaddF32_keeps {orig : State} (cid : CoreId) (b : Body) {s : State} (h2 : orig.Keeps s) :
    orig.KeepsOut (execFaddF32 cid b s) := by
  unfold execFaddF32
  repeat' first
    | with_reducible assumption
    | intro _
    | with_reducible apply State.KeepsOut.next
    | (with_reducible apply fpOp_keeps)
    | with_reducible apply State.Keeps.ite | with_reducible apply State.Keeps.ite1 | with_reducible apply State.Keeps.ite2 | with_reducible apply State.Keeps.elim
    | with_reducible apply State.Keeps.foldl | with_reducible apply State.Keeps.foldl1 | with_reducible apply State.Keeps.foldl2 | with_reducible apply State.Keeps.foldl22
    | simp only [↓State.Keeps.upd, ↓State.Keeps.updFlash, ↓State.Keeps.updPoison]
    | split
    | dsimp only

theorem execFsubF32_keeps {orig : State} (cid : CoreId) (b : Body) {s : State} (h2 : orig.Keeps s) :
    orig.KeepsOut (execFsubF32 cid b s) := by
  unfold execFsubF32
  repeat' first
    | with_reducible assumption
    | intro _
    | with_reducible apply State.KeepsOut.next
    | (with_reducible apply fpOp_keeps)
    | with_reducible apply State.Keeps.ite | with_reducible apply State.Keeps.ite1 | with_reducible apply State.Keeps.ite2 | with_reducible apply State.Keeps.elim
    | with_reducible apply State.Keeps.foldl | with_reducible apply State.Keeps.foldl1 | with_reducible apply State.Keeps.foldl2 | with_reducible apply State.Keeps.foldl22
    | simp only [↓State.Keeps.upd, ↓State.Keeps.updFlash, ↓State.Keeps.updPoison]
    | split
    | dsimp only

theorem execFmulF32_keeps {orig : State} (cid : CoreId) (b : Body) {s : State} (h2 : orig.Keeps s) :
    orig.KeepsOut (execFmulF32 cid b s) := by
  unfold execFmulF32
  repeat' first
    | with_reducible assumption
    | intro _
    | with_reducible apply State.KeepsOut.next
    | (with_reducible apply fpOp_keeps)
    | with_reducible apply State.Keeps.ite | with_reducible apply State.Keeps.ite1 | with_reducible apply State.Keeps.ite2 | with_reducible apply State.Keeps.elim
    | with_reducible apply State.Keeps.foldl | with_reducible apply State.Keeps.foldl1 | with_reducible apply State.Keeps.foldl2 | with_reducible apply State.Keeps.foldl22
    | simp only [↓State.Keeps.upd, ↓State.Keeps.updFlash, ↓State.Keeps.updPoison]
    | split
    | dsimp only

theorem execFfmaF32_keeps {orig : State} (cid : CoreId) (b : Body) {s : State} (h2 : orig.Keeps s) :
    orig.KeepsOut (execFfmaF32 cid b s) := by
  unfold execFfmaF32
  repeat' first
    | with_reducible assumption
    | intro _
    | with_reducible apply State.KeepsOut.next
    | (with_reducible apply fpOp_keeps)
    | with_reducible apply State.Keeps.ite | with_reducible apply State.Keeps.ite1 | with_reducible apply State.Keeps.ite2 | with_reducible apply State.Keeps.elim
    | with_reducible apply State.Keeps.foldl | with_reducible apply State.Keeps.foldl1 | with_reducible apply State.Keeps.foldl2 | with_reducible apply State.Keeps.foldl22
    | simp only [↓State.Keeps.upd, ↓State.Keeps.updFlash, ↓State.Keeps.updPoison]
    | split
    | dsimp only

theorem execFminF32_keeps {orig : State} (cid : CoreId) (b : Body) {s : State} (h2 : orig.Keeps s) :
    orig.KeepsOut (execFminF32 cid b s) := by
  unfold execFminF32
  repeat' first
    | with_reducible assumption
    | intro _
    | with_reducible apply State.KeepsOut.next
    | (with_reducible apply fpOp_keeps)
    | with_reducible apply State.Keeps.ite | with_reducible apply State.Keeps.ite1 | with_reducible apply State.Keeps.ite2 | with_reducible apply State.Keeps.elim
    | with_reducible apply State.Keeps.foldl | with_reducible apply State.Keeps.foldl1 | with_reducible apply State.Keeps.foldl2 | with_reducible apply State.Keeps.foldl22
    | simp only [↓State.Keeps.upd, ↓State.Keeps.updFlash, ↓State.Keeps.updPoison]
    | split
    | dsimp only

theorem execFmaxF32_keeps {orig : State} (cid : CoreId) (b : Body) {s : State} (h2 : orig.Keeps s) :
    orig.KeepsOut (execFmaxF32 cid b s) := by
  unfold execFmaxF32
  repeat' first
    | with_reducible assumption
    | intro _
    | with_reducible apply State.KeepsOut.next
    | (with_reducible apply fpOp_keeps)
    | with_reducible apply State.Keeps.ite | with_reducible apply State.Keeps.ite1 | with_reducible apply State.Keeps.ite2 | with_reducible apply State.Keeps.elim
    | with_reducible apply State.Keeps.foldl | with_reducible apply State.Keeps.foldl1 | with_reducible apply State.Keeps.foldl2 | with_reducible apply State.Keeps.foldl22
    | simp only [↓State.Keeps.upd, ↓State.Keeps.updFlash, ↓State.Keeps.updPoison]
    | split
    | dsimp only

theorem execFcvtF32S64_keeps {orig : State} (cid : CoreId) (b : Body) {s : State} (h2 : orig.Keeps s) :
    orig.KeepsOut (execFcvtF32S64 cid b s) := by
  unfold execFcvtF32S64
  repeat' first
    | with_reducible assumption
    | intro _
    | with_reducible apply State.KeepsOut.next
    | (with_reducible apply fpOp_keeps)
    | with_reducible apply State.Keeps.ite | with_reducible apply State.Keeps.ite1 | with_reducible apply State.Keeps.ite2 | with_reducible apply State.Keeps.elim
    | with_reducible apply State.Keeps.foldl | with_reducible apply State.Keeps.foldl1 | with_reducible apply State.Keeps.foldl2 | with_reducible apply State.Keeps.foldl22
    | simp only [↓State.Keeps.upd, ↓State.Keeps.updFlash, ↓State.Keeps.updPoison]
    | split
    | dsimp only

theorem execFcvtS64F32_keeps {orig : State} (cid : CoreId) (b : Body) {s : State} (h2 : orig.Keeps s) :
    orig.KeepsOut (execFcvtS64F32 cid b s) := by
  unfold execFcvtS64F32
  repeat' first
    | with_reducible assumption
    | intro _
    | with_reducible apply State.KeepsOut.next
    | (with_reducible apply fpOp_keeps)
    | with_reducible apply State.Keeps.ite | with_reducible apply State.Keeps.ite1 | with_reducible apply State.Keeps.ite2 | with_reducible apply State.Keeps.elim
    | with_reducible apply State.Keeps.foldl | with_reducible apply State.Keeps.foldl1 | with_reducible apply State.Keeps.foldl2 | with_reducible apply State.Keeps.foldl22
    | simp only [↓State.Keeps.upd, ↓State.Keeps.updFlash, ↓State.Keeps.updPoison]
    | split
    | dsimp only

theorem cmpRR_keeps {orig : State} (op : Nat) (f : Word → Word → Bool) (cid : CoreId) (b : Body) {s : State} (h4 : orig.Keeps s) :
    orig.KeepsOut (cmpRR op f cid b s) := by
  unfold cmpRR
  repeat' first
    | with_reducible assumption
    | intro _
    | with_reducible apply State.KeepsOut.next
    | (with_reducible apply dispatchSeq_keeps) | (with_reducible apply State.wp_keeps)
    | with_reducible apply State.Keeps.ite | with_reducible apply State.Keeps.ite1 | with_reducible apply State.Keeps.ite2 | with_reducible apply State.Keeps.elim
    | with_reducible apply State.Keeps.foldl | with_reducible apply State.Keeps.foldl1 | with_reducible apply State.Keeps.foldl2 | with_reducible apply State.Keeps.foldl22
    | simp only [↓State.Keeps.upd, ↓State.Keeps.updFlash, ↓State.Keeps.updPoison]
    | split
    | dsimp only

theorem cmpRI_keeps {orig : State} (op : Nat) (f : Word → Word → Bool) (cid : CoreId) (b : Body) {s : State} (h4 : orig.Keeps s) :
    orig.KeepsOut (cmpRI op f cid b s) := by
  unfold cmpRI
  repeat' first
    | with_reducible assumption
    | intro _
    | with_reducible apply State.KeepsOut.next
    | (with_reducible apply dispatchSeq_keeps) | (with_reducible apply State.wp_keeps)
    | with_reducible apply State.Keeps.ite | with_reducible apply State.Keeps.ite1 | with_reducible apply State.Keeps.ite2 | with_reducible apply State.Keeps.elim
    | with_reducible apply State.Keeps.foldl | with_reducible apply State.Keeps.foldl1 | with_reducible apply State.Keeps.foldl2 | with_reducible apply State.Keeps.foldl22
    | simp only [↓State.Keeps.upd, ↓State.Keeps.updFlash, ↓State.Keeps.updPoison]
    | split
    | dsimp only

theorem predOp_keeps {orig : State} (op : Nat) (used : List Nat) (f : Bool → Bool → Bool) (cid : CoreId) (b : Body) {s : State} (h5 : orig.Keeps s) :
    orig.KeepsOut (predOp op used f cid b s) := by
  unfold predOp
  repeat' first
    | with_reducible assumption
    | intro _
    | with_reducible apply State.KeepsOut.next
    | (with_reducible apply dispatchSeq_keeps) | (with_reducible apply State.wp_keeps)
    | with_reducible apply State.Keeps.ite | with_reducible apply State.Keeps.ite1 | with_reducible apply State.Keeps.ite2 | with_reducible apply State.Keeps.elim
    | with_reducible apply State.Keeps.foldl | with_reducible apply State.Keeps.foldl1 | with_reducible apply State.Keeps.foldl2 | with_reducible apply State.Keeps.foldl22
    | simp only [↓State.Keeps.upd, ↓State.Keeps.updFlash, ↓State.Keeps.updPoison]
    | split
    | dsimp only

theorem execCmpEq_keeps {orig : State} (cid : CoreId) (b : Body) {s : State} (h2 : orig.Keeps s) :
    orig.KeepsOut (execCmpEq cid b s) := by
  unfold execCmpEq
  repeat' first
    | with_reducible assumption
    | intro _
    | with_reducible apply State.KeepsOut.next
    | (with_reducible apply cmpRR_keeps)
    | with_reducible apply State.Keeps.ite | with_reducible apply State.Keeps.ite1 | with_reducible apply State.Keeps.ite2 | with_reducible apply State.Keeps.elim
    | with_reducible apply State.Keeps.foldl | with_reducible apply State.Keeps.foldl1 | with_reducible apply State.Keeps.foldl2 | with_reducible apply State.Keeps.foldl22
    | simp only [↓State.Keeps.upd, ↓State.Keeps.updFlash, ↓State.Keeps.updPoison]
    | split
    | dsimp only

theorem execCmpNe_keeps {orig : State} (cid : CoreId) (b : Body) {s : State} (h2 : orig.Keeps s) :
    orig.KeepsOut (execCmpNe cid b s) := by
  unfold execCmpNe
  repeat' first
    | with_reducible assumption
    | intro _
    | with_reducible apply State.KeepsOut.next
    | (with_reducible apply cmpRR_keeps)
    | with_reducible apply State.Keeps.ite | with_reducible apply State.Keeps.ite1 | with_reducible apply State.Keeps.ite2 | with_reducible apply State.Keeps.elim
    | with_reducible apply State.Keeps.foldl | with_reducible apply State.Keeps.foldl1 | with_reducible apply State.Keeps.foldl2 | with_reducible apply State.Keeps.foldl22
    | simp only [↓State.Keeps.upd, ↓State.Keeps.updFlash, ↓State.Keeps.updPoison]
    | split
    | dsimp only

theorem execCmpLtS_keeps {orig : State} (cid : CoreId) (b : Body) {s : State} (h2 : orig.Keeps s) :
    orig.KeepsOut (execCmpLtS cid b s) := by
  unfold execCmpLtS
  repeat' first
    | with_reducible assumption
    | intro _
    | with_reducible apply State.KeepsOut.next
    | (with_reducible apply cmpRR_keeps)
    | with_reducible apply State.Keeps.ite | with_reducible apply State.Keeps.ite1 | with_reducible apply State.Keeps.ite2 | with_reducible apply State.Keeps.elim
    | with_reducible apply State.Keeps.foldl | with_reducible apply State.Keeps.foldl1 | with_reducible apply State.Keeps.foldl2 | with_reducible apply State.Keeps.foldl22
    | simp only [↓State.Keeps.upd, ↓State.Keeps.updFlash, ↓State.Keeps.updPoison]
    | split
    | dsimp only

theorem execCmpLtU_keeps {orig : State} (cid : CoreId) (b : Body) {s : State} (h2 : orig.Keeps s) :
    orig.KeepsOut (execCmpLtU cid b s) := by
  unfold execCmpLtU
  repeat' first
    | with_reducible assumption
    | intro _
    | with_reducible apply State.KeepsOut.next
    | (with_reducible apply cmpRR_keeps)
    | with_reducible apply State.Keeps.ite | with_reducible apply State.Keeps.ite1 | with_reducible apply State.Keeps.ite2 | with_reducible apply State.Keeps.elim
    | with_reducible apply State.Keeps.foldl | with_reducible apply State.Keeps.foldl1 | with_reducible apply State.Keeps.foldl2 | with_reducible apply State.Keeps.foldl22
    | simp only [↓State.Keeps.upd, ↓State.Keeps.updFlash, ↓State.Keeps.updPoison]
    | split
    | dsimp only

theorem execCmpLeS_keeps {orig : State} (cid : CoreId) (b : Body) {s : State} (h2 : orig.Keeps s) :
    orig.KeepsOut (execCmpLeS cid b s) := by
  unfold execCmpLeS
  repeat' first
    | with_reducible assumption
    | intro _
    | with_reducible apply State.KeepsOut.next
    | (with_reducible apply cmpRR_keeps)
    | with_reducible apply State.Keeps.ite | with_reducible apply State.Keeps.ite1 | with_reducible apply State.Keeps.ite2 | with_reducible apply State.Keeps.elim
    | with_reducible apply State.Keeps.foldl | with_reducible apply State.Keeps.foldl1 | with_reducible apply State.Keeps.foldl2 | with_reducible apply State.Keeps.foldl22
    | simp only [↓State.Keeps.upd, ↓State.Keeps.updFlash, ↓State.Keeps.updPoison]
    | split
    | dsimp only

theorem execCmpLeU_keeps {orig : State} (cid : CoreId) (b : Body) {s : State} (h2 : orig.Keeps s) :
    orig.KeepsOut (execCmpLeU cid b s) := by
  unfold execCmpLeU
  repeat' first
    | with_reducible assumption
    | intro _
    | with_reducible apply State.KeepsOut.next
    | (with_reducible apply cmpRR_keeps)
    | with_reducible apply State.Keeps.ite | with_reducible apply State.Keeps.ite1 | with_reducible apply State.Keeps.ite2 | with_reducible apply State.Keeps.elim
    | with_reducible apply State.Keeps.foldl | with_reducible apply State.Keeps.foldl1 | with_reducible apply State.Keeps.foldl2 | with_reducible apply State.Keeps.foldl22
    | simp only [↓State.Keeps.upd, ↓State.Keeps.updFlash, ↓State.Keeps.updPoison]
    | split
    | dsimp only

theorem execCmpiEq_keeps {orig : State} (cid : CoreId) (b : Body) {s : State} (h2 : orig.Keeps s) :
    orig.KeepsOut (execCmpiEq cid b s) := by
  unfold execCmpiEq
  repeat' first
    | with_reducible assumption
    | intro _
    | with_reducible apply State.KeepsOut.next
    | (with_reducible apply cmpRI_keeps)
    | with_reducible apply State.Keeps.ite | with_reducible apply State.Keeps.ite1 | with_reducible apply State.Keeps.ite2 | with_reducible apply State.Keeps.elim
    | with_reducible apply State.Keeps.foldl | with_reducible apply State.Keeps.foldl1 | with_reducible apply State.Keeps.foldl2 | with_reducible apply State.Keeps.foldl22
    | simp only [↓State.Keeps.upd, ↓State.Keeps.updFlash, ↓State.Keeps.updPoison]
    | split
    | dsimp only

theorem execCmpiNe_keeps {orig : State} (cid : CoreId) (b : Body) {s : State} (h2 : orig.Keeps s) :
    orig.KeepsOut (execCmpiNe cid b s) := by
  unfold execCmpiNe
  repeat' first
    | with_reducible assumption
    | intro _
    | with_reducible apply State.KeepsOut.next
    | (with_reducible apply cmpRI_keeps)
    | with_reducible apply State.Keeps.ite | with_reducible apply State.Keeps.ite1 | with_reducible apply State.Keeps.ite2 | with_reducible apply State.Keeps.elim
    | with_reducible apply State.Keeps.foldl | with_reducible apply State.Keeps.foldl1 | with_reducible apply State.Keeps.foldl2 | with_reducible apply State.Keeps.foldl22
    | simp only [↓State.Keeps.upd, ↓State.Keeps.updFlash, ↓State.Keeps.updPoison]
    | split
    | dsimp only

theorem execCmpiLtS_keeps {orig : State} (cid : CoreId) (b : Body) {s : State} (h2 : orig.Keeps s) :
    orig.KeepsOut (execCmpiLtS cid b s) := by
  unfold execCmpiLtS
  repeat' first
    | with_reducible assumption
    | intro _
    | with_reducible apply State.KeepsOut.next
    | (with_reducible apply cmpRI_keeps)
    | with_reducible apply State.Keeps.ite | with_reducible apply State.Keeps.ite1 | with_reducible apply State.Keeps.ite2 | with_reducible apply State.Keeps.elim
    | with_reducible apply State.Keeps.foldl | with_reducible apply State.Keeps.foldl1 | with_reducible apply State.Keeps.foldl2 | with_reducible apply State.Keeps.foldl22
    | simp only [↓State.Keeps.upd, ↓State.Keeps.updFlash, ↓State.Keeps.updPoison]
    | split
    | dsimp only

theorem execCmpiLtU_keeps {orig : State} (cid : CoreId) (b : Body) {s : State} (h2 : orig.Keeps s) :
    orig.KeepsOut (execCmpiLtU cid b s) := by
  unfold execCmpiLtU
  repeat' first
    | with_reducible assumption
    | intro _
    | with_reducible apply State.KeepsOut.next
    | (with_reducible apply cmpRI_keeps)
    | with_reducible apply State.Keeps.ite | with_reducible apply State.Keeps.ite1 | with_reducible apply State.Keeps.ite2 | with_reducible apply State.Keeps.elim
    | with_reducible apply State.Keeps.foldl | with_reducible apply State.Keeps.foldl1 | with_reducible apply State.Keeps.foldl2 | with_reducible apply State.Keeps.foldl22
    | simp only [↓State.Keeps.upd, ↓State.Keeps.updFlash, ↓State.Keeps.updPoison]
    | split
    | dsimp only

theorem execCmpiLeS_keeps {orig : State} (cid : CoreId) (b : Body) {s : State} (h2 : orig.Keeps s) :
    orig.KeepsOut (execCmpiLeS cid b s) := by
  unfold execCmpiLeS
  repeat' first
    | with_reducible assumption
    | intro _
    | with_reducible apply State.KeepsOut.next
    | (with_reducible apply cmpRI_keeps)
    | with_reducible apply State.Keeps.ite | with_reducible apply State.Keeps.ite1 | with_reducible apply State.Keeps.ite2 | with_reducible apply State.Keeps.elim
    | with_reducible apply State.Keeps.foldl | with_reducible apply State.Keeps.foldl1 | with_reducible apply State.Keeps.foldl2 | with_reducible apply State.Keeps.foldl22
    | simp only [↓State.Keeps.upd, ↓State.Keeps.updFlash, ↓State.Keeps.updPoison]
    | split
    | dsimp only

theorem execCmpiLeU_keeps {orig : State} (cid : CoreId) (b : Body) {s : State} (h2 : orig.Keeps s) :
    orig.KeepsOut (execCmpiLeU cid b s) := by
  unfold execCmpiLeU
  repeat' first
    | with_reducible assumption
    | intro _
    | with_reducible apply State.KeepsOut.next
    | (with_reducible apply cmpRI_keeps)
    | with_reducible apply State.Keeps.ite | with_reducible apply State.Keeps.ite1 | with_reducible apply State.Keeps.ite2 | with_reducible apply State.Keeps.elim
    | with_reducible apply State.Keeps.foldl | with_reducible apply State.Keeps.foldl1 | with_reducible apply State.Keeps.foldl2 | with_reducible apply State.Keeps.foldl22
    | simp only [↓State.Keeps.upd, ↓State.Keeps.updFlash, ↓State.Keeps.updPoison]
    | split
    | dsimp only

theorem execPand_keeps {orig : State} (cid : CoreId) (b : Body) {s : State} (h2 : orig.Keeps s) :
    orig.KeepsOut (execPand cid b s) := by
  unfold execPand
  repeat' first
    | with_reducible assumption
    | intro _
    | with_reducible apply State.KeepsOut.next
    | (with_reducible apply predOp_keeps)
    | with_reducible apply State.Keeps.ite | with_reducible apply State.Keeps.ite1 | with_reducible apply State.Keeps.ite2 | with_reducible apply State.Keeps.elim
    | with_reducible apply State.Keeps.foldl | with_reducible apply State.Keeps.foldl1 | with_reducible apply State.Keeps.foldl2 | with_reducible apply State.Keeps.foldl22
    | simp only [↓State.Keeps.upd, ↓State.Keeps.updFlash, ↓State.Keeps.updPoison]
    | split
    | dsimp only

theorem execPor_keeps {orig : State} (cid : CoreId) (b : Body) {s : State} (h2 : orig.Keeps s) :
    orig.KeepsOut (execPor cid b s) := by
  unfold execPor
  repeat' first
    | with_reducible assumption
    | intro _
    | with_reducible apply State.KeepsOut.next
    | (with_reducible apply predOp_keeps)
    | with_reducible apply State.Keeps.ite | with_reducible apply State.Keeps.ite1 | with_reducible apply State.Keeps.ite2 | with_reducible apply State.Keeps.elim
    | with_reducible apply State.Keeps.foldl | with_reducible apply State.Keeps.foldl1 | with_reducible apply State.Keeps.foldl2 | with_reducible apply State.Keeps.foldl22
    | simp only [↓State.Keeps.upd, ↓State.Keeps.updFlash, ↓State.Keeps.updPoison]
    | split
    | dsimp only

theorem execPxor_keeps {orig : State} (cid : CoreId) (b : Body) {s : State} (h2 : orig.Keeps s) :
    orig.KeepsOut (execPxor cid b s) := by
  unfold execPxor
  repeat' first
    | with_reducible assumption
    | intro _
    | with_reducible apply State.KeepsOut.next
    | (with_reducible apply predOp_keeps)
    | with_reducible apply State.Keeps.ite | with_reducible apply State.Keeps.ite1 | with_reducible apply State.Keeps.ite2 | with_reducible apply State.Keeps.elim
    | with_reducible apply State.Keeps.foldl | with_reducible apply State.Keeps.foldl1 | with_reducible apply State.Keeps.foldl2 | with_reducible apply State.Keeps.foldl22
    | simp only [↓State.Keeps.upd, ↓State.Keeps.updFlash, ↓State.Keeps.updPoison]
    | split
    | dsimp only

theorem execPnot_keeps {orig : State} (cid : CoreId) (b : Body) {s : State} (h2 : orig.Keeps s) :
    orig.KeepsOut (execPnot cid b s) := by
  unfold execPnot
  repeat' first
    | with_reducible assumption
    | intro _
    | with_reducible apply State.KeepsOut.next
    | (with_reducible apply predOp_keeps)
    | with_reducible apply State.Keeps.ite | with_reducible apply State.Keeps.ite1 | with_reducible apply State.Keeps.ite2 | with_reducible apply State.Keeps.elim
    | with_reducible apply State.Keeps.foldl | with_reducible apply State.Keeps.foldl1 | with_reducible apply State.Keeps.foldl2 | with_reducible apply State.Keeps.foldl22
    | simp only [↓State.Keeps.upd, ↓State.Keeps.updFlash, ↓State.Keeps.updPoison]
    | split
    | dsimp only

theorem execFcmpEqF32_keeps {orig : State} (cid : CoreId) (b : Body) {s : State} (h2 : orig.Keeps s) :
    orig.KeepsOut (execFcmpEqF32 cid b s) := by
  unfold execFcmpEqF32
  repeat' first
    | with_reducible assumption
    | intro _
    | with_reducible apply State.KeepsOut.next
    | (with_reducible apply cmpRR_keeps)
    | with_reducible apply State.Keeps.ite | with_reducible apply State.Keeps.ite1 | with_reducible apply State.Keeps.ite2 | with_reducible apply State.Keeps.elim
    | with_reducible apply State.Keeps.foldl | with_reducible apply State.Keeps.foldl1 | with_reducible apply State.Keeps.foldl2 | with_reducible apply State.Keeps.foldl22
    | simp only [↓State.Keeps.upd, ↓State.Keeps.updFlash, ↓State.Keeps.updPoison]
    | split
    | dsimp only

theorem execFcmpLtF32_keeps {orig : State} (cid : CoreId) (b : Body) {s : State} (h2 : orig.Keeps s) :
    orig.KeepsOut (execFcmpLtF32 cid b s) := by
  unfold execFcmpLtF32
  repeat' first
    | with_reducible assumption
    | intro _
    | with_reducible apply State.KeepsOut.next
    | (with_reducible apply cmpRR_keeps)
    | with_reducible apply State.Keeps.ite | with_reducible apply State.Keeps.ite1 | with_reducible apply State.Keeps.ite2 | with_reducible apply State.Keeps.elim
    | with_reducible apply State.Keeps.foldl | with_reducible apply State.Keeps.foldl1 | with_reducible apply State.Keeps.foldl2 | with_reducible apply State.Keeps.foldl22
    | simp only [↓State.Keeps.upd, ↓State.Keeps.updFlash, ↓State.Keeps.updPoison]
    | split
    | dsimp only

theorem execFcmpLeF32_keeps {orig : State} (cid : CoreId) (b : Body) {s : State} (h2 : orig.Keeps s) :
    orig.KeepsOut (execFcmpLeF32 cid b s) := by
  unfold execFcmpLeF32
  repeat' first
    | with_reducible assumption
    | intro _
    | with_reducible apply State.KeepsOut.next
    | (with_reducible apply cmpRR_keeps)
    | with_reducible apply State.Keeps.ite | with_reducible apply State.Keeps.ite1 | with_reducible apply State.Keeps.ite2 | with_reducible apply State.Keeps.elim
    | with_reducible apply State.Keeps.foldl | with_reducible apply State.Keeps.foldl1 | with_reducible apply State.Keeps.foldl2 | with_reducible apply State.Keeps.foldl22
    | simp only [↓State.Keeps.upd, ↓State.Keeps.updFlash, ↓State.Keeps.updPoison]
    | split
    | dsimp only

end Sys2Proof.Machine
end

