-- ==== Sys2Proof/Laws/KeepDieLink.lean ====
section
/-! SUPPORT. What the operations of Machine/DieLink.lean keep. -/

set_option linter.all false

namespace Sys2Proof.Machine

theorem State.setDl_keeps {orig : State} {s : State} (n : Nat) (m : Nat) (x : DlMod) (h0 : orig.Keeps s) :
    orig.Keeps (State.setDl s n m x) := by
  unfold State.setDl
  repeat' first
    | with_reducible assumption
    | intro _
    | with_reducible apply State.Keeps.ite | with_reducible apply State.Keeps.ite1 | with_reducible apply State.Keeps.ite2 | with_reducible apply State.Keeps.elim
    | with_reducible apply State.Keeps.foldl | with_reducible apply State.Keeps.foldl1 | with_reducible apply State.Keeps.foldl2 | with_reducible apply State.Keeps.foldl22
    | simp only [↓State.Keeps.upd, ↓State.Keeps.updFlash, ↓State.Keeps.updPoison]
    | split
    | dsimp only

theorem State.crossed_keeps {orig : State} {s : State} (src : Nat) (c : DlClass) (a : Nat) (h0 : orig.Keeps s) :
    orig.Keeps (State.crossed s src c a) := by
  unfold State.crossed
  repeat' first
    | with_reducible assumption
    | intro _
    | (with_reducible apply State.arbServed_keeps)
    | with_reducible apply State.Keeps.ite | with_reducible apply State.Keeps.ite1 | with_reducible apply State.Keeps.ite2 | with_reducible apply State.Keeps.elim
    | with_reducible apply State.Keeps.foldl | with_reducible apply State.Keeps.foldl1 | with_reducible apply State.Keeps.foldl2 | with_reducible apply State.Keeps.foldl22
    | simp only [↓State.Keeps.upd, ↓State.Keeps.updFlash, ↓State.Keeps.updPoison]
    | split
    | dsimp only

theorem State.crossedRange_keeps {orig : State} {s : State} (src : Nat) (c : DlClass) (a : Nat) (len : Nat) (h0 : orig.Keeps s) :
    orig.Keeps (State.crossedRange s src c a len) := by
  unfold State.crossedRange
  repeat' first
    | with_reducible assumption
    | intro _
    | (with_reducible apply State.crossed_keeps)
    | with_reducible apply State.Keeps.ite | with_reducible apply State.Keeps.ite1 | with_reducible apply State.Keeps.ite2 | with_reducible apply State.Keeps.elim
    | with_reducible apply State.Keeps.foldl | with_reducible apply State.Keeps.foldl1 | with_reducible apply State.Keeps.foldl2 | with_reducible apply State.Keeps.foldl22
    | simp only [↓State.Keeps.upd, ↓State.Keeps.updFlash, ↓State.Keeps.updPoison]
    | split
    | dsimp only

theorem State.dlSync_keeps {orig : State} {s : State} (n : Nat) (h0 : orig.Keeps s) :
    orig.Keeps (State.dlSync s n) := by
  unfold State.dlSync
  repeat' first
    | with_reducible assumption
    | intro _
    | (with_reducible apply State.setFld_keeps)
    | with_reducible apply State.Keeps.ite | with_reducible apply State.Keeps.ite1 | with_reducible apply State.Keeps.ite2 | with_reducible apply State.Keeps.elim
    | with_reducible apply State.Keeps.foldl | with_reducible apply State.Keeps.foldl1 | with_reducible apply State.Keeps.foldl2 | with_reducible apply State.Keeps.foldl22
    | simp only [↓State.Keeps.upd, ↓State.Keeps.updFlash, ↓State.Keeps.updPoison]
    | split
    | dsimp only

theorem State.dlTrain_keeps {orig : State} {s : State} (n : Nat) (h0 : orig.Keeps s) :
    orig.Keeps (State.dlTrain s n) := by
  unfold State.dlTrain
  repeat' first
    | with_reducible assumption
    | intro _
    | (with_reducible apply State.setDl_keeps) | (with_reducible apply State.dlSync_keeps) | (with_reducible apply State.setFld_keeps)
    | with_reducible apply State.Keeps.ite | with_reducible apply State.Keeps.ite1 | with_reducible apply State.Keeps.ite2 | with_reducible apply State.Keeps.elim
    | with_reducible apply State.Keeps.foldl | with_reducible apply State.Keeps.foldl1 | with_reducible apply State.Keeps.foldl2 | with_reducible apply State.Keeps.foldl22
    | simp only [↓State.Keeps.upd, ↓State.Keeps.updFlash, ↓State.Keeps.updPoison]
    | split
    | dsimp only

theorem State.dlTrainAll_keeps {orig : State} {s : State} (l : List Nat) (h0 : orig.Keeps s) :
    orig.Keeps (State.dlTrainAll s l) := by
  unfold State.dlTrainAll
  repeat' first
    | with_reducible assumption
    | intro _
    | (with_reducible apply State.dlTrain_keeps)
    | with_reducible apply State.Keeps.ite | with_reducible apply State.Keeps.ite1 | with_reducible apply State.Keeps.ite2 | with_reducible apply State.Keeps.elim
    | with_reducible apply State.Keeps.foldl | with_reducible apply State.Keeps.foldl1 | with_reducible apply State.Keeps.foldl2 | with_reducible apply State.Keeps.foldl22
    | simp only [↓State.Keeps.upd, ↓State.Keeps.updFlash, ↓State.Keeps.updPoison]
    | split
    | dsimp only

theorem State.flitRetry_keeps {orig : State} {s : State} (n : Nat) (m : Nat) (h0 : orig.Keeps s) :
    orig.Keeps (State.flitRetry s n m) := by
  unfold State.flitRetry
  repeat' first
    | with_reducible assumption
    | intro _
    | (with_reducible apply State.bump_keeps) | (with_reducible apply State.openRecord_keeps)
    | (with_reducible refine State.openRecord_eq _ _ ?_ (by with_reducible assumption)) | (with_reducible apply State.handle_keeps)
    | with_reducible apply State.Keeps.ite | with_reducible apply State.Keeps.ite1 | with_reducible apply State.Keeps.ite2 | with_reducible apply State.Keeps.elim
    | with_reducible apply State.Keeps.foldl | with_reducible apply State.Keeps.foldl1 | with_reducible apply State.Keeps.foldl2 | with_reducible apply State.Keeps.foldl22
    | simp only [↓State.Keeps.upd, ↓State.Keeps.updFlash, ↓State.Keeps.updPoison]
    | split
    | dsimp only

theorem execFlitCrcRetry_keeps {orig : State} (n : Fin 16) (m : Nat) {s : State} (h2 : orig.Keeps s) :
    orig.KeepsOut (execFlitCrcRetry n m s) := by
  unfold execFlitCrcRetry
  repeat' first
    | with_reducible assumption
    | intro _
    | with_reducible apply State.KeepsOut.next
    | (with_reducible apply State.flitRetry_keeps)
    | with_reducible apply State.Keeps.ite | with_reducible apply State.Keeps.ite1 | with_reducible apply State.Keeps.ite2 | with_reducible apply State.Keeps.elim
    | with_reducible apply State.Keeps.foldl | with_reducible apply State.Keeps.foldl1 | with_reducible apply State.Keeps.foldl2 | with_reducible apply State.Keeps.foldl22
    | simp only [↓State.Keeps.upd, ↓State.Keeps.updFlash, ↓State.Keeps.updPoison]
    | split
    | dsimp only

theorem State.retrainMod_keeps {orig : State} {s : State} (n : Nat) (m : Nat) (why : RetrainWhy) (h0 : orig.Keeps s) :
    orig.Keeps (State.retrainMod s n m why) := by
  unfold State.retrainMod
  repeat' first
    | with_reducible assumption
    | intro _
    | (with_reducible apply State.bump_keeps) | (with_reducible apply State.openRecord_keeps)
    | (with_reducible refine State.openRecord_eq _ _ ?_ (by with_reducible assumption)) | (with_reducible apply State.dlSync_keeps)
    | (with_reducible apply State.setDl_keeps)
    | with_reducible apply State.Keeps.ite | with_reducible apply State.Keeps.ite1 | with_reducible apply State.Keeps.ite2 | with_reducible apply State.Keeps.elim
    | with_reducible apply State.Keeps.foldl | with_reducible apply State.Keeps.foldl1 | with_reducible apply State.Keeps.foldl2 | with_reducible apply State.Keeps.foldl22
    | simp only [↓State.Keeps.upd, ↓State.Keeps.updFlash, ↓State.Keeps.updPoison]
    | split
    | dsimp only

theorem execModuleRetrain_keeps {orig : State} (n : Fin 16) (m : Nat) (why : RetrainWhy) {s : State} (h3 : orig.Keeps s) :
    orig.KeepsOut (execModuleRetrain n m why s) := by
  unfold execModuleRetrain
  repeat' first
    | with_reducible assumption
    | intro _
    | with_reducible apply State.KeepsOut.next
    | (with_reducible apply State.retrainMod_keeps)
    | with_reducible apply State.Keeps.ite | with_reducible apply State.Keeps.ite1 | with_reducible apply State.Keeps.ite2 | with_reducible apply State.Keeps.elim
    | with_reducible apply State.Keeps.foldl | with_reducible apply State.Keeps.foldl1 | with_reducible apply State.Keeps.foldl2 | with_reducible apply State.Keeps.foldl22
    | simp only [↓State.Keeps.upd, ↓State.Keeps.updFlash, ↓State.Keeps.updPoison]
    | split
    | dsimp only

theorem State.retrainDone_keeps {orig : State} {s : State} (n : Nat) (m : Nat) (h0 : orig.Keeps s) :
    orig.Keeps (State.retrainDone s n m) := by
  unfold State.retrainDone
  repeat' first
    | with_reducible assumption
    | intro _
    | (with_reducible apply State.dlSync_keeps) | (with_reducible apply State.setDl_keeps)
    | (with_reducible apply State.closeRecord_keeps)
    | with_reducible apply State.Keeps.ite | with_reducible apply State.Keeps.ite1 | with_reducible apply State.Keeps.ite2 | with_reducible apply State.Keeps.elim
    | with_reducible apply State.Keeps.foldl | with_reducible apply State.Keeps.foldl1 | with_reducible apply State.Keeps.foldl2 | with_reducible apply State.Keeps.foldl22
    | simp only [↓State.Keeps.upd, ↓State.Keeps.updFlash, ↓State.Keeps.updPoison]
    | split
    | dsimp only

theorem execRepairMapWrite_keeps {orig : State} (n : Fin 16) {s : State} (h1 : orig.Keeps s) :
    orig.KeepsOut (execRepairMapWrite n s) := by
  unfold execRepairMapWrite
  refine .next (State.Keeps.ite (fun _ => State.measMaps_keeps (State.Keeps.foldl (fun t m h => ?_) _ h1)) fun _ => h1)
  refine State.Keeps.ite (fun _ => ?_) fun _ => h
  exact ⟨h.mem, h.pending, h.floor, h.revoked, h.gen, h.rekeys, h.colds, h.free⟩

theorem State.shutSite_keeps {orig : State} {s : State} (k : Nat) (h0 : orig.Keeps s) :
    orig.Keeps (State.shutSite s k) := by
  unfold State.shutSite
  repeat' first
    | with_reducible assumption
    | intro _
    | (with_reducible apply State.setFld_keeps) | (with_reducible apply State.measMaps_keeps)
    | (with_reducible apply State.openRecord_keeps) | (with_reducible refine State.openRecord_eq _ _ ?_ (by with_reducible assumption))
    | (with_reducible apply State.closeRecord_keeps)
    | with_reducible apply State.Keeps.ite | with_reducible apply State.Keeps.ite1 | with_reducible apply State.Keeps.ite2 | with_reducible apply State.Keeps.elim
    | with_reducible apply State.Keeps.foldl | with_reducible apply State.Keeps.foldl1 | with_reducible apply State.Keeps.foldl2 | with_reducible apply State.Keeps.foldl22
    | simp only [↓State.Keeps.upd, ↓State.Keeps.updFlash, ↓State.Keeps.updPoison]
    | split
    | dsimp only

theorem State.negotiate_keeps {orig : State} {s : State} (h0 : orig.Keeps s) :
    orig.Keeps (State.negotiate s) := by
  unfold State.negotiate
  repeat' first
    | with_reducible assumption
    | intro _
    | (with_reducible apply State.csrSet_keeps) | (with_reducible apply State.shutSite_keeps)
    | with_reducible apply State.Keeps.ite | with_reducible apply State.Keeps.ite1 | with_reducible apply State.Keeps.ite2 | with_reducible apply State.Keeps.elim
    | with_reducible apply State.Keeps.foldl | with_reducible apply State.Keeps.foldl1 | with_reducible apply State.Keeps.foldl2 | with_reducible apply State.Keeps.foldl22
    | simp only [↓State.Keeps.upd, ↓State.Keeps.updFlash, ↓State.Keeps.updPoison]
    | split
    | dsimp only

end Sys2Proof.Machine
end

