-- ==== Sys2Proof/Laws/KeepControl.lean ====
section
/-! SUPPORT. What the operations of Machine/Control.lean keep. -/

set_option linter.all false

namespace Sys2Proof.Machine

theorem ctlOp_keeps {orig : State} (op : Nat) (used : List Nat) (chk : State → Option (FaultCode × Nat)) (eff : Nat → State → State) (cid : CoreId) (b : Body) {s : State} (h3 : ∀ n s, orig.Keeps s → orig.Keeps (eff n s)) (h6 : orig.Keeps s) :
    orig.KeepsOut (ctlOp op used chk eff cid b s) := by
  unfold ctlOp
  repeat' first
    | with_reducible assumption
    | intro _
    | with_reducible apply State.KeepsOut.next
    | (with_reducible apply dispatchSeq_keeps) | (with_reducible apply h3)
    | with_reducible apply State.Keeps.ite | with_reducible apply State.Keeps.ite1 | with_reducible apply State.Keeps.ite2 | with_reducible apply State.Keeps.elim
    | with_reducible apply State.Keeps.foldl | with_reducible apply State.Keeps.foldl1 | with_reducible apply State.Keeps.foldl2 | with_reducible apply State.Keeps.foldl22
    | simp only [↓State.Keeps.upd, ↓State.Keeps.updFlash, ↓State.Keeps.updPoison]
    | split
    | dsimp only

theorem State.setPc_keeps {orig : State} {s : State} (k : Nat) (pc : BitVec 48) (h0 : orig.Keeps s) :
    orig.Keeps (State.setPc s k pc) := by
  unfold State.setPc
  repeat' first
    | with_reducible assumption
    | intro _
    | (with_reducible apply State.modCore_keeps)
    | with_reducible apply State.Keeps.ite | with_reducible apply State.Keeps.ite1 | with_reducible apply State.Keeps.ite2 | with_reducible apply State.Keeps.elim
    | with_reducible apply State.Keeps.foldl | with_reducible apply State.Keeps.foldl1 | with_reducible apply State.Keeps.foldl2 | with_reducible apply State.Keeps.foldl22
    | simp only [↓State.Keeps.upd, ↓State.Keeps.updFlash, ↓State.Keeps.updPoison]
    | split
    | dsimp only

theorem State.holdOn_keeps {orig : State} {s : State} (k : Nat) (h : Hold) (h0 : orig.Keeps s) :
    orig.Keeps (State.holdOn s k h) := by
  unfold State.holdOn
  repeat' first
    | with_reducible assumption
    | intro _
    | (with_reducible apply State.settle_keeps) | (with_reducible apply State.modCore_keeps)
    | with_reducible apply State.Keeps.ite | with_reducible apply State.Keeps.ite1 | with_reducible apply State.Keeps.ite2 | with_reducible apply State.Keeps.elim
    | with_reducible apply State.Keeps.foldl | with_reducible apply State.Keeps.foldl1 | with_reducible apply State.Keeps.foldl2 | with_reducible apply State.Keeps.foldl22
    | simp only [↓State.Keeps.upd, ↓State.Keeps.updFlash, ↓State.Keeps.updPoison]
    | split
    | dsimp only

theorem execNop_keeps {orig : State} (cid : CoreId) (b : Body) {s : State} (h2 : orig.Keeps s) :
    orig.KeepsOut (execNop cid b s) := by
  unfold execNop
  repeat' first
    | with_reducible assumption
    | intro _
    | with_reducible apply State.KeepsOut.next
    | (with_reducible apply ctlOp_keeps)
    | with_reducible apply State.Keeps.ite | with_reducible apply State.Keeps.ite1 | with_reducible apply State.Keeps.ite2 | with_reducible apply State.Keeps.elim
    | with_reducible apply State.Keeps.foldl | with_reducible apply State.Keeps.foldl1 | with_reducible apply State.Keeps.foldl2 | with_reducible apply State.Keeps.foldl22
    | simp only [↓State.Keeps.upd, ↓State.Keeps.updFlash, ↓State.Keeps.updPoison]
    | split
    | dsimp only

theorem execBr_keeps {orig : State} (cid : CoreId) (b : Body) {s : State} (h2 : orig.Keeps s) :
    orig.KeepsOut (execBr cid b s) := by
  unfold execBr
  repeat' first
    | with_reducible assumption
    | intro _
    | with_reducible apply State.KeepsOut.next
    | (with_reducible apply ctlOp_keeps) | (with_reducible apply State.setPc_keeps)
    | with_reducible apply State.Keeps.ite | with_reducible apply State.Keeps.ite1 | with_reducible apply State.Keeps.ite2 | with_reducible apply State.Keeps.elim
    | with_reducible apply State.Keeps.foldl | with_reducible apply State.Keeps.foldl1 | with_reducible apply State.Keeps.foldl2 | with_reducible apply State.Keeps.foldl22
    | simp only [↓State.Keeps.upd, ↓State.Keeps.updFlash, ↓State.Keeps.updPoison]
    | split
    | dsimp only

theorem execBrr_keeps {orig : State} (cid : CoreId) (b : Body) {s : State} (h2 : orig.Keeps s) :
    orig.KeepsOut (execBrr cid b s) := by
  unfold execBrr
  repeat' first
    | with_reducible assumption
    | intro _
    | with_reducible apply State.KeepsOut.next
    | (with_reducible apply ctlOp_keeps) | (with_reducible apply State.setPc_keeps)
    | with_reducible apply State.Keeps.ite | with_reducible apply State.Keeps.ite1 | with_reducible apply State.Keeps.ite2 | with_reducible apply State.Keeps.elim
    | with_reducible apply State.Keeps.foldl | with_reducible apply State.Keeps.foldl1 | with_reducible apply State.Keeps.foldl2 | with_reducible apply State.Keeps.foldl22
    | simp only [↓State.Keeps.upd, ↓State.Keeps.updFlash, ↓State.Keeps.updPoison]
    | split
    | dsimp only

theorem execCall_keeps {orig : State} (cid : CoreId) (b : Body) {s : State} (h2 : orig.Keeps s) :
    orig.KeepsOut (execCall cid b s) := by
  unfold execCall
  repeat' first
    | with_reducible assumption
    | intro _
    | with_reducible apply State.KeepsOut.next
    | (with_reducible apply ctlOp_keeps) | (with_reducible apply State.setPc_keeps) | (with_reducible apply State.wr_keeps)
    | with_reducible apply State.Keeps.ite | with_reducible apply State.Keeps.ite1 | with_reducible apply State.Keeps.ite2 | with_reducible apply State.Keeps.elim
    | with_reducible apply State.Keeps.foldl | with_reducible apply State.Keeps.foldl1 | with_reducible apply State.Keeps.foldl2 | with_reducible apply State.Keeps.foldl22
    | simp only [↓State.Keeps.upd, ↓State.Keeps.updFlash, ↓State.Keeps.updPoison]
    | split
    | dsimp only

theorem execRet_keeps {orig : State} (cid : CoreId) (b : Body) {s : State} (h2 : orig.Keeps s) :
    orig.KeepsOut (execRet cid b s) := by
  unfold execRet
  repeat' first
    | with_reducible assumption
    | intro _
    | with_reducible apply State.KeepsOut.next
    | (with_reducible apply ctlOp_keeps) | (with_reducible apply State.setPc_keeps)
    | with_reducible apply State.Keeps.ite | with_reducible apply State.Keeps.ite1 | with_reducible apply State.Keeps.ite2 | with_reducible apply State.Keeps.elim
    | with_reducible apply State.Keeps.foldl | with_reducible apply State.Keeps.foldl1 | with_reducible apply State.Keeps.foldl2 | with_reducible apply State.Keeps.foldl22
    | simp only [↓State.Keeps.upd, ↓State.Keeps.updFlash, ↓State.Keeps.updPoison]
    | split
    | dsimp only

theorem execLoop_keeps {orig : State} (cid : CoreId) (b : Body) {s : State} (h2 : orig.Keeps s) :
    orig.KeepsOut (execLoop cid b s) := by
  unfold execLoop
  repeat' first
    | with_reducible assumption
    | intro _
    | with_reducible apply State.KeepsOut.next
    | (with_reducible apply ctlOp_keeps) | (with_reducible apply State.wr_keeps) | (with_reducible apply State.setPc_keeps)
    | with_reducible apply State.Keeps.ite | with_reducible apply State.Keeps.ite1 | with_reducible apply State.Keeps.ite2 | with_reducible apply State.Keeps.elim
    | with_reducible apply State.Keeps.foldl | with_reducible apply State.Keeps.foldl1 | with_reducible apply State.Keeps.foldl2 | with_reducible apply State.Keeps.foldl22
    | simp only [↓State.Keeps.upd, ↓State.Keeps.updFlash, ↓State.Keeps.updPoison]
    | split
    | dsimp only

theorem execFence_keeps {orig : State} (cid : CoreId) (b : Body) {s : State} (h2 : orig.Keeps s) :
    orig.KeepsOut (execFence cid b s) := by
  unfold execFence
  repeat' first
    | with_reducible assumption
    | intro _
    | with_reducible apply State.KeepsOut.next
    | (with_reducible apply ctlOp_keeps) | (with_reducible apply State.holdOn_keeps)
    | with_reducible apply State.Keeps.ite | with_reducible apply State.Keeps.ite1 | with_reducible apply State.Keeps.ite2 | with_reducible apply State.Keeps.elim
    | with_reducible apply State.Keeps.foldl | with_reducible apply State.Keeps.foldl1 | with_reducible apply State.Keeps.foldl2 | with_reducible apply State.Keeps.foldl22
    | simp only [↓State.Keeps.upd, ↓State.Keeps.updFlash, ↓State.Keeps.updPoison]
    | split
    | dsimp only

theorem execFenceS_keeps {orig : State} (cid : CoreId) (b : Body) {s : State} (h2 : orig.Keeps s) :
    orig.KeepsOut (execFenceS cid b s) := by
  unfold execFenceS
  repeat' first
    | with_reducible assumption
    | intro _
    | with_reducible apply State.KeepsOut.next
    | (with_reducible apply ctlOp_keeps) | (with_reducible apply State.holdOn_keeps)
    | with_reducible apply State.Keeps.ite | with_reducible apply State.Keeps.ite1 | with_reducible apply State.Keeps.ite2 | with_reducible apply State.Keeps.elim
    | with_reducible apply State.Keeps.foldl | with_reducible apply State.Keeps.foldl1 | with_reducible apply State.Keeps.foldl2 | with_reducible apply State.Keeps.foldl22
    | simp only [↓State.Keeps.upd, ↓State.Keeps.updFlash, ↓State.Keeps.updPoison]
    | split
    | dsimp only

theorem execIcinv_keeps {orig : State} (cid : CoreId) (b : Body) {s : State} (h2 : orig.Keeps s) :
    orig.KeepsOut (execIcinv cid b s) := by
  unfold execIcinv
  repeat' first
    | with_reducible assumption
    | intro _
    | with_reducible apply State.KeepsOut.next
    | (with_reducible apply ctlOp_keeps) | (with_reducible apply State.holdOn_keeps)
    | with_reducible apply State.Keeps.ite | with_reducible apply State.Keeps.ite1 | with_reducible apply State.Keeps.ite2 | with_reducible apply State.Keeps.elim
    | with_reducible apply State.Keeps.foldl | with_reducible apply State.Keeps.foldl1 | with_reducible apply State.Keeps.foldl2 | with_reducible apply State.Keeps.foldl22
    | simp only [↓State.Keeps.upd, ↓State.Keeps.updFlash, ↓State.Keeps.updPoison]
    | split
    | dsimp only

theorem State.halt_keeps {orig : State} {s : State} (k : Nat) (h0 : orig.Keeps s) :
    orig.Keeps (State.halt s k) := by
  unfold State.halt
  repeat' first
    | with_reducible assumption
    | intro _
    | (with_reducible apply State.ccReturn_keeps) | (with_reducible apply State.modCore_keeps)
    | with_reducible apply State.Keeps.ite | with_reducible apply State.Keeps.ite1 | with_reducible apply State.Keeps.ite2 | with_reducible apply State.Keeps.elim
    | with_reducible apply State.Keeps.foldl | with_reducible apply State.Keeps.foldl1 | with_reducible apply State.Keeps.foldl2 | with_reducible apply State.Keeps.foldl22
    | simp only [↓State.Keeps.upd, ↓State.Keeps.updFlash, ↓State.Keeps.updPoison]
    | split
    | dsimp only

theorem execHalt_keeps {orig : State} (cid : CoreId) (b : Body) {s : State} (h2 : orig.Keeps s) :
    orig.KeepsOut (execHalt cid b s) := by
  unfold execHalt
  repeat' first
    | with_reducible assumption
    | intro _
    | with_reducible apply State.KeepsOut.next
    | (with_reducible apply ctlOp_keeps) | (with_reducible apply State.halt_keeps)
    | with_reducible apply State.Keeps.ite | with_reducible apply State.Keeps.ite1 | with_reducible apply State.Keeps.ite2 | with_reducible apply State.Keeps.elim
    | with_reducible apply State.Keeps.foldl | with_reducible apply State.Keeps.foldl1 | with_reducible apply State.Keeps.foldl2 | with_reducible apply State.Keeps.foldl22
    | simp only [↓State.Keeps.upd, ↓State.Keeps.updFlash, ↓State.Keeps.updPoison]
    | split
    | dsimp only

theorem execTime_keeps {orig : State} (cid : CoreId) (b : Body) {s : State} (h2 : orig.Keeps s) :
    orig.KeepsOut (execTime cid b s) := by
  unfold execTime
  repeat' first
    | with_reducible assumption
    | intro _
    | with_reducible apply State.KeepsOut.next
    | (with_reducible apply ctlOp_keeps) | (with_reducible apply State.wr_keeps)
    | with_reducible apply State.Keeps.ite | with_reducible apply State.Keeps.ite1 | with_reducible apply State.Keeps.ite2 | with_reducible apply State.Keeps.elim
    | with_reducible apply State.Keeps.foldl | with_reducible apply State.Keeps.foldl1 | with_reducible apply State.Keeps.foldl2 | with_reducible apply State.Keeps.foldl22
    | simp only [↓State.Keeps.upd, ↓State.Keeps.updFlash, ↓State.Keeps.updPoison]
    | split
    | dsimp only

theorem execPmcRd_keeps {orig : State} (cid : CoreId) (b : Body) {s : State} (h2 : orig.Keeps s) :
    orig.KeepsOut (execPmcRd cid b s) := by
  unfold execPmcRd
  repeat' first
    | with_reducible assumption
    | intro _
    | with_reducible apply State.KeepsOut.next
    | (with_reducible apply dispatchSeq_keeps) | (with_reducible apply State.wr_keeps)
    | with_reducible apply State.Keeps.ite | with_reducible apply State.Keeps.ite1 | with_reducible apply State.Keeps.ite2 | with_reducible apply State.Keeps.elim
    | with_reducible apply State.Keeps.foldl | with_reducible apply State.Keeps.foldl1 | with_reducible apply State.Keeps.foldl2 | with_reducible apply State.Keeps.foldl22
    | simp only [↓State.Keeps.upd, ↓State.Keeps.updFlash, ↓State.Keeps.updPoison]
    | split
    | dsimp only

theorem State.postUser_keeps {orig : State} {s : State} (p : Nat) (f : Nat) (w : List Word) (h0 : orig.Keeps s) :
    orig.Keeps (State.postUser s p f w) := by
  unfold State.postUser
  repeat' first
    | with_reducible assumption
    | intro _
    | (with_reducible apply State.modEvq_keeps)
    | with_reducible apply State.Keeps.ite | with_reducible apply State.Keeps.ite1 | with_reducible apply State.Keeps.ite2 | with_reducible apply State.Keeps.elim
    | with_reducible apply State.Keeps.foldl | with_reducible apply State.Keeps.foldl1 | with_reducible apply State.Keeps.foldl2 | with_reducible apply State.Keeps.foldl22
    | simp only [↓State.Keeps.upd, ↓State.Keeps.updFlash, ↓State.Keeps.updPoison]
    | split
    | dsimp only

theorem State.postRead_keeps {orig : State} {s : State} (k : Nat) (i : Ins) (b : Body) (a : Nat) (h0 : orig.Keeps s) :
    orig.Keeps (State.postRead s k i b a) := by
  unfold State.postRead
  repeat' first
    | with_reducible assumption
    | intro _
    | (with_reducible apply State.poisonRecord_keeps)
    | with_reducible apply State.Keeps.ite | with_reducible apply State.Keeps.ite1 | with_reducible apply State.Keeps.ite2 | with_reducible apply State.Keeps.elim
    | with_reducible apply State.Keeps.foldl | with_reducible apply State.Keeps.foldl1 | with_reducible apply State.Keeps.foldl2 | with_reducible apply State.Keeps.foldl22
    | simp only [↓State.Keeps.upd, ↓State.Keeps.updFlash, ↓State.Keeps.updPoison]
    | split
    | dsimp only

theorem State.hostEvent_keeps {orig : State} {s : State} (k : Nat) (a : Nat) (fn : Option (Nat × Nat)) (h0 : orig.Keeps s) :
    orig.Keeps (State.hostEvent s k a fn) := by
  unfold State.hostEvent
  repeat' first
    | with_reducible assumption
    | intro _
    | (with_reducible apply State.postUser_keeps)
    | with_reducible apply State.Keeps.ite | with_reducible apply State.Keeps.ite1 | with_reducible apply State.Keeps.ite2 | with_reducible apply State.Keeps.elim
    | with_reducible apply State.Keeps.foldl | with_reducible apply State.Keeps.foldl1 | with_reducible apply State.Keeps.foldl2 | with_reducible apply State.Keeps.foldl22
    | simp only [↓State.Keeps.upd, ↓State.Keeps.updFlash, ↓State.Keeps.updPoison]
    | split
    | dsimp only

theorem execHostev_keeps {orig : State} (cid : CoreId) (b : Body) {s : State} (h2 : orig.Keeps s) :
    orig.KeepsOut (execHostev cid b s) := by
  unfold execHostev
  repeat' first
    | with_reducible assumption
    | intro _
    | with_reducible apply State.KeepsOut.next
    | (with_reducible apply ctlOp_keeps) | (with_reducible apply State.hostEvent_keeps) | (with_reducible apply State.postRead_keeps)
    | with_reducible apply State.Keeps.ite | with_reducible apply State.Keeps.ite1 | with_reducible apply State.Keeps.ite2 | with_reducible apply State.Keeps.elim
    | with_reducible apply State.Keeps.foldl | with_reducible apply State.Keeps.foldl1 | with_reducible apply State.Keeps.foldl2 | with_reducible apply State.Keeps.foldl22
    | simp only [↓State.Keeps.upd, ↓State.Keeps.updFlash, ↓State.Keeps.updPoison]
    | split
    | dsimp only

theorem execYield_keeps {orig : State} (cid : CoreId) (b : Body) {s : State} (h2 : orig.Keeps s) :
    orig.KeepsOut (execYield cid b s) := by
  unfold execYield
  repeat' first
    | with_reducible assumption
    | intro _
    | with_reducible apply State.KeepsOut.next
    | (with_reducible apply ctlOp_keeps) | (with_reducible apply State.ccReturn_keeps)
    | with_reducible apply State.Keeps.ite | with_reducible apply State.Keeps.ite1 | with_reducible apply State.Keeps.ite2 | with_reducible apply State.Keeps.elim
    | with_reducible apply State.Keeps.foldl | with_reducible apply State.Keeps.foldl1 | with_reducible apply State.Keeps.foldl2 | with_reducible apply State.Keeps.foldl22
    | simp only [↓State.Keeps.upd, ↓State.Keeps.updFlash, ↓State.Keeps.updPoison]
    | split
    | dsimp only

theorem evOp_keeps {orig : State} (op : Nat) (used : List Nat) (chk : Option (FaultCode × Nat)) (eff : Nat → State → State) (cid : CoreId) (b : Body) {s : State} (h3 : ∀ n s, orig.Keeps s → orig.Keeps (eff n s)) (h6 : orig.Keeps s) :
    orig.KeepsOut (evOp op used chk eff cid b s) := by
  unfold evOp
  repeat' first
    | with_reducible assumption
    | intro _
    | with_reducible apply State.KeepsOut.next
    | (with_reducible apply dispatchSeq_keeps) | (with_reducible apply h3)
    | with_reducible apply State.Keeps.ite | with_reducible apply State.Keeps.ite1 | with_reducible apply State.Keeps.ite2 | with_reducible apply State.Keeps.elim
    | with_reducible apply State.Keeps.foldl | with_reducible apply State.Keeps.foldl1 | with_reducible apply State.Keeps.foldl2 | with_reducible apply State.Keeps.foldl22
    | simp only [↓State.Keeps.upd, ↓State.Keeps.updFlash, ↓State.Keeps.updPoison]
    | split
    | dsimp only

theorem execEvAdd_keeps {orig : State} (cid : CoreId) (b : Body) {s : State} (h2 : orig.Keeps s) :
    orig.KeepsOut (execEvAdd cid b s) := by
  unfold execEvAdd
  repeat' first
    | with_reducible assumption
    | intro _
    | with_reducible apply State.KeepsOut.next
    | (with_reducible apply evOp_keeps) | (with_reducible apply State.evAdd_keeps)
    | with_reducible apply State.Keeps.ite | with_reducible apply State.Keeps.ite1 | with_reducible apply State.Keeps.ite2 | with_reducible apply State.Keeps.elim
    | with_reducible apply State.Keeps.foldl | with_reducible apply State.Keeps.foldl1 | with_reducible apply State.Keeps.foldl2 | with_reducible apply State.Keeps.foldl22
    | simp only [↓State.Keeps.upd, ↓State.Keeps.updFlash, ↓State.Keeps.updPoison]
    | split
    | dsimp only

theorem execEvSet_keeps {orig : State} (cid : CoreId) (b : Body) {s : State} (h2 : orig.Keeps s) :
    orig.KeepsOut (execEvSet cid b s) := by
  unfold execEvSet
  repeat' first
    | with_reducible assumption
    | intro _
    | with_reducible apply State.KeepsOut.next
    | (with_reducible apply evOp_keeps) | (with_reducible apply State.modCore_keeps)
    | with_reducible apply State.Keeps.ite | with_reducible apply State.Keeps.ite1 | with_reducible apply State.Keeps.ite2 | with_reducible apply State.Keeps.elim
    | with_reducible apply State.Keeps.foldl | with_reducible apply State.Keeps.foldl1 | with_reducible apply State.Keeps.foldl2 | with_reducible apply State.Keeps.foldl22
    | simp only [↓State.Keeps.upd, ↓State.Keeps.updFlash, ↓State.Keeps.updPoison]
    | split
    | dsimp only

theorem execEvWait_keeps {orig : State} (cid : CoreId) (b : Body) {s : State} (h2 : orig.Keeps s) :
    orig.KeepsOut (execEvWait cid b s) := by
  unfold execEvWait
  repeat' first
    | with_reducible assumption
    | intro _
    | with_reducible apply State.KeepsOut.next
    | (with_reducible apply evOp_keeps) | (with_reducible apply State.holdOn_keeps)
    | with_reducible apply State.Keeps.ite | with_reducible apply State.Keeps.ite1 | with_reducible apply State.Keeps.ite2 | with_reducible apply State.Keeps.elim
    | with_reducible apply State.Keeps.foldl | with_reducible apply State.Keeps.foldl1 | with_reducible apply State.Keeps.foldl2 | with_reducible apply State.Keeps.foldl22
    | simp only [↓State.Keeps.upd, ↓State.Keeps.updFlash, ↓State.Keeps.updPoison]
    | split
    | dsimp only

theorem execEvWaitr_keeps {orig : State} (cid : CoreId) (b : Body) {s : State} (h2 : orig.Keeps s) :
    orig.KeepsOut (execEvWaitr cid b s) := by
  unfold execEvWaitr
  repeat' first
    | with_reducible assumption
    | intro _
    | with_reducible apply State.KeepsOut.next
    | (with_reducible apply evOp_keeps) | (with_reducible apply State.holdOn_keeps)
    | with_reducible apply State.Keeps.ite | with_reducible apply State.Keeps.ite1 | with_reducible apply State.Keeps.ite2 | with_reducible apply State.Keeps.elim
    | with_reducible apply State.Keeps.foldl | with_reducible apply State.Keeps.foldl1 | with_reducible apply State.Keeps.foldl2 | with_reducible apply State.Keeps.foldl22
    | simp only [↓State.Keeps.upd, ↓State.Keeps.updFlash, ↓State.Keeps.updPoison]
    | split
    | dsimp only

theorem execEvRead_keeps {orig : State} (cid : CoreId) (b : Body) {s : State} (h2 : orig.Keeps s) :
    orig.KeepsOut (execEvRead cid b s) := by
  unfold execEvRead
  repeat' first
    | with_reducible assumption
    | intro _
    | with_reducible apply State.KeepsOut.next
    | (with_reducible apply evOp_keeps) | (with_reducible apply State.wr_keeps)
    | with_reducible apply State.Keeps.ite | with_reducible apply State.Keeps.ite1 | with_reducible apply State.Keeps.ite2 | with_reducible apply State.Keeps.elim
    | with_reducible apply State.Keeps.foldl | with_reducible apply State.Keeps.foldl1 | with_reducible apply State.Keeps.foldl2 | with_reducible apply State.Keeps.foldl22
    | simp only [↓State.Keeps.upd, ↓State.Keeps.updFlash, ↓State.Keeps.updPoison]
    | split
    | dsimp only

theorem execBarCl_keeps {orig : State} (cid : CoreId) (b : Body) {s : State} (h2 : orig.Keeps s) :
    orig.KeepsOut (execBarCl cid b s) := by
  unfold execBarCl
  repeat' first
    | with_reducible assumption
    | intro _
    | with_reducible apply State.KeepsOut.next
    | (with_reducible apply evOp_keeps) | (with_reducible apply State.modCore_keeps)
    | with_reducible apply State.Keeps.ite | with_reducible apply State.Keeps.ite1 | with_reducible apply State.Keeps.ite2 | with_reducible apply State.Keeps.elim
    | with_reducible apply State.Keeps.foldl | with_reducible apply State.Keeps.foldl1 | with_reducible apply State.Keeps.foldl2 | with_reducible apply State.Keeps.foldl22
    | simp only [↓State.Keeps.upd, ↓State.Keeps.updFlash, ↓State.Keeps.updPoison]
    | split
    | dsimp only

theorem execBarGrp_keeps {orig : State} (cid : CoreId) (b : Body) {s : State} (h2 : orig.Keeps s) :
    orig.KeepsOut (execBarGrp cid b s) := by
  unfold execBarGrp
  repeat' first
    | with_reducible assumption
    | intro _
    | with_reducible apply State.KeepsOut.next
    | (with_reducible apply evOp_keeps) | (with_reducible apply State.modCore_keeps)
    | with_reducible apply State.Keeps.ite | with_reducible apply State.Keeps.ite1 | with_reducible apply State.Keeps.ite2 | with_reducible apply State.Keeps.elim
    | with_reducible apply State.Keeps.foldl | with_reducible apply State.Keeps.foldl1 | with_reducible apply State.Keeps.foldl2 | with_reducible apply State.Keeps.foldl22
    | simp only [↓State.Keeps.upd, ↓State.Keeps.updFlash, ↓State.Keeps.updPoison]
    | split
    | dsimp only

theorem State.launchFlight_keeps {orig : State} {s : State} (k : Nat) (g : Bool) (w : Nat) (op : FlightOp) (rd : Option Nat) (val : Word) (cmp : Word) (ev : Option Nat) (pc : Nat) (cls : Nat) (opc : Nat) (h0 : orig.Keeps s) :
    orig.Keeps (State.launchFlight s k g w op rd val cmp ev pc cls opc) := by
  unfold State.launchFlight
  repeat' first
    | with_reducible assumption
    | intro _
    | (with_reducible apply State.modCore_keeps)
    | with_reducible apply State.Keeps.ite | with_reducible apply State.Keeps.ite1 | with_reducible apply State.Keeps.ite2 | with_reducible apply State.Keeps.elim
    | with_reducible apply State.Keeps.foldl | with_reducible apply State.Keeps.foldl1 | with_reducible apply State.Keeps.foldl2 | with_reducible apply State.Keeps.foldl22
    | simp only [↓State.Keeps.upd, ↓State.Keeps.updFlash, ↓State.Keeps.updPoison]
    | split
    | dsimp only

theorem State.badCsrRecord_keeps {orig : State} {s : State} (k : Nat) (cls : Nat) (op : Nat) (a : Nat) (h0 : orig.Keeps s) :
    orig.Keeps (State.badCsrRecord s k cls op a) := by
  unfold State.badCsrRecord
  repeat' first
    | with_reducible assumption
    | intro _
    | (with_reducible apply State.openRecord_keeps) | (with_reducible refine State.openRecord_eq _ _ ?_ (by with_reducible assumption))
    | with_reducible apply State.Keeps.ite | with_reducible apply State.Keeps.ite1 | with_reducible apply State.Keeps.ite2 | with_reducible apply State.Keeps.elim
    | with_reducible apply State.Keeps.foldl | with_reducible apply State.Keeps.foldl1 | with_reducible apply State.Keeps.foldl2 | with_reducible apply State.Keeps.foldl22
    | simp only [↓State.Keeps.upd, ↓State.Keeps.updFlash, ↓State.Keeps.updPoison]
    | split
    | dsimp only

theorem memOp_keeps {orig : State} (opc : Nat) (size : Nat) (op : FlightOp) (isLoad : Bool) (cid : CoreId) (b : Body) {s : State} (h6 : orig.Keeps s) :
    orig.KeepsOut (memOp opc size op isLoad cid b s) := by
  unfold memOp
  repeat' first
    | with_reducible assumption
    | intro _
    | with_reducible apply State.KeepsOut.next
    | (with_reducible apply State.badCsrRecord_keeps) | (with_reducible apply dispatchSeq_keeps)
    | (with_reducible apply State.launchFlight_keeps)
    | with_reducible apply State.Keeps.ite | with_reducible apply State.Keeps.ite1 | with_reducible apply State.Keeps.ite2 | with_reducible apply State.Keeps.elim
    | with_reducible apply State.Keeps.foldl | with_reducible apply State.Keeps.foldl1 | with_reducible apply State.Keeps.foldl2 | with_reducible apply State.Keeps.foldl22
    | simp only [↓State.Keeps.upd, ↓State.Keeps.updFlash, ↓State.Keeps.updPoison]
    | split
    | dsimp only

theorem execLdU8_keeps {orig : State} (cid : CoreId) (b : Body) {s : State} (h2 : orig.Keeps s) :
    orig.KeepsOut (execLdU8 cid b s) := by
  unfold execLdU8
  repeat' first
    | with_reducible assumption
    | intro _
    | with_reducible apply State.KeepsOut.next
    | (with_reducible apply memOp_keeps)
    | with_reducible apply State.Keeps.ite | with_reducible apply State.Keeps.ite1 | with_reducible apply State.Keeps.ite2 | with_reducible apply State.Keeps.elim
    | with_reducible apply State.Keeps.foldl | with_reducible apply State.Keeps.foldl1 | with_reducible apply State.Keeps.foldl2 | with_reducible apply State.Keeps.foldl22
    | simp only [↓State.Keeps.upd, ↓State.Keeps.updFlash, ↓State.Keeps.updPoison]
    | split
    | dsimp only

theorem execLdU16_keeps {orig : State} (cid : CoreId) (b : Body) {s : State} (h2 : orig.Keeps s) :
    orig.KeepsOut (execLdU16 cid b s) := by
  unfold execLdU16
  repeat' first
    | with_reducible assumption
    | intro _
    | with_reducible apply State.KeepsOut.next
    | (with_reducible apply memOp_keeps)
    | with_reducible apply State.Keeps.ite | with_reducible apply State.Keeps.ite1 | with_reducible apply State.Keeps.ite2 | with_reducible apply State.Keeps.elim
    | with_reducible apply State.Keeps.foldl | with_reducible apply State.Keeps.foldl1 | with_reducible apply State.Keeps.foldl2 | with_reducible apply State.Keeps.foldl22
    | simp only [↓State.Keeps.upd, ↓State.Keeps.updFlash, ↓State.Keeps.updPoison]
    | split
    | dsimp only

theorem execLdU32_keeps {orig : State} (cid : CoreId) (b : Body) {s : State} (h2 : orig.Keeps s) :
    orig.KeepsOut (execLdU32 cid b s) := by
  unfold execLdU32
  repeat' first
    | with_reducible assumption
    | intro _
    | with_reducible apply State.KeepsOut.next
    | (with_reducible apply memOp_keeps)
    | with_reducible apply State.Keeps.ite | with_reducible apply State.Keeps.ite1 | with_reducible apply State.Keeps.ite2 | with_reducible apply State.Keeps.elim
    | with_reducible apply State.Keeps.foldl | with_reducible apply State.Keeps.foldl1 | with_reducible apply State.Keeps.foldl2 | with_reducible apply State.Keeps.foldl22
    | simp only [↓State.Keeps.upd, ↓State.Keeps.updFlash, ↓State.Keeps.updPoison]
    | split
    | dsimp only

theorem execLdU64_keeps {orig : State} (cid : CoreId) (b : Body) {s : State} (h2 : orig.Keeps s) :
    orig.KeepsOut (execLdU64 cid b s) := by
  unfold execLdU64
  repeat' first
    | with_reducible assumption
    | intro _
    | with_reducible apply State.KeepsOut.next
    | (with_reducible apply memOp_keeps)
    | with_reducible apply State.Keeps.ite | with_reducible apply State.Keeps.ite1 | with_reducible apply State.Keeps.ite2 | with_reducible apply State.Keeps.elim
    | with_reducible apply State.Keeps.foldl | with_reducible apply State.Keeps.foldl1 | with_reducible apply State.Keeps.foldl2 | with_reducible apply State.Keeps.foldl22
    | simp only [↓State.Keeps.upd, ↓State.Keeps.updFlash, ↓State.Keeps.updPoison]
    | split
    | dsimp only

theorem execLdS8_keeps {orig : State} (cid : CoreId) (b : Body) {s : State} (h2 : orig.Keeps s) :
    orig.KeepsOut (execLdS8 cid b s) := by
  unfold execLdS8
  repeat' first
    | with_reducible assumption
    | intro _
    | with_reducible apply State.KeepsOut.next
    | (with_reducible apply memOp_keeps)
    | with_reducible apply State.Keeps.ite | with_reducible apply State.Keeps.ite1 | with_reducible apply State.Keeps.ite2 | with_reducible apply State.Keeps.elim
    | with_reducible apply State.Keeps.foldl | with_reducible apply State.Keeps.foldl1 | with_reducible apply State.Keeps.foldl2 | with_reducible apply State.Keeps.foldl22
    | simp only [↓State.Keeps.upd, ↓State.Keeps.updFlash, ↓State.Keeps.updPoison]
    | split
    | dsimp only

theorem execLdS16_keeps {orig : State} (cid : CoreId) (b : Body) {s : State} (h2 : orig.Keeps s) :
    orig.KeepsOut (execLdS16 cid b s) := by
  unfold execLdS16
  repeat' first
    | with_reducible assumption
    | intro _
    | with_reducible apply State.KeepsOut.next
    | (with_reducible apply memOp_keeps)
    | with_reducible apply State.Keeps.ite | with_reducible apply State.Keeps.ite1 | with_reducible apply State.Keeps.ite2 | with_reducible apply State.Keeps.elim
    | with_reducible apply State.Keeps.foldl | with_reducible apply State.Keeps.foldl1 | with_reducible apply State.Keeps.foldl2 | with_reducible apply State.Keeps.foldl22
    | simp only [↓State.Keeps.upd, ↓State.Keeps.updFlash, ↓State.Keeps.updPoison]
    | split
    | dsimp only

theorem execLdS32_keeps {orig : State} (cid : CoreId) (b : Body) {s : State} (h2 : orig.Keeps s) :
    orig.KeepsOut (execLdS32 cid b s) := by
  unfold execLdS32
  repeat' first
    | with_reducible assumption
    | intro _
    | with_reducible apply State.KeepsOut.next
    | (with_reducible apply memOp_keeps)
    | with_reducible apply State.Keeps.ite | with_reducible apply State.Keeps.ite1 | with_reducible apply State.Keeps.ite2 | with_reducible apply State.Keeps.elim
    | with_reducible apply State.Keeps.foldl | with_reducible apply State.Keeps.foldl1 | with_reducible apply State.Keeps.foldl2 | with_reducible apply State.Keeps.foldl22
    | simp only [↓State.Keeps.upd, ↓State.Keeps.updFlash, ↓State.Keeps.updPoison]
    | split
    | dsimp only

theorem execSt8_keeps {orig : State} (cid : CoreId) (b : Body) {s : State} (h2 : orig.Keeps s) :
    orig.KeepsOut (execSt8 cid b s) := by
  unfold execSt8
  repeat' first
    | with_reducible assumption
    | intro _
    | with_reducible apply State.KeepsOut.next
    | (with_reducible apply memOp_keeps)
    | with_reducible apply State.Keeps.ite | with_reducible apply State.Keeps.ite1 | with_reducible apply State.Keeps.ite2 | with_reducible apply State.Keeps.elim
    | with_reducible apply State.Keeps.foldl | with_reducible apply State.Keeps.foldl1 | with_reducible apply State.Keeps.foldl2 | with_reducible apply State.Keeps.foldl22
    | simp only [↓State.Keeps.upd, ↓State.Keeps.updFlash, ↓State.Keeps.updPoison]
    | split
    | dsimp only

theorem execSt16_keeps {orig : State} (cid : CoreId) (b : Body) {s : State} (h2 : orig.Keeps s) :
    orig.KeepsOut (execSt16 cid b s) := by
  unfold execSt16
  repeat' first
    | with_reducible assumption
    | intro _
    | with_reducible apply State.KeepsOut.next
    | (with_reducible apply memOp_keeps)
    | with_reducible apply State.Keeps.ite | with_reducible apply State.Keeps.ite1 | with_reducible apply State.Keeps.ite2 | with_reducible apply State.Keeps.elim
    | with_reducible apply State.Keeps.foldl | with_reducible apply State.Keeps.foldl1 | with_reducible apply State.Keeps.foldl2 | with_reducible apply State.Keeps.foldl22
    | simp only [↓State.Keeps.upd, ↓State.Keeps.updFlash, ↓State.Keeps.updPoison]
    | split
    | dsimp only

theorem execSt32_keeps {orig : State} (cid : CoreId) (b : Body) {s : State} (h2 : orig.Keeps s) :
    orig.KeepsOut (execSt32 cid b s) := by
  unfold execSt32
  repeat' first
    | with_reducible assumption
    | intro _
    | with_reducible apply State.KeepsOut.next
    | (with_reducible apply memOp_keeps)
    | with_reducible apply State.Keeps.ite | with_reducible apply State.Keeps.ite1 | with_reducible apply State.Keeps.ite2 | with_reducible apply State.Keeps.elim
    | with_reducible apply State.Keeps.foldl | with_reducible apply State.Keeps.foldl1 | with_reducible apply State.Keeps.foldl2 | with_reducible apply State.Keeps.foldl22
    | simp only [↓State.Keeps.upd, ↓State.Keeps.updFlash, ↓State.Keeps.updPoison]
    | split
    | dsimp only

theorem execSt64_keeps {orig : State} (cid : CoreId) (b : Body) {s : State} (h2 : orig.Keeps s) :
    orig.KeepsOut (execSt64 cid b s) := by
  unfold execSt64
  repeat' first
    | with_reducible assumption
    | intro _
    | with_reducible apply State.KeepsOut.next
    | (with_reducible apply memOp_keeps)
    | with_reducible apply State.Keeps.ite | with_reducible apply State.Keeps.ite1 | with_reducible apply State.Keeps.ite2 | with_reducible apply State.Keeps.elim
    | with_reducible apply State.Keeps.foldl | with_reducible apply State.Keeps.foldl1 | with_reducible apply State.Keeps.foldl2 | with_reducible apply State.Keeps.foldl22
    | simp only [↓State.Keeps.upd, ↓State.Keeps.updFlash, ↓State.Keeps.updPoison]
    | split
    | dsimp only

theorem semOp_keeps {orig : State} (opc : Nat) (used : List Nat) (op : FlightOp) (wr : Bool) (hold : Bool) (cid : CoreId) (b : Body) {s : State} (h7 : orig.Keeps s) :
    orig.KeepsOut (semOp opc used op wr hold cid b s) := by
  unfold semOp
  repeat' first
    | with_reducible assumption
    | intro _
    | with_reducible apply State.KeepsOut.next
    | (with_reducible apply dispatchSeq_keeps) | (with_reducible apply State.launchFlight_keeps)
    | (with_reducible apply State.modCore_keeps)
    | with_reducible apply State.Keeps.ite | with_reducible apply State.Keeps.ite1 | with_reducible apply State.Keeps.ite2 | with_reducible apply State.Keeps.elim
    | with_reducible apply State.Keeps.foldl | with_reducible apply State.Keeps.foldl1 | with_reducible apply State.Keeps.foldl2 | with_reducible apply State.Keeps.foldl22
    | simp only [↓State.Keeps.upd, ↓State.Keeps.updFlash, ↓State.Keeps.updPoison]
    | split
    | dsimp only

theorem execSemAdd_keeps {orig : State} (cid : CoreId) (b : Body) {s : State} (h2 : orig.Keeps s) :
    orig.KeepsOut (execSemAdd cid b s) := by
  unfold execSemAdd
  repeat' first
    | with_reducible assumption
    | intro _
    | with_reducible apply State.KeepsOut.next
    | (with_reducible apply semOp_keeps)
    | with_reducible apply State.Keeps.ite | with_reducible apply State.Keeps.ite1 | with_reducible apply State.Keeps.ite2 | with_reducible apply State.Keeps.elim
    | with_reducible apply State.Keeps.foldl | with_reducible apply State.Keeps.foldl1 | with_reducible apply State.Keeps.foldl2 | with_reducible apply State.Keeps.foldl22
    | simp only [↓State.Keeps.upd, ↓State.Keeps.updFlash, ↓State.Keeps.updPoison]
    | split
    | dsimp only

theorem execSemCas_keeps {orig : State} (cid : CoreId) (b : Body) {s : State} (h2 : orig.Keeps s) :
    orig.KeepsOut (execSemCas cid b s) := by
  unfold execSemCas
  repeat' first
    | with_reducible assumption
    | intro _
    | with_reducible apply State.KeepsOut.next
    | (with_reducible apply semOp_keeps)
    | with_reducible apply State.Keeps.ite | with_reducible apply State.Keeps.ite1 | with_reducible apply State.Keeps.ite2 | with_reducible apply State.Keeps.elim
    | with_reducible apply State.Keeps.foldl | with_reducible apply State.Keeps.foldl1 | with_reducible apply State.Keeps.foldl2 | with_reducible apply State.Keeps.foldl22
    | simp only [↓State.Keeps.upd, ↓State.Keeps.updFlash, ↓State.Keeps.updPoison]
    | split
    | dsimp only

theorem execSemWait_keeps {orig : State} (cid : CoreId) (b : Body) {s : State} (h2 : orig.Keeps s) :
    orig.KeepsOut (execSemWait cid b s) := by
  unfold execSemWait
  repeat' first
    | with_reducible assumption
    | intro _
    | with_reducible apply State.KeepsOut.next
    | (with_reducible apply semOp_keeps)
    | with_reducible apply State.Keeps.ite | with_reducible apply State.Keeps.ite1 | with_reducible apply State.Keeps.ite2 | with_reducible apply State.Keeps.elim
    | with_reducible apply State.Keeps.foldl | with_reducible apply State.Keeps.foldl1 | with_reducible apply State.Keeps.foldl2 | with_reducible apply State.Keeps.foldl22
    | simp only [↓State.Keeps.upd, ↓State.Keeps.updFlash, ↓State.Keeps.updPoison]
    | split
    | dsimp only

theorem privOp_keeps {orig : State} (op : Nat) (used : List Nat) (chk : State → Option (FaultCode × Nat)) (eff : Nat → State → State) (cid : CoreId) (b : Body) {s : State} (h3 : ∀ n s, orig.Keeps s → orig.Keeps (eff n s)) (h6 : orig.Keeps s) :
    orig.KeepsOut (privOp op used chk eff cid b s) := by
  unfold privOp
  repeat' first
    | with_reducible assumption
    | intro _
    | with_reducible apply State.KeepsOut.next
    | (with_reducible apply dispatchSeq_keeps) | (with_reducible apply h3)
    | with_reducible apply State.Keeps.ite | with_reducible apply State.Keeps.ite1 | with_reducible apply State.Keeps.ite2 | with_reducible apply State.Keeps.elim
    | with_reducible apply State.Keeps.foldl | with_reducible apply State.Keeps.foldl1 | with_reducible apply State.Keeps.foldl2 | with_reducible apply State.Keeps.foldl22
    | simp only [↓State.Keeps.upd, ↓State.Keeps.updFlash, ↓State.Keeps.updPoison]
    | split
    | dsimp only

theorem execHatch_keeps {orig : State} (cid : CoreId) (b : Body) {s : State} (h2 : orig.Keeps s) :
    orig.KeepsOut (execHatch cid b s) := by
  unfold execHatch
  repeat' first
    | with_reducible assumption
    | intro _
    | with_reducible apply State.KeepsOut.next
    | (with_reducible apply privOp_keeps) | (with_reducible apply State.modCore_keeps) | (with_reducible apply State.startHatch_keeps)
    | with_reducible apply State.Keeps.ite | with_reducible apply State.Keeps.ite1 | with_reducible apply State.Keeps.ite2 | with_reducible apply State.Keeps.elim
    | with_reducible apply State.Keeps.foldl | with_reducible apply State.Keeps.foldl1 | with_reducible apply State.Keeps.foldl2 | with_reducible apply State.Keeps.foldl22
    | simp only [↓State.Keeps.upd, ↓State.Keeps.updFlash, ↓State.Keeps.updPoison]
    | split
    | dsimp only

theorem execHostevF_keeps {orig : State} (cid : CoreId) (b : Body) {s : State} (h2 : orig.Keeps s) :
    orig.KeepsOut (execHostevF cid b s) := by
  unfold execHostevF
  repeat' first
    | with_reducible assumption
    | intro _
    | with_reducible apply State.KeepsOut.next
    | (with_reducible apply State.postRead_keeps) | (with_reducible apply privOp_keeps) | (with_reducible apply State.instrEv_keeps)
    | (with_reducible apply State.hostEvent_keeps)
    | with_reducible apply State.Keeps.ite | with_reducible apply State.Keeps.ite1 | with_reducible apply State.Keeps.ite2 | with_reducible apply State.Keeps.elim
    | with_reducible apply State.Keeps.foldl | with_reducible apply State.Keeps.foldl1 | with_reducible apply State.Keeps.foldl2 | with_reducible apply State.Keeps.foldl22
    | simp only [↓State.Keeps.upd, ↓State.Keeps.updFlash, ↓State.Keeps.updPoison]
    | split
    | dsimp only

theorem execWdb_keeps {orig : State} (cid : CoreId) (b : Body) {s : State} (h2 : orig.Keeps s) :
    orig.KeepsOut (execWdb cid b s) := by
  unfold execWdb
  repeat' first
    | with_reducible assumption
    | intro _
    | with_reducible apply State.KeepsOut.next
    | (with_reducible apply privOp_keeps) | (with_reducible apply State.giveNotice_keeps) | (with_reducible apply State.modCore_keeps)
    | with_reducible apply State.Keeps.ite | with_reducible apply State.Keeps.ite1 | with_reducible apply State.Keeps.ite2 | with_reducible apply State.Keeps.elim
    | with_reducible apply State.Keeps.foldl | with_reducible apply State.Keeps.foldl1 | with_reducible apply State.Keeps.foldl2 | with_reducible apply State.Keeps.foldl22
    | simp only [↓State.Keeps.upd, ↓State.Keeps.updFlash, ↓State.Keeps.updPoison]
    | split
    | dsimp only

theorem State.enterCtx_keeps {orig : State} {s : State} (k : Nat) (rd : Nat) (n : Nat) (pc : Nat) (limit : Nat) (eve : Option Nat) (h0 : orig.Keeps s) :
    orig.Keeps (State.enterCtx s k rd n pc limit eve) := by
  unfold State.enterCtx
  repeat' first
    | with_reducible assumption
    | intro _
    | (with_reducible apply State.fwEvent_keeps) | (with_reducible apply State.modCore_keeps)
    | (with_reducible apply State.swapSet_keeps)
    | with_reducible apply State.Keeps.ite | with_reducible apply State.Keeps.ite1 | with_reducible apply State.Keeps.ite2 | with_reducible apply State.Keeps.elim
    | with_reducible apply State.Keeps.foldl | with_reducible apply State.Keeps.foldl1 | with_reducible apply State.Keeps.foldl2 | with_reducible apply State.Keeps.foldl22
    | simp only [↓State.Keeps.upd, ↓State.Keeps.updFlash, ↓State.Keeps.updPoison]
    | split
    | dsimp only

theorem execCtxEnter_keeps {orig : State} (cid : CoreId) (b : Body) {s : State} (h2 : orig.Keeps s) :
    orig.KeepsOut (execCtxEnter cid b s) := by
  unfold execCtxEnter
  repeat' first
    | with_reducible assumption
    | intro _
    | with_reducible apply State.KeepsOut.next
    | (with_reducible apply privOp_keeps) | (with_reducible apply State.enterCtx_keeps)
    | with_reducible apply State.Keeps.ite | with_reducible apply State.Keeps.ite1 | with_reducible apply State.Keeps.ite2 | with_reducible apply State.Keeps.elim
    | with_reducible apply State.Keeps.foldl | with_reducible apply State.Keeps.foldl1 | with_reducible apply State.Keeps.foldl2 | with_reducible apply State.Keeps.foldl22
    | simp only [↓State.Keeps.upd, ↓State.Keeps.updFlash, ↓State.Keeps.updPoison]
    | split
    | dsimp only

end Sys2Proof.Machine
end

