-- ==== Sys2Proof/Laws/KeepTile.lean ====
section
/-! SUPPORT. What the operations of Machine/Tile.lean keep. -/

set_option linter.all false

namespace Sys2Proof.Machine

theorem State.popQueue_keeps {orig : State} {s : State} (key : Nat) (e : Engine) (h0 : orig.Keeps s) :
    orig.Keeps (State.popQueue s key e) := by
  unfold State.popQueue
  repeat' first
    | with_reducible assumption
    | intro _
    | (with_reducible apply State.modCore_keeps)
    | with_reducible apply State.Keeps.ite | with_reducible apply State.Keeps.ite1 | with_reducible apply State.Keeps.ite2 | with_reducible apply State.Keeps.elim
    | with_reducible apply State.Keeps.foldl | with_reducible apply State.Keeps.foldl1 | with_reducible apply State.Keeps.foldl2 | with_reducible apply State.Keeps.foldl22
    | simp only [↓State.Keeps.upd, ↓State.Keeps.updFlash, ↓State.Keeps.updPoison]
    | split
    | dsimp only

theorem State.complete_keeps {orig : State} {s : State} (key : Nat) (e : QEntry) (addr : Nat) (h0 : orig.Keeps s) :
    orig.Keeps (State.complete s key e addr) := by
  unfold State.complete
  repeat' first
    | with_reducible assumption
    | intro _
    | (with_reducible apply State.settle_keeps) | (with_reducible apply State.instrEv_keeps) | (with_reducible apply State.pmcOwn_keeps)
    | with_reducible apply State.Keeps.ite | with_reducible apply State.Keeps.ite1 | with_reducible apply State.Keeps.ite2 | with_reducible apply State.Keeps.elim
    | with_reducible apply State.Keeps.foldl | with_reducible apply State.Keeps.foldl1 | with_reducible apply State.Keeps.foldl2 | with_reducible apply State.Keeps.foldl22
    | simp only [↓State.Keeps.upd, ↓State.Keeps.updFlash, ↓State.Keeps.updPoison]
    | split
    | dsimp only

theorem State.engFault_keeps {orig : State} {s : State} (key : Nat) (eng : Engine) (e : QEntry) (code : FaultCode) (addr : Nat) (h0 : orig.Keeps s) :
    orig.Keeps (State.engFault s key eng e code addr) := by
  unfold State.engFault
  repeat' first
    | with_reducible assumption
    | intro _
    | (with_reducible apply State.coreFault_keeps) | (with_reducible apply State.modCore_keeps)
    | with_reducible apply State.Keeps.ite | with_reducible apply State.Keeps.ite1 | with_reducible apply State.Keeps.ite2 | with_reducible apply State.Keeps.elim
    | with_reducible apply State.Keeps.foldl | with_reducible apply State.Keeps.foldl1 | with_reducible apply State.Keeps.foldl2 | with_reducible apply State.Keeps.foldl22
    | simp only [↓State.Keeps.upd, ↓State.Keeps.updFlash, ↓State.Keeps.updPoison]
    | split
    | dsimp only

theorem tileOp_keeps {orig : State} (op : Nat) (fm : IFmt) (used : List Nat) (chk : Nat → QEntry → Option (FaultCode × Nat)) (cid : CoreId) (b : Body) {s : State} (h6 : orig.Keeps s) :
    orig.KeepsOut (tileOp op fm used chk cid b s) := by
  unfold tileOp
  repeat' first
    | with_reducible assumption
    | intro _
    | with_reducible apply State.KeepsOut.next
    | (with_reducible apply dispatchEng_keeps)
    | with_reducible apply State.Keeps.ite | with_reducible apply State.Keeps.ite1 | with_reducible apply State.Keeps.ite2 | with_reducible apply State.Keeps.elim
    | with_reducible apply State.Keeps.foldl | with_reducible apply State.Keeps.foldl1 | with_reducible apply State.Keeps.foldl2 | with_reducible apply State.Keeps.foldl22
    | simp only [↓State.Keeps.upd, ↓State.Keeps.updFlash, ↓State.Keeps.updPoison]
    | split
    | dsimp only

theorem execTld_keeps {orig : State} (cid : CoreId) (b : Body) {s : State} (h2 : orig.Keeps s) :
    orig.KeepsOut (execTld cid b s) := by
  unfold execTld
  repeat' first
    | with_reducible assumption
    | intro _
    | with_reducible apply State.KeepsOut.next
    | (with_reducible apply tileOp_keeps)
    | with_reducible apply State.Keeps.ite | with_reducible apply State.Keeps.ite1 | with_reducible apply State.Keeps.ite2 | with_reducible apply State.Keeps.elim
    | with_reducible apply State.Keeps.foldl | with_reducible apply State.Keeps.foldl1 | with_reducible apply State.Keeps.foldl2 | with_reducible apply State.Keeps.foldl22
    | simp only [↓State.Keeps.upd, ↓State.Keeps.updFlash, ↓State.Keeps.updPoison]
    | split
    | dsimp only

theorem execTst_keeps {orig : State} (cid : CoreId) (b : Body) {s : State} (h2 : orig.Keeps s) :
    orig.KeepsOut (execTst cid b s) := by
  unfold execTst
  repeat' first
    | with_reducible assumption
    | intro _
    | with_reducible apply State.KeepsOut.next
    | (with_reducible apply tileOp_keeps)
    | with_reducible apply State.Keeps.ite | with_reducible apply State.Keeps.ite1 | with_reducible apply State.Keeps.ite2 | with_reducible apply State.Keeps.elim
    | with_reducible apply State.Keeps.foldl | with_reducible apply State.Keeps.foldl1 | with_reducible apply State.Keeps.foldl2 | with_reducible apply State.Keeps.foldl22
    | simp only [↓State.Keeps.upd, ↓State.Keeps.updFlash, ↓State.Keeps.updPoison]
    | split
    | dsimp only

theorem execTmov_keeps {orig : State} (cid : CoreId) (b : Body) {s : State} (h2 : orig.Keeps s) :
    orig.KeepsOut (execTmov cid b s) := by
  unfold execTmov
  repeat' first
    | with_reducible assumption
    | intro _
    | with_reducible apply State.KeepsOut.next
    | (with_reducible apply tileOp_keeps)
    | with_reducible apply State.Keeps.ite | with_reducible apply State.Keeps.ite1 | with_reducible apply State.Keeps.ite2 | with_reducible apply State.Keeps.elim
    | with_reducible apply State.Keeps.foldl | with_reducible apply State.Keeps.foldl1 | with_reducible apply State.Keeps.foldl2 | with_reducible apply State.Keeps.foldl22
    | simp only [↓State.Keeps.upd, ↓State.Keeps.updFlash, ↓State.Keeps.updPoison]
    | split
    | dsimp only

theorem execTzero_keeps {orig : State} (cid : CoreId) (b : Body) {s : State} (h2 : orig.Keeps s) :
    orig.KeepsOut (execTzero cid b s) := by
  unfold execTzero
  repeat' first
    | with_reducible assumption
    | intro _
    | with_reducible apply State.KeepsOut.next
    | (with_reducible apply tileOp_keeps)
    | with_reducible apply State.Keeps.ite | with_reducible apply State.Keeps.ite1 | with_reducible apply State.Keeps.ite2 | with_reducible apply State.Keeps.elim
    | with_reducible apply State.Keeps.foldl | with_reducible apply State.Keeps.foldl1 | with_reducible apply State.Keeps.foldl2 | with_reducible apply State.Keeps.foldl22
    | simp only [↓State.Keeps.upd, ↓State.Keeps.updFlash, ↓State.Keeps.updPoison]
    | split
    | dsimp only

theorem execSpcpy_keeps {orig : State} (cid : CoreId) (b : Body) {s : State} (h2 : orig.Keeps s) :
    orig.KeepsOut (execSpcpy cid b s) := by
  unfold execSpcpy
  repeat' first
    | with_reducible assumption
    | intro _
    | with_reducible apply State.KeepsOut.next
    | (with_reducible apply tileOp_keeps)
    | with_reducible apply State.Keeps.ite | with_reducible apply State.Keeps.ite1 | with_reducible apply State.Keeps.ite2 | with_reducible apply State.Keeps.elim
    | with_reducible apply State.Keeps.foldl | with_reducible apply State.Keeps.foldl1 | with_reducible apply State.Keeps.foldl2 | with_reducible apply State.Keeps.foldl22
    | simp only [↓State.Keeps.upd, ↓State.Keeps.updFlash, ↓State.Keeps.updPoison]
    | split
    | dsimp only

theorem State.startMove_keeps {orig : State} {s : State} (key : Nat) (q : QEntry) (h0 : orig.Keeps s) :
    orig.Keeps (State.startMove s key q) := by
  unfold State.startMove
  repeat' first
    | with_reducible assumption
    | intro _
    | (with_reducible apply State.popQueue_keeps) | (with_reducible apply State.modCore_keeps)
    | (with_reducible apply State.engFault_keeps) | (with_reducible apply State.tileRecord_keeps)
    | (with_reducible apply State.poisonRecord_keeps) | (with_reducible apply State.padServed_keeps)
    | (with_reducible apply State.tilesRead_keeps)
    | with_reducible apply State.Keeps.ite | with_reducible apply State.Keeps.ite1 | with_reducible apply State.Keeps.ite2 | with_reducible apply State.Keeps.elim
    | with_reducible apply State.Keeps.foldl | with_reducible apply State.Keeps.foldl1 | with_reducible apply State.Keeps.foldl2 | with_reducible apply State.Keeps.foldl22
    | simp only [↓State.Keeps.upd, ↓State.Keeps.updFlash, ↓State.Keeps.updPoison]
    | split
    | dsimp only

theorem State.moveComplete_keeps {orig : State} {s : State} (key : Nat) (h0 : orig.Keeps s) :
    orig.Keeps (State.moveComplete s key) := by
  unfold State.moveComplete
  repeat' first
    | with_reducible assumption
    | intro _
    | (with_reducible apply State.modCore_keeps) | (with_reducible apply State.writeParts_keeps)
    | (with_reducible apply State.padServed_keeps) | (with_reducible apply State.tilesWritten_keeps)
    | (with_reducible apply State.complete_keeps)
    | with_reducible apply State.Keeps.ite | with_reducible apply State.Keeps.ite1 | with_reducible apply State.Keeps.ite2 | with_reducible apply State.Keeps.elim
    | with_reducible apply State.Keeps.foldl | with_reducible apply State.Keeps.foldl1 | with_reducible apply State.Keeps.foldl2 | with_reducible apply State.Keeps.foldl22
    | simp only [↓State.Keeps.upd, ↓State.Keeps.updFlash, ↓State.Keeps.updPoison]
    | split
    | dsimp only

theorem execTileMoveComplete_keeps {orig : State} (cid : CoreId) {s : State} (h1 : orig.Keeps s) :
    orig.KeepsOut (execTileMoveComplete cid s) := by
  unfold execTileMoveComplete
  repeat' first
    | with_reducible assumption
    | intro _
    | with_reducible apply State.KeepsOut.next
    | (with_reducible apply State.moveComplete_keeps)
    | with_reducible apply State.Keeps.ite | with_reducible apply State.Keeps.ite1 | with_reducible apply State.Keeps.ite2 | with_reducible apply State.Keeps.elim
    | with_reducible apply State.Keeps.foldl | with_reducible apply State.Keeps.foldl1 | with_reducible apply State.Keeps.foldl2 | with_reducible apply State.Keeps.foldl22
    | simp only [↓State.Keeps.upd, ↓State.Keeps.updFlash, ↓State.Keeps.updPoison]
    | split
    | dsimp only

end Sys2Proof.Machine
end

