-- ==== Sys2Proof/Laws/KeepVector.lean ====
section
/-! SUPPORT. What the operations of Machine/Vector.lean keep. -/

set_option linter.all false

namespace Sys2Proof.Machine

theorem vecOp_keeps {orig : State} (cls : Nat) (op : Nat) (used : Body → List Nat) (allowed : Nat) (ok : Body → Bool) (groups : Body → List (Nat × Nat)) (cid : CoreId) (b : Body) {s : State} (h8 : orig.Keeps s) :
    orig.KeepsOut (vecOp cls op used allowed ok groups cid b s) := by
  unfold vecOp
  repeat' first
    | with_reducible assumption
    | intro _
    | with_reducible apply State.KeepsOut.next
    | (with_reducible apply dispatchEng_keeps)
    | with_reducible apply State.Keeps.ite | with_reducible apply State.Keeps.ite1 | with_reducible apply State.Keeps.ite2 | with_reducible apply State.Keeps.elim
    | with_reducible apply State.Keeps.foldl | with_reducible apply State.Keeps.foldl1 | with_reducible apply State.Keeps.foldl2 | with_reducible apply State.Keeps.foldl22
    | simp only [↓State.Keeps.upd, ↓State.Keeps.updFlash, ↓State.Keeps.updPoison]
    | split
    | dsimp only

theorem execVadd_keeps {orig : State} (cid : CoreId) (b : Body) {s : State} (h2 : orig.Keeps s) :
    orig.KeepsOut (execVadd cid b s) := by
  unfold execVadd
  repeat' first
    | with_reducible assumption
    | intro _
    | with_reducible apply State.KeepsOut.next
    | (with_reducible apply vecOp_keeps)
    | with_reducible apply State.Keeps.ite | with_reducible apply State.Keeps.ite1 | with_reducible apply State.Keeps.ite2 | with_reducible apply State.Keeps.elim
    | with_reducible apply State.Keeps.foldl | with_reducible apply State.Keeps.foldl1 | with_reducible apply State.Keeps.foldl2 | with_reducible apply State.Keeps.foldl22
    | simp only [↓State.Keeps.upd, ↓State.Keeps.updFlash, ↓State.Keeps.updPoison]
    | split
    | dsimp only

theorem execVsub_keeps {orig : State} (cid : CoreId) (b : Body) {s : State} (h2 : orig.Keeps s) :
    orig.KeepsOut (execVsub cid b s) := by
  unfold execVsub
  repeat' first
    | with_reducible assumption
    | intro _
    | with_reducible apply State.KeepsOut.next
    | (with_reducible apply vecOp_keeps)
    | with_reducible apply State.Keeps.ite | with_reducible apply State.Keeps.ite1 | with_reducible apply State.Keeps.ite2 | with_reducible apply State.Keeps.elim
    | with_reducible apply State.Keeps.foldl | with_reducible apply State.Keeps.foldl1 | with_reducible apply State.Keeps.foldl2 | with_reducible apply State.Keeps.foldl22
    | simp only [↓State.Keeps.upd, ↓State.Keeps.updFlash, ↓State.Keeps.updPoison]
    | split
    | dsimp only

theorem execVmul_keeps {orig : State} (cid : CoreId) (b : Body) {s : State} (h2 : orig.Keeps s) :
    orig.KeepsOut (execVmul cid b s) := by
  unfold execVmul
  repeat' first
    | with_reducible assumption
    | intro _
    | with_reducible apply State.KeepsOut.next
    | (with_reducible apply vecOp_keeps)
    | with_reducible apply State.Keeps.ite | with_reducible apply State.Keeps.ite1 | with_reducible apply State.Keeps.ite2 | with_reducible apply State.Keeps.elim
    | with_reducible apply State.Keeps.foldl | with_reducible apply State.Keeps.foldl1 | with_reducible apply State.Keeps.foldl2 | with_reducible apply State.Keeps.foldl22
    | simp only [↓State.Keeps.upd, ↓State.Keeps.updFlash, ↓State.Keeps.updPoison]
    | split
    | dsimp only

theorem execVfma_keeps {orig : State} (cid : CoreId) (b : Body) {s : State} (h2 : orig.Keeps s) :
    orig.KeepsOut (execVfma cid b s) := by
  unfold execVfma
  repeat' first
    | with_reducible assumption
    | intro _
    | with_reducible apply State.KeepsOut.next
    | (with_reducible apply vecOp_keeps)
    | with_reducible apply State.Keeps.ite | with_reducible apply State.Keeps.ite1 | with_reducible apply State.Keeps.ite2 | with_reducible apply State.Keeps.elim
    | with_reducible apply State.Keeps.foldl | with_reducible apply State.Keeps.foldl1 | with_reducible apply State.Keeps.foldl2 | with_reducible apply State.Keeps.foldl22
    | simp only [↓State.Keeps.upd, ↓State.Keeps.updFlash, ↓State.Keeps.updPoison]
    | split
    | dsimp only

theorem execVmin_keeps {orig : State} (cid : CoreId) (b : Body) {s : State} (h2 : orig.Keeps s) :
    orig.KeepsOut (execVmin cid b s) := by
  unfold execVmin
  repeat' first
    | with_reducible assumption
    | intro _
    | with_reducible apply State.KeepsOut.next
    | (with_reducible apply vecOp_keeps)
    | with_reducible apply State.Keeps.ite | with_reducible apply State.Keeps.ite1 | with_reducible apply State.Keeps.ite2 | with_reducible apply State.Keeps.elim
    | with_reducible apply State.Keeps.foldl | with_reducible apply State.Keeps.foldl1 | with_reducible apply State.Keeps.foldl2 | with_reducible apply State.Keeps.foldl22
    | simp only [↓State.Keeps.upd, ↓State.Keeps.updFlash, ↓State.Keeps.updPoison]
    | split
    | dsimp only

theorem execVmax_keeps {orig : State} (cid : CoreId) (b : Body) {s : State} (h2 : orig.Keeps s) :
    orig.KeepsOut (execVmax cid b s) := by
  unfold execVmax
  repeat' first
    | with_reducible assumption
    | intro _
    | with_reducible apply State.KeepsOut.next
    | (with_reducible apply vecOp_keeps)
    | with_reducible apply State.Keeps.ite | with_reducible apply State.Keeps.ite1 | with_reducible apply State.Keeps.ite2 | with_reducible apply State.Keeps.elim
    | with_reducible apply State.Keeps.foldl | with_reducible apply State.Keeps.foldl1 | with_reducible apply State.Keeps.foldl2 | with_reducible apply State.Keeps.foldl22
    | simp only [↓State.Keeps.upd, ↓State.Keeps.updFlash, ↓State.Keeps.updPoison]
    | split
    | dsimp only

theorem execVabs_keeps {orig : State} (cid : CoreId) (b : Body) {s : State} (h2 : orig.Keeps s) :
    orig.KeepsOut (execVabs cid b s) := by
  unfold execVabs
  repeat' first
    | with_reducible assumption
    | intro _
    | with_reducible apply State.KeepsOut.next
    | (with_reducible apply vecOp_keeps)
    | with_reducible apply State.Keeps.ite | with_reducible apply State.Keeps.ite1 | with_reducible apply State.Keeps.ite2 | with_reducible apply State.Keeps.elim
    | with_reducible apply State.Keeps.foldl | with_reducible apply State.Keeps.foldl1 | with_reducible apply State.Keeps.foldl2 | with_reducible apply State.Keeps.foldl22
    | simp only [↓State.Keeps.upd, ↓State.Keeps.updFlash, ↓State.Keeps.updPoison]
    | split
    | dsimp only

theorem execVneg_keeps {orig : State} (cid : CoreId) (b : Body) {s : State} (h2 : orig.Keeps s) :
    orig.KeepsOut (execVneg cid b s) := by
  unfold execVneg
  repeat' first
    | with_reducible assumption
    | intro _
    | with_reducible apply State.KeepsOut.next
    | (with_reducible apply vecOp_keeps)
    | with_reducible apply State.Keeps.ite | with_reducible apply State.Keeps.ite1 | with_reducible apply State.Keeps.ite2 | with_reducible apply State.Keeps.elim
    | with_reducible apply State.Keeps.foldl | with_reducible apply State.Keeps.foldl1 | with_reducible apply State.Keeps.foldl2 | with_reducible apply State.Keeps.foldl22
    | simp only [↓State.Keeps.upd, ↓State.Keeps.updFlash, ↓State.Keeps.updPoison]
    | split
    | dsimp only

theorem execVsel_keeps {orig : State} (cid : CoreId) (b : Body) {s : State} (h2 : orig.Keeps s) :
    orig.KeepsOut (execVsel cid b s) := by
  unfold execVsel
  repeat' first
    | with_reducible assumption
    | intro _
    | with_reducible apply State.KeepsOut.next
    | (with_reducible apply vecOp_keeps)
    | with_reducible apply State.Keeps.ite | with_reducible apply State.Keeps.ite1 | with_reducible apply State.Keeps.ite2 | with_reducible apply State.Keeps.elim
    | with_reducible apply State.Keeps.foldl | with_reducible apply State.Keeps.foldl1 | with_reducible apply State.Keeps.foldl2 | with_reducible apply State.Keeps.foldl22
    | simp only [↓State.Keeps.upd, ↓State.Keeps.updFlash, ↓State.Keeps.updPoison]
    | split
    | dsimp only

theorem execVcmp_keeps {orig : State} (cid : CoreId) (b : Body) {s : State} (h2 : orig.Keeps s) :
    orig.KeepsOut (execVcmp cid b s) := by
  unfold execVcmp
  repeat' first
    | with_reducible assumption
    | intro _
    | with_reducible apply State.KeepsOut.next
    | (with_reducible apply vecOp_keeps)
    | with_reducible apply State.Keeps.ite | with_reducible apply State.Keeps.ite1 | with_reducible apply State.Keeps.ite2 | with_reducible apply State.Keeps.elim
    | with_reducible apply State.Keeps.foldl | with_reducible apply State.Keeps.foldl1 | with_reducible apply State.Keeps.foldl2 | with_reducible apply State.Keeps.foldl22
    | simp only [↓State.Keeps.upd, ↓State.Keeps.updFlash, ↓State.Keeps.updPoison]
    | split
    | dsimp only

theorem execVact_keeps {orig : State} (cid : CoreId) (b : Body) {s : State} (h2 : orig.Keeps s) :
    orig.KeepsOut (execVact cid b s) := by
  unfold execVact
  repeat' first
    | with_reducible assumption
    | intro _
    | with_reducible apply State.KeepsOut.next
    | (with_reducible apply vecOp_keeps)
    | with_reducible apply State.Keeps.ite | with_reducible apply State.Keeps.ite1 | with_reducible apply State.Keeps.ite2 | with_reducible apply State.Keeps.elim
    | with_reducible apply State.Keeps.foldl | with_reducible apply State.Keeps.foldl1 | with_reducible apply State.Keeps.foldl2 | with_reducible apply State.Keeps.foldl22
    | simp only [↓State.Keeps.upd, ↓State.Keeps.updFlash, ↓State.Keeps.updPoison]
    | split
    | dsimp only

theorem execVdrop_keeps {orig : State} (cid : CoreId) (b : Body) {s : State} (h2 : orig.Keeps s) :
    orig.KeepsOut (execVdrop cid b s) := by
  unfold execVdrop
  repeat' first
    | with_reducible assumption
    | intro _
    | with_reducible apply State.KeepsOut.next
    | (with_reducible apply vecOp_keeps)
    | with_reducible apply State.Keeps.ite | with_reducible apply State.Keeps.ite1 | with_reducible apply State.Keeps.ite2 | with_reducible apply State.Keeps.elim
    | with_reducible apply State.Keeps.foldl | with_reducible apply State.Keeps.foldl1 | with_reducible apply State.Keeps.foldl2 | with_reducible apply State.Keeps.foldl22
    | simp only [↓State.Keeps.upd, ↓State.Keeps.updFlash, ↓State.Keeps.updPoison]
    | split
    | dsimp only

theorem execVrand_keeps {orig : State} (cid : CoreId) (b : Body) {s : State} (h2 : orig.Keeps s) :
    orig.KeepsOut (execVrand cid b s) := by
  unfold execVrand
  repeat' first
    | with_reducible assumption
    | intro _
    | with_reducible apply State.KeepsOut.next
    | (with_reducible apply vecOp_keeps)
    | with_reducible apply State.Keeps.ite | with_reducible apply State.Keeps.ite1 | with_reducible apply State.Keeps.ite2 | with_reducible apply State.Keeps.elim
    | with_reducible apply State.Keeps.foldl | with_reducible apply State.Keeps.foldl1 | with_reducible apply State.Keeps.foldl2 | with_reducible apply State.Keeps.foldl22
    | simp only [↓State.Keeps.upd, ↓State.Keeps.updFlash, ↓State.Keeps.updPoison]
    | split
    | dsimp only

theorem execVtr_keeps {orig : State} (cid : CoreId) (b : Body) {s : State} (h2 : orig.Keeps s) :
    orig.KeepsOut (execVtr cid b s) := by
  unfold execVtr
  repeat' first
    | with_reducible assumption
    | intro _
    | with_reducible apply State.KeepsOut.next
    | (with_reducible apply vecOp_keeps)
    | with_reducible apply State.Keeps.ite | with_reducible apply State.Keeps.ite1 | with_reducible apply State.Keeps.ite2 | with_reducible apply State.Keeps.elim
    | with_reducible apply State.Keeps.foldl | with_reducible apply State.Keeps.foldl1 | with_reducible apply State.Keeps.foldl2 | with_reducible apply State.Keeps.foldl22
    | simp only [↓State.Keeps.upd, ↓State.Keeps.updFlash, ↓State.Keeps.updPoison]
    | split
    | dsimp only

theorem execVred_keeps {orig : State} (cid : CoreId) (b : Body) {s : State} (h2 : orig.Keeps s) :
    orig.KeepsOut (execVred cid b s) := by
  unfold execVred
  repeat' first
    | with_reducible assumption
    | intro _
    | with_reducible apply State.KeepsOut.next
    | (with_reducible apply vecOp_keeps)
    | with_reducible apply State.Keeps.ite | with_reducible apply State.Keeps.ite1 | with_reducible apply State.Keeps.ite2 | with_reducible apply State.Keeps.elim
    | with_reducible apply State.Keeps.foldl | with_reducible apply State.Keeps.foldl1 | with_reducible apply State.Keeps.foldl2 | with_reducible apply State.Keeps.foldl22
    | simp only [↓State.Keeps.upd, ↓State.Keeps.updFlash, ↓State.Keeps.updPoison]
    | split
    | dsimp only

theorem execVfin_keeps {orig : State} (cid : CoreId) (b : Body) {s : State} (h2 : orig.Keeps s) :
    orig.KeepsOut (execVfin cid b s) := by
  unfold execVfin
  repeat' first
    | with_reducible assumption
    | intro _
    | with_reducible apply State.KeepsOut.next
    | (with_reducible apply vecOp_keeps)
    | with_reducible apply State.Keeps.ite | with_reducible apply State.Keeps.ite1 | with_reducible apply State.Keeps.ite2 | with_reducible apply State.Keeps.elim
    | with_reducible apply State.Keeps.foldl | with_reducible apply State.Keeps.foldl1 | with_reducible apply State.Keeps.foldl2 | with_reducible apply State.Keeps.foldl22
    | simp only [↓State.Keeps.upd, ↓State.Keeps.updFlash, ↓State.Keeps.updPoison]
    | split
    | dsimp only

theorem execVsmax_keeps {orig : State} (cid : CoreId) (b : Body) {s : State} (h2 : orig.Keeps s) :
    orig.KeepsOut (execVsmax cid b s) := by
  unfold execVsmax
  repeat' first
    | with_reducible assumption
    | intro _
    | with_reducible apply State.KeepsOut.next
    | (with_reducible apply vecOp_keeps)
    | with_reducible apply State.Keeps.ite | with_reducible apply State.Keeps.ite1 | with_reducible apply State.Keeps.ite2 | with_reducible apply State.Keeps.elim
    | with_reducible apply State.Keeps.foldl | with_reducible apply State.Keeps.foldl1 | with_reducible apply State.Keeps.foldl2 | with_reducible apply State.Keeps.foldl22
    | simp only [↓State.Keeps.upd, ↓State.Keeps.updFlash, ↓State.Keeps.updPoison]
    | split
    | dsimp only

theorem execVlnorm_keeps {orig : State} (cid : CoreId) (b : Body) {s : State} (h2 : orig.Keeps s) :
    orig.KeepsOut (execVlnorm cid b s) := by
  unfold execVlnorm
  repeat' first
    | with_reducible assumption
    | intro _
    | with_reducible apply State.KeepsOut.next
    | (with_reducible apply vecOp_keeps)
    | with_reducible apply State.Keeps.ite | with_reducible apply State.Keeps.ite1 | with_reducible apply State.Keeps.ite2 | with_reducible apply State.Keeps.elim
    | with_reducible apply State.Keeps.foldl | with_reducible apply State.Keeps.foldl1 | with_reducible apply State.Keeps.foldl2 | with_reducible apply State.Keeps.foldl22
    | simp only [↓State.Keeps.upd, ↓State.Keeps.updFlash, ↓State.Keeps.updPoison]
    | split
    | dsimp only

theorem execVcvt_keeps {orig : State} (cid : CoreId) (b : Body) {s : State} (h2 : orig.Keeps s) :
    orig.KeepsOut (execVcvt cid b s) := by
  unfold execVcvt
  repeat' first
    | with_reducible assumption
    | intro _
    | with_reducible apply State.KeepsOut.next
    | (with_reducible apply vecOp_keeps)
    | with_reducible apply State.Keeps.ite | with_reducible apply State.Keeps.ite1 | with_reducible apply State.Keeps.ite2 | with_reducible apply State.Keeps.elim
    | with_reducible apply State.Keeps.foldl | with_reducible apply State.Keeps.foldl1 | with_reducible apply State.Keeps.foldl2 | with_reducible apply State.Keeps.foldl22
    | simp only [↓State.Keeps.upd, ↓State.Keeps.updFlash, ↓State.Keeps.updPoison]
    | split
    | dsimp only

theorem execVunp_keeps {orig : State} (cid : CoreId) (b : Body) {s : State} (h2 : orig.Keeps s) :
    orig.KeepsOut (execVunp cid b s) := by
  unfold execVunp
  repeat' first
    | with_reducible assumption
    | intro _
    | with_reducible apply State.KeepsOut.next
    | (with_reducible apply vecOp_keeps)
    | with_reducible apply State.Keeps.ite | with_reducible apply State.Keeps.ite1 | with_reducible apply State.Keeps.ite2 | with_reducible apply State.Keeps.elim
    | with_reducible apply State.Keeps.foldl | with_reducible apply State.Keeps.foldl1 | with_reducible apply State.Keeps.foldl2 | with_reducible apply State.Keeps.foldl22
    | simp only [↓State.Keeps.upd, ↓State.Keeps.updFlash, ↓State.Keeps.updPoison]
    | split
    | dsimp only

theorem execVcvtmx_keeps {orig : State} (cid : CoreId) (b : Body) {s : State} (h2 : orig.Keeps s) :
    orig.KeepsOut (execVcvtmx cid b s) := by
  unfold execVcvtmx
  repeat' first
    | with_reducible assumption
    | intro _
    | with_reducible apply State.KeepsOut.next
    | (with_reducible apply dispatchEng_keeps)
    | with_reducible apply State.Keeps.ite | with_reducible apply State.Keeps.ite1 | with_reducible apply State.Keeps.ite2 | with_reducible apply State.Keeps.elim
    | with_reducible apply State.Keeps.foldl | with_reducible apply State.Keeps.foldl1 | with_reducible apply State.Keeps.foldl2 | with_reducible apply State.Keeps.foldl22
    | simp only [↓State.Keeps.upd, ↓State.Keeps.updFlash, ↓State.Keeps.updPoison]
    | split
    | dsimp only

theorem execVepi_keeps {orig : State} (cid : CoreId) (b : Body) {s : State} (h2 : orig.Keeps s) :
    orig.KeepsOut (execVepi cid b s) := by
  unfold execVepi
  repeat' first
    | with_reducible assumption
    | intro _
    | with_reducible apply State.KeepsOut.next
    | (with_reducible apply dispatchEng_keeps)
    | with_reducible apply State.Keeps.ite | with_reducible apply State.Keeps.ite1 | with_reducible apply State.Keeps.ite2 | with_reducible apply State.Keeps.elim
    | with_reducible apply State.Keeps.foldl | with_reducible apply State.Keeps.foldl1 | with_reducible apply State.Keeps.foldl2 | with_reducible apply State.Keeps.foldl22
    | simp only [↓State.Keeps.upd, ↓State.Keeps.updFlash, ↓State.Keeps.updPoison]
    | split
    | dsimp only

theorem execVepis_keeps {orig : State} (cid : CoreId) (b : Body) {s : State} (h2 : orig.Keeps s) :
    orig.KeepsOut (execVepis cid b s) := by
  unfold execVepis
  repeat' first
    | with_reducible assumption
    | intro _
    | with_reducible apply State.KeepsOut.next
    | (with_reducible apply dispatchEng_keeps)
    | with_reducible apply State.Keeps.ite | with_reducible apply State.Keeps.ite1 | with_reducible apply State.Keeps.ite2 | with_reducible apply State.Keeps.elim
    | with_reducible apply State.Keeps.foldl | with_reducible apply State.Keeps.foldl1 | with_reducible apply State.Keeps.foldl2 | with_reducible apply State.Keeps.foldl22
    | simp only [↓State.Keeps.upd, ↓State.Keeps.updFlash, ↓State.Keeps.updPoison]
    | split
    | dsimp only

theorem execVset_keeps {orig : State} (cid : CoreId) (b : Body) {s : State} (h2 : orig.Keeps s) :
    orig.KeepsOut (execVset cid b s) := by
  unfold execVset
  repeat' first
    | with_reducible assumption
    | intro _
    | with_reducible apply State.KeepsOut.next
    | (with_reducible apply dispatchEng_keeps)
    | with_reducible apply State.Keeps.ite | with_reducible apply State.Keeps.ite1 | with_reducible apply State.Keeps.ite2 | with_reducible apply State.Keeps.elim
    | with_reducible apply State.Keeps.foldl | with_reducible apply State.Keeps.foldl1 | with_reducible apply State.Keeps.foldl2 | with_reducible apply State.Keeps.foldl22
    | simp only [↓State.Keeps.upd, ↓State.Keeps.updFlash, ↓State.Keeps.updPoison]
    | split
    | dsimp only

theorem State.readVec_keeps {orig : State} {s : State} (key : Nat) (h0 : orig.Keeps s) :
    orig.Keeps (State.readVec s key) := by
  unfold State.readVec
  repeat' first
    | with_reducible assumption
    | intro _
    | (with_reducible apply State.modCore_keeps) | (with_reducible apply State.engFault_keeps)
    | (with_reducible apply State.tileRecord_keeps) | (with_reducible apply State.poisonRecord_keeps)
    | (with_reducible apply State.padServed_keeps) | (with_reducible apply State.tilesRead_keeps)
    | with_reducible apply State.Keeps.ite | with_reducible apply State.Keeps.ite1 | with_reducible apply State.Keeps.ite2 | with_reducible apply State.Keeps.elim
    | with_reducible apply State.Keeps.foldl | with_reducible apply State.Keeps.foldl1 | with_reducible apply State.Keeps.foldl2 | with_reducible apply State.Keeps.foldl22
    | simp only [↓State.Keeps.upd, ↓State.Keeps.updFlash, ↓State.Keeps.updPoison]
    | split
    | dsimp only

theorem State.startVec_keeps {orig : State} {s : State} (key : Nat) (q : QEntry) (h0 : orig.Keeps s) :
    orig.Keeps (State.startVec s key q) := by
  unfold State.startVec
  repeat' first
    | with_reducible assumption
    | intro _
    | (with_reducible apply State.popQueue_keeps) | (with_reducible apply State.complete_keeps)
    | (with_reducible apply State.modCore_keeps) | (with_reducible apply State.readVec_keeps)
    | with_reducible apply State.Keeps.ite | with_reducible apply State.Keeps.ite1 | with_reducible apply State.Keeps.ite2 | with_reducible apply State.Keeps.elim
    | with_reducible apply State.Keeps.foldl | with_reducible apply State.Keeps.foldl1 | with_reducible apply State.Keeps.foldl2 | with_reducible apply State.Keeps.foldl22
    | simp only [↓State.Keeps.upd, ↓State.Keeps.updFlash, ↓State.Keeps.updPoison]
    | split
    | dsimp only

theorem State.residueRecord_keeps {orig : State} {s : State} (key : Nat) (q : QEntry) (r : Residue) (h0 : orig.Keeps s) :
    orig.Keeps (State.residueRecord s key q r) := by
  unfold State.residueRecord
  repeat' first
    | with_reducible assumption
    | intro _
    | (with_reducible apply State.quickRecord_keeps)
    | with_reducible apply State.Keeps.ite | with_reducible apply State.Keeps.ite1 | with_reducible apply State.Keeps.ite2 | with_reducible apply State.Keeps.elim
    | with_reducible apply State.Keeps.foldl | with_reducible apply State.Keeps.foldl1 | with_reducible apply State.Keeps.foldl2 | with_reducible apply State.Keeps.foldl22
    | simp only [↓State.Keeps.upd, ↓State.Keeps.updFlash, ↓State.Keeps.updPoison]
    | split
    | dsimp only

theorem State.endVec_keeps {orig : State} {s : State} (key : Nat) (r : VxRun) (h0 : orig.Keeps s) :
    orig.Keeps (State.endVec s key r) := by
  unfold State.endVec
  repeat' first
    | with_reducible assumption
    | intro _
    | (with_reducible apply State.padServed_keeps) | (with_reducible apply State.writeMem_keeps)
    | (with_reducible apply State.vxFlags_keeps) | (with_reducible apply State.numFlags_keeps)
    | (with_reducible apply State.complete_keeps) | (with_reducible apply State.pmcOwn_keeps)
    | with_reducible apply State.Keeps.ite | with_reducible apply State.Keeps.ite1 | with_reducible apply State.Keeps.ite2 | with_reducible apply State.Keeps.elim
    | with_reducible apply State.Keeps.foldl | with_reducible apply State.Keeps.foldl1 | with_reducible apply State.Keeps.foldl2 | with_reducible apply State.Keeps.foldl22
    | simp only [↓State.Keeps.upd, ↓State.Keeps.updFlash, ↓State.Keeps.updPoison]
    | split
    | dsimp only

theorem State.landVec_keeps {orig : State} {s0 : State} (key : Nat) (i : Nat) (found : Residue) (h0 : orig.Keeps s0) :
    orig.Keeps (State.landVec s0 key i found) := by
  unfold State.landVec
  repeat' first
    | with_reducible assumption
    | intro _
    | (with_reducible apply State.readVec_keeps) | (with_reducible apply State.tilesWritten_keeps)
    | (with_reducible apply State.residueRecord_keeps) | (with_reducible apply State.modCore_keeps)
    | (with_reducible apply State.endVec_keeps)
    | with_reducible apply State.Keeps.ite | with_reducible apply State.Keeps.ite1 | with_reducible apply State.Keeps.ite2 | with_reducible apply State.Keeps.elim
    | with_reducible apply State.Keeps.foldl | with_reducible apply State.Keeps.foldl1 | with_reducible apply State.Keeps.foldl2 | with_reducible apply State.Keeps.foldl22
    | simp only [↓State.Keeps.upd, ↓State.Keeps.updFlash, ↓State.Keeps.updPoison]
    | split
    | dsimp only

theorem execVectorTileLand_keeps {orig : State} (cid : CoreId) (l : VecLand) {s : State} (h2 : orig.Keeps s) :
    orig.KeepsOut (execVectorTileLand cid l s) := by
  unfold execVectorTileLand
  repeat' first
    | with_reducible assumption
    | intro _
    | with_reducible apply State.KeepsOut.next
    | (with_reducible apply State.landVec_keeps)
    | with_reducible apply State.Keeps.ite | with_reducible apply State.Keeps.ite1 | with_reducible apply State.Keeps.ite2 | with_reducible apply State.Keeps.elim
    | with_reducible apply State.Keeps.foldl | with_reducible apply State.Keeps.foldl1 | with_reducible apply State.Keeps.foldl2 | with_reducible apply State.Keeps.foldl22
    | simp only [↓State.Keeps.upd, ↓State.Keeps.updFlash, ↓State.Keeps.updPoison]
    | split
    | dsimp only

end Sys2Proof.Machine
end

