-- ==== Sys2Proof/Laws/KeepMatrix.lean ====
section
/-! SUPPORT. What the operations of Machine/Matrix.lean keep. -/

set_option linter.all false

namespace Sys2Proof.Machine

theorem execMst_keeps {orig : State} (cid : CoreId) (b : Body) {s : State} (h2 : orig.Keeps s) :
    orig.KeepsOut (execMst cid b s) := by
  unfold execMst
  repeat' first
    | with_reducible assumption
    | intro _
    | with_reducible apply State.KeepsOut.next
    | (with_reducible apply dispatchEng_keeps)
    | with_reducible apply State.Keeps.ite | with_reducible apply State.Keeps.ite1 | with_reducible apply State.Keeps.ite2 | with_reducible apply State.Keeps.elim
    | with_reducible apply State.Keeps.foldl | with_reducible apply State.Keeps.foldl1 | with_reducible apply State.Keeps.foldl2 | with_reducible apply State.Keeps.foldl22
    | simp only [↓State.Keeps.upd, ↓State.Keeps.updFlash, ↓State.Keeps.updPoison]
    | split
    | dsimp only

theorem mmxT_keeps {orig : State} (op : Nat) (cid : CoreId) (b : Body) {s : State} (h3 : orig.Keeps s) :
    orig.KeepsOut (mmxT op cid b s) := by
  unfold mmxT
  repeat' first
    | with_reducible assumption
    | intro _
    | with_reducible apply State.KeepsOut.next
    | (with_reducible apply dispatchEng_keeps)
    | with_reducible apply State.Keeps.ite | with_reducible apply State.Keeps.ite1 | with_reducible apply State.Keeps.ite2 | with_reducible apply State.Keeps.elim
    | with_reducible apply State.Keeps.foldl | with_reducible apply State.Keeps.foldl1 | with_reducible apply State.Keeps.foldl2 | with_reducible apply State.Keeps.foldl22
    | simp only [↓State.Keeps.upd, ↓State.Keeps.updFlash, ↓State.Keeps.updPoison]
    | split
    | dsimp only

theorem mmxS_keeps {orig : State} (op : Nat) (cid : CoreId) (b : Body) {s : State} (h3 : orig.Keeps s) :
    orig.KeepsOut (mmxS op cid b s) := by
  unfold mmxS
  repeat' first
    | with_reducible assumption
    | intro _
    | with_reducible apply State.KeepsOut.next
    | (with_reducible apply dispatchEng_keeps)
    | with_reducible apply State.Keeps.ite | with_reducible apply State.Keeps.ite1 | with_reducible apply State.Keeps.ite2 | with_reducible apply State.Keeps.elim
    | with_reducible apply State.Keeps.foldl | with_reducible apply State.Keeps.foldl1 | with_reducible apply State.Keeps.foldl2 | with_reducible apply State.Keeps.foldl22
    | simp only [↓State.Keeps.upd, ↓State.Keeps.updFlash, ↓State.Keeps.updPoison]
    | split
    | dsimp only

theorem execMmx_keeps {orig : State} (cid : CoreId) (b : Body) {s : State} (h2 : orig.Keeps s) :
    orig.KeepsOut (execMmx cid b s) := by
  unfold execMmx
  repeat' first
    | with_reducible assumption
    | intro _
    | with_reducible apply State.KeepsOut.next
    | (with_reducible apply mmxT_keeps)
    | with_reducible apply State.Keeps.ite | with_reducible apply State.Keeps.ite1 | with_reducible apply State.Keeps.ite2 | with_reducible apply State.Keeps.elim
    | with_reducible apply State.Keeps.foldl | with_reducible apply State.Keeps.foldl1 | with_reducible apply State.Keeps.foldl2 | with_reducible apply State.Keeps.foldl22
    | simp only [↓State.Keeps.upd, ↓State.Keeps.updFlash, ↓State.Keeps.updPoison]
    | split
    | dsimp only

theorem execMmxn_keeps {orig : State} (cid : CoreId) (b : Body) {s : State} (h2 : orig.Keeps s) :
    orig.KeepsOut (execMmxn cid b s) := by
  unfold execMmxn
  repeat' first
    | with_reducible assumption
    | intro _
    | with_reducible apply State.KeepsOut.next
    | (with_reducible apply mmxT_keeps)
    | with_reducible apply State.Keeps.ite | with_reducible apply State.Keeps.ite1 | with_reducible apply State.Keeps.ite2 | with_reducible apply State.Keeps.elim
    | with_reducible apply State.Keeps.foldl | with_reducible apply State.Keeps.foldl1 | with_reducible apply State.Keeps.foldl2 | with_reducible apply State.Keeps.foldl22
    | simp only [↓State.Keeps.upd, ↓State.Keeps.updFlash, ↓State.Keeps.updPoison]
    | split
    | dsimp only

theorem execMmxs_keeps {orig : State} (cid : CoreId) (b : Body) {s : State} (h2 : orig.Keeps s) :
    orig.KeepsOut (execMmxs cid b s) := by
  unfold execMmxs
  repeat' first
    | with_reducible assumption
    | intro _
    | with_reducible apply State.KeepsOut.next
    | (with_reducible apply mmxS_keeps)
    | with_reducible apply State.Keeps.ite | with_reducible apply State.Keeps.ite1 | with_reducible apply State.Keeps.ite2 | with_reducible apply State.Keeps.elim
    | with_reducible apply State.Keeps.foldl | with_reducible apply State.Keeps.foldl1 | with_reducible apply State.Keeps.foldl2 | with_reducible apply State.Keeps.foldl22
    | simp only [↓State.Keeps.upd, ↓State.Keeps.updFlash, ↓State.Keeps.updPoison]
    | split
    | dsimp only

theorem execMmxsn_keeps {orig : State} (cid : CoreId) (b : Body) {s : State} (h2 : orig.Keeps s) :
    orig.KeepsOut (execMmxsn cid b s) := by
  unfold execMmxsn
  repeat' first
    | with_reducible assumption
    | intro _
    | with_reducible apply State.KeepsOut.next
    | (with_reducible apply mmxS_keeps)
    | with_reducible apply State.Keeps.ite | with_reducible apply State.Keeps.ite1 | with_reducible apply State.Keeps.ite2 | with_reducible apply State.Keeps.elim
    | with_reducible apply State.Keeps.foldl | with_reducible apply State.Keeps.foldl1 | with_reducible apply State.Keeps.foldl2 | with_reducible apply State.Keeps.foldl22
    | simp only [↓State.Keeps.upd, ↓State.Keeps.updFlash, ↓State.Keeps.updPoison]
    | split
    | dsimp only

theorem mxPlain_keeps {orig : State} (op : Nat) (fm : IFmt) (used : List Nat) (dest : Option Nat) (cid : CoreId) (b : Body) {s : State} (h6 : orig.Keeps s) :
    orig.KeepsOut (mxPlain op fm used dest cid b s) := by
  unfold mxPlain
  repeat' first
    | with_reducible assumption
    | intro _
    | with_reducible apply State.KeepsOut.next
    | (with_reducible apply dispatchEng_keeps)
    | with_reducible apply State.Keeps.ite | with_reducible apply State.Keeps.ite1 | with_reducible apply State.Keeps.ite2 | with_reducible apply State.Keeps.elim
    | with_reducible apply State.Keeps.foldl | with_reducible apply State.Keeps.foldl1 | with_reducible apply State.Keeps.foldl2 | with_reducible apply State.Keeps.foldl22
    | simp only [↓State.Keeps.upd, ↓State.Keeps.updFlash, ↓State.Keeps.updPoison]
    | split
    | dsimp only

theorem execMbias_keeps {orig : State} (cid : CoreId) (b : Body) {s : State} (h2 : orig.Keeps s) :
    orig.KeepsOut (execMbias cid b s) := by
  unfold execMbias
  repeat' first
    | with_reducible assumption
    | intro _
    | with_reducible apply State.KeepsOut.next
    | (with_reducible apply mxPlain_keeps)
    | with_reducible apply State.Keeps.ite | with_reducible apply State.Keeps.ite1 | with_reducible apply State.Keeps.ite2 | with_reducible apply State.Keeps.elim
    | with_reducible apply State.Keeps.foldl | with_reducible apply State.Keeps.foldl1 | with_reducible apply State.Keeps.foldl2 | with_reducible apply State.Keeps.foldl22
    | simp only [↓State.Keeps.upd, ↓State.Keeps.updFlash, ↓State.Keeps.updPoison]
    | split
    | dsimp only

theorem execMmask_keeps {orig : State} (cid : CoreId) (b : Body) {s : State} (h2 : orig.Keeps s) :
    orig.KeepsOut (execMmask cid b s) := by
  unfold execMmask
  repeat' first
    | with_reducible assumption
    | intro _
    | with_reducible apply State.KeepsOut.next
    | (with_reducible apply mxPlain_keeps)
    | with_reducible apply State.Keeps.ite | with_reducible apply State.Keeps.ite1 | with_reducible apply State.Keeps.ite2 | with_reducible apply State.Keeps.elim
    | with_reducible apply State.Keeps.foldl | with_reducible apply State.Keeps.foldl1 | with_reducible apply State.Keeps.foldl2 | with_reducible apply State.Keeps.foldl22
    | simp only [↓State.Keeps.upd, ↓State.Keeps.updFlash, ↓State.Keeps.updPoison]
    | split
    | dsimp only

theorem execMtagRd_keeps {orig : State} (cid : CoreId) (b : Body) {s : State} (h2 : orig.Keeps s) :
    orig.KeepsOut (execMtagRd cid b s) := by
  unfold execMtagRd
  repeat' first
    | with_reducible assumption
    | intro _
    | with_reducible apply State.KeepsOut.next
    | (with_reducible apply mxPlain_keeps)
    | with_reducible apply State.Keeps.ite | with_reducible apply State.Keeps.ite1 | with_reducible apply State.Keeps.ite2 | with_reducible apply State.Keeps.elim
    | with_reducible apply State.Keeps.foldl | with_reducible apply State.Keeps.foldl1 | with_reducible apply State.Keeps.foldl2 | with_reducible apply State.Keeps.foldl22
    | simp only [↓State.Keeps.upd, ↓State.Keeps.updFlash, ↓State.Keeps.updPoison]
    | split
    | dsimp only

theorem execMtagClr_keeps {orig : State} (cid : CoreId) (b : Body) {s : State} (h2 : orig.Keeps s) :
    orig.KeepsOut (execMtagClr cid b s) := by
  unfold execMtagClr
  repeat' first
    | with_reducible assumption
    | intro _
    | with_reducible apply State.KeepsOut.next
    | (with_reducible apply mxPlain_keeps)
    | with_reducible apply State.Keeps.ite | with_reducible apply State.Keeps.ite1 | with_reducible apply State.Keeps.ite2 | with_reducible apply State.Keeps.elim
    | with_reducible apply State.Keeps.foldl | with_reducible apply State.Keeps.foldl1 | with_reducible apply State.Keeps.foldl2 | with_reducible apply State.Keeps.foldl22
    | simp only [↓State.Keeps.upd, ↓State.Keeps.updFlash, ↓State.Keeps.updPoison]
    | split
    | dsimp only

theorem State.startMst_keeps {orig : State} {s : State} (key : Nat) (q : QEntry) (h0 : orig.Keeps s) :
    orig.Keeps (State.startMst s key q) := by
  unfold State.startMst
  repeat' first
    | with_reducible assumption
    | intro _
    | (with_reducible apply State.popQueue_keeps) | (with_reducible apply State.engFault_keeps)
    | (with_reducible apply State.poisonRecord_keeps) | (with_reducible apply State.padServed_keeps)
    | (with_reducible apply State.numFlags_keeps) | (with_reducible apply State.modCore_keeps)
    | with_reducible apply State.Keeps.ite | with_reducible apply State.Keeps.ite1 | with_reducible apply State.Keeps.ite2 | with_reducible apply State.Keeps.elim
    | with_reducible apply State.Keeps.foldl | with_reducible apply State.Keeps.foldl1 | with_reducible apply State.Keeps.foldl2 | with_reducible apply State.Keeps.foldl22
    | simp only [↓State.Keeps.upd, ↓State.Keeps.updFlash, ↓State.Keeps.updPoison]
    | split
    | dsimp only

theorem State.mstDone_keeps {orig : State} {s : State} (key : Nat) (h0 : orig.Keeps s) :
    orig.Keeps (State.mstDone s key) := by
  unfold State.mstDone
  repeat' first
    | with_reducible assumption
    | intro _
    | (with_reducible apply State.modCore_keeps) | (with_reducible apply State.complete_keeps)
    | with_reducible apply State.Keeps.ite | with_reducible apply State.Keeps.ite1 | with_reducible apply State.Keeps.ite2 | with_reducible apply State.Keeps.elim
    | with_reducible apply State.Keeps.foldl | with_reducible apply State.Keeps.foldl1 | with_reducible apply State.Keeps.foldl2 | with_reducible apply State.Keeps.foldl22
    | simp only [↓State.Keeps.upd, ↓State.Keeps.updFlash, ↓State.Keeps.updPoison]
    | split
    | dsimp only

theorem execMstLoadComplete_keeps {orig : State} (cid : CoreId) {s : State} (h1 : orig.Keeps s) :
    orig.KeepsOut (execMstLoadComplete cid s) := by
  unfold execMstLoadComplete
  repeat' first
    | with_reducible assumption
    | intro _
    | with_reducible apply State.KeepsOut.next
    | (with_reducible apply State.mstDone_keeps)
    | with_reducible apply State.Keeps.ite | with_reducible apply State.Keeps.ite1 | with_reducible apply State.Keeps.ite2 | with_reducible apply State.Keeps.elim
    | with_reducible apply State.Keeps.foldl | with_reducible apply State.Keeps.foldl1 | with_reducible apply State.Keeps.foldl2 | with_reducible apply State.Keeps.foldl22
    | simp only [↓State.Keeps.upd, ↓State.Keeps.updFlash, ↓State.Keeps.updPoison]
    | split
    | dsimp only

theorem State.startMmx_keeps {orig : State} {s : State} (key : Nat) (q : QEntry) (sample : Bool) (h0 : orig.Keeps s) :
    orig.Keeps (State.startMmx s key q sample) := by
  unfold State.startMmx
  repeat' first
    | with_reducible assumption
    | intro _
    | (with_reducible apply State.popQueue_keeps) | (with_reducible apply State.engFault_keeps)
    | (with_reducible apply State.modCore_keeps) | (with_reducible apply State.bump_keeps)
    | (with_reducible apply State.tileRecord_keeps) | (with_reducible apply State.poisonRecord_keeps)
    | (with_reducible apply State.complete_keeps) | (with_reducible apply State.padServed_keeps)
    | (with_reducible apply State.tilesRead_keeps) | (with_reducible apply State.pmcOwn_keeps)
    | with_reducible apply State.Keeps.ite | with_reducible apply State.Keeps.ite1 | with_reducible apply State.Keeps.ite2 | with_reducible apply State.Keeps.elim
    | with_reducible apply State.Keeps.foldl | with_reducible apply State.Keeps.foldl1 | with_reducible apply State.Keeps.foldl2 | with_reducible apply State.Keeps.foldl22
    | simp only [↓State.Keeps.upd, ↓State.Keeps.updFlash, ↓State.Keeps.updPoison]
    | split
    | dsimp only

theorem State.startMxPlain_keeps {orig : State} {s : State} (key : Nat) (q : QEntry) (h0 : orig.Keeps s) :
    orig.Keeps (State.startMxPlain s key q) := by
  unfold State.startMxPlain
  repeat' first
    | with_reducible assumption
    | intro _
    | (with_reducible apply State.popQueue_keeps) | (with_reducible apply State.complete_keeps)
    | (with_reducible apply State.modCore_keeps) | (with_reducible apply State.engFault_keeps)
    | (with_reducible apply State.tileRecord_keeps) | (with_reducible apply State.writePend_keeps)
    | with_reducible apply State.Keeps.ite | with_reducible apply State.Keeps.ite1 | with_reducible apply State.Keeps.ite2 | with_reducible apply State.Keeps.elim
    | with_reducible apply State.Keeps.foldl | with_reducible apply State.Keeps.foldl1 | with_reducible apply State.Keeps.foldl2 | with_reducible apply State.Keeps.foldl22
    | simp only [↓State.Keeps.upd, ↓State.Keeps.updFlash, ↓State.Keeps.updPoison]
    | split
    | dsimp only

theorem State.firstMismatch_keeps {orig : State} {s : State} (key : Nat) (r : MxRun) (bank : Bank) (rows : Nat) (cols : List Nat) (h0 : orig.Keeps s) :
    orig.Keeps (State.firstMismatch s key r bank rows cols).1 := by
  unfold State.firstMismatch
  repeat' first
    | with_reducible assumption
    | intro _
    | (with_reducible apply State.openRecord_keeps) | (with_reducible refine State.openRecord_eq _ _ ?_ (by with_reducible assumption))
    | (with_reducible apply State.mismatch_keeps) | (with_reducible apply State.repeats_keeps)
    | with_reducible apply State.Keeps.ite | with_reducible apply State.Keeps.ite1 | with_reducible apply State.Keeps.ite2 | with_reducible apply State.Keeps.elim
    | with_reducible apply State.Keeps.foldl | with_reducible apply State.Keeps.foldl1 | with_reducible apply State.Keeps.foldl2 | with_reducible apply State.Keeps.foldl22
    | simp only [↓State.Keeps.upd, ↓State.Keeps.updFlash, ↓State.Keeps.updPoison]
    | split
    | dsimp only
theorem State.firstMismatch_eq {orig : State} {s : State} (key : Nat) (r : MxRun) (bank : Bank) (rows : Nat) (cols : List Nat) (h0 : orig.Keeps s)
    {other : MxRun} {result : State} (e : (State.firstMismatch s key r bank rows cols) = (result, other)) : orig.Keeps result := by
  have := State.firstMismatch_keeps (orig := orig) key r bank rows cols h0
  rw [e] at this
  exact this

theorem State.endRepeat_keeps {orig : State} {s : State} (key : Nat) (r : MxRun) (h0 : orig.Keeps s) :
    orig.Keeps (State.endRepeat s key r).1 := by
  unfold State.endRepeat
  repeat' first
    | with_reducible assumption
    | intro _
    | (with_reducible apply State.closeRecord_keeps) | (with_reducible apply State.chargeRec_keeps)
    | (with_reducible apply State.modCluster_keeps)
    | with_reducible apply State.Keeps.ite | with_reducible apply State.Keeps.ite1 | with_reducible apply State.Keeps.ite2 | with_reducible apply State.Keeps.elim
    | with_reducible apply State.Keeps.foldl | with_reducible apply State.Keeps.foldl1 | with_reducible apply State.Keeps.foldl2 | with_reducible apply State.Keeps.foldl22
    | simp only [↓State.Keeps.upd, ↓State.Keeps.updFlash, ↓State.Keeps.updPoison]
    | split
    | dsimp only
theorem State.endRepeat_eq {orig : State} {s : State} (key : Nat) (r : MxRun) (h0 : orig.Keeps s)
    {other : MxRun} {result : State} (e : (State.endRepeat s key r) = (result, other)) : orig.Keeps result := by
  have := State.endRepeat_keeps (orig := orig) key r h0
  rw [e] at this
  exact this

theorem State.rowExit_keeps {orig : State} {s : State} (key : Nat) (ups : List Upset) (h0 : orig.Keeps s) :
    orig.Keeps (State.rowExit s key ups) := by
  unfold State.rowExit
  repeat' first
    | with_reducible assumption
    | intro _
    | (with_reducible apply State.modCore_keeps) | (with_reducible apply State.pmcOwn_keeps)
    | (with_reducible apply State.firstMismatch_keeps)
    | (with_reducible refine State.firstMismatch_eq _ _ _ _ _ ?_ (by with_reducible assumption))
    | (with_reducible apply State.endRepeat_keeps) | (with_reducible refine State.endRepeat_eq _ _ ?_ (by with_reducible assumption))
    | with_reducible apply State.Keeps.ite | with_reducible apply State.Keeps.ite1 | with_reducible apply State.Keeps.ite2 | with_reducible apply State.Keeps.elim
    | with_reducible apply State.Keeps.foldl | with_reducible apply State.Keeps.foldl1 | with_reducible apply State.Keeps.foldl2 | with_reducible apply State.Keeps.foldl22
    | simp only [↓State.Keeps.upd, ↓State.Keeps.updFlash, ↓State.Keeps.updPoison]
    | split
    | dsimp only

theorem execMatrixRowExit_keeps {orig : State} (cid : CoreId) (ups : List Upset) {s : State} (h2 : orig.Keeps s) :
    orig.KeepsOut (execMatrixRowExit cid ups s) := by
  unfold execMatrixRowExit
  repeat' first
    | with_reducible assumption
    | intro _
    | with_reducible apply State.KeepsOut.next
    | (with_reducible apply State.rowExit_keeps)
    | with_reducible apply State.Keeps.ite | with_reducible apply State.Keeps.ite1 | with_reducible apply State.Keeps.ite2 | with_reducible apply State.Keeps.elim
    | with_reducible apply State.Keeps.foldl | with_reducible apply State.Keeps.foldl1 | with_reducible apply State.Keeps.foldl2 | with_reducible apply State.Keeps.foldl22
    | simp only [↓State.Keeps.upd, ↓State.Keeps.updFlash, ↓State.Keeps.updPoison]
    | split
    | dsimp only

theorem State.landBlock_keeps {orig : State} {s : State} (key : Nat) (r : MxRun) (pk : Nat) (b : Nat) (h0 : orig.Keeps s) :
    orig.Keeps (State.landBlock s key r pk b).1 := by
  unfold State.landBlock
  repeat' first
    | with_reducible assumption
    | intro _
    | (with_reducible apply State.tilesWritten_keeps) | (with_reducible apply State.modCore_keeps)
    | with_reducible apply State.Keeps.ite | with_reducible apply State.Keeps.ite1 | with_reducible apply State.Keeps.ite2 | with_reducible apply State.Keeps.elim
    | with_reducible apply State.Keeps.foldl | with_reducible apply State.Keeps.foldl1 | with_reducible apply State.Keeps.foldl2 | with_reducible apply State.Keeps.foldl22
    | simp only [↓State.Keeps.upd, ↓State.Keeps.updFlash, ↓State.Keeps.updPoison]
    | split
    | dsimp only
theorem State.landBlock_eq {orig : State} {s : State} (key : Nat) (r : MxRun) (pk : Nat) (b : Nat) (h0 : orig.Keeps s)
    {other : MxRun} {result : State} (e : (State.landBlock s key r pk b) = (result, other)) : orig.Keeps result := by
  have := State.landBlock_keeps (orig := orig) key r pk b h0
  rw [e] at this
  exact this

theorem State.endMmx_keeps {orig : State} {s : State} (key : Nat) (r : MxRun) (h0 : orig.Keeps s) :
    orig.Keeps (State.endMmx s key r) := by
  unfold State.endMmx
  repeat' first
    | with_reducible assumption
    | intro _
    | (with_reducible apply State.replayed_keeps) | (with_reducible apply State.ovfInf_keeps)
    | (with_reducible apply State.numFlags_keeps) | (with_reducible apply State.flagIf_keeps)
    | (with_reducible apply State.unchecked_keeps) | (with_reducible apply State.bump_keeps)
    | (with_reducible apply State.modCluster_keeps) | (with_reducible apply State.complete_keeps)
    | (with_reducible apply State.modCore_keeps)
    | with_reducible apply State.Keeps.ite | with_reducible apply State.Keeps.ite1 | with_reducible apply State.Keeps.ite2 | with_reducible apply State.Keeps.elim
    | with_reducible apply State.Keeps.foldl | with_reducible apply State.Keeps.foldl1 | with_reducible apply State.Keeps.foldl2 | with_reducible apply State.Keeps.foldl22
    | simp only [↓State.Keeps.upd, ↓State.Keeps.updFlash, ↓State.Keeps.updPoison]
    | split
    | dsimp only

theorem State.blockLand_keeps {orig : State} {s : State} (key : Nat) (h0 : orig.Keeps s) :
    orig.Keeps (State.blockLand s key) := by
  unfold State.blockLand
  repeat' first
    | with_reducible assumption
    | intro _
    | (with_reducible apply State.landBlock_keeps)
    | (with_reducible refine State.landBlock_eq _ _ _ _ ?_ (by with_reducible assumption)) | (with_reducible apply State.endMmx_keeps)
    | (with_reducible apply State.modCore_keeps)
    | with_reducible apply State.Keeps.ite | with_reducible apply State.Keeps.ite1 | with_reducible apply State.Keeps.ite2 | with_reducible apply State.Keeps.elim
    | with_reducible apply State.Keeps.foldl | with_reducible apply State.Keeps.foldl1 | with_reducible apply State.Keeps.foldl2 | with_reducible apply State.Keeps.foldl22
    | simp only [↓State.Keeps.upd, ↓State.Keeps.updFlash, ↓State.Keeps.updPoison]
    | split
    | dsimp only

theorem execMatrixBlockLand_keeps {orig : State} (cid : CoreId) {s : State} (h1 : orig.Keeps s) :
    orig.KeepsOut (execMatrixBlockLand cid s) := by
  unfold execMatrixBlockLand
  repeat' first
    | with_reducible assumption
    | intro _
    | with_reducible apply State.KeepsOut.next
    | (with_reducible apply State.blockLand_keeps)
    | with_reducible apply State.Keeps.ite | with_reducible apply State.Keeps.ite1 | with_reducible apply State.Keeps.ite2 | with_reducible apply State.Keeps.elim
    | with_reducible apply State.Keeps.foldl | with_reducible apply State.Keeps.foldl1 | with_reducible apply State.Keeps.foldl2 | with_reducible apply State.Keeps.foldl22
    | simp only [↓State.Keeps.upd, ↓State.Keeps.updFlash, ↓State.Keeps.updPoison]
    | split
    | dsimp only

theorem execSpareReplay_keeps {orig : State} (k : Fin 4) (cl : Fin 12) (ups : List Upset) {s : State} (h3 : orig.Keeps s) :
    orig.KeepsOut (execSpareReplay k cl ups s) := by
  unfold execSpareReplay
  repeat' first
    | with_reducible assumption
    | intro _
    | with_reducible apply State.KeepsOut.next
    | (with_reducible apply State.modCluster_keeps) | (with_reducible apply State.repeats_keeps)
    | (with_reducible apply State.modCore_keeps)
    | with_reducible apply State.Keeps.ite | with_reducible apply State.Keeps.ite1 | with_reducible apply State.Keeps.ite2 | with_reducible apply State.Keeps.elim
    | with_reducible apply State.Keeps.foldl | with_reducible apply State.Keeps.foldl1 | with_reducible apply State.Keeps.foldl2 | with_reducible apply State.Keeps.foldl22
    | simp only [↓State.Keeps.upd, ↓State.Keeps.updFlash, ↓State.Keeps.updPoison]
    | split
    | dsimp only

theorem State.landAll_keeps {orig : State} {s : State} (key : Nat) (r : MxRun) (pk : Nat) (x4 : Nat) (h0 : orig.Keeps s) :
    orig.Keeps (State.landAll s key r pk x4).1 := by
  induction x4 generalizing s r with
  | zero =>
    unfold State.landAll
    repeat' first
      | with_reducible assumption
      | intro _
      | (with_reducible apply State.landBlock_keeps)
      | (with_reducible refine State.landBlock_eq _ _ _ _ ?_ (by with_reducible assumption))
      | with_reducible apply State.Keeps.ite | with_reducible apply State.Keeps.ite1 | with_reducible apply State.Keeps.ite2 | with_reducible apply State.Keeps.elim
      | with_reducible apply State.Keeps.foldl | with_reducible apply State.Keeps.foldl1 | with_reducible apply State.Keeps.foldl2 | with_reducible apply State.Keeps.foldl22
      | simp only [↓State.Keeps.upd, ↓State.Keeps.updFlash, ↓State.Keeps.updPoison]
      | split
      | dsimp only
  | succ n ih =>
    unfold State.landAll
    repeat' first
      | with_reducible assumption
      | intro _
      | with_reducible apply ih
      | (with_reducible apply State.landBlock_keeps)
      | (with_reducible refine State.landBlock_eq _ _ _ _ ?_ (by with_reducible assumption))
      | with_reducible apply State.Keeps.ite | with_reducible apply State.Keeps.ite1 | with_reducible apply State.Keeps.ite2 | with_reducible apply State.Keeps.elim
      | with_reducible apply State.Keeps.foldl | with_reducible apply State.Keeps.foldl1 | with_reducible apply State.Keeps.foldl2 | with_reducible apply State.Keeps.foldl22
      | simp only [↓State.Keeps.upd, ↓State.Keeps.updFlash, ↓State.Keeps.updPoison]
      | split
      | dsimp only
theorem State.landAll_eq {orig : State} {s : State} (key : Nat) (r : MxRun) (pk : Nat) (x4 : Nat) (h0 : orig.Keeps s)
    {other : MxRun} {result : State} (e : (State.landAll s key r pk x4) = (result, other)) : orig.Keeps result := by
  have := State.landAll_keeps (orig := orig) key r pk x4 h0
  rw [e] at this
  exact this

theorem State.testFirst_keeps {orig : State} {s : State} (i : Nat) (phys : Nat) (h0 : orig.Keeps s) :
    orig.Keeps (State.testFirst s i phys) := by
  unfold State.testFirst
  repeat' first
    | with_reducible assumption
    | intro _
    | (with_reducible apply State.modCluster_keeps)
    | with_reducible apply State.Keeps.ite | with_reducible apply State.Keeps.ite1 | with_reducible apply State.Keeps.ite2 | with_reducible apply State.Keeps.elim
    | with_reducible apply State.Keeps.foldl | with_reducible apply State.Keeps.foldl1 | with_reducible apply State.Keeps.foldl2 | with_reducible apply State.Keeps.foldl22
    | simp only [↓State.Keeps.upd, ↓State.Keeps.updFlash, ↓State.Keeps.updPoison]
    | split
    | dsimp only

theorem execSpareReplayLand_keeps {orig : State} (k : Fin 4) (cl : Fin 12) {s : State} (h2 : orig.Keeps s) :
    orig.KeepsOut (execSpareReplayLand k cl s) := by
  unfold execSpareReplayLand
  repeat' first
    | with_reducible assumption
    | intro _
    | with_reducible apply State.KeepsOut.next
    | (with_reducible apply State.closeRecord_keeps) | (with_reducible apply State.testFirst_keeps)
    | (with_reducible apply State.setFld_keeps) | (with_reducible apply State.chargeRec_keeps)
    | (with_reducible apply State.landAll_keeps) | (with_reducible refine State.landAll_eq _ _ _ _ ?_ (by with_reducible assumption))
    | (with_reducible apply State.endMmx_keeps)
    | with_reducible apply State.Keeps.ite | with_reducible apply State.Keeps.ite1 | with_reducible apply State.Keeps.ite2 | with_reducible apply State.Keeps.elim
    | with_reducible apply State.Keeps.foldl | with_reducible apply State.Keeps.foldl1 | with_reducible apply State.Keeps.foldl2 | with_reducible apply State.Keeps.foldl22
    | simp only [↓State.Keeps.upd, ↓State.Keeps.updFlash, ↓State.Keeps.updPoison]
    | split
    | dsimp only

theorem execBallastLevelRise_keeps {orig : State} (w : CoreSpan) {s : State} (h1 : orig.Keeps s) :
    orig.KeepsOut (execBallastLevelRise w s) := by
  unfold execBallastLevelRise
  repeat' first
    | with_reducible assumption
    | intro _
    | with_reducible apply State.KeepsOut.next
    | (with_reducible apply State.modCore_keeps)
    | with_reducible apply State.Keeps.ite | with_reducible apply State.Keeps.ite1 | with_reducible apply State.Keeps.ite2 | with_reducible apply State.Keeps.elim
    | with_reducible apply State.Keeps.foldl | with_reducible apply State.Keeps.foldl1 | with_reducible apply State.Keeps.foldl2 | with_reducible apply State.Keeps.foldl22
    | simp only [↓State.Keeps.upd, ↓State.Keeps.updFlash, ↓State.Keeps.updPoison]
    | split
    | dsimp only

theorem execBallastLevelFall_keeps {orig : State} (w : CoreSpan) {s : State} (h1 : orig.Keeps s) :
    orig.KeepsOut (execBallastLevelFall w s) := by
  unfold execBallastLevelFall
  repeat' first
    | with_reducible assumption
    | intro _
    | with_reducible apply State.KeepsOut.next
    | (with_reducible apply State.modCore_keeps)
    | with_reducible apply State.Keeps.ite | with_reducible apply State.Keeps.ite1 | with_reducible apply State.Keeps.ite2 | with_reducible apply State.Keeps.elim
    | with_reducible apply State.Keeps.foldl | with_reducible apply State.Keeps.foldl1 | with_reducible apply State.Keeps.foldl2 | with_reducible apply State.Keeps.foldl22
    | simp only [↓State.Keeps.upd, ↓State.Keeps.updFlash, ↓State.Keeps.updPoison]
    | split
    | dsimp only

end Sys2Proof.Machine
end

