-- ==== Sys2Proof/Laws/KeepStreams.lean ====
section
/-! SUPPORT. What the operations of Machine/Streams.lean keep. -/

set_option linter.all false

namespace Sys2Proof.Machine

theorem State.setStrm_keeps {orig : State} {s : State} (id : Nat) (x : Stream) (h0 : orig.Keeps s) :
    orig.Keeps (State.setStrm s id x) := by
  unfold State.setStrm
  repeat' first
    | with_reducible assumption
    | intro _
    | with_reducible apply State.Keeps.ite | with_reducible apply State.Keeps.ite1 | with_reducible apply State.Keeps.ite2 | with_reducible apply State.Keeps.elim
    | with_reducible apply State.Keeps.foldl | with_reducible apply State.Keeps.foldl1 | with_reducible apply State.Keeps.foldl2 | with_reducible apply State.Keeps.foldl22
    | simp only [↓State.Keeps.upd, ↓State.Keeps.updFlash, ↓State.Keeps.updPoison]
    | split
    | dsimp only

theorem State.setUse_keeps {orig : State} {s : State} (n : Nat) (v : Nat) (h0 : orig.Keeps s) :
    orig.Keeps (State.setUse s n v) := by
  unfold State.setUse
  repeat' first
    | with_reducible assumption
    | intro _
    | (with_reducible apply State.setFld_keeps)
    | with_reducible apply State.Keeps.ite | with_reducible apply State.Keeps.ite1 | with_reducible apply State.Keeps.ite2 | with_reducible apply State.Keeps.elim
    | with_reducible apply State.Keeps.foldl | with_reducible apply State.Keeps.foldl1 | with_reducible apply State.Keeps.foldl2 | with_reducible apply State.Keeps.foldl22
    | simp only [↓State.Keeps.upd, ↓State.Keeps.updFlash, ↓State.Keeps.updPoison]
    | split
    | dsimp only

theorem State.tryActivate_keeps {orig : State} {s : State} (id : Nat) (h0 : orig.Keeps s) :
    orig.Keeps (State.tryActivate s id) := by
  unfold State.tryActivate
  repeat' first
    | with_reducible assumption
    | intro _
    | (with_reducible apply State.setStrm_keeps)
    | with_reducible apply State.Keeps.ite | with_reducible apply State.Keeps.ite1 | with_reducible apply State.Keeps.ite2 | with_reducible apply State.Keeps.elim
    | with_reducible apply State.Keeps.foldl | with_reducible apply State.Keeps.foldl1 | with_reducible apply State.Keeps.foldl2 | with_reducible apply State.Keeps.foldl22
    | simp only [↓State.Keeps.upd, ↓State.Keeps.updFlash, ↓State.Keeps.updPoison]
    | split
    | dsimp only

theorem State.enterStrm_keeps {orig : State} {s : State} (id : Nat) (key : Nat) (ctx : CtxId) (d : List Word) (eng : StrmEng) (cmd : Option Nat) (h0 : orig.Keeps s) :
    orig.Keeps (State.enterStrm s id key ctx d eng cmd) := by
  unfold State.enterStrm
  repeat' first
    | with_reducible assumption
    | intro _
    | (with_reducible apply State.setStrm_keeps) | (with_reducible apply State.setUse_keeps)
    | (with_reducible apply State.tryActivate_keeps) | (with_reducible apply State.pmcEvent_keeps)
    | with_reducible apply State.Keeps.ite | with_reducible apply State.Keeps.ite1 | with_reducible apply State.Keeps.ite2 | with_reducible apply State.Keeps.elim
    | with_reducible apply State.Keeps.foldl | with_reducible apply State.Keeps.foldl1 | with_reducible apply State.Keeps.foldl2 | with_reducible apply State.Keeps.foldl22
    | simp only [↓State.Keeps.upd, ↓State.Keeps.updFlash, ↓State.Keeps.updPoison]
    | split
    | dsimp only

theorem State.cancelsDone_keeps {orig : State} {s : State} (l : List (Nat × Nat)) (h0 : orig.Keeps s) :
    orig.Keeps (State.cancelsDone s l) := by
  unfold State.cancelsDone
  repeat' first
    | with_reducible assumption
    | intro _
    | (with_reducible apply State.dropFlight_keeps) | (with_reducible apply State.modSet_keeps)
    | (with_reducible apply State.evAddSet_keeps)
    | with_reducible apply State.Keeps.ite | with_reducible apply State.Keeps.ite1 | with_reducible apply State.Keeps.ite2 | with_reducible apply State.Keeps.elim
    | with_reducible apply State.Keeps.foldl | with_reducible apply State.Keeps.foldl1 | with_reducible apply State.Keeps.foldl2 | with_reducible apply State.Keeps.foldl22
    | simp only [↓State.Keeps.upd, ↓State.Keeps.updFlash, ↓State.Keeps.updPoison]
    | split
    | dsimp only

theorem State.strmEnd_keeps {orig : State} {s : State} (id : Nat) (x : Stream) (st : StrmSt) (h0 : orig.Keeps s) :
    orig.Keeps (State.strmEnd s id x st) := by
  unfold State.strmEnd
  repeat' first
    | with_reducible assumption
    | intro _
    | (with_reducible apply State.setStrm_keeps) | (with_reducible apply State.setUse_keeps)
    | (with_reducible apply State.sendInc_keeps) | (with_reducible apply State.addFault_keeps)
    | (with_reducible apply State.cancelsDone_keeps) | (with_reducible apply State.pmcEvent_keeps)
    | (with_reducible apply State.notice_keeps) | (with_reducible apply State.endCmd_keeps)
    | with_reducible apply State.Keeps.ite | with_reducible apply State.Keeps.ite1 | with_reducible apply State.Keeps.ite2 | with_reducible apply State.Keeps.elim
    | with_reducible apply State.Keeps.foldl | with_reducible apply State.Keeps.foldl1 | with_reducible apply State.Keeps.foldl2 | with_reducible apply State.Keeps.foldl22
    | simp only [↓State.Keeps.upd, ↓State.Keeps.updFlash, ↓State.Keeps.updPoison]
    | split
    | dsimp only

theorem State.strmFail_keeps {orig : State} {s : State} (id : Nat) (x : Stream) (err : Nat) (addr : Nat) (h0 : orig.Keeps s) :
    orig.Keeps (State.strmFail s id x err addr) := by
  unfold State.strmFail
  repeat' first
    | with_reducible assumption
    | intro _
    | (with_reducible apply State.strmEnd_keeps) | (with_reducible apply State.setStrm_keeps)
    | with_reducible apply State.Keeps.ite | with_reducible apply State.Keeps.ite1 | with_reducible apply State.Keeps.ite2 | with_reducible apply State.Keeps.elim
    | with_reducible apply State.Keeps.foldl | with_reducible apply State.Keeps.foldl1 | with_reducible apply State.Keeps.foldl2 | with_reducible apply State.Keeps.foldl22
    | simp only [↓State.Keeps.upd, ↓State.Keeps.updFlash, ↓State.Keeps.updPoison]
    | split
    | dsimp only

theorem State.strmFlush_keeps {orig : State} {s : State} (id : Nat) (h0 : orig.Keeps s) :
    orig.Keeps (State.strmFlush s id) := by
  unfold State.strmFlush
  repeat' first
    | with_reducible assumption
    | intro _
    | (with_reducible apply State.setStrm_keeps)
    | with_reducible apply State.Keeps.ite | with_reducible apply State.Keeps.ite1 | with_reducible apply State.Keeps.ite2 | with_reducible apply State.Keeps.elim
    | with_reducible apply State.Keeps.foldl | with_reducible apply State.Keeps.foldl1 | with_reducible apply State.Keeps.foldl2 | with_reducible apply State.Keeps.foldl22
    | simp only [↓State.Keeps.upd, ↓State.Keeps.updFlash, ↓State.Keeps.updPoison]
    | split
    | dsimp only

theorem strmOp_keeps {orig : State} (op : Nat) (used : List Nat) (chk : Nat → QEntry → State → Option (FaultCode × Nat)) (cid : CoreId) (b : Body) {s : State} (h5 : orig.Keeps s) :
    orig.KeepsOut (strmOp op used chk cid b s) := by
  unfold strmOp
  repeat' first
    | with_reducible assumption
    | intro _
    | with_reducible apply State.KeepsOut.next
    | (with_reducible apply dispatchEng_keeps)
    | with_reducible apply State.Keeps.ite | with_reducible apply State.Keeps.ite1 | with_reducible apply State.Keeps.ite2 | with_reducible apply State.Keeps.elim
    | with_reducible apply State.Keeps.foldl | with_reducible apply State.Keeps.foldl1 | with_reducible apply State.Keeps.foldl2 | with_reducible apply State.Keeps.foldl22
    | simp only [↓State.Keeps.upd, ↓State.Keeps.updFlash, ↓State.Keeps.updPoison]
    | split
    | dsimp only

theorem execStrmIssue_keeps {orig : State} (cid : CoreId) (b : Body) {s : State} (h2 : orig.Keeps s) :
    orig.KeepsOut (execStrmIssue cid b s) := by
  unfold execStrmIssue
  repeat' first
    | with_reducible assumption
    | intro _
    | with_reducible apply State.KeepsOut.next
    | (with_reducible apply strmOp_keeps)
    | with_reducible apply State.Keeps.ite | with_reducible apply State.Keeps.ite1 | with_reducible apply State.Keeps.ite2 | with_reducible apply State.Keeps.elim
    | with_reducible apply State.Keeps.foldl | with_reducible apply State.Keeps.foldl1 | with_reducible apply State.Keeps.foldl2 | with_reducible apply State.Keeps.foldl22
    | simp only [↓State.Keeps.upd, ↓State.Keeps.updFlash, ↓State.Keeps.updPoison]
    | split
    | dsimp only

theorem execStrmCancel_keeps {orig : State} (cid : CoreId) (b : Body) {s : State} (h2 : orig.Keeps s) :
    orig.KeepsOut (execStrmCancel cid b s) := by
  unfold execStrmCancel
  repeat' first
    | with_reducible assumption
    | intro _
    | with_reducible apply State.KeepsOut.next
    | (with_reducible apply strmOp_keeps)
    | with_reducible apply State.Keeps.ite | with_reducible apply State.Keeps.ite1 | with_reducible apply State.Keeps.ite2 | with_reducible apply State.Keeps.elim
    | with_reducible apply State.Keeps.foldl | with_reducible apply State.Keeps.foldl1 | with_reducible apply State.Keeps.foldl2 | with_reducible apply State.Keeps.foldl22
    | simp only [↓State.Keeps.upd, ↓State.Keeps.updFlash, ↓State.Keeps.updPoison]
    | split
    | dsimp only

theorem execStrmStat_keeps {orig : State} (cid : CoreId) (b : Body) {s : State} (h2 : orig.Keeps s) :
    orig.KeepsOut (execStrmStat cid b s) := by
  unfold execStrmStat
  repeat' first
    | with_reducible assumption
    | intro _
    | with_reducible apply State.KeepsOut.next
    | (with_reducible apply strmOp_keeps)
    | with_reducible apply State.Keeps.ite | with_reducible apply State.Keeps.ite1 | with_reducible apply State.Keeps.ite2 | with_reducible apply State.Keeps.elim
    | with_reducible apply State.Keeps.foldl | with_reducible apply State.Keeps.foldl1 | with_reducible apply State.Keeps.foldl2 | with_reducible apply State.Keeps.foldl22
    | simp only [↓State.Keeps.upd, ↓State.Keeps.updFlash, ↓State.Keeps.updPoison]
    | split
    | dsimp only

theorem State.assignStrm_keeps {orig : State} {s : State} (key : Nat) (q : QEntry) (d : List Word) (h0 : orig.Keeps s) :
    orig.Keeps (State.assignStrm s key q d) := by
  unfold State.assignStrm
  repeat' first
    | with_reducible assumption
    | intro _
    | (with_reducible apply State.modCore_keeps) | (with_reducible apply State.popQueue_keeps)
    | (with_reducible apply State.enterStrm_keeps) | (with_reducible apply State.complete_keeps)
    | (with_reducible apply State.writePend_keeps)
    | with_reducible apply State.Keeps.ite | with_reducible apply State.Keeps.ite1 | with_reducible apply State.Keeps.ite2 | with_reducible apply State.Keeps.elim
    | with_reducible apply State.Keeps.foldl | with_reducible apply State.Keeps.foldl1 | with_reducible apply State.Keeps.foldl2 | with_reducible apply State.Keeps.foldl22
    | simp only [↓State.Keeps.upd, ↓State.Keeps.updFlash, ↓State.Keeps.updPoison]
    | split
    | dsimp only

theorem State.startIssue_keeps {orig : State} {s : State} (key : Nat) (q : QEntry) (h0 : orig.Keeps s) :
    orig.Keeps (State.startIssue s key q) := by
  unfold State.startIssue
  repeat' first
    | with_reducible assumption
    | intro _
    | (with_reducible apply State.engFault_keeps) | (with_reducible apply State.poisonRecord_keeps)
    | (with_reducible apply State.popQueue_keeps) | (with_reducible apply State.assignStrm_keeps)
    | (with_reducible apply State.modCore_keeps)
    | with_reducible apply State.Keeps.ite | with_reducible apply State.Keeps.ite1 | with_reducible apply State.Keeps.ite2 | with_reducible apply State.Keeps.elim
    | with_reducible apply State.Keeps.foldl | with_reducible apply State.Keeps.foldl1 | with_reducible apply State.Keeps.foldl2 | with_reducible apply State.Keeps.foldl22
    | simp only [↓State.Keeps.upd, ↓State.Keeps.updFlash, ↓State.Keeps.updPoison]
    | split
    | dsimp only

theorem State.startCancel_keeps {orig : State} {s : State} (key : Nat) (q : QEntry) (h0 : orig.Keeps s) :
    orig.Keeps (State.startCancel s key q) := by
  unfold State.startCancel
  repeat' first
    | with_reducible assumption
    | intro _
    | (with_reducible apply State.popQueue_keeps) | (with_reducible apply State.complete_keeps)
    | (with_reducible apply State.strmEnd_keeps) | (with_reducible apply State.modCore_keeps)
    | (with_reducible apply State.setStrm_keeps)
    | with_reducible apply State.Keeps.ite | with_reducible apply State.Keeps.ite1 | with_reducible apply State.Keeps.ite2 | with_reducible apply State.Keeps.elim
    | with_reducible apply State.Keeps.foldl | with_reducible apply State.Keeps.foldl1 | with_reducible apply State.Keeps.foldl2 | with_reducible apply State.Keeps.foldl22
    | simp only [↓State.Keeps.upd, ↓State.Keeps.updFlash, ↓State.Keeps.updPoison]
    | split
    | dsimp only

theorem State.startStat_keeps {orig : State} {s : State} (key : Nat) (q : QEntry) (h0 : orig.Keeps s) :
    orig.Keeps (State.startStat s key q) := by
  unfold State.startStat
  repeat' first
    | with_reducible assumption
    | intro _
    | (with_reducible apply State.popQueue_keeps) | (with_reducible apply State.complete_keeps)
    | (with_reducible apply State.writePend_keeps)
    | with_reducible apply State.Keeps.ite | with_reducible apply State.Keeps.ite1 | with_reducible apply State.Keeps.ite2 | with_reducible apply State.Keeps.elim
    | with_reducible apply State.Keeps.foldl | with_reducible apply State.Keeps.foldl1 | with_reducible apply State.Keeps.foldl2 | with_reducible apply State.Keeps.foldl22
    | simp only [↓State.Keeps.upd, ↓State.Keeps.updFlash, ↓State.Keeps.updPoison]
    | split
    | dsimp only

theorem State.onSet_keeps {orig : State} {s : State} (key : Nat) (n : Nat) (f : State → State) (h0 : orig.Keeps s) (h3 : ∀ s, orig.Keeps s → orig.Keeps (f s)) :
    orig.Keeps (State.onSet s key n f) := by
  unfold State.onSet
  repeat' first
    | with_reducible assumption
    | intro _
    | (with_reducible apply State.swapSet_keeps) | (with_reducible apply State.giveNotice_keeps) | (with_reducible apply h3)
    | with_reducible apply State.Keeps.ite | with_reducible apply State.Keeps.ite1 | with_reducible apply State.Keeps.ite2 | with_reducible apply State.Keeps.elim
    | with_reducible apply State.Keeps.foldl | with_reducible apply State.Keeps.foldl1 | with_reducible apply State.Keeps.foldl2 | with_reducible apply State.Keeps.foldl22
    | simp only [↓State.Keeps.upd, ↓State.Keeps.updFlash, ↓State.Keeps.updPoison]
    | split
    | dsimp only

theorem execStreamEntryAssign_keeps {orig : State} (cid : CoreId) {s : State} (h1 : orig.Keeps s) :
    orig.KeepsOut (execStreamEntryAssign cid s) := by
  unfold execStreamEntryAssign
  repeat' first
    | with_reducible assumption
    | intro _
    | with_reducible apply State.KeepsOut.next
    | (with_reducible apply State.onSet_keeps) | (with_reducible apply State.assignStrm_keeps)
    | with_reducible apply State.Keeps.ite | with_reducible apply State.Keeps.ite1 | with_reducible apply State.Keeps.ite2 | with_reducible apply State.Keeps.elim
    | with_reducible apply State.Keeps.foldl | with_reducible apply State.Keeps.foldl1 | with_reducible apply State.Keeps.foldl2 | with_reducible apply State.Keeps.foldl22
    | simp only [↓State.Keeps.upd, ↓State.Keeps.updFlash, ↓State.Keeps.updPoison]
    | split
    | dsimp only

theorem execStreamActivate_keeps {orig : State} (id : StreamId) {s : State} (h1 : orig.Keeps s) :
    orig.KeepsOut (execStreamActivate id s) := by
  unfold execStreamActivate
  repeat' first
    | with_reducible assumption
    | intro _
    | with_reducible apply State.KeepsOut.next
    | (with_reducible apply State.strmEnd_keeps) | (with_reducible apply State.tryActivate_keeps)
    | with_reducible apply State.Keeps.ite | with_reducible apply State.Keeps.ite1 | with_reducible apply State.Keeps.ite2 | with_reducible apply State.Keeps.elim
    | with_reducible apply State.Keeps.foldl | with_reducible apply State.Keeps.foldl1 | with_reducible apply State.Keeps.foldl2 | with_reducible apply State.Keeps.foldl22
    | simp only [↓State.Keeps.upd, ↓State.Keeps.updFlash, ↓State.Keeps.updPoison]
    | split
    | dsimp only

theorem State.copyMem_keeps {orig : State} {s : State} (src : Nat) (dst : Nat) (n : Nat) (h0 : orig.Keeps s) :
    orig.Keeps (State.copyMem s src dst n) := by
  unfold State.copyMem
  repeat' first
    | with_reducible assumption
    | intro _
    | (with_reducible apply State.writeParts_keeps)
    | with_reducible apply State.Keeps.ite | with_reducible apply State.Keeps.ite1 | with_reducible apply State.Keeps.ite2 | with_reducible apply State.Keeps.elim
    | with_reducible apply State.Keeps.foldl | with_reducible apply State.Keeps.foldl1 | with_reducible apply State.Keeps.foldl2 | with_reducible apply State.Keeps.foldl22
    | simp only [↓State.Keeps.upd, ↓State.Keeps.updFlash, ↓State.Keeps.updPoison]
    | split
    | dsimp only

theorem State.strmWrite_keeps {orig : State} {s : State} (x : Stream) (id : Nat) (dst : Word) (bytes : List Byte) (bad : List (Nat × Nat)) (h0 : orig.Keeps s) :
    orig.Keeps (State.strmWrite s x id dst bytes bad).1 := by
  unfold State.strmWrite
  repeat' first
    | with_reducible assumption
    | intro _
    | (with_reducible apply State.inServed_keeps) | (with_reducible apply State.writeParts_keeps)
    | with_reducible apply State.Keeps.ite | with_reducible apply State.Keeps.ite1 | with_reducible apply State.Keeps.ite2 | with_reducible apply State.Keeps.elim
    | with_reducible apply State.Keeps.foldl | with_reducible apply State.Keeps.foldl1 | with_reducible apply State.Keeps.foldl2 | with_reducible apply State.Keeps.foldl22
    | simp only [↓State.Keeps.upd, ↓State.Keeps.updFlash, ↓State.Keeps.updPoison]
    | split
    | dsimp only
theorem State.strmWrite_eq {orig : State} {s : State} (x : Stream) (id : Nat) (dst : Word) (bytes : List Byte) (bad : List (Nat × Nat)) (h0 : orig.Keeps s)
    {other : Nat} {result : State} (e : (State.strmWrite s x id dst bytes bad) = (result, other)) : orig.Keeps result := by
  have := State.strmWrite_keeps (orig := orig) x id dst bytes bad h0
  rw [e] at this
  exact this

theorem State.strmPut_keeps {orig : State} {s : State} (id : Nat) (x : Stream) (dst : Word) (n : Nat) (src : Nat) (bytes : List Byte) (bad : List (Nat × Nat)) (h0 : orig.Keeps s) :
    orig.Keeps (State.strmPut s id x dst n src bytes bad) := by
  unfold State.strmPut
  repeat' first
    | with_reducible assumption
    | intro _
    | (with_reducible apply State.strmWrite_keeps)
    | (with_reducible refine State.strmWrite_eq _ _ _ _ _ ?_ (by with_reducible assumption))
    | (with_reducible apply State.strmFlush_keeps) | (with_reducible apply State.setStrm_keeps)
    | with_reducible apply State.Keeps.ite | with_reducible apply State.Keeps.ite1 | with_reducible apply State.Keeps.ite2 | with_reducible apply State.Keeps.elim
    | with_reducible apply State.Keeps.foldl | with_reducible apply State.Keeps.foldl1 | with_reducible apply State.Keeps.foldl2 | with_reducible apply State.Keeps.foldl22
    | simp only [↓State.Keeps.upd, ↓State.Keeps.updFlash, ↓State.Keeps.updPoison]
    | split
    | dsimp only

theorem State.strmPiece_keeps {orig : State} {s : State} (id : Nat) (x0 : Stream) (h : HostReply) (h0 : orig.Keeps s) :
    orig.Keeps (State.strmPiece s id x0 h) := by
  unfold State.strmPiece
  repeat' first
    | with_reducible assumption
    | intro _
    | (with_reducible apply State.poisonRecord_keeps) | (with_reducible apply State.strmPut_keeps)
    | (with_reducible apply State.strmFlush_keeps) | (with_reducible apply State.setStrm_keeps)
    | (with_reducible apply State.strmFail_keeps)
    | with_reducible apply State.Keeps.ite | with_reducible apply State.Keeps.ite1 | with_reducible apply State.Keeps.ite2 | with_reducible apply State.Keeps.elim
    | with_reducible apply State.Keeps.foldl | with_reducible apply State.Keeps.foldl1 | with_reducible apply State.Keeps.foldl2 | with_reducible apply State.Keeps.foldl22
    | simp only [↓State.Keeps.upd, ↓State.Keeps.updFlash, ↓State.Keeps.updPoison]
    | split
    | dsimp only

theorem State.pieceServed_keeps {orig : State} {s : State} (id : Nat) (x : Stream) (h0 : orig.Keeps s) :
    orig.Keeps (State.pieceServed s id x) := by
  unfold State.pieceServed
  repeat' first
    | with_reducible assumption
    | intro _
    | (with_reducible apply State.arbServed_keeps)
    | with_reducible apply State.Keeps.ite | with_reducible apply State.Keeps.ite1 | with_reducible apply State.Keeps.ite2 | with_reducible apply State.Keeps.elim
    | with_reducible apply State.Keeps.foldl | with_reducible apply State.Keeps.foldl1 | with_reducible apply State.Keeps.foldl2 | with_reducible apply State.Keeps.foldl22
    | simp only [↓State.Keeps.upd, ↓State.Keeps.updFlash, ↓State.Keeps.updPoison]
    | split
    | dsimp only

theorem State.pieceCrossed_keeps {orig : State} {s : State} (x : Stream) (h0 : orig.Keeps s) :
    orig.Keeps (State.pieceCrossed s x) := by
  unfold State.pieceCrossed
  repeat' first
    | with_reducible assumption
    | intro _
    | (with_reducible apply State.crossedRange_keeps)
    | with_reducible apply State.Keeps.ite | with_reducible apply State.Keeps.ite1 | with_reducible apply State.Keeps.ite2 | with_reducible apply State.Keeps.elim
    | with_reducible apply State.Keeps.foldl | with_reducible apply State.Keeps.foldl1 | with_reducible apply State.Keeps.foldl2 | with_reducible apply State.Keeps.foldl22
    | simp only [↓State.Keeps.upd, ↓State.Keeps.updFlash, ↓State.Keeps.updPoison]
    | split
    | dsimp only

theorem execStreamPiece_keeps {orig : State} (id : StreamId) (h : HostReply) {s : State} (h2 : orig.Keeps s) :
    orig.KeepsOut (execStreamPiece id h s) := by
  unfold execStreamPiece
  repeat' first
    | with_reducible assumption
    | intro _
    | with_reducible apply State.KeepsOut.next
    | (with_reducible apply State.strmPiece_keeps) | (with_reducible apply State.pieceCrossed_keeps)
    | (with_reducible apply State.pieceServed_keeps)
    | with_reducible apply State.Keeps.ite | with_reducible apply State.Keeps.ite1 | with_reducible apply State.Keeps.ite2 | with_reducible apply State.Keeps.elim
    | with_reducible apply State.Keeps.foldl | with_reducible apply State.Keeps.foldl1 | with_reducible apply State.Keeps.foldl2 | with_reducible apply State.Keeps.foldl22
    | simp only [↓State.Keeps.upd, ↓State.Keeps.updFlash, ↓State.Keeps.updPoison]
    | split
    | dsimp only

theorem execStreamFlushReadComplete_keeps {orig : State} (r : FlushRead) {s : State} (h1 : orig.Keeps s) :
    orig.KeepsOut (execStreamFlushReadComplete r s) := by
  unfold execStreamFlushReadComplete
  repeat' first
    | with_reducible assumption
    | intro _
    | with_reducible apply State.KeepsOut.next
    | (with_reducible apply State.setStrm_keeps) | (with_reducible apply State.strmFail_keeps)
    | with_reducible apply State.Keeps.ite | with_reducible apply State.Keeps.ite1 | with_reducible apply State.Keeps.ite2 | with_reducible apply State.Keeps.elim
    | with_reducible apply State.Keeps.foldl | with_reducible apply State.Keeps.foldl1 | with_reducible apply State.Keeps.foldl2 | with_reducible apply State.Keeps.foldl22
    | simp only [↓State.Keeps.upd, ↓State.Keeps.updFlash, ↓State.Keeps.updPoison]
    | split
    | dsimp only

theorem execStreamRetire_keeps {orig : State} (id : StreamId) {s : State} (h1 : orig.Keeps s) :
    orig.KeepsOut (execStreamRetire id s) := by
  unfold execStreamRetire
  repeat' first
    | with_reducible assumption
    | intro _
    | with_reducible apply State.KeepsOut.next
    | (with_reducible apply State.strmEnd_keeps)
    | with_reducible apply State.Keeps.ite | with_reducible apply State.Keeps.ite1 | with_reducible apply State.Keeps.ite2 | with_reducible apply State.Keeps.elim
    | with_reducible apply State.Keeps.foldl | with_reducible apply State.Keeps.foldl1 | with_reducible apply State.Keeps.foldl2 | with_reducible apply State.Keeps.foldl22
    | simp only [↓State.Keeps.upd, ↓State.Keeps.updFlash, ↓State.Keeps.updPoison]
    | split
    | dsimp only

theorem execStreamCancelComplete_keeps {orig : State} (id : StreamId) {s : State} (h1 : orig.Keeps s) :
    orig.KeepsOut (execStreamCancelComplete id s) := by
  unfold execStreamCancelComplete
  repeat' first
    | with_reducible assumption
    | intro _
    | with_reducible apply State.KeepsOut.next
    | (with_reducible apply State.strmEnd_keeps)
    | with_reducible apply State.Keeps.ite | with_reducible apply State.Keeps.ite1 | with_reducible apply State.Keeps.ite2 | with_reducible apply State.Keeps.elim
    | with_reducible apply State.Keeps.foldl | with_reducible apply State.Keeps.foldl1 | with_reducible apply State.Keeps.foldl2 | with_reducible apply State.Keeps.foldl22
    | simp only [↓State.Keeps.upd, ↓State.Keeps.updFlash, ↓State.Keeps.updPoison]
    | split
    | dsimp only

theorem State.strmAnswer_keeps {orig : State} {s : State} (id : Nat) (ord : Nat) (f : Stream → State → State) (h0 : orig.Keeps s) (h3 : ∀ x s, orig.Keeps s → orig.Keeps (f x s)) :
    orig.Keeps (State.strmAnswer s id ord f) := by
  unfold State.strmAnswer
  repeat' first
    | with_reducible assumption
    | intro _
    | (with_reducible apply h3)
    | with_reducible apply State.Keeps.ite | with_reducible apply State.Keeps.ite1 | with_reducible apply State.Keeps.ite2 | with_reducible apply State.Keeps.elim
    | with_reducible apply State.Keeps.foldl | with_reducible apply State.Keeps.foldl1 | with_reducible apply State.Keeps.foldl2 | with_reducible apply State.Keeps.foldl22
    | simp only [↓State.Keeps.upd, ↓State.Keeps.updFlash, ↓State.Keeps.updPoison]
    | split
    | dsimp only

theorem State.strmAck_keeps {orig : State} {s : State} (id : Nat) (ord : Nat) (ok : Bool) (addr : Nat) (h0 : orig.Keeps s) :
    orig.Keeps (State.strmAck s id ord ok addr) := by
  unfold State.strmAck
  repeat' first
    | with_reducible assumption
    | intro _
    | (with_reducible apply State.strmAnswer_keeps) | (with_reducible apply State.strmEnd_keeps)
    | (with_reducible apply State.strmFlush_keeps) | (with_reducible apply State.setStrm_keeps)
    | (with_reducible apply State.strmFail_keeps)
    | with_reducible apply State.Keeps.ite | with_reducible apply State.Keeps.ite1 | with_reducible apply State.Keeps.ite2 | with_reducible apply State.Keeps.elim
    | with_reducible apply State.Keeps.foldl | with_reducible apply State.Keeps.foldl1 | with_reducible apply State.Keeps.foldl2 | with_reducible apply State.Keeps.foldl22
    | simp only [↓State.Keeps.upd, ↓State.Keeps.updFlash, ↓State.Keeps.updPoison]
    | split
    | dsimp only

theorem State.strmData_keeps {orig : State} {s : State} (id : Nat) (ord : Nat) (src : Nat) (dst : Word) (bytes : List Byte) (poison : Bool) (last : Bool) (h0 : orig.Keeps s) :
    orig.Keeps (State.strmData s id ord src dst bytes poison last) := by
  unfold State.strmData
  repeat' first
    | with_reducible assumption
    | intro _
    | (with_reducible apply State.strmWrite_keeps)
    | (with_reducible refine State.strmWrite_eq _ _ _ _ _ ?_ (by with_reducible assumption))
    | (with_reducible apply State.strmEnd_keeps) | (with_reducible apply State.strmFlush_keeps)
    | (with_reducible apply State.setStrm_keeps)
    | with_reducible apply State.Keeps.ite | with_reducible apply State.Keeps.ite1 | with_reducible apply State.Keeps.ite2 | with_reducible apply State.Keeps.elim
    | with_reducible apply State.Keeps.foldl | with_reducible apply State.Keeps.foldl1 | with_reducible apply State.Keeps.foldl2 | with_reducible apply State.Keeps.foldl22
    | simp only [↓State.Keeps.upd, ↓State.Keeps.updFlash, ↓State.Keeps.updPoison]
    | split
    | dsimp only

theorem State.spoilStaged_keeps {orig : State} {s : State} (m : Nat) (off : Nat) (h0 : orig.Keeps s) :
    orig.Keeps (State.spoilStaged s m off) := by
  unfold State.spoilStaged
  repeat' first
    | with_reducible assumption
    | intro _
    | with_reducible apply State.Keeps.ite | with_reducible apply State.Keeps.ite1 | with_reducible apply State.Keeps.ite2 | with_reducible apply State.Keeps.elim
    | with_reducible apply State.Keeps.foldl | with_reducible apply State.Keeps.foldl1 | with_reducible apply State.Keeps.foldl2 | with_reducible apply State.Keeps.foldl22
    | simp only [↓State.Keeps.upd, ↓State.Keeps.updFlash, ↓State.Keeps.updPoison]
    | split
    | dsimp only

theorem State.stageBad_keeps {orig : State} {s : State} (a : Nat) (h0 : orig.Keeps s) :
    orig.Keeps (State.stageBad s a) := by
  unfold State.stageBad
  repeat' first
    | with_reducible assumption
    | intro _
    | (with_reducible apply State.spoilStaged_keeps)
    | with_reducible apply State.Keeps.ite | with_reducible apply State.Keeps.ite1 | with_reducible apply State.Keeps.ite2 | with_reducible apply State.Keeps.elim
    | with_reducible apply State.Keeps.foldl | with_reducible apply State.Keeps.foldl1 | with_reducible apply State.Keeps.foldl2 | with_reducible apply State.Keeps.foldl22
    | simp only [↓State.Keeps.upd, ↓State.Keeps.updFlash, ↓State.Keeps.updPoison]
    | split
    | dsimp only

theorem State.scrub_keeps {orig : State} {s : State} (a : Nat) (found : EccFinding) (h0 : orig.Keeps s) :
    orig.Keeps (State.scrub s a found) := by
  unfold State.scrub
  repeat' first
    | with_reducible assumption
    | intro _
    | (with_reducible apply State.stageBad_keeps) | (with_reducible apply State.openRecord_keeps)
    | (with_reducible refine State.openRecord_eq _ _ ?_ (by with_reducible assumption)) | (with_reducible apply State.markPoison_keeps)
    | (with_reducible apply State.charge_keeps)
    | with_reducible apply State.Keeps.ite | with_reducible apply State.Keeps.ite1 | with_reducible apply State.Keeps.ite2 | with_reducible apply State.Keeps.elim
    | with_reducible apply State.Keeps.foldl | with_reducible apply State.Keeps.foldl1 | with_reducible apply State.Keeps.foldl2 | with_reducible apply State.Keeps.foldl22
    | simp only [↓State.Keeps.upd, ↓State.Keeps.updFlash, ↓State.Keeps.updPoison]
    | split
    | dsimp only

theorem execPatrolScrub_keeps {orig : State} (a : Addr) (found : EccFinding) {s : State} (h2 : orig.Keeps s) :
    orig.KeepsOut (execPatrolScrub a found s) := by
  unfold execPatrolScrub
  repeat' first
    | with_reducible assumption
    | intro _
    | with_reducible apply State.KeepsOut.next
    | (with_reducible apply State.scrub_keeps)
    | with_reducible apply State.Keeps.ite | with_reducible apply State.Keeps.ite1 | with_reducible apply State.Keeps.ite2 | with_reducible apply State.Keeps.elim
    | with_reducible apply State.Keeps.foldl | with_reducible apply State.Keeps.foldl1 | with_reducible apply State.Keeps.foldl2 | with_reducible apply State.Keeps.foldl22
    | simp only [↓State.Keeps.upd, ↓State.Keeps.updFlash, ↓State.Keeps.updPoison]
    | split
    | dsimp only

theorem State.writeIlv_keeps {orig : State} {s : State} (sz : CsrSize) (v : Word) (h0 : orig.Keeps s) :
    orig.Keeps (State.writeIlv s sz v) := by
  unfold State.writeIlv
  repeat' first
    | with_reducible assumption
    | intro _
    | (with_reducible apply State.setFld_keeps)
    | with_reducible apply State.Keeps.ite | with_reducible apply State.Keeps.ite1 | with_reducible apply State.Keeps.ite2 | with_reducible apply State.Keeps.elim
    | with_reducible apply State.Keeps.foldl | with_reducible apply State.Keeps.foldl1 | with_reducible apply State.Keeps.foldl2 | with_reducible apply State.Keeps.foldl22
    | simp only [↓State.Keeps.upd, ↓State.Keeps.updFlash, ↓State.Keeps.updPoison]
    | split
    | dsimp only

theorem execPkgHbmIlvWrite_keeps {orig : State} (sz : CsrSize) (v : Word) {s : State} (h2 : orig.Keeps s) :
    orig.KeepsOut (execPkgHbmIlvWrite sz v s) := by
  unfold execPkgHbmIlvWrite
  repeat' first
    | with_reducible assumption
    | intro _
    | with_reducible apply State.KeepsOut.next
    | (with_reducible apply State.writeIlv_keeps)
    | with_reducible apply State.Keeps.ite | with_reducible apply State.Keeps.ite1 | with_reducible apply State.Keeps.ite2 | with_reducible apply State.Keeps.elim
    | with_reducible apply State.Keeps.foldl | with_reducible apply State.Keeps.foldl1 | with_reducible apply State.Keeps.foldl2 | with_reducible apply State.Keeps.foldl22
    | simp only [↓State.Keeps.upd, ↓State.Keeps.updFlash, ↓State.Keeps.updPoison]
    | split
    | dsimp only

end Sys2Proof.Machine
end

