-- ==== Sys2Proof/Laws/KeepSched.lean ====
section
/-! SUPPORT. What the operations of Machine/Sched.lean keep. -/

set_option linter.all false

namespace Sys2Proof.Machine

theorem State.release_keeps {orig : State} {s : State} (keys : List Nat) (h : Hold) (h0 : orig.Keeps s) :
    orig.Keeps (State.release s keys h) := by
  unfold State.release
  repeat' first
    | with_reducible assumption
    | intro _
    | (with_reducible apply State.modCore_keeps)
    | with_reducible apply State.Keeps.ite | with_reducible apply State.Keeps.ite1 | with_reducible apply State.Keeps.ite2 | with_reducible apply State.Keeps.elim
    | with_reducible apply State.Keeps.foldl | with_reducible apply State.Keeps.foldl1 | with_reducible apply State.Keeps.foldl2 | with_reducible apply State.Keeps.foldl22
    | simp only [↓State.Keeps.upd, ↓State.Keeps.updFlash, ↓State.Keeps.updPoison]
    | split
    | dsimp only

theorem execClusterBarrierRelease_keeps {orig : State} (k : Fin 4) (cl : Fin 12) {s : State} (h2 : orig.Keeps s) :
    orig.KeepsOut (execClusterBarrierRelease k cl s) := by
  unfold execClusterBarrierRelease
  repeat' first
    | with_reducible assumption
    | intro _
    | with_reducible apply State.KeepsOut.next
    | (with_reducible apply State.release_keeps)
    | with_reducible apply State.Keeps.ite | with_reducible apply State.Keeps.ite1 | with_reducible apply State.Keeps.ite2 | with_reducible apply State.Keeps.elim
    | with_reducible apply State.Keeps.foldl | with_reducible apply State.Keeps.foldl1 | with_reducible apply State.Keeps.foldl2 | with_reducible apply State.Keeps.foldl22
    | simp only [↓State.Keeps.upd, ↓State.Keeps.updFlash, ↓State.Keeps.updPoison]
    | split
    | dsimp only

theorem execGroupBarrierRelease_keeps {orig : State} (ctx : CtxId) (g : Fin 8) {s : State} (h2 : orig.Keeps s) :
    orig.KeepsOut (execGroupBarrierRelease ctx g s) := by
  unfold execGroupBarrierRelease
  repeat' first
    | with_reducible assumption
    | intro _
    | with_reducible apply State.KeepsOut.next
    | (with_reducible apply State.release_keeps)
    | with_reducible apply State.Keeps.ite | with_reducible apply State.Keeps.ite1 | with_reducible apply State.Keeps.ite2 | with_reducible apply State.Keeps.elim
    | with_reducible apply State.Keeps.foldl | with_reducible apply State.Keeps.foldl1 | with_reducible apply State.Keeps.foldl2 | with_reducible apply State.Keeps.foldl22
    | simp only [↓State.Keeps.upd, ↓State.Keeps.updFlash, ↓State.Keeps.updPoison]
    | split
    | dsimp only

theorem execBarrierReleaseDelivered_keeps {orig : State} (cid : CoreId) {s : State} (h1 : orig.Keeps s) :
    orig.KeepsOut (execBarrierReleaseDelivered cid s) := by
  unfold execBarrierReleaseDelivered
  repeat' first
    | with_reducible assumption
    | intro _
    | with_reducible apply State.KeepsOut.next
    | (with_reducible apply State.modCore_keeps)
    | with_reducible apply State.Keeps.ite | with_reducible apply State.Keeps.ite1 | with_reducible apply State.Keeps.ite2 | with_reducible apply State.Keeps.elim
    | with_reducible apply State.Keeps.foldl | with_reducible apply State.Keeps.foldl1 | with_reducible apply State.Keeps.foldl2 | with_reducible apply State.Keeps.foldl22
    | simp only [↓State.Keeps.upd, ↓State.Keeps.updFlash, ↓State.Keeps.updPoison]
    | split
    | dsimp only

theorem State.raiseInc_keeps {orig : State} {s : State} (i : Inc) (h0 : orig.Keeps s) :
    orig.Keeps (State.raiseInc s i) := by
  unfold State.raiseInc
  repeat' first
    | with_reducible assumption
    | intro _
    | (with_reducible apply State.modSet_keeps) | (with_reducible apply State.addFault_keeps)
    | with_reducible apply State.Keeps.ite | with_reducible apply State.Keeps.ite1 | with_reducible apply State.Keeps.ite2 | with_reducible apply State.Keeps.elim
    | with_reducible apply State.Keeps.foldl | with_reducible apply State.Keeps.foldl1 | with_reducible apply State.Keeps.foldl2 | with_reducible apply State.Keeps.foldl22
    | simp only [↓State.Keeps.upd, ↓State.Keeps.updFlash, ↓State.Keeps.updPoison]
    | split
    | dsimp only

theorem State.landInc_keeps {orig : State} {s : State} (i : Inc) (h0 : orig.Keeps s) :
    orig.Keeps (State.landInc s i) := by
  unfold State.landInc
  repeat' first
    | with_reducible assumption
    | intro _
    | (with_reducible apply State.sendInc_keeps) | (with_reducible apply State.raiseInc_keeps)
    | with_reducible apply State.Keeps.ite | with_reducible apply State.Keeps.ite1 | with_reducible apply State.Keeps.ite2 | with_reducible apply State.Keeps.elim
    | with_reducible apply State.Keeps.foldl | with_reducible apply State.Keeps.foldl1 | with_reducible apply State.Keeps.foldl2 | with_reducible apply State.Keeps.foldl22
    | simp only [↓State.Keeps.upd, ↓State.Keeps.updFlash, ↓State.Keeps.updPoison]
    | split
    | dsimp only

theorem State.testWaits_keeps {orig : State} {s : State} (i : Inc) (h0 : orig.Keeps s) :
    orig.Keeps (State.testWaits s i) := by
  unfold State.testWaits
  repeat' first
    | with_reducible assumption
    | intro _
    | (with_reducible apply State.modSet_keeps)
    | with_reducible apply State.Keeps.ite | with_reducible apply State.Keeps.ite1 | with_reducible apply State.Keeps.ite2 | with_reducible apply State.Keeps.elim
    | with_reducible apply State.Keeps.foldl | with_reducible apply State.Keeps.foldl1 | with_reducible apply State.Keeps.foldl2 | with_reducible apply State.Keeps.foldl22
    | simp only [↓State.Keeps.upd, ↓State.Keeps.updFlash, ↓State.Keeps.updPoison]
    | split
    | dsimp only

theorem execEventIncrement_keeps {orig : State} (i : List Nat) {s : State} (h1 : orig.Keeps s) :
    orig.KeepsOut (execEventIncrement i s) := by
  unfold execEventIncrement
  repeat' first
    | with_reducible assumption
    | intro _
    | with_reducible apply State.KeepsOut.next
    | (with_reducible apply State.testWaits_keeps) | (with_reducible apply State.landInc_keeps)
    | with_reducible apply State.Keeps.ite | with_reducible apply State.Keeps.ite1 | with_reducible apply State.Keeps.ite2 | with_reducible apply State.Keeps.elim
    | with_reducible apply State.Keeps.foldl | with_reducible apply State.Keeps.foldl1 | with_reducible apply State.Keeps.foldl2 | with_reducible apply State.Keeps.foldl22
    | simp only [↓State.Keeps.upd, ↓State.Keeps.updFlash, ↓State.Keeps.updPoison]
    | split
    | dsimp only

theorem State.atomic_keeps {orig : State} {s : State} (u : Nat) (op : Nat) (a : Nat) (b : Word) (c : Word) (ref : AtomRef) (ctx : Option CtxId) (h0 : orig.Keeps s) :
    orig.Keeps (State.atomic s u op a b c ref ctx).1 := by
  unfold State.atomic
  repeat' first
    | with_reducible assumption
    | intro _
    | (with_reducible apply State.answerAtom_keeps) | (with_reducible apply State.poisonRecord_keeps)
    | (with_reducible apply State.writeNat_keeps)
    | with_reducible apply State.Keeps.ite | with_reducible apply State.Keeps.ite1 | with_reducible apply State.Keeps.ite2 | with_reducible apply State.Keeps.elim
    | with_reducible apply State.Keeps.foldl | with_reducible apply State.Keeps.foldl1 | with_reducible apply State.Keeps.foldl2 | with_reducible apply State.Keeps.foldl22
    | simp only [↓State.Keeps.upd, ↓State.Keeps.updFlash, ↓State.Keeps.updPoison]
    | split
    | dsimp only
theorem State.atomic_eq {orig : State} {s : State} (u : Nat) (op : Nat) (a : Nat) (b : Word) (c : Word) (ref : AtomRef) (ctx : Option CtxId) (h0 : orig.Keeps s)
    {other : Bool} {result : State} (e : (State.atomic s u op a b c ref ctx) = (result, other)) : orig.Keeps result := by
  have := State.atomic_keeps (orig := orig) u op a b c ref ctx h0
  rw [e] at this
  exact this

theorem State.serveAtom_keeps {orig : State} (n : Nat) {s : State} (r : Requester) (h1 : orig.Keeps s) :
    orig.Keeps (State.serveAtom n s r) := by
  unfold State.serveAtom
  repeat' first
    | with_reducible assumption
    | intro _
    | (with_reducible apply State.modFlight_keeps) | (with_reducible apply State.crossed_keeps)
    | (with_reducible apply State.atomic_keeps)
    | (with_reducible refine State.atomic_eq _ _ _ _ _ _ _ ?_ (by with_reducible assumption))
    | with_reducible apply State.Keeps.ite | with_reducible apply State.Keeps.ite1 | with_reducible apply State.Keeps.ite2 | with_reducible apply State.Keeps.elim
    | with_reducible apply State.Keeps.foldl | with_reducible apply State.Keeps.foldl1 | with_reducible apply State.Keeps.foldl2 | with_reducible apply State.Keeps.foldl22
    | simp only [↓State.Keeps.upd, ↓State.Keeps.updFlash, ↓State.Keeps.updPoison]
    | split
    | dsimp only

theorem execAtomicOperation_keeps {orig : State} (u : AtomicUnit) (r : List Requester) {s : State} (h2 : orig.Keeps s) :
    orig.KeepsOut (execAtomicOperation u r s) := by
  unfold execAtomicOperation
  repeat' first
    | with_reducible assumption
    | intro _
    | with_reducible apply State.KeepsOut.next
    | (with_reducible apply State.serveAtom_keeps)
    | with_reducible apply State.Keeps.ite | with_reducible apply State.Keeps.ite1 | with_reducible apply State.Keeps.ite2 | with_reducible apply State.Keeps.elim
    | with_reducible apply State.Keeps.foldl | with_reducible apply State.Keeps.foldl1 | with_reducible apply State.Keeps.foldl2 | with_reducible apply State.Keeps.foldl22
    | simp only [↓State.Keeps.upd, ↓State.Keeps.updFlash, ↓State.Keeps.updPoison]
    | split
    | dsimp only

theorem execSemWaitResend_keeps {orig : State} (cid : CoreId) (i : Nat) {s : State} (h2 : orig.Keeps s) :
    orig.KeepsOut (execSemWaitResend cid i s) := by
  unfold execSemWaitResend
  repeat' first
    | with_reducible assumption
    | intro _
    | with_reducible apply State.KeepsOut.next
    | (with_reducible apply State.modCore_keeps) | (with_reducible apply State.modSet_keeps)
    | with_reducible apply State.Keeps.ite | with_reducible apply State.Keeps.ite1 | with_reducible apply State.Keeps.ite2 | with_reducible apply State.Keeps.elim
    | with_reducible apply State.Keeps.foldl | with_reducible apply State.Keeps.foldl1 | with_reducible apply State.Keeps.foldl2 | with_reducible apply State.Keeps.foldl22
    | simp only [↓State.Keeps.upd, ↓State.Keeps.updFlash, ↓State.Keeps.updPoison]
    | split
    | dsimp only

theorem State.postFault_keeps {orig : State} {s : State} (n : Nat) (f : FaultRec) (h0 : orig.Keeps s) :
    orig.Keeps (State.postFault s n f) := by
  unfold State.postFault
  repeat' first
    | with_reducible assumption
    | intro _
    | (with_reducible apply State.postCtx_keeps)
    | with_reducible apply State.Keeps.ite | with_reducible apply State.Keeps.ite1 | with_reducible apply State.Keeps.ite2 | with_reducible apply State.Keeps.elim
    | with_reducible apply State.Keeps.foldl | with_reducible apply State.Keeps.foldl1 | with_reducible apply State.Keeps.foldl2 | with_reducible apply State.Keeps.foldl22
    | simp only [↓State.Keeps.upd, ↓State.Keeps.updFlash, ↓State.Keeps.updPoison]
    | split
    | dsimp only

theorem State.recordCtxFault_keeps {orig : State} {s : State} (n : Nat) (f : FaultRec) (h0 : orig.Keeps s) :
    orig.Keeps (State.recordCtxFault s n f) := by
  unfold State.recordCtxFault
  repeat' first
    | with_reducible assumption
    | intro _
    | (with_reducible apply State.bump_keeps) | (with_reducible apply State.csrSet_keeps)
    | with_reducible apply State.Keeps.ite | with_reducible apply State.Keeps.ite1 | with_reducible apply State.Keeps.ite2 | with_reducible apply State.Keeps.elim
    | with_reducible apply State.Keeps.foldl | with_reducible apply State.Keeps.foldl1 | with_reducible apply State.Keeps.foldl2 | with_reducible apply State.Keeps.foldl22
    | simp only [↓State.Keeps.upd, ↓State.Keeps.updFlash, ↓State.Keeps.updPoison]
    | split
    | dsimp only

theorem State.takeFault_keeps {orig : State} {s : State} (n : Nat) (h0 : orig.Keeps s) :
    orig.Keeps (State.takeFault s n) := by
  unfold State.takeFault
  repeat' first
    | with_reducible assumption
    | intro _
    | (with_reducible apply State.recordCtxFault_keeps) | (with_reducible apply State.modCtx_keeps)
    | (with_reducible apply State.postFault_keeps) | (with_reducible apply State.stopCtl_keeps)
    | (with_reducible apply State.stopCores_keeps) | (with_reducible apply State.modCore_keeps)
    | with_reducible apply State.Keeps.ite | with_reducible apply State.Keeps.ite1 | with_reducible apply State.Keeps.ite2 | with_reducible apply State.Keeps.elim
    | with_reducible apply State.Keeps.foldl | with_reducible apply State.Keeps.foldl1 | with_reducible apply State.Keeps.foldl2 | with_reducible apply State.Keeps.foldl22
    | simp only [↓State.Keeps.upd, ↓State.Keeps.updFlash, ↓State.Keeps.updPoison]
    | split
    | dsimp only

theorem execContextFault_keeps {orig : State} (ctx : CtxId) {s : State} (h1 : orig.Keeps s) :
    orig.KeepsOut (execContextFault ctx s) := by
  unfold execContextFault
  repeat' first
    | with_reducible assumption
    | intro _
    | with_reducible apply State.KeepsOut.next
    | (with_reducible apply State.takeFault_keeps)
    | with_reducible apply State.Keeps.ite | with_reducible apply State.Keeps.ite1 | with_reducible apply State.Keeps.ite2 | with_reducible apply State.Keeps.elim
    | with_reducible apply State.Keeps.foldl | with_reducible apply State.Keeps.foldl1 | with_reducible apply State.Keeps.foldl2 | with_reducible apply State.Keeps.foldl22
    | simp only [↓State.Keeps.upd, ↓State.Keeps.updFlash, ↓State.Keeps.updPoison]
    | split
    | dsimp only

theorem execCtxEnterTimeLimit_keeps {orig : State} (n : Fin 16) {s : State} (h1 : orig.Keeps s) :
    orig.KeepsOut (execCtxEnterTimeLimit n s) := by
  unfold execCtxEnterTimeLimit
  repeat' first
    | with_reducible assumption
    | intro _
    | with_reducible apply State.KeepsOut.next
    | (with_reducible apply State.ccReturn_keeps)
    | with_reducible apply State.Keeps.ite | with_reducible apply State.Keeps.ite1 | with_reducible apply State.Keeps.ite2 | with_reducible apply State.Keeps.elim
    | with_reducible apply State.Keeps.foldl | with_reducible apply State.Keeps.foldl1 | with_reducible apply State.Keeps.foldl2 | with_reducible apply State.Keeps.foldl22
    | simp only [↓State.Keeps.upd, ↓State.Keeps.updFlash, ↓State.Keeps.updPoison]
    | split
    | dsimp only

theorem State.ccLoad_keeps {orig : State} {s : State} (n : Nat) (p : CcProg) (h0 : orig.Keeps s) :
    orig.Keeps (State.ccLoad s n p) := by
  unfold State.ccLoad
  repeat' first
    | with_reducible assumption
    | intro _
    | (with_reducible apply State.swapSet_keeps)
    | with_reducible apply State.Keeps.ite | with_reducible apply State.Keeps.ite1 | with_reducible apply State.Keeps.ite2 | with_reducible apply State.Keeps.elim
    | with_reducible apply State.Keeps.foldl | with_reducible apply State.Keeps.foldl1 | with_reducible apply State.Keeps.foldl2 | with_reducible apply State.Keeps.foldl22
    | simp only [↓State.Keeps.upd, ↓State.Keeps.updFlash, ↓State.Keeps.updPoison]
    | split
    | dsimp only

theorem execCcSliceTimer_keeps {orig : State} (n : Fin 16) {s : State} (h1 : orig.Keeps s) :
    orig.KeepsOut (execCcSliceTimer n s) := by
  unfold execCcSliceTimer
  repeat' first
    | with_reducible assumption
    | intro _
    | with_reducible apply State.KeepsOut.next
    | (with_reducible apply State.notice_keeps) | (with_reducible apply State.ccLoad_keeps)
    | with_reducible apply State.Keeps.ite | with_reducible apply State.Keeps.ite1 | with_reducible apply State.Keeps.ite2 | with_reducible apply State.Keeps.elim
    | with_reducible apply State.Keeps.foldl | with_reducible apply State.Keeps.foldl1 | with_reducible apply State.Keeps.foldl2 | with_reducible apply State.Keeps.foldl22
    | simp only [↓State.Keeps.upd, ↓State.Keeps.updFlash, ↓State.Keeps.updPoison]
    | split
    | dsimp only

theorem execWdbNotice_keeps {orig : State} (w : Word) {s : State} (h1 : orig.Keeps s) :
    orig.KeepsOut (execWdbNotice w s) := by
  unfold execWdbNotice
  repeat' first
    | with_reducible assumption
    | intro _
    | with_reducible apply State.KeepsOut.next
    | (with_reducible apply State.notice_keeps)
    | with_reducible apply State.Keeps.ite | with_reducible apply State.Keeps.ite1 | with_reducible apply State.Keeps.ite2 | with_reducible apply State.Keeps.elim
    | with_reducible apply State.Keeps.foldl | with_reducible apply State.Keeps.foldl1 | with_reducible apply State.Keeps.foldl2 | with_reducible apply State.Keeps.foldl22
    | simp only [↓State.Keeps.upd, ↓State.Keeps.updFlash, ↓State.Keeps.updPoison]
    | split
    | dsimp only

theorem execHotRepairDrained_keeps {orig : State} (k : Fin 4) (cl : Fin 12) {s : State} (h2 : orig.Keeps s) :
    orig.KeepsOut (execHotRepairDrained k cl s) := by
  unfold execHotRepairDrained
  repeat' first
    | with_reducible assumption
    | intro _
    | with_reducible apply State.KeepsOut.next
    | (with_reducible apply State.modCluster_keeps)
    | with_reducible apply State.Keeps.ite | with_reducible apply State.Keeps.ite1 | with_reducible apply State.Keeps.ite2 | with_reducible apply State.Keeps.elim
    | with_reducible apply State.Keeps.foldl | with_reducible apply State.Keeps.foldl1 | with_reducible apply State.Keeps.foldl2 | with_reducible apply State.Keeps.foldl22
    | simp only [↓State.Keeps.upd, ↓State.Keeps.updFlash, ↓State.Keeps.updPoison]
    | split
    | dsimp only

theorem State.repairDone_keeps {orig : State} {s : State} (k : Nat) (cl : Nat) (bad : Bool) (h0 : orig.Keeps s) :
    orig.Keeps (State.repairDone s k cl bad) := by
  unfold State.repairDone
  repeat' first
    | with_reducible assumption
    | intro _
    | (with_reducible apply State.setFld_keeps) | (with_reducible apply State.modCluster_keeps)
    | (with_reducible apply State.saveMap_keeps) | (with_reducible apply State.postPfs_keeps)
    | (with_reducible apply State.startHatch_keeps) | (with_reducible apply State.retireCore_keeps)
    | with_reducible apply State.Keeps.ite | with_reducible apply State.Keeps.ite1 | with_reducible apply State.Keeps.ite2 | with_reducible apply State.Keeps.elim
    | with_reducible apply State.Keeps.foldl | with_reducible apply State.Keeps.foldl1 | with_reducible apply State.Keeps.foldl2 | with_reducible apply State.Keeps.foldl22
    | simp only [↓State.Keeps.upd, ↓State.Keeps.updFlash, ↓State.Keeps.updPoison]
    | split
    | dsimp only

theorem execHotRepairCopyDone_keeps {orig : State} (k : Fin 4) (cl : Fin 12) (uncorrectable : Bool) {s : State} (h3 : orig.Keeps s) :
    orig.KeepsOut (execHotRepairCopyDone k cl uncorrectable s) := by
  unfold execHotRepairCopyDone
  repeat' first
    | with_reducible assumption
    | intro _
    | with_reducible apply State.KeepsOut.next
    | (with_reducible apply State.repairDone_keeps)
    | with_reducible apply State.Keeps.ite | with_reducible apply State.Keeps.ite1 | with_reducible apply State.Keeps.ite2 | with_reducible apply State.Keeps.elim
    | with_reducible apply State.Keeps.foldl | with_reducible apply State.Keeps.foldl1 | with_reducible apply State.Keeps.foldl2 | with_reducible apply State.Keeps.foldl22
    | simp only [↓State.Keeps.upd, ↓State.Keeps.updFlash, ↓State.Keeps.updPoison]
    | split
    | dsimp only

end Sys2Proof.Machine
end

