-- ==== Sys2Proof/Laws/KeepFabric.lean ====
section
/-! SUPPORT. What the operations of Machine/Fabric.lean keep. -/

set_option linter.all false

namespace Sys2Proof.Machine

theorem State.rewriteRings_keeps {orig : State} {s : State} (h0 : orig.Keeps s) :
    orig.Keeps (State.rewriteRings s) := by
  unfold State.rewriteRings
  repeat' first
    | with_reducible assumption
    | intro _
    | (with_reducible apply State.csrSet_keeps)
    | with_reducible apply State.Keeps.ite | with_reducible apply State.Keeps.ite1 | with_reducible apply State.Keeps.ite2 | with_reducible apply State.Keeps.elim
    | with_reducible apply State.Keeps.foldl | with_reducible apply State.Keeps.foldl1 | with_reducible apply State.Keeps.foldl2 | with_reducible apply State.Keeps.foldl22
    | simp only [↓State.Keeps.upd, ↓State.Keeps.updFlash, ↓State.Keeps.updPoison]
    | split
    | dsimp only

theorem State.modFport_keeps {orig : State} {s : State} (p : Nat) (f : FPort → FPort) (h0 : orig.Keeps s) :
    orig.Keeps (State.modFport s p f) := by
  unfold State.modFport
  repeat' first
    | with_reducible assumption
    | intro _
    | with_reducible apply State.Keeps.ite | with_reducible apply State.Keeps.ite1 | with_reducible apply State.Keeps.ite2 | with_reducible apply State.Keeps.elim
    | with_reducible apply State.Keeps.foldl | with_reducible apply State.Keeps.foldl1 | with_reducible apply State.Keeps.foldl2 | with_reducible apply State.Keeps.foldl22
    | simp only [↓State.Keeps.upd, ↓State.Keeps.updFlash, ↓State.Keeps.updPoison]
    | split
    | dsimp only

theorem State.modDet_keeps {orig : State} {s : State} (d : Nat) (f : Detour → Detour) (h0 : orig.Keeps s) :
    orig.Keeps (State.modDet s d f) := by
  unfold State.modDet
  repeat' first
    | with_reducible assumption
    | intro _
    | with_reducible apply State.Keeps.ite | with_reducible apply State.Keeps.ite1 | with_reducible apply State.Keeps.ite2 | with_reducible apply State.Keeps.elim
    | with_reducible apply State.Keeps.foldl | with_reducible apply State.Keeps.foldl1 | with_reducible apply State.Keeps.foldl2 | with_reducible apply State.Keeps.foldl22
    | simp only [↓State.Keeps.upd, ↓State.Keeps.updFlash, ↓State.Keeps.updPoison]
    | split
    | dsimp only

theorem State.sendPen_keeps {orig : State} {s : State} (typ : Nat) (vc : Nat) (dst : Nat) (ctx : CtxId) (addr : Nat) (bytes : List Byte) (len : Nat) (last : Bool) (poison : Bool) (eseq : Nat) (h0 : orig.Keeps s) :
    orig.Keeps (State.sendPen s typ vc dst ctx addr bytes len last poison eseq).1 := by
  unfold State.sendPen
  repeat' first
    | with_reducible assumption
    | intro _
    | with_reducible apply State.Keeps.ite | with_reducible apply State.Keeps.ite1 | with_reducible apply State.Keeps.ite2 | with_reducible apply State.Keeps.elim
    | with_reducible apply State.Keeps.foldl | with_reducible apply State.Keeps.foldl1 | with_reducible apply State.Keeps.foldl2 | with_reducible apply State.Keeps.foldl22
    | simp only [↓State.Keeps.upd, ↓State.Keeps.updFlash, ↓State.Keeps.updPoison]
    | split
    | dsimp only
theorem State.sendPen_eq {orig : State} {s : State} (typ : Nat) (vc : Nat) (dst : Nat) (ctx : CtxId) (addr : Nat) (bytes : List Byte) (len : Nat) (last : Bool) (poison : Bool) (eseq : Nat) (h0 : orig.Keeps s)
    {other : Nat} {result : State} (e : (State.sendPen s typ vc dst ctx addr bytes len last poison eseq) = (result, other)) : orig.Keeps result := by
  have := State.sendPen_keeps (orig := orig) typ vc dst ctx addr bytes len last poison eseq h0
  rw [e] at this
  exact this

theorem State.leaveRx_keeps {orig : State} {s : State} (o : Nat × Nat) (h0 : orig.Keeps s) :
    orig.Keeps (State.leaveRx s o) := by
  unfold State.leaveRx
  repeat' first
    | with_reducible assumption
    | intro _
    | (with_reducible apply State.modFport_keeps)
    | with_reducible apply State.Keeps.ite | with_reducible apply State.Keeps.ite1 | with_reducible apply State.Keeps.ite2 | with_reducible apply State.Keeps.elim
    | with_reducible apply State.Keeps.foldl | with_reducible apply State.Keeps.foldl1 | with_reducible apply State.Keeps.foldl2 | with_reducible apply State.Keeps.foldl22
    | simp only [↓State.Keeps.upd, ↓State.Keeps.updFlash, ↓State.Keeps.updPoison]
    | split
    | dsimp only

theorem State.takeIn_keeps {orig : State} {s : State} (pn : Pennant) (h0 : orig.Keeps s) :
    orig.Keeps (State.takeIn s pn) := by
  unfold State.takeIn
  repeat' first
    | with_reducible assumption
    | intro _
    | (with_reducible apply State.leaveRx_keeps)
    | with_reducible apply State.Keeps.ite | with_reducible apply State.Keeps.ite1 | with_reducible apply State.Keeps.ite2 | with_reducible apply State.Keeps.elim
    | with_reducible apply State.Keeps.foldl | with_reducible apply State.Keeps.foldl1 | with_reducible apply State.Keeps.foldl2 | with_reducible apply State.Keeps.foldl22
    | simp only [↓State.Keeps.upd, ↓State.Keeps.updFlash, ↓State.Keeps.updPoison]
    | split
    | dsimp only

theorem State.routeRecord_keeps {orig : State} {s : State} (h0 : orig.Keeps s) :
    orig.Keeps (State.routeRecord s) := by
  unfold State.routeRecord
  repeat' first
    | with_reducible assumption
    | intro _
    | (with_reducible apply State.openRecord_keeps) | (with_reducible refine State.openRecord_eq _ _ ?_ (by with_reducible assumption))
    | with_reducible apply State.Keeps.ite | with_reducible apply State.Keeps.ite1 | with_reducible apply State.Keeps.ite2 | with_reducible apply State.Keeps.elim
    | with_reducible apply State.Keeps.foldl | with_reducible apply State.Keeps.foldl1 | with_reducible apply State.Keeps.foldl2 | with_reducible apply State.Keeps.foldl22
    | simp only [↓State.Keeps.upd, ↓State.Keeps.updFlash, ↓State.Keeps.updPoison]
    | split
    | dsimp only

theorem State.eseqIn_keeps {orig : State} {s : State} (p : Pennant) (h0 : orig.Keeps s) :
    orig.Keeps (State.eseqIn s p).1 := by
  unfold State.eseqIn
  repeat' first
    | with_reducible assumption
    | intro _
    | (with_reducible apply State.bump_keeps) | (with_reducible apply State.routeRecord_keeps)
    | with_reducible apply State.Keeps.ite | with_reducible apply State.Keeps.ite1 | with_reducible apply State.Keeps.ite2 | with_reducible apply State.Keeps.elim
    | with_reducible apply State.Keeps.foldl | with_reducible apply State.Keeps.foldl1 | with_reducible apply State.Keeps.foldl2 | with_reducible apply State.Keeps.foldl22
    | simp only [↓State.Keeps.upd, ↓State.Keeps.updFlash, ↓State.Keeps.updPoison]
    | split
    | dsimp only
theorem State.eseqIn_eq {orig : State} {s : State} (p : Pennant) (h0 : orig.Keeps s)
    {other : Bool} {result : State} (e : (State.eseqIn s p) = (result, other)) : orig.Keeps result := by
  have := State.eseqIn_keeps (orig := orig) p h0
  rw [e] at this
  exact this

theorem State.takeSeq_keeps {orig : State} {s : State} (p : Pennant) (f : State → State) (h0 : orig.Keeps s) (h2 : ∀ s, orig.Keeps s → orig.Keeps (f s)) :
    orig.Keeps (State.takeSeq s p f) := by
  unfold State.takeSeq
  repeat' first
    | with_reducible assumption
    | intro _
    | (with_reducible apply State.eseqIn_keeps) | (with_reducible refine State.eseqIn_eq _ ?_ (by with_reducible assumption))
    | (with_reducible apply State.takeIn_keeps) | (with_reducible apply h2)
    | with_reducible apply State.Keeps.ite | with_reducible apply State.Keeps.ite1 | with_reducible apply State.Keeps.ite2 | with_reducible apply State.Keeps.elim
    | with_reducible apply State.Keeps.foldl | with_reducible apply State.Keeps.foldl1 | with_reducible apply State.Keeps.foldl2 | with_reducible apply State.Keeps.foldl22
    | simp only [↓State.Keeps.upd, ↓State.Keeps.updFlash, ↓State.Keeps.updPoison]
    | split
    | dsimp only

theorem State.sendMsg_keeps {orig : State} {s : State} (m : NetMsg) (h0 : orig.Keeps s) :
    orig.Keeps (State.sendMsg s m) := by
  unfold State.sendMsg
  repeat' first
    | with_reducible assumption
    | intro _
    | with_reducible apply State.Keeps.ite | with_reducible apply State.Keeps.ite1 | with_reducible apply State.Keeps.ite2 | with_reducible apply State.Keeps.elim
    | with_reducible apply State.Keeps.foldl | with_reducible apply State.Keeps.foldl1 | with_reducible apply State.Keeps.foldl2 | with_reducible apply State.Keeps.foldl22
    | simp only [↓State.Keeps.upd, ↓State.Keeps.updFlash, ↓State.Keeps.updPoison]
    | split
    | dsimp only

end Sys2Proof.Machine
end

