-- ==== Sys2Proof/Laws/KeepUpdate.lean ====
section
/-! SUPPORT. What the operations of Machine/Update.lean keep. -/

set_option linter.all false

namespace Sys2Proof.Machine

theorem State.writeStage_keeps {orig : State} {s : State} (u : Nat) (sz : CsrSize) (v : Word) (h0 : orig.Keeps s) :
    orig.Keeps (State.writeStage s u sz v) := by
  unfold State.writeStage
  repeat' first
    | with_reducible assumption
    | intro _
    | (with_reducible apply State.setFld_keeps)
    | with_reducible apply State.Keeps.ite | with_reducible apply State.Keeps.ite1 | with_reducible apply State.Keeps.ite2 | with_reducible apply State.Keeps.elim
    | with_reducible apply State.Keeps.foldl | with_reducible apply State.Keeps.foldl1 | with_reducible apply State.Keeps.foldl2 | with_reducible apply State.Keeps.foldl22
    | simp only [↓State.Keeps.upd, ↓State.Keeps.updFlash, ↓State.Keeps.updPoison]
    | split
    | dsimp only

theorem execUpdStageWrite_keeps {orig : State} (u : Fin 12) (sz : CsrSize) (v : Word) {s : State} (h3 : orig.Keeps s) :
    orig.KeepsOut (execUpdStageWrite u sz v s) := by
  unfold execUpdStageWrite
  repeat' first
    | with_reducible assumption
    | intro _
    | with_reducible apply State.KeepsOut.next
    | (with_reducible apply State.writeStage_keeps)
    | with_reducible apply State.Keeps.ite | with_reducible apply State.Keeps.ite1 | with_reducible apply State.Keeps.ite2 | with_reducible apply State.Keeps.elim
    | with_reducible apply State.Keeps.foldl | with_reducible apply State.Keeps.foldl1 | with_reducible apply State.Keeps.foldl2 | with_reducible apply State.Keeps.foldl22
    | simp only [↓State.Keeps.upd, ↓State.Keeps.updFlash, ↓State.Keeps.updPoison]
    | split
    | dsimp only

theorem State.setUsed_keeps {orig : State} {s : State} (u : Nat) (v : Nat) (h0 : orig.Keeps s) :
    orig.Keeps (State.setUsed s u v) := by
  unfold State.setUsed
  repeat' first
    | with_reducible assumption
    | intro _
    | (with_reducible apply State.setFld_keeps)
    | with_reducible apply State.Keeps.ite | with_reducible apply State.Keeps.ite1 | with_reducible apply State.Keeps.ite2 | with_reducible apply State.Keeps.elim
    | with_reducible apply State.Keeps.foldl | with_reducible apply State.Keeps.foldl1 | with_reducible apply State.Keeps.foldl2 | with_reducible apply State.Keeps.foldl22
    | simp only [↓State.Keeps.upd, ↓State.Keeps.updFlash, ↓State.Keeps.updPoison]
    | split
    | dsimp only

theorem State.releaseChunks_keeps {orig : State} {s : State} (p : Chunk → Bool) (h0 : orig.Keeps s) :
    orig.Keeps (State.releaseChunks s p) := by
  unfold State.releaseChunks
  repeat' first
    | with_reducible assumption
    | intro _
    | (with_reducible apply State.setUsed_keeps)
    | with_reducible apply State.Keeps.ite | with_reducible apply State.Keeps.ite1 | with_reducible apply State.Keeps.ite2 | with_reducible apply State.Keeps.elim
    | with_reducible apply State.Keeps.foldl | with_reducible apply State.Keeps.foldl1 | with_reducible apply State.Keeps.foldl2 | with_reducible apply State.Keeps.foldl22
    | simp only [↓State.Keeps.upd, ↓State.Keeps.updFlash, ↓State.Keeps.updPoison]
    | split
    | dsimp only

theorem State.syncApl_keeps {orig : State} {s : State} (n : CtxId) (h0 : orig.Keeps s) :
    orig.Keeps (State.syncApl s n) := by
  unfold State.syncApl
  repeat' first
    | with_reducible assumption
    | intro _
    | (with_reducible apply State.setFld_keeps)
    | with_reducible apply State.Keeps.ite | with_reducible apply State.Keeps.ite1 | with_reducible apply State.Keeps.ite2 | with_reducible apply State.Keeps.elim
    | with_reducible apply State.Keeps.foldl | with_reducible apply State.Keeps.foldl1 | with_reducible apply State.Keeps.foldl2 | with_reducible apply State.Keeps.foldl22
    | simp only [↓State.Keeps.upd, ↓State.Keeps.updFlash, ↓State.Keeps.updPoison]
    | split
    | dsimp only

theorem State.syncNext_keeps {orig : State} {s : State} (n : CtxId) (h0 : orig.Keeps s) :
    orig.Keeps (State.syncNext s n) := by
  unfold State.syncNext
  repeat' first
    | with_reducible assumption
    | intro _
    | (with_reducible apply State.setFld_keeps)
    | with_reducible apply State.Keeps.ite | with_reducible apply State.Keeps.ite1 | with_reducible apply State.Keeps.ite2 | with_reducible apply State.Keeps.elim
    | with_reducible apply State.Keeps.foldl | with_reducible apply State.Keeps.foldl1 | with_reducible apply State.Keeps.foldl2 | with_reducible apply State.Keeps.foldl22
    | simp only [↓State.Keeps.upd, ↓State.Keeps.updFlash, ↓State.Keeps.updPoison]
    | split
    | dsimp only

theorem State.setStep_keeps {orig : State} {s : State} (n : CtxId) (st : Nat) (code : Nat) (h0 : orig.Keeps s) :
    orig.Keeps (State.setStep s n st code) := by
  unfold State.setStep
  repeat' first
    | with_reducible assumption
    | intro _
    | (with_reducible apply State.syncApl_keeps) | (with_reducible apply State.syncNext_keeps)
    | with_reducible apply State.Keeps.ite | with_reducible apply State.Keeps.ite1 | with_reducible apply State.Keeps.ite2 | with_reducible apply State.Keeps.elim
    | with_reducible apply State.Keeps.foldl | with_reducible apply State.Keeps.foldl1 | with_reducible apply State.Keeps.foldl2 | with_reducible apply State.Keeps.foldl22
    | simp only [↓State.Keeps.upd, ↓State.Keeps.updFlash, ↓State.Keeps.updPoison]
    | split
    | dsimp only

theorem State.openStep_keeps {orig : State} {s : State} (n : CtxId) (st : Nat) (h0 : orig.Keeps s) :
    orig.Keeps (State.openStep s n st) := by
  unfold State.openStep
  repeat' first
    | with_reducible assumption
    | intro _
    | (with_reducible apply State.setStep_keeps)
    | with_reducible apply State.Keeps.ite | with_reducible apply State.Keeps.ite1 | with_reducible apply State.Keeps.ite2 | with_reducible apply State.Keeps.elim
    | with_reducible apply State.Keeps.foldl | with_reducible apply State.Keeps.foldl1 | with_reducible apply State.Keeps.foldl2 | with_reducible apply State.Keeps.foldl22
    | simp only [↓State.Keeps.upd, ↓State.Keeps.updFlash, ↓State.Keeps.updPoison]
    | split
    | dsimp only

theorem State.postStep_keeps {orig : State} {s : State} (n : CtxId) (info : Nat) (st : Nat) (w4 : Nat) (w5 : Nat) (h0 : orig.Keeps s) :
    orig.Keeps (State.postStep s n info st w4 w5) := by
  unfold State.postStep
  repeat' first
    | with_reducible assumption
    | intro _
    | (with_reducible apply State.postCtx_keeps)
    | with_reducible apply State.Keeps.ite | with_reducible apply State.Keeps.ite1 | with_reducible apply State.Keeps.ite2 | with_reducible apply State.Keeps.elim
    | with_reducible apply State.Keeps.foldl | with_reducible apply State.Keeps.foldl1 | with_reducible apply State.Keeps.foldl2 | with_reducible apply State.Keeps.foldl22
    | simp only [↓State.Keeps.upd, ↓State.Keeps.updFlash, ↓State.Keeps.updPoison]
    | split
    | dsimp only

theorem State.poisonStep_keeps {orig : State} {s : State} (n : CtxId) (st : Nat) (h0 : orig.Keeps s) :
    orig.Keeps (State.poisonStep s n st) := by
  unfold State.poisonStep
  repeat' first
    | with_reducible assumption
    | intro _
    | (with_reducible apply State.setStep_keeps) | (with_reducible apply State.releaseChunks_keeps)
    | (with_reducible apply State.bump_keeps) | (with_reducible apply State.postStep_keeps)
    | (with_reducible apply State.syncNext_keeps)
    | with_reducible apply State.Keeps.ite | with_reducible apply State.Keeps.ite1 | with_reducible apply State.Keeps.ite2 | with_reducible apply State.Keeps.elim
    | with_reducible apply State.Keeps.foldl | with_reducible apply State.Keeps.foldl1 | with_reducible apply State.Keeps.foldl2 | with_reducible apply State.Keeps.foldl22
    | simp only [↓State.Keeps.upd, ↓State.Keeps.updFlash, ↓State.Keeps.updPoison]
    | split
    | dsimp only

theorem State.readRecs_keeps {orig : State} {s : State} (n : CtxId) (rs : List (Nat × Nat)) (h0 : orig.Keeps s) :
    orig.Keeps (State.readRecs s n rs) := by
  unfold State.readRecs
  repeat' first
    | with_reducible assumption
    | intro _
    | (with_reducible apply State.poisonRecord_keeps)
    | with_reducible apply State.Keeps.ite | with_reducible apply State.Keeps.ite1 | with_reducible apply State.Keeps.ite2 | with_reducible apply State.Keeps.elim
    | with_reducible apply State.Keeps.foldl | with_reducible apply State.Keeps.foldl1 | with_reducible apply State.Keeps.foldl2 | with_reducible apply State.Keeps.foldl22
    | simp only [↓State.Keeps.upd, ↓State.Keeps.updFlash, ↓State.Keeps.updPoison]
    | split
    | dsimp only

theorem State.formPartial_keeps {orig : State} {s : State} (n : CtxId) (st : Nat) (h0 : orig.Keeps s) :
    orig.Keeps (State.formPartial s n st) := by
  unfold State.formPartial
  repeat' first
    | with_reducible assumption
    | intro _
    | (with_reducible apply State.readRecs_keeps) | (with_reducible apply State.numFlags_keeps)
    | with_reducible apply State.Keeps.ite | with_reducible apply State.Keeps.ite1 | with_reducible apply State.Keeps.ite2 | with_reducible apply State.Keeps.elim
    | with_reducible apply State.Keeps.foldl | with_reducible apply State.Keeps.foldl1 | with_reducible apply State.Keeps.foldl2 | with_reducible apply State.Keeps.foldl22
    | simp only [↓State.Keeps.upd, ↓State.Keeps.updFlash, ↓State.Keeps.updPoison]
    | split
    | dsimp only

theorem State.avgStep_keeps {orig : State} {s : State} (n : Nat) (g : Elem) (h0 : orig.Keeps s) :
    orig.Keeps (State.avgStep s n g) := by
  unfold State.avgStep
  repeat' first
    | with_reducible assumption
    | intro _
    | (with_reducible apply State.bump_keeps) | (with_reducible apply State.setFld_keeps)
    | with_reducible apply State.Keeps.ite | with_reducible apply State.Keeps.ite1 | with_reducible apply State.Keeps.ite2 | with_reducible apply State.Keeps.elim
    | with_reducible apply State.Keeps.foldl | with_reducible apply State.Keeps.foldl1 | with_reducible apply State.Keeps.foldl2 | with_reducible apply State.Keeps.foldl22
    | simp only [↓State.Keeps.upd, ↓State.Keeps.updFlash, ↓State.Keeps.updPoison]
    | split
    | dsimp only

theorem State.updEvent_keeps {orig : State} {s : State} (n : CtxId) (late : Bool) (h0 : orig.Keeps s) :
    orig.Keeps (State.updEvent s n late) := by
  unfold State.updEvent
  repeat' first
    | with_reducible assumption
    | intro _
    | (with_reducible apply State.sendInc_keeps)
    | with_reducible apply State.Keeps.ite | with_reducible apply State.Keeps.ite1 | with_reducible apply State.Keeps.ite2 | with_reducible apply State.Keeps.elim
    | with_reducible apply State.Keeps.foldl | with_reducible apply State.Keeps.foldl1 | with_reducible apply State.Keeps.foldl2 | with_reducible apply State.Keeps.foldl22
    | simp only [↓State.Keeps.upd, ↓State.Keeps.updFlash, ↓State.Keeps.updPoison]
    | split
    | dsimp only

theorem State.immediateDone_keeps {orig : State} {s : State} (n : CtxId) (h0 : orig.Keeps s) :
    orig.Keeps (State.immediateDone s n) := by
  unfold State.immediateDone
  repeat' first
    | with_reducible assumption
    | intro _
    | (with_reducible apply State.updEvent_keeps) | (with_reducible apply State.setFld_keeps)
    | with_reducible apply State.Keeps.ite | with_reducible apply State.Keeps.ite1 | with_reducible apply State.Keeps.ite2 | with_reducible apply State.Keeps.elim
    | with_reducible apply State.Keeps.foldl | with_reducible apply State.Keeps.foldl1 | with_reducible apply State.Keeps.foldl2 | with_reducible apply State.Keeps.foldl22
    | simp only [↓State.Keeps.upd, ↓State.Keeps.updFlash, ↓State.Keeps.updPoison]
    | split
    | dsimp only

theorem State.stepApplied_keeps {orig : State} {s : State} (n : CtxId) (st : Nat) (h0 : orig.Keeps s) :
    orig.Keeps (State.stepApplied s n st) := by
  unfold State.stepApplied
  repeat' first
    | with_reducible assumption
    | intro _
    | (with_reducible apply State.autoEnd_keeps) | (with_reducible apply State.updEvent_keeps)
    | (with_reducible apply State.setStep_keeps)
    | with_reducible apply State.Keeps.ite | with_reducible apply State.Keeps.ite1 | with_reducible apply State.Keeps.ite2 | with_reducible apply State.Keeps.elim
    | with_reducible apply State.Keeps.foldl | with_reducible apply State.Keeps.foldl1 | with_reducible apply State.Keeps.foldl2 | with_reducible apply State.Keeps.foldl22
    | simp only [↓State.Keeps.upd, ↓State.Keeps.updFlash, ↓State.Keeps.updPoison]
    | split
    | dsimp only

theorem State.commitStep_keeps {orig : State} {s : State} (n : CtxId) (st : Nat) (g2 : Elem) (h0 : orig.Keeps s) :
    orig.Keeps (State.commitStep s n st g2) := by
  unfold State.commitStep
  repeat' first
    | with_reducible assumption
    | intro _
    | (with_reducible apply State.setFld_keeps) | (with_reducible apply State.numFlags_keeps) | (with_reducible apply State.bump_keeps)
    | (with_reducible apply State.syncNext_keeps) | (with_reducible apply State.setStep_keeps)
    | (with_reducible apply State.releaseChunks_keeps) | (with_reducible apply State.updEvent_keeps)
    | (with_reducible apply State.postStep_keeps) | (with_reducible apply State.autoStart_keeps)
    | (with_reducible apply State.avgStep_keeps) | (with_reducible apply State.immediateDone_keeps)
    | (with_reducible apply State.stepApplied_keeps)
    | with_reducible apply State.Keeps.ite | with_reducible apply State.Keeps.ite1 | with_reducible apply State.Keeps.ite2 | with_reducible apply State.Keeps.elim
    | with_reducible apply State.Keeps.foldl | with_reducible apply State.Keeps.foldl1 | with_reducible apply State.Keeps.foldl2 | with_reducible apply State.Keeps.foldl22
    | simp only [↓State.Keeps.upd, ↓State.Keeps.updFlash, ↓State.Keeps.updPoison]
    | split
    | dsimp only

theorem State.keepEta_keeps {orig : State} {s : State} (n : CtxId) (h : Nat) (st : Nat) (h0 : orig.Keeps s) :
    orig.Keeps (State.keepEta s n h st) := by
  unfold State.keepEta
  repeat' first
    | with_reducible assumption
    | intro _
    | with_reducible apply State.Keeps.ite | with_reducible apply State.Keeps.ite1 | with_reducible apply State.Keeps.ite2 | with_reducible apply State.Keeps.elim
    | with_reducible apply State.Keeps.foldl | with_reducible apply State.Keeps.foldl1 | with_reducible apply State.Keeps.foldl2 | with_reducible apply State.Keeps.foldl22
    | simp only [↓State.Keeps.upd, ↓State.Keeps.updFlash, ↓State.Keeps.updPoison]
    | split
    | dsimp only

theorem State.writeWork_keeps {orig : State} {s : State} (a : Nat) (bytes : List Byte) (bad : List (Nat × Nat)) (h0 : orig.Keeps s) :
    orig.Keeps (State.writeWork s a bytes bad) := by
  unfold State.writeWork
  repeat' first
    | with_reducible assumption
    | intro _
    | (with_reducible apply State.writeParts_keeps)
    | with_reducible apply State.Keeps.ite | with_reducible apply State.Keeps.ite1 | with_reducible apply State.Keeps.ite2 | with_reducible apply State.Keeps.elim
    | with_reducible apply State.Keeps.foldl | with_reducible apply State.Keeps.foldl1 | with_reducible apply State.Keeps.foldl2 | with_reducible apply State.Keeps.foldl22
    | simp only [↓State.Keeps.upd, ↓State.Keeps.updFlash, ↓State.Keeps.updPoison]
    | split
    | dsimp only

theorem State.workFlags_keeps {orig : State} {s : State} (n : Nat) (sat : Bool) (nan : Bool) (h0 : orig.Keeps s) :
    orig.Keeps (State.workFlags s n sat nan) := by
  unfold State.workFlags
  repeat' first
    | with_reducible assumption
    | intro _
    | (with_reducible apply State.numFlags_keeps) | (with_reducible apply State.flagIf_keeps)
    | with_reducible apply State.Keeps.ite | with_reducible apply State.Keeps.ite1 | with_reducible apply State.Keeps.ite2 | with_reducible apply State.Keeps.elim
    | with_reducible apply State.Keeps.foldl | with_reducible apply State.Keeps.foldl1 | with_reducible apply State.Keeps.foldl2 | with_reducible apply State.Keeps.foldl22
    | simp only [↓State.Keeps.upd, ↓State.Keeps.updFlash, ↓State.Keeps.updPoison]
    | split
    | dsimp only

theorem State.applyGranule_keeps {orig : State} {s : State} (a : Apply) (k : ApplyK) (c : Chunk) (h0 : orig.Keeps s) :
    orig.Keeps (State.applyGranule s a k c) := by
  unfold State.applyGranule
  repeat' first
    | with_reducible assumption
    | intro _
    | (with_reducible apply State.readRecs_keeps) | (with_reducible apply State.openRecord_keeps)
    | (with_reducible refine State.openRecord_eq _ _ ?_ (by with_reducible assumption)) | (with_reducible apply State.writeParts_keeps)
    | (with_reducible apply State.writeWork_keeps) | (with_reducible apply State.workFlags_keeps)
    | (with_reducible apply State.postStep_keeps) | (with_reducible apply State.setFld_keeps)
    | with_reducible apply State.Keeps.ite | with_reducible apply State.Keeps.ite1 | with_reducible apply State.Keeps.ite2 | with_reducible apply State.Keeps.elim
    | with_reducible apply State.Keeps.foldl | with_reducible apply State.Keeps.foldl1 | with_reducible apply State.Keeps.foldl2 | with_reducible apply State.Keeps.foldl22
    | simp only [↓State.Keeps.upd, ↓State.Keeps.updFlash, ↓State.Keeps.updPoison]
    | split
    | dsimp only

theorem State.applyEnd_keeps {orig : State} {s : State} (a : Apply) (h0 : orig.Keeps s) :
    orig.Keeps (State.applyEnd s a) := by
  unfold State.applyEnd
  repeat' first
    | with_reducible assumption
    | intro _
    | (with_reducible apply State.immediateDone_keeps) | (with_reducible apply State.stepApplied_keeps)
    | with_reducible apply State.Keeps.ite | with_reducible apply State.Keeps.ite1 | with_reducible apply State.Keeps.ite2 | with_reducible apply State.Keeps.elim
    | with_reducible apply State.Keeps.foldl | with_reducible apply State.Keeps.foldl1 | with_reducible apply State.Keeps.foldl2 | with_reducible apply State.Keeps.foldl22
    | simp only [↓State.Keeps.upd, ↓State.Keeps.updFlash, ↓State.Keeps.updPoison]
    | split
    | dsimp only

theorem State.setBdw_keeps {orig : State} {s : State} (n : Nat) (b : Nat) (w : Nat) (v : Word) (h0 : orig.Keeps s) :
    orig.Keeps (State.setBdw s n b w v) := by
  unfold State.setBdw
  repeat' first
    | with_reducible assumption
    | intro _
    | (with_reducible apply State.writeNat_keeps)
    | with_reducible apply State.Keeps.ite | with_reducible apply State.Keeps.ite1 | with_reducible apply State.Keeps.ite2 | with_reducible apply State.Keeps.elim
    | with_reducible apply State.Keeps.foldl | with_reducible apply State.Keeps.foldl1 | with_reducible apply State.Keeps.foldl2 | with_reducible apply State.Keeps.foldl22
    | simp only [↓State.Keeps.upd, ↓State.Keeps.updFlash, ↓State.Keeps.updPoison]
    | split
    | dsimp only

theorem State.applyShut_keeps {orig : State} {s : State} (a : Apply) (k : ApplyK) (c : Chunk) (h0 : orig.Keeps s) :
    orig.Keeps (State.applyShut s a k c) := by
  unfold State.applyShut
  repeat' first
    | with_reducible assumption
    | intro _
    | (with_reducible apply State.releaseChunks_keeps) | (with_reducible apply State.applyGranule_keeps)
    | (with_reducible apply State.postStep_keeps)
    | with_reducible apply State.Keeps.ite | with_reducible apply State.Keeps.ite1 | with_reducible apply State.Keeps.ite2 | with_reducible apply State.Keeps.elim
    | with_reducible apply State.Keeps.foldl | with_reducible apply State.Keeps.foldl1 | with_reducible apply State.Keeps.foldl2 | with_reducible apply State.Keeps.foldl22
    | simp only [↓State.Keeps.upd, ↓State.Keeps.updFlash, ↓State.Keeps.updPoison]
    | split
    | dsimp only

theorem State.applyStart_keeps {orig : State} {s : State} (u : Nat) (h0 : orig.Keeps s) :
    orig.Keeps (State.applyStart s u) := by
  unfold State.applyStart
  repeat' first
    | with_reducible assumption
    | intro _
    | (with_reducible apply State.applyShut_keeps) | (with_reducible apply State.releaseChunks_keeps)
    | (with_reducible apply State.applyGranule_keeps) | (with_reducible apply State.postStep_keeps)
    | (with_reducible apply State.setFld_keeps) | (with_reducible apply State.readRecs_keeps)
    | (with_reducible apply State.applyEnd_keeps) | (with_reducible apply State.keepEta_keeps)
    | (with_reducible apply State.setBdw_keeps)
    | with_reducible apply State.Keeps.ite | with_reducible apply State.Keeps.ite1 | with_reducible apply State.Keeps.ite2 | with_reducible apply State.Keeps.elim
    | with_reducible apply State.Keeps.foldl | with_reducible apply State.Keeps.foldl1 | with_reducible apply State.Keeps.foldl2 | with_reducible apply State.Keeps.foldl22
    | simp only [↓State.Keeps.upd, ↓State.Keeps.updFlash, ↓State.Keeps.updPoison]
    | split
    | dsimp only

theorem execApplyStart_keeps {orig : State} (u : Fin 12) {s : State} (h1 : orig.Keeps s) :
    orig.KeepsOut (execApplyStart u s) := by
  unfold execApplyStart
  repeat' first
    | with_reducible assumption
    | intro _
    | with_reducible apply State.KeepsOut.next
    | (with_reducible apply State.applyStart_keeps)
    | with_reducible apply State.Keeps.ite | with_reducible apply State.Keeps.ite1 | with_reducible apply State.Keeps.ite2 | with_reducible apply State.Keeps.elim
    | with_reducible apply State.Keeps.foldl | with_reducible apply State.Keeps.foldl1 | with_reducible apply State.Keeps.foldl2 | with_reducible apply State.Keeps.foldl22
    | simp only [↓State.Keeps.upd, ↓State.Keeps.updFlash, ↓State.Keeps.updPoison]
    | split
    | dsimp only

theorem State.blockApplied_keeps {orig : State} {s : State} (n : CtxId) (b : Nat) (h0 : orig.Keeps s) :
    orig.Keeps (State.blockApplied s n b) := by
  unfold State.blockApplied
  repeat' first
    | with_reducible assumption
    | intro _
    | (with_reducible apply State.setBdw_keeps) | (with_reducible apply State.applyEnd_keeps)
    | with_reducible apply State.Keeps.ite | with_reducible apply State.Keeps.ite1 | with_reducible apply State.Keeps.ite2 | with_reducible apply State.Keeps.elim
    | with_reducible apply State.Keeps.foldl | with_reducible apply State.Keeps.foldl1 | with_reducible apply State.Keeps.foldl2 | with_reducible apply State.Keeps.foldl22
    | simp only [↓State.Keeps.upd, ↓State.Keeps.updFlash, ↓State.Keeps.updPoison]
    | split
    | dsimp only

theorem execBlockApplyComplete_keeps {orig : State} (ctx : CtxId) (block : Nat) {s : State} (h2 : orig.Keeps s) :
    orig.KeepsOut (execBlockApplyComplete ctx block s) := by
  unfold execBlockApplyComplete
  repeat' first
    | with_reducible assumption
    | intro _
    | with_reducible apply State.KeepsOut.next
    | (with_reducible apply State.blockApplied_keeps)
    | with_reducible apply State.Keeps.ite | with_reducible apply State.Keeps.ite1 | with_reducible apply State.Keeps.ite2 | with_reducible apply State.Keeps.elim
    | with_reducible apply State.Keeps.foldl | with_reducible apply State.Keeps.foldl1 | with_reducible apply State.Keeps.foldl2 | with_reducible apply State.Keeps.foldl22
    | simp only [↓State.Keeps.upd, ↓State.Keeps.updFlash, ↓State.Keeps.updPoison]
    | split
    | dsimp only

theorem State.updCommand_keeps {orig : State} {s : State} (n : CtxId) (verify : Bool) (b : Nat) (h0 : orig.Keeps s) :
    orig.Keeps (State.updCommand s n verify b) := by
  unfold State.updCommand
  repeat' first
    | with_reducible assumption
    | intro _
    | (with_reducible apply State.setFld_keeps) | (with_reducible apply State.readRecs_keeps)
    | with_reducible apply State.Keeps.ite | with_reducible apply State.Keeps.ite1 | with_reducible apply State.Keeps.ite2 | with_reducible apply State.Keeps.elim
    | with_reducible apply State.Keeps.foldl | with_reducible apply State.Keeps.foldl1 | with_reducible apply State.Keeps.foldl2 | with_reducible apply State.Keeps.foldl22
    | simp only [↓State.Keeps.upd, ↓State.Keeps.updFlash, ↓State.Keeps.updPoison]
    | split
    | dsimp only

theorem execRegen_keeps {orig : State} (ctx : CtxId) (block : Nat) {s : State} (h2 : orig.Keeps s) :
    orig.KeepsOut (execRegen ctx block s) := by
  unfold execRegen
  repeat' first
    | with_reducible assumption
    | intro _
    | with_reducible apply State.KeepsOut.next
    | (with_reducible apply State.updCommand_keeps)
    | with_reducible apply State.Keeps.ite | with_reducible apply State.Keeps.ite1 | with_reducible apply State.Keeps.ite2 | with_reducible apply State.Keeps.elim
    | with_reducible apply State.Keeps.foldl | with_reducible apply State.Keeps.foldl1 | with_reducible apply State.Keeps.foldl2 | with_reducible apply State.Keeps.foldl22
    | simp only [↓State.Keeps.upd, ↓State.Keeps.updFlash, ↓State.Keeps.updPoison]
    | split
    | dsimp only

theorem execVerify_keeps {orig : State} (ctx : CtxId) (block : Nat) {s : State} (h2 : orig.Keeps s) :
    orig.KeepsOut (execVerify ctx block s) := by
  unfold execVerify
  repeat' first
    | with_reducible assumption
    | intro _
    | with_reducible apply State.KeepsOut.next
    | (with_reducible apply State.updCommand_keeps)
    | with_reducible apply State.Keeps.ite | with_reducible apply State.Keeps.ite1 | with_reducible apply State.Keeps.ite2 | with_reducible apply State.Keeps.elim
    | with_reducible apply State.Keeps.foldl | with_reducible apply State.Keeps.foldl1 | with_reducible apply State.Keeps.foldl2 | with_reducible apply State.Keeps.foldl22
    | simp only [↓State.Keeps.upd, ↓State.Keeps.updFlash, ↓State.Keeps.updPoison]
    | split
    | dsimp only

theorem execUpdCommandComplete_keeps {orig : State} (ctx : CtxId) {s : State} (h1 : orig.Keeps s) :
    orig.KeepsOut (execUpdCommandComplete ctx s) := by
  unfold execUpdCommandComplete
  repeat' first
    | with_reducible assumption
    | intro _
    | with_reducible apply State.KeepsOut.next
    | (with_reducible apply State.workFlags_keeps) | (with_reducible apply State.readRecs_keeps)
    | (with_reducible apply State.setFld_keeps) | (with_reducible apply State.writeWork_keeps)
    | with_reducible apply State.Keeps.ite | with_reducible apply State.Keeps.ite1 | with_reducible apply State.Keeps.ite2 | with_reducible apply State.Keeps.elim
    | with_reducible apply State.Keeps.foldl | with_reducible apply State.Keeps.foldl1 | with_reducible apply State.Keeps.foldl2 | with_reducible apply State.Keeps.foldl22
    | simp only [↓State.Keeps.upd, ↓State.Keeps.updFlash, ↓State.Keeps.updPoison]
    | split
    | dsimp only

theorem State.abortSteps_keeps {orig : State} {s : State} (n : CtxId) (h0 : orig.Keeps s) :
    orig.Keeps (State.abortSteps s n) := by
  unfold State.abortSteps
  repeat' first
    | with_reducible assumption
    | intro _
    | (with_reducible apply State.releaseChunks_keeps)
    | with_reducible apply State.Keeps.ite | with_reducible apply State.Keeps.ite1 | with_reducible apply State.Keeps.ite2 | with_reducible apply State.Keeps.elim
    | with_reducible apply State.Keeps.foldl | with_reducible apply State.Keeps.foldl1 | with_reducible apply State.Keeps.foldl2 | with_reducible apply State.Keeps.foldl22
    | simp only [↓State.Keeps.upd, ↓State.Keeps.updFlash, ↓State.Keeps.updPoison]
    | split
    | dsimp only

end Sys2Proof.Machine
end

