-- ==== Sys2Proof/Laws/KeepHalyard.lean ====
section
/-! SUPPORT. What the operations of Machine/Halyard.lean keep. -/

set_option linter.all false

namespace Sys2Proof.Machine

theorem State.sendShake_keeps {orig : State} {s : State} (dst : PkgId) (m : HalMsg) (kind : Nat) (x : Nat) (h0 : orig.Keeps s) :
    orig.Keeps (State.sendShake s dst m kind x) := by
  unfold State.sendShake
  repeat' first
    | with_reducible assumption
    | intro _
    | (with_reducible apply State.sendPen_keeps)
    | (with_reducible refine State.sendPen_eq _ _ _ _ _ _ _ _ _ _ ?_ (by with_reducible assumption))
    | with_reducible apply State.Keeps.ite | with_reducible apply State.Keeps.ite1 | with_reducible apply State.Keeps.ite2 | with_reducible apply State.Keeps.elim
    | with_reducible apply State.Keeps.foldl | with_reducible apply State.Keeps.foldl1 | with_reducible apply State.Keeps.foldl2 | with_reducible apply State.Keeps.foldl22
    | simp only [↓State.Keeps.upd, ↓State.Keeps.updFlash, ↓State.Keeps.updPoison]
    | split
    | dsimp only

theorem State.takeShake_keeps {orig : State} {s : State} (pn : Pennant) (kinds : List Nat) (f : State → State) (h0 : orig.Keeps s) (h3 : ∀ s, orig.Keeps s → orig.Keeps (f s)) :
    orig.Keeps (State.takeShake s pn kinds f) := by
  unfold State.takeShake
  repeat' first
    | with_reducible assumption
    | intro _
    | (with_reducible apply State.takeIn_keeps) | (with_reducible apply h3)
    | with_reducible apply State.Keeps.ite | with_reducible apply State.Keeps.ite1 | with_reducible apply State.Keeps.ite2 | with_reducible apply State.Keeps.elim
    | with_reducible apply State.Keeps.foldl | with_reducible apply State.Keeps.foldl1 | with_reducible apply State.Keeps.foldl2 | with_reducible apply State.Keeps.foldl22
    | simp only [↓State.Keeps.upd, ↓State.Keeps.updFlash, ↓State.Keeps.updPoison]
    | split
    | dsimp only

theorem State.modHal_keeps {orig : State} {s : State} (n : Nat) (h : Nat) (f : Hal → Hal) (h0 : orig.Keeps s) :
    orig.Keeps (State.modHal s n h f) := by
  unfold State.modHal
  repeat' first
    | with_reducible assumption
    | intro _
    | with_reducible apply State.Keeps.ite | with_reducible apply State.Keeps.ite1 | with_reducible apply State.Keeps.ite2 | with_reducible apply State.Keeps.elim
    | with_reducible apply State.Keeps.foldl | with_reducible apply State.Keeps.foldl1 | with_reducible apply State.Keeps.foldl2 | with_reducible apply State.Keeps.foldl22
    | simp only [↓State.Keeps.upd, ↓State.Keeps.updFlash, ↓State.Keeps.updPoison]
    | split
    | dsimp only

theorem State.setHsts_keeps {orig : State} {s : State} (n : Nat) (h : Nat) (f : Fld) (v : Nat) (h0 : orig.Keeps s) :
    orig.Keeps (State.setHsts s n h f v) := by
  unfold State.setHsts
  repeat' first
    | with_reducible assumption
    | intro _
    | (with_reducible apply State.setFld_keeps)
    | with_reducible apply State.Keeps.ite | with_reducible apply State.Keeps.ite1 | with_reducible apply State.Keeps.ite2 | with_reducible apply State.Keeps.elim
    | with_reducible apply State.Keeps.foldl | with_reducible apply State.Keeps.foldl1 | with_reducible apply State.Keeps.foldl2 | with_reducible apply State.Keeps.foldl22
    | simp only [↓State.Keeps.upd, ↓State.Keeps.updFlash, ↓State.Keeps.updPoison]
    | split
    | dsimp only

theorem State.postHal_keeps {orig : State} {s : State} (n : Nat) (h : Nat) (h0 : orig.Keeps s) :
    orig.Keeps (State.postHal s n h) := by
  unfold State.postHal
  repeat' first
    | with_reducible assumption
    | intro _
    | (with_reducible apply State.postCtx_keeps)
    | with_reducible apply State.Keeps.ite | with_reducible apply State.Keeps.ite1 | with_reducible apply State.Keeps.ite2 | with_reducible apply State.Keeps.elim
    | with_reducible apply State.Keeps.foldl | with_reducible apply State.Keeps.foldl1 | with_reducible apply State.Keeps.foldl2 | with_reducible apply State.Keeps.foldl22
    | simp only [↓State.Keeps.upd, ↓State.Keeps.updFlash, ↓State.Keeps.updPoison]
    | split
    | dsimp only

theorem State.sendEnd_keeps {orig : State} {s : State} (n : CtxId) (x : Send) (w2 : Word) (ok : Bool) (h0 : orig.Keeps s) :
    orig.Keeps (State.sendEnd s n x w2 ok) := by
  unfold State.sendEnd
  repeat' first
    | with_reducible assumption
    | intro _
    | (with_reducible apply State.sendInc_keeps) | (with_reducible apply State.addFault_keeps)
    | with_reducible apply State.Keeps.ite | with_reducible apply State.Keeps.ite1 | with_reducible apply State.Keeps.ite2 | with_reducible apply State.Keeps.elim
    | with_reducible apply State.Keeps.foldl | with_reducible apply State.Keeps.foldl1 | with_reducible apply State.Keeps.foldl2 | with_reducible apply State.Keeps.foldl22
    | simp only [↓State.Keeps.upd, ↓State.Keeps.updFlash, ↓State.Keeps.updPoison]
    | split
    | dsimp only

theorem State.failSends_keeps {orig : State} {s : State} (n : CtxId) (h : Nat) (h0 : orig.Keeps s) :
    orig.Keeps (State.failSends s n h) := by
  unfold State.failSends
  repeat' first
    | with_reducible assumption
    | intro _
    | (with_reducible apply State.setHsts_keeps) | (with_reducible apply State.modHal_keeps)
    | (with_reducible apply State.sendEnd_keeps)
    | with_reducible apply State.Keeps.ite | with_reducible apply State.Keeps.ite1 | with_reducible apply State.Keeps.ite2 | with_reducible apply State.Keeps.elim
    | with_reducible apply State.Keeps.foldl | with_reducible apply State.Keeps.foldl1 | with_reducible apply State.Keeps.foldl2 | with_reducible apply State.Keeps.foldl22
    | simp only [↓State.Keeps.upd, ↓State.Keeps.updFlash, ↓State.Keeps.updPoison]
    | split
    | dsimp only

theorem State.halLeave_keeps {orig : State} {s : State} (n : CtxId) (h : Nat) (st : Nat) (err : Nat) (h0 : orig.Keeps s) :
    orig.Keeps (State.halLeave s n h st err) := by
  unfold State.halLeave
  repeat' first
    | with_reducible assumption
    | intro _
    | (with_reducible apply State.setHsts_keeps) | (with_reducible apply State.postHal_keeps)
    | (with_reducible apply State.failSends_keeps)
    | with_reducible apply State.Keeps.ite | with_reducible apply State.Keeps.ite1 | with_reducible apply State.Keeps.ite2 | with_reducible apply State.Keeps.elim
    | with_reducible apply State.Keeps.foldl | with_reducible apply State.Keeps.foldl1 | with_reducible apply State.Keeps.foldl2 | with_reducible apply State.Keeps.foldl22
    | simp only [↓State.Keeps.upd, ↓State.Keeps.updFlash, ↓State.Keeps.updPoison]
    | split
    | dsimp only

theorem State.halUnreachable_keeps {orig : State} {s : State} (p : Nat → Bool) (h0 : orig.Keeps s) :
    orig.Keeps (State.halUnreachable s p) := by
  unfold State.halUnreachable
  repeat' first
    | with_reducible assumption
    | intro _
    | (with_reducible apply State.halLeave_keeps)
    | with_reducible apply State.Keeps.ite | with_reducible apply State.Keeps.ite1 | with_reducible apply State.Keeps.ite2 | with_reducible apply State.Keeps.elim
    | with_reducible apply State.Keeps.foldl | with_reducible apply State.Keeps.foldl1 | with_reducible apply State.Keeps.foldl2 | with_reducible apply State.Keeps.foldl22
    | simp only [↓State.Keeps.upd, ↓State.Keeps.updFlash, ↓State.Keeps.updPoison]
    | split
    | dsimp only

theorem State.halPeerDown_keeps {orig : State} {s : State} (pkg : PkgId) (ctx : Nat) (h0 : orig.Keeps s) :
    orig.Keeps (State.halPeerDown s pkg ctx) := by
  unfold State.halPeerDown
  repeat' first
    | with_reducible assumption
    | intro _
    | (with_reducible apply State.halLeave_keeps)
    | with_reducible apply State.Keeps.ite | with_reducible apply State.Keeps.ite1 | with_reducible apply State.Keeps.ite2 | with_reducible apply State.Keeps.elim
    | with_reducible apply State.Keeps.foldl | with_reducible apply State.Keeps.foldl1 | with_reducible apply State.Keeps.foldl2 | with_reducible apply State.Keeps.foldl22
    | simp only [↓State.Keeps.upd, ↓State.Keeps.updFlash, ↓State.Keeps.updPoison]
    | split
    | dsimp only

theorem State.halOpen_keeps {orig : State} {s : State} (n : CtxId) (h : Nat) (v : Word) (h0 : orig.Keeps s) :
    orig.Keeps (State.halOpen s n h v) := by
  unfold State.halOpen
  repeat' first
    | with_reducible assumption
    | intro _
    | (with_reducible apply State.setFld_keeps) | (with_reducible apply State.modHal_keeps) | (with_reducible apply State.csrSet_keeps)
    | (with_reducible apply State.halLeave_keeps) | (with_reducible apply State.setHsts_keeps)
    | (with_reducible apply State.sendShake_keeps)
    | with_reducible apply State.Keeps.ite | with_reducible apply State.Keeps.ite1 | with_reducible apply State.Keeps.ite2 | with_reducible apply State.Keeps.elim
    | with_reducible apply State.Keeps.foldl | with_reducible apply State.Keeps.foldl1 | with_reducible apply State.Keeps.foldl2 | with_reducible apply State.Keeps.foldl22
    | simp only [↓State.Keeps.upd, ↓State.Keeps.updFlash, ↓State.Keeps.updPoison]
    | split
    | dsimp only

theorem execHalyardOpen_keeps {orig : State} (ctx : CtxId) (h : Fin 16) (v : Word) {s : State} (h3 : orig.Keeps s) :
    orig.KeepsOut (execHalyardOpen ctx h v s) := by
  unfold execHalyardOpen
  repeat' first
    | with_reducible assumption
    | intro _
    | with_reducible apply State.KeepsOut.next
    | (with_reducible apply State.halOpen_keeps)
    | with_reducible apply State.Keeps.ite | with_reducible apply State.Keeps.ite1 | with_reducible apply State.Keeps.ite2 | with_reducible apply State.Keeps.elim
    | with_reducible apply State.Keeps.foldl | with_reducible apply State.Keeps.foldl1 | with_reducible apply State.Keeps.foldl2 | with_reducible apply State.Keeps.foldl22
    | simp only [↓State.Keeps.upd, ↓State.Keeps.updFlash, ↓State.Keeps.updPoison]
    | split
    | dsimp only

theorem State.halClose_keeps {orig : State} {s : State} (n : CtxId) (h : Nat) (h0 : orig.Keeps s) :
    orig.Keeps (State.halClose s n h) := by
  unfold State.halClose
  repeat' first
    | with_reducible assumption
    | intro _
    | (with_reducible apply State.failSends_keeps) | (with_reducible apply State.setFld_keeps)
    | (with_reducible apply State.setHsts_keeps) | (with_reducible apply State.sendShake_keeps)
    | with_reducible apply State.Keeps.ite | with_reducible apply State.Keeps.ite1 | with_reducible apply State.Keeps.ite2 | with_reducible apply State.Keeps.elim
    | with_reducible apply State.Keeps.foldl | with_reducible apply State.Keeps.foldl1 | with_reducible apply State.Keeps.foldl2 | with_reducible apply State.Keeps.foldl22
    | simp only [↓State.Keeps.upd, ↓State.Keeps.updFlash, ↓State.Keeps.updPoison]
    | split
    | dsimp only

theorem execHalyardClose_keeps {orig : State} (ctx : CtxId) (h : Fin 16) {s : State} (h2 : orig.Keeps s) :
    orig.KeepsOut (execHalyardClose ctx h s) := by
  unfold execHalyardClose
  repeat' first
    | with_reducible assumption
    | intro _
    | with_reducible apply State.KeepsOut.next
    | (with_reducible apply State.halClose_keeps)
    | with_reducible apply State.Keeps.ite | with_reducible apply State.Keeps.ite1 | with_reducible apply State.Keeps.ite2 | with_reducible apply State.Keeps.elim
    | with_reducible apply State.Keeps.foldl | with_reducible apply State.Keeps.foldl1 | with_reducible apply State.Keeps.foldl2 | with_reducible apply State.Keeps.foldl22
    | simp only [↓State.Keeps.upd, ↓State.Keeps.updFlash, ↓State.Keeps.updPoison]
    | split
    | dsimp only

theorem execHalyardOpenRetry_keeps {orig : State} (ctx : CtxId) (h : Fin 16) {s : State} (h2 : orig.Keeps s) :
    orig.KeepsOut (execHalyardOpenRetry ctx h s) := by
  unfold execHalyardOpenRetry
  repeat' first
    | with_reducible assumption
    | intro _
    | with_reducible apply State.KeepsOut.next
    | (with_reducible apply State.sendShake_keeps)
    | with_reducible apply State.Keeps.ite | with_reducible apply State.Keeps.ite1 | with_reducible apply State.Keeps.ite2 | with_reducible apply State.Keeps.elim
    | with_reducible apply State.Keeps.foldl | with_reducible apply State.Keeps.foldl1 | with_reducible apply State.Keeps.foldl2 | with_reducible apply State.Keeps.foldl22
    | simp only [↓State.Keeps.upd, ↓State.Keeps.updFlash, ↓State.Keeps.updPoison]
    | split
    | dsimp only

theorem State.openIn_keeps {orig : State} {s : State} (src : PkgId) (m : HalMsg) (h0 : orig.Keeps s) :
    orig.Keeps (State.openIn s src m) := by
  unfold State.openIn
  repeat' first
    | with_reducible assumption
    | intro _
    | (with_reducible apply State.sendShake_keeps) | (with_reducible apply State.setHsts_keeps)
    | with_reducible apply State.Keeps.ite | with_reducible apply State.Keeps.ite1 | with_reducible apply State.Keeps.ite2 | with_reducible apply State.Keeps.elim
    | with_reducible apply State.Keeps.foldl | with_reducible apply State.Keeps.foldl1 | with_reducible apply State.Keeps.foldl2 | with_reducible apply State.Keeps.foldl22
    | simp only [↓State.Keeps.upd, ↓State.Keeps.updFlash, ↓State.Keeps.updPoison]
    | split
    | dsimp only

theorem openRx_keeps {orig : State} (pn : Pennant) {s : State} (h1 : orig.Keeps s) :
    orig.KeepsOut (openRx pn s) := by
  unfold openRx
  repeat' first
    | with_reducible assumption
    | intro _
    | with_reducible apply State.KeepsOut.next
    | (with_reducible apply State.takeShake_keeps) | (with_reducible apply State.openIn_keeps)
    | with_reducible apply State.Keeps.ite | with_reducible apply State.Keeps.ite1 | with_reducible apply State.Keeps.ite2 | with_reducible apply State.Keeps.elim
    | with_reducible apply State.Keeps.foldl | with_reducible apply State.Keeps.foldl1 | with_reducible apply State.Keeps.foldl2 | with_reducible apply State.Keeps.foldl22
    | simp only [↓State.Keeps.upd, ↓State.Keeps.updFlash, ↓State.Keeps.updPoison]
    | split
    | dsimp only

theorem execOpenPennantReceive_keeps {orig : State} (h : PnHead) (r : PnTail) {s : State} (h2 : orig.Keeps s) :
    orig.KeepsOut (execOpenPennantReceive h r s) := by
  unfold execOpenPennantReceive
  repeat' first
    | with_reducible assumption
    | intro _
    | with_reducible apply State.KeepsOut.next
    | (with_reducible apply openRx_keeps)
    | with_reducible apply State.Keeps.ite | with_reducible apply State.Keeps.ite1 | with_reducible apply State.Keeps.ite2 | with_reducible apply State.Keeps.elim
    | with_reducible apply State.Keeps.foldl | with_reducible apply State.Keeps.foldl1 | with_reducible apply State.Keeps.foldl2 | with_reducible apply State.Keeps.foldl22
    | simp only [↓State.Keeps.upd, ↓State.Keeps.updFlash, ↓State.Keeps.updPoison]
    | split
    | dsimp only

theorem State.acceptIn_keeps {orig : State} {s : State} (src : PkgId) (m : HalMsg) (slots : Nat) (slotSz : Nat) (h0 : orig.Keeps s) :
    orig.Keeps (State.acceptIn s src m slots slotSz) := by
  unfold State.acceptIn
  repeat' first
    | with_reducible assumption
    | intro _
    | (with_reducible apply State.setHsts_keeps) | (with_reducible apply State.modHal_keeps)
    | with_reducible apply State.Keeps.ite | with_reducible apply State.Keeps.ite1 | with_reducible apply State.Keeps.ite2 | with_reducible apply State.Keeps.elim
    | with_reducible apply State.Keeps.foldl | with_reducible apply State.Keeps.foldl1 | with_reducible apply State.Keeps.foldl2 | with_reducible apply State.Keeps.foldl22
    | simp only [↓State.Keeps.upd, ↓State.Keeps.updFlash, ↓State.Keeps.updPoison]
    | split
    | dsimp only

theorem acceptRx_keeps {orig : State} (pn : Pennant) {s : State} (h1 : orig.Keeps s) :
    orig.KeepsOut (acceptRx pn s) := by
  unfold acceptRx
  repeat' first
    | with_reducible assumption
    | intro _
    | with_reducible apply State.KeepsOut.next
    | (with_reducible apply State.takeShake_keeps) | (with_reducible apply State.acceptIn_keeps)
    | with_reducible apply State.Keeps.ite | with_reducible apply State.Keeps.ite1 | with_reducible apply State.Keeps.ite2 | with_reducible apply State.Keeps.elim
    | with_reducible apply State.Keeps.foldl | with_reducible apply State.Keeps.foldl1 | with_reducible apply State.Keeps.foldl2 | with_reducible apply State.Keeps.foldl22
    | simp only [↓State.Keeps.upd, ↓State.Keeps.updFlash, ↓State.Keeps.updPoison]
    | split
    | dsimp only

theorem execAcceptReceive_keeps {orig : State} (h : PnHead) (eseq : BitVec 16) (a : BitVec 48) (payload : BitVec 512) {s : State} (h4 : orig.Keeps s) :
    orig.KeepsOut (execAcceptReceive h eseq a payload s) := by
  unfold execAcceptReceive
  repeat' first
    | with_reducible assumption
    | intro _
    | with_reducible apply State.KeepsOut.next
    | (with_reducible apply acceptRx_keeps)
    | with_reducible apply State.Keeps.ite | with_reducible apply State.Keeps.ite1 | with_reducible apply State.Keeps.ite2 | with_reducible apply State.Keeps.elim
    | with_reducible apply State.Keeps.foldl | with_reducible apply State.Keeps.foldl1 | with_reducible apply State.Keeps.foldl2 | with_reducible apply State.Keeps.foldl22
    | simp only [↓State.Keeps.upd, ↓State.Keeps.updFlash, ↓State.Keeps.updPoison]
    | split
    | dsimp only

theorem State.rejectIn_keeps {orig : State} {s : State} (src : PkgId) (m : HalMsg) (h0 : orig.Keeps s) :
    orig.Keeps (State.rejectIn s src m) := by
  unfold State.rejectIn
  repeat' first
    | with_reducible assumption
    | intro _
    | (with_reducible apply State.halLeave_keeps)
    | with_reducible apply State.Keeps.ite | with_reducible apply State.Keeps.ite1 | with_reducible apply State.Keeps.ite2 | with_reducible apply State.Keeps.elim
    | with_reducible apply State.Keeps.foldl | with_reducible apply State.Keeps.foldl1 | with_reducible apply State.Keeps.foldl2 | with_reducible apply State.Keeps.foldl22
    | simp only [↓State.Keeps.upd, ↓State.Keeps.updFlash, ↓State.Keeps.updPoison]
    | split
    | dsimp only

theorem rejectRx_keeps {orig : State} (pn : Pennant) {s : State} (h1 : orig.Keeps s) :
    orig.KeepsOut (rejectRx pn s) := by
  unfold rejectRx
  repeat' first
    | with_reducible assumption
    | intro _
    | with_reducible apply State.KeepsOut.next
    | (with_reducible apply State.takeShake_keeps) | (with_reducible apply State.rejectIn_keeps)
    | with_reducible apply State.Keeps.ite | with_reducible apply State.Keeps.ite1 | with_reducible apply State.Keeps.ite2 | with_reducible apply State.Keeps.elim
    | with_reducible apply State.Keeps.foldl | with_reducible apply State.Keeps.foldl1 | with_reducible apply State.Keeps.foldl2 | with_reducible apply State.Keeps.foldl22
    | simp only [↓State.Keeps.upd, ↓State.Keeps.updFlash, ↓State.Keeps.updPoison]
    | split
    | dsimp only

theorem execRejectReceive_keeps {orig : State} (h : PnHead) (r : PnTail) {s : State} (h2 : orig.Keeps s) :
    orig.KeepsOut (execRejectReceive h r s) := by
  unfold execRejectReceive
  repeat' first
    | with_reducible assumption
    | intro _
    | with_reducible apply State.KeepsOut.next
    | (with_reducible apply rejectRx_keeps)
    | with_reducible apply State.Keeps.ite | with_reducible apply State.Keeps.ite1 | with_reducible apply State.Keeps.ite2 | with_reducible apply State.Keeps.elim
    | with_reducible apply State.Keeps.foldl | with_reducible apply State.Keeps.foldl1 | with_reducible apply State.Keeps.foldl2 | with_reducible apply State.Keeps.foldl22
    | simp only [↓State.Keeps.upd, ↓State.Keeps.updFlash, ↓State.Keeps.updPoison]
    | split
    | dsimp only

theorem State.closeIn_keeps {orig : State} {s : State} (src : PkgId) (m : HalMsg) (refused : Bool) (h0 : orig.Keeps s) :
    orig.Keeps (State.closeIn s src m refused) := by
  unfold State.closeIn
  repeat' first
    | with_reducible assumption
    | intro _
    | (with_reducible apply State.halLeave_keeps)
    | with_reducible apply State.Keeps.ite | with_reducible apply State.Keeps.ite1 | with_reducible apply State.Keeps.ite2 | with_reducible apply State.Keeps.elim
    | with_reducible apply State.Keeps.foldl | with_reducible apply State.Keeps.foldl1 | with_reducible apply State.Keeps.foldl2 | with_reducible apply State.Keeps.foldl22
    | simp only [↓State.Keeps.upd, ↓State.Keeps.updFlash, ↓State.Keeps.updPoison]
    | split
    | dsimp only

theorem closeRx_keeps {orig : State} (pn : Pennant) {s : State} (h1 : orig.Keeps s) :
    orig.KeepsOut (closeRx pn s) := by
  unfold closeRx
  repeat' first
    | with_reducible assumption
    | intro _
    | with_reducible apply State.KeepsOut.next
    | (with_reducible apply State.takeShake_keeps) | (with_reducible apply State.closeIn_keeps)
    | with_reducible apply State.Keeps.ite | with_reducible apply State.Keeps.ite1 | with_reducible apply State.Keeps.ite2 | with_reducible apply State.Keeps.elim
    | with_reducible apply State.Keeps.foldl | with_reducible apply State.Keeps.foldl1 | with_reducible apply State.Keeps.foldl2 | with_reducible apply State.Keeps.foldl22
    | simp only [↓State.Keeps.upd, ↓State.Keeps.updFlash, ↓State.Keeps.updPoison]
    | split
    | dsimp only

theorem execCloseReceive_keeps {orig : State} (h : PnHead) (r : PnTail) {s : State} (h2 : orig.Keeps s) :
    orig.KeepsOut (execCloseReceive h r s) := by
  unfold execCloseReceive
  repeat' first
    | with_reducible assumption
    | intro _
    | with_reducible apply State.KeepsOut.next
    | (with_reducible apply closeRx_keeps)
    | with_reducible apply State.Keeps.ite | with_reducible apply State.Keeps.ite1 | with_reducible apply State.Keeps.ite2 | with_reducible apply State.Keeps.elim
    | with_reducible apply State.Keeps.foldl | with_reducible apply State.Keeps.foldl1 | with_reducible apply State.Keeps.foldl2 | with_reducible apply State.Keeps.foldl22
    | simp only [↓State.Keeps.upd, ↓State.Keeps.updFlash, ↓State.Keeps.updPoison]
    | split
    | dsimp only

theorem State.halDoor_keeps {orig : State} {s : State} (n : CtxId) (h : Nat) (key : Nat) (v : Word) (h0 : orig.Keeps s) :
    orig.Keeps (State.halDoor s n h key v) := by
  unfold State.halDoor
  repeat' first
    | with_reducible assumption
    | intro _
    | (with_reducible apply State.sendEnd_keeps) | (with_reducible apply State.setHsts_keeps)
    | (with_reducible apply State.modHal_keeps)
    | with_reducible apply State.Keeps.ite | with_reducible apply State.Keeps.ite1 | with_reducible apply State.Keeps.ite2 | with_reducible apply State.Keeps.elim
    | with_reducible apply State.Keeps.foldl | with_reducible apply State.Keeps.foldl1 | with_reducible apply State.Keeps.foldl2 | with_reducible apply State.Keeps.foldl22
    | simp only [↓State.Keeps.upd, ↓State.Keeps.updFlash, ↓State.Keeps.updPoison]
    | split
    | dsimp only

theorem execHalyardDoorbell_keeps {orig : State} (ctx : CtxId) (h : Fin 16) (c : CoreId) (v : Word) {s : State} (h4 : orig.Keeps s) :
    orig.KeepsOut (execHalyardDoorbell ctx h c v s) := by
  unfold execHalyardDoorbell
  repeat' first
    | with_reducible assumption
    | intro _
    | with_reducible apply State.KeepsOut.next
    | (with_reducible apply State.halDoor_keeps)
    | with_reducible apply State.Keeps.ite | with_reducible apply State.Keeps.ite1 | with_reducible apply State.Keeps.ite2 | with_reducible apply State.Keeps.elim
    | with_reducible apply State.Keeps.foldl | with_reducible apply State.Keeps.foldl1 | with_reducible apply State.Keeps.foldl2 | with_reducible apply State.Keeps.foldl22
    | simp only [↓State.Keeps.upd, ↓State.Keeps.updFlash, ↓State.Keeps.updPoison]
    | split
    | dsimp only

theorem State.sendMessage_keeps {orig : State} {s : State} (peer : PkgId) (m : HalMsg) (a : Nat) (len : Nat) (header : List Byte) (h0 : orig.Keeps s) :
    orig.Keeps (State.sendMessage s peer m a len header) := by
  unfold State.sendMessage
  repeat' first
    | with_reducible assumption
    | intro _
    | (with_reducible apply State.sendPen_keeps)
    | (with_reducible refine State.sendPen_eq _ _ _ _ _ _ _ _ _ _ ?_ (by with_reducible assumption))
    | with_reducible apply State.Keeps.ite | with_reducible apply State.Keeps.ite1 | with_reducible apply State.Keeps.ite2 | with_reducible apply State.Keeps.elim
    | with_reducible apply State.Keeps.foldl | with_reducible apply State.Keeps.foldl1 | with_reducible apply State.Keeps.foldl2 | with_reducible apply State.Keeps.foldl22
    | simp only [↓State.Keeps.upd, ↓State.Keeps.updFlash, ↓State.Keeps.updPoison]
    | split
    | dsimp only

theorem State.halStart_keeps {orig : State} {s : State} (n : CtxId) (h : Nat) (h0 : orig.Keeps s) :
    orig.Keeps (State.halStart s n h) := by
  unfold State.halStart
  repeat' first
    | with_reducible assumption
    | intro _
    | (with_reducible apply State.setHsts_keeps) | (with_reducible apply State.modHal_keeps)
    | (with_reducible apply State.sendEnd_keeps) | (with_reducible apply State.readRecs_keeps)
    | (with_reducible apply State.sendMessage_keeps)
    | with_reducible apply State.Keeps.ite | with_reducible apply State.Keeps.ite1 | with_reducible apply State.Keeps.ite2 | with_reducible apply State.Keeps.elim
    | with_reducible apply State.Keeps.foldl | with_reducible apply State.Keeps.foldl1 | with_reducible apply State.Keeps.foldl2 | with_reducible apply State.Keeps.foldl22
    | simp only [↓State.Keeps.upd, ↓State.Keeps.updFlash, ↓State.Keeps.updPoison]
    | split
    | dsimp only

theorem execHalyardSendStart_keeps {orig : State} (ctx : CtxId) (h : Fin 16) {s : State} (h2 : orig.Keeps s) :
    orig.KeepsOut (execHalyardSendStart ctx h s) := by
  unfold execHalyardSendStart
  repeat' first
    | with_reducible assumption
    | intro _
    | with_reducible apply State.KeepsOut.next
    | (with_reducible apply State.halStart_keeps)
    | with_reducible apply State.Keeps.ite | with_reducible apply State.Keeps.ite1 | with_reducible apply State.Keeps.ite2 | with_reducible apply State.Keeps.elim
    | with_reducible apply State.Keeps.foldl | with_reducible apply State.Keeps.foldl1 | with_reducible apply State.Keeps.foldl2 | with_reducible apply State.Keeps.foldl22
    | simp only [↓State.Keeps.upd, ↓State.Keeps.updFlash, ↓State.Keeps.updPoison]
    | split
    | dsimp only

theorem execHalyardSendComplete_keeps {orig : State} (ctx : CtxId) (e : SendPoint) {s : State} (h2 : orig.Keeps s) :
    orig.KeepsOut (execHalyardSendComplete ctx e s) := by
  unfold execHalyardSendComplete
  repeat' first
    | with_reducible assumption
    | intro _
    | with_reducible apply State.KeepsOut.next
    | (with_reducible apply State.modHal_keeps) | (with_reducible apply State.sendEnd_keeps)
    | (with_reducible apply State.setHsts_keeps)
    | with_reducible apply State.Keeps.ite | with_reducible apply State.Keeps.ite1 | with_reducible apply State.Keeps.ite2 | with_reducible apply State.Keeps.elim
    | with_reducible apply State.Keeps.foldl | with_reducible apply State.Keeps.foldl1 | with_reducible apply State.Keeps.foldl2 | with_reducible apply State.Keeps.foldl22
    | simp only [↓State.Keeps.upd, ↓State.Keeps.updFlash, ↓State.Keeps.updPoison]
    | split
    | dsimp only

theorem State.halRefuse_keeps {orig : State} {s : State} (n : CtxId) (h : Nat) (h0 : orig.Keeps s) :
    orig.Keeps (State.halRefuse s n h) := by
  unfold State.halRefuse
  repeat' first
    | with_reducible assumption
    | intro _
    | (with_reducible apply State.halLeave_keeps) | (with_reducible apply State.closeIn_keeps)
    | (with_reducible apply State.sendShake_keeps)
    | with_reducible apply State.Keeps.ite | with_reducible apply State.Keeps.ite1 | with_reducible apply State.Keeps.ite2 | with_reducible apply State.Keeps.elim
    | with_reducible apply State.Keeps.foldl | with_reducible apply State.Keeps.foldl1 | with_reducible apply State.Keeps.foldl2 | with_reducible apply State.Keeps.foldl22
    | simp only [↓State.Keeps.upd, ↓State.Keeps.updFlash, ↓State.Keeps.updPoison]
    | split
    | dsimp only

theorem State.halData_keeps {orig : State} {s : State} (pn : Pennant) (h0 : orig.Keeps s) :
    orig.Keeps (State.halData s pn) := by
  unfold State.halData
  repeat' first
    | with_reducible assumption
    | intro _
    | (with_reducible apply State.halRefuse_keeps) | (with_reducible apply State.modHal_keeps)
    | (with_reducible apply State.writeMem_keeps) | (with_reducible apply State.setHsts_keeps)
    | (with_reducible apply State.sendInc_keeps)
    | with_reducible apply State.Keeps.ite | with_reducible apply State.Keeps.ite1 | with_reducible apply State.Keeps.ite2 | with_reducible apply State.Keeps.elim
    | with_reducible apply State.Keeps.foldl | with_reducible apply State.Keeps.foldl1 | with_reducible apply State.Keeps.foldl2 | with_reducible apply State.Keeps.foldl22
    | simp only [↓State.Keeps.upd, ↓State.Keeps.updFlash, ↓State.Keeps.updPoison]
    | split
    | dsimp only

theorem hdataRx_keeps {orig : State} (pn : Pennant) {s : State} (h1 : orig.Keeps s) :
    orig.KeepsOut (hdataRx pn s) := by
  unfold hdataRx
  repeat' first
    | with_reducible assumption
    | intro _
    | with_reducible apply State.KeepsOut.next
    | (with_reducible apply State.takeSeq_keeps) | (with_reducible apply State.halData_keeps)
    | with_reducible apply State.Keeps.ite | with_reducible apply State.Keeps.ite1 | with_reducible apply State.Keeps.ite2 | with_reducible apply State.Keeps.elim
    | with_reducible apply State.Keeps.foldl | with_reducible apply State.Keeps.foldl1 | with_reducible apply State.Keeps.foldl2 | with_reducible apply State.Keeps.foldl22
    | simp only [↓State.Keeps.upd, ↓State.Keeps.updFlash, ↓State.Keeps.updPoison]
    | split
    | dsimp only

theorem execHdataReceive_keeps {orig : State} (h : PnHead) (eseq : BitVec 16) (r : PnPart) {s : State} (h3 : orig.Keeps s) :
    orig.KeepsOut (execHdataReceive h eseq r s) := by
  unfold execHdataReceive
  repeat' first
    | with_reducible assumption
    | intro _
    | with_reducible apply State.KeepsOut.next
    | (with_reducible apply hdataRx_keeps)
    | with_reducible apply State.Keeps.ite | with_reducible apply State.Keeps.ite1 | with_reducible apply State.Keeps.ite2 | with_reducible apply State.Keeps.elim
    | with_reducible apply State.Keeps.foldl | with_reducible apply State.Keeps.foldl1 | with_reducible apply State.Keeps.foldl2 | with_reducible apply State.Keeps.foldl22
    | simp only [↓State.Keeps.upd, ↓State.Keeps.updFlash, ↓State.Keeps.updPoison]
    | split
    | dsimp only

theorem State.sendCred_keeps {orig : State} {s : State} (dst : PkgId) (m : HalMsg) (k : Nat) (h0 : orig.Keeps s) :
    orig.Keeps (State.sendCred s dst m k) := by
  unfold State.sendCred
  repeat' first
    | with_reducible assumption
    | intro _
    | (with_reducible apply State.sendPen_keeps)
    | (with_reducible refine State.sendPen_eq _ _ _ _ _ _ _ _ _ _ ?_ (by with_reducible assumption))
    | with_reducible apply State.Keeps.ite | with_reducible apply State.Keeps.ite1 | with_reducible apply State.Keeps.ite2 | with_reducible apply State.Keeps.elim
    | with_reducible apply State.Keeps.foldl | with_reducible apply State.Keeps.foldl1 | with_reducible apply State.Keeps.foldl2 | with_reducible apply State.Keeps.foldl22
    | simp only [↓State.Keeps.upd, ↓State.Keeps.updFlash, ↓State.Keeps.updPoison]
    | split
    | dsimp only

theorem State.halRelease_keeps {orig : State} {s : State} (n : CtxId) (h : Nat) (k : Nat) (h0 : orig.Keeps s) :
    orig.Keeps (State.halRelease s n h k) := by
  unfold State.halRelease
  repeat' first
    | with_reducible assumption
    | intro _
    | (with_reducible apply State.setHsts_keeps) | (with_reducible apply State.sendCred_keeps)
    | with_reducible apply State.Keeps.ite | with_reducible apply State.Keeps.ite1 | with_reducible apply State.Keeps.ite2 | with_reducible apply State.Keeps.elim
    | with_reducible apply State.Keeps.foldl | with_reducible apply State.Keeps.foldl1 | with_reducible apply State.Keeps.foldl2 | with_reducible apply State.Keeps.foldl22
    | simp only [↓State.Keeps.upd, ↓State.Keeps.updFlash, ↓State.Keeps.updPoison]
    | split
    | dsimp only

theorem execHalyardRelease_keeps {orig : State} (ctx : CtxId) (h : Fin 16) (k : Nat) {s : State} (h3 : orig.Keeps s) :
    orig.KeepsOut (execHalyardRelease ctx h k s) := by
  unfold execHalyardRelease
  repeat' first
    | with_reducible assumption
    | intro _
    | with_reducible apply State.KeepsOut.next
    | (with_reducible apply State.halRelease_keeps)
    | with_reducible apply State.Keeps.ite | with_reducible apply State.Keeps.ite1 | with_reducible apply State.Keeps.ite2 | with_reducible apply State.Keeps.elim
    | with_reducible apply State.Keeps.foldl | with_reducible apply State.Keeps.foldl1 | with_reducible apply State.Keeps.foldl2 | with_reducible apply State.Keeps.foldl22
    | simp only [↓State.Keeps.upd, ↓State.Keeps.updFlash, ↓State.Keeps.updPoison]
    | split
    | dsimp only

theorem State.credIn_keeps {orig : State} {s : State} (src : PkgId) (m : HalMsg) (k : Nat) (h0 : orig.Keeps s) :
    orig.Keeps (State.credIn s src m k) := by
  unfold State.credIn
  repeat' first
    | with_reducible assumption
    | intro _
    | (with_reducible apply State.setHsts_keeps)
    | with_reducible apply State.Keeps.ite | with_reducible apply State.Keeps.ite1 | with_reducible apply State.Keeps.ite2 | with_reducible apply State.Keeps.elim
    | with_reducible apply State.Keeps.foldl | with_reducible apply State.Keeps.foldl1 | with_reducible apply State.Keeps.foldl2 | with_reducible apply State.Keeps.foldl22
    | simp only [↓State.Keeps.upd, ↓State.Keeps.updFlash, ↓State.Keeps.updPoison]
    | split
    | dsimp only

theorem hcredRx_keeps {orig : State} (pn : Pennant) {s : State} (h1 : orig.Keeps s) :
    orig.KeepsOut (hcredRx pn s) := by
  unfold hcredRx
  repeat' first
    | with_reducible assumption
    | intro _
    | with_reducible apply State.KeepsOut.next
    | (with_reducible apply State.takeSeq_keeps) | (with_reducible apply State.credIn_keeps)
    | with_reducible apply State.Keeps.ite | with_reducible apply State.Keeps.ite1 | with_reducible apply State.Keeps.ite2 | with_reducible apply State.Keeps.elim
    | with_reducible apply State.Keeps.foldl | with_reducible apply State.Keeps.foldl1 | with_reducible apply State.Keeps.foldl2 | with_reducible apply State.Keeps.foldl22
    | simp only [↓State.Keeps.upd, ↓State.Keeps.updFlash, ↓State.Keeps.updPoison]
    | split
    | dsimp only

theorem execHcredReceive_keeps {orig : State} (h : PnHead) (eseq : BitVec 16) (r : PnPart) {s : State} (h3 : orig.Keeps s) :
    orig.KeepsOut (execHcredReceive h eseq r s) := by
  unfold execHcredReceive
  repeat' first
    | with_reducible assumption
    | intro _
    | with_reducible apply State.KeepsOut.next
    | (with_reducible apply hcredRx_keeps)
    | with_reducible apply State.Keeps.ite | with_reducible apply State.Keeps.ite1 | with_reducible apply State.Keeps.ite2 | with_reducible apply State.Keeps.elim
    | with_reducible apply State.Keeps.foldl | with_reducible apply State.Keeps.foldl1 | with_reducible apply State.Keeps.foldl2 | with_reducible apply State.Keeps.foldl22
    | simp only [↓State.Keeps.upd, ↓State.Keeps.updFlash, ↓State.Keeps.updPoison]
    | split
    | dsimp only

theorem State.closeHals_keeps {orig : State} {s : State} (n : Nat) (h0 : orig.Keeps s) :
    orig.Keeps (State.closeHals s n) := by
  unfold State.closeHals
  repeat' first
    | with_reducible assumption
    | intro _
    | with_reducible apply State.Keeps.ite | with_reducible apply State.Keeps.ite1 | with_reducible apply State.Keeps.ite2 | with_reducible apply State.Keeps.elim
    | with_reducible apply State.Keeps.foldl | with_reducible apply State.Keeps.foldl1 | with_reducible apply State.Keeps.foldl2 | with_reducible apply State.Keeps.foldl22
    | simp only [↓State.Keeps.upd, ↓State.Keeps.updFlash, ↓State.Keeps.updPoison]
    | split
    | dsimp only

theorem State.syncUse_keeps {orig : State} {s : State} (n : Nat) (h0 : orig.Keeps s) :
    orig.Keeps (State.syncUse s n) := by
  unfold State.syncUse
  repeat' first
    | with_reducible assumption
    | intro _
    | (with_reducible apply State.setFld_keeps)
    | with_reducible apply State.Keeps.ite | with_reducible apply State.Keeps.ite1 | with_reducible apply State.Keeps.ite2 | with_reducible apply State.Keeps.elim
    | with_reducible apply State.Keeps.foldl | with_reducible apply State.Keeps.foldl1 | with_reducible apply State.Keeps.foldl2 | with_reducible apply State.Keeps.foldl22
    | simp only [↓State.Keeps.upd, ↓State.Keeps.updFlash, ↓State.Keeps.updPoison]
    | split
    | dsimp only

theorem State.holdFault_keeps {orig : State} {s : State} (n : CtxId) (key : Nat) (h0 : orig.Keeps s) :
    orig.Keeps (State.holdFault s n key) := by
  unfold State.holdFault
  repeat' first
    | with_reducible assumption
    | intro _
    | (with_reducible apply State.addFault_keeps)
    | with_reducible apply State.Keeps.ite | with_reducible apply State.Keeps.ite1 | with_reducible apply State.Keeps.ite2 | with_reducible apply State.Keeps.elim
    | with_reducible apply State.Keeps.foldl | with_reducible apply State.Keeps.foldl1 | with_reducible apply State.Keeps.foldl2 | with_reducible apply State.Keeps.foldl22
    | simp only [↓State.Keeps.upd, ↓State.Keeps.updFlash, ↓State.Keeps.updPoison]
    | split
    | dsimp only

theorem State.acquire_keeps {orig : State} {s : State} (key : Nat) (n : CtxId) (owner : CtxId) (t : Nat) (h0 : orig.Keeps s) :
    orig.Keeps (State.acquire s key n owner t) := by
  unfold State.acquire
  repeat' first
    | with_reducible assumption
    | intro _
    | (with_reducible apply State.holdFault_keeps) | (with_reducible apply State.syncUse_keeps)
    | with_reducible apply State.Keeps.ite | with_reducible apply State.Keeps.ite1 | with_reducible apply State.Keeps.ite2 | with_reducible apply State.Keeps.elim
    | with_reducible apply State.Keeps.foldl | with_reducible apply State.Keeps.foldl1 | with_reducible apply State.Keeps.foldl2 | with_reducible apply State.Keeps.foldl22
    | simp only [↓State.Keeps.upd, ↓State.Keeps.updFlash, ↓State.Keeps.updPoison]
    | split
    | dsimp only

theorem execVholdAcquire_keeps {orig : State} (c : CoreId) (ctx : CtxId) (owner : CtxId) (tag : Nat) {s : State} (h4 : orig.Keeps s) :
    orig.KeepsOut (execVholdAcquire c ctx owner tag s) := by
  unfold execVholdAcquire
  repeat' first
    | with_reducible assumption
    | intro _
    | with_reducible apply State.KeepsOut.next
    | (with_reducible apply State.acquire_keeps)
    | with_reducible apply State.Keeps.ite | with_reducible apply State.Keeps.ite1 | with_reducible apply State.Keeps.ite2 | with_reducible apply State.Keeps.elim
    | with_reducible apply State.Keeps.foldl | with_reducible apply State.Keeps.foldl1 | with_reducible apply State.Keeps.foldl2 | with_reducible apply State.Keeps.foldl22
    | simp only [↓State.Keeps.upd, ↓State.Keeps.updFlash, ↓State.Keeps.updPoison]
    | split
    | dsimp only

theorem State.unhold_keeps {orig : State} {s : State} (key : Nat) (n : CtxId) (owner : CtxId) (t : Nat) (h0 : orig.Keeps s) :
    orig.Keeps (State.unhold s key n owner t) := by
  unfold State.unhold
  repeat' first
    | with_reducible assumption
    | intro _
    | (with_reducible apply State.syncUse_keeps) | (with_reducible apply State.holdFault_keeps)
    | with_reducible apply State.Keeps.ite | with_reducible apply State.Keeps.ite1 | with_reducible apply State.Keeps.ite2 | with_reducible apply State.Keeps.elim
    | with_reducible apply State.Keeps.foldl | with_reducible apply State.Keeps.foldl1 | with_reducible apply State.Keeps.foldl2 | with_reducible apply State.Keeps.foldl22
    | simp only [↓State.Keeps.upd, ↓State.Keeps.updFlash, ↓State.Keeps.updPoison]
    | split
    | dsimp only

theorem execVholdRelease_keeps {orig : State} (c : CoreId) (ctx : CtxId) (owner : CtxId) (tag : Nat) {s : State} (h4 : orig.Keeps s) :
    orig.KeepsOut (execVholdRelease c ctx owner tag s) := by
  unfold execVholdRelease
  repeat' first
    | with_reducible assumption
    | intro _
    | with_reducible apply State.KeepsOut.next
    | (with_reducible apply State.unhold_keeps)
    | with_reducible apply State.Keeps.ite | with_reducible apply State.Keeps.ite1 | with_reducible apply State.Keeps.ite2 | with_reducible apply State.Keeps.elim
    | with_reducible apply State.Keeps.foldl | with_reducible apply State.Keeps.foldl1 | with_reducible apply State.Keeps.foldl2 | with_reducible apply State.Keeps.foldl22
    | simp only [↓State.Keeps.upd, ↓State.Keeps.updFlash, ↓State.Keeps.updPoison]
    | split
    | dsimp only

theorem State.dropHolds_keeps {orig : State} {s : State} (n : CtxId) (owner : Bool) (h0 : orig.Keeps s) :
    orig.Keeps (State.dropHolds s n owner) := by
  unfold State.dropHolds
  repeat' first
    | with_reducible assumption
    | intro _
    | (with_reducible apply State.syncUse_keeps)
    | with_reducible apply State.Keeps.ite | with_reducible apply State.Keeps.ite1 | with_reducible apply State.Keeps.ite2 | with_reducible apply State.Keeps.elim
    | with_reducible apply State.Keeps.foldl | with_reducible apply State.Keeps.foldl1 | with_reducible apply State.Keeps.foldl2 | with_reducible apply State.Keeps.foldl22
    | simp only [↓State.Keeps.upd, ↓State.Keeps.updFlash, ↓State.Keeps.updPoison]
    | split
    | dsimp only

end Sys2Proof.Machine
end

