-- ==== Sys2Proof/Laws/KeepCollective.lean ====
section
/-! SUPPORT. What the operations of Machine/Collective.lean keep. -/

set_option linter.all false

namespace Sys2Proof.Machine

theorem State.grpWrite_keeps {orig : State} {s : State} (n : Nat) (g : Nat) (sz : CsrSize) (v : Word) (h0 : orig.Keeps s) :
    orig.Keeps (State.grpWrite s n g sz v) := by
  unfold State.grpWrite
  repeat' first
    | with_reducible assumption
    | intro _
    | (with_reducible apply State.setFld_keeps)
    | with_reducible apply State.Keeps.ite | with_reducible apply State.Keeps.ite1 | with_reducible apply State.Keeps.ite2 | with_reducible apply State.Keeps.elim
    | with_reducible apply State.Keeps.foldl | with_reducible apply State.Keeps.foldl1 | with_reducible apply State.Keeps.foldl2 | with_reducible apply State.Keeps.foldl22
    | simp only [↓State.Keeps.upd, ↓State.Keeps.updFlash, ↓State.Keeps.updPoison]
    | split
    | dsimp only

theorem execColGrpWrite_keeps {orig : State} (ctx : CtxId) (g : Fin 16) (sz : CsrSize) (v : Word) {s : State} (h4 : orig.Keeps s) :
    orig.KeepsOut (execColGrpWrite ctx g sz v s) := by
  unfold execColGrpWrite
  repeat' first
    | with_reducible assumption
    | intro _
    | with_reducible apply State.KeepsOut.next
    | (with_reducible apply State.grpWrite_keeps)
    | with_reducible apply State.Keeps.ite | with_reducible apply State.Keeps.ite1 | with_reducible apply State.Keeps.ite2 | with_reducible apply State.Keeps.elim
    | with_reducible apply State.Keeps.foldl | with_reducible apply State.Keeps.foldl1 | with_reducible apply State.Keeps.foldl2 | with_reducible apply State.Keeps.foldl22
    | simp only [↓State.Keeps.upd, ↓State.Keeps.updFlash, ↓State.Keeps.updPoison]
    | split
    | dsimp only

theorem State.subWrite_keeps {orig : State} {s : State} (n : Nat) (g : Nat) (sz : CsrSize) (v : Word) (h0 : orig.Keeps s) :
    orig.Keeps (State.subWrite s n g sz v) := by
  unfold State.subWrite
  repeat' first
    | with_reducible assumption
    | intro _
    | (with_reducible apply State.setFld_keeps)
    | with_reducible apply State.Keeps.ite | with_reducible apply State.Keeps.ite1 | with_reducible apply State.Keeps.ite2 | with_reducible apply State.Keeps.elim
    | with_reducible apply State.Keeps.foldl | with_reducible apply State.Keeps.foldl1 | with_reducible apply State.Keeps.foldl2 | with_reducible apply State.Keeps.foldl22
    | simp only [↓State.Keeps.upd, ↓State.Keeps.updFlash, ↓State.Keeps.updPoison]
    | split
    | dsimp only

theorem execColSubWrite_keeps {orig : State} (ctx : CtxId) (g : Fin 16) (sz : CsrSize) (v : Word) {s : State} (h4 : orig.Keeps s) :
    orig.KeepsOut (execColSubWrite ctx g sz v s) := by
  unfold execColSubWrite
  repeat' first
    | with_reducible assumption
    | intro _
    | with_reducible apply State.KeepsOut.next
    | (with_reducible apply State.subWrite_keeps)
    | with_reducible apply State.Keeps.ite | with_reducible apply State.Keeps.ite1 | with_reducible apply State.Keeps.ite2 | with_reducible apply State.Keeps.elim
    | with_reducible apply State.Keeps.foldl | with_reducible apply State.Keeps.foldl1 | with_reducible apply State.Keeps.foldl2 | with_reducible apply State.Keeps.foldl22
    | simp only [↓State.Keeps.upd, ↓State.Keeps.updFlash, ↓State.Keeps.updPoison]
    | split
    | dsimp only

theorem colOp_keeps {orig : State} (op : Nat) (used : List Nat) (aligned : Bool) (dest : Bool) (cid : CoreId) (b : Body) {s : State} (h6 : orig.Keeps s) :
    orig.KeepsOut (colOp op used aligned dest cid b s) := by
  unfold colOp
  repeat' first
    | with_reducible assumption
    | intro _
    | with_reducible apply State.KeepsOut.next
    | (with_reducible apply dispatchEng_keeps)
    | with_reducible apply State.Keeps.ite | with_reducible apply State.Keeps.ite1 | with_reducible apply State.Keeps.ite2 | with_reducible apply State.Keeps.elim
    | with_reducible apply State.Keeps.foldl | with_reducible apply State.Keeps.foldl1 | with_reducible apply State.Keeps.foldl2 | with_reducible apply State.Keeps.foldl22
    | simp only [↓State.Keeps.upd, ↓State.Keeps.updFlash, ↓State.Keeps.updPoison]
    | split
    | dsimp only

theorem execColRs_keeps {orig : State} (cid : CoreId) (b : Body) {s : State} (h2 : orig.Keeps s) :
    orig.KeepsOut (execColRs cid b s) := by
  unfold execColRs
  repeat' first
    | with_reducible assumption
    | intro _
    | with_reducible apply State.KeepsOut.next
    | (with_reducible apply colOp_keeps)
    | with_reducible apply State.Keeps.ite | with_reducible apply State.Keeps.ite1 | with_reducible apply State.Keeps.ite2 | with_reducible apply State.Keeps.elim
    | with_reducible apply State.Keeps.foldl | with_reducible apply State.Keeps.foldl1 | with_reducible apply State.Keeps.foldl2 | with_reducible apply State.Keeps.foldl22
    | simp only [↓State.Keeps.upd, ↓State.Keeps.updFlash, ↓State.Keeps.updPoison]
    | split
    | dsimp only

theorem execColAg_keeps {orig : State} (cid : CoreId) (b : Body) {s : State} (h2 : orig.Keeps s) :
    orig.KeepsOut (execColAg cid b s) := by
  unfold execColAg
  repeat' first
    | with_reducible assumption
    | intro _
    | with_reducible apply State.KeepsOut.next
    | (with_reducible apply colOp_keeps)
    | with_reducible apply State.Keeps.ite | with_reducible apply State.Keeps.ite1 | with_reducible apply State.Keeps.ite2 | with_reducible apply State.Keeps.elim
    | with_reducible apply State.Keeps.foldl | with_reducible apply State.Keeps.foldl1 | with_reducible apply State.Keeps.foldl2 | with_reducible apply State.Keeps.foldl22
    | simp only [↓State.Keeps.upd, ↓State.Keeps.updFlash, ↓State.Keeps.updPoison]
    | split
    | dsimp only

theorem execColPerm_keeps {orig : State} (cid : CoreId) (b : Body) {s : State} (h2 : orig.Keeps s) :
    orig.KeepsOut (execColPerm cid b s) := by
  unfold execColPerm
  repeat' first
    | with_reducible assumption
    | intro _
    | with_reducible apply State.KeepsOut.next
    | (with_reducible apply colOp_keeps)
    | with_reducible apply State.Keeps.ite | with_reducible apply State.Keeps.ite1 | with_reducible apply State.Keeps.ite2 | with_reducible apply State.Keeps.elim
    | with_reducible apply State.Keeps.foldl | with_reducible apply State.Keeps.foldl1 | with_reducible apply State.Keeps.foldl2 | with_reducible apply State.Keeps.foldl22
    | simp only [↓State.Keeps.upd, ↓State.Keeps.updFlash, ↓State.Keeps.updPoison]
    | split
    | dsimp only

theorem execColCmt_keeps {orig : State} (cid : CoreId) (b : Body) {s : State} (h2 : orig.Keeps s) :
    orig.KeepsOut (execColCmt cid b s) := by
  unfold execColCmt
  repeat' first
    | with_reducible assumption
    | intro _
    | with_reducible apply State.KeepsOut.next
    | (with_reducible apply colOp_keeps)
    | with_reducible apply State.Keeps.ite | with_reducible apply State.Keeps.ite1 | with_reducible apply State.Keeps.ite2 | with_reducible apply State.Keeps.elim
    | with_reducible apply State.Keeps.foldl | with_reducible apply State.Keeps.foldl1 | with_reducible apply State.Keeps.foldl2 | with_reducible apply State.Keeps.foldl22
    | simp only [↓State.Keeps.upd, ↓State.Keeps.updFlash, ↓State.Keeps.updPoison]
    | split
    | dsimp only

theorem execColStat_keeps {orig : State} (cid : CoreId) (b : Body) {s : State} (h2 : orig.Keeps s) :
    orig.KeepsOut (execColStat cid b s) := by
  unfold execColStat
  repeat' first
    | with_reducible assumption
    | intro _
    | with_reducible apply State.KeepsOut.next
    | (with_reducible apply colOp_keeps)
    | with_reducible apply State.Keeps.ite | with_reducible apply State.Keeps.ite1 | with_reducible apply State.Keeps.ite2 | with_reducible apply State.Keeps.elim
    | with_reducible apply State.Keeps.foldl | with_reducible apply State.Keeps.foldl1 | with_reducible apply State.Keeps.foldl2 | with_reducible apply State.Keeps.foldl22
    | simp only [↓State.Keeps.upd, ↓State.Keeps.updFlash, ↓State.Keeps.updPoison]
    | split
    | dsimp only

theorem execColAbort_keeps {orig : State} (cid : CoreId) (b : Body) {s : State} (h2 : orig.Keeps s) :
    orig.KeepsOut (execColAbort cid b s) := by
  unfold execColAbort
  repeat' first
    | with_reducible assumption
    | intro _
    | with_reducible apply State.KeepsOut.next
    | (with_reducible apply colOp_keeps)
    | with_reducible apply State.Keeps.ite | with_reducible apply State.Keeps.ite1 | with_reducible apply State.Keeps.ite2 | with_reducible apply State.Keeps.elim
    | with_reducible apply State.Keeps.foldl | with_reducible apply State.Keeps.foldl1 | with_reducible apply State.Keeps.foldl2 | with_reducible apply State.Keeps.foldl22
    | simp only [↓State.Keeps.upd, ↓State.Keeps.updFlash, ↓State.Keeps.updPoison]
    | split
    | dsimp only

theorem State.colFlight_keeps {orig : State} {s : State} (key : Nat) (q : QEntry) (h0 : orig.Keeps s) :
    orig.Keeps (State.colFlight s key q) := by
  unfold State.colFlight
  repeat' first
    | with_reducible assumption
    | intro _
    | (with_reducible apply State.modCore_keeps)
    | with_reducible apply State.Keeps.ite | with_reducible apply State.Keeps.ite1 | with_reducible apply State.Keeps.ite2 | with_reducible apply State.Keeps.elim
    | with_reducible apply State.Keeps.foldl | with_reducible apply State.Keeps.foldl1 | with_reducible apply State.Keeps.foldl2 | with_reducible apply State.Keeps.foldl22
    | simp only [↓State.Keeps.upd, ↓State.Keeps.updFlash, ↓State.Keeps.updPoison]
    | split
    | dsimp only

theorem State.colDone_keeps {orig : State} {s : State} (key : Nat) (fid : Nat) (q : QEntry) (h0 : orig.Keeps s) :
    orig.Keeps (State.colDone s key fid q) := by
  unfold State.colDone
  repeat' first
    | with_reducible assumption
    | intro _
    | (with_reducible apply State.complete_keeps) | (with_reducible apply State.modCore_keeps)
    | with_reducible apply State.Keeps.ite | with_reducible apply State.Keeps.ite1 | with_reducible apply State.Keeps.ite2 | with_reducible apply State.Keeps.elim
    | with_reducible apply State.Keeps.foldl | with_reducible apply State.Keeps.foldl1 | with_reducible apply State.Keeps.foldl2 | with_reducible apply State.Keeps.foldl22
    | simp only [↓State.Keeps.upd, ↓State.Keeps.updFlash, ↓State.Keeps.updPoison]
    | split
    | dsimp only

theorem State.putColl_keeps {orig : State} {s : State} (c : Coll) (h0 : orig.Keeps s) :
    orig.Keeps (State.putColl s c) := by
  unfold State.putColl
  repeat' first
    | with_reducible assumption
    | intro _
    | with_reducible apply State.Keeps.ite | with_reducible apply State.Keeps.ite1 | with_reducible apply State.Keeps.ite2 | with_reducible apply State.Keeps.elim
    | with_reducible apply State.Keeps.foldl | with_reducible apply State.Keeps.foldl1 | with_reducible apply State.Keeps.foldl2 | with_reducible apply State.Keeps.foldl22
    | simp only [↓State.Keeps.upd, ↓State.Keeps.updFlash, ↓State.Keeps.updPoison]
    | split
    | dsimp only

theorem State.colErr_keeps {orig : State} {s : State} (k : Nat) (f : Fld) (h0 : orig.Keeps s) :
    orig.Keeps (State.colErr s k f) := by
  unfold State.colErr
  repeat' first
    | with_reducible assumption
    | intro _
    | (with_reducible apply State.bump_keeps)
    | with_reducible apply State.Keeps.ite | with_reducible apply State.Keeps.ite1 | with_reducible apply State.Keeps.ite2 | with_reducible apply State.Keeps.elim
    | with_reducible apply State.Keeps.foldl | with_reducible apply State.Keeps.foldl1 | with_reducible apply State.Keeps.foldl2 | with_reducible apply State.Keeps.foldl22
    | simp only [↓State.Keeps.upd, ↓State.Keeps.updFlash, ↓State.Keeps.updPoison]
    | split
    | dsimp only

theorem State.sendChunkPen_keeps {orig : State} {s : State} (c : Coll) (rank : Nat) (sub : Nat) (cidx : Nat) (pidx : Nat) (bytes : List Byte) (last : Bool) (poison : Bool) (h0 : orig.Keeps s) :
    orig.Keeps (State.sendChunkPen s c rank sub cidx pidx bytes last poison) := by
  unfold State.sendChunkPen
  repeat' first
    | with_reducible assumption
    | intro _
    | (with_reducible apply State.sendPen_keeps)
    | (with_reducible refine State.sendPen_eq _ _ _ _ _ _ _ _ _ _ ?_ (by with_reducible assumption))
    | with_reducible apply State.Keeps.ite | with_reducible apply State.Keeps.ite1 | with_reducible apply State.Keeps.ite2 | with_reducible apply State.Keeps.elim
    | with_reducible apply State.Keeps.foldl | with_reducible apply State.Keeps.foldl1 | with_reducible apply State.Keeps.foldl2 | with_reducible apply State.Keeps.foldl22
    | simp only [↓State.Keeps.upd, ↓State.Keeps.updFlash, ↓State.Keeps.updPoison]
    | split
    | dsimp only

theorem State.sendCredit_keeps {orig : State} {s : State} (c : Coll) (rank : Nat) (k : Nat) (h0 : orig.Keeps s) :
    orig.Keeps (State.sendCredit s c rank k) := by
  unfold State.sendCredit
  repeat' first
    | with_reducible assumption
    | intro _
    | (with_reducible apply State.sendChunkPen_keeps)
    | with_reducible apply State.Keeps.ite | with_reducible apply State.Keeps.ite1 | with_reducible apply State.Keeps.ite2 | with_reducible apply State.Keeps.elim
    | with_reducible apply State.Keeps.foldl | with_reducible apply State.Keeps.foldl1 | with_reducible apply State.Keeps.foldl2 | with_reducible apply State.Keeps.foldl22
    | simp only [↓State.Keeps.upd, ↓State.Keeps.updFlash, ↓State.Keeps.updPoison]
    | split
    | dsimp only

theorem State.grant_keeps {orig : State} {s : State} (c : Coll) (rank : Nat) (h0 : orig.Keeps s) :
    orig.Keeps (State.grant s c rank).2 := by
  unfold State.grant
  repeat' first
    | with_reducible assumption
    | intro _
    | (with_reducible apply State.sendCredit_keeps)
    | with_reducible apply State.Keeps.ite | with_reducible apply State.Keeps.ite1 | with_reducible apply State.Keeps.ite2 | with_reducible apply State.Keeps.elim
    | with_reducible apply State.Keeps.foldl | with_reducible apply State.Keeps.foldl1 | with_reducible apply State.Keeps.foldl2 | with_reducible apply State.Keeps.foldl22
    | simp only [↓State.Keeps.upd, ↓State.Keeps.updFlash, ↓State.Keeps.updPoison]
    | split
    | dsimp only
theorem State.grant_eq {orig : State} {s : State} (c : Coll) (rank : Nat) (h0 : orig.Keeps s)
    {other : Coll} {result : State} (e : (State.grant s c rank) = (other, result)) : orig.Keeps result := by
  have := State.grant_keeps (orig := orig) c rank h0
  rw [e] at this
  exact this

theorem State.postCol_keeps {orig : State} {s : State} (n : Nat) (info : Nat) (h0 : orig.Keeps s) :
    orig.Keeps (State.postCol s n info) := by
  unfold State.postCol
  repeat' first
    | with_reducible assumption
    | intro _
    | (with_reducible apply State.postCtx_keeps)
    | with_reducible apply State.Keeps.ite | with_reducible apply State.Keeps.ite1 | with_reducible apply State.Keeps.ite2 | with_reducible apply State.Keeps.elim
    | with_reducible apply State.Keeps.foldl | with_reducible apply State.Keeps.foldl1 | with_reducible apply State.Keeps.foldl2 | with_reducible apply State.Keeps.foldl22
    | simp only [↓State.Keeps.upd, ↓State.Keeps.updFlash, ↓State.Keeps.updPoison]
    | split
    | dsimp only

theorem State.endColl_keeps {orig : State} {s : State} (c : Coll) (st : ColSt) (cause : Nat) (h0 : orig.Keeps s) :
    orig.Keeps (State.endColl s c st cause) := by
  unfold State.endColl
  repeat' first
    | with_reducible assumption
    | intro _
    | (with_reducible apply State.putColl_keeps) | (with_reducible apply State.setFld_keeps)
    | (with_reducible apply State.postCol_keeps) | (with_reducible apply State.colDone_keeps)
    | with_reducible apply State.Keeps.ite | with_reducible apply State.Keeps.ite1 | with_reducible apply State.Keeps.ite2 | with_reducible apply State.Keeps.elim
    | with_reducible apply State.Keeps.foldl | with_reducible apply State.Keeps.foldl1 | with_reducible apply State.Keeps.foldl2 | with_reducible apply State.Keeps.foldl22
    | simp only [↓State.Keeps.upd, ↓State.Keeps.updFlash, ↓State.Keeps.updPoison]
    | split
    | dsimp only

theorem State.sendAborts_keeps {orig : State} {s : State} (c : Coll) (cause : Nat) (h0 : orig.Keeps s) :
    orig.Keeps (State.sendAborts s c cause) := by
  unfold State.sendAborts
  repeat' first
    | with_reducible assumption
    | intro _
    | (with_reducible apply State.sendMsg_keeps)
    | with_reducible apply State.Keeps.ite | with_reducible apply State.Keeps.ite1 | with_reducible apply State.Keeps.ite2 | with_reducible apply State.Keeps.elim
    | with_reducible apply State.Keeps.foldl | with_reducible apply State.Keeps.foldl1 | with_reducible apply State.Keeps.foldl2 | with_reducible apply State.Keeps.foldl22
    | simp only [↓State.Keeps.upd, ↓State.Keeps.updFlash, ↓State.Keeps.updPoison]
    | split
    | dsimp only

theorem State.abortColl_keeps {orig : State} {s : State} (c : Coll) (st : ColSt) (cause : Nat) (h0 : orig.Keeps s) :
    orig.Keeps (State.abortColl s c st cause) := by
  unfold State.abortColl
  repeat' first
    | with_reducible assumption
    | intro _
    | (with_reducible apply State.endColl_keeps) | (with_reducible apply State.sendAborts_keeps)
    | with_reducible apply State.Keeps.ite | with_reducible apply State.Keeps.ite1 | with_reducible apply State.Keeps.ite2 | with_reducible apply State.Keeps.elim
    | with_reducible apply State.Keeps.foldl | with_reducible apply State.Keeps.foldl1 | with_reducible apply State.Keeps.foldl2 | with_reducible apply State.Keeps.foldl22
    | simp only [↓State.Keeps.upd, ↓State.Keeps.updFlash, ↓State.Keeps.updPoison]
    | split
    | dsimp only

theorem State.endColls_keeps {orig : State} {s : State} (p : Coll → Bool) (st : ColSt) (cause : Nat) (h0 : orig.Keeps s) :
    orig.Keeps (State.endColls s p st cause) := by
  unfold State.endColls
  repeat' first
    | with_reducible assumption
    | intro _
    | (with_reducible apply State.endColl_keeps)
    | with_reducible apply State.Keeps.ite | with_reducible apply State.Keeps.ite1 | with_reducible apply State.Keeps.ite2 | with_reducible apply State.Keeps.elim
    | with_reducible apply State.Keeps.foldl | with_reducible apply State.Keeps.foldl1 | with_reducible apply State.Keeps.foldl2 | with_reducible apply State.Keeps.foldl22
    | simp only [↓State.Keeps.upd, ↓State.Keeps.updFlash, ↓State.Keeps.updPoison]
    | split
    | dsimp only

theorem State.sliceEnd_keeps {orig : State} {s : State} (h0 : orig.Keeps s) :
    orig.Keeps (State.sliceEnd s) := by
  unfold State.sliceEnd
  repeat' first
    | with_reducible assumption
    | intro _
    | (with_reducible apply State.setFld_keeps) | (with_reducible apply State.endColls_keeps)
    | with_reducible apply State.Keeps.ite | with_reducible apply State.Keeps.ite1 | with_reducible apply State.Keeps.ite2 | with_reducible apply State.Keeps.elim
    | with_reducible apply State.Keeps.foldl | with_reducible apply State.Keeps.foldl1 | with_reducible apply State.Keeps.foldl2 | with_reducible apply State.Keeps.foldl22
    | simp only [↓State.Keeps.upd, ↓State.Keeps.updFlash, ↓State.Keeps.updPoison]
    | split
    | dsimp only

theorem State.finish_keeps {orig : State} {s : State} (c : Coll) (h0 : orig.Keeps s) :
    orig.Keeps (State.finish s c) := by
  unfold State.finish
  repeat' first
    | with_reducible assumption
    | intro _
    | (with_reducible apply State.endColl_keeps)
    | with_reducible apply State.Keeps.ite | with_reducible apply State.Keeps.ite1 | with_reducible apply State.Keeps.ite2 | with_reducible apply State.Keeps.elim
    | with_reducible apply State.Keeps.foldl | with_reducible apply State.Keeps.foldl1 | with_reducible apply State.Keeps.foldl2 | with_reducible apply State.Keeps.foldl22
    | simp only [↓State.Keeps.upd, ↓State.Keeps.updFlash, ↓State.Keeps.updPoison]
    | split
    | dsimp only

theorem State.chunkLanded_keeps {orig : State} {s : State} (c : Coll) (key : Nat) (p : Part) (digest : Word) (residue : Bool) (h0 : orig.Keeps s) :
    orig.Keeps (State.chunkLanded s c key p digest residue).2 := by
  unfold State.chunkLanded
  repeat' first
    | with_reducible assumption
    | intro _
    | (with_reducible apply State.sendInc_keeps)
    | with_reducible apply State.Keeps.ite | with_reducible apply State.Keeps.ite1 | with_reducible apply State.Keeps.ite2 | with_reducible apply State.Keeps.elim
    | with_reducible apply State.Keeps.foldl | with_reducible apply State.Keeps.foldl1 | with_reducible apply State.Keeps.foldl2 | with_reducible apply State.Keeps.foldl22
    | simp only [↓State.Keeps.upd, ↓State.Keeps.updFlash, ↓State.Keeps.updPoison]
    | split
    | dsimp only
theorem State.chunkLanded_eq {orig : State} {s : State} (c : Coll) (key : Nat) (p : Part) (digest : Word) (residue : Bool) (h0 : orig.Keeps s)
    {other : Coll} {result : State} (e : (State.chunkLanded s c key p digest residue) = (other, result)) : orig.Keeps result := by
  have := State.chunkLanded_keeps (orig := orig) c key p digest residue h0
  rw [e] at this
  exact this

theorem State.readPart_keeps {orig : State} {s : State} (n : CtxId) (a : Nat) (len : Nat) (h0 : orig.Keeps s) :
    orig.Keeps (State.readPart s n a len).2.2 := by
  unfold State.readPart
  repeat' first
    | with_reducible assumption
    | intro _
    | (with_reducible apply State.poisonRecord_keeps)
    | with_reducible apply State.Keeps.ite | with_reducible apply State.Keeps.ite1 | with_reducible apply State.Keeps.ite2 | with_reducible apply State.Keeps.elim
    | with_reducible apply State.Keeps.foldl | with_reducible apply State.Keeps.foldl1 | with_reducible apply State.Keeps.foldl2 | with_reducible apply State.Keeps.foldl22
    | simp only [↓State.Keeps.upd, ↓State.Keeps.updFlash, ↓State.Keeps.updPoison]
    | split
    | dsimp only

theorem State.colPut_keeps {orig : State} {s : State} (c : Coll) (a : Nat) (bytes : List Byte) (poison : Bool) (h0 : orig.Keeps s) :
    orig.Keeps (State.colPut s c a bytes poison).2 := by
  unfold State.colPut
  repeat' first
    | with_reducible assumption
    | intro _
    | (with_reducible apply State.writeMem_keeps)
    | with_reducible apply State.Keeps.ite | with_reducible apply State.Keeps.ite1 | with_reducible apply State.Keeps.ite2 | with_reducible apply State.Keeps.elim
    | with_reducible apply State.Keeps.foldl | with_reducible apply State.Keeps.foldl1 | with_reducible apply State.Keeps.foldl2 | with_reducible apply State.Keeps.foldl22
    | simp only [↓State.Keeps.upd, ↓State.Keeps.updFlash, ↓State.Keeps.updPoison]
    | split
    | dsimp only
theorem State.colPut_eq {orig : State} {s : State} (c : Coll) (a : Nat) (bytes : List Byte) (poison : Bool) (h0 : orig.Keeps s)
    {other : Coll} {result : State} (e : (State.colPut s c a bytes poison) = (other, result)) : orig.Keeps result := by
  have := State.colPut_keeps (orig := orig) c a bytes poison h0
  rw [e] at this
  exact this

theorem State.srcPart_keeps {orig : State} {s : State} (c : Coll) (q : Nat) (i : Nat) (h0 : orig.Keeps s) :
    orig.Keeps (State.srcPart s c q i).2 := by
  unfold State.srcPart
  repeat' first
    | with_reducible assumption
    | intro _
    | (with_reducible apply State.readPart_keeps) | (with_reducible refine State.readPart_eq _ _ _ ?_ (by with_reducible assumption))
    | with_reducible apply State.Keeps.ite | with_reducible apply State.Keeps.ite1 | with_reducible apply State.Keeps.ite2 | with_reducible apply State.Keeps.elim
    | with_reducible apply State.Keeps.foldl | with_reducible apply State.Keeps.foldl1 | with_reducible apply State.Keeps.foldl2 | with_reducible apply State.Keeps.foldl22
    | simp only [↓State.Keeps.upd, ↓State.Keeps.updFlash, ↓State.Keeps.updPoison]
    | split
    | dsimp only
theorem State.srcPart_eq {orig : State} {s : State} (c : Coll) (q : Nat) (i : Nat) (h0 : orig.Keeps s)
    {other : Part} {result : State} (e : (State.srcPart s c q i) = (other, result)) : orig.Keeps result := by
  have := State.srcPart_keeps (orig := orig) c q i h0
  rw [e] at this
  exact this

theorem State.rsOutput_keeps {orig : State} {s : State} (c : Coll) (i : Nat) (p : Part) (sender : Option Nat) (residue : Bool) (h0 : orig.Keeps s) :
    orig.Keeps (State.rsOutput s c i p sender residue).2 := by
  unfold State.rsOutput
  repeat' first
    | with_reducible assumption
    | intro _
    | (with_reducible apply State.readRecs_keeps) | (with_reducible apply State.colPut_keeps)
    | (with_reducible refine State.colPut_eq _ _ _ _ ?_ (by with_reducible assumption)) | (with_reducible apply State.chunkLanded_keeps)
    | (with_reducible refine State.chunkLanded_eq _ _ _ _ _ ?_ (by with_reducible assumption))
    | (with_reducible apply State.grant_keeps) | (with_reducible refine State.grant_eq _ _ ?_ (by with_reducible assumption))
    | with_reducible apply State.Keeps.ite | with_reducible apply State.Keeps.ite1 | with_reducible apply State.Keeps.ite2 | with_reducible apply State.Keeps.elim
    | with_reducible apply State.Keeps.foldl | with_reducible apply State.Keeps.foldl1 | with_reducible apply State.Keeps.foldl2 | with_reducible apply State.Keeps.foldl22
    | simp only [↓State.Keeps.upd, ↓State.Keeps.updFlash, ↓State.Keeps.updPoison]
    | split
    | dsimp only
theorem State.rsOutput_eq {orig : State} {s : State} (c : Coll) (i : Nat) (p : Part) (sender : Option Nat) (residue : Bool) (h0 : orig.Keeps s)
    {other : Coll} {result : State} (e : (State.rsOutput s c i p sender residue) = (other, result)) : orig.Keeps result := by
  have := State.rsOutput_keeps (orig := orig) c i p sender residue h0
  rw [e] at this
  exact this

theorem State.rsPhase_keeps {orig : State} {s : State} (c : Coll) (done : Nat) (q : Nat) (i : Nat) (p : Part) (sender : Option Nat) (residue : Bool) (h0 : orig.Keeps s) :
    orig.Keeps (State.rsPhase s c done q i p sender residue).2 := by
  unfold State.rsPhase
  repeat' first
    | with_reducible assumption
    | intro _
    | (with_reducible apply State.rsOutput_keeps)
    | (with_reducible refine State.rsOutput_eq _ _ _ _ _ ?_ (by with_reducible assumption)) | (with_reducible apply State.grant_keeps)
    | (with_reducible refine State.grant_eq _ _ ?_ (by with_reducible assumption))
    | with_reducible apply State.Keeps.ite | with_reducible apply State.Keeps.ite1 | with_reducible apply State.Keeps.ite2 | with_reducible apply State.Keeps.elim
    | with_reducible apply State.Keeps.foldl | with_reducible apply State.Keeps.foldl1 | with_reducible apply State.Keeps.foldl2 | with_reducible apply State.Keeps.foldl22
    | simp only [↓State.Keeps.upd, ↓State.Keeps.updFlash, ↓State.Keeps.updPoison]
    | split
    | dsimp only
theorem State.rsPhase_eq {orig : State} {s : State} (c : Coll) (done : Nat) (q : Nat) (i : Nat) (p : Part) (sender : Option Nat) (residue : Bool) (h0 : orig.Keeps s)
    {other : Coll} {result : State} (e : (State.rsPhase s c done q i p sender residue) = (other, result)) : orig.Keeps result := by
  have := State.rsPhase_keeps (orig := orig) c done q i p sender residue h0
  rw [e] at this
  exact this

theorem State.agLand_keeps {orig : State} {s : State} (c : Coll) (q : Nat) (i : Nat) (p : Part) (h0 : orig.Keeps s) :
    orig.Keeps (State.agLand s c q i p).2 := by
  unfold State.agLand
  repeat' first
    | with_reducible assumption
    | intro _
    | (with_reducible apply State.colPut_keeps) | (with_reducible refine State.colPut_eq _ _ _ _ ?_ (by with_reducible assumption))
    | (with_reducible apply State.chunkLanded_keeps)
    | (with_reducible refine State.chunkLanded_eq _ _ _ _ _ ?_ (by with_reducible assumption))
    | with_reducible apply State.Keeps.ite | with_reducible apply State.Keeps.ite1 | with_reducible apply State.Keeps.ite2 | with_reducible apply State.Keeps.elim
    | with_reducible apply State.Keeps.foldl | with_reducible apply State.Keeps.foldl1 | with_reducible apply State.Keeps.foldl2 | with_reducible apply State.Keeps.foldl22
    | simp only [↓State.Keeps.upd, ↓State.Keeps.updFlash, ↓State.Keeps.updPoison]
    | split
    | dsimp only
theorem State.agLand_eq {orig : State} {s : State} (c : Coll) (q : Nat) (i : Nat) (p : Part) (h0 : orig.Keeps s)
    {other : Coll} {result : State} (e : (State.agLand s c q i p) = (other, result)) : orig.Keeps result := by
  have := State.agLand_keeps (orig := orig) c q i p h0
  rw [e] at this
  exact this

theorem State.readExperts_keeps {orig : State} {s : State} (c : Coll) (h0 : orig.Keeps s) :
    orig.Keeps (State.readExperts s c).2 := by
  unfold State.readExperts
  repeat' first
    | with_reducible assumption
    | intro _
    | (with_reducible apply State.readRecs_keeps)
    | with_reducible apply State.Keeps.ite | with_reducible apply State.Keeps.ite1 | with_reducible apply State.Keeps.ite2 | with_reducible apply State.Keeps.elim
    | with_reducible apply State.Keeps.foldl | with_reducible apply State.Keeps.foldl1 | with_reducible apply State.Keeps.foldl2 | with_reducible apply State.Keeps.foldl22
    | simp only [↓State.Keeps.upd, ↓State.Keeps.updFlash, ↓State.Keeps.updPoison]
    | split
    | dsimp only
theorem State.readExperts_eq {orig : State} {s : State} (c : Coll) (h0 : orig.Keeps s)
    {other : Coll} {result : State} (e : (State.readExperts s c) = (other, result)) : orig.Keeps result := by
  have := State.readExperts_keeps (orig := orig) c h0
  rw [e] at this
  exact this

theorem State.permOut_keeps {orig : State} {s : State} (c : Coll) (rank : Nat) (src : Nat) (dst : Nat) (len : Nat) (h0 : orig.Keeps s) :
    orig.Keeps (State.permOut s c rank src dst len).2 := by
  unfold State.permOut
  repeat' first
    | with_reducible assumption
    | intro _
    | (with_reducible apply State.readPart_keeps) | (with_reducible refine State.readPart_eq _ _ _ ?_ (by with_reducible assumption))
    | (with_reducible apply State.colPut_keeps) | (with_reducible refine State.colPut_eq _ _ _ _ ?_ (by with_reducible assumption))
    | (with_reducible apply State.chunkLanded_keeps)
    | (with_reducible refine State.chunkLanded_eq _ _ _ _ _ ?_ (by with_reducible assumption))
    | with_reducible apply State.Keeps.ite | with_reducible apply State.Keeps.ite1 | with_reducible apply State.Keeps.ite2 | with_reducible apply State.Keeps.elim
    | with_reducible apply State.Keeps.foldl | with_reducible apply State.Keeps.foldl1 | with_reducible apply State.Keeps.foldl2 | with_reducible apply State.Keeps.foldl22
    | simp only [↓State.Keeps.upd, ↓State.Keeps.updFlash, ↓State.Keeps.updPoison]
    | split
    | dsimp only
theorem State.permOut_eq {orig : State} {s : State} (c : Coll) (rank : Nat) (src : Nat) (dst : Nat) (len : Nat) (h0 : orig.Keeps s)
    {other : Coll} {result : State} (e : (State.permOut s c rank src dst len) = (other, result)) : orig.Keeps result := by
  have := State.permOut_keeps (orig := orig) c rank src dst len h0
  rw [e] at this
  exact this

theorem State.permSend_keeps {orig : State} {s : State} (c : Coll) (l : List (Nat × Nat × Nat × Nat)) (h0 : orig.Keeps s) :
    orig.Keeps (State.permSend s c l).2 := by
  unfold State.permSend
  repeat' first
    | with_reducible assumption
    | intro _
    | (with_reducible apply State.permOut_keeps) | (with_reducible refine State.permOut_eq _ _ _ _ _ ?_ (by with_reducible assumption))
    | with_reducible apply State.Keeps.ite | with_reducible apply State.Keeps.ite1 | with_reducible apply State.Keeps.ite2 | with_reducible apply State.Keeps.elim
    | with_reducible apply State.Keeps.foldl | with_reducible apply State.Keeps.foldl1 | with_reducible apply State.Keeps.foldl2 | with_reducible apply State.Keeps.foldl22
    | simp only [↓State.Keeps.upd, ↓State.Keeps.updFlash, ↓State.Keeps.updPoison]
    | split
    | dsimp only
theorem State.permSend_eq {orig : State} {s : State} (c : Coll) (l : List (Nat × Nat × Nat × Nat)) (h0 : orig.Keeps s)
    {other : Coll} {result : State} (e : (State.permSend s c l) = (other, result)) : orig.Keeps result := by
  have := State.permSend_keeps (orig := orig) c l h0
  rw [e] at this
  exact this

theorem State.sendCounts_keeps {orig : State} {s : State} (c : Coll) (rank : Nat) (first : Nat) (bytes : List Byte) (h0 : orig.Keeps s) :
    orig.Keeps (State.sendCounts s c rank first bytes) := by
  unfold State.sendCounts
  repeat' first
    | with_reducible assumption
    | intro _
    | (with_reducible apply State.sendChunkPen_keeps)
    | with_reducible apply State.Keeps.ite | with_reducible apply State.Keeps.ite1 | with_reducible apply State.Keeps.ite2 | with_reducible apply State.Keeps.elim
    | with_reducible apply State.Keeps.foldl | with_reducible apply State.Keeps.foldl1 | with_reducible apply State.Keeps.foldl2 | with_reducible apply State.Keeps.foldl22
    | simp only [↓State.Keeps.upd, ↓State.Keeps.updFlash, ↓State.Keeps.updPoison]
    | split
    | dsimp only

theorem State.bounce_keeps {orig : State} {s : State} (c : Coll) (h0 : orig.Keeps s) :
    orig.Keeps (State.bounce s c).2 := by
  unfold State.bounce
  repeat' first
    | with_reducible assumption
    | intro _
    | (with_reducible apply State.readPart_keeps) | (with_reducible refine State.readPart_eq _ _ _ ?_ (by with_reducible assumption))
    | (with_reducible apply State.colPut_keeps) | (with_reducible refine State.colPut_eq _ _ _ _ ?_ (by with_reducible assumption))
    | with_reducible apply State.Keeps.ite | with_reducible apply State.Keeps.ite1 | with_reducible apply State.Keeps.ite2 | with_reducible apply State.Keeps.elim
    | with_reducible apply State.Keeps.foldl | with_reducible apply State.Keeps.foldl1 | with_reducible apply State.Keeps.foldl2 | with_reducible apply State.Keeps.foldl22
    | simp only [↓State.Keeps.upd, ↓State.Keeps.updFlash, ↓State.Keeps.updPoison]
    | split
    | dsimp only
theorem State.bounce_eq {orig : State} {s : State} (c : Coll) (h0 : orig.Keeps s)
    {other : Coll} {result : State} (e : (State.bounce s c) = (other, result)) : orig.Keeps result := by
  have := State.bounce_keeps (orig := orig) c h0
  rw [e] at this
  exact this

theorem State.permGrant_keeps {orig : State} {s : State} (c : Coll) (x2 : Nat) (h0 : orig.Keeps s) :
    orig.Keeps (State.permGrant s c x2).2 := by
  induction x2 generalizing s c with
  | zero =>
    unfold State.permGrant
    repeat' first
      | with_reducible assumption
      | intro _
      | (with_reducible apply State.sendCredit_keeps)
      | with_reducible apply State.Keeps.ite | with_reducible apply State.Keeps.ite1 | with_reducible apply State.Keeps.ite2 | with_reducible apply State.Keeps.elim
      | with_reducible apply State.Keeps.foldl | with_reducible apply State.Keeps.foldl1 | with_reducible apply State.Keeps.foldl2 | with_reducible apply State.Keeps.foldl22
      | simp only [↓State.Keeps.upd, ↓State.Keeps.updFlash, ↓State.Keeps.updPoison]
      | split
      | dsimp only
  | succ n ih =>
    unfold State.permGrant
    repeat' first
      | with_reducible assumption
      | intro _
      | with_reducible apply ih
      | (with_reducible apply State.sendCredit_keeps)
      | with_reducible apply State.Keeps.ite | with_reducible apply State.Keeps.ite1 | with_reducible apply State.Keeps.ite2 | with_reducible apply State.Keeps.elim
      | with_reducible apply State.Keeps.foldl | with_reducible apply State.Keeps.foldl1 | with_reducible apply State.Keeps.foldl2 | with_reducible apply State.Keeps.foldl22
      | simp only [↓State.Keeps.upd, ↓State.Keeps.updFlash, ↓State.Keeps.updPoison]
      | split
      | dsimp only
theorem State.permGrant_eq {orig : State} {s : State} (c : Coll) (x2 : Nat) (h0 : orig.Keeps s)
    {other : Coll} {result : State} (e : (State.permGrant s c x2) = (other, result)) : orig.Keeps result := by
  have := State.permGrant_keeps (orig := orig) c x2 h0
  rw [e] at this
  exact this

theorem State.hostAnswer_keeps {orig : State} {s : State} (c : Coll) (h0 : orig.Keeps s) :
    orig.Keeps (State.hostAnswer s c).2 := by
  unfold State.hostAnswer
  repeat' first
    | with_reducible assumption
    | intro _
    | (with_reducible apply State.colPut_keeps) | (with_reducible refine State.colPut_eq _ _ _ _ ?_ (by with_reducible assumption))
    | (with_reducible apply State.sendCounts_keeps) | (with_reducible apply State.permGrant_keeps)
    | (with_reducible refine State.permGrant_eq _ _ ?_ (by with_reducible assumption))
    | with_reducible apply State.Keeps.ite | with_reducible apply State.Keeps.ite1 | with_reducible apply State.Keeps.ite2 | with_reducible apply State.Keeps.elim
    | with_reducible apply State.Keeps.foldl | with_reducible apply State.Keeps.foldl1 | with_reducible apply State.Keeps.foldl2 | with_reducible apply State.Keeps.foldl22
    | simp only [↓State.Keeps.upd, ↓State.Keeps.updFlash, ↓State.Keeps.updPoison]
    | split
    | dsimp only
theorem State.hostAnswer_eq {orig : State} {s : State} (c : Coll) (h0 : orig.Keeps s)
    {other : Coll} {result : State} (e : (State.hostAnswer s c) = (other, result)) : orig.Keeps result := by
  have := State.hostAnswer_keeps (orig := orig) c h0
  rw [e] at this
  exact this

theorem State.expertSend_keeps {orig : State} {s : State} (c : Coll) (h0 : orig.Keeps s) :
    orig.Keeps (State.expertSend s c).2 := by
  unfold State.expertSend
  repeat' first
    | with_reducible assumption
    | intro _
    | (with_reducible apply State.colPut_keeps) | (with_reducible refine State.colPut_eq _ _ _ _ ?_ (by with_reducible assumption))
    | (with_reducible apply State.permSend_keeps) | (with_reducible refine State.permSend_eq _ _ ?_ (by with_reducible assumption))
    | with_reducible apply State.Keeps.ite | with_reducible apply State.Keeps.ite1 | with_reducible apply State.Keeps.ite2 | with_reducible apply State.Keeps.elim
    | with_reducible apply State.Keeps.foldl | with_reducible apply State.Keeps.foldl1 | with_reducible apply State.Keeps.foldl2 | with_reducible apply State.Keeps.foldl22
    | simp only [↓State.Keeps.upd, ↓State.Keeps.updFlash, ↓State.Keeps.updPoison]
    | split
    | dsimp only
theorem State.expertSend_eq {orig : State} {s : State} (c : Coll) (h0 : orig.Keeps s)
    {other : Coll} {result : State} (e : (State.expertSend s c) = (other, result)) : orig.Keeps result := by
  have := State.expertSend_keeps (orig := orig) c h0
  rw [e] at this
  exact this

theorem State.settleColl_keeps {orig : State} {s : State} {x : Coll × State} (h0 : orig.Keeps s) (h1 : orig.Keeps x.2) :
    orig.Keeps (State.settleColl s x) := by
  unfold State.settleColl
  repeat' first
    | with_reducible assumption
    | intro _
    | (with_reducible apply State.putColl_keeps) | (with_reducible apply State.abortColl_keeps)
    | (with_reducible apply State.finish_keeps)
    | with_reducible apply State.Keeps.ite | with_reducible apply State.Keeps.ite1 | with_reducible apply State.Keeps.ite2 | with_reducible apply State.Keeps.elim
    | with_reducible apply State.Keeps.foldl | with_reducible apply State.Keeps.foldl1 | with_reducible apply State.Keeps.foldl2 | with_reducible apply State.Keeps.foldl22
    | simp only [↓State.Keeps.upd, ↓State.Keeps.updFlash, ↓State.Keeps.updPoison]
    | split
    | dsimp only

theorem State.rsStart_keeps {orig : State} {s : State} (c : Coll) (h0 : orig.Keeps s) :
    orig.Keeps (State.rsStart s c).2 := by
  unfold State.rsStart
  repeat' first
    | with_reducible assumption
    | intro _
    | (with_reducible apply State.srcPart_keeps) | (with_reducible refine State.srcPart_eq _ _ _ ?_ (by with_reducible assumption))
    | (with_reducible apply State.rsPhase_keeps)
    | (with_reducible refine State.rsPhase_eq _ _ _ _ _ _ _ ?_ (by with_reducible assumption))
    | with_reducible apply State.Keeps.ite | with_reducible apply State.Keeps.ite1 | with_reducible apply State.Keeps.ite2 | with_reducible apply State.Keeps.elim
    | with_reducible apply State.Keeps.foldl | with_reducible apply State.Keeps.foldl1 | with_reducible apply State.Keeps.foldl2 | with_reducible apply State.Keeps.foldl22
    | simp only [↓State.Keeps.upd, ↓State.Keeps.updFlash, ↓State.Keeps.updPoison]
    | split
    | dsimp only
theorem State.rsStart_eq {orig : State} {s : State} (c : Coll) (h0 : orig.Keeps s)
    {other : Coll} {result : State} (e : (State.rsStart s c) = (other, result)) : orig.Keeps result := by
  have := State.rsStart_keeps (orig := orig) c h0
  rw [e] at this
  exact this

theorem State.agStart_keeps {orig : State} {s : State} (c : Coll) (h0 : orig.Keeps s) :
    orig.Keeps (State.agStart s c).2 := by
  unfold State.agStart
  repeat' first
    | with_reducible assumption
    | intro _
    | (with_reducible apply State.readPart_keeps) | (with_reducible refine State.readPart_eq _ _ _ ?_ (by with_reducible assumption))
    | (with_reducible apply State.agLand_keeps) | (with_reducible refine State.agLand_eq _ _ _ _ ?_ (by with_reducible assumption))
    | with_reducible apply State.Keeps.ite | with_reducible apply State.Keeps.ite1 | with_reducible apply State.Keeps.ite2 | with_reducible apply State.Keeps.elim
    | with_reducible apply State.Keeps.foldl | with_reducible apply State.Keeps.foldl1 | with_reducible apply State.Keeps.foldl2 | with_reducible apply State.Keeps.foldl22
    | simp only [↓State.Keeps.upd, ↓State.Keeps.updFlash, ↓State.Keeps.updPoison]
    | split
    | dsimp only
theorem State.agStart_eq {orig : State} {s : State} (c : Coll) (h0 : orig.Keeps s)
    {other : Coll} {result : State} (e : (State.agStart s c) = (other, result)) : orig.Keeps result := by
  have := State.agStart_keeps (orig := orig) c h0
  rw [e] at this
  exact this

theorem State.permStart_keeps {orig : State} {s0 : State} (c0 : Coll) (h0 : orig.Keeps s0) :
    orig.Keeps (State.permStart s0 c0).2 := by
  unfold State.permStart
  repeat' first
    | with_reducible assumption
    | intro _
    | (with_reducible apply State.bounce_keeps) | (with_reducible refine State.bounce_eq _ ?_ (by with_reducible assumption))
    | (with_reducible apply State.readExperts_keeps) | (with_reducible refine State.readExperts_eq _ ?_ (by with_reducible assumption))
    | (with_reducible apply State.sendCounts_keeps) | (with_reducible apply State.hostAnswer_keeps)
    | (with_reducible refine State.hostAnswer_eq _ ?_ (by with_reducible assumption)) | (with_reducible apply State.expertSend_keeps)
    | (with_reducible refine State.expertSend_eq _ ?_ (by with_reducible assumption)) | (with_reducible apply State.readRecs_keeps)
    | (with_reducible apply State.permSend_keeps) | (with_reducible refine State.permSend_eq _ _ ?_ (by with_reducible assumption))
    | with_reducible apply State.Keeps.ite | with_reducible apply State.Keeps.ite1 | with_reducible apply State.Keeps.ite2 | with_reducible apply State.Keeps.elim
    | with_reducible apply State.Keeps.foldl | with_reducible apply State.Keeps.foldl1 | with_reducible apply State.Keeps.foldl2 | with_reducible apply State.Keeps.foldl22
    | simp only [↓State.Keeps.upd, ↓State.Keeps.updFlash, ↓State.Keeps.updPoison]
    | split
    | dsimp only
theorem State.permStart_eq {orig : State} {s0 : State} (c0 : Coll) (h0 : orig.Keeps s0)
    {other : Coll} {result : State} (e : (State.permStart s0 c0) = (other, result)) : orig.Keeps result := by
  have := State.permStart_keeps (orig := orig) c0 h0
  rw [e] at this
  exact this

theorem State.openColl_keeps {orig : State} {s : State} (c : Coll) (h0 : orig.Keeps s) :
    orig.Keeps (State.openColl s c) := by
  unfold State.openColl
  repeat' first
    | with_reducible assumption
    | intro _
    | (with_reducible apply State.rsStart_keeps) | (with_reducible refine State.rsStart_eq _ ?_ (by with_reducible assumption))
    | (with_reducible apply State.agStart_keeps) | (with_reducible refine State.agStart_eq _ ?_ (by with_reducible assumption))
    | (with_reducible apply State.permStart_keeps) | (with_reducible refine State.permStart_eq _ ?_ (by with_reducible assumption))
    | (with_reducible apply State.sendCredit_keeps) | (with_reducible apply State.settleColl_keeps)
    | with_reducible apply State.Keeps.ite | with_reducible apply State.Keeps.ite1 | with_reducible apply State.Keeps.ite2 | with_reducible apply State.Keeps.elim
    | with_reducible apply State.Keeps.foldl | with_reducible apply State.Keeps.foldl1 | with_reducible apply State.Keeps.foldl2 | with_reducible apply State.Keeps.foldl22
    | simp only [↓State.Keeps.upd, ↓State.Keeps.updFlash, ↓State.Keeps.updPoison]
    | split
    | dsimp only

theorem execCollectiveOpen_keeps {orig : State} (ctx : CtxId) (g : Fin 16) (e : Epoch) {s : State} (h3 : orig.Keeps s) :
    orig.KeepsOut (execCollectiveOpen ctx g e s) := by
  unfold execCollectiveOpen
  repeat' first
    | with_reducible assumption
    | intro _
    | with_reducible apply State.KeepsOut.next
    | (with_reducible apply State.openColl_keeps)
    | with_reducible apply State.Keeps.ite | with_reducible apply State.Keeps.ite1 | with_reducible apply State.Keeps.ite2 | with_reducible apply State.Keeps.elim
    | with_reducible apply State.Keeps.foldl | with_reducible apply State.Keeps.foldl1 | with_reducible apply State.Keeps.foldl2 | with_reducible apply State.Keeps.foldl22
    | simp only [↓State.Keeps.upd, ↓State.Keeps.updFlash, ↓State.Keeps.updPoison]
    | split
    | dsimp only

theorem State.colServed_keeps {orig : State} {s : State} (c : Coll) (h0 : orig.Keeps s) :
    orig.Keeps (State.colServed s c) := by
  unfold State.colServed
  repeat' first
    | with_reducible assumption
    | intro _
    | (with_reducible apply State.arbServed_keeps)
    | with_reducible apply State.Keeps.ite | with_reducible apply State.Keeps.ite1 | with_reducible apply State.Keeps.ite2 | with_reducible apply State.Keeps.elim
    | with_reducible apply State.Keeps.foldl | with_reducible apply State.Keeps.foldl1 | with_reducible apply State.Keeps.foldl2 | with_reducible apply State.Keeps.foldl22
    | simp only [↓State.Keeps.upd, ↓State.Keeps.updFlash, ↓State.Keeps.updPoison]
    | split
    | dsimp only

theorem State.chunkSend_keeps {orig : State} {s : State} (c : Coll) (rank : Nat) (h0 : orig.Keeps s) :
    orig.Keeps (State.chunkSend s c rank) := by
  unfold State.chunkSend
  repeat' first
    | with_reducible assumption
    | intro _
    | (with_reducible apply State.sendChunkPen_keeps) | (with_reducible apply State.colServed_keeps)
    | (with_reducible apply State.grant_keeps) | (with_reducible refine State.grant_eq _ _ ?_ (by with_reducible assumption))
    | (with_reducible apply State.settleColl_keeps)
    | with_reducible apply State.Keeps.ite | with_reducible apply State.Keeps.ite1 | with_reducible apply State.Keeps.ite2 | with_reducible apply State.Keeps.elim
    | with_reducible apply State.Keeps.foldl | with_reducible apply State.Keeps.foldl1 | with_reducible apply State.Keeps.foldl2 | with_reducible apply State.Keeps.foldl22
    | simp only [↓State.Keeps.upd, ↓State.Keeps.updFlash, ↓State.Keeps.updPoison]
    | split
    | dsimp only

theorem execChunkSend_keeps {orig : State} (ctx : CtxId) (g : Fin 16) (e : Epoch) (rank : Nat) {s : State} (h4 : orig.Keeps s) :
    orig.KeepsOut (execChunkSend ctx g e rank s) := by
  unfold execChunkSend
  repeat' first
    | with_reducible assumption
    | intro _
    | with_reducible apply State.KeepsOut.next
    | (with_reducible apply State.chunkSend_keeps)
    | with_reducible apply State.Keeps.ite | with_reducible apply State.Keeps.ite1 | with_reducible apply State.Keeps.ite2 | with_reducible apply State.Keeps.elim
    | with_reducible apply State.Keeps.foldl | with_reducible apply State.Keeps.foldl1 | with_reducible apply State.Keeps.foldl2 | with_reducible apply State.Keeps.foldl22
    | simp only [↓State.Keeps.upd, ↓State.Keeps.updFlash, ↓State.Keeps.updPoison]
    | split
    | dsimp only

theorem State.dup_keeps {orig : State} {s : State} (k : Nat) (h0 : orig.Keeps s) :
    orig.Keeps (State.dup s k) := by
  unfold State.dup
  repeat' first
    | with_reducible assumption
    | intro _
    | (with_reducible apply State.colErr_keeps)
    | with_reducible apply State.Keeps.ite | with_reducible apply State.Keeps.ite1 | with_reducible apply State.Keeps.ite2 | with_reducible apply State.Keeps.elim
    | with_reducible apply State.Keeps.foldl | with_reducible apply State.Keeps.foldl1 | with_reducible apply State.Keeps.foldl2 | with_reducible apply State.Keeps.foldl22
    | simp only [↓State.Keeps.upd, ↓State.Keeps.updFlash, ↓State.Keeps.updPoison]
    | split
    | dsimp only

theorem State.checkChunk_keeps {orig : State} {s : State} (c : Coll) (x : InChunk) (h0 : orig.Keeps s) :
    orig.Keeps (State.checkChunk s c x).2 := by
  unfold State.checkChunk
  repeat' first
    | with_reducible assumption
    | intro _
    | (with_reducible apply State.quickRecord_keeps) | (with_reducible apply State.colErr_keeps)
    | with_reducible apply State.Keeps.ite | with_reducible apply State.Keeps.ite1 | with_reducible apply State.Keeps.ite2 | with_reducible apply State.Keeps.elim
    | with_reducible apply State.Keeps.foldl | with_reducible apply State.Keeps.foldl1 | with_reducible apply State.Keeps.foldl2 | with_reducible apply State.Keeps.foldl22
    | simp only [↓State.Keeps.upd, ↓State.Keeps.updFlash, ↓State.Keeps.updPoison]
    | split
    | dsimp only
theorem State.checkChunk_eq {orig : State} {s : State} (c : Coll) (x : InChunk) (h0 : orig.Keeps s)
    {other : Part} {result : State} (e : (State.checkChunk s c x) = (other, result)) : orig.Keeps result := by
  have := State.checkChunk_keeps (orig := orig) c x h0
  rw [e] at this
  exact this

theorem State.badSlice_keeps {orig : State} {s0 : State} (k : Nat) (h0 : orig.Keeps s0) :
    orig.Keeps (State.badSlice s0 k).2 := by
  unfold State.badSlice
  repeat' first
    | with_reducible assumption
    | intro _
    | (with_reducible apply State.draw_keeps) | (with_reducible refine State.draw_eq ?_ (by with_reducible assumption))
    | with_reducible apply State.Keeps.ite | with_reducible apply State.Keeps.ite1 | with_reducible apply State.Keeps.ite2 | with_reducible apply State.Keeps.elim
    | with_reducible apply State.Keeps.foldl | with_reducible apply State.Keeps.foldl1 | with_reducible apply State.Keeps.foldl2 | with_reducible apply State.Keeps.foldl22
    | simp only [↓State.Keeps.upd, ↓State.Keeps.updFlash, ↓State.Keeps.updPoison]
    | split
    | dsimp only
theorem State.badSlice_eq {orig : State} {s0 : State} (k : Nat) (h0 : orig.Keeps s0)
    {other : UnitCode} {result : State} (e : (State.badSlice s0 k) = (other, result)) : orig.Keeps result := by
  have := State.badSlice_keeps (orig := orig) k h0
  rw [e] at this
  exact this

theorem State.colResidueRecord_keeps {orig : State} {s0 : State} (c : Coll) (hard : Bool) (h0 : orig.Keeps s0) :
    orig.Keeps (State.colResidueRecord s0 c hard) := by
  unfold State.colResidueRecord
  repeat' first
    | with_reducible assumption
    | intro _
    | (with_reducible apply State.badSlice_keeps) | (with_reducible refine State.badSlice_eq _ ?_ (by with_reducible assumption))
    | (with_reducible apply State.quickRecord_keeps) | (with_reducible apply State.colErr_keeps)
    | with_reducible apply State.Keeps.ite | with_reducible apply State.Keeps.ite1 | with_reducible apply State.Keeps.ite2 | with_reducible apply State.Keeps.elim
    | with_reducible apply State.Keeps.foldl | with_reducible apply State.Keeps.foldl1 | with_reducible apply State.Keeps.foldl2 | with_reducible apply State.Keeps.foldl22
    | simp only [↓State.Keeps.upd, ↓State.Keeps.updFlash, ↓State.Keeps.updPoison]
    | split
    | dsimp only

theorem State.rsChunk_keeps {orig : State} {s : State} (c : Coll) (i j : Nat) (x : InChunk) (upset : Bool × Bool) (h0 : orig.Keeps s)
    {y : Coll × State} (e : State.rsChunk s c i j x upset = some y) : orig.Keeps y.2 := by
  unfold State.rsChunk at e
  obtain ⟨o, ho, rfl⟩ := Option.map_eq_some_iff.1 e
  have h1 : orig.Keeps o.2 := by
    split at ho
    · cases ho; exact State.srcPart_keeps _ _ _ h0
    · obtain ⟨p, -, rfl⟩ := Option.map_eq_some_iff.1 ho; exact h0
  have h2 := State.checkChunk_keeps c x h1
  dsimp only
  refine State.Keeps.ite2 (fun _ => ?_) (fun _ => ?_) <;>
    repeat' first
      | with_reducible assumption
      | with_reducible apply State.rsPhase_keeps
      | with_reducible apply State.numFlags_keeps
      | with_reducible apply State.colResidueRecord_keeps
      | with_reducible apply State.Keeps.ite
      | intro _

theorem State.agChunk_keeps {orig : State} {s : State} (c : Coll) (j : Nat) (x : InChunk) (h0 : orig.Keeps s) :
    orig.Keeps (State.agChunk s c j x).2 := by
  unfold State.agChunk
  repeat' first
    | with_reducible assumption
    | intro _
    | (with_reducible apply State.checkChunk_keeps) | (with_reducible refine State.checkChunk_eq _ _ ?_ (by with_reducible assumption))
    | (with_reducible apply State.agLand_keeps) | (with_reducible refine State.agLand_eq _ _ _ _ ?_ (by with_reducible assumption))
    | (with_reducible apply State.grant_keeps) | (with_reducible refine State.grant_eq _ _ ?_ (by with_reducible assumption))
    | with_reducible apply State.Keeps.ite | with_reducible apply State.Keeps.ite1 | with_reducible apply State.Keeps.ite2 | with_reducible apply State.Keeps.elim
    | with_reducible apply State.Keeps.foldl | with_reducible apply State.Keeps.foldl1 | with_reducible apply State.Keeps.foldl2 | with_reducible apply State.Keeps.foldl22
    | simp only [↓State.Keeps.upd, ↓State.Keeps.updFlash, ↓State.Keeps.updPoison]
    | split
    | dsimp only
theorem State.agChunk_eq {orig : State} {s : State} (c : Coll) (j : Nat) (x : InChunk) (h0 : orig.Keeps s)
    {other : Coll} {result : State} (e : (State.agChunk s c j x) = (other, result)) : orig.Keeps result := by
  have := State.agChunk_keeps (orig := orig) c j x h0
  rw [e] at this
  exact this

theorem State.permChunk_keeps {orig : State} {s : State} (c : Coll) (x : InChunk) (h0 : orig.Keeps s)
    {y : Coll × State} (e : State.permChunk s c x = some y) : orig.Keeps y.2 := by
  unfold State.permChunk at e
  obtain ⟨o, -, rfl⟩ := Option.map_eq_some_iff.1 e
  repeat' first
    | with_reducible assumption
    | with_reducible apply State.chunkLanded_keeps
    | with_reducible apply State.colPut_keeps
    | with_reducible apply State.checkChunk_keeps
    | dsimp only

theorem State.openFor_keeps {orig : State} {s : State} (c : Coll) (h0 : orig.Keeps s) :
    orig.Keeps (State.openFor s c) := by
  unfold State.openFor
  repeat' first
    | with_reducible assumption
    | intro _
    | (with_reducible apply State.openStep_keeps)
    | with_reducible apply State.Keeps.ite | with_reducible apply State.Keeps.ite1 | with_reducible apply State.Keeps.ite2 | with_reducible apply State.Keeps.elim
    | with_reducible apply State.Keeps.foldl | with_reducible apply State.Keeps.foldl1 | with_reducible apply State.Keeps.foldl2 | with_reducible apply State.Keeps.foldl22
    | simp only [↓State.Keeps.upd, ↓State.Keeps.updFlash, ↓State.Keeps.updPoison]
    | split
    | dsimp only

theorem State.useChunk_keeps {orig : State} {s : State} (c : Coll) (x : InChunk) (upset : Bool × Bool) (h0 : orig.Keeps s)
    {y : Coll × State} (e : State.useChunk s c x upset = some y) : orig.Keeps y.2 := by
  unfold State.useChunk at e
  obtain ⟨o, ho, rfl⟩ := Option.map_eq_some_iff.1 e
  dsimp only
  split at ho
  · exact State.openFor_keeps _ (State.colServed_keeps _ (State.permChunk_keeps c x h0 ho))
  · split at ho
    · split at ho
      · exact State.openFor_keeps _ (State.colServed_keeps _ (State.rsChunk_keeps c _ _ x upset h0 ho))
      · cases ho; exact State.openFor_keeps _ (State.colServed_keeps _ (State.agChunk_keeps _ _ _ h0))
    · cases ho

theorem State.useChunks_keeps {orig : State} {s : State} (c : Coll) (upset : Bool × Bool) (fuel : Nat) (h0 : orig.Keeps s) :
    orig.Keeps (State.useChunks s c upset fuel).2 := by
  induction fuel generalizing s c upset with
  | zero => unfold State.useChunks; exact h0
  | succ n ih =>
    unfold State.useChunks
    split
    · next y r he =>
      obtain ⟨z, -, hz⟩ := List.exists_of_findSome?_eq_some he
      obtain ⟨w, hw, hy⟩ := Option.map_eq_some_iff.1 hz
      cases hy
      exact ih _ _ (State.useChunk_keeps _ _ _ h0 hw)
    · exact h0
theorem State.useChunks_eq {orig : State} {s : State} (c : Coll) (upset : Bool × Bool) (fuel : Nat) (h0 : orig.Keeps s)
    {other : Coll} {result : State} (e : State.useChunks s c upset fuel = (other, result)) : orig.Keeps result := by
  have := State.useChunks_keeps (orig := orig) c upset fuel h0
  rw [e] at this
  exact this

theorem State.chunkReceive_keeps {orig : State} {s : State} (pn : Pennant) (upset : Bool × Bool) (h0 : orig.Keeps s) :
    orig.Keeps (State.chunkReceive s pn upset) := by
  unfold State.chunkReceive
  repeat' first
    | with_reducible assumption
    | intro _
    | (with_reducible apply State.takeIn_keeps) | (with_reducible apply State.dup_keeps) | (with_reducible apply State.abortColl_keeps)
    | (with_reducible apply State.useChunks_keeps) | (with_reducible refine State.useChunks_eq _ _ _ ?_ (by with_reducible assumption))
    | (with_reducible apply State.permGrant_keeps) | (with_reducible refine State.permGrant_eq _ _ ?_ (by with_reducible assumption))
    | (with_reducible apply State.settleColl_keeps)
    | with_reducible apply State.Keeps.ite | with_reducible apply State.Keeps.ite1 | with_reducible apply State.Keeps.ite2 | with_reducible apply State.Keeps.elim
    | with_reducible apply State.Keeps.foldl | with_reducible apply State.Keeps.foldl1 | with_reducible apply State.Keeps.foldl2 | with_reducible apply State.Keeps.foldl22
    | simp only [↓State.Keeps.upd, ↓State.Keeps.updFlash, ↓State.Keeps.updPoison]
    | split
    | dsimp only

theorem execChunkReceive_keeps {orig : State} (pn : Pennant) (upset : Bool × Bool) {s : State} (h2 : orig.Keeps s) :
    orig.KeepsOut (execChunkReceive pn upset s) := by
  unfold execChunkReceive
  repeat' first
    | with_reducible assumption
    | intro _
    | with_reducible apply State.KeepsOut.next
    | (with_reducible apply State.chunkReceive_keeps)
    | with_reducible apply State.Keeps.ite | with_reducible apply State.Keeps.ite1 | with_reducible apply State.Keeps.ite2 | with_reducible apply State.Keeps.elim
    | with_reducible apply State.Keeps.foldl | with_reducible apply State.Keeps.foldl1 | with_reducible apply State.Keeps.foldl2 | with_reducible apply State.Keeps.foldl22
    | simp only [↓State.Keeps.upd, ↓State.Keeps.updFlash, ↓State.Keeps.updPoison]
    | split
    | dsimp only

theorem execChunkCreditReceive_keeps {orig : State} (pn : Pennant) {s : State} (h1 : orig.Keeps s) :
    orig.KeepsOut (execChunkCreditReceive pn s) := by
  unfold execChunkCreditReceive
  repeat' first
    | with_reducible assumption
    | intro _
    | with_reducible apply State.KeepsOut.next
    | (with_reducible apply State.takeIn_keeps) | (with_reducible apply State.dup_keeps) | (with_reducible apply State.putColl_keeps)
    | with_reducible apply State.Keeps.ite | with_reducible apply State.Keeps.ite1 | with_reducible apply State.Keeps.ite2 | with_reducible apply State.Keeps.elim
    | with_reducible apply State.Keeps.foldl | with_reducible apply State.Keeps.foldl1 | with_reducible apply State.Keeps.foldl2 | with_reducible apply State.Keeps.foldl22
    | simp only [↓State.Keeps.upd, ↓State.Keeps.updFlash, ↓State.Keeps.updPoison]
    | split
    | dsimp only

theorem State.countReceive_keeps {orig : State} {s : State} (pn : Pennant) (h0 : orig.Keeps s) :
    orig.Keeps (State.countReceive s pn) := by
  unfold State.countReceive
  repeat' first
    | with_reducible assumption
    | intro _
    | (with_reducible apply State.takeIn_keeps) | (with_reducible apply State.dup_keeps) | (with_reducible apply State.hostAnswer_keeps)
    | (with_reducible refine State.hostAnswer_eq _ ?_ (by with_reducible assumption)) | (with_reducible apply State.expertSend_keeps)
    | (with_reducible refine State.expertSend_eq _ ?_ (by with_reducible assumption)) | (with_reducible apply State.settleColl_keeps)
    | (with_reducible apply State.abortColl_keeps) | (with_reducible apply State.permGrant_keeps)
    | (with_reducible refine State.permGrant_eq _ _ ?_ (by with_reducible assumption)) | (with_reducible apply State.putColl_keeps)
    | with_reducible apply State.Keeps.ite | with_reducible apply State.Keeps.ite1 | with_reducible apply State.Keeps.ite2 | with_reducible apply State.Keeps.elim
    | with_reducible apply State.Keeps.foldl | with_reducible apply State.Keeps.foldl1 | with_reducible apply State.Keeps.foldl2 | with_reducible apply State.Keeps.foldl22
    | simp only [↓State.Keeps.upd, ↓State.Keeps.updFlash, ↓State.Keeps.updPoison]
    | split
    | dsimp only

theorem execCountReceive_keeps {orig : State} (pn : Pennant) {s : State} (h1 : orig.Keeps s) :
    orig.KeepsOut (execCountReceive pn s) := by
  unfold execCountReceive
  repeat' first
    | with_reducible assumption
    | intro _
    | with_reducible apply State.KeepsOut.next
    | (with_reducible apply State.countReceive_keeps)
    | with_reducible apply State.Keeps.ite | with_reducible apply State.Keeps.ite1 | with_reducible apply State.Keeps.ite2 | with_reducible apply State.Keeps.elim
    | with_reducible apply State.Keeps.foldl | with_reducible apply State.Keeps.foldl1 | with_reducible apply State.Keeps.foldl2 | with_reducible apply State.Keeps.foldl22
    | simp only [↓State.Keeps.upd, ↓State.Keeps.updFlash, ↓State.Keeps.updPoison]
    | split
    | dsimp only

theorem State.stageAccept_keeps {orig : State} {s : State} (u : Nat) (h0 : orig.Keeps s) :
    orig.Keeps (State.stageAccept s u) := by
  unfold State.stageAccept
  repeat' first
    | with_reducible assumption
    | intro _
    | (with_reducible apply State.openStep_keeps) | (with_reducible apply State.setUsed_keeps)
    | (with_reducible apply State.chunkLanded_keeps)
    | (with_reducible refine State.chunkLanded_eq _ _ _ _ _ ?_ (by with_reducible assumption))
    | (with_reducible apply State.grant_keeps) | (with_reducible refine State.grant_eq _ _ ?_ (by with_reducible assumption))
    | (with_reducible apply State.settleColl_keeps)
    | with_reducible apply State.Keeps.ite | with_reducible apply State.Keeps.ite1 | with_reducible apply State.Keeps.ite2 | with_reducible apply State.Keeps.elim
    | with_reducible apply State.Keeps.foldl | with_reducible apply State.Keeps.foldl1 | with_reducible apply State.Keeps.foldl2 | with_reducible apply State.Keeps.foldl22
    | simp only [↓State.Keeps.upd, ↓State.Keeps.updFlash, ↓State.Keeps.updPoison]
    | split
    | dsimp only

theorem execChunkStageAccept_keeps {orig : State} (u : Fin 12) {s : State} (h1 : orig.Keeps s) :
    orig.KeepsOut (execChunkStageAccept u s) := by
  unfold execChunkStageAccept
  repeat' first
    | with_reducible assumption
    | intro _
    | with_reducible apply State.KeepsOut.next
    | (with_reducible apply State.stageAccept_keeps)
    | with_reducible apply State.Keeps.ite | with_reducible apply State.Keeps.ite1 | with_reducible apply State.Keeps.ite2 | with_reducible apply State.Keeps.elim
    | with_reducible apply State.Keeps.foldl | with_reducible apply State.Keeps.foldl1 | with_reducible apply State.Keeps.foldl2 | with_reducible apply State.Keeps.foldl22
    | simp only [↓State.Keeps.upd, ↓State.Keeps.updFlash, ↓State.Keeps.updPoison]
    | split
    | dsimp only

theorem execCollectivePark_keeps {orig : State} (ctx : CtxId) (g : Fin 16) (e : Epoch) {s : State} (h3 : orig.Keeps s) :
    orig.KeepsOut (execCollectivePark ctx g e s) := by
  unfold execCollectivePark
  repeat' first
    | with_reducible assumption
    | intro _
    | with_reducible apply State.KeepsOut.next
    | (with_reducible apply State.setFld_keeps) | (with_reducible apply State.putColl_keeps)
    | with_reducible apply State.Keeps.ite | with_reducible apply State.Keeps.ite1 | with_reducible apply State.Keeps.ite2 | with_reducible apply State.Keeps.elim
    | with_reducible apply State.Keeps.foldl | with_reducible apply State.Keeps.foldl1 | with_reducible apply State.Keeps.foldl2 | with_reducible apply State.Keeps.foldl22
    | simp only [↓State.Keeps.upd, ↓State.Keeps.updFlash, ↓State.Keeps.updPoison]
    | split
    | dsimp only

theorem State.unpark_keeps {orig : State} {s : State} (n : Nat) (h0 : orig.Keeps s) :
    orig.Keeps (State.unpark s n) := by
  unfold State.unpark
  repeat' first
    | with_reducible assumption
    | intro _
    | (with_reducible apply State.sendCredit_keeps) | (with_reducible apply State.permGrant_keeps)
    | (with_reducible refine State.permGrant_eq _ _ ?_ (by with_reducible assumption)) | (with_reducible apply State.putColl_keeps)
    | with_reducible apply State.Keeps.ite | with_reducible apply State.Keeps.ite1 | with_reducible apply State.Keeps.ite2 | with_reducible apply State.Keeps.elim
    | with_reducible apply State.Keeps.foldl | with_reducible apply State.Keeps.foldl1 | with_reducible apply State.Keeps.foldl2 | with_reducible apply State.Keeps.foldl22
    | simp only [↓State.Keeps.upd, ↓State.Keeps.updFlash, ↓State.Keeps.updPoison]
    | split
    | dsimp only

theorem State.issueColl_keeps {orig : State} {s : State} (key : Nat) (q : QEntry) (d : List Word) (h0 : orig.Keeps s) :
    orig.Keeps (State.issueColl s key q d) := by
  unfold State.issueColl
  repeat' first
    | with_reducible assumption
    | intro _
    | (with_reducible apply State.modCore_keeps) | (with_reducible apply State.popQueue_keeps)
    | (with_reducible apply State.engFault_keeps) | (with_reducible apply State.setFld_keeps)
    | (with_reducible apply State.colFlight_keeps)
    | with_reducible apply State.Keeps.ite | with_reducible apply State.Keeps.ite1 | with_reducible apply State.Keeps.ite2 | with_reducible apply State.Keeps.elim
    | with_reducible apply State.Keeps.foldl | with_reducible apply State.Keeps.foldl1 | with_reducible apply State.Keeps.foldl2 | with_reducible apply State.Keeps.foldl22
    | simp only [↓State.Keeps.upd, ↓State.Keeps.updFlash, ↓State.Keeps.updPoison]
    | split
    | dsimp only

theorem State.startColl_keeps {orig : State} {s : State} (key : Nat) (q : QEntry) (h0 : orig.Keeps s) :
    orig.Keeps (State.startColl s key q) := by
  unfold State.startColl
  repeat' first
    | with_reducible assumption
    | intro _
    | (with_reducible apply State.issueColl_keeps) | (with_reducible apply State.engFault_keeps)
    | (with_reducible apply State.popQueue_keeps) | (with_reducible apply State.poisonRecord_keeps)
    | with_reducible apply State.Keeps.ite | with_reducible apply State.Keeps.ite1 | with_reducible apply State.Keeps.ite2 | with_reducible apply State.Keeps.elim
    | with_reducible apply State.Keeps.foldl | with_reducible apply State.Keeps.foldl1 | with_reducible apply State.Keeps.foldl2 | with_reducible apply State.Keeps.foldl22
    | simp only [↓State.Keeps.upd, ↓State.Keeps.updFlash, ↓State.Keeps.updPoison]
    | split
    | dsimp only

theorem State.startColStat_keeps {orig : State} {s : State} (key : Nat) (q : QEntry) (h0 : orig.Keeps s) :
    orig.Keeps (State.startColStat s key q) := by
  unfold State.startColStat
  repeat' first
    | with_reducible assumption
    | intro _
    | (with_reducible apply State.complete_keeps) | (with_reducible apply State.writePend_keeps)
    | (with_reducible apply State.popQueue_keeps)
    | with_reducible apply State.Keeps.ite | with_reducible apply State.Keeps.ite1 | with_reducible apply State.Keeps.ite2 | with_reducible apply State.Keeps.elim
    | with_reducible apply State.Keeps.foldl | with_reducible apply State.Keeps.foldl1 | with_reducible apply State.Keeps.foldl2 | with_reducible apply State.Keeps.foldl22
    | simp only [↓State.Keeps.upd, ↓State.Keeps.updFlash, ↓State.Keeps.updPoison]
    | split
    | dsimp only

theorem State.startColAbort_keeps {orig : State} {s : State} (key : Nat) (q : QEntry) (h0 : orig.Keeps s) :
    orig.Keeps (State.startColAbort s key q) := by
  unfold State.startColAbort
  repeat' first
    | with_reducible assumption
    | intro _
    | (with_reducible apply State.popQueue_keeps) | (with_reducible apply State.abortColl_keeps)
    | (with_reducible apply State.complete_keeps)
    | with_reducible apply State.Keeps.ite | with_reducible apply State.Keeps.ite1 | with_reducible apply State.Keeps.ite2 | with_reducible apply State.Keeps.elim
    | with_reducible apply State.Keeps.foldl | with_reducible apply State.Keeps.foldl1 | with_reducible apply State.Keeps.foldl2 | with_reducible apply State.Keeps.foldl22
    | simp only [↓State.Keeps.upd, ↓State.Keeps.updFlash, ↓State.Keeps.updPoison]
    | split
    | dsimp only

theorem execAbortReceive_keeps {orig : State} (gkey : BitVec 16) (e : Epoch) (cause : Nat) {s : State} (h3 : orig.Keeps s) :
    orig.KeepsOut (execAbortReceive gkey e cause s) := by
  unfold execAbortReceive
  repeat' first
    | with_reducible assumption
    | intro _
    | with_reducible apply State.KeepsOut.next
    | (with_reducible apply State.endColl_keeps)
    | with_reducible apply State.Keeps.ite | with_reducible apply State.Keeps.ite1 | with_reducible apply State.Keeps.ite2 | with_reducible apply State.Keeps.elim
    | with_reducible apply State.Keeps.foldl | with_reducible apply State.Keeps.foldl1 | with_reducible apply State.Keeps.foldl2 | with_reducible apply State.Keeps.foldl22
    | simp only [↓State.Keeps.upd, ↓State.Keeps.updFlash, ↓State.Keeps.updPoison]
    | split
    | dsimp only

end Sys2Proof.Machine
end

