-- ==== Sys2Proof/Laws/KeepVote.lean ====
section
/-! SUPPORT. What the operations of Machine/Vote.lean keep. -/

set_option linter.all false

namespace Sys2Proof.Machine

theorem State.sendVote_keeps {orig : State} {s : State} (n : CtxId) (rank : Nat) (step : Nat) (kind : Nat) (flags : Nat) (reason : Nat) (brank : Nat) (vd : Word) (g2 : Elem) (h0 : orig.Keeps s) :
    orig.Keeps (State.sendVote s n rank step kind flags reason brank vd g2) := by
  unfold State.sendVote
  repeat' first
    | with_reducible assumption
    | intro _
    | (with_reducible apply State.sendPen_keeps)
    | (with_reducible refine State.sendPen_eq _ _ _ _ _ _ _ _ _ _ ?_ (by with_reducible assumption))
    | with_reducible apply State.Keeps.ite | with_reducible apply State.Keeps.ite1 | with_reducible apply State.Keeps.ite2 | with_reducible apply State.Keeps.elim
    | with_reducible apply State.Keeps.foldl | with_reducible apply State.Keeps.foldl1 | with_reducible apply State.Keeps.foldl2 | with_reducible apply State.Keeps.foldl22
    | simp only [↓State.Keeps.upd, ↓State.Keeps.updFlash, ↓State.Keeps.updPoison]
    | split
    | dsimp only

theorem State.failStep_keeps {orig : State} {s : State} (n : CtxId) (st : Nat) (reason : Nat) (brank : Nat) (h0 : orig.Keeps s) :
    orig.Keeps (State.failStep s n st reason brank) := by
  unfold State.failStep
  repeat' first
    | with_reducible assumption
    | intro _
    | (with_reducible apply State.poisonStep_keeps) | (with_reducible apply State.setFld_keeps)
    | (with_reducible apply State.postCol_keeps)
    | with_reducible apply State.Keeps.ite | with_reducible apply State.Keeps.ite1 | with_reducible apply State.Keeps.ite2 | with_reducible apply State.Keeps.elim
    | with_reducible apply State.Keeps.foldl | with_reducible apply State.Keeps.foldl1 | with_reducible apply State.Keeps.foldl2 | with_reducible apply State.Keeps.foldl22
    | simp only [↓State.Keeps.upd, ↓State.Keeps.updFlash, ↓State.Keeps.updPoison]
    | split
    | dsimp only

theorem State.voteEnd_keeps {orig : State} {s : State} (v : Vote) (h0 : orig.Keeps s) :
    orig.Keeps (State.voteEnd s v) := by
  unfold State.voteEnd
  repeat' first
    | with_reducible assumption
    | intro _
    | (with_reducible apply State.colDone_keeps) | (with_reducible apply State.writePend_keeps)
    | with_reducible apply State.Keeps.ite | with_reducible apply State.Keeps.ite1 | with_reducible apply State.Keeps.ite2 | with_reducible apply State.Keeps.elim
    | with_reducible apply State.Keeps.foldl | with_reducible apply State.Keeps.foldl1 | with_reducible apply State.Keeps.foldl2 | with_reducible apply State.Keeps.foldl22
    | simp only [↓State.Keeps.upd, ↓State.Keeps.updFlash, ↓State.Keeps.updPoison]
    | split
    | dsimp only

theorem State.votesOver_keeps {orig : State} {s : State} (n : CtxId) (st : Nat) (h0 : orig.Keeps s) :
    orig.Keeps (State.votesOver s n st) := by
  unfold State.votesOver
  repeat' first
    | with_reducible assumption
    | intro _
    | (with_reducible apply State.voteEnd_keeps)
    | with_reducible apply State.Keeps.ite | with_reducible apply State.Keeps.ite1 | with_reducible apply State.Keeps.ite2 | with_reducible apply State.Keeps.elim
    | with_reducible apply State.Keeps.foldl | with_reducible apply State.Keeps.foldl1 | with_reducible apply State.Keeps.foldl2 | with_reducible apply State.Keeps.foldl22
    | simp only [↓State.Keeps.upd, ↓State.Keeps.updFlash, ↓State.Keeps.updPoison]
    | split
    | dsimp only

theorem State.resolve__keeps {orig : State} {s : State} (n : CtxId) (st : Nat) (commit : Bool) (g2 : Elem) (reason : Nat) (brank : Nat) (h0 : orig.Keeps s) :
    orig.Keeps (State.resolve_ s n st commit g2 reason brank) := by
  unfold State.resolve_
  repeat' first
    | with_reducible assumption
    | intro _
    | (with_reducible apply State.votesOver_keeps) | (with_reducible apply State.commitStep_keeps)
    | (with_reducible apply State.failStep_keeps)
    | with_reducible apply State.Keeps.ite | with_reducible apply State.Keeps.ite1 | with_reducible apply State.Keeps.ite2 | with_reducible apply State.Keeps.elim
    | with_reducible apply State.Keeps.foldl | with_reducible apply State.Keeps.foldl1 | with_reducible apply State.Keeps.foldl2 | with_reducible apply State.Keeps.foldl22
    | simp only [↓State.Keeps.upd, ↓State.Keeps.updFlash, ↓State.Keeps.updPoison]
    | split
    | dsimp only

theorem State.sendResult_keeps {orig : State} {s : State} (n : CtxId) (st : Nat) (r1 : Nat) (flags : Nat) (reason : Nat) (brank : Nat) (g2 : Elem) (h0 : orig.Keeps s) :
    orig.Keeps (State.sendResult s n st r1 flags reason brank g2) := by
  unfold State.sendResult
  repeat' first
    | with_reducible assumption
    | intro _
    | (with_reducible apply State.sendVote_keeps)
    | with_reducible apply State.Keeps.ite | with_reducible apply State.Keeps.ite1 | with_reducible apply State.Keeps.ite2 | with_reducible apply State.Keeps.elim
    | with_reducible apply State.Keeps.foldl | with_reducible apply State.Keeps.foldl1 | with_reducible apply State.Keeps.foldl2 | with_reducible apply State.Keeps.foldl22
    | simp only [↓State.Keeps.upd, ↓State.Keeps.updFlash, ↓State.Keeps.updPoison]
    | split
    | dsimp only

theorem State.passToken_keeps {orig : State} {s : State} (n : CtxId) (st : Nat) (flags : Nat) (reason : Nat) (brank : Nat) (vd : Word) (g2 : Elem) (h0 : orig.Keeps s) :
    orig.Keeps (State.passToken s n st flags reason brank vd g2) := by
  unfold State.passToken
  repeat' first
    | with_reducible assumption
    | intro _
    | (with_reducible apply State.setStep_keeps) | (with_reducible apply State.sendVote_keeps)
    | with_reducible apply State.Keeps.ite | with_reducible apply State.Keeps.ite1 | with_reducible apply State.Keeps.ite2 | with_reducible apply State.Keeps.elim
    | with_reducible apply State.Keeps.foldl | with_reducible apply State.Keeps.foldl1 | with_reducible apply State.Keeps.foldl2 | with_reducible apply State.Keeps.foldl22
    | simp only [↓State.Keeps.upd, ↓State.Keeps.updFlash, ↓State.Keeps.updPoison]
    | split
    | dsimp only

theorem State.voteAdvance_keeps {orig : State} {s : State} (n : CtxId) (h0 : orig.Keeps s) :
    orig.Keeps (State.voteAdvance s n) := by
  unfold State.voteAdvance
  repeat' first
    | with_reducible assumption
    | intro _
    | (with_reducible apply State.passToken_keeps)
    | with_reducible apply State.Keeps.ite | with_reducible apply State.Keeps.ite1 | with_reducible apply State.Keeps.ite2 | with_reducible apply State.Keeps.elim
    | with_reducible apply State.Keeps.foldl | with_reducible apply State.Keeps.foldl1 | with_reducible apply State.Keeps.foldl2 | with_reducible apply State.Keeps.foldl22
    | simp only [↓State.Keeps.upd, ↓State.Keeps.updFlash, ↓State.Keeps.updPoison]
    | split
    | dsimp only

theorem execVoteReady_keeps {orig : State} (ctx : CtxId) (step : StepNo) {s : State} (h2 : orig.Keeps s) :
    orig.KeepsOut (execVoteReady ctx step s) := by
  unfold execVoteReady
  repeat' first
    | with_reducible assumption
    | intro _
    | with_reducible apply State.KeepsOut.next
    | (with_reducible apply State.voteAdvance_keeps) | (with_reducible apply State.formPartial_keeps)
    | with_reducible apply State.Keeps.ite | with_reducible apply State.Keeps.ite1 | with_reducible apply State.Keeps.ite2 | with_reducible apply State.Keeps.elim
    | with_reducible apply State.Keeps.foldl | with_reducible apply State.Keeps.foldl1 | with_reducible apply State.Keeps.foldl2 | with_reducible apply State.Keeps.foldl22
    | simp only [↓State.Keeps.upd, ↓State.Keeps.updFlash, ↓State.Keeps.updPoison]
    | split
    | dsimp only

theorem State.voteProgress_keeps {orig : State} {s : State} (n : CtxId) (h0 : orig.Keeps s) :
    orig.Keeps (State.voteProgress s n) := by
  unfold State.voteProgress
  repeat' first
    | with_reducible assumption
    | intro _
    | with_reducible apply State.Keeps.ite | with_reducible apply State.Keeps.ite1 | with_reducible apply State.Keeps.ite2 | with_reducible apply State.Keeps.elim
    | with_reducible apply State.Keeps.foldl | with_reducible apply State.Keeps.foldl1 | with_reducible apply State.Keeps.foldl2 | with_reducible apply State.Keeps.foldl22
    | simp only [↓State.Keeps.upd, ↓State.Keeps.updFlash, ↓State.Keeps.updPoison]
    | split
    | dsimp only

theorem State.tokenReceive_keeps {orig : State} {s : State} (pn : Pennant) (h0 : orig.Keeps s) :
    orig.Keeps (State.tokenReceive s pn) := by
  unfold State.tokenReceive
  repeat' first
    | with_reducible assumption
    | intro _
    | (with_reducible apply State.takeIn_keeps) | (with_reducible apply State.voteProgress_keeps)
    | (with_reducible apply State.sendResult_keeps) | (with_reducible apply State.voteAdvance_keeps)
    | (with_reducible apply State.resolve__keeps)
    | with_reducible apply State.Keeps.ite | with_reducible apply State.Keeps.ite1 | with_reducible apply State.Keeps.ite2 | with_reducible apply State.Keeps.elim
    | with_reducible apply State.Keeps.foldl | with_reducible apply State.Keeps.foldl1 | with_reducible apply State.Keeps.foldl2 | with_reducible apply State.Keeps.foldl22
    | simp only [↓State.Keeps.upd, ↓State.Keeps.updFlash, ↓State.Keeps.updPoison]
    | split
    | dsimp only

theorem execVoteTokenReceive_keeps {orig : State} (pn : Pennant) {s : State} (h1 : orig.Keeps s) :
    orig.KeepsOut (execVoteTokenReceive pn s) := by
  unfold execVoteTokenReceive
  repeat' first
    | with_reducible assumption
    | intro _
    | with_reducible apply State.KeepsOut.next
    | (with_reducible apply State.tokenReceive_keeps)
    | with_reducible apply State.Keeps.ite | with_reducible apply State.Keeps.ite1 | with_reducible apply State.Keeps.ite2 | with_reducible apply State.Keeps.elim
    | with_reducible apply State.Keeps.foldl | with_reducible apply State.Keeps.foldl1 | with_reducible apply State.Keeps.foldl2 | with_reducible apply State.Keeps.foldl22
    | simp only [↓State.Keeps.upd, ↓State.Keeps.updFlash, ↓State.Keeps.updPoison]
    | split
    | dsimp only

theorem State.resultReceive_keeps {orig : State} {s : State} (pn : Pennant) (h0 : orig.Keeps s) :
    orig.Keeps (State.resultReceive s pn) := by
  unfold State.resultReceive
  repeat' first
    | with_reducible assumption
    | intro _
    | (with_reducible apply State.takeIn_keeps) | (with_reducible apply State.sendResult_keeps)
    | (with_reducible apply State.voteProgress_keeps) | (with_reducible apply State.voteAdvance_keeps)
    | (with_reducible apply State.resolve__keeps)
    | with_reducible apply State.Keeps.ite | with_reducible apply State.Keeps.ite1 | with_reducible apply State.Keeps.ite2 | with_reducible apply State.Keeps.elim
    | with_reducible apply State.Keeps.foldl | with_reducible apply State.Keeps.foldl1 | with_reducible apply State.Keeps.foldl2 | with_reducible apply State.Keeps.foldl22
    | simp only [↓State.Keeps.upd, ↓State.Keeps.updFlash, ↓State.Keeps.updPoison]
    | split
    | dsimp only

theorem execVoteResultReceive_keeps {orig : State} (pn : Pennant) {s : State} (h1 : orig.Keeps s) :
    orig.KeepsOut (execVoteResultReceive pn s) := by
  unfold execVoteResultReceive
  repeat' first
    | with_reducible assumption
    | intro _
    | with_reducible apply State.KeepsOut.next
    | (with_reducible apply State.resultReceive_keeps)
    | with_reducible apply State.Keeps.ite | with_reducible apply State.Keeps.ite1 | with_reducible apply State.Keeps.ite2 | with_reducible apply State.Keeps.elim
    | with_reducible apply State.Keeps.foldl | with_reducible apply State.Keeps.foldl1 | with_reducible apply State.Keeps.foldl2 | with_reducible apply State.Keeps.foldl22
    | simp only [↓State.Keeps.upd, ↓State.Keeps.updFlash, ↓State.Keeps.updPoison]
    | split
    | dsimp only

theorem State.voteDown_keeps {orig : State} {s : State} (n : CtxId) (h0 : orig.Keeps s) :
    orig.Keeps (State.voteDown s n) := by
  unfold State.voteDown
  repeat' first
    | with_reducible assumption
    | intro _
    | (with_reducible apply State.sendResult_keeps) | (with_reducible apply State.resolve__keeps)
    | with_reducible apply State.Keeps.ite | with_reducible apply State.Keeps.ite1 | with_reducible apply State.Keeps.ite2 | with_reducible apply State.Keeps.elim
    | with_reducible apply State.Keeps.foldl | with_reducible apply State.Keeps.foldl1 | with_reducible apply State.Keeps.foldl2 | with_reducible apply State.Keeps.foldl22
    | simp only [↓State.Keeps.upd, ↓State.Keeps.updFlash, ↓State.Keeps.updPoison]
    | split
    | dsimp only

theorem execVoteResultTimeout_keeps {orig : State} (ctx : CtxId) {s : State} (h1 : orig.Keeps s) :
    orig.KeepsOut (execVoteResultTimeout ctx s) := by
  unfold execVoteResultTimeout
  repeat' first
    | with_reducible assumption
    | intro _
    | with_reducible apply State.KeepsOut.next
    | (with_reducible apply State.voteAdvance_keeps) | (with_reducible apply State.resolve__keeps)
    | with_reducible apply State.Keeps.ite | with_reducible apply State.Keeps.ite1 | with_reducible apply State.Keeps.ite2 | with_reducible apply State.Keeps.elim
    | with_reducible apply State.Keeps.foldl | with_reducible apply State.Keeps.foldl1 | with_reducible apply State.Keeps.foldl2 | with_reducible apply State.Keeps.foldl22
    | simp only [↓State.Keeps.upd, ↓State.Keeps.updFlash, ↓State.Keeps.updPoison]
    | split
    | dsimp only

theorem State.keyDown_keeps {orig : State} {s : State} (key : Nat) (h0 : orig.Keeps s) :
    orig.Keeps (State.keyDown s key) := by
  unfold State.keyDown
  repeat' first
    | with_reducible assumption
    | intro _
    | (with_reducible apply State.endColls_keeps) | (with_reducible apply State.voteDown_keeps)
    | with_reducible apply State.Keeps.ite | with_reducible apply State.Keeps.ite1 | with_reducible apply State.Keeps.ite2 | with_reducible apply State.Keeps.elim
    | with_reducible apply State.Keeps.foldl | with_reducible apply State.Keeps.foldl1 | with_reducible apply State.Keeps.foldl2 | with_reducible apply State.Keeps.foldl22
    | simp only [↓State.Keeps.upd, ↓State.Keeps.updFlash, ↓State.Keeps.updPoison]
    | split
    | dsimp only

theorem State.vc1Unreachable_keeps {orig : State} {s : State} (pn : Pennant) (h0 : orig.Keeps s) :
    orig.Keeps (State.vc1Unreachable s pn) := by
  unfold State.vc1Unreachable
  repeat' first
    | with_reducible assumption
    | intro _
    | (with_reducible apply State.abortColl_keeps) | (with_reducible apply State.voteDown_keeps)
    | with_reducible apply State.Keeps.ite | with_reducible apply State.Keeps.ite1 | with_reducible apply State.Keeps.ite2 | with_reducible apply State.Keeps.elim
    | with_reducible apply State.Keeps.foldl | with_reducible apply State.Keeps.foldl1 | with_reducible apply State.Keeps.foldl2 | with_reducible apply State.Keeps.foldl22
    | simp only [↓State.Keeps.upd, ↓State.Keeps.updFlash, ↓State.Keeps.updPoison]
    | split
    | dsimp only

theorem State.sendProbe_keeps {orig : State} {s : State} (l : List GAx) (rank : Nat) (p : Probe) (h0 : orig.Keeps s) :
    orig.Keeps (State.sendProbe s l rank p) := by
  unfold State.sendProbe
  repeat' first
    | with_reducible assumption
    | intro _
    | (with_reducible apply State.sendMsg_keeps)
    | with_reducible apply State.Keeps.ite | with_reducible apply State.Keeps.ite1 | with_reducible apply State.Keeps.ite2 | with_reducible apply State.Keeps.elim
    | with_reducible apply State.Keeps.foldl | with_reducible apply State.Keeps.foldl1 | with_reducible apply State.Keeps.foldl2 | with_reducible apply State.Keeps.foldl22
    | simp only [↓State.Keeps.upd, ↓State.Keeps.updFlash, ↓State.Keeps.updPoison]
    | split
    | dsimp only

theorem State.stall_keeps {orig : State} {s : State} (n : CtxId) (g : Nat) (e : Option Epoch) (waitUs : Nat) (h0 : orig.Keeps s) :
    orig.Keeps (State.stall s n g e waitUs) := by
  unfold State.stall
  repeat' first
    | with_reducible assumption
    | intro _
    | (with_reducible apply State.sendProbe_keeps) | (with_reducible apply State.putColl_keeps)
    | with_reducible apply State.Keeps.ite | with_reducible apply State.Keeps.ite1 | with_reducible apply State.Keeps.ite2 | with_reducible apply State.Keeps.elim
    | with_reducible apply State.Keeps.foldl | with_reducible apply State.Keeps.foldl1 | with_reducible apply State.Keeps.foldl2 | with_reducible apply State.Keeps.foldl22
    | simp only [↓State.Keeps.upd, ↓State.Keeps.updFlash, ↓State.Keeps.updPoison]
    | split
    | dsimp only

theorem execStallWatchdog_keeps {orig : State} (ctx : CtxId) (g : Fin 16) (e : Option Epoch) (waitUs : Nat) {s : State} (h4 : orig.Keeps s) :
    orig.KeepsOut (execStallWatchdog ctx g e waitUs s) := by
  unfold execStallWatchdog
  repeat' first
    | with_reducible assumption
    | intro _
    | with_reducible apply State.KeepsOut.next
    | (with_reducible apply State.stall_keeps)
    | with_reducible apply State.Keeps.ite | with_reducible apply State.Keeps.ite1 | with_reducible apply State.Keeps.ite2 | with_reducible apply State.Keeps.elim
    | with_reducible apply State.Keeps.foldl | with_reducible apply State.Keeps.foldl1 | with_reducible apply State.Keeps.foldl2 | with_reducible apply State.Keeps.foldl22
    | simp only [↓State.Keeps.upd, ↓State.Keeps.updFlash, ↓State.Keeps.updPoison]
    | split
    | dsimp only

theorem State.stallReport_keeps {orig : State} {s : State} (n : CtxId) (g : Nat) (p : Probe) (h0 : orig.Keeps s) :
    orig.Keeps (State.stallReport s n g p) := by
  unfold State.stallReport
  repeat' first
    | with_reducible assumption
    | intro _
    | (with_reducible apply State.postCol_keeps) | (with_reducible apply State.setFld_keeps) | (with_reducible apply State.csrSet_keeps)
    | with_reducible apply State.Keeps.ite | with_reducible apply State.Keeps.ite1 | with_reducible apply State.Keeps.ite2 | with_reducible apply State.Keeps.elim
    | with_reducible apply State.Keeps.foldl | with_reducible apply State.Keeps.foldl1 | with_reducible apply State.Keeps.foldl2 | with_reducible apply State.Keeps.foldl22
    | simp only [↓State.Keeps.upd, ↓State.Keeps.updFlash, ↓State.Keeps.updPoison]
    | split
    | dsimp only

theorem execProbeReceive_keeps {orig : State} (pr : Probe) {s : State} (h1 : orig.Keeps s) :
    orig.KeepsOut (execProbeReceive pr s) := by
  unfold execProbeReceive
  repeat' first
    | with_reducible assumption
    | intro _
    | with_reducible apply State.KeepsOut.next
    | (with_reducible apply State.stallReport_keeps) | (with_reducible apply State.sendProbe_keeps)
    | (with_reducible apply State.sendMsg_keeps)
    | with_reducible apply State.Keeps.ite | with_reducible apply State.Keeps.ite1 | with_reducible apply State.Keeps.ite2 | with_reducible apply State.Keeps.elim
    | with_reducible apply State.Keeps.foldl | with_reducible apply State.Keeps.foldl1 | with_reducible apply State.Keeps.foldl2 | with_reducible apply State.Keeps.foldl22
    | simp only [↓State.Keeps.upd, ↓State.Keeps.updFlash, ↓State.Keeps.updPoison]
    | split
    | dsimp only

theorem State.startColCmt_keeps {orig : State} {s : State} (key : Nat) (q : QEntry) (h0 : orig.Keeps s) :
    orig.Keeps (State.startColCmt s key q) := by
  unfold State.startColCmt
  repeat' first
    | with_reducible assumption
    | intro _
    | (with_reducible apply State.popQueue_keeps) | (with_reducible apply State.engFault_keeps)
    | (with_reducible apply State.openStep_keeps) | (with_reducible apply State.colFlight_keeps)
    | with_reducible apply State.Keeps.ite | with_reducible apply State.Keeps.ite1 | with_reducible apply State.Keeps.ite2 | with_reducible apply State.Keeps.elim
    | with_reducible apply State.Keeps.foldl | with_reducible apply State.Keeps.foldl1 | with_reducible apply State.Keeps.foldl2 | with_reducible apply State.Keeps.foldl22
    | simp only [↓State.Keeps.upd, ↓State.Keeps.updFlash, ↓State.Keeps.updPoison]
    | split
    | dsimp only

end Sys2Proof.Machine
end

