-- ==== Sys2Proof/Laws/KeepPort.lean ====
section
/-! SUPPORT. What the operations of Machine/Port.lean keep. -/

set_option linter.all false

namespace Sys2Proof.Machine

theorem State.fabEvt_keeps {orig : State} {s : State} (p : Nat) (f : Fld) (h0 : orig.Keeps s) :
    orig.Keeps (State.fabEvt s p f) := by
  unfold State.fabEvt
  repeat' first
    | with_reducible assumption
    | intro _
    | (with_reducible apply State.setFld_keeps) | (with_reducible apply State.notice_keeps) | (with_reducible apply State.postPfs_keeps)
    | with_reducible apply State.Keeps.ite | with_reducible apply State.Keeps.ite1 | with_reducible apply State.Keeps.ite2 | with_reducible apply State.Keeps.elim
    | with_reducible apply State.Keeps.foldl | with_reducible apply State.Keeps.foldl1 | with_reducible apply State.Keeps.foldl2 | with_reducible apply State.Keeps.foldl22
    | simp only [↓State.Keeps.upd, ↓State.Keeps.updFlash, ↓State.Keeps.updPoison]
    | split
    | dsimp only

theorem State.fabEvtIf_keeps {orig : State} {s : State} (p : Nat) (f : Fld) (b : Bool) (h0 : orig.Keeps s) :
    orig.Keeps (State.fabEvtIf s p f b) := by
  unfold State.fabEvtIf
  repeat' first
    | with_reducible assumption
    | intro _
    | (with_reducible apply State.fabEvt_keeps)
    | with_reducible apply State.Keeps.ite | with_reducible apply State.Keeps.ite1 | with_reducible apply State.Keeps.ite2 | with_reducible apply State.Keeps.elim
    | with_reducible apply State.Keeps.foldl | with_reducible apply State.Keeps.foldl1 | with_reducible apply State.Keeps.foldl2 | with_reducible apply State.Keeps.foldl22
    | simp only [↓State.Keeps.upd, ↓State.Keeps.updFlash, ↓State.Keeps.updPoison]
    | split
    | dsimp only

theorem State.portRecord_keeps {orig : State} {s : State} (p : Nat) (h0 : orig.Keeps s) :
    orig.Keeps (State.portRecord s p) := by
  unfold State.portRecord
  repeat' first
    | with_reducible assumption
    | intro _
    | (with_reducible apply State.openRecord_keeps) | (with_reducible refine State.openRecord_eq _ _ ?_ (by with_reducible assumption))
    | with_reducible apply State.Keeps.ite | with_reducible apply State.Keeps.ite1 | with_reducible apply State.Keeps.ite2 | with_reducible apply State.Keeps.elim
    | with_reducible apply State.Keeps.foldl | with_reducible apply State.Keeps.foldl1 | with_reducible apply State.Keeps.foldl2 | with_reducible apply State.Keeps.foldl22
    | simp only [↓State.Keeps.upd, ↓State.Keeps.updFlash, ↓State.Keeps.updPoison]
    | split
    | dsimp only

theorem State.laneRecord_keeps {orig : State} {s : State} (p : Nat) (lane : Nat) (h0 : orig.Keeps s) :
    orig.Keeps (State.laneRecord s p lane) := by
  unfold State.laneRecord
  repeat' first
    | with_reducible assumption
    | intro _
    | (with_reducible apply State.openRecord_keeps) | (with_reducible refine State.openRecord_eq _ _ ?_ (by with_reducible assumption))
    | with_reducible apply State.Keeps.ite | with_reducible apply State.Keeps.ite1 | with_reducible apply State.Keeps.ite2 | with_reducible apply State.Keeps.elim
    | with_reducible apply State.Keeps.foldl | with_reducible apply State.Keeps.foldl1 | with_reducible apply State.Keeps.foldl2 | with_reducible apply State.Keeps.foldl22
    | simp only [↓State.Keeps.upd, ↓State.Keeps.updFlash, ↓State.Keeps.updPoison]
    | split
    | dsimp only

theorem State.setFsts_keeps {orig : State} {s : State} (p : Nat) (f : Fld) (v : Nat) (h0 : orig.Keeps s) :
    orig.Keeps (State.setFsts s p f v) := by
  unfold State.setFsts
  repeat' first
    | with_reducible assumption
    | intro _
    | (with_reducible apply State.setFld_keeps)
    | with_reducible apply State.Keeps.ite | with_reducible apply State.Keeps.ite1 | with_reducible apply State.Keeps.ite2 | with_reducible apply State.Keeps.elim
    | with_reducible apply State.Keeps.foldl | with_reducible apply State.Keeps.foldl1 | with_reducible apply State.Keeps.foldl2 | with_reducible apply State.Keeps.foldl22
    | simp only [↓State.Keeps.upd, ↓State.Keeps.updFlash, ↓State.Keeps.updPoison]
    | split
    | dsimp only

theorem State.setPst_keeps {orig : State} {s : State} (p : Nat) (st : Nat) (h0 : orig.Keeps s) :
    orig.Keeps (State.setPst s p st) := by
  unfold State.setPst
  repeat' first
    | with_reducible assumption
    | intro _
    | (with_reducible apply State.setFsts_keeps)
    | with_reducible apply State.Keeps.ite | with_reducible apply State.Keeps.ite1 | with_reducible apply State.Keeps.ite2 | with_reducible apply State.Keeps.elim
    | with_reducible apply State.Keeps.foldl | with_reducible apply State.Keeps.foldl1 | with_reducible apply State.Keeps.foldl2 | with_reducible apply State.Keeps.foldl22
    | simp only [↓State.Keeps.upd, ↓State.Keeps.updFlash, ↓State.Keeps.updPoison]
    | split
    | dsimp only

theorem State.detFail_keeps {orig : State} {s : State} (d : Nat) (h0 : orig.Keeps s) :
    orig.Keeps (State.detFail s d) := by
  unfold State.detFail
  repeat' first
    | with_reducible assumption
    | intro _
    | (with_reducible apply State.modDet_keeps) | (with_reducible apply State.postPfs_keeps)
    | (with_reducible apply State.halUnreachable_keeps)
    | with_reducible apply State.Keeps.ite | with_reducible apply State.Keeps.ite1 | with_reducible apply State.Keeps.ite2 | with_reducible apply State.Keeps.elim
    | with_reducible apply State.Keeps.foldl | with_reducible apply State.Keeps.foldl1 | with_reducible apply State.Keeps.foldl2 | with_reducible apply State.Keeps.foldl22
    | simp only [↓State.Keeps.upd, ↓State.Keeps.updFlash, ↓State.Keeps.updPoison]
    | split
    | dsimp only

theorem State.detNext_keeps {orig : State} {s : State} (d : Nat) (h0 : orig.Keeps s) :
    orig.Keeps (State.detNext s d) := by
  unfold State.detNext
  repeat' first
    | with_reducible assumption
    | intro _
    | (with_reducible apply State.sendMsg_keeps) | (with_reducible apply State.modDet_keeps)
    | (with_reducible apply State.detFail_keeps)
    | with_reducible apply State.Keeps.ite | with_reducible apply State.Keeps.ite1 | with_reducible apply State.Keeps.ite2 | with_reducible apply State.Keeps.elim
    | with_reducible apply State.Keeps.foldl | with_reducible apply State.Keeps.foldl1 | with_reducible apply State.Keeps.foldl2 | with_reducible apply State.Keeps.foldl22
    | simp only [↓State.Keeps.upd, ↓State.Keeps.updFlash, ↓State.Keeps.updPoison]
    | split
    | dsimp only

theorem State.detStart_keeps {orig : State} {s : State} (d : Nat) (h0 : orig.Keeps s) :
    orig.Keeps (State.detStart s d) := by
  unfold State.detStart
  repeat' first
    | with_reducible assumption
    | intro _
    | (with_reducible apply State.detNext_keeps) | (with_reducible apply State.modDet_keeps)
    | (with_reducible apply State.detFail_keeps)
    | with_reducible apply State.Keeps.ite | with_reducible apply State.Keeps.ite1 | with_reducible apply State.Keeps.ite2 | with_reducible apply State.Keeps.elim
    | with_reducible apply State.Keeps.foldl | with_reducible apply State.Keeps.foldl1 | with_reducible apply State.Keeps.foldl2 | with_reducible apply State.Keeps.foldl22
    | simp only [↓State.Keeps.upd, ↓State.Keeps.updFlash, ↓State.Keeps.updPoison]
    | split
    | dsimp only

theorem State.detEnd_keeps {orig : State} {s : State} (d : Nat) (h0 : orig.Keeps s) :
    orig.Keeps (State.detEnd s d) := by
  unfold State.detEnd
  repeat' first
    | with_reducible assumption
    | intro _
    | (with_reducible apply State.modDet_keeps) | (with_reducible apply State.sendMsg_keeps)
    | with_reducible apply State.Keeps.ite | with_reducible apply State.Keeps.ite1 | with_reducible apply State.Keeps.ite2 | with_reducible apply State.Keeps.elim
    | with_reducible apply State.Keeps.foldl | with_reducible apply State.Keeps.foldl1 | with_reducible apply State.Keeps.foldl2 | with_reducible apply State.Keeps.foldl22
    | simp only [↓State.Keeps.upd, ↓State.Keeps.updFlash, ↓State.Keeps.updPoison]
    | split
    | dsimp only

theorem State.reorigin_keeps {orig : State} {s : State} (p : Nat) (new : Option Nat) (h0 : orig.Keeps s) :
    orig.Keeps (State.reorigin s p new) := by
  unfold State.reorigin
  repeat' first
    | with_reducible assumption
    | intro _
    | with_reducible apply State.Keeps.ite | with_reducible apply State.Keeps.ite1 | with_reducible apply State.Keeps.ite2 | with_reducible apply State.Keeps.elim
    | with_reducible apply State.Keeps.foldl | with_reducible apply State.Keeps.foldl1 | with_reducible apply State.Keeps.foldl2 | with_reducible apply State.Keeps.foldl22
    | simp only [↓State.Keeps.upd, ↓State.Keeps.updFlash, ↓State.Keeps.updPoison]
    | split
    | dsimp only

theorem State.moveAreas_keeps {orig : State} {s : State} (p : Nat) (q : Nat) (h0 : orig.Keeps s) :
    orig.Keeps (State.moveAreas s p q) := by
  unfold State.moveAreas
  repeat' first
    | with_reducible assumption
    | intro _
    | (with_reducible apply State.writeMem_keeps)
    | with_reducible apply State.Keeps.ite | with_reducible apply State.Keeps.ite1 | with_reducible apply State.Keeps.ite2 | with_reducible apply State.Keeps.elim
    | with_reducible apply State.Keeps.foldl | with_reducible apply State.Keeps.foldl1 | with_reducible apply State.Keeps.foldl2 | with_reducible apply State.Keeps.foldl22
    | simp only [↓State.Keeps.upd, ↓State.Keeps.updFlash, ↓State.Keeps.updPoison]
    | split
    | dsimp only

theorem State.movePair_keeps {orig : State} {s : State} (p : Nat) (q : Nat) (h0 : orig.Keeps s) :
    orig.Keeps (State.movePair s p q) := by
  unfold State.movePair
  repeat' first
    | with_reducible assumption
    | intro _
    | (with_reducible apply State.moveAreas_keeps) | (with_reducible apply State.reorigin_keeps)
    | (with_reducible apply State.modFport_keeps)
    | with_reducible apply State.Keeps.ite | with_reducible apply State.Keeps.ite1 | with_reducible apply State.Keeps.ite2 | with_reducible apply State.Keeps.elim
    | with_reducible apply State.Keeps.foldl | with_reducible apply State.Keeps.foldl1 | with_reducible apply State.Keeps.foldl2 | with_reducible apply State.Keeps.foldl22
    | simp only [↓State.Keeps.upd, ↓State.Keeps.updFlash, ↓State.Keeps.updPoison]
    | split
    | dsimp only

theorem State.handOver_keeps {orig : State} {s : State} (p : Nat) (h0 : orig.Keeps s) :
    orig.Keeps (State.handOver s p) := by
  unfold State.handOver
  repeat' first
    | with_reducible assumption
    | intro _
    | (with_reducible apply State.movePair_keeps) | (with_reducible apply State.fabEvt_keeps)
    | (with_reducible apply State.setFsts_keeps) | (with_reducible apply State.modFport_keeps)
    | with_reducible apply State.Keeps.ite | with_reducible apply State.Keeps.ite1 | with_reducible apply State.Keeps.ite2 | with_reducible apply State.Keeps.elim
    | with_reducible apply State.Keeps.foldl | with_reducible apply State.Keeps.foldl1 | with_reducible apply State.Keeps.foldl2 | with_reducible apply State.Keeps.foldl22
    | simp only [↓State.Keeps.upd, ↓State.Keeps.updFlash, ↓State.Keeps.updPoison]
    | split
    | dsimp only

theorem State.portOff_keeps {orig : State} {s : State} (p : Nat) (h0 : orig.Keeps s) :
    orig.Keeps (State.portOff s p) := by
  unfold State.portOff
  repeat' first
    | with_reducible assumption
    | intro _
    | (with_reducible apply State.setFsts_keeps) | (with_reducible apply State.setFld_keeps)
    | (with_reducible apply State.detStart_keeps)
    | with_reducible apply State.Keeps.ite | with_reducible apply State.Keeps.ite1 | with_reducible apply State.Keeps.ite2 | with_reducible apply State.Keeps.elim
    | with_reducible apply State.Keeps.foldl | with_reducible apply State.Keeps.foldl1 | with_reducible apply State.Keeps.foldl2 | with_reducible apply State.Keeps.foldl22
    | simp only [↓State.Keeps.upd, ↓State.Keeps.updFlash, ↓State.Keeps.updPoison]
    | split
    | dsimp only

theorem State.shutPort_keeps {orig : State} {s : State} (p : Nat) (cause : Nat) (h0 : orig.Keeps s) :
    orig.Keeps (State.shutPort s p cause) := by
  unfold State.shutPort
  repeat' first
    | with_reducible assumption
    | intro _
    | (with_reducible apply State.handOver_keeps) | (with_reducible apply State.portOff_keeps)
    | (with_reducible apply State.portRecord_keeps) | (with_reducible apply State.fabEvt_keeps)
    | (with_reducible apply State.setFsts_keeps) | (with_reducible apply State.setPst_keeps)
    | with_reducible apply State.Keeps.ite | with_reducible apply State.Keeps.ite1 | with_reducible apply State.Keeps.ite2 | with_reducible apply State.Keeps.elim
    | with_reducible apply State.Keeps.foldl | with_reducible apply State.Keeps.foldl1 | with_reducible apply State.Keeps.foldl2 | with_reducible apply State.Keeps.foldl22
    | simp only [↓State.Keeps.upd, ↓State.Keeps.updFlash, ↓State.Keeps.updPoison]
    | split
    | dsimp only

theorem State.downTo_keeps {orig : State} {s : State} (p : Nat) (st : Nat) (h0 : orig.Keeps s) :
    orig.Keeps (State.downTo s p st) := by
  unfold State.downTo
  repeat' first
    | with_reducible assumption
    | intro _
    | (with_reducible apply State.portRecord_keeps) | (with_reducible apply State.fabEvt_keeps)
    | (with_reducible apply State.setPst_keeps) | (with_reducible apply State.handOver_keeps)
    | (with_reducible apply State.modFport_keeps)
    | with_reducible apply State.Keeps.ite | with_reducible apply State.Keeps.ite1 | with_reducible apply State.Keeps.ite2 | with_reducible apply State.Keeps.elim
    | with_reducible apply State.Keeps.foldl | with_reducible apply State.Keeps.foldl1 | with_reducible apply State.Keeps.foldl2 | with_reducible apply State.Keeps.foldl22
    | simp only [↓State.Keeps.upd, ↓State.Keeps.updFlash, ↓State.Keeps.updPoison]
    | split
    | dsimp only

theorem State.flapEvt_keeps {orig : State} {s : State} (p : Nat) (h0 : orig.Keeps s) :
    orig.Keeps (State.flapEvt s p) := by
  unfold State.flapEvt
  repeat' first
    | with_reducible assumption
    | intro _
    | (with_reducible apply State.portRecord_keeps) | (with_reducible apply State.fabEvt_keeps)
    | with_reducible apply State.Keeps.ite | with_reducible apply State.Keeps.ite1 | with_reducible apply State.Keeps.ite2 | with_reducible apply State.Keeps.elim
    | with_reducible apply State.Keeps.foldl | with_reducible apply State.Keeps.foldl1 | with_reducible apply State.Keeps.foldl2 | with_reducible apply State.Keeps.foldl22
    | simp only [↓State.Keeps.upd, ↓State.Keeps.updFlash, ↓State.Keeps.updPoison]
    | split
    | dsimp only

theorem State.takeDown_keeps {orig : State} {s : State} (p : Nat) (cause : Nat) (h0 : orig.Keeps s) :
    orig.Keeps (State.takeDown s p cause) := by
  unfold State.takeDown
  repeat' first
    | with_reducible assumption
    | intro _
    | (with_reducible apply State.setFsts_keeps) | (with_reducible apply State.downTo_keeps)
    | (with_reducible apply State.flapEvt_keeps) | (with_reducible apply State.shutPort_keeps)
    | (with_reducible apply State.portOff_keeps)
    | with_reducible apply State.Keeps.ite | with_reducible apply State.Keeps.ite1 | with_reducible apply State.Keeps.ite2 | with_reducible apply State.Keeps.elim
    | with_reducible apply State.Keeps.foldl | with_reducible apply State.Keeps.foldl1 | with_reducible apply State.Keeps.foldl2 | with_reducible apply State.Keeps.foldl22
    | simp only [↓State.Keeps.upd, ↓State.Keeps.updFlash, ↓State.Keeps.updPoison]
    | split
    | dsimp only

theorem State.beginTrain_keeps {orig : State} {s : State} (p : Nat) (full : Bool) (h0 : orig.Keeps s) :
    orig.Keeps (State.beginTrain s p full) := by
  unfold State.beginTrain
  repeat' first
    | with_reducible assumption
    | intro _
    | (with_reducible apply State.setPst_keeps) | (with_reducible apply State.modFport_keeps)
    | with_reducible apply State.Keeps.ite | with_reducible apply State.Keeps.ite1 | with_reducible apply State.Keeps.ite2 | with_reducible apply State.Keeps.elim
    | with_reducible apply State.Keeps.foldl | with_reducible apply State.Keeps.foldl1 | with_reducible apply State.Keeps.foldl2 | with_reducible apply State.Keeps.foldl22
    | simp only [↓State.Keeps.upd, ↓State.Keeps.updFlash, ↓State.Keeps.updPoison]
    | split
    | dsimp only

theorem State.latchTrain_keeps {orig : State} {s : State} (p : Nat) (h0 : orig.Keeps s) :
    orig.Keeps (State.latchTrain s p) := by
  unfold State.latchTrain
  repeat' first
    | with_reducible assumption
    | intro _
    | (with_reducible apply State.setPst_keeps) | (with_reducible apply State.modFport_keeps)
    | with_reducible apply State.Keeps.ite | with_reducible apply State.Keeps.ite1 | with_reducible apply State.Keeps.ite2 | with_reducible apply State.Keeps.elim
    | with_reducible apply State.Keeps.foldl | with_reducible apply State.Keeps.foldl1 | with_reducible apply State.Keeps.foldl2 | with_reducible apply State.Keeps.foldl22
    | simp only [↓State.Keeps.upd, ↓State.Keeps.updFlash, ↓State.Keeps.updPoison]
    | split
    | dsimp only

theorem State.startPorts_keeps {orig : State} {s : State} (h0 : orig.Keeps s) :
    orig.Keeps (State.startPorts s) := by
  unfold State.startPorts
  repeat' first
    | with_reducible assumption
    | intro _
    | (with_reducible apply State.modFport_keeps) | (with_reducible apply State.beginTrain_keeps)
    | with_reducible apply State.Keeps.ite | with_reducible apply State.Keeps.ite1 | with_reducible apply State.Keeps.ite2 | with_reducible apply State.Keeps.elim
    | with_reducible apply State.Keeps.foldl | with_reducible apply State.Keeps.foldl1 | with_reducible apply State.Keeps.foldl2 | with_reducible apply State.Keeps.foldl22
    | simp only [↓State.Keeps.upd, ↓State.Keeps.updFlash, ↓State.Keeps.updPoison]
    | split
    | dsimp only

theorem State.cfgFlds_keeps {orig : State} {s : State} (p : Nat) (w : Word) (h0 : orig.Keeps s) :
    orig.Keeps (State.cfgFlds s p w) := by
  unfold State.cfgFlds
  repeat' first
    | with_reducible assumption
    | intro _
    | (with_reducible apply State.setFld_keeps)
    | with_reducible apply State.Keeps.ite | with_reducible apply State.Keeps.ite1 | with_reducible apply State.Keeps.ite2 | with_reducible apply State.Keeps.elim
    | with_reducible apply State.Keeps.foldl | with_reducible apply State.Keeps.foldl1 | with_reducible apply State.Keeps.foldl2 | with_reducible apply State.Keeps.foldl22
    | simp only [↓State.Keeps.upd, ↓State.Keeps.updFlash, ↓State.Keeps.updPoison]
    | split
    | dsimp only

theorem State.fabCfg_keeps {orig : State} {s : State} (p : Nat) (sz : CsrSize) (v : Word) (h0 : orig.Keeps s) :
    orig.Keeps (State.fabCfg s p sz v) := by
  unfold State.fabCfg
  repeat' first
    | with_reducible assumption
    | intro _
    | (with_reducible apply State.cfgFlds_keeps) | (with_reducible apply State.flapEvt_keeps)
    | (with_reducible apply State.downTo_keeps) | (with_reducible apply State.setPst_keeps) | (with_reducible apply State.portOff_keeps)
    | (with_reducible apply State.beginTrain_keeps) | (with_reducible apply State.modFport_keeps)
    | with_reducible apply State.Keeps.ite | with_reducible apply State.Keeps.ite1 | with_reducible apply State.Keeps.ite2 | with_reducible apply State.Keeps.elim
    | with_reducible apply State.Keeps.foldl | with_reducible apply State.Keeps.foldl1 | with_reducible apply State.Keeps.foldl2 | with_reducible apply State.Keeps.foldl22
    | simp only [↓State.Keeps.upd, ↓State.Keeps.updFlash, ↓State.Keeps.updPoison]
    | split
    | dsimp only

theorem execFabCfgWrite_keeps {orig : State} (p : PortId) (sz : CsrSize) (v : Word) {s : State} (h3 : orig.Keeps s) :
    orig.KeepsOut (execFabCfgWrite p sz v s) := by
  unfold execFabCfgWrite
  repeat' first
    | with_reducible assumption
    | intro _
    | with_reducible apply State.KeepsOut.next
    | (with_reducible apply State.fabCfg_keeps)
    | with_reducible apply State.Keeps.ite | with_reducible apply State.Keeps.ite1 | with_reducible apply State.Keeps.ite2 | with_reducible apply State.Keeps.elim
    | with_reducible apply State.Keeps.foldl | with_reducible apply State.Keeps.foldl1 | with_reducible apply State.Keeps.foldl2 | with_reducible apply State.Keeps.foldl22
    | simp only [↓State.Keeps.upd, ↓State.Keeps.updFlash, ↓State.Keeps.updPoison]
    | split
    | dsimp only

theorem execPortSignalDetect_keeps {orig : State} (p : PortId) (lostMs : Nat) {s : State} (h2 : orig.Keeps s) :
    orig.KeepsOut (execPortSignalDetect p lostMs s) := by
  unfold execPortSignalDetect
  repeat' first
    | with_reducible assumption
    | intro _
    | with_reducible apply State.KeepsOut.next
    | (with_reducible apply State.latchTrain_keeps) | (with_reducible apply State.beginTrain_keeps)
    | with_reducible apply State.Keeps.ite | with_reducible apply State.Keeps.ite1 | with_reducible apply State.Keeps.ite2 | with_reducible apply State.Keeps.elim
    | with_reducible apply State.Keeps.foldl | with_reducible apply State.Keeps.foldl1 | with_reducible apply State.Keeps.foldl2 | with_reducible apply State.Keeps.foldl22
    | simp only [↓State.Keeps.upd, ↓State.Keeps.updFlash, ↓State.Keeps.updPoison]
    | split
    | dsimp only

theorem execDetectRepeat_keeps {orig : State} (p : PortId) {s : State} (h1 : orig.Keeps s) :
    orig.KeepsOut (execDetectRepeat p s) := by
  unfold execDetectRepeat
  repeat' first
    | with_reducible assumption
    | intro _
    | with_reducible apply State.KeepsOut.next
    | (with_reducible apply State.modFport_keeps)
    | with_reducible apply State.Keeps.ite | with_reducible apply State.Keeps.ite1 | with_reducible apply State.Keeps.ite2 | with_reducible apply State.Keeps.elim
    | with_reducible apply State.Keeps.foldl | with_reducible apply State.Keeps.foldl1 | with_reducible apply State.Keeps.foldl2 | with_reducible apply State.Keeps.foldl22
    | simp only [↓State.Keeps.upd, ↓State.Keeps.updFlash, ↓State.Keeps.updPoison]
    | split
    | dsimp only

theorem State.laneCheck_keeps {orig : State} {s : State} (p : Nat) (open_ : Nat) (short : Nat) (h0 : orig.Keeps s) :
    orig.Keeps (State.laneCheck s p open_ short) := by
  unfold State.laneCheck
  repeat' first
    | with_reducible assumption
    | intro _
    | (with_reducible apply State.setFld_keeps) | (with_reducible apply State.modFport_keeps)
    | (with_reducible apply State.setPst_keeps) | (with_reducible apply State.laneRecord_keeps)
    | with_reducible apply State.Keeps.ite | with_reducible apply State.Keeps.ite1 | with_reducible apply State.Keeps.ite2 | with_reducible apply State.Keeps.elim
    | with_reducible apply State.Keeps.foldl | with_reducible apply State.Keeps.foldl1 | with_reducible apply State.Keeps.foldl2 | with_reducible apply State.Keeps.foldl22
    | simp only [↓State.Keeps.upd, ↓State.Keeps.updFlash, ↓State.Keeps.updPoison]
    | split
    | dsimp only

theorem execLaneCheckComplete_keeps {orig : State} (p : PortId) (openLanes : BitVec 8) (shortLanes : BitVec 8) {s : State} (h3 : orig.Keeps s) :
    orig.KeepsOut (execLaneCheckComplete p openLanes shortLanes s) := by
  unfold execLaneCheckComplete
  repeat' first
    | with_reducible assumption
    | intro _
    | with_reducible apply State.KeepsOut.next
    | (with_reducible apply State.laneCheck_keeps)
    | with_reducible apply State.Keeps.ite | with_reducible apply State.Keeps.ite1 | with_reducible apply State.Keeps.ite2 | with_reducible apply State.Keeps.elim
    | with_reducible apply State.Keeps.foldl | with_reducible apply State.Keeps.foldl1 | with_reducible apply State.Keeps.foldl2 | with_reducible apply State.Keeps.foldl22
    | simp only [↓State.Keeps.upd, ↓State.Keeps.updFlash, ↓State.Keeps.updPoison]
    | split
    | dsimp only

theorem execBlockLock_keeps {orig : State} (p : PortId) (inverted : BitVec 8) {s : State} (h2 : orig.Keeps s) :
    orig.KeepsOut (execBlockLock p inverted s) := by
  unfold execBlockLock
  repeat' first
    | with_reducible assumption
    | intro _
    | with_reducible apply State.KeepsOut.next
    | (with_reducible apply State.setPst_keeps) | (with_reducible apply State.fabEvtIf_keeps)
    | (with_reducible apply State.setFld_keeps)
    | with_reducible apply State.Keeps.ite | with_reducible apply State.Keeps.ite1 | with_reducible apply State.Keeps.ite2 | with_reducible apply State.Keeps.elim
    | with_reducible apply State.Keeps.foldl | with_reducible apply State.Keeps.foldl1 | with_reducible apply State.Keeps.foldl2 | with_reducible apply State.Keeps.foldl22
    | simp only [↓State.Keeps.upd, ↓State.Keeps.updFlash, ↓State.Keeps.updPoison]
    | split
    | dsimp only

theorem execRateSwitchTimer_keeps {orig : State} (p : PortId) {s : State} (h1 : orig.Keeps s) :
    orig.KeepsOut (execRateSwitchTimer p s) := by
  unfold execRateSwitchTimer
  repeat' first
    | with_reducible assumption
    | intro _
    | with_reducible apply State.KeepsOut.next
    | (with_reducible apply State.modFport_keeps)
    | with_reducible apply State.Keeps.ite | with_reducible apply State.Keeps.ite1 | with_reducible apply State.Keeps.ite2 | with_reducible apply State.Keeps.elim
    | with_reducible apply State.Keeps.foldl | with_reducible apply State.Keeps.foldl1 | with_reducible apply State.Keeps.foldl2 | with_reducible apply State.Keeps.foldl22
    | simp only [↓State.Keeps.upd, ↓State.Keeps.updFlash, ↓State.Keeps.updPoison]
    | split
    | dsimp only

theorem State.identify_keeps {orig : State} {s : State} (p : Nat) (i : Identity) (h0 : orig.Keeps s) :
    orig.Keeps (State.identify s p i) := by
  unfold State.identify
  repeat' first
    | with_reducible assumption
    | intro _
    | (with_reducible apply State.setFsts_keeps) | (with_reducible apply State.shutPort_keeps)
    | (with_reducible apply State.fabEvtIf_keeps) | (with_reducible apply State.modFport_keeps)
    | (with_reducible apply State.setPst_keeps)
    | with_reducible apply State.Keeps.ite | with_reducible apply State.Keeps.ite1 | with_reducible apply State.Keeps.ite2 | with_reducible apply State.Keeps.elim
    | with_reducible apply State.Keeps.foldl | with_reducible apply State.Keeps.foldl1 | with_reducible apply State.Keeps.foldl2 | with_reducible apply State.Keeps.foldl22
    | simp only [↓State.Keeps.upd, ↓State.Keeps.updFlash, ↓State.Keeps.updPoison]
    | split
    | dsimp only

theorem execIdentityBlockReceive_keeps {orig : State} (p : PortId) (i : Identity) {s : State} (h2 : orig.Keeps s) :
    orig.KeepsOut (execIdentityBlockReceive p i s) := by
  unfold execIdentityBlockReceive
  repeat' first
    | with_reducible assumption
    | intro _
    | with_reducible apply State.KeepsOut.next
    | (with_reducible apply State.shutPort_keeps) | (with_reducible apply State.identify_keeps)
    | with_reducible apply State.Keeps.ite | with_reducible apply State.Keeps.ite1 | with_reducible apply State.Keeps.ite2 | with_reducible apply State.Keeps.elim
    | with_reducible apply State.Keeps.foldl | with_reducible apply State.Keeps.foldl1 | with_reducible apply State.Keeps.foldl2 | with_reducible apply State.Keeps.foldl22
    | simp only [↓State.Keeps.upd, ↓State.Keeps.updFlash, ↓State.Keeps.updPoison]
    | split
    | dsimp only

theorem execEqualisationComplete_keeps {orig : State} (p : PortId) {s : State} (h1 : orig.Keeps s) :
    orig.KeepsOut (execEqualisationComplete p s) := by
  unfold execEqualisationComplete
  repeat' first
    | with_reducible assumption
    | intro _
    | with_reducible apply State.KeepsOut.next
    | (with_reducible apply State.setPst_keeps)
    | with_reducible apply State.Keeps.ite | with_reducible apply State.Keeps.ite1 | with_reducible apply State.Keeps.ite2 | with_reducible apply State.Keeps.elim
    | with_reducible apply State.Keeps.foldl | with_reducible apply State.Keeps.foldl1 | with_reducible apply State.Keeps.foldl2 | with_reducible apply State.Keeps.foldl22
    | simp only [↓State.Keeps.upd, ↓State.Keeps.updFlash, ↓State.Keeps.updPoison]
    | split
    | dsimp only

theorem State.activate_keeps {orig : State} {s : State} (p : Nat) (h0 : orig.Keeps s) :
    orig.Keeps (State.activate s p) := by
  unfold State.activate
  repeat' first
    | with_reducible assumption
    | intro _
    | (with_reducible apply State.shutPort_keeps) | (with_reducible apply State.setFsts_keeps)
    | (with_reducible apply State.setPst_keeps) | (with_reducible apply State.setFld_keeps)
    | (with_reducible apply State.modFport_keeps) | (with_reducible apply State.fabEvtIf_keeps)
    | (with_reducible apply State.fabEvt_keeps) | (with_reducible apply State.detEnd_keeps)
    | with_reducible apply State.Keeps.ite | with_reducible apply State.Keeps.ite1 | with_reducible apply State.Keeps.ite2 | with_reducible apply State.Keeps.elim
    | with_reducible apply State.Keeps.foldl | with_reducible apply State.Keeps.foldl1 | with_reducible apply State.Keeps.foldl2 | with_reducible apply State.Keeps.foldl22
    | simp only [↓State.Keeps.upd, ↓State.Keeps.updFlash, ↓State.Keeps.updPoison]
    | split
    | dsimp only

theorem execPortActive_keeps {orig : State} (p : PortId) {s : State} (h1 : orig.Keeps s) :
    orig.KeepsOut (execPortActive p s) := by
  unfold execPortActive
  repeat' first
    | with_reducible assumption
    | intro _
    | with_reducible apply State.KeepsOut.next
    | (with_reducible apply State.activate_keeps)
    | with_reducible apply State.Keeps.ite | with_reducible apply State.Keeps.ite1 | with_reducible apply State.Keeps.ite2 | with_reducible apply State.Keeps.elim
    | with_reducible apply State.Keeps.foldl | with_reducible apply State.Keeps.foldl1 | with_reducible apply State.Keeps.foldl2 | with_reducible apply State.Keeps.foldl22
    | simp only [↓State.Keeps.upd, ↓State.Keeps.updFlash, ↓State.Keeps.updPoison]
    | split
    | dsimp only

theorem State.pairUp_keeps {orig : State} {s : State} (p : Nat) (h0 : orig.Keeps s) :
    orig.Keeps (State.pairUp s p) := by
  unfold State.pairUp
  repeat' first
    | with_reducible assumption
    | intro _
    | (with_reducible apply State.modFport_keeps) | (with_reducible apply State.movePair_keeps)
    | (with_reducible apply State.reorigin_keeps) | (with_reducible apply State.setFsts_keeps)
    | (with_reducible apply State.fabEvt_keeps)
    | with_reducible apply State.Keeps.ite | with_reducible apply State.Keeps.ite1 | with_reducible apply State.Keeps.ite2 | with_reducible apply State.Keeps.elim
    | with_reducible apply State.Keeps.foldl | with_reducible apply State.Keeps.foldl1 | with_reducible apply State.Keeps.foldl2 | with_reducible apply State.Keeps.foldl22
    | simp only [↓State.Keeps.upd, ↓State.Keeps.updFlash, ↓State.Keeps.updPoison]
    | split
    | dsimp only

theorem State.rtt_keeps {orig : State} {s : State} (p : Nat) (ns : Nat) (h0 : orig.Keeps s) :
    orig.Keeps (State.rtt s p ns) := by
  unfold State.rtt
  repeat' first
    | with_reducible assumption
    | intro _
    | (with_reducible apply State.setFld_keeps) | (with_reducible apply State.modFport_keeps)
    | (with_reducible apply State.pairUp_keeps) | (with_reducible apply State.fabEvt_keeps) | (with_reducible apply State.setFsts_keeps)
    | with_reducible apply State.Keeps.ite | with_reducible apply State.Keeps.ite1 | with_reducible apply State.Keeps.ite2 | with_reducible apply State.Keeps.elim
    | with_reducible apply State.Keeps.foldl | with_reducible apply State.Keeps.foldl1 | with_reducible apply State.Keeps.foldl2 | with_reducible apply State.Keeps.foldl22
    | simp only [↓State.Keeps.upd, ↓State.Keeps.updFlash, ↓State.Keeps.updPoison]
    | split
    | dsimp only

theorem execRttMeasured_keeps {orig : State} (p : PortId) (ns : BitVec 32) {s : State} (h2 : orig.Keeps s) :
    orig.KeepsOut (execRttMeasured p ns s) := by
  unfold execRttMeasured
  repeat' first
    | with_reducible assumption
    | intro _
    | with_reducible apply State.KeepsOut.next
    | (with_reducible apply State.rtt_keeps)
    | with_reducible apply State.Keeps.ite | with_reducible apply State.Keeps.ite1 | with_reducible apply State.Keeps.ite2 | with_reducible apply State.Keeps.elim
    | with_reducible apply State.Keeps.foldl | with_reducible apply State.Keeps.foldl1 | with_reducible apply State.Keeps.foldl2 | with_reducible apply State.Keeps.foldl22
    | simp only [↓State.Keeps.upd, ↓State.Keeps.updFlash, ↓State.Keeps.updPoison]
    | split
    | dsimp only

theorem State.emitOn_keeps {orig : State} {s : State} (p : Nat) (bseq : Nat) (typ : Nat) (slots : List Pennant) (h0 : orig.Keeps s) :
    orig.Keeps (State.emitOn s p bseq typ slots) := by
  unfold State.emitOn
  repeat' first
    | with_reducible assumption
    | intro _
    | (with_reducible apply State.modFport_keeps)
    | with_reducible apply State.Keeps.ite | with_reducible apply State.Keeps.ite1 | with_reducible apply State.Keeps.ite2 | with_reducible apply State.Keeps.elim
    | with_reducible apply State.Keeps.foldl | with_reducible apply State.Keeps.foldl1 | with_reducible apply State.Keeps.foldl2 | with_reducible apply State.Keeps.foldl22
    | simp only [↓State.Keeps.upd, ↓State.Keeps.updFlash, ↓State.Keeps.updPoison]
    | split
    | dsimp only

theorem State.emitNew_keeps {orig : State} {s : State} (p : Nat) (bseq : Nat) (slots : List Pennant) (h0 : orig.Keeps s) :
    orig.Keeps (State.emitNew s p bseq slots) := by
  unfold State.emitNew
  repeat' first
    | with_reducible assumption
    | intro _
    | (with_reducible apply State.emitOn_keeps)
    | with_reducible apply State.Keeps.ite | with_reducible apply State.Keeps.ite1 | with_reducible apply State.Keeps.ite2 | with_reducible apply State.Keeps.elim
    | with_reducible apply State.Keeps.foldl | with_reducible apply State.Keeps.foldl1 | with_reducible apply State.Keeps.foldl2 | with_reducible apply State.Keeps.foldl22
    | simp only [↓State.Keeps.upd, ↓State.Keeps.updFlash, ↓State.Keeps.updPoison]
    | split
    | dsimp only

theorem State.emitIdent_keeps {orig : State} {s : State} (p : Nat) (h0 : orig.Keeps s) :
    orig.Keeps (State.emitIdent s p) := by
  unfold State.emitIdent
  repeat' first
    | with_reducible assumption
    | intro _
    | (with_reducible apply State.modFport_keeps)
    | with_reducible apply State.Keeps.ite | with_reducible apply State.Keeps.ite1 | with_reducible apply State.Keeps.ite2 | with_reducible apply State.Keeps.elim
    | with_reducible apply State.Keeps.foldl | with_reducible apply State.Keeps.foldl1 | with_reducible apply State.Keeps.foldl2 | with_reducible apply State.Keeps.foldl22
    | simp only [↓State.Keeps.upd, ↓State.Keeps.updFlash, ↓State.Keeps.updPoison]
    | split
    | dsimp only

theorem State.emitIdle_keeps {orig : State} {s : State} (p : Nat) (h0 : orig.Keeps s) :
    orig.Keeps (State.emitIdle s p) := by
  unfold State.emitIdle
  repeat' first
    | with_reducible assumption
    | intro _
    | (with_reducible apply State.emitOn_keeps)
    | with_reducible apply State.Keeps.ite | with_reducible apply State.Keeps.ite1 | with_reducible apply State.Keeps.ite2 | with_reducible apply State.Keeps.elim
    | with_reducible apply State.Keeps.foldl | with_reducible apply State.Keeps.foldl1 | with_reducible apply State.Keeps.foldl2 | with_reducible apply State.Keeps.foldl22
    | simp only [↓State.Keeps.upd, ↓State.Keeps.updFlash, ↓State.Keeps.updPoison]
    | split
    | dsimp only

theorem State.resendBlk_keeps {orig : State} {s : State} (p : Nat) (b : Blk) (h0 : orig.Keeps s) :
    orig.Keeps (State.resendBlk s p b) := by
  unfold State.resendBlk
  repeat' first
    | with_reducible assumption
    | intro _
    | (with_reducible apply State.takeDown_keeps) | (with_reducible apply State.bump_keeps) | (with_reducible apply State.emitOn_keeps)
    | (with_reducible apply State.modFport_keeps)
    | with_reducible apply State.Keeps.ite | with_reducible apply State.Keeps.ite1 | with_reducible apply State.Keeps.ite2 | with_reducible apply State.Keeps.elim
    | with_reducible apply State.Keeps.foldl | with_reducible apply State.Keeps.foldl1 | with_reducible apply State.Keeps.foldl2 | with_reducible apply State.Keeps.foldl22
    | simp only [↓State.Keeps.upd, ↓State.Keeps.updFlash, ↓State.Keeps.updPoison]
    | split
    | dsimp only

theorem State.keepBlk_keeps {orig : State} {s : State} (p : Nat) (seq : Nat) (slots : List Pennant) (h0 : orig.Keeps s) :
    orig.Keeps (State.keepBlk s p seq slots) := by
  unfold State.keepBlk
  repeat' first
    | with_reducible assumption
    | intro _
    | (with_reducible apply State.writeMem_keeps)
    | with_reducible apply State.Keeps.ite | with_reducible apply State.Keeps.ite1 | with_reducible apply State.Keeps.ite2 | with_reducible apply State.Keeps.elim
    | with_reducible apply State.Keeps.foldl | with_reducible apply State.Keeps.foldl1 | with_reducible apply State.Keeps.foldl2 | with_reducible apply State.Keeps.foldl22
    | simp only [↓State.Keeps.upd, ↓State.Keeps.updFlash, ↓State.Keeps.updPoison]
    | split
    | dsimp only

theorem State.sendBlock_keeps {orig : State} {s : State} (p : Nat) (h0 : orig.Keeps s) :
    orig.Keeps (State.sendBlock s p) := by
  unfold State.sendBlock
  repeat' first
    | with_reducible assumption
    | intro _
    | (with_reducible apply State.emitIdent_keeps) | (with_reducible apply State.resendBlk_keeps)
    | (with_reducible apply State.emitIdle_keeps) | (with_reducible apply State.emitNew_keeps)
    | (with_reducible apply State.keepBlk_keeps) | (with_reducible apply State.modFport_keeps)
    | with_reducible apply State.Keeps.ite | with_reducible apply State.Keeps.ite1 | with_reducible apply State.Keeps.ite2 | with_reducible apply State.Keeps.elim
    | with_reducible apply State.Keeps.foldl | with_reducible apply State.Keeps.foldl1 | with_reducible apply State.Keeps.foldl2 | with_reducible apply State.Keeps.foldl22
    | simp only [↓State.Keeps.upd, ↓State.Keeps.updFlash, ↓State.Keeps.updPoison]
    | split
    | dsimp only

theorem execLinkBlockSend_keeps {orig : State} (p : PortId) {s : State} (h1 : orig.Keeps s) :
    orig.KeepsOut (execLinkBlockSend p s) := by
  unfold execLinkBlockSend
  repeat' first
    | with_reducible assumption
    | intro _
    | with_reducible apply State.KeepsOut.next
    | (with_reducible apply State.sendBlock_keeps)
    | with_reducible apply State.Keeps.ite | with_reducible apply State.Keeps.ite1 | with_reducible apply State.Keeps.ite2 | with_reducible apply State.Keeps.elim
    | with_reducible apply State.Keeps.foldl | with_reducible apply State.Keeps.foldl1 | with_reducible apply State.Keeps.foldl2 | with_reducible apply State.Keeps.foldl22
    | simp only [↓State.Keeps.upd, ↓State.Keeps.updFlash, ↓State.Keeps.updPoison]
    | split
    | dsimp only

theorem execIdleBlockTimer_keeps {orig : State} (p : PortId) {s : State} (h1 : orig.Keeps s) :
    orig.KeepsOut (execIdleBlockTimer p s) := by
  unfold execIdleBlockTimer
  repeat' first
    | with_reducible assumption
    | intro _
    | with_reducible apply State.KeepsOut.next
    | (with_reducible apply State.emitIdle_keeps) | (with_reducible apply State.emitIdent_keeps)
    | with_reducible apply State.Keeps.ite | with_reducible apply State.Keeps.ite1 | with_reducible apply State.Keeps.ite2 | with_reducible apply State.Keeps.elim
    | with_reducible apply State.Keeps.foldl | with_reducible apply State.Keeps.foldl1 | with_reducible apply State.Keeps.foldl2 | with_reducible apply State.Keeps.foldl22
    | simp only [↓State.Keeps.upd, ↓State.Keeps.updFlash, ↓State.Keeps.updPoison]
    | split
    | dsimp only

theorem execRetryTimeout_keeps {orig : State} (p : PortId) {s : State} (h1 : orig.Keeps s) :
    orig.KeepsOut (execRetryTimeout p s) := by
  unfold execRetryTimeout
  repeat' first
    | with_reducible assumption
    | intro _
    | with_reducible apply State.KeepsOut.next
    | (with_reducible apply State.modFport_keeps)
    | with_reducible apply State.Keeps.ite | with_reducible apply State.Keeps.ite1 | with_reducible apply State.Keeps.ite2 | with_reducible apply State.Keeps.elim
    | with_reducible apply State.Keeps.foldl | with_reducible apply State.Keeps.foldl1 | with_reducible apply State.Keeps.foldl2 | with_reducible apply State.Keeps.foldl22
    | simp only [↓State.Keeps.upd, ↓State.Keeps.updFlash, ↓State.Keeps.updPoison]
    | split
    | dsimp only

theorem State.penIn_keeps {orig : State} {s : State} (port : Nat) (p : Nat) (pn : Pennant) (h0 : orig.Keeps s) :
    orig.Keeps (State.penIn s port p pn) := by
  unfold State.penIn
  repeat' first
    | with_reducible assumption
    | intro _
    | (with_reducible apply State.writeMem_keeps) | (with_reducible apply State.modFport_keeps)
    | (with_reducible apply State.leaveRx_keeps) | (with_reducible apply State.bump_keeps)
    | with_reducible apply State.Keeps.ite | with_reducible apply State.Keeps.ite1 | with_reducible apply State.Keeps.ite2 | with_reducible apply State.Keeps.elim
    | with_reducible apply State.Keeps.foldl | with_reducible apply State.Keeps.foldl1 | with_reducible apply State.Keeps.foldl2 | with_reducible apply State.Keeps.foldl22
    | simp only [↓State.Keeps.upd, ↓State.Keeps.updFlash, ↓State.Keeps.updPoison]
    | split
    | dsimp only

theorem State.trailerIn_keeps {orig : State} {s : State} (port : Nat) (p : Nat) (t : Trailer) (h0 : orig.Keeps s) :
    orig.Keeps (State.trailerIn s port p t) := by
  unfold State.trailerIn
  repeat' first
    | with_reducible assumption
    | intro _
    | (with_reducible apply State.modFport_keeps) | (with_reducible apply State.leaveRx_keeps)
    | with_reducible apply State.Keeps.ite | with_reducible apply State.Keeps.ite1 | with_reducible apply State.Keeps.ite2 | with_reducible apply State.Keeps.elim
    | with_reducible apply State.Keeps.foldl | with_reducible apply State.Keeps.foldl1 | with_reducible apply State.Keeps.foldl2 | with_reducible apply State.Keeps.foldl22
    | simp only [↓State.Keeps.upd, ↓State.Keeps.updFlash, ↓State.Keeps.updPoison]
    | split
    | dsimp only

theorem State.nak_keeps {orig : State} {s : State} (p : Nat) (h0 : orig.Keeps s) :
    orig.Keeps (State.nak s p) := by
  unfold State.nak
  repeat' first
    | with_reducible assumption
    | intro _
    | (with_reducible apply State.modFport_keeps)
    | with_reducible apply State.Keeps.ite | with_reducible apply State.Keeps.ite1 | with_reducible apply State.Keeps.ite2 | with_reducible apply State.Keeps.elim
    | with_reducible apply State.Keeps.foldl | with_reducible apply State.Keeps.foldl1 | with_reducible apply State.Keeps.foldl2 | with_reducible apply State.Keeps.foldl22
    | simp only [↓State.Keeps.upd, ↓State.Keeps.updFlash, ↓State.Keeps.updPoison]
    | split
    | dsimp only

theorem State.nakBad_keeps {orig : State} {s : State} (p : Nat) (h0 : orig.Keeps s) :
    orig.Keeps (State.nakBad s p) := by
  unfold State.nakBad
  repeat' first
    | with_reducible assumption
    | intro _
    | (with_reducible apply State.nak_keeps)
    | with_reducible apply State.Keeps.ite | with_reducible apply State.Keeps.ite1 | with_reducible apply State.Keeps.ite2 | with_reducible apply State.Keeps.elim
    | with_reducible apply State.Keeps.foldl | with_reducible apply State.Keeps.foldl1 | with_reducible apply State.Keeps.foldl2 | with_reducible apply State.Keeps.foldl22
    | simp only [↓State.Keeps.upd, ↓State.Keeps.updFlash, ↓State.Keeps.updPoison]
    | split
    | dsimp only

theorem State.countErrs_keeps {orig : State} {s : State} (p : Nat) (corr : List Nat) (failed : Bool) (h0 : orig.Keeps s) :
    orig.Keeps (State.countErrs s p corr failed) := by
  unfold State.countErrs
  dsimp only
  have h1 := State.bump_keeps (FAB_ERRCNT.off p) FAB_ERRCNT.CORR (corr.foldl (· + ·) 0) (State.modFport_keeps p (fun f => { f with
    msStart := if decide ((s.fport p).msStart + 1000000 ≤ s.time) = true then s.time else f.msStart,
    msBad := (if decide ((s.fport p).msStart + 1000000 ≤ s.time) = true then 0 else (s.fport p).msBad) + b2n failed,
    msCorr := (List.range 8).map fun l => (if decide ((s.fport p).msStart + 1000000 ≤ s.time) = true then 0 else (s.fport p).msCorr.getD l 0) + corr.getD l 0 }) h0)
  refine State.Keeps.elim (State.Keeps.ite (fun _ => State.takeDown_keeps _ _ ?_) fun _ => ?_) fun l =>
    State.takeDown_keeps _ _ (State.modFport_keeps _ _ (State.laneRecord_keeps _ _ (State.setFld_keeps _ _ _ ?_)))
  all_goals exact h1

theorem State.blockIn_keeps {orig : State} {s : State} (p : Nat) (r : RxBlock) (h0 : orig.Keeps s) :
    orig.Keeps (State.blockIn s p r) := by
  unfold State.blockIn
  repeat' first
    | with_reducible assumption
    | intro _
    | (with_reducible apply State.bump_keeps) | (with_reducible apply State.countErrs_keeps) | (with_reducible apply State.nakBad_keeps)
    | (with_reducible apply State.trailerIn_keeps) | (with_reducible apply State.modFport_keeps)
    | (with_reducible apply State.penIn_keeps) | (with_reducible apply State.nak_keeps)
    | with_reducible apply State.Keeps.ite | with_reducible apply State.Keeps.ite1 | with_reducible apply State.Keeps.ite2 | with_reducible apply State.Keeps.elim
    | with_reducible apply State.Keeps.foldl | with_reducible apply State.Keeps.foldl1 | with_reducible apply State.Keeps.foldl2 | with_reducible apply State.Keeps.foldl22
    | simp only [↓State.Keeps.upd, ↓State.Keeps.updFlash, ↓State.Keeps.updPoison]
    | split
    | dsimp only

theorem State.rxLine_keeps {orig : State} {s : State} (p : Nat) (lanes : List (List Byte)) (h0 : orig.Keeps s) :
    orig.Keeps (State.rxLine s p lanes).2 := by
  unfold State.rxLine
  repeat' first
    | with_reducible assumption
    | intro _
    | (with_reducible apply State.modFport_keeps)
    | with_reducible apply State.Keeps.ite | with_reducible apply State.Keeps.ite1 | with_reducible apply State.Keeps.ite2 | with_reducible apply State.Keeps.elim
    | with_reducible apply State.Keeps.foldl | with_reducible apply State.Keeps.foldl1 | with_reducible apply State.Keeps.foldl2 | with_reducible apply State.Keeps.foldl22
    | simp only [↓State.Keeps.upd, ↓State.Keeps.updFlash, ↓State.Keeps.updPoison]
    | split
    | dsimp only
theorem State.rxLine_eq {orig : State} {s : State} (p : Nat) (lanes : List (List Byte)) (h0 : orig.Keeps s)
    {other : RxBlock} {result : State} (e : (State.rxLine s p lanes) = (other, result)) : orig.Keeps result := by
  have := State.rxLine_keeps (orig := orig) p lanes h0
  rw [e] at this
  exact this

theorem execLinkBlockReceive_keeps {orig : State} (p : PortId) (lanes : List (List Byte)) {s : State} (h2 : orig.Keeps s) :
    orig.KeepsOut (execLinkBlockReceive p lanes s) := by
  unfold execLinkBlockReceive
  repeat' first
    | with_reducible assumption
    | intro _
    | with_reducible apply State.KeepsOut.next
    | (with_reducible apply State.rxLine_keeps) | (with_reducible refine State.rxLine_eq _ _ ?_ (by with_reducible assumption))
    | (with_reducible apply State.blockIn_keeps)
    | with_reducible apply State.Keeps.ite | with_reducible apply State.Keeps.ite1 | with_reducible apply State.Keeps.ite2 | with_reducible apply State.Keeps.elim
    | with_reducible apply State.Keeps.foldl | with_reducible apply State.Keeps.foldl1 | with_reducible apply State.Keeps.foldl2 | with_reducible apply State.Keeps.foldl22
    | simp only [↓State.Keeps.upd, ↓State.Keeps.updFlash, ↓State.Keeps.updPoison]
    | split
    | dsimp only

theorem execPortSignalLoss_keeps {orig : State} (p : PortId) {s : State} (h1 : orig.Keeps s) :
    orig.KeepsOut (execPortSignalLoss p s) := by
  unfold execPortSignalLoss
  repeat' first
    | with_reducible assumption
    | intro _
    | with_reducible apply State.KeepsOut.next
    | (with_reducible apply State.takeDown_keeps) | (with_reducible apply State.modFport_keeps)
    | with_reducible apply State.Keeps.ite | with_reducible apply State.Keeps.ite1 | with_reducible apply State.Keeps.ite2 | with_reducible apply State.Keeps.elim
    | with_reducible apply State.Keeps.foldl | with_reducible apply State.Keeps.foldl1 | with_reducible apply State.Keeps.foldl2 | with_reducible apply State.Keeps.foldl22
    | simp only [↓State.Keeps.upd, ↓State.Keeps.updFlash, ↓State.Keeps.updPoison]
    | split
    | dsimp only

theorem execBlockReceiveTimeout_keeps {orig : State} (p : PortId) {s : State} (h1 : orig.Keeps s) :
    orig.KeepsOut (execBlockReceiveTimeout p s) := by
  unfold execBlockReceiveTimeout
  repeat' first
    | with_reducible assumption
    | intro _
    | with_reducible apply State.KeepsOut.next
    | (with_reducible apply State.takeDown_keeps)
    | with_reducible apply State.Keeps.ite | with_reducible apply State.Keeps.ite1 | with_reducible apply State.Keeps.ite2 | with_reducible apply State.Keeps.elim
    | with_reducible apply State.Keeps.foldl | with_reducible apply State.Keeps.foldl1 | with_reducible apply State.Keeps.foldl2 | with_reducible apply State.Keeps.foldl22
    | simp only [↓State.Keeps.upd, ↓State.Keeps.updFlash, ↓State.Keeps.updPoison]
    | split
    | dsimp only

theorem State.retrainPort_keeps {orig : State} {s : State} (p : Nat) (h0 : orig.Keeps s) :
    orig.Keeps (State.retrainPort s p) := by
  unfold State.retrainPort
  repeat' first
    | with_reducible assumption
    | intro _
    | (with_reducible apply State.handOver_keeps) | (with_reducible apply State.portOff_keeps)
    | (with_reducible apply State.beginTrain_keeps)
    | with_reducible apply State.Keeps.ite | with_reducible apply State.Keeps.ite1 | with_reducible apply State.Keeps.ite2 | with_reducible apply State.Keeps.elim
    | with_reducible apply State.Keeps.foldl | with_reducible apply State.Keeps.foldl1 | with_reducible apply State.Keeps.foldl2 | with_reducible apply State.Keeps.foldl22
    | simp only [↓State.Keeps.upd, ↓State.Keeps.updFlash, ↓State.Keeps.updPoison]
    | split
    | dsimp only

theorem execRetrain_keeps {orig : State} (p : PortId) {s : State} (h1 : orig.Keeps s) :
    orig.KeepsOut (execRetrain p s) := by
  unfold execRetrain
  repeat' first
    | with_reducible assumption
    | intro _
    | with_reducible apply State.KeepsOut.next
    | (with_reducible apply State.retrainPort_keeps)
    | with_reducible apply State.Keeps.ite | with_reducible apply State.Keeps.ite1 | with_reducible apply State.Keeps.ite2 | with_reducible apply State.Keeps.elim
    | with_reducible apply State.Keeps.foldl | with_reducible apply State.Keeps.foldl1 | with_reducible apply State.Keeps.foldl2 | with_reducible apply State.Keeps.foldl22
    | simp only [↓State.Keeps.upd, ↓State.Keeps.updFlash, ↓State.Keeps.updPoison]
    | split
    | dsimp only

theorem State.shutterCmd_keeps {orig : State} {s : State} (p : Nat) (h0 : orig.Keeps s) :
    orig.Keeps (State.shutterCmd s p) := by
  unfold State.shutterCmd
  repeat' first
    | with_reducible assumption
    | intro _
    | (with_reducible apply State.setFsts_keeps) | (with_reducible apply State.shutPort_keeps)
    | with_reducible apply State.Keeps.ite | with_reducible apply State.Keeps.ite1 | with_reducible apply State.Keeps.ite2 | with_reducible apply State.Keeps.elim
    | with_reducible apply State.Keeps.foldl | with_reducible apply State.Keeps.foldl1 | with_reducible apply State.Keeps.foldl2 | with_reducible apply State.Keeps.foldl22
    | simp only [↓State.Keeps.upd, ↓State.Keeps.updFlash, ↓State.Keeps.updPoison]
    | split
    | dsimp only

theorem execShutter_keeps {orig : State} (p : PortId) {s : State} (h1 : orig.Keeps s) :
    orig.KeepsOut (execShutter p s) := by
  unfold execShutter
  repeat' first
    | with_reducible assumption
    | intro _
    | with_reducible apply State.KeepsOut.next
    | (with_reducible apply State.shutterCmd_keeps)
    | with_reducible apply State.Keeps.ite | with_reducible apply State.Keeps.ite1 | with_reducible apply State.Keeps.ite2 | with_reducible apply State.Keeps.elim
    | with_reducible apply State.Keeps.foldl | with_reducible apply State.Keeps.foldl1 | with_reducible apply State.Keeps.foldl2 | with_reducible apply State.Keeps.foldl22
    | simp only [↓State.Keeps.upd, ↓State.Keeps.updFlash, ↓State.Keeps.updPoison]
    | split
    | dsimp only

end Sys2Proof.Machine
end

