-- ==== Sys2Proof/Laws/KeepRoute.lean ====
section
/-! SUPPORT. What the operations of Machine/Route.lean keep. -/

set_option linter.all false

namespace Sys2Proof.Machine

theorem State.setFlds_keeps {orig : State} {s : State} (o : Nat) (l : List Fld) (w : Word) (h0 : orig.Keeps s) :
    orig.Keeps (State.setFlds s o l w) := by
  unfold State.setFlds
  repeat' first
    | with_reducible assumption
    | intro _
    | (with_reducible apply State.setFld_keeps)
    | with_reducible apply State.Keeps.ite | with_reducible apply State.Keeps.ite1 | with_reducible apply State.Keeps.ite2 | with_reducible apply State.Keeps.elim
    | with_reducible apply State.Keeps.foldl | with_reducible apply State.Keeps.foldl1 | with_reducible apply State.Keeps.foldl2 | with_reducible apply State.Keeps.foldl22
    | simp only [↓State.Keeps.upd, ↓State.Keeps.updFlash, ↓State.Keeps.updPoison]
    | split
    | dsimp only

theorem State.dimsFlds_keeps {orig : State} {s : State} (w : Word) (h0 : orig.Keeps s) :
    orig.Keeps (State.dimsFlds s w) := by
  unfold State.dimsFlds
  repeat' first
    | with_reducible assumption
    | intro _
    | (with_reducible apply State.setFlds_keeps)
    | with_reducible apply State.Keeps.ite | with_reducible apply State.Keeps.ite1 | with_reducible apply State.Keeps.ite2 | with_reducible apply State.Keeps.elim
    | with_reducible apply State.Keeps.foldl | with_reducible apply State.Keeps.foldl1 | with_reducible apply State.Keeps.foldl2 | with_reducible apply State.Keeps.foldl22
    | simp only [↓State.Keeps.upd, ↓State.Keeps.updFlash, ↓State.Keeps.updPoison]
    | split
    | dsimp only

theorem State.routeDims_keeps {orig : State} {s : State} (sz : CsrSize) (v : Word) (h0 : orig.Keeps s) :
    orig.Keeps (State.routeDims s sz v) := by
  unfold State.routeDims
  repeat' first
    | with_reducible assumption
    | intro _
    | (with_reducible apply State.rewriteRings_keeps) | (with_reducible apply State.sliceEnd_keeps)
    | (with_reducible apply State.dimsFlds_keeps)
    | with_reducible apply State.Keeps.ite | with_reducible apply State.Keeps.ite1 | with_reducible apply State.Keeps.ite2 | with_reducible apply State.Keeps.elim
    | with_reducible apply State.Keeps.foldl | with_reducible apply State.Keeps.foldl1 | with_reducible apply State.Keeps.foldl2 | with_reducible apply State.Keeps.foldl22
    | simp only [↓State.Keeps.upd, ↓State.Keeps.updFlash, ↓State.Keeps.updPoison]
    | split
    | dsimp only

theorem execRouteDimsWrite_keeps {orig : State} (sz : CsrSize) (v : Word) {s : State} (h2 : orig.Keeps s) :
    orig.KeepsOut (execRouteDimsWrite sz v s) := by
  unfold execRouteDimsWrite
  repeat' first
    | with_reducible assumption
    | intro _
    | with_reducible apply State.KeepsOut.next
    | (with_reducible apply State.routeDims_keeps)
    | with_reducible apply State.Keeps.ite | with_reducible apply State.Keeps.ite1 | with_reducible apply State.Keeps.ite2 | with_reducible apply State.Keeps.elim
    | with_reducible apply State.Keeps.foldl | with_reducible apply State.Keeps.foldl1 | with_reducible apply State.Keeps.foldl2 | with_reducible apply State.Keeps.foldl22
    | simp only [↓State.Keeps.upd, ↓State.Keeps.updFlash, ↓State.Keeps.updPoison]
    | split
    | dsimp only

theorem State.routeSlice_keeps {orig : State} {s : State} (sz : CsrSize) (v : Word) (h0 : orig.Keeps s) :
    orig.Keeps (State.routeSlice s sz v) := by
  unfold State.routeSlice
  repeat' first
    | with_reducible assumption
    | intro _
    | (with_reducible apply State.rewriteRings_keeps) | (with_reducible apply State.sliceEnd_keeps)
    | (with_reducible apply State.setFlds_keeps)
    | with_reducible apply State.Keeps.ite | with_reducible apply State.Keeps.ite1 | with_reducible apply State.Keeps.ite2 | with_reducible apply State.Keeps.elim
    | with_reducible apply State.Keeps.foldl | with_reducible apply State.Keeps.foldl1 | with_reducible apply State.Keeps.foldl2 | with_reducible apply State.Keeps.foldl22
    | simp only [↓State.Keeps.upd, ↓State.Keeps.updFlash, ↓State.Keeps.updPoison]
    | split
    | dsimp only

theorem execRouteSliceWrite_keeps {orig : State} (sz : CsrSize) (v : Word) {s : State} (h2 : orig.Keeps s) :
    orig.KeepsOut (execRouteSliceWrite sz v s) := by
  unfold execRouteSliceWrite
  repeat' first
    | with_reducible assumption
    | intro _
    | with_reducible apply State.KeepsOut.next
    | (with_reducible apply State.routeSlice_keeps)
    | with_reducible apply State.Keeps.ite | with_reducible apply State.Keeps.ite1 | with_reducible apply State.Keeps.ite2 | with_reducible apply State.Keeps.elim
    | with_reducible apply State.Keeps.foldl | with_reducible apply State.Keeps.foldl1 | with_reducible apply State.Keeps.foldl2 | with_reducible apply State.Keeps.foldl22
    | simp only [↓State.Keeps.upd, ↓State.Keeps.updFlash, ↓State.Keeps.updPoison]
    | split
    | dsimp only

theorem State.unreachUp_keeps {orig : State} {s : State} (h0 : orig.Keeps s) :
    orig.Keeps (State.unreachUp s) := by
  unfold State.unreachUp
  repeat' first
    | with_reducible assumption
    | intro _
    | (with_reducible apply State.bump_keeps)
    | with_reducible apply State.Keeps.ite | with_reducible apply State.Keeps.ite1 | with_reducible apply State.Keeps.ite2 | with_reducible apply State.Keeps.elim
    | with_reducible apply State.Keeps.foldl | with_reducible apply State.Keeps.foldl1 | with_reducible apply State.Keeps.foldl2 | with_reducible apply State.Keeps.foldl22
    | simp only [↓State.Keeps.upd, ↓State.Keeps.updFlash, ↓State.Keeps.updPoison]
    | split
    | dsimp only

theorem State.queueResp_keeps {orig : State} {s : State} (p : Pennant) (h0 : orig.Keeps s) :
    orig.Keeps (State.queueResp s p) := by
  unfold State.queueResp
  repeat' first
    | with_reducible assumption
    | intro _
    | with_reducible apply State.Keeps.ite | with_reducible apply State.Keeps.ite1 | with_reducible apply State.Keeps.ite2 | with_reducible apply State.Keeps.elim
    | with_reducible apply State.Keeps.foldl | with_reducible apply State.Keeps.foldl1 | with_reducible apply State.Keeps.foldl2 | with_reducible apply State.Keeps.foldl22
    | simp only [↓State.Keeps.upd, ↓State.Keeps.updFlash, ↓State.Keeps.updPoison]
    | split
    | dsimp only

theorem State.answerReq_keeps {orig : State} {s : State} (typ : Nat) (status : Nat) (rq : Pennant) (h0 : orig.Keeps s) :
    orig.Keeps (State.answerReq s typ status rq) := by
  unfold State.answerReq
  repeat' first
    | with_reducible assumption
    | intro _
    | (with_reducible apply State.queueResp_keeps)
    | with_reducible apply State.Keeps.ite | with_reducible apply State.Keeps.ite1 | with_reducible apply State.Keeps.ite2 | with_reducible apply State.Keeps.elim
    | with_reducible apply State.Keeps.foldl | with_reducible apply State.Keeps.foldl1 | with_reducible apply State.Keeps.foldl2 | with_reducible apply State.Keeps.foldl22
    | simp only [↓State.Keeps.upd, ↓State.Keeps.updFlash, ↓State.Keeps.updPoison]
    | split
    | dsimp only

theorem State.refuse_keeps {orig : State} {s : State} (rq : Pennant) (h0 : orig.Keeps s) :
    orig.Keeps (State.refuse s rq) := by
  unfold State.refuse
  repeat' first
    | with_reducible assumption
    | intro _
    | (with_reducible apply State.answerReq_keeps)
    | with_reducible apply State.Keeps.ite | with_reducible apply State.Keeps.ite1 | with_reducible apply State.Keeps.ite2 | with_reducible apply State.Keeps.elim
    | with_reducible apply State.Keeps.foldl | with_reducible apply State.Keeps.foldl1 | with_reducible apply State.Keeps.foldl2 | with_reducible apply State.Keeps.foldl22
    | simp only [↓State.Keeps.upd, ↓State.Keeps.updFlash, ↓State.Keeps.updPoison]
    | split
    | dsimp only

theorem State.dropIn_keeps {orig : State} {s : State} (r : RIn) (h0 : orig.Keeps s) :
    orig.Keeps (State.dropIn s r) := by
  unfold State.dropIn
  repeat' first
    | with_reducible assumption
    | intro _
    | (with_reducible apply State.leaveRx_keeps)
    | with_reducible apply State.Keeps.ite | with_reducible apply State.Keeps.ite1 | with_reducible apply State.Keeps.ite2 | with_reducible apply State.Keeps.elim
    | with_reducible apply State.Keeps.foldl | with_reducible apply State.Keeps.foldl1 | with_reducible apply State.Keeps.foldl2 | with_reducible apply State.Keeps.foldl22
    | simp only [↓State.Keeps.upd, ↓State.Keeps.updFlash, ↓State.Keeps.updPoison]
    | split
    | dsimp only

theorem State.unreachPen_keeps {orig : State} {s : State} (r : RIn) (h0 : orig.Keeps s) :
    orig.Keeps (State.unreachPen s r) := by
  unfold State.unreachPen
  repeat' first
    | with_reducible assumption
    | intro _
    | (with_reducible apply State.dropIn_keeps) | (with_reducible apply State.unreachUp_keeps)
    | (with_reducible apply State.refuse_keeps) | (with_reducible apply State.vc1Unreachable_keeps)
    | with_reducible apply State.Keeps.ite | with_reducible apply State.Keeps.ite1 | with_reducible apply State.Keeps.ite2 | with_reducible apply State.Keeps.elim
    | with_reducible apply State.Keeps.foldl | with_reducible apply State.Keeps.foldl1 | with_reducible apply State.Keeps.foldl2 | with_reducible apply State.Keeps.foldl22
    | simp only [↓State.Keeps.upd, ↓State.Keeps.updFlash, ↓State.Keeps.updPoison]
    | split
    | dsimp only

theorem State.deliver_keeps {orig : State} {s : State} (r : RIn) (h0 : orig.Keeps s) :
    orig.Keeps (State.deliver s r) := by
  unfold State.deliver
  repeat' first
    | with_reducible assumption
    | intro _
    | (with_reducible apply State.dropIn_keeps)
    | with_reducible apply State.Keeps.ite | with_reducible apply State.Keeps.ite1 | with_reducible apply State.Keeps.ite2 | with_reducible apply State.Keeps.elim
    | with_reducible apply State.Keeps.foldl | with_reducible apply State.Keeps.foldl1 | with_reducible apply State.Keeps.foldl2 | with_reducible apply State.Keeps.foldl22
    | simp only [↓State.Keeps.upd, ↓State.Keeps.updFlash, ↓State.Keeps.updPoison]
    | split
    | dsimp only

theorem State.toPort_keeps {orig : State} {s : State} (r : RIn) (d : Nat) (vc : Nat) (inj : Bool) (h0 : orig.Keeps s) :
    orig.KeepsO (State.toPort s r d vc inj) := by
  unfold State.toPort
  repeat' first
    | with_reducible assumption
    | intro _
    | with_reducible exact State.KeepsO.none
    | with_reducible apply State.KeepsO.some
    | with_reducible apply State.KeepsO.map
    | (with_reducible apply State.modFport_keeps)
    | with_reducible apply State.Keeps.ite | with_reducible apply State.Keeps.ite1 | with_reducible apply State.Keeps.ite2 | with_reducible apply State.Keeps.elim
    | with_reducible apply State.Keeps.foldl | with_reducible apply State.Keeps.foldl1 | with_reducible apply State.Keeps.foldl2 | with_reducible apply State.Keeps.foldl22
    | simp only [↓State.Keeps.upd, ↓State.Keeps.updFlash, ↓State.Keeps.updPoison]
    | split
    | dsimp only

theorem State.leave_keeps {orig : State} {s : State} (r : RIn) (d : Nat) (inj : Bool) (h0 : orig.Keeps s) :
    orig.KeepsO (State.leave s r d inj) := by
  unfold State.leave
  repeat' first
    | with_reducible assumption
    | intro _
    | with_reducible exact State.KeepsO.none
    | with_reducible apply State.KeepsO.some
    | with_reducible apply State.KeepsO.map
    | (with_reducible refine State.KeepsO.out (State.toPort_keeps _ _ _ _ ?_) _ (by with_reducible assumption))
    | (with_reducible apply State.toPort_keeps) | (with_reducible apply State.modDet_keeps)
    | (with_reducible apply State.unreachPen_keeps) | (with_reducible apply State.detStart_keeps)
    | with_reducible apply State.Keeps.ite | with_reducible apply State.Keeps.ite1 | with_reducible apply State.Keeps.ite2 | with_reducible apply State.Keeps.elim
    | with_reducible apply State.Keeps.foldl | with_reducible apply State.Keeps.foldl1 | with_reducible apply State.Keeps.foldl2 | with_reducible apply State.Keeps.foldl22
    | simp only [↓State.Keeps.upd, ↓State.Keeps.updFlash, ↓State.Keeps.updPoison]
    | split
    | dsimp only

theorem State.routePlain_keeps {orig : State} {s : State} (r : RIn) (arr : Option Nat) (relayed : Bool) (h0 : orig.Keeps s) :
    orig.KeepsO (State.routePlain s r arr relayed) := by
  unfold State.routePlain
  repeat' first
    | with_reducible assumption
    | intro _
    | with_reducible exact State.KeepsO.none
    | with_reducible apply State.KeepsO.some
    | with_reducible apply State.KeepsO.map
    | (with_reducible apply State.deliver_keeps) | (with_reducible apply State.dropIn_keeps)
    | (with_reducible apply State.routeRecord_keeps) | (with_reducible apply State.bump_keeps)
    | (with_reducible apply State.unreachPen_keeps)
    | (with_reducible refine State.KeepsO.out (State.leave_keeps _ _ _ ?_) _ (by with_reducible assumption))
    | (with_reducible apply State.leave_keeps)
    | with_reducible apply State.Keeps.ite | with_reducible apply State.Keeps.ite1 | with_reducible apply State.Keeps.ite2 | with_reducible apply State.Keeps.elim
    | with_reducible apply State.Keeps.foldl | with_reducible apply State.Keeps.foldl1 | with_reducible apply State.Keeps.foldl2 | with_reducible apply State.Keeps.foldl22
    | simp only [↓State.Keeps.upd, ↓State.Keeps.updFlash, ↓State.Keeps.updPoison]
    | split
    | dsimp only

theorem State.clearRelay_keeps {orig : State} {s : State} (t : Nat) (h0 : orig.Keeps s) :
    orig.Keeps (State.clearRelay s t) := by
  unfold State.clearRelay
  repeat' first
    | with_reducible assumption
    | intro _
    | (with_reducible apply State.csrSet_keeps)
    | with_reducible apply State.Keeps.ite | with_reducible apply State.Keeps.ite1 | with_reducible apply State.Keeps.ite2 | with_reducible apply State.Keeps.elim
    | with_reducible apply State.Keeps.foldl | with_reducible apply State.Keeps.foldl1 | with_reducible apply State.Keeps.foldl2 | with_reducible apply State.Keeps.foldl22
    | simp only [↓State.Keeps.upd, ↓State.Keeps.updFlash, ↓State.Keeps.updPoison]
    | split
    | dsimp only

theorem State.relayTear_keeps {orig : State} {s : State} (t : Nat) (h0 : orig.Keeps s) :
    orig.Keeps (State.relayTear s t) := by
  unfold State.relayTear
  repeat' first
    | with_reducible assumption
    | intro _
    | (with_reducible apply State.clearRelay_keeps) | (with_reducible apply State.sendMsg_keeps)
    | with_reducible apply State.Keeps.ite | with_reducible apply State.Keeps.ite1 | with_reducible apply State.Keeps.ite2 | with_reducible apply State.Keeps.elim
    | with_reducible apply State.Keeps.foldl | with_reducible apply State.Keeps.foldl1 | with_reducible apply State.Keeps.foldl2 | with_reducible apply State.Keeps.foldl22
    | simp only [↓State.Keeps.upd, ↓State.Keeps.updFlash, ↓State.Keeps.updPoison]
    | split
    | dsimp only

theorem State.relayed_keeps {orig : State} {s : State} (t : Nat) (rel : Bool) (h0 : orig.Keeps s) :
    orig.Keeps (State.relayed s t rel) := by
  unfold State.relayed
  repeat' first
    | with_reducible assumption
    | intro _
    | (with_reducible apply State.relayTear_keeps)
    | with_reducible apply State.Keeps.ite | with_reducible apply State.Keeps.ite1 | with_reducible apply State.Keeps.ite2 | with_reducible apply State.Keeps.elim
    | with_reducible apply State.Keeps.foldl | with_reducible apply State.Keeps.foldl1 | with_reducible apply State.Keeps.foldl2 | with_reducible apply State.Keeps.foldl22
    | simp only [↓State.Keeps.upd, ↓State.Keeps.updFlash, ↓State.Keeps.updPoison]
    | split
    | dsimp only

theorem State.toVc7_keeps {orig : State} {s : State} (r : RIn) (d : Nat) (h0 : orig.Keeps s) :
    orig.KeepsO (State.toVc7 s r d) := by
  unfold State.toVc7
  repeat' first
    | with_reducible assumption
    | intro _
    | with_reducible exact State.KeepsO.none
    | with_reducible apply State.KeepsO.some
    | with_reducible apply State.KeepsO.map
    | (with_reducible apply State.dropIn_keeps) | (with_reducible apply State.routeRecord_keeps)
    | (with_reducible refine State.KeepsO.out (State.toPort_keeps _ _ _ _ ?_) _ (by with_reducible assumption))
    | (with_reducible apply State.toPort_keeps)
    | with_reducible apply State.Keeps.ite | with_reducible apply State.Keeps.ite1 | with_reducible apply State.Keeps.ite2 | with_reducible apply State.Keeps.elim
    | with_reducible apply State.Keeps.foldl | with_reducible apply State.Keeps.foldl1 | with_reducible apply State.Keeps.foldl2 | with_reducible apply State.Keeps.foldl22
    | simp only [↓State.Keeps.upd, ↓State.Keeps.updFlash, ↓State.Keeps.updPoison]
    | split
    | dsimp only

theorem State.routeDtr_keeps {orig : State} {s : State} (r : RIn) (t : Nat) (h0 : orig.Keeps s) :
    orig.KeepsO (State.routeDtr s r t) := by
  unfold State.routeDtr
  repeat' first
    | with_reducible assumption
    | intro _
    | with_reducible exact State.KeepsO.none
    | with_reducible apply State.KeepsO.some
    | with_reducible apply State.KeepsO.map
    | (with_reducible apply State.relayed_keeps)
    | (with_reducible refine State.KeepsO.out (State.routePlain_keeps _ _ _ ?_) _ (by with_reducible assumption))
    | (with_reducible apply State.routePlain_keeps)
    | (with_reducible refine State.KeepsO.out (State.toVc7_keeps _ _ ?_) _ (by with_reducible assumption))
    | (with_reducible apply State.toVc7_keeps)
    | with_reducible apply State.Keeps.ite | with_reducible apply State.Keeps.ite1 | with_reducible apply State.Keeps.ite2 | with_reducible apply State.Keeps.elim
    | with_reducible apply State.Keeps.foldl | with_reducible apply State.Keeps.foldl1 | with_reducible apply State.Keeps.foldl2 | with_reducible apply State.Keeps.foldl22
    | simp only [↓State.Keeps.upd, ↓State.Keeps.updFlash, ↓State.Keeps.updPoison]
    | split
    | dsimp only

theorem State.fetchIn_keeps {orig : State} {s : State} (r : RIn) (h0 : orig.Keeps s) :
    orig.Keeps (State.fetchIn s r).2 := by
  unfold State.fetchIn
  repeat' first
    | with_reducible assumption
    | intro _
    | (with_reducible apply State.poisonRecord_keeps)
    | with_reducible apply State.Keeps.ite | with_reducible apply State.Keeps.ite1 | with_reducible apply State.Keeps.ite2 | with_reducible apply State.Keeps.elim
    | with_reducible apply State.Keeps.foldl | with_reducible apply State.Keeps.foldl1 | with_reducible apply State.Keeps.foldl2 | with_reducible apply State.Keeps.foldl22
    | simp only [↓State.Keeps.upd, ↓State.Keeps.updFlash, ↓State.Keeps.updPoison]
    | split
    | dsimp only
theorem State.fetchIn_eq {orig : State} {s : State} (r : RIn) (h0 : orig.Keeps s)
    {other : RIn} {result : State} (e : (State.fetchIn s r) = (other, result)) : orig.Keeps result := by
  have := State.fetchIn_keeps (orig := orig) r h0
  rw [e] at this
  exact this

theorem State.routeOne_keeps {orig : State} {s0 : State} (r0 : RIn) (h0 : orig.Keeps s0) :
    orig.KeepsO (State.routeOne s0 r0) := by
  unfold State.routeOne
  repeat' first
    | with_reducible assumption
    | intro _
    | with_reducible exact State.KeepsO.none
    | with_reducible apply State.KeepsO.some
    | with_reducible apply State.KeepsO.map
    | (with_reducible apply State.fetchIn_keeps) | (with_reducible refine State.fetchIn_eq _ ?_ (by with_reducible assumption))
    | (with_reducible refine State.KeepsO.out (State.routeDtr_keeps _ _ ?_) _ (by with_reducible assumption))
    | (with_reducible apply State.routeDtr_keeps)
    | (with_reducible refine State.KeepsO.out (State.routePlain_keeps _ _ _ ?_) _ (by with_reducible assumption))
    | (with_reducible apply State.routePlain_keeps)
    | with_reducible apply State.Keeps.ite | with_reducible apply State.Keeps.ite1 | with_reducible apply State.Keeps.ite2 | with_reducible apply State.Keeps.elim
    | with_reducible apply State.Keeps.foldl | with_reducible apply State.Keeps.foldl1 | with_reducible apply State.Keeps.foldl2 | with_reducible apply State.Keeps.foldl22
    | simp only [↓State.Keeps.upd, ↓State.Keeps.updFlash, ↓State.Keeps.updPoison]
    | split
    | dsimp only

theorem State.routeFirst_keeps {orig : State} {s : State} (pre l : List RIn) (h0 : orig.Keeps s) :
    orig.KeepsO (State.routeFirst s pre l) := by
  induction l generalizing pre with
  | nil => unfold State.routeFirst; exact .none
  | cons r rest ih =>
    unfold State.routeFirst
    split
    · next s1 he =>
      refine .some ((State.routeOne_keeps r ?_).out _ he)
      simp only [↓State.Keeps.upd]
      exact h0
    · exact ih _

theorem State.reqDone_keeps {orig : State} {s : State} (r : Req) (ok : Bool) (bytes : List Byte) (poison : Bool) (h0 : orig.Keeps s) :
    orig.Keeps (State.reqDone s r ok bytes poison) := by
  unfold State.reqDone
  repeat' first
    | with_reducible assumption
    | intro _
    | (with_reducible apply State.modFlight_keeps) | (with_reducible apply State.strmAck_keeps)
    | with_reducible apply State.Keeps.ite | with_reducible apply State.Keeps.ite1 | with_reducible apply State.Keeps.ite2 | with_reducible apply State.Keeps.elim
    | with_reducible apply State.Keeps.foldl | with_reducible apply State.Keeps.foldl1 | with_reducible apply State.Keeps.foldl2 | with_reducible apply State.Keeps.foldl22
    | simp only [↓State.Keeps.upd, ↓State.Keeps.updFlash, ↓State.Keeps.updPoison]
    | split
    | dsimp only

theorem State.packetise_keeps {orig : State} {s : State} (r : Req) (h0 : orig.Keeps s) :
    orig.Keeps (State.packetise s r) := by
  unfold State.packetise
  repeat' first
    | with_reducible assumption
    | intro _
    | (with_reducible apply State.sendPen_keeps)
    | (with_reducible refine State.sendPen_eq _ _ _ _ _ _ _ _ _ _ ?_ (by with_reducible assumption))
    | (with_reducible apply State.draw_keeps) | (with_reducible refine State.draw_eq ?_ (by with_reducible assumption))
    | with_reducible apply State.Keeps.ite | with_reducible apply State.Keeps.ite1 | with_reducible apply State.Keeps.ite2 | with_reducible apply State.Keeps.elim
    | with_reducible apply State.Keeps.foldl | with_reducible apply State.Keeps.foldl1 | with_reducible apply State.Keeps.foldl2 | with_reducible apply State.Keeps.foldl22
    | simp only [↓State.Keeps.upd, ↓State.Keeps.updFlash, ↓State.Keeps.updPoison]
    | split
    | dsimp only

theorem State.nextReq_keeps {orig : State} {s : State} (h0 : orig.Keeps s) :
    orig.Keeps (State.nextReq s) := by
  unfold State.nextReq
  repeat' first
    | with_reducible assumption
    | intro _
    | (with_reducible apply State.unreachUp_keeps) | (with_reducible apply State.reqDone_keeps)
    | (with_reducible apply State.packetise_keeps)
    | with_reducible apply State.Keeps.ite | with_reducible apply State.Keeps.ite1 | with_reducible apply State.Keeps.ite2 | with_reducible apply State.Keeps.elim
    | with_reducible apply State.Keeps.foldl | with_reducible apply State.Keeps.foldl1 | with_reducible apply State.Keeps.foldl2 | with_reducible apply State.Keeps.foldl22
    | simp only [↓State.Keeps.upd, ↓State.Keeps.updFlash, ↓State.Keeps.updPoison]
    | split
    | dsimp only

theorem execRoutePennant_keeps {orig : State} {s : State} (h0 : orig.Keeps s) :
    orig.KeepsOut (execRoutePennant s) := by
  unfold execRoutePennant
  repeat' first
    | with_reducible assumption
    | intro _
    | with_reducible apply State.KeepsOut.next
    | (with_reducible refine State.KeepsO.out (State.routeFirst_keeps _ _ ?_) _ (by with_reducible assumption))
    | (with_reducible apply State.routeFirst_keeps) | (with_reducible apply State.nextReq_keeps)
    | with_reducible apply State.Keeps.ite | with_reducible apply State.Keeps.ite1 | with_reducible apply State.Keeps.ite2 | with_reducible apply State.Keeps.elim
    | with_reducible apply State.Keeps.foldl | with_reducible apply State.Keeps.foldl1 | with_reducible apply State.Keeps.foldl2 | with_reducible apply State.Keeps.foldl22
    | simp only [↓State.Keeps.upd, ↓State.Keeps.updFlash, ↓State.Keeps.updPoison]
    | split
    | dsimp only

theorem State.writeIn_keeps {orig : State} {s : State} (p : Pennant) (h0 : orig.Keeps s) :
    orig.Keeps (State.writeIn s p) := by
  unfold State.writeIn
  repeat' first
    | with_reducible assumption
    | intro _
    | (with_reducible apply State.writeMem_keeps)
    | with_reducible apply State.Keeps.ite | with_reducible apply State.Keeps.ite1 | with_reducible apply State.Keeps.ite2 | with_reducible apply State.Keeps.elim
    | with_reducible apply State.Keeps.foldl | with_reducible apply State.Keeps.foldl1 | with_reducible apply State.Keeps.foldl2 | with_reducible apply State.Keeps.foldl22
    | simp only [↓State.Keeps.upd, ↓State.Keeps.updFlash, ↓State.Keeps.updPoison]
    | split
    | dsimp only

theorem execWriteReceive_keeps {orig : State} (pn : Pennant) {s : State} (h1 : orig.Keeps s) :
    orig.KeepsOut (execWriteReceive pn s) := by
  unfold execWriteReceive
  repeat' first
    | with_reducible assumption
    | intro _
    | with_reducible apply State.KeepsOut.next
    | (with_reducible apply State.takeSeq_keeps) | (with_reducible apply State.writeIn_keeps)
    | with_reducible apply State.Keeps.ite | with_reducible apply State.Keeps.ite1 | with_reducible apply State.Keeps.ite2 | with_reducible apply State.Keeps.elim
    | with_reducible apply State.Keeps.foldl | with_reducible apply State.Keeps.foldl1 | with_reducible apply State.Keeps.foldl2 | with_reducible apply State.Keeps.foldl22
    | simp only [↓State.Keeps.upd, ↓State.Keeps.updFlash, ↓State.Keeps.updPoison]
    | split
    | dsimp only

theorem State.readOut_keeps {orig : State} {s : State} (p : Pennant) (a : Nat) (n : Nat) (ret : Nat) (h0 : orig.Keeps s) :
    orig.Keeps (State.readOut s p a n ret) := by
  unfold State.readOut
  repeat' first
    | with_reducible assumption
    | intro _
    | (with_reducible apply State.poisonRecord_keeps)
    | with_reducible apply State.Keeps.ite | with_reducible apply State.Keeps.ite1 | with_reducible apply State.Keeps.ite2 | with_reducible apply State.Keeps.elim
    | with_reducible apply State.Keeps.foldl | with_reducible apply State.Keeps.foldl1 | with_reducible apply State.Keeps.foldl2 | with_reducible apply State.Keeps.foldl22
    | simp only [↓State.Keeps.upd, ↓State.Keeps.updFlash, ↓State.Keeps.updPoison]
    | split
    | dsimp only

theorem State.readIn_keeps {orig : State} {s : State} (p : Pennant) (h0 : orig.Keeps s) :
    orig.Keeps (State.readIn s p) := by
  unfold State.readIn
  repeat' first
    | with_reducible assumption
    | intro _
    | (with_reducible apply State.readOut_keeps) | (with_reducible apply State.refuse_keeps)
    | with_reducible apply State.Keeps.ite | with_reducible apply State.Keeps.ite1 | with_reducible apply State.Keeps.ite2 | with_reducible apply State.Keeps.elim
    | with_reducible apply State.Keeps.foldl | with_reducible apply State.Keeps.foldl1 | with_reducible apply State.Keeps.foldl2 | with_reducible apply State.Keeps.foldl22
    | simp only [↓State.Keeps.upd, ↓State.Keeps.updFlash, ↓State.Keeps.updPoison]
    | split
    | dsimp only

theorem execReadReceive_keeps {orig : State} (pn : Pennant) {s : State} (h1 : orig.Keeps s) :
    orig.KeepsOut (execReadReceive pn s) := by
  unfold execReadReceive
  repeat' first
    | with_reducible assumption
    | intro _
    | with_reducible apply State.KeepsOut.next
    | (with_reducible apply State.takeSeq_keeps) | (with_reducible apply State.readIn_keeps)
    | with_reducible apply State.Keeps.ite | with_reducible apply State.Keeps.ite1 | with_reducible apply State.Keeps.ite2 | with_reducible apply State.Keeps.elim
    | with_reducible apply State.Keeps.foldl | with_reducible apply State.Keeps.foldl1 | with_reducible apply State.Keeps.foldl2 | with_reducible apply State.Keeps.foldl22
    | simp only [↓State.Keeps.upd, ↓State.Keeps.updFlash, ↓State.Keeps.updPoison]
    | split
    | dsimp only

theorem State.atomicIn_keeps {orig : State} {s : State} (p : Pennant) (h0 : orig.Keeps s) :
    orig.Keeps (State.atomicIn s p) := by
  unfold State.atomicIn
  repeat' first
    | with_reducible assumption
    | intro _
    | (with_reducible apply State.refuse_keeps)
    | with_reducible apply State.Keeps.ite | with_reducible apply State.Keeps.ite1 | with_reducible apply State.Keeps.ite2 | with_reducible apply State.Keeps.elim
    | with_reducible apply State.Keeps.foldl | with_reducible apply State.Keeps.foldl1 | with_reducible apply State.Keeps.foldl2 | with_reducible apply State.Keeps.foldl22
    | simp only [↓State.Keeps.upd, ↓State.Keeps.updFlash, ↓State.Keeps.updPoison]
    | split
    | dsimp only

theorem execAtomicReceive_keeps {orig : State} (pn : Pennant) {s : State} (h1 : orig.Keeps s) :
    orig.KeepsOut (execAtomicReceive pn s) := by
  unfold execAtomicReceive
  repeat' first
    | with_reducible assumption
    | intro _
    | with_reducible apply State.KeepsOut.next
    | (with_reducible apply State.takeSeq_keeps) | (with_reducible apply State.atomicIn_keeps)
    | with_reducible apply State.Keeps.ite | with_reducible apply State.Keeps.ite1 | with_reducible apply State.Keeps.ite2 | with_reducible apply State.Keeps.elim
    | with_reducible apply State.Keeps.foldl | with_reducible apply State.Keeps.foldl1 | with_reducible apply State.Keeps.foldl2 | with_reducible apply State.Keeps.foldl22
    | simp only [↓State.Keeps.upd, ↓State.Keeps.updFlash, ↓State.Keeps.updPoison]
    | split
    | dsimp only

theorem State.sendResp_keeps {orig : State} {s : State} (p : Pennant) (h0 : orig.Keeps s) :
    orig.Keeps (State.sendResp s p) := by
  unfold State.sendResp
  repeat' first
    | with_reducible assumption
    | intro _
    | (with_reducible apply State.sendPen_keeps)
    | (with_reducible refine State.sendPen_eq _ _ _ _ _ _ _ _ _ _ ?_ (by with_reducible assumption))
    | with_reducible apply State.Keeps.ite | with_reducible apply State.Keeps.ite1 | with_reducible apply State.Keeps.ite2 | with_reducible apply State.Keeps.elim
    | with_reducible apply State.Keeps.foldl | with_reducible apply State.Keeps.foldl1 | with_reducible apply State.Keeps.foldl2 | with_reducible apply State.Keeps.foldl22
    | simp only [↓State.Keeps.upd, ↓State.Keeps.updFlash, ↓State.Keeps.updPoison]
    | split
    | dsimp only

theorem execResponseSend_keeps {orig : State} {s : State} (h0 : orig.Keeps s) :
    orig.KeepsOut (execResponseSend s) := by
  unfold execResponseSend
  repeat' first
    | with_reducible assumption
    | intro _
    | with_reducible apply State.KeepsOut.next
    | (with_reducible apply State.sendResp_keeps) | (with_reducible apply State.sendPen_keeps)
    | (with_reducible refine State.sendPen_eq _ _ _ _ _ _ _ _ _ _ ?_ (by with_reducible assumption))
    | with_reducible apply State.Keeps.ite | with_reducible apply State.Keeps.ite1 | with_reducible apply State.Keeps.ite2 | with_reducible apply State.Keeps.elim
    | with_reducible apply State.Keeps.foldl | with_reducible apply State.Keeps.foldl1 | with_reducible apply State.Keeps.foldl2 | with_reducible apply State.Keeps.foldl22
    | simp only [↓State.Keeps.upd, ↓State.Keeps.updFlash, ↓State.Keeps.updPoison]
    | split
    | dsimp only

theorem execWackSend_keeps {orig : State} (i : Nat) {s : State} (h1 : orig.Keeps s) :
    orig.KeepsOut (execWackSend i s) := by
  unfold execWackSend
  repeat' first
    | with_reducible assumption
    | intro _
    | with_reducible apply State.KeepsOut.next
    | (with_reducible apply State.sendPen_keeps)
    | (with_reducible refine State.sendPen_eq _ _ _ _ _ _ _ _ _ _ ?_ (by with_reducible assumption))
    | with_reducible apply State.Keeps.ite | with_reducible apply State.Keeps.ite1 | with_reducible apply State.Keeps.ite2 | with_reducible apply State.Keeps.elim
    | with_reducible apply State.Keeps.foldl | with_reducible apply State.Keeps.foldl1 | with_reducible apply State.Keeps.foldl2 | with_reducible apply State.Keeps.foldl22
    | simp only [↓State.Keeps.upd, ↓State.Keeps.updFlash, ↓State.Keeps.updPoison]
    | split
    | dsimp only

theorem State.dropLate_keeps {orig : State} {s : State} (p : Pennant) (h0 : orig.Keeps s) :
    orig.Keeps (State.dropLate s p) := by
  unfold State.dropLate
  repeat' first
    | with_reducible assumption
    | intro _
    | with_reducible apply State.Keeps.ite | with_reducible apply State.Keeps.ite1 | with_reducible apply State.Keeps.ite2 | with_reducible apply State.Keeps.elim
    | with_reducible apply State.Keeps.foldl | with_reducible apply State.Keeps.foldl1 | with_reducible apply State.Keeps.foldl2 | with_reducible apply State.Keeps.foldl22
    | simp only [↓State.Keeps.upd, ↓State.Keeps.updFlash, ↓State.Keeps.updPoison]
    | split
    | dsimp only

theorem State.dropReq_keeps {orig : State} {s : State} (x : OReq) (h0 : orig.Keeps s) :
    orig.Keeps (State.dropReq s x) := by
  unfold State.dropReq
  repeat' first
    | with_reducible assumption
    | intro _
    | with_reducible apply State.Keeps.ite | with_reducible apply State.Keeps.ite1 | with_reducible apply State.Keeps.ite2 | with_reducible apply State.Keeps.elim
    | with_reducible apply State.Keeps.foldl | with_reducible apply State.Keeps.foldl1 | with_reducible apply State.Keeps.foldl2 | with_reducible apply State.Keeps.foldl22
    | simp only [↓State.Keeps.upd, ↓State.Keeps.updFlash, ↓State.Keeps.updPoison]
    | split
    | dsimp only

theorem State.rdataIn_keeps {orig : State} {s : State} (p : Pennant) (h0 : orig.Keeps s) :
    orig.Keeps (State.rdataIn s p) := by
  unfold State.rdataIn
  repeat' first
    | with_reducible assumption
    | intro _
    | (with_reducible apply State.dropReq_keeps) | (with_reducible apply State.strmData_keeps)
    | (with_reducible apply State.reqDone_keeps)
    | with_reducible apply State.Keeps.ite | with_reducible apply State.Keeps.ite1 | with_reducible apply State.Keeps.ite2 | with_reducible apply State.Keeps.elim
    | with_reducible apply State.Keeps.foldl | with_reducible apply State.Keeps.foldl1 | with_reducible apply State.Keeps.foldl2 | with_reducible apply State.Keeps.foldl22
    | simp only [↓State.Keeps.upd, ↓State.Keeps.updFlash, ↓State.Keeps.updPoison]
    | split
    | dsimp only

theorem execRdataReceive_keeps {orig : State} (pn : Pennant) {s : State} (h1 : orig.Keeps s) :
    orig.KeepsOut (execRdataReceive pn s) := by
  unfold execRdataReceive
  repeat' first
    | with_reducible assumption
    | intro _
    | with_reducible apply State.KeepsOut.next
    | (with_reducible apply State.takeSeq_keeps) | (with_reducible apply State.rdataIn_keeps)
    | with_reducible apply State.Keeps.ite | with_reducible apply State.Keeps.ite1 | with_reducible apply State.Keeps.ite2 | with_reducible apply State.Keeps.elim
    | with_reducible apply State.Keeps.foldl | with_reducible apply State.Keeps.foldl1 | with_reducible apply State.Keeps.foldl2 | with_reducible apply State.Keeps.foldl22
    | simp only [↓State.Keeps.upd, ↓State.Keeps.updFlash, ↓State.Keeps.updPoison]
    | split
    | dsimp only

theorem State.answerIn_keeps {orig : State} {s : State} (p : Pennant) (kind : Req → Bool) (h0 : orig.Keeps s) :
    orig.Keeps (State.answerIn s p kind) := by
  unfold State.answerIn
  repeat' first
    | with_reducible assumption
    | intro _
    | (with_reducible apply State.reqDone_keeps) | (with_reducible apply State.dropReq_keeps)
    | (with_reducible apply State.dropLate_keeps)
    | with_reducible apply State.Keeps.ite | with_reducible apply State.Keeps.ite1 | with_reducible apply State.Keeps.ite2 | with_reducible apply State.Keeps.elim
    | with_reducible apply State.Keeps.foldl | with_reducible apply State.Keeps.foldl1 | with_reducible apply State.Keeps.foldl2 | with_reducible apply State.Keeps.foldl22
    | simp only [↓State.Keeps.upd, ↓State.Keeps.updFlash, ↓State.Keeps.updPoison]
    | split
    | dsimp only

theorem execArespReceive_keeps {orig : State} (pn : Pennant) {s : State} (h1 : orig.Keeps s) :
    orig.KeepsOut (execArespReceive pn s) := by
  unfold execArespReceive
  repeat' first
    | with_reducible assumption
    | intro _
    | with_reducible apply State.KeepsOut.next
    | (with_reducible apply State.takeSeq_keeps) | (with_reducible apply State.answerIn_keeps)
    | with_reducible apply State.Keeps.ite | with_reducible apply State.Keeps.ite1 | with_reducible apply State.Keeps.ite2 | with_reducible apply State.Keeps.elim
    | with_reducible apply State.Keeps.foldl | with_reducible apply State.Keeps.foldl1 | with_reducible apply State.Keeps.foldl2 | with_reducible apply State.Keeps.foldl22
    | simp only [↓State.Keeps.upd, ↓State.Keeps.updFlash, ↓State.Keeps.updPoison]
    | split
    | dsimp only

theorem execWackReceive_keeps {orig : State} (pn : Pennant) {s : State} (h1 : orig.Keeps s) :
    orig.KeepsOut (execWackReceive pn s) := by
  unfold execWackReceive
  repeat' first
    | with_reducible assumption
    | intro _
    | with_reducible apply State.KeepsOut.next
    | (with_reducible apply State.takeSeq_keeps) | (with_reducible apply State.answerIn_keeps)
    | with_reducible apply State.Keeps.ite | with_reducible apply State.Keeps.ite1 | with_reducible apply State.Keeps.ite2 | with_reducible apply State.Keeps.elim
    | with_reducible apply State.Keeps.foldl | with_reducible apply State.Keeps.foldl1 | with_reducible apply State.Keeps.foldl2 | with_reducible apply State.Keeps.foldl22
    | simp only [↓State.Keeps.upd, ↓State.Keeps.updFlash, ↓State.Keeps.updPoison]
    | split
    | dsimp only

theorem execRnakReceive_keeps {orig : State} (pn : Pennant) {s : State} (h1 : orig.Keeps s) :
    orig.KeepsOut (execRnakReceive pn s) := by
  unfold execRnakReceive
  repeat' first
    | with_reducible assumption
    | intro _
    | with_reducible apply State.KeepsOut.next
    | (with_reducible apply State.takeSeq_keeps) | (with_reducible apply State.reqDone_keeps)
    | (with_reducible apply State.dropReq_keeps) | (with_reducible apply State.dropLate_keeps)
    | with_reducible apply State.Keeps.ite | with_reducible apply State.Keeps.ite1 | with_reducible apply State.Keeps.ite2 | with_reducible apply State.Keeps.elim
    | with_reducible apply State.Keeps.foldl | with_reducible apply State.Keeps.foldl1 | with_reducible apply State.Keeps.foldl2 | with_reducible apply State.Keeps.foldl22
    | simp only [↓State.Keeps.upd, ↓State.Keeps.updFlash, ↓State.Keeps.updPoison]
    | split
    | dsimp only

theorem execResponseTimeout_keeps {orig : State} (i : Nat) {s : State} (h1 : orig.Keeps s) :
    orig.KeepsOut (execResponseTimeout i s) := by
  unfold execResponseTimeout
  repeat' first
    | with_reducible assumption
    | intro _
    | with_reducible apply State.KeepsOut.next
    | (with_reducible apply State.dropReq_keeps) | (with_reducible apply State.reqDone_keeps)
    | with_reducible apply State.Keeps.ite | with_reducible apply State.Keeps.ite1 | with_reducible apply State.Keeps.ite2 | with_reducible apply State.Keeps.elim
    | with_reducible apply State.Keeps.foldl | with_reducible apply State.Keeps.foldl1 | with_reducible apply State.Keeps.foldl2 | with_reducible apply State.Keeps.foldl22
    | simp only [↓State.Keeps.upd, ↓State.Keeps.updFlash, ↓State.Keeps.updPoison]
    | split
    | dsimp only

theorem State.dsetup_keeps {orig : State} {s : State} (t : Fin 6) (m : DetourMsg) (h0 : orig.Keeps s) :
    orig.Keeps (State.dsetup s t m) := by
  unfold State.dsetup
  repeat' first
    | with_reducible assumption
    | intro _
    | (with_reducible apply State.csrSet_keeps) | (with_reducible apply State.sendMsg_keeps)
    | with_reducible apply State.Keeps.ite | with_reducible apply State.Keeps.ite1 | with_reducible apply State.Keeps.ite2 | with_reducible apply State.Keeps.elim
    | with_reducible apply State.Keeps.foldl | with_reducible apply State.Keeps.foldl1 | with_reducible apply State.Keeps.foldl2 | with_reducible apply State.Keeps.foldl22
    | simp only [↓State.Keeps.upd, ↓State.Keeps.updFlash, ↓State.Keeps.updPoison]
    | split
    | dsimp only

theorem execDsetupReceive_keeps {orig : State} (t : Fin 6) (m : DetourMsg) {s : State} (h2 : orig.Keeps s) :
    orig.KeepsOut (execDsetupReceive t m s) := by
  unfold execDsetupReceive
  repeat' first
    | with_reducible assumption
    | intro _
    | with_reducible apply State.KeepsOut.next
    | (with_reducible apply State.dsetup_keeps)
    | with_reducible apply State.Keeps.ite | with_reducible apply State.Keeps.ite1 | with_reducible apply State.Keeps.ite2 | with_reducible apply State.Keeps.elim
    | with_reducible apply State.Keeps.foldl | with_reducible apply State.Keeps.foldl1 | with_reducible apply State.Keeps.foldl2 | with_reducible apply State.Keeps.foldl22
    | simp only [↓State.Keeps.upd, ↓State.Keeps.updFlash, ↓State.Keeps.updPoison]
    | split
    | dsimp only

theorem State.dack_keeps {orig : State} {s : State} (d : Nat) (h0 : orig.Keeps s) :
    orig.Keeps (State.dack s d) := by
  unfold State.dack
  repeat' first
    | with_reducible assumption
    | intro _
    | (with_reducible apply State.modDet_keeps) | (with_reducible apply State.bump_keeps) | (with_reducible apply State.setFld_keeps)
    | (with_reducible apply State.detNext_keeps)
    | with_reducible apply State.Keeps.ite | with_reducible apply State.Keeps.ite1 | with_reducible apply State.Keeps.ite2 | with_reducible apply State.Keeps.elim
    | with_reducible apply State.Keeps.foldl | with_reducible apply State.Keeps.foldl1 | with_reducible apply State.Keeps.foldl2 | with_reducible apply State.Keeps.foldl22
    | simp only [↓State.Keeps.upd, ↓State.Keeps.updFlash, ↓State.Keeps.updPoison]
    | split
    | dsimp only

theorem execDackReceive_keeps {orig : State} (d : Fin 6) {s : State} (h1 : orig.Keeps s) :
    orig.KeepsOut (execDackReceive d s) := by
  unfold execDackReceive
  repeat' first
    | with_reducible assumption
    | intro _
    | with_reducible apply State.KeepsOut.next
    | (with_reducible apply State.dack_keeps)
    | with_reducible apply State.Keeps.ite | with_reducible apply State.Keeps.ite1 | with_reducible apply State.Keeps.ite2 | with_reducible apply State.Keeps.elim
    | with_reducible apply State.Keeps.foldl | with_reducible apply State.Keeps.foldl1 | with_reducible apply State.Keeps.foldl2 | with_reducible apply State.Keeps.foldl22
    | simp only [↓State.Keeps.upd, ↓State.Keeps.updFlash, ↓State.Keeps.updPoison]
    | split
    | dsimp only

theorem State.dnak_keeps {orig : State} {s : State} (d : Nat) (noPortToB : Bool) (h0 : orig.Keeps s) :
    orig.Keeps (State.dnak s d noPortToB) := by
  unfold State.dnak
  repeat' first
    | with_reducible assumption
    | intro _
    | (with_reducible apply State.sendMsg_keeps) | (with_reducible apply State.detNext_keeps)
    | (with_reducible apply State.modDet_keeps)
    | with_reducible apply State.Keeps.ite | with_reducible apply State.Keeps.ite1 | with_reducible apply State.Keeps.ite2 | with_reducible apply State.Keeps.elim
    | with_reducible apply State.Keeps.foldl | with_reducible apply State.Keeps.foldl1 | with_reducible apply State.Keeps.foldl2 | with_reducible apply State.Keeps.foldl22
    | simp only [↓State.Keeps.upd, ↓State.Keeps.updFlash, ↓State.Keeps.updPoison]
    | split
    | dsimp only

theorem execDnakReceive_keeps {orig : State} (d : Fin 6) (noPortToB : Bool) {s : State} (h2 : orig.Keeps s) :
    orig.KeepsOut (execDnakReceive d noPortToB s) := by
  unfold execDnakReceive
  repeat' first
    | with_reducible assumption
    | intro _
    | with_reducible apply State.KeepsOut.next
    | (with_reducible apply State.dnak_keeps)
    | with_reducible apply State.Keeps.ite | with_reducible apply State.Keeps.ite1 | with_reducible apply State.Keeps.ite2 | with_reducible apply State.Keeps.elim
    | with_reducible apply State.Keeps.foldl | with_reducible apply State.Keeps.foldl1 | with_reducible apply State.Keeps.foldl2 | with_reducible apply State.Keeps.foldl22
    | simp only [↓State.Keeps.upd, ↓State.Keeps.updFlash, ↓State.Keeps.updPoison]
    | split
    | dsimp only

theorem State.dtear_keeps {orig : State} {s : State} (owner : PkgId) (t : Nat) (count : Nat) (h0 : orig.Keeps s) :
    orig.Keeps (State.dtear s owner t count) := by
  unfold State.dtear
  repeat' first
    | with_reducible assumption
    | intro _
    | (with_reducible apply State.relayTear_keeps)
    | with_reducible apply State.Keeps.ite | with_reducible apply State.Keeps.ite1 | with_reducible apply State.Keeps.ite2 | with_reducible apply State.Keeps.elim
    | with_reducible apply State.Keeps.foldl | with_reducible apply State.Keeps.foldl1 | with_reducible apply State.Keeps.foldl2 | with_reducible apply State.Keeps.foldl22
    | simp only [↓State.Keeps.upd, ↓State.Keeps.updFlash, ↓State.Keeps.updPoison]
    | split
    | dsimp only

theorem execDtearReceive_keeps {orig : State} (owner : PkgId) (t : Fin 6) (count : Nat) {s : State} (h3 : orig.Keeps s) :
    orig.KeepsOut (execDtearReceive owner t count s) := by
  unfold execDtearReceive
  repeat' first
    | with_reducible assumption
    | intro _
    | with_reducible apply State.KeepsOut.next
    | (with_reducible apply State.dtear_keeps)
    | with_reducible apply State.Keeps.ite | with_reducible apply State.Keeps.ite1 | with_reducible apply State.Keeps.ite2 | with_reducible apply State.Keeps.elim
    | with_reducible apply State.Keeps.foldl | with_reducible apply State.Keeps.foldl1 | with_reducible apply State.Keeps.foldl2 | with_reducible apply State.Keeps.foldl22
    | simp only [↓State.Keeps.upd, ↓State.Keeps.updFlash, ↓State.Keeps.updPoison]
    | split
    | dsimp only

theorem State.dtearDone_keeps {orig : State} {s : State} (d : Nat) (h0 : orig.Keeps s) :
    orig.Keeps (State.dtearDone s d) := by
  unfold State.dtearDone
  repeat' first
    | with_reducible assumption
    | intro _
    | (with_reducible apply State.modDet_keeps) | (with_reducible apply State.detStart_keeps)
    | (with_reducible apply State.setFld_keeps)
    | with_reducible apply State.Keeps.ite | with_reducible apply State.Keeps.ite1 | with_reducible apply State.Keeps.ite2 | with_reducible apply State.Keeps.elim
    | with_reducible apply State.Keeps.foldl | with_reducible apply State.Keeps.foldl1 | with_reducible apply State.Keeps.foldl2 | with_reducible apply State.Keeps.foldl22
    | simp only [↓State.Keeps.upd, ↓State.Keeps.updFlash, ↓State.Keeps.updPoison]
    | split
    | dsimp only

theorem execDtearAnswerReceive_keeps {orig : State} (d : Fin 6) {s : State} (h1 : orig.Keeps s) :
    orig.KeepsOut (execDtearAnswerReceive d s) := by
  unfold execDtearAnswerReceive
  repeat' first
    | with_reducible assumption
    | intro _
    | with_reducible apply State.KeepsOut.next
    | (with_reducible apply State.dtearDone_keeps)
    | with_reducible apply State.Keeps.ite | with_reducible apply State.Keeps.ite1 | with_reducible apply State.Keeps.ite2 | with_reducible apply State.Keeps.elim
    | with_reducible apply State.Keeps.foldl | with_reducible apply State.Keeps.foldl1 | with_reducible apply State.Keeps.foldl2 | with_reducible apply State.Keeps.foldl22
    | simp only [↓State.Keeps.upd, ↓State.Keeps.updFlash, ↓State.Keeps.updPoison]
    | split
    | dsimp only

end Sys2Proof.Machine
end

