-- ==== Sys2Proof/Laws/KeepReset.lean ====
section
/-! SUPPORT. What the operations of Machine/Reset.lean keep. -/

set_option linter.all false

namespace Sys2Proof.Machine

theorem State.ctxFields_keeps {orig : State} {s : State} (n : Nat) (pick : FldDesc → Option Nat) (h0 : orig.Keeps s) :
    orig.Keeps (State.ctxFields s n pick) := by
  unfold State.ctxFields
  repeat' first
    | with_reducible assumption
    | intro _
    | (with_reducible apply State.setFld_keeps)
    | with_reducible apply State.Keeps.ite | with_reducible apply State.Keeps.ite1 | with_reducible apply State.Keeps.ite2 | with_reducible apply State.Keeps.elim
    | with_reducible apply State.Keeps.foldl | with_reducible apply State.Keeps.foldl1 | with_reducible apply State.Keeps.foldl2 | with_reducible apply State.Keeps.foldl22
    | simp only [↓State.Keeps.upd, ↓State.Keeps.updFlash, ↓State.Keeps.updPoison]
    | split
    | dsimp only

theorem State.sendDown_keeps {orig : State} {s : State} (ctx : CtxId) (dst : Nat) (bytes : List Byte) (h0 : orig.Keeps s) :
    orig.Keeps (State.sendDown s ctx dst bytes) := by
  unfold State.sendDown
  repeat' first
    | with_reducible assumption
    | intro _
    | (with_reducible apply State.sendPen_keeps)
    | (with_reducible refine State.sendPen_eq _ _ _ _ _ _ _ _ _ _ ?_ (by with_reducible assumption))
    | with_reducible apply State.Keeps.ite | with_reducible apply State.Keeps.ite1 | with_reducible apply State.Keeps.ite2 | with_reducible apply State.Keeps.elim
    | with_reducible apply State.Keeps.foldl | with_reducible apply State.Keeps.foldl1 | with_reducible apply State.Keeps.foldl2 | with_reducible apply State.Keeps.foldl22
    | simp only [↓State.Keeps.upd, ↓State.Keeps.updFlash, ↓State.Keeps.updPoison]
    | split
    | dsimp only

theorem State.ctxDown_keeps {orig : State} {s : State} (ctx : CtxId) (reason : Nat) (time : Nat) (h0 : orig.Keeps s) :
    orig.Keeps (State.ctxDown s ctx reason time) := by
  unfold State.ctxDown
  repeat' first
    | with_reducible assumption
    | intro _
    | (with_reducible apply State.sendDown_keeps)
    | with_reducible apply State.Keeps.ite | with_reducible apply State.Keeps.ite1 | with_reducible apply State.Keeps.ite2 | with_reducible apply State.Keeps.elim
    | with_reducible apply State.Keeps.foldl | with_reducible apply State.Keeps.foldl1 | with_reducible apply State.Keeps.foldl2 | with_reducible apply State.Keeps.foldl22
    | simp only [↓State.Keeps.upd, ↓State.Keeps.updFlash, ↓State.Keeps.updPoison]
    | split
    | dsimp only

theorem State.downIn_keeps {orig : State} {s : State} (pn : Pennant) (h0 : orig.Keeps s) :
    orig.Keeps (State.downIn s pn) := by
  unfold State.downIn
  repeat' first
    | with_reducible assumption
    | intro _
    | (with_reducible apply State.takeIn_keeps) | (with_reducible apply State.sendDown_keeps)
    | (with_reducible apply State.keyDown_keeps) | (with_reducible apply State.halPeerDown_keeps)
    | with_reducible apply State.Keeps.ite | with_reducible apply State.Keeps.ite1 | with_reducible apply State.Keeps.ite2 | with_reducible apply State.Keeps.elim
    | with_reducible apply State.Keeps.foldl | with_reducible apply State.Keeps.foldl1 | with_reducible apply State.Keeps.foldl2 | with_reducible apply State.Keeps.foldl22
    | simp only [↓State.Keeps.upd, ↓State.Keeps.updFlash, ↓State.Keeps.updPoison]
    | split
    | dsimp only

theorem execCtxDownReceive_keeps {orig : State} (pn : Pennant) {s : State} (h1 : orig.Keeps s) :
    orig.KeepsOut (execCtxDownReceive pn s) := by
  unfold execCtxDownReceive
  repeat' first
    | with_reducible assumption
    | intro _
    | with_reducible apply State.KeepsOut.next
    | (with_reducible apply State.downIn_keeps)
    | with_reducible apply State.Keeps.ite | with_reducible apply State.Keeps.ite1 | with_reducible apply State.Keeps.ite2 | with_reducible apply State.Keeps.elim
    | with_reducible apply State.Keeps.foldl | with_reducible apply State.Keeps.foldl1 | with_reducible apply State.Keeps.foldl2 | with_reducible apply State.Keeps.foldl22
    | simp only [↓State.Keeps.upd, ↓State.Keeps.updFlash, ↓State.Keeps.updPoison]
    | split
    | dsimp only

theorem execContextHang_keeps {orig : State} (ctx : CtxId) {s : State} (h1 : orig.Keeps s) :
    orig.KeepsOut (execContextHang ctx s) := by
  unfold execContextHang
  repeat' first
    | with_reducible assumption
    | intro _
    | with_reducible apply State.KeepsOut.next
    | (with_reducible apply State.startHatch_keeps)
    | with_reducible apply State.Keeps.ite | with_reducible apply State.Keeps.ite1 | with_reducible apply State.Keeps.ite2 | with_reducible apply State.Keeps.elim
    | with_reducible apply State.Keeps.foldl | with_reducible apply State.Keeps.foldl1 | with_reducible apply State.Keeps.foldl2 | with_reducible apply State.Keeps.foldl22
    | simp only [↓State.Keeps.upd, ↓State.Keeps.updFlash, ↓State.Keeps.updPoison]
    | split
    | dsimp only

theorem State.engineHang_keeps {orig : State} {s : State} (key : Nat) (e : Engine) (h0 : orig.Keeps s) :
    orig.Keeps (State.engineHang s key e) := by
  unfold State.engineHang
  repeat' first
    | with_reducible assumption
    | intro _
    | (with_reducible apply State.openRecord_keeps) | (with_reducible refine State.openRecord_eq _ _ ?_ (by with_reducible assumption))
    | (with_reducible apply State.startHatch_keeps) | (with_reducible apply State.handle_keeps)
    | with_reducible apply State.Keeps.ite | with_reducible apply State.Keeps.ite1 | with_reducible apply State.Keeps.ite2 | with_reducible apply State.Keeps.elim
    | with_reducible apply State.Keeps.foldl | with_reducible apply State.Keeps.foldl1 | with_reducible apply State.Keeps.foldl2 | with_reducible apply State.Keeps.foldl22
    | simp only [↓State.Keeps.upd, ↓State.Keeps.updFlash, ↓State.Keeps.updPoison]
    | split
    | dsimp only

theorem execEngineHang_keeps {orig : State} (c : CoreId) (e : Engine) {s : State} (h2 : orig.Keeps s) :
    orig.KeepsOut (execEngineHang c e s) := by
  unfold execEngineHang
  repeat' first
    | with_reducible assumption
    | intro _
    | with_reducible apply State.KeepsOut.next
    | (with_reducible apply State.engineHang_keeps)
    | with_reducible apply State.Keeps.ite | with_reducible apply State.Keeps.ite1 | with_reducible apply State.Keeps.ite2 | with_reducible apply State.Keeps.elim
    | with_reducible apply State.Keeps.foldl | with_reducible apply State.Keeps.foldl1 | with_reducible apply State.Keeps.foldl2 | with_reducible apply State.Keeps.foldl22
    | simp only [↓State.Keeps.upd, ↓State.Keeps.updFlash, ↓State.Keeps.updPoison]
    | split
    | dsimp only

theorem execUnitHang_keeps {orig : State} (unit : UnitCode) (ctx : CtxId) {s : State} (h2 : orig.Keeps s) :
    orig.KeepsOut (execUnitHang unit ctx s) := by
  unfold execUnitHang
  repeat' first
    | with_reducible assumption
    | intro _
    | with_reducible apply State.KeepsOut.next
    | (with_reducible apply State.openRecord_keeps) | (with_reducible refine State.openRecord_eq _ _ ?_ (by with_reducible assumption))
    | (with_reducible apply State.handle_keeps) | (with_reducible apply State.startHatch_keeps)
    | with_reducible apply State.Keeps.ite | with_reducible apply State.Keeps.ite1 | with_reducible apply State.Keeps.ite2 | with_reducible apply State.Keeps.elim
    | with_reducible apply State.Keeps.foldl | with_reducible apply State.Keeps.foldl1 | with_reducible apply State.Keeps.foldl2 | with_reducible apply State.Keeps.foldl22
    | simp only [↓State.Keeps.upd, ↓State.Keeps.updFlash, ↓State.Keeps.updPoison]
    | split
    | dsimp only

theorem State.takeSample_keeps {orig : State} {s : State} (n : Nat) (h : Hatch) (h0 : orig.Keeps s) :
    orig.Keeps (State.takeSample s n h).1 := by
  unfold State.takeSample
  repeat' first
    | with_reducible assumption
    | intro _
    | (with_reducible apply State.writeMem_keeps) | (with_reducible apply State.copyMem_keeps)
    | with_reducible apply State.Keeps.ite | with_reducible apply State.Keeps.ite1 | with_reducible apply State.Keeps.ite2 | with_reducible apply State.Keeps.elim
    | with_reducible apply State.Keeps.foldl | with_reducible apply State.Keeps.foldl1 | with_reducible apply State.Keeps.foldl2 | with_reducible apply State.Keeps.foldl22
    | simp only [↓State.Keeps.upd, ↓State.Keeps.updFlash, ↓State.Keeps.updPoison]
    | split
    | dsimp only
theorem State.takeSample_eq {orig : State} {s : State} (n : Nat) (h : Hatch) (h0 : orig.Keeps s)
    {other : Bool} {result : State} (e : (State.takeSample s n h) = (result, other)) : orig.Keeps result := by
  have := State.takeSample_keeps (orig := orig) n h h0
  rw [e] at this
  exact this

theorem State.zeroSram_keeps {orig : State} {s : State} (lo n : Nat) (h0 : orig.Keeps s) : orig.Keeps (State.zeroSram s lo n) :=
  ⟨fun h => cellsWf_filter (h0.mem h), h0.pending, h0.floor, h0.revoked, h0.gen, h0.rekeys, h0.colds, h0.free⟩

theorem State.zeroCluster_keeps {orig : State} {s : State} (i : Nat) (h0 : orig.Keeps s) :
    orig.Keeps (State.zeroCluster s i) := by
  unfold State.zeroCluster
  repeat' first
    | with_reducible assumption
    | intro _
    | (with_reducible apply State.zeroSram_keeps) | (with_reducible apply State.modCore_keeps)
    | with_reducible apply State.Keeps.ite | with_reducible apply State.Keeps.ite1 | with_reducible apply State.Keeps.ite2 | with_reducible apply State.Keeps.elim
    | with_reducible apply State.Keeps.foldl | with_reducible apply State.Keeps.foldl1 | with_reducible apply State.Keeps.foldl2 | with_reducible apply State.Keeps.foldl22
    | simp only [↓State.Keeps.upd, ↓State.Keeps.updFlash, ↓State.Keeps.updPoison]
    | split
    | dsimp only

theorem State.cancelStreams_keeps {orig : State} {s : State} (n : Nat) (h0 : orig.Keeps s) :
    orig.Keeps (State.cancelStreams s n) := by
  unfold State.cancelStreams
  repeat' first
    | with_reducible assumption
    | intro _
    | (with_reducible apply State.strmEnd_keeps) | (with_reducible apply State.setStrm_keeps)
    | with_reducible apply State.Keeps.ite | with_reducible apply State.Keeps.ite1 | with_reducible apply State.Keeps.ite2 | with_reducible apply State.Keeps.elim
    | with_reducible apply State.Keeps.foldl | with_reducible apply State.Keeps.foldl1 | with_reducible apply State.Keeps.foldl2 | with_reducible apply State.Keeps.foldl22
    | simp only [↓State.Keeps.upd, ↓State.Keeps.updFlash, ↓State.Keeps.updPoison]
    | split
    | dsimp only

theorem State.hatchCtl_keeps {orig : State} {s : State} (n : Nat) (h0 : orig.Keeps s) :
    orig.Keeps (State.hatchCtl s n) := by
  unfold State.hatchCtl
  repeat' first
    | with_reducible assumption
    | intro _
    | (with_reducible apply State.draw_keeps) | (with_reducible refine State.draw_eq ?_ (by with_reducible assumption))
    | (with_reducible apply State.ccBack_keeps)
    | with_reducible apply State.Keeps.ite | with_reducible apply State.Keeps.ite1 | with_reducible apply State.Keeps.ite2 | with_reducible apply State.Keeps.elim
    | with_reducible apply State.Keeps.foldl | with_reducible apply State.Keeps.foldl1 | with_reducible apply State.Keeps.foldl2 | with_reducible apply State.Keeps.foldl22
    | simp only [↓State.Keeps.upd, ↓State.Keeps.updFlash, ↓State.Keeps.updPoison]
    | split
    | dsimp only

theorem State.dropFlights_keeps {orig : State} {s : State} (n : Nat) (h0 : orig.Keeps s) :
    orig.Keeps (State.dropFlights s n) := by
  unfold State.dropFlights
  repeat' first
    | with_reducible assumption
    | intro _
    | with_reducible apply State.Keeps.ite | with_reducible apply State.Keeps.ite1 | with_reducible apply State.Keeps.ite2 | with_reducible apply State.Keeps.elim
    | with_reducible apply State.Keeps.foldl | with_reducible apply State.Keeps.foldl1 | with_reducible apply State.Keeps.foldl2 | with_reducible apply State.Keeps.foldl22
    | simp only [↓State.Keeps.upd, ↓State.Keeps.updFlash, ↓State.Keeps.updPoison]
    | split
    | dsimp only

theorem State.clearCores_keeps {orig : State} {s : State} (n : Nat) (h0 : orig.Keeps s) :
    orig.Keeps (State.clearCores s n) := by
  unfold State.clearCores
  repeat' first
    | with_reducible assumption
    | intro _
    | with_reducible apply State.Keeps.ite | with_reducible apply State.Keeps.ite1 | with_reducible apply State.Keeps.ite2 | with_reducible apply State.Keeps.elim
    | with_reducible apply State.Keeps.foldl | with_reducible apply State.Keeps.foldl1 | with_reducible apply State.Keeps.foldl2 | with_reducible apply State.Keeps.foldl22
    | simp only [↓State.Keeps.upd, ↓State.Keeps.updFlash, ↓State.Keeps.updPoison]
    | split
    | dsimp only

theorem State.clearColls_keeps {orig : State} {s : State} (n : Nat) (h0 : orig.Keeps s) :
    orig.Keeps (State.clearColls s n) := by
  unfold State.clearColls
  repeat' first
    | with_reducible assumption
    | intro _
    | (with_reducible apply State.endColls_keeps)
    | with_reducible apply State.Keeps.ite | with_reducible apply State.Keeps.ite1 | with_reducible apply State.Keeps.ite2 | with_reducible apply State.Keeps.elim
    | with_reducible apply State.Keeps.foldl | with_reducible apply State.Keeps.foldl1 | with_reducible apply State.Keeps.foldl2 | with_reducible apply State.Keeps.foldl22
    | simp only [↓State.Keeps.upd, ↓State.Keeps.updFlash, ↓State.Keeps.updPoison]
    | split
    | dsimp only

theorem State.clearPhases_keeps {orig : State} {s : State} (n : Nat) (h0 : orig.Keeps s) :
    orig.Keeps (State.clearPhases s n) := by
  unfold State.clearPhases
  repeat' first
    | with_reducible assumption
    | intro _
    | (with_reducible apply State.setFld_keeps)
    | with_reducible apply State.Keeps.ite | with_reducible apply State.Keeps.ite1 | with_reducible apply State.Keeps.ite2 | with_reducible apply State.Keeps.elim
    | with_reducible apply State.Keeps.foldl | with_reducible apply State.Keeps.foldl1 | with_reducible apply State.Keeps.foldl2 | with_reducible apply State.Keeps.foldl22
    | simp only [↓State.Keeps.upd, ↓State.Keeps.updFlash, ↓State.Keeps.updPoison]
    | split
    | dsimp only

theorem State.releaseClusters_keeps {orig : State} {s : State} (n : Nat) (zero : Bool) (h0 : orig.Keeps s) :
    orig.Keeps (State.releaseClusters s n zero) := by
  unfold State.releaseClusters
  repeat' first
    | with_reducible assumption
    | intro _
    | (with_reducible apply State.modCluster_keeps) | (with_reducible apply State.zeroCluster_keeps)
    | with_reducible apply State.Keeps.ite | with_reducible apply State.Keeps.ite1 | with_reducible apply State.Keeps.ite2 | with_reducible apply State.Keeps.elim
    | with_reducible apply State.Keeps.foldl | with_reducible apply State.Keeps.foldl1 | with_reducible apply State.Keeps.foldl2 | with_reducible apply State.Keeps.foldl22
    | simp only [↓State.Keeps.upd, ↓State.Keeps.updFlash, ↓State.Keeps.updPoison]
    | split
    | dsimp only

theorem State.hatchRegs_keeps {orig : State} {s : State} (n : Nat) (h : Hatch) (sampled : Bool) (h0 : orig.Keeps s) :
    orig.Keeps (State.hatchRegs s n h sampled) := by
  unfold State.hatchRegs
  repeat' first
    | with_reducible assumption
    | intro _
    | (with_reducible apply State.setFld_keeps) | (with_reducible apply State.csrSet_keeps) | (with_reducible apply State.bump_keeps)
    | with_reducible apply State.Keeps.ite | with_reducible apply State.Keeps.ite1 | with_reducible apply State.Keeps.ite2 | with_reducible apply State.Keeps.elim
    | with_reducible apply State.Keeps.foldl | with_reducible apply State.Keeps.foldl1 | with_reducible apply State.Keeps.foldl2 | with_reducible apply State.Keeps.foldl22
    | simp only [↓State.Keeps.upd, ↓State.Keeps.updFlash, ↓State.Keeps.updPoison]
    | split
    | dsimp only

theorem State.endSuspend_keeps {orig : State} {s : State} (n : Nat) (h0 : orig.Keeps s) :
    orig.Keeps (State.endSuspend s n) := by
  unfold State.endSuspend
  repeat' first
    | with_reducible assumption
    | intro _
    | (with_reducible apply State.modCtx_keeps) | (with_reducible apply State.endCmd_keeps)
    | with_reducible apply State.Keeps.ite | with_reducible apply State.Keeps.ite1 | with_reducible apply State.Keeps.ite2 | with_reducible apply State.Keeps.elim
    | with_reducible apply State.Keeps.foldl | with_reducible apply State.Keeps.foldl1 | with_reducible apply State.Keeps.foldl2 | with_reducible apply State.Keeps.foldl22
    | simp only [↓State.Keeps.upd, ↓State.Keeps.updFlash, ↓State.Keeps.updPoison]
    | split
    | dsimp only

theorem State.hatchAct_keeps {orig : State} {s : State} (n : CtxId) (h : Hatch) (h0 : orig.Keeps s) :
    orig.Keeps (State.hatchAct s n h) := by
  unfold State.hatchAct
  repeat' first
    | with_reducible assumption
    | intro _
    | (with_reducible apply State.takeSample_keeps) | (with_reducible refine State.takeSample_eq _ _ ?_ (by with_reducible assumption))
    | (with_reducible apply State.clearColls_keeps) | (with_reducible apply State.cancelStreams_keeps)
    | (with_reducible apply State.clearCores_keeps) | (with_reducible apply State.dropFlights_keeps)
    | (with_reducible apply State.hatchCtl_keeps) | (with_reducible apply State.endSuspend_keeps)
    | (with_reducible apply State.ctxDown_keeps) | (with_reducible apply State.abortSteps_keeps)
    | (with_reducible apply State.releaseClusters_keeps) | (with_reducible apply State.dropHolds_keeps)
    | (with_reducible apply State.closeHals_keeps) | (with_reducible apply State.hatchRegs_keeps)
    | (with_reducible apply State.clearPhases_keeps) | (with_reducible apply State.ctxFields_keeps)
    | (with_reducible apply State.modCtx_keeps)
    | with_reducible apply State.Keeps.ite | with_reducible apply State.Keeps.ite1 | with_reducible apply State.Keeps.ite2 | with_reducible apply State.Keeps.elim
    | with_reducible apply State.Keeps.foldl | with_reducible apply State.Keeps.foldl1 | with_reducible apply State.Keeps.foldl2 | with_reducible apply State.Keeps.foldl22
    | simp only [↓State.Keeps.upd, ↓State.Keeps.updFlash, ↓State.Keeps.updPoison]
    | split
    | dsimp only

theorem execHatchSequence_keeps {orig : State} (ctx : CtxId) {s : State} (h1 : orig.Keeps s) :
    orig.KeepsOut (execHatchSequence ctx s) := by
  unfold execHatchSequence
  repeat' first
    | with_reducible assumption
    | intro _
    | with_reducible apply State.KeepsOut.next
    | (with_reducible apply State.hatchAct_keeps)
    | with_reducible apply State.Keeps.ite | with_reducible apply State.Keeps.ite1 | with_reducible apply State.Keeps.ite2 | with_reducible apply State.Keeps.elim
    | with_reducible apply State.Keeps.foldl | with_reducible apply State.Keeps.foldl1 | with_reducible apply State.Keeps.foldl2 | with_reducible apply State.Keeps.foldl22
    | simp only [↓State.Keeps.upd, ↓State.Keeps.updFlash, ↓State.Keeps.updPoison]
    | split
    | dsimp only

theorem State.endRuns_keeps {orig : State} {s : State} (n : Nat) (st : Nat) (res : Nat) (h0 : orig.Keeps s) :
    orig.Keeps (State.endRuns s n st res) := by
  unfold State.endRuns
  repeat' first
    | with_reducible assumption
    | intro _
    | (with_reducible apply State.endCmd_keeps)
    | with_reducible apply State.Keeps.ite | with_reducible apply State.Keeps.ite1 | with_reducible apply State.Keeps.ite2 | with_reducible apply State.Keeps.elim
    | with_reducible apply State.Keeps.foldl | with_reducible apply State.Keeps.foldl1 | with_reducible apply State.Keeps.foldl2 | with_reducible apply State.Keeps.foldl22
    | simp only [↓State.Keeps.upd, ↓State.Keeps.updFlash, ↓State.Keeps.updPoison]
    | split
    | dsimp only

theorem State.hatchDone_keeps {orig : State} {s : State} (x : Nat × Nat × Option Nat) (h0 : orig.Keeps s) :
    orig.Keeps (State.hatchDone s x) := by
  unfold State.hatchDone
  repeat' first
    | with_reducible assumption
    | intro _
    | (with_reducible apply State.dropFlight_keeps) | (with_reducible apply State.modSet_keeps)
    | (with_reducible apply State.evAddSet_keeps)
    | with_reducible apply State.Keeps.ite | with_reducible apply State.Keeps.ite1 | with_reducible apply State.Keeps.ite2 | with_reducible apply State.Keeps.elim
    | with_reducible apply State.Keeps.foldl | with_reducible apply State.Keeps.foldl1 | with_reducible apply State.Keeps.foldl2 | with_reducible apply State.Keeps.foldl22
    | simp only [↓State.Keeps.upd, ↓State.Keeps.updFlash, ↓State.Keeps.updPoison]
    | split
    | dsimp only

theorem State.hatchAnswer_keeps {orig : State} {s : State} (h : Hatch) (h0 : orig.Keeps s) :
    orig.Keeps (State.hatchAnswer s h) := by
  unfold State.hatchAnswer
  repeat' first
    | with_reducible assumption
    | intro _
    | (with_reducible apply State.hatchDone_keeps) | (with_reducible apply State.endCmd_keeps)
    | with_reducible apply State.Keeps.ite | with_reducible apply State.Keeps.ite1 | with_reducible apply State.Keeps.ite2 | with_reducible apply State.Keeps.elim
    | with_reducible apply State.Keeps.foldl | with_reducible apply State.Keeps.foldl1 | with_reducible apply State.Keeps.foldl2 | with_reducible apply State.Keeps.foldl22
    | simp only [↓State.Keeps.upd, ↓State.Keeps.updFlash, ↓State.Keeps.updPoison]
    | split
    | dsimp only

theorem State.hatchEnd_keeps {orig : State} {s : State} (n : CtxId) (h : Hatch) (h0 : orig.Keeps s) :
    orig.Keeps (State.hatchEnd s n h) := by
  unfold State.hatchEnd
  repeat' first
    | with_reducible assumption
    | intro _
    | (with_reducible apply State.postCtx_keeps) | (with_reducible apply State.modCtx_keeps)
    | (with_reducible apply State.endRuns_keeps) | (with_reducible apply State.hatchAnswer_keeps)
    | with_reducible apply State.Keeps.ite | with_reducible apply State.Keeps.ite1 | with_reducible apply State.Keeps.ite2 | with_reducible apply State.Keeps.elim
    | with_reducible apply State.Keeps.foldl | with_reducible apply State.Keeps.foldl1 | with_reducible apply State.Keeps.foldl2 | with_reducible apply State.Keeps.foldl22
    | simp only [↓State.Keeps.upd, ↓State.Keeps.updFlash, ↓State.Keeps.updPoison]
    | split
    | dsimp only

theorem execHatchComplete_keeps {orig : State} (ctx : CtxId) {s : State} (h1 : orig.Keeps s) :
    orig.KeepsOut (execHatchComplete ctx s) := by
  unfold execHatchComplete
  repeat' first
    | with_reducible assumption
    | intro _
    | with_reducible apply State.KeepsOut.next
    | (with_reducible apply State.hatchEnd_keeps)
    | with_reducible apply State.Keeps.ite | with_reducible apply State.Keeps.ite1 | with_reducible apply State.Keeps.ite2 | with_reducible apply State.Keeps.elim
    | with_reducible apply State.Keeps.foldl | with_reducible apply State.Keeps.foldl1 | with_reducible apply State.Keeps.foldl2 | with_reducible apply State.Keeps.foldl22
    | simp only [↓State.Keeps.upd, ↓State.Keeps.updFlash, ↓State.Keeps.updPoison]
    | split
    | dsimp only

theorem State.unbind_keeps {orig : State} {s : State} (n : CtxId) (h0 : orig.Keeps s) :
    orig.Keeps (State.unbind s n) := by
  unfold State.unbind
  repeat' first
    | with_reducible assumption
    | intro _
    | (with_reducible apply State.setFld_keeps) | (with_reducible apply State.modCtx_keeps)
    | with_reducible apply State.Keeps.ite | with_reducible apply State.Keeps.ite1 | with_reducible apply State.Keeps.ite2 | with_reducible apply State.Keeps.elim
    | with_reducible apply State.Keeps.foldl | with_reducible apply State.Keeps.foldl1 | with_reducible apply State.Keeps.foldl2 | with_reducible apply State.Keeps.foldl22
    | simp only [↓State.Keeps.upd, ↓State.Keeps.updFlash, ↓State.Keeps.updPoison]
    | split
    | dsimp only

theorem State.fresetRegs_keeps {orig : State} {s : State} (n : Nat) (h0 : orig.Keeps s) :
    orig.Keeps (State.fresetRegs s n) := by
  unfold State.fresetRegs
  repeat' first
    | with_reducible assumption
    | intro _
    | (with_reducible apply State.ctxFields_keeps) | (with_reducible apply State.setFld_keeps)
    | with_reducible apply State.Keeps.ite | with_reducible apply State.Keeps.ite1 | with_reducible apply State.Keeps.ite2 | with_reducible apply State.Keeps.elim
    | with_reducible apply State.Keeps.foldl | with_reducible apply State.Keeps.foldl1 | with_reducible apply State.Keeps.foldl2 | with_reducible apply State.Keeps.foldl22
    | simp only [↓State.Keeps.upd, ↓State.Keeps.updFlash, ↓State.Keeps.updPoison]
    | split
    | dsimp only

theorem State.forgetSteps_keeps {orig : State} {s : State} (n : CtxId) (h0 : orig.Keeps s) :
    orig.Keeps (State.forgetSteps s n) := by
  unfold State.forgetSteps
  repeat' first
    | with_reducible assumption
    | intro _
    | with_reducible apply State.Keeps.ite | with_reducible apply State.Keeps.ite1 | with_reducible apply State.Keeps.ite2 | with_reducible apply State.Keeps.elim
    | with_reducible apply State.Keeps.foldl | with_reducible apply State.Keeps.foldl1 | with_reducible apply State.Keeps.foldl2 | with_reducible apply State.Keeps.foldl22
    | simp only [↓State.Keeps.upd, ↓State.Keeps.updFlash, ↓State.Keeps.updPoison]
    | split
    | dsimp only

theorem State.fresetEnd_keeps {orig : State} {s : State} (n : CtxId) (h : Hatch) (h0 : orig.Keeps s) :
    orig.Keeps (State.fresetEnd s n h) := by
  unfold State.fresetEnd
  repeat' first
    | with_reducible assumption
    | intro _
    | (with_reducible apply State.hatchAnswer_keeps) | (with_reducible apply State.endRuns_keeps)
    | (with_reducible apply State.dropHolds_keeps) | (with_reducible apply State.fresetRegs_keeps)
    | (with_reducible apply State.forgetSteps_keeps) | (with_reducible apply State.endCmd_keeps)
    | (with_reducible apply State.postCtx_keeps) | (with_reducible apply State.unbind_keeps) | (with_reducible apply State.modCtx_keeps)
    | with_reducible apply State.Keeps.ite | with_reducible apply State.Keeps.ite1 | with_reducible apply State.Keeps.ite2 | with_reducible apply State.Keeps.elim
    | with_reducible apply State.Keeps.foldl | with_reducible apply State.Keeps.foldl1 | with_reducible apply State.Keeps.foldl2 | with_reducible apply State.Keeps.foldl22
    | simp only [↓State.Keeps.upd, ↓State.Keeps.updFlash, ↓State.Keeps.updPoison]
    | split
    | dsimp only

theorem execFunctionResetComplete_keeps {orig : State} (ctx : CtxId) {s : State} (h1 : orig.Keeps s) :
    orig.KeepsOut (execFunctionResetComplete ctx s) := by
  unfold execFunctionResetComplete
  repeat' first
    | with_reducible assumption
    | intro _
    | with_reducible apply State.KeepsOut.next
    | (with_reducible apply State.fresetEnd_keeps)
    | with_reducible apply State.Keeps.ite | with_reducible apply State.Keeps.ite1 | with_reducible apply State.Keeps.ite2 | with_reducible apply State.Keeps.elim
    | with_reducible apply State.Keeps.foldl | with_reducible apply State.Keeps.foldl1 | with_reducible apply State.Keeps.foldl2 | with_reducible apply State.Keeps.foldl22
    | simp only [↓State.Keeps.upd, ↓State.Keeps.updFlash, ↓State.Keeps.updPoison]
    | split
    | dsimp only

theorem State.functionReset_keeps {orig : State} {s : State} (n : Nat) (cmd : Option Nat) (unbind : Bool) (h0 : orig.Keeps s) :
    orig.Keeps (State.functionReset s n cmd unbind) := by
  unfold State.functionReset
  repeat' first
    | with_reducible assumption
    | intro _
    | (with_reducible apply State.startHatch_keeps)
    | with_reducible apply State.Keeps.ite | with_reducible apply State.Keeps.ite1 | with_reducible apply State.Keeps.ite2 | with_reducible apply State.Keeps.elim
    | with_reducible apply State.Keeps.foldl | with_reducible apply State.Keeps.foldl1 | with_reducible apply State.Keeps.foldl2 | with_reducible apply State.Keeps.foldl22
    | simp only [↓State.Keeps.upd, ↓State.Keeps.updFlash, ↓State.Keeps.updPoison]
    | split
    | dsimp only

theorem State.setReady_keeps {orig : State} {s : State} (v : Nat) (h0 : orig.Keeps s) :
    orig.Keeps (State.setReady s v) := by
  unfold State.setReady
  repeat' first
    | with_reducible assumption
    | intro _
    | (with_reducible apply State.setFld_keeps)
    | with_reducible apply State.Keeps.ite | with_reducible apply State.Keeps.ite1 | with_reducible apply State.Keeps.ite2 | with_reducible apply State.Keeps.elim
    | with_reducible apply State.Keeps.foldl | with_reducible apply State.Keeps.foldl1 | with_reducible apply State.Keeps.foldl2 | with_reducible apply State.Keeps.foldl22
    | simp only [↓State.Keeps.upd, ↓State.Keeps.updFlash, ↓State.Keeps.updPoison]
    | split
    | dsimp only

theorem State.loadMaps_keeps {orig : State} {s : State} (h0 : orig.Keeps s) :
    orig.Keeps (State.loadMaps s) := by
  unfold State.loadMaps
  repeat' first
    | with_reducible assumption
    | intro _
    | (with_reducible apply State.csrSet_keeps)
    | with_reducible apply State.Keeps.ite | with_reducible apply State.Keeps.ite1 | with_reducible apply State.Keeps.ite2 | with_reducible apply State.Keeps.elim
    | with_reducible apply State.Keeps.foldl | with_reducible apply State.Keeps.foldl1 | with_reducible apply State.Keeps.foldl2 | with_reducible apply State.Keeps.foldl22
    | simp only [↓State.Keeps.upd, ↓State.Keeps.updFlash, ↓State.Keeps.updPoison]
    | split
    | dsimp only

theorem State.closeOpen_keeps {orig : State} {s : State} (h0 : orig.Keeps s) :
    orig.Keeps (State.closeOpen s) := by
  unfold State.closeOpen
  repeat' first
    | with_reducible assumption
    | intro _
    | (with_reducible apply State.closeRecord_keeps)
    | with_reducible apply State.Keeps.ite | with_reducible apply State.Keeps.ite1 | with_reducible apply State.Keeps.ite2 | with_reducible apply State.Keeps.elim
    | with_reducible apply State.Keeps.foldl | with_reducible apply State.Keeps.foldl1 | with_reducible apply State.Keeps.foldl2 | with_reducible apply State.Keeps.foldl22
    | simp only [↓State.Keeps.upd, ↓State.Keeps.updFlash, ↓State.Keeps.updPoison]
    | split
    | dsimp only

theorem State.endAllCmds_keeps {orig : State} {s : State} (h0 : orig.Keeps s) :
    orig.Keeps (State.endAllCmds s) := by
  unfold State.endAllCmds
  repeat' first
    | with_reducible assumption
    | intro _
    | with_reducible apply State.Keeps.ite | with_reducible apply State.Keeps.ite1 | with_reducible apply State.Keeps.ite2 | with_reducible apply State.Keeps.elim
    | with_reducible apply State.Keeps.foldl | with_reducible apply State.Keeps.foldl1 | with_reducible apply State.Keeps.foldl2 | with_reducible apply State.Keeps.foldl22
    | simp only [↓State.Keeps.upd, ↓State.Keeps.updFlash, ↓State.Keeps.updPoison]
    | split
    | dsimp only

theorem State.downAll_keeps {orig : State} {s : State} (h0 : orig.Keeps s) :
    orig.Keeps (State.downAll s) := by
  unfold State.downAll
  repeat' first
    | with_reducible assumption
    | intro _
    | (with_reducible apply State.ctxDown_keeps)
    | with_reducible apply State.Keeps.ite | with_reducible apply State.Keeps.ite1 | with_reducible apply State.Keeps.ite2 | with_reducible apply State.Keeps.elim
    | with_reducible apply State.Keeps.foldl | with_reducible apply State.Keeps.foldl1 | with_reducible apply State.Keeps.foldl2 | with_reducible apply State.Keeps.foldl22
    | simp only [↓State.Keeps.upd, ↓State.Keeps.updFlash, ↓State.Keeps.updPoison]
    | split
    | dsimp only

theorem State.clearCtxBlock_keeps {orig : State} {s : State} (n : Nat) (h0 : orig.Keeps s) :
    orig.Keeps (State.clearCtxBlock s n) := by
  unfold State.clearCtxBlock
  repeat' first
    | with_reducible assumption
    | intro _
    | with_reducible apply State.Keeps.ite | with_reducible apply State.Keeps.ite1 | with_reducible apply State.Keeps.ite2 | with_reducible apply State.Keeps.elim
    | with_reducible apply State.Keeps.foldl | with_reducible apply State.Keeps.foldl1 | with_reducible apply State.Keeps.foldl2 | with_reducible apply State.Keeps.foldl22
    | simp only [↓State.Keeps.upd, ↓State.Keeps.updFlash, ↓State.Keeps.updPoison]
    | split
    | dsimp only

theorem State.ctxBlockReset_keeps {orig : State} {s : State} (n : Nat) (h0 : orig.Keeps s) :
    orig.Keeps (State.ctxBlockReset s n) := by
  unfold State.ctxBlockReset
  repeat' first
    | with_reducible assumption
    | intro _
    | (with_reducible apply State.setFld_keeps) | (with_reducible apply State.fresetRegs_keeps)
    | (with_reducible apply State.clearCtxBlock_keeps)
    | with_reducible apply State.Keeps.ite | with_reducible apply State.Keeps.ite1 | with_reducible apply State.Keeps.ite2 | with_reducible apply State.Keeps.elim
    | with_reducible apply State.Keeps.foldl | with_reducible apply State.Keeps.foldl1 | with_reducible apply State.Keeps.foldl2 | with_reducible apply State.Keeps.foldl22
    | simp only [↓State.Keeps.upd, ↓State.Keeps.updFlash, ↓State.Keeps.updPoison]
    | split
    | dsimp only

theorem State.packageDomain_keeps {orig : State} {s : State} (h0 : orig.Keeps s) :
    orig.Keeps (State.packageDomain s) := by
  unfold State.packageDomain
  repeat' first
    | with_reducible assumption
    | intro _
    | (with_reducible apply State.zeroSram_keeps)
    | with_reducible apply State.Keeps.ite | with_reducible apply State.Keeps.ite1 | with_reducible apply State.Keeps.ite2 | with_reducible apply State.Keeps.elim
    | with_reducible apply State.Keeps.foldl | with_reducible apply State.Keeps.foldl1 | with_reducible apply State.Keeps.foldl2 | with_reducible apply State.Keeps.foldl22
    | simp only [↓State.Keeps.upd, ↓State.Keeps.updFlash, ↓State.Keeps.updPoison]
    | split
    | dsimp only

theorem State.dropServing_keeps {orig : State} {s : State} (h0 : orig.Keeps s) :
    orig.Keeps (State.dropServing s) := by
  unfold State.dropServing
  repeat' first
    | with_reducible assumption
    | intro _
    | with_reducible apply State.Keeps.ite | with_reducible apply State.Keeps.ite1 | with_reducible apply State.Keeps.ite2 | with_reducible apply State.Keeps.elim
    | with_reducible apply State.Keeps.foldl | with_reducible apply State.Keeps.foldl1 | with_reducible apply State.Keeps.foldl2 | with_reducible apply State.Keeps.foldl22
    | simp only [↓State.Keeps.upd, ↓State.Keeps.updFlash, ↓State.Keeps.updPoison]
    | split
    | dsimp only

theorem State.pkgReset_keeps {orig : State} {s : State} (cause : Nat) (h0 : orig.Keeps s) :
    orig.Keeps (State.pkgReset s cause) := by
  unfold State.pkgReset
  repeat' first
    | with_reducible assumption
    | intro _
    | (with_reducible apply State.closeOpen_keeps) | (with_reducible apply State.setReady_keeps)
    | (with_reducible apply State.endAllCmds_keeps) | (with_reducible apply State.downAll_keeps)
    | (with_reducible apply State.loadMaps_keeps) | (with_reducible apply State.packageDomain_keeps)
    | (with_reducible apply State.dropServing_keeps) | (with_reducible apply State.ctxBlockReset_keeps)
    | (with_reducible apply State.bump_keeps) | (with_reducible apply State.setFld_keeps)
    | (with_reducible apply State.dlTrainAll_keeps) | (with_reducible apply State.csrSet_keeps)
    | (with_reducible apply State.zeroMeas_keeps)
    | with_reducible apply State.Keeps.ite | with_reducible apply State.Keeps.ite1 | with_reducible apply State.Keeps.ite2 | with_reducible apply State.Keeps.elim
    | with_reducible apply State.Keeps.foldl | with_reducible apply State.Keeps.foldl1 | with_reducible apply State.Keeps.foldl2 | with_reducible apply State.Keeps.foldl22
    | simp only [↓State.Keeps.upd, ↓State.Keeps.updFlash, ↓State.Keeps.updPoison]
    | split
    | dsimp only

theorem execPkgRstPackage_keeps {orig : State} {s : State} (h0 : orig.Keeps s) :
    orig.KeepsOut (execPkgRstPackage s) := by
  unfold execPkgRstPackage
  repeat' first
    | with_reducible assumption
    | intro _
    | with_reducible apply State.KeepsOut.next
    | (with_reducible apply State.pkgReset_keeps)
    | with_reducible apply State.Keeps.ite | with_reducible apply State.Keeps.ite1 | with_reducible apply State.Keeps.ite2 | with_reducible apply State.Keeps.elim
    | with_reducible apply State.Keeps.foldl | with_reducible apply State.Keeps.foldl1 | with_reducible apply State.Keeps.foldl2 | with_reducible apply State.Keeps.foldl22
    | simp only [↓State.Keeps.upd, ↓State.Keeps.updFlash, ↓State.Keeps.updPoison]
    | split
    | dsimp only

theorem execFirmwareWatchdog_keeps {orig : State} {s : State} (h0 : orig.Keeps s) :
    orig.KeepsOut (execFirmwareWatchdog s) := by
  unfold execFirmwareWatchdog
  repeat' first
    | with_reducible assumption
    | intro _
    | with_reducible apply State.KeepsOut.next
    | (with_reducible apply State.pkgReset_keeps) | (with_reducible apply State.openRecord_keeps)
    | (with_reducible refine State.openRecord_eq _ _ ?_ (by with_reducible assumption))
    | with_reducible apply State.Keeps.ite | with_reducible apply State.Keeps.ite1 | with_reducible apply State.Keeps.ite2 | with_reducible apply State.Keeps.elim
    | with_reducible apply State.Keeps.foldl | with_reducible apply State.Keeps.foldl1 | with_reducible apply State.Keeps.foldl2 | with_reducible apply State.Keeps.foldl22
    | simp only [↓State.Keeps.upd, ↓State.Keeps.updFlash, ↓State.Keeps.updPoison]
    | split
    | dsimp only

theorem State.kick_keeps {orig : State} {s : State} (h0 : orig.Keeps s) :
    orig.Keeps (State.kick s) := by
  unfold State.kick
  repeat' first
    | with_reducible assumption
    | intro _
    | (with_reducible apply State.fired_keeps)
    | with_reducible apply State.Keeps.ite | with_reducible apply State.Keeps.ite1 | with_reducible apply State.Keeps.ite2 | with_reducible apply State.Keeps.elim
    | with_reducible apply State.Keeps.foldl | with_reducible apply State.Keeps.foldl1 | with_reducible apply State.Keeps.foldl2 | with_reducible apply State.Keeps.foldl22
    | simp only [↓State.Keeps.upd, ↓State.Keeps.updFlash, ↓State.Keeps.updPoison]
    | split
    | dsimp only

theorem execKick_keeps {orig : State} {s : State} (h0 : orig.Keeps s) :
    orig.KeepsOut (execKick s) := by
  unfold execKick
  repeat' first
    | with_reducible assumption
    | intro _
    | with_reducible apply State.KeepsOut.next
    | (with_reducible apply State.kick_keeps)
    | with_reducible apply State.Keeps.ite | with_reducible apply State.Keeps.ite1 | with_reducible apply State.Keeps.ite2 | with_reducible apply State.Keeps.elim
    | with_reducible apply State.Keeps.foldl | with_reducible apply State.Keeps.foldl1 | with_reducible apply State.Keeps.foldl2 | with_reducible apply State.Keeps.foldl22
    | simp only [↓State.Keeps.upd, ↓State.Keeps.updFlash, ↓State.Keeps.updPoison]
    | split
    | dsimp only

theorem execUnitHangEscalate_keeps {orig : State} (unit : UnitCode) {s : State} (h1 : orig.Keeps s) :
    orig.KeepsOut (execUnitHangEscalate unit s) := by
  unfold execUnitHangEscalate
  repeat' first
    | with_reducible assumption
    | intro _
    | with_reducible apply State.KeepsOut.next
    | (with_reducible apply State.pkgReset_keeps) | (with_reducible apply State.handle_keeps)
    | (with_reducible apply State.shutUnit_keeps)
    | with_reducible apply State.Keeps.ite | with_reducible apply State.Keeps.ite1 | with_reducible apply State.Keeps.ite2 | with_reducible apply State.Keeps.elim
    | with_reducible apply State.Keeps.foldl | with_reducible apply State.Keeps.foldl1 | with_reducible apply State.Keeps.foldl2 | with_reducible apply State.Keeps.foldl22
    | simp only [↓State.Keeps.upd, ↓State.Keeps.updFlash, ↓State.Keeps.updPoison]
    | split
    | dsimp only

theorem State.loadReg_keeps {orig : State} {s : State} (o : Nat) (v : Word) (h0 : orig.Keeps s) :
    orig.Keeps (State.loadReg s o v) := by
  unfold State.loadReg
  repeat' first
    | with_reducible assumption
    | intro _
    | (with_reducible apply State.dimsFlds_keeps) | (with_reducible apply State.cfgFlds_keeps)
    | (with_reducible apply State.csrSet_keeps)
    | with_reducible apply State.Keeps.ite | with_reducible apply State.Keeps.ite1 | with_reducible apply State.Keeps.ite2 | with_reducible apply State.Keeps.elim
    | with_reducible apply State.Keeps.foldl | with_reducible apply State.Keeps.foldl1 | with_reducible apply State.Keeps.foldl2 | with_reducible apply State.Keeps.foldl22
    | simp only [↓State.Keeps.upd, ↓State.Keeps.updFlash, ↓State.Keeps.updPoison]
    | split
    | dsimp only

theorem State.loadRegs_keeps {orig : State} {s : State} (l : List Nat) (h0 : orig.Keeps s) :
    orig.Keeps (State.loadRegs s l) := by
  unfold State.loadRegs
  repeat' first
    | with_reducible assumption
    | intro _
    | (with_reducible apply State.loadReg_keeps)
    | with_reducible apply State.Keeps.ite | with_reducible apply State.Keeps.ite1 | with_reducible apply State.Keeps.ite2 | with_reducible apply State.Keeps.elim
    | with_reducible apply State.Keeps.foldl | with_reducible apply State.Keeps.foldl1 | with_reducible apply State.Keeps.foldl2 | with_reducible apply State.Keeps.foldl22
    | simp only [↓State.Keeps.upd, ↓State.Keeps.updFlash, ↓State.Keeps.updPoison]
    | split
    | dsimp only

theorem State.expectPeers_keeps {orig : State} {s : State} (h0 : orig.Keeps s) :
    orig.Keeps (State.expectPeers s) := by
  unfold State.expectPeers
  repeat' first
    | with_reducible assumption
    | intro _
    | (with_reducible apply State.setFld_keeps)
    | with_reducible apply State.Keeps.ite | with_reducible apply State.Keeps.ite1 | with_reducible apply State.Keeps.ite2 | with_reducible apply State.Keeps.elim
    | with_reducible apply State.Keeps.foldl | with_reducible apply State.Keeps.foldl1 | with_reducible apply State.Keeps.foldl2 | with_reducible apply State.Keeps.foldl22
    | simp only [↓State.Keeps.upd, ↓State.Keeps.updFlash, ↓State.Keeps.updPoison]
    | split
    | dsimp only

theorem State.loadFabric_keeps {orig : State} {s : State} (dims : Word) (slice : Word) (h0 : orig.Keeps s) :
    orig.Keeps (State.loadFabric s dims slice) := by
  unfold State.loadFabric
  repeat' first
    | with_reducible assumption
    | intro _
    | (with_reducible apply State.loadRegs_keeps) | (with_reducible apply State.sliceEnd_keeps)
    | (with_reducible apply State.startPorts_keeps) | (with_reducible apply State.expectPeers_keeps)
    | (with_reducible apply State.rewriteRings_keeps)
    | with_reducible apply State.Keeps.ite | with_reducible apply State.Keeps.ite1 | with_reducible apply State.Keeps.ite2 | with_reducible apply State.Keeps.elim
    | with_reducible apply State.Keeps.foldl | with_reducible apply State.Keeps.foldl1 | with_reducible apply State.Keeps.foldl2 | with_reducible apply State.Keeps.foldl22
    | simp only [↓State.Keeps.upd, ↓State.Keeps.updFlash, ↓State.Keeps.updPoison]
    | split
    | dsimp only

theorem State.failReqs_keeps {orig : State} {s : State} (h0 : orig.Keeps s) :
    orig.Keeps (State.failReqs s) := by
  unfold State.failReqs
  repeat' first
    | with_reducible assumption
    | intro _
    | (with_reducible apply State.reqDone_keeps)
    | with_reducible apply State.Keeps.ite | with_reducible apply State.Keeps.ite1 | with_reducible apply State.Keeps.ite2 | with_reducible apply State.Keeps.elim
    | with_reducible apply State.Keeps.foldl | with_reducible apply State.Keeps.foldl1 | with_reducible apply State.Keeps.foldl2 | with_reducible apply State.Keeps.foldl22
    | simp only [↓State.Keeps.upd, ↓State.Keeps.updFlash, ↓State.Keeps.updPoison]
    | split
    | dsimp only

theorem State.failGlobal_keeps {orig : State} {s : State} (h0 : orig.Keeps s) :
    orig.Keeps (State.failGlobal s) := by
  unfold State.failGlobal
  repeat' first
    | with_reducible assumption
    | intro _
    | (with_reducible apply State.strmFail_keeps)
    | with_reducible apply State.Keeps.ite | with_reducible apply State.Keeps.ite1 | with_reducible apply State.Keeps.ite2 | with_reducible apply State.Keeps.elim
    | with_reducible apply State.Keeps.foldl | with_reducible apply State.Keeps.foldl1 | with_reducible apply State.Keeps.foldl2 | with_reducible apply State.Keeps.foldl22
    | simp only [↓State.Keeps.upd, ↓State.Keeps.updFlash, ↓State.Keeps.updPoison]
    | split
    | dsimp only

theorem State.fabReset_keeps {orig : State} {s : State} (h0 : orig.Keeps s) :
    orig.Keeps (State.fabReset s) := by
  unfold State.fabReset
  repeat' first
    | with_reducible assumption
    | intro _
    | (with_reducible apply State.endColls_keeps) | (with_reducible apply State.halUnreachable_keeps)
    | (with_reducible apply State.failStep_keeps) | (with_reducible apply State.failGlobal_keeps)
    | (with_reducible apply State.failReqs_keeps) | (with_reducible apply State.bump_keeps) | (with_reducible apply State.setFld_keeps)
    | (with_reducible apply State.loadFabric_keeps) | (with_reducible apply State.dlTrainAll_keeps)
    | (with_reducible apply State.csrSet_keeps)
    | with_reducible apply State.Keeps.ite | with_reducible apply State.Keeps.ite1 | with_reducible apply State.Keeps.ite2 | with_reducible apply State.Keeps.elim
    | with_reducible apply State.Keeps.foldl | with_reducible apply State.Keeps.foldl1 | with_reducible apply State.Keeps.foldl2 | with_reducible apply State.Keeps.foldl22
    | simp only [↓State.Keeps.upd, ↓State.Keeps.updFlash, ↓State.Keeps.updPoison]
    | split
    | dsimp only

theorem execPkgRstFabric_keeps {orig : State} {s : State} (h0 : orig.Keeps s) :
    orig.KeepsOut (execPkgRstFabric s) := by
  unfold execPkgRstFabric
  repeat' first
    | with_reducible assumption
    | intro _
    | with_reducible apply State.KeepsOut.next
    | (with_reducible apply State.fabReset_keeps)
    | with_reducible apply State.Keeps.ite | with_reducible apply State.Keeps.ite1 | with_reducible apply State.Keeps.ite2 | with_reducible apply State.Keeps.elim
    | with_reducible apply State.Keeps.foldl | with_reducible apply State.Keeps.foldl1 | with_reducible apply State.Keeps.foldl2 | with_reducible apply State.Keeps.foldl22
    | simp only [↓State.Keeps.upd, ↓State.Keeps.updFlash, ↓State.Keeps.updPoison]
    | split
    | dsimp only

theorem State.linkDead_keeps {orig : State} {s : State} (n : Nat) (h0 : orig.Keeps s) :
    orig.Keeps (State.linkDead s n) := by
  unfold State.linkDead
  repeat' first
    | with_reducible assumption
    | intro _
    | (with_reducible apply State.shutSite_keeps) | (with_reducible apply State.shutPort_keeps)
    | (with_reducible apply State.pkgReset_keeps)
    | with_reducible apply State.Keeps.ite | with_reducible apply State.Keeps.ite1 | with_reducible apply State.Keeps.ite2 | with_reducible apply State.Keeps.elim
    | with_reducible apply State.Keeps.foldl | with_reducible apply State.Keeps.foldl1 | with_reducible apply State.Keeps.foldl2 | with_reducible apply State.Keeps.foldl22
    | simp only [↓State.Keeps.upd, ↓State.Keeps.updFlash, ↓State.Keeps.updPoison]
    | split
    | dsimp only

theorem execModuleRetrainComplete_keeps {orig : State} (n : Fin 16) (m : Nat) {s : State} (h2 : orig.Keeps s) :
    orig.KeepsOut (execModuleRetrainComplete n m s) := by
  unfold execModuleRetrainComplete
  repeat' first
    | with_reducible assumption
    | intro _
    | with_reducible apply State.KeepsOut.next
    | (with_reducible apply State.linkDead_keeps) | (with_reducible apply State.retrainDone_keeps)
    | with_reducible apply State.Keeps.ite | with_reducible apply State.Keeps.ite1 | with_reducible apply State.Keeps.ite2 | with_reducible apply State.Keeps.elim
    | with_reducible apply State.Keeps.foldl | with_reducible apply State.Keeps.foldl1 | with_reducible apply State.Keeps.foldl2 | with_reducible apply State.Keeps.foldl22
    | simp only [↓State.Keeps.upd, ↓State.Keeps.updFlash, ↓State.Keeps.updPoison]
    | split
    | dsimp only

end Sys2Proof.Machine
end

