-- ==== Sys2Proof/Laws/KeepHost.lean ====
section
/-! SUPPORT. What the operations of Machine/Host.lean keep. -/

set_option linter.all false

namespace Sys2Proof.Machine

theorem State.modPport_keeps {orig : State} {s : State} (p : Nat) (f : PPort → PPort) (h0 : orig.Keeps s) :
    orig.Keeps (State.modPport s p f) := by
  unfold State.modPport
  repeat' first
    | with_reducible assumption
    | intro _
    | with_reducible apply State.Keeps.ite | with_reducible apply State.Keeps.ite1 | with_reducible apply State.Keeps.ite2 | with_reducible apply State.Keeps.elim
    | with_reducible apply State.Keeps.foldl | with_reducible apply State.Keeps.foldl1 | with_reducible apply State.Keeps.foldl2 | with_reducible apply State.Keeps.foldl22
    | simp only [↓State.Keeps.upd, ↓State.Keeps.updFlash, ↓State.Keeps.updPoison]
    | split
    | dsimp only

theorem State.clearPage_keeps {orig : State} {s : State} (p : Nat) (f : Nat) (h0 : orig.Keeps s) :
    orig.Keeps (State.clearPage s p f) := by
  unfold State.clearPage
  repeat' first
    | with_reducible assumption
    | intro _
    | with_reducible apply State.Keeps.ite | with_reducible apply State.Keeps.ite1 | with_reducible apply State.Keeps.ite2 | with_reducible apply State.Keeps.elim
    | with_reducible apply State.Keeps.foldl | with_reducible apply State.Keeps.foldl1 | with_reducible apply State.Keeps.foldl2 | with_reducible apply State.Keeps.foldl22
    | simp only [↓State.Keeps.upd, ↓State.Keeps.updFlash, ↓State.Keeps.updPoison]
    | split
    | dsimp only

theorem State.fnReset_keeps {orig : State} {s : State} (p : Nat) (f : Nat) (unbind : Bool) (h0 : orig.Keeps s) :
    orig.Keeps (State.fnReset s p f unbind) := by
  unfold State.fnReset
  repeat' first
    | with_reducible assumption
    | intro _
    | (with_reducible apply State.functionReset_keeps) | (with_reducible apply State.clearPage_keeps)
    | with_reducible apply State.Keeps.ite | with_reducible apply State.Keeps.ite1 | with_reducible apply State.Keeps.ite2 | with_reducible apply State.Keeps.elim
    | with_reducible apply State.Keeps.foldl | with_reducible apply State.Keeps.foldl1 | with_reducible apply State.Keeps.foldl2 | with_reducible apply State.Keeps.foldl22
    | simp only [↓State.Keeps.upd, ↓State.Keeps.updFlash, ↓State.Keeps.updPoison]
    | split
    | dsimp only

theorem State.fnNotice_keeps {orig : State} {s : State} (p : Nat) (f : Nat) (ev : Nat) (h0 : orig.Keeps s) :
    orig.Keeps (State.fnNotice s p f ev) := by
  unfold State.fnNotice
  repeat' first
    | with_reducible assumption
    | intro _
    | (with_reducible apply State.notice_keeps)
    | with_reducible apply State.Keeps.ite | with_reducible apply State.Keeps.ite1 | with_reducible apply State.Keeps.ite2 | with_reducible apply State.Keeps.elim
    | with_reducible apply State.Keeps.foldl | with_reducible apply State.Keeps.foldl1 | with_reducible apply State.Keeps.foldl2 | with_reducible apply State.Keeps.foldl22
    | simp only [↓State.Keeps.upd, ↓State.Keeps.updFlash, ↓State.Keeps.updPoison]
    | split
    | dsimp only

theorem State.linkReset_keeps {orig : State} {s : State} (p : Nat) (l : LinkAB) (unbind : Nat → Bool) (h0 : orig.Keeps s) :
    orig.Keeps (State.linkReset s p l unbind) := by
  unfold State.linkReset
  repeat' first
    | with_reducible assumption
    | intro _
    | (with_reducible apply State.fnReset_keeps)
    | with_reducible apply State.Keeps.ite | with_reducible apply State.Keeps.ite1 | with_reducible apply State.Keeps.ite2 | with_reducible apply State.Keeps.elim
    | with_reducible apply State.Keeps.foldl | with_reducible apply State.Keeps.foldl1 | with_reducible apply State.Keeps.foldl2 | with_reducible apply State.Keeps.foldl22
    | simp only [↓State.Keeps.upd, ↓State.Keeps.updFlash, ↓State.Keeps.updPoison]
    | split
    | dsimp only

theorem State.noVfs_keeps {orig : State} {s : State} (p : Nat) (l : LinkAB) (h0 : orig.Keeps s) :
    orig.Keeps (State.noVfs s p l) := by
  unfold State.noVfs
  repeat' first
    | with_reducible assumption
    | intro _
    | (with_reducible apply State.modPport_keeps)
    | with_reducible apply State.Keeps.ite | with_reducible apply State.Keeps.ite1 | with_reducible apply State.Keeps.ite2 | with_reducible apply State.Keeps.elim
    | with_reducible apply State.Keeps.foldl | with_reducible apply State.Keeps.foldl1 | with_reducible apply State.Keeps.foldl2 | with_reducible apply State.Keeps.foldl22
    | simp only [↓State.Keeps.upd, ↓State.Keeps.updFlash, ↓State.Keeps.updPoison]
    | split
    | dsimp only

theorem State.linkSts_keeps {orig : State} {s : State} (p : Nat) (l : LinkAB) (h0 : orig.Keeps s) :
    orig.Keeps (State.linkSts s p l) := by
  unfold State.linkSts
  repeat' first
    | with_reducible assumption
    | intro _
    | (with_reducible apply State.setFld_keeps)
    | with_reducible apply State.Keeps.ite | with_reducible apply State.Keeps.ite1 | with_reducible apply State.Keeps.ite2 | with_reducible apply State.Keeps.elim
    | with_reducible apply State.Keeps.foldl | with_reducible apply State.Keeps.foldl1 | with_reducible apply State.Keeps.foldl2 | with_reducible apply State.Keeps.foldl22
    | simp only [↓State.Keeps.upd, ↓State.Keeps.updFlash, ↓State.Keeps.updPoison]
    | split
    | dsimp only

theorem State.dropLink_keeps {orig : State} {s : State} (p : Nat) (l : LinkAB) (h0 : orig.Keeps s) :
    orig.Keeps (State.dropLink s p l) := by
  unfold State.dropLink
  repeat' first
    | with_reducible assumption
    | intro _
    | (with_reducible apply State.linkSts_keeps) | (with_reducible apply State.modPport_keeps)
    | with_reducible apply State.Keeps.ite | with_reducible apply State.Keeps.ite1 | with_reducible apply State.Keeps.ite2 | with_reducible apply State.Keeps.elim
    | with_reducible apply State.Keeps.foldl | with_reducible apply State.Keeps.foldl1 | with_reducible apply State.Keeps.foldl2 | with_reducible apply State.Keeps.foldl22
    | simp only [↓State.Keeps.upd, ↓State.Keeps.updFlash, ↓State.Keeps.updPoison]
    | split
    | dsimp only

theorem execPerstAssert_keeps {orig : State} (p : Fin 2) {s : State} (h1 : orig.Keeps s) :
    orig.KeepsOut (execPerstAssert p s) := by
  unfold execPerstAssert
  repeat' first
    | with_reducible assumption
    | intro _
    | with_reducible apply State.KeepsOut.next
    | (with_reducible apply State.dropLink_keeps) | (with_reducible apply State.linkReset_keeps)
    | (with_reducible apply State.fnNotice_keeps) | (with_reducible apply State.modPport_keeps)
    | with_reducible apply State.Keeps.ite | with_reducible apply State.Keeps.ite1 | with_reducible apply State.Keeps.ite2 | with_reducible apply State.Keeps.elim
    | with_reducible apply State.Keeps.foldl | with_reducible apply State.Keeps.foldl1 | with_reducible apply State.Keeps.foldl2 | with_reducible apply State.Keeps.foldl22
    | simp only [↓State.Keeps.upd, ↓State.Keeps.updFlash, ↓State.Keeps.updPoison]
    | split
    | dsimp only

theorem State.samplePort_keeps {orig : State} {s : State} (p : Nat) (h0 : orig.Keeps s) :
    orig.Keeps (State.samplePort s p) := by
  unfold State.samplePort
  repeat' first
    | with_reducible assumption
    | intro _
    | (with_reducible apply State.modPport_keeps)
    | with_reducible apply State.Keeps.ite | with_reducible apply State.Keeps.ite1 | with_reducible apply State.Keeps.ite2 | with_reducible apply State.Keeps.elim
    | with_reducible apply State.Keeps.foldl | with_reducible apply State.Keeps.foldl1 | with_reducible apply State.Keeps.foldl2 | with_reducible apply State.Keeps.foldl22
    | simp only [↓State.Keeps.upd, ↓State.Keeps.updFlash, ↓State.Keeps.updPoison]
    | split
    | dsimp only

theorem execPerstRelease_keeps {orig : State} (p : Fin 2) {s : State} (h1 : orig.Keeps s) :
    orig.KeepsOut (execPerstRelease p s) := by
  unfold execPerstRelease
  repeat' first
    | with_reducible assumption
    | intro _
    | with_reducible apply State.KeepsOut.next
    | (with_reducible apply State.modPport_keeps) | (with_reducible apply State.samplePort_keeps)
    | with_reducible apply State.Keeps.ite | with_reducible apply State.Keeps.ite1 | with_reducible apply State.Keeps.ite2 | with_reducible apply State.Keeps.elim
    | with_reducible apply State.Keeps.foldl | with_reducible apply State.Keeps.foldl1 | with_reducible apply State.Keeps.foldl2 | with_reducible apply State.Keeps.foldl22
    | simp only [↓State.Keeps.upd, ↓State.Keeps.updFlash, ↓State.Keeps.updPoison]
    | split
    | dsimp only

theorem execConfigSpaceReady_keeps {orig : State} (p : Fin 2) {s : State} (h1 : orig.Keeps s) :
    orig.KeepsOut (execConfigSpaceReady p s) := by
  unfold execConfigSpaceReady
  repeat' first
    | with_reducible assumption
    | intro _
    | with_reducible apply State.KeepsOut.next
    | (with_reducible apply State.modPport_keeps)
    | with_reducible apply State.Keeps.ite | with_reducible apply State.Keeps.ite1 | with_reducible apply State.Keeps.ite2 | with_reducible apply State.Keeps.elim
    | with_reducible apply State.Keeps.foldl | with_reducible apply State.Keeps.foldl1 | with_reducible apply State.Keeps.foldl2 | with_reducible apply State.Keeps.foldl22
    | simp only [↓State.Keeps.upd, ↓State.Keeps.updFlash, ↓State.Keeps.updPoison]
    | split
    | dsimp only

theorem execPcieLinkUp_keeps {orig : State} (p : Fin 2) (link : LinkAB) (gen : Fin 7) (log2w : Fin 5) (reversed : Bool) {s : State} (h5 : orig.Keeps s) :
    orig.KeepsOut (execPcieLinkUp p link gen log2w reversed s) := by
  unfold execPcieLinkUp
  repeat' first
    | with_reducible assumption
    | intro _
    | with_reducible apply State.KeepsOut.next
    | (with_reducible apply State.linkSts_keeps) | (with_reducible apply State.modPport_keeps)
    | with_reducible apply State.Keeps.ite | with_reducible apply State.Keeps.ite1 | with_reducible apply State.Keeps.ite2 | with_reducible apply State.Keeps.elim
    | with_reducible apply State.Keeps.foldl | with_reducible apply State.Keeps.foldl1 | with_reducible apply State.Keeps.foldl2 | with_reducible apply State.Keeps.foldl22
    | simp only [↓State.Keeps.upd, ↓State.Keeps.updFlash, ↓State.Keeps.updPoison]
    | split
    | dsimp only

theorem execPcieLinkDown_keeps {orig : State} (p : Fin 2) (link : LinkAB) {s : State} (h2 : orig.Keeps s) :
    orig.KeepsOut (execPcieLinkDown p link s) := by
  unfold execPcieLinkDown
  repeat' first
    | with_reducible assumption
    | intro _
    | with_reducible apply State.KeepsOut.next
    | (with_reducible apply State.fnNotice_keeps) | (with_reducible apply State.dropLink_keeps)
    | (with_reducible apply State.linkReset_keeps)
    | with_reducible apply State.Keeps.ite | with_reducible apply State.Keeps.ite1 | with_reducible apply State.Keeps.ite2 | with_reducible apply State.Keeps.elim
    | with_reducible apply State.Keeps.foldl | with_reducible apply State.Keeps.foldl1 | with_reducible apply State.Keeps.foldl2 | with_reducible apply State.Keeps.foldl22
    | simp only [↓State.Keeps.upd, ↓State.Keeps.updFlash, ↓State.Keeps.updPoison]
    | split
    | dsimp only

theorem execHotReset_keeps {orig : State} (p : Fin 2) (link : LinkAB) {s : State} (h2 : orig.Keeps s) :
    orig.KeepsOut (execHotReset p link s) := by
  unfold execHotReset
  repeat' first
    | with_reducible assumption
    | intro _
    | with_reducible apply State.KeepsOut.next
    | (with_reducible apply State.fnNotice_keeps) | (with_reducible apply State.noVfs_keeps)
    | (with_reducible apply State.linkReset_keeps)
    | with_reducible apply State.Keeps.ite | with_reducible apply State.Keeps.ite1 | with_reducible apply State.Keeps.ite2 | with_reducible apply State.Keeps.elim
    | with_reducible apply State.Keeps.foldl | with_reducible apply State.Keeps.foldl1 | with_reducible apply State.Keeps.foldl2 | with_reducible apply State.Keeps.foldl22
    | simp only [↓State.Keeps.upd, ↓State.Keeps.updFlash, ↓State.Keeps.updPoison]
    | split
    | dsimp only

theorem execFlrVf_keeps {orig : State} (p : Fin 2) (f : Fin 32) {s : State} (h2 : orig.Keeps s) :
    orig.KeepsOut (execFlrVf p f s) := by
  unfold execFlrVf
  repeat' first
    | with_reducible assumption
    | intro _
    | with_reducible apply State.KeepsOut.next
    | (with_reducible apply State.fnNotice_keeps) | (with_reducible apply State.fnReset_keeps)
    | with_reducible apply State.Keeps.ite | with_reducible apply State.Keeps.ite1 | with_reducible apply State.Keeps.ite2 | with_reducible apply State.Keeps.elim
    | with_reducible apply State.Keeps.foldl | with_reducible apply State.Keeps.foldl1 | with_reducible apply State.Keeps.foldl2 | with_reducible apply State.Keeps.foldl22
    | simp only [↓State.Keeps.upd, ↓State.Keeps.updFlash, ↓State.Keeps.updPoison]
    | split
    | dsimp only

theorem State.pfReset_keeps {orig : State} {s : State} (p : Nat) (l : LinkAB) (h0 : orig.Keeps s) :
    orig.Keeps (State.pfReset s p l) := by
  unfold State.pfReset
  repeat' first
    | with_reducible assumption
    | intro _
    | (with_reducible apply State.fnNotice_keeps) | (with_reducible apply State.noVfs_keeps)
    | (with_reducible apply State.linkReset_keeps)
    | with_reducible apply State.Keeps.ite | with_reducible apply State.Keeps.ite1 | with_reducible apply State.Keeps.ite2 | with_reducible apply State.Keeps.elim
    | with_reducible apply State.Keeps.foldl | with_reducible apply State.Keeps.foldl1 | with_reducible apply State.Keeps.foldl2 | with_reducible apply State.Keeps.foldl22
    | simp only [↓State.Keeps.upd, ↓State.Keeps.updFlash, ↓State.Keeps.updPoison]
    | split
    | dsimp only

theorem execFlrPf_keeps {orig : State} (p : Fin 2) (link : LinkAB) {s : State} (h2 : orig.Keeps s) :
    orig.KeepsOut (execFlrPf p link s) := by
  unfold execFlrPf
  repeat' first
    | with_reducible assumption
    | intro _
    | with_reducible apply State.KeepsOut.next
    | (with_reducible apply State.pfReset_keeps)
    | with_reducible apply State.Keeps.ite | with_reducible apply State.Keeps.ite1 | with_reducible apply State.Keeps.ite2 | with_reducible apply State.Keeps.elim
    | with_reducible apply State.Keeps.foldl | with_reducible apply State.Keeps.foldl1 | with_reducible apply State.Keeps.foldl2 | with_reducible apply State.Keeps.foldl22
    | simp only [↓State.Keeps.upd, ↓State.Keeps.updFlash, ↓State.Keeps.updPoison]
    | split
    | dsimp only

theorem execVfEnableClear_keeps {orig : State} (p : Fin 2) (link : LinkAB) {s : State} (h2 : orig.Keeps s) :
    orig.KeepsOut (execVfEnableClear p link s) := by
  unfold execVfEnableClear
  repeat' first
    | with_reducible assumption
    | intro _
    | with_reducible apply State.KeepsOut.next
    | (with_reducible apply State.pfReset_keeps)
    | with_reducible apply State.Keeps.ite | with_reducible apply State.Keeps.ite1 | with_reducible apply State.Keeps.ite2 | with_reducible apply State.Keeps.elim
    | with_reducible apply State.Keeps.foldl | with_reducible apply State.Keeps.foldl1 | with_reducible apply State.Keeps.foldl2 | with_reducible apply State.Keeps.foldl22
    | simp only [↓State.Keeps.upd, ↓State.Keeps.updFlash, ↓State.Keeps.updPoison]
    | split
    | dsimp only

theorem execVfEnableSet_keeps {orig : State} (p : Fin 2) (link : LinkAB) (numVfs : Nat) {s : State} (h3 : orig.Keeps s) :
    orig.KeepsOut (execVfEnableSet p link numVfs s) := by
  unfold execVfEnableSet
  repeat' first
    | with_reducible assumption
    | intro _
    | with_reducible apply State.KeepsOut.next
    | (with_reducible apply State.modPport_keeps)
    | with_reducible apply State.Keeps.ite | with_reducible apply State.Keeps.ite1 | with_reducible apply State.Keeps.ite2 | with_reducible apply State.Keeps.elim
    | with_reducible apply State.Keeps.foldl | with_reducible apply State.Keeps.foldl1 | with_reducible apply State.Keeps.foldl2 | with_reducible apply State.Keeps.foldl22
    | simp only [↓State.Keeps.upd, ↓State.Keeps.updFlash, ↓State.Keeps.updPoison]
    | split
    | dsimp only

theorem State.toHost_keeps {orig : State} {s : State} (o : HostOut) (h0 : orig.Keeps s) :
    orig.Keeps (State.toHost s o) := by
  unfold State.toHost
  repeat' first
    | with_reducible assumption
    | intro _
    | with_reducible apply State.Keeps.ite | with_reducible apply State.Keeps.ite1 | with_reducible apply State.Keeps.ite2 | with_reducible apply State.Keeps.elim
    | with_reducible apply State.Keeps.foldl | with_reducible apply State.Keeps.foldl1 | with_reducible apply State.Keeps.foldl2 | with_reducible apply State.Keeps.foldl22
    | simp only [↓State.Keeps.upd, ↓State.Keeps.updFlash, ↓State.Keeps.updPoison]
    | split
    | dsimp only

theorem execApertureWrite_keeps {orig : State} (p : Fin 2) (f : Fin 32) (seg : Fin 16) (x : Nat) (bytes : List Byte) (ep : Bool) {s : State} (h6 : orig.Keeps s) :
    orig.KeepsOut (execApertureWrite p f seg x bytes ep s) := by
  unfold execApertureWrite
  repeat' first
    | with_reducible assumption
    | intro _
    | with_reducible apply State.KeepsOut.next
    | (with_reducible apply State.writeMem_keeps) | (with_reducible apply State.toHost_keeps)
    | with_reducible apply State.Keeps.ite | with_reducible apply State.Keeps.ite1 | with_reducible apply State.Keeps.ite2 | with_reducible apply State.Keeps.elim
    | with_reducible apply State.Keeps.foldl | with_reducible apply State.Keeps.foldl1 | with_reducible apply State.Keeps.foldl2 | with_reducible apply State.Keeps.foldl22
    | simp only [↓State.Keeps.upd, ↓State.Keeps.updFlash, ↓State.Keeps.updPoison]
    | split
    | dsimp only

theorem execApertureRead_keeps {orig : State} (p : Fin 2) (f : Fin 32) (seg : Fin 16) (x : Nat) (n : Nat) {s : State} (h5 : orig.Keeps s) :
    orig.KeepsOut (execApertureRead p f seg x n s) := by
  unfold execApertureRead
  repeat' first
    | with_reducible assumption
    | intro _
    | with_reducible apply State.KeepsOut.next
    | (with_reducible apply State.toHost_keeps) | (with_reducible apply State.poisonRecord_keeps)
    | with_reducible apply State.Keeps.ite | with_reducible apply State.Keeps.ite1 | with_reducible apply State.Keeps.ite2 | with_reducible apply State.Keeps.elim
    | with_reducible apply State.Keeps.foldl | with_reducible apply State.Keeps.foldl1 | with_reducible apply State.Keeps.foldl2 | with_reducible apply State.Keeps.foldl22
    | simp only [↓State.Keeps.upd, ↓State.Keeps.updFlash, ↓State.Keeps.updPoison]
    | split
    | dsimp only

theorem State.modQp_keeps {orig : State} {s : State} (p : Nat) (f : Nat) (q : Nat) (g : QPos → QPos) (h0 : orig.Keeps s) :
    orig.Keeps (State.modQp s p f q g) := by
  unfold State.modQp
  repeat' first
    | with_reducible assumption
    | intro _
    | with_reducible apply State.Keeps.ite | with_reducible apply State.Keeps.ite1 | with_reducible apply State.Keeps.ite2 | with_reducible apply State.Keeps.elim
    | with_reducible apply State.Keeps.foldl | with_reducible apply State.Keeps.foldl1 | with_reducible apply State.Keeps.foldl2 | with_reducible apply State.Keeps.foldl22
    | simp only [↓State.Keeps.upd, ↓State.Keeps.updFlash, ↓State.Keeps.updPoison]
    | split
    | dsimp only

theorem State.restart_keeps {orig : State} {s : State} (p : Nat) (f : Nat) (x3 : QueueSel) (h0 : orig.Keeps s) :
    orig.Keeps (State.restart s p f x3) := by
  unfold State.restart
  repeat' first
    | with_reducible assumption
    | intro _
    | (with_reducible apply State.csrSet_keeps) | (with_reducible apply State.modQp_keeps) | (with_reducible apply State.modEvq_keeps)
    | with_reducible apply State.Keeps.ite | with_reducible apply State.Keeps.ite1 | with_reducible apply State.Keeps.ite2 | with_reducible apply State.Keeps.elim
    | with_reducible apply State.Keeps.foldl | with_reducible apply State.Keeps.foldl1 | with_reducible apply State.Keeps.foldl2 | with_reducible apply State.Keeps.foldl22
    | simp only [↓State.Keeps.upd, ↓State.Keeps.updFlash, ↓State.Keeps.updPoison]
    | split
    | dsimp only

theorem State.writeQCfg_keeps {orig : State} {s : State} (p : Nat) (f : Nat) (q : QueueSel) (v : Word) (h0 : orig.Keeps s) :
    orig.Keeps (State.writeQCfg s p f q v) := by
  unfold State.writeQCfg
  repeat' first
    | with_reducible assumption
    | intro _
    | (with_reducible apply State.csrSet_keeps) | (with_reducible apply State.restart_keeps)
    | with_reducible apply State.Keeps.ite | with_reducible apply State.Keeps.ite1 | with_reducible apply State.Keeps.ite2 | with_reducible apply State.Keeps.elim
    | with_reducible apply State.Keeps.foldl | with_reducible apply State.Keeps.foldl1 | with_reducible apply State.Keeps.foldl2 | with_reducible apply State.Keeps.foldl22
    | simp only [↓State.Keeps.upd, ↓State.Keeps.updFlash, ↓State.Keeps.updPoison]
    | split
    | dsimp only

theorem execQueueEnable_keeps {orig : State} (p : Fin 2) (f : Fin 32) (q : QueueSel) (v : Word) {s : State} (h4 : orig.Keeps s) :
    orig.KeepsOut (execQueueEnable p f q v s) := by
  unfold execQueueEnable
  repeat' first
    | with_reducible assumption
    | intro _
    | with_reducible apply State.KeepsOut.next
    | (with_reducible apply State.writeQCfg_keeps)
    | with_reducible apply State.Keeps.ite | with_reducible apply State.Keeps.ite1 | with_reducible apply State.Keeps.ite2 | with_reducible apply State.Keeps.elim
    | with_reducible apply State.Keeps.foldl | with_reducible apply State.Keeps.foldl1 | with_reducible apply State.Keeps.foldl2 | with_reducible apply State.Keeps.foldl22
    | simp only [↓State.Keeps.upd, ↓State.Keeps.updFlash, ↓State.Keeps.updPoison]
    | split
    | dsimp only

theorem State.doorbell_keeps {orig : State} {s : State} (p : Nat) (f : Nat) (q : Nat) (h0 : orig.Keeps s) :
    orig.Keeps (State.doorbell s p f q) := by
  unfold State.doorbell
  repeat' first
    | with_reducible assumption
    | intro _
    | (with_reducible apply State.notice_keeps)
    | with_reducible apply State.Keeps.ite | with_reducible apply State.Keeps.ite1 | with_reducible apply State.Keeps.ite2 | with_reducible apply State.Keeps.elim
    | with_reducible apply State.Keeps.foldl | with_reducible apply State.Keeps.foldl1 | with_reducible apply State.Keeps.foldl2 | with_reducible apply State.Keeps.foldl22
    | simp only [↓State.Keeps.upd, ↓State.Keeps.updFlash, ↓State.Keeps.updPoison]
    | split
    | dsimp only

theorem State.writeTail_keeps {orig : State} {s : State} (p : Nat) (f : Nat) (q : Nat) (v : Word) (h0 : orig.Keeps s) :
    orig.Keeps (State.writeTail s p f q v) := by
  unfold State.writeTail
  repeat' first
    | with_reducible assumption
    | intro _
    | (with_reducible apply State.toHost_keeps) | (with_reducible apply State.doorbell_keeps)
    | (with_reducible apply State.csrSet_keeps)
    | with_reducible apply State.Keeps.ite | with_reducible apply State.Keeps.ite1 | with_reducible apply State.Keeps.ite2 | with_reducible apply State.Keeps.elim
    | with_reducible apply State.Keeps.foldl | with_reducible apply State.Keeps.foldl1 | with_reducible apply State.Keeps.foldl2 | with_reducible apply State.Keeps.foldl22
    | simp only [↓State.Keeps.upd, ↓State.Keeps.updFlash, ↓State.Keeps.updPoison]
    | split
    | dsimp only

theorem execSqTailDoorbell_keeps {orig : State} (p : Fin 2) (f : Fin 32) (q : Fin 8) (v : Word) {s : State} (h4 : orig.Keeps s) :
    orig.KeepsOut (execSqTailDoorbell p f q v s) := by
  unfold execSqTailDoorbell
  repeat' first
    | with_reducible assumption
    | intro _
    | with_reducible apply State.KeepsOut.next
    | (with_reducible apply State.writeTail_keeps)
    | with_reducible apply State.Keeps.ite | with_reducible apply State.Keeps.ite1 | with_reducible apply State.Keeps.ite2 | with_reducible apply State.Keeps.elim
    | with_reducible apply State.Keeps.foldl | with_reducible apply State.Keeps.foldl1 | with_reducible apply State.Keeps.foldl2 | with_reducible apply State.Keeps.foldl22
    | simp only [↓State.Keeps.upd, ↓State.Keeps.updFlash, ↓State.Keeps.updPoison]
    | split
    | dsimp only

theorem State.writeCqHead_keeps {orig : State} {s : State} (p : Nat) (f : Nat) (q : Nat) (v : Word) (h0 : orig.Keeps s) :
    orig.Keeps (State.writeCqHead s p f q v) := by
  unfold State.writeCqHead
  repeat' first
    | with_reducible assumption
    | intro _
    | (with_reducible apply State.doorbell_keeps) | (with_reducible apply State.csrSet_keeps)
    | with_reducible apply State.Keeps.ite | with_reducible apply State.Keeps.ite1 | with_reducible apply State.Keeps.ite2 | with_reducible apply State.Keeps.elim
    | with_reducible apply State.Keeps.foldl | with_reducible apply State.Keeps.foldl1 | with_reducible apply State.Keeps.foldl2 | with_reducible apply State.Keeps.foldl22
    | simp only [↓State.Keeps.upd, ↓State.Keeps.updFlash, ↓State.Keeps.updPoison]
    | split
    | dsimp only

theorem execCqHeadDoorbell_keeps {orig : State} (p : Fin 2) (f : Fin 32) (q : Fin 8) (v : Word) {s : State} (h4 : orig.Keeps s) :
    orig.KeepsOut (execCqHeadDoorbell p f q v s) := by
  unfold execCqHeadDoorbell
  repeat' first
    | with_reducible assumption
    | intro _
    | with_reducible apply State.KeepsOut.next
    | (with_reducible apply State.writeCqHead_keeps)
    | with_reducible apply State.Keeps.ite | with_reducible apply State.Keeps.ite1 | with_reducible apply State.Keeps.ite2 | with_reducible apply State.Keeps.elim
    | with_reducible apply State.Keeps.foldl | with_reducible apply State.Keeps.foldl1 | with_reducible apply State.Keeps.foldl2 | with_reducible apply State.Keeps.foldl22
    | simp only [↓State.Keeps.upd, ↓State.Keeps.updFlash, ↓State.Keeps.updPoison]
    | split
    | dsimp only

theorem State.writeEqHead_keeps {orig : State} {s : State} (p : Nat) (f : Nat) (v : Word) (h0 : orig.Keeps s) :
    orig.Keeps (State.writeEqHead s p f v) := by
  unfold State.writeEqHead
  repeat' first
    | with_reducible assumption
    | intro _
    | (with_reducible apply State.csrSet_keeps)
    | with_reducible apply State.Keeps.ite | with_reducible apply State.Keeps.ite1 | with_reducible apply State.Keeps.ite2 | with_reducible apply State.Keeps.elim
    | with_reducible apply State.Keeps.foldl | with_reducible apply State.Keeps.foldl1 | with_reducible apply State.Keeps.foldl2 | with_reducible apply State.Keeps.foldl22
    | simp only [↓State.Keeps.upd, ↓State.Keeps.updFlash, ↓State.Keeps.updPoison]
    | split
    | dsimp only

theorem execEqHeadWrite_keeps {orig : State} (p : Fin 2) (f : Fin 32) (v : Word) {s : State} (h3 : orig.Keeps s) :
    orig.KeepsOut (execEqHeadWrite p f v s) := by
  unfold execEqHeadWrite
  repeat' first
    | with_reducible assumption
    | intro _
    | with_reducible apply State.KeepsOut.next
    | (with_reducible apply State.writeEqHead_keeps)
    | with_reducible apply State.Keeps.ite | with_reducible apply State.Keeps.ite1 | with_reducible apply State.Keeps.ite2 | with_reducible apply State.Keeps.elim
    | with_reducible apply State.Keeps.foldl | with_reducible apply State.Keeps.foldl1 | with_reducible apply State.Keeps.foldl2 | with_reducible apply State.Keeps.foldl22
    | simp only [↓State.Keeps.upd, ↓State.Keeps.updFlash, ↓State.Keeps.updPoison]
    | split
    | dsimp only

theorem State.fetchCmd_keeps {orig : State} {s : State} (p : Nat) (f : Nat) (q : Nat) (entry : List Word) (h0 : orig.Keeps s) :
    orig.Keeps (State.fetchCmd s p f q entry) := by
  unfold State.fetchCmd
  repeat' first
    | with_reducible assumption
    | intro _
    | (with_reducible apply State.arbServed_keeps) | (with_reducible apply State.modQp_keeps)
    | with_reducible apply State.Keeps.ite | with_reducible apply State.Keeps.ite1 | with_reducible apply State.Keeps.ite2 | with_reducible apply State.Keeps.elim
    | with_reducible apply State.Keeps.foldl | with_reducible apply State.Keeps.foldl1 | with_reducible apply State.Keeps.foldl2 | with_reducible apply State.Keeps.foldl22
    | simp only [↓State.Keeps.upd, ↓State.Keeps.updFlash, ↓State.Keeps.updPoison]
    | split
    | dsimp only

theorem execCommandFetch_keeps {orig : State} (p : Fin 2) (f : Fin 32) (q : Fin 8) (entry : List Word) {s : State} (h4 : orig.Keeps s) :
    orig.KeepsOut (execCommandFetch p f q entry s) := by
  unfold execCommandFetch
  repeat' first
    | with_reducible assumption
    | intro _
    | with_reducible apply State.KeepsOut.next
    | (with_reducible apply State.fetchCmd_keeps)
    | with_reducible apply State.Keeps.ite | with_reducible apply State.Keeps.ite1 | with_reducible apply State.Keeps.ite2 | with_reducible apply State.Keeps.elim
    | with_reducible apply State.Keeps.foldl | with_reducible apply State.Keeps.foldl1 | with_reducible apply State.Keeps.foldl2 | with_reducible apply State.Keeps.foldl22
    | simp only [↓State.Keeps.upd, ↓State.Keeps.updFlash, ↓State.Keeps.updPoison]
    | split
    | dsimp only

theorem State.sendMsix_keeps {orig : State} {s : State} (p : Nat) (f : Nat) (v : Nat) (h0 : orig.Keeps s) :
    orig.Keeps (State.sendMsix s p f v) := by
  unfold State.sendMsix
  repeat' first
    | with_reducible assumption
    | intro _
    | (with_reducible apply State.toHost_keeps)
    | with_reducible apply State.Keeps.ite | with_reducible apply State.Keeps.ite1 | with_reducible apply State.Keeps.ite2 | with_reducible apply State.Keeps.elim
    | with_reducible apply State.Keeps.foldl | with_reducible apply State.Keeps.foldl1 | with_reducible apply State.Keeps.foldl2 | with_reducible apply State.Keeps.foldl22
    | simp only [↓State.Keeps.upd, ↓State.Keeps.updFlash, ↓State.Keeps.updPoison]
    | split
    | dsimp only

theorem State.complete1_keeps {orig : State} {s : State} (p : Nat) (f : Nat) (q : Nat) (h0 : orig.Keeps s) :
    orig.Keeps (State.complete1 s p f q) := by
  unfold State.complete1
  repeat' first
    | with_reducible assumption
    | intro _
    | (with_reducible apply State.toHost_keeps) | (with_reducible apply State.modQp_keeps) | (with_reducible apply State.sendMsix_keeps)
    | with_reducible apply State.Keeps.ite | with_reducible apply State.Keeps.ite1 | with_reducible apply State.Keeps.ite2 | with_reducible apply State.Keeps.elim
    | with_reducible apply State.Keeps.foldl | with_reducible apply State.Keeps.foldl1 | with_reducible apply State.Keeps.foldl2 | with_reducible apply State.Keeps.foldl22
    | simp only [↓State.Keeps.upd, ↓State.Keeps.updFlash, ↓State.Keeps.updPoison]
    | split
    | dsimp only

theorem execCompletionWrite_keeps {orig : State} (p : Fin 2) (f : Fin 32) (q : Fin 8) {s : State} (h3 : orig.Keeps s) :
    orig.KeepsOut (execCompletionWrite p f q s) := by
  unfold execCompletionWrite
  repeat' first
    | with_reducible assumption
    | intro _
    | with_reducible apply State.KeepsOut.next
    | (with_reducible apply State.complete1_keeps)
    | with_reducible apply State.Keeps.ite | with_reducible apply State.Keeps.ite1 | with_reducible apply State.Keeps.ite2 | with_reducible apply State.Keeps.elim
    | with_reducible apply State.Keeps.foldl | with_reducible apply State.Keeps.foldl1 | with_reducible apply State.Keeps.foldl2 | with_reducible apply State.Keeps.foldl22
    | simp only [↓State.Keeps.upd, ↓State.Keeps.updFlash, ↓State.Keeps.updPoison]
    | split
    | dsimp only

theorem State.writeEvent_keeps {orig : State} {s : State} (p : Nat) (f : Nat) (ws : List Word) (h0 : orig.Keeps s) :
    orig.Keeps (State.writeEvent s p f ws) := by
  unfold State.writeEvent
  repeat' first
    | with_reducible assumption
    | intro _
    | (with_reducible apply State.toHost_keeps) | (with_reducible apply State.sendMsix_keeps)
    | (with_reducible apply State.modEvq_keeps)
    | with_reducible apply State.Keeps.ite | with_reducible apply State.Keeps.ite1 | with_reducible apply State.Keeps.ite2 | with_reducible apply State.Keeps.elim
    | with_reducible apply State.Keeps.foldl | with_reducible apply State.Keeps.foldl1 | with_reducible apply State.Keeps.foldl2 | with_reducible apply State.Keeps.foldl22
    | simp only [↓State.Keeps.upd, ↓State.Keeps.updFlash, ↓State.Keeps.updPoison]
    | split
    | dsimp only

theorem State.loseEvent_keeps {orig : State} {s : State} (p : Nat) (f : Nat) (h0 : orig.Keeps s) :
    orig.Keeps (State.loseEvent s p f) := by
  unfold State.loseEvent
  repeat' first
    | with_reducible assumption
    | intro _
    | (with_reducible apply State.bump_keeps) | (with_reducible apply State.modEvq_keeps)
    | with_reducible apply State.Keeps.ite | with_reducible apply State.Keeps.ite1 | with_reducible apply State.Keeps.ite2 | with_reducible apply State.Keeps.elim
    | with_reducible apply State.Keeps.foldl | with_reducible apply State.Keeps.foldl1 | with_reducible apply State.Keeps.foldl2 | with_reducible apply State.Keeps.foldl22
    | simp only [↓State.Keeps.upd, ↓State.Keeps.updFlash, ↓State.Keeps.updPoison]
    | split
    | dsimp only

theorem State.postEvent_keeps {orig : State} {s : State} (p : Nat) (f : Nat) (h0 : orig.Keeps s) :
    orig.Keeps (State.postEvent s p f) := by
  unfold State.postEvent
  repeat' first
    | with_reducible assumption
    | intro _
    | (with_reducible apply State.modEvq_keeps) | (with_reducible apply State.bump_keeps)
    | (with_reducible apply State.writeEvent_keeps) | (with_reducible apply State.loseEvent_keeps)
    | with_reducible apply State.Keeps.ite | with_reducible apply State.Keeps.ite1 | with_reducible apply State.Keeps.ite2 | with_reducible apply State.Keeps.elim
    | with_reducible apply State.Keeps.foldl | with_reducible apply State.Keeps.foldl1 | with_reducible apply State.Keeps.foldl2 | with_reducible apply State.Keeps.foldl22
    | simp only [↓State.Keeps.upd, ↓State.Keeps.updFlash, ↓State.Keeps.updPoison]
    | split
    | dsimp only

theorem execEventRecordPost_keeps {orig : State} (p : Fin 2) (f : Fin 32) {s : State} (h2 : orig.Keeps s) :
    orig.KeepsOut (execEventRecordPost p f s) := by
  unfold execEventRecordPost
  repeat' first
    | with_reducible assumption
    | intro _
    | with_reducible apply State.KeepsOut.next
    | (with_reducible apply State.postEvent_keeps)
    | with_reducible apply State.Keeps.ite | with_reducible apply State.Keeps.ite1 | with_reducible apply State.Keeps.ite2 | with_reducible apply State.Keeps.elim
    | with_reducible apply State.Keeps.foldl | with_reducible apply State.Keeps.foldl1 | with_reducible apply State.Keeps.foldl2 | with_reducible apply State.Keeps.foldl22
    | simp only [↓State.Keeps.upd, ↓State.Keeps.updFlash, ↓State.Keeps.updPoison]
    | split
    | dsimp only

theorem execLostRecordPost_keeps {orig : State} (p : Fin 2) (f : Fin 32) {s : State} (h2 : orig.Keeps s) :
    orig.KeepsOut (execLostRecordPost p f s) := by
  unfold execLostRecordPost
  repeat' first
    | with_reducible assumption
    | intro _
    | with_reducible apply State.KeepsOut.next
    | (with_reducible apply State.writeEvent_keeps) | (with_reducible apply State.modEvq_keeps)
    | with_reducible apply State.Keeps.ite | with_reducible apply State.Keeps.ite1 | with_reducible apply State.Keeps.ite2 | with_reducible apply State.Keeps.elim
    | with_reducible apply State.Keeps.foldl | with_reducible apply State.Keeps.foldl1 | with_reducible apply State.Keeps.foldl2 | with_reducible apply State.Keeps.foldl22
    | simp only [↓State.Keeps.upd, ↓State.Keeps.updFlash, ↓State.Keeps.updPoison]
    | split
    | dsimp only

end Sys2Proof.Machine
end

