-- ==== Sys2Proof/Laws/KeepCommand.lean ====
section
/-! SUPPORT. What the operations of Machine/Command.lean keep. -/

set_option linter.all false

namespace Sys2Proof.Machine

theorem State.runCmd_keeps {orig : State} {s : State} (q : QueueId) (opc : Nat) (wait : Cmd → Bool) (act : Cmd → State → State) (h0 : orig.Keeps s) (h4 : ∀ x s, orig.Keeps s → orig.Keeps (act x s)) :
    orig.Keeps (State.runCmd s q opc wait act) := by
  unfold State.runCmd
  repeat' first
    | with_reducible assumption
    | intro _
    | (with_reducible apply State.endCmd_keeps) | (with_reducible apply h4)
    | with_reducible apply State.Keeps.ite | with_reducible apply State.Keeps.ite1 | with_reducible apply State.Keeps.ite2 | with_reducible apply State.Keeps.elim
    | with_reducible apply State.Keeps.foldl | with_reducible apply State.Keeps.foldl1 | with_reducible apply State.Keeps.foldl2 | with_reducible apply State.Keeps.foldl22
    | simp only [↓State.Keeps.upd, ↓State.Keeps.updFlash, ↓State.Keeps.updPoison]
    | split
    | dsimp only

theorem State.drawN_keeps {orig : State} {s : State} (n : Nat) (h0 : orig.Keeps s) : orig.Keeps (State.drawN s n).2 :=
  ⟨h0.mem, h0.pending, h0.floor, h0.revoked, h0.gen, h0.rekeys, h0.colds, Nat.le_trans h0.free (Nat.le_add_right _ _)⟩
theorem State.drawN_eq {orig : State} {s : State} (n : Nat) (h0 : orig.Keeps s)
    {other : List Word} {result : State} (e : State.drawN s n = (other, result)) : orig.Keeps result := by
  have := State.drawN_keeps (orig := orig) n h0
  rw [e] at this
  exact this

theorem execIdentify_keeps {orig : State} (q : QueueId) {s : State} (h1 : orig.Keeps s) :
    orig.KeepsOut (execIdentify q s) := by
  unfold execIdentify
  repeat' first
    | with_reducible assumption
    | intro _
    | with_reducible apply State.KeepsOut.next
    | (with_reducible apply State.runCmd_keeps) | (with_reducible apply State.drawN_keeps)
    | (with_reducible refine State.drawN_eq _ ?_ (by with_reducible assumption)) | (with_reducible apply State.endCmd_keeps)
    | (with_reducible apply State.toHost_keeps)
    | with_reducible apply State.Keeps.ite | with_reducible apply State.Keeps.ite1 | with_reducible apply State.Keeps.ite2 | with_reducible apply State.Keeps.elim
    | with_reducible apply State.Keeps.foldl | with_reducible apply State.Keeps.foldl1 | with_reducible apply State.Keeps.foldl2 | with_reducible apply State.Keeps.foldl22
    | simp only [↓State.Keeps.upd, ↓State.Keeps.updFlash, ↓State.Keeps.updPoison]
    | split
    | dsimp only

theorem State.bindCtx_keeps {orig : State} {s : State} (n : Nat) (p : Nat) (f : Nat) (h0 : orig.Keeps s) :
    orig.Keeps (State.bindCtx s n p f) := by
  unfold State.bindCtx
  repeat' first
    | with_reducible assumption
    | intro _
    | (with_reducible apply State.setFld_keeps) | (with_reducible apply State.modCtx_keeps)
    | with_reducible apply State.Keeps.ite | with_reducible apply State.Keeps.ite1 | with_reducible apply State.Keeps.ite2 | with_reducible apply State.Keeps.elim
    | with_reducible apply State.Keeps.foldl | with_reducible apply State.Keeps.foldl1 | with_reducible apply State.Keeps.foldl2 | with_reducible apply State.Keeps.foldl22
    | simp only [↓State.Keeps.upd, ↓State.Keeps.updFlash, ↓State.Keeps.updPoison]
    | split
    | dsimp only

theorem execCtxAlloc_keeps {orig : State} (q : QueueId) {s : State} (h1 : orig.Keeps s) :
    orig.KeepsOut (execCtxAlloc q s) := by
  unfold execCtxAlloc
  repeat' first
    | with_reducible assumption
    | intro _
    | with_reducible apply State.KeepsOut.next
    | (with_reducible apply State.runCmd_keeps) | (with_reducible apply State.endCmd_keeps) | (with_reducible apply State.bindCtx_keeps)
    | with_reducible apply State.Keeps.ite | with_reducible apply State.Keeps.ite1 | with_reducible apply State.Keeps.ite2 | with_reducible apply State.Keeps.elim
    | with_reducible apply State.Keeps.foldl | with_reducible apply State.Keeps.foldl1 | with_reducible apply State.Keeps.foldl2 | with_reducible apply State.Keeps.foldl22
    | simp only [↓State.Keeps.upd, ↓State.Keeps.updFlash, ↓State.Keeps.updPoison]
    | split
    | dsimp only

theorem execCtxFree_keeps {orig : State} (q : QueueId) {s : State} (h1 : orig.Keeps s) :
    orig.KeepsOut (execCtxFree q s) := by
  unfold execCtxFree
  repeat' first
    | with_reducible assumption
    | intro _
    | with_reducible apply State.KeepsOut.next
    | (with_reducible apply State.runCmd_keeps) | (with_reducible apply State.functionReset_keeps)
    | with_reducible apply State.Keeps.ite | with_reducible apply State.Keeps.ite1 | with_reducible apply State.Keeps.ite2 | with_reducible apply State.Keeps.elim
    | with_reducible apply State.Keeps.foldl | with_reducible apply State.Keeps.foldl1 | with_reducible apply State.Keeps.foldl2 | with_reducible apply State.Keeps.foldl22
    | simp only [↓State.Keeps.upd, ↓State.Keeps.updFlash, ↓State.Keeps.updPoison]
    | split
    | dsimp only

theorem State.entryTable_keeps {orig : State} {s : State} (table : Nat) (h0 : orig.Keeps s) :
    orig.Keeps (State.entryTable s table).2 := by
  unfold State.entryTable
  repeat' first
    | with_reducible assumption
    | intro _
    | (with_reducible apply State.drawN_keeps) | (with_reducible refine State.drawN_eq _ ?_ (by with_reducible assumption))
    | with_reducible apply State.Keeps.ite | with_reducible apply State.Keeps.ite1 | with_reducible apply State.Keeps.ite2 | with_reducible apply State.Keeps.elim
    | with_reducible apply State.Keeps.foldl | with_reducible apply State.Keeps.foldl1 | with_reducible apply State.Keeps.foldl2 | with_reducible apply State.Keeps.foldl22
    | simp only [↓State.Keeps.upd, ↓State.Keeps.updFlash, ↓State.Keeps.updPoison]
    | split
    | dsimp only
theorem State.entryTable_eq {orig : State} {s : State} (table : Nat) (h0 : orig.Keeps s)
    {other : List Word} {result : State} (e : (State.entryTable s table) = (other, result)) : orig.Keeps result := by
  have := State.entryTable_keeps (orig := orig) table h0
  rw [e] at this
  exact this

theorem State.clearFaultRegs_keeps {orig : State} {s : State} (n : Nat) (h0 : orig.Keeps s) :
    orig.Keeps (State.clearFaultRegs s n) := by
  unfold State.clearFaultRegs
  repeat' first
    | with_reducible assumption
    | intro _
    | (with_reducible apply State.csrSet_keeps)
    | with_reducible apply State.Keeps.ite | with_reducible apply State.Keeps.ite1 | with_reducible apply State.Keeps.ite2 | with_reducible apply State.Keeps.elim
    | with_reducible apply State.Keeps.foldl | with_reducible apply State.Keeps.foldl1 | with_reducible apply State.Keeps.foldl2 | with_reducible apply State.Keeps.foldl22
    | simp only [↓State.Keeps.upd, ↓State.Keeps.updFlash, ↓State.Keeps.updPoison]
    | split
    | dsimp only

theorem State.takeCluster_keeps {orig : State} {s : State} (n : CtxId) (g : Nat) (i : Nat) (h0 : orig.Keeps s) :
    orig.Keeps (State.takeCluster s n g i) := by
  unfold State.takeCluster
  repeat' first
    | with_reducible assumption
    | intro _
    | (with_reducible apply State.modCluster_keeps) | (with_reducible apply State.zeroCluster_keeps)
    | with_reducible apply State.Keeps.ite | with_reducible apply State.Keeps.ite1 | with_reducible apply State.Keeps.ite2 | with_reducible apply State.Keeps.elim
    | with_reducible apply State.Keeps.foldl | with_reducible apply State.Keeps.foldl1 | with_reducible apply State.Keeps.foldl2 | with_reducible apply State.Keeps.foldl22
    | simp only [↓State.Keeps.upd, ↓State.Keeps.updFlash, ↓State.Keeps.updPoison]
    | split
    | dsimp only

theorem State.startCore_keeps {orig : State} {s : State} (n : CtxId) (g : Nat) (idx : Nat) (size : Nat) (pc : BitVec 48) (key : Nat) (h0 : orig.Keeps s) :
    orig.Keeps (State.startCore s n g idx size pc key) := by
  unfold State.startCore
  repeat' first
    | with_reducible assumption
    | intro _
    | (with_reducible apply State.modCore_keeps)
    | with_reducible apply State.Keeps.ite | with_reducible apply State.Keeps.ite1 | with_reducible apply State.Keeps.ite2 | with_reducible apply State.Keeps.elim
    | with_reducible apply State.Keeps.foldl | with_reducible apply State.Keeps.foldl1 | with_reducible apply State.Keeps.foldl2 | with_reducible apply State.Keeps.foldl22
    | simp only [↓State.Keeps.upd, ↓State.Keeps.updFlash, ↓State.Keeps.updPoison]
    | split
    | dsimp only

theorem State.startGroup_keeps {orig : State} {s : State} (n : CtxId) (g : Nat) (mask : Nat) (pc : BitVec 48) (h0 : orig.Keeps s) :
    orig.Keeps (State.startGroup s n g mask pc) := by
  unfold State.startGroup
  repeat' first
    | with_reducible assumption
    | intro _
    | (with_reducible apply State.takeCluster_keeps) | (with_reducible apply State.startCore_keeps)
    | with_reducible apply State.Keeps.ite | with_reducible apply State.Keeps.ite1 | with_reducible apply State.Keeps.ite2 | with_reducible apply State.Keeps.elim
    | with_reducible apply State.Keeps.foldl | with_reducible apply State.Keeps.foldl1 | with_reducible apply State.Keeps.foldl2 | with_reducible apply State.Keeps.foldl22
    | simp only [↓State.Keeps.upd, ↓State.Keeps.updFlash, ↓State.Keeps.updPoison]
    | split
    | dsimp only

theorem State.launchGo_keeps {orig : State} {s : State} (c : Cmd) (table : List Word) (h0 : orig.Keeps s) :
    orig.Keeps (State.launchGo s c table) := by
  unfold State.launchGo
  repeat' first
    | with_reducible assumption
    | intro _
    | (with_reducible apply State.clearFaultRegs_keeps) | (with_reducible apply State.startGroup_keeps)
    | (with_reducible apply State.modCtx_keeps)
    | with_reducible apply State.Keeps.ite | with_reducible apply State.Keeps.ite1 | with_reducible apply State.Keeps.ite2 | with_reducible apply State.Keeps.elim
    | with_reducible apply State.Keeps.foldl | with_reducible apply State.Keeps.foldl1 | with_reducible apply State.Keeps.foldl2 | with_reducible apply State.Keeps.foldl22
    | simp only [↓State.Keeps.upd, ↓State.Keeps.updFlash, ↓State.Keeps.updPoison]
    | split
    | dsimp only

theorem execLaunch_keeps {orig : State} (q : QueueId) {s : State} (h1 : orig.Keeps s) :
    orig.KeepsOut (execLaunch q s) := by
  unfold execLaunch
  repeat' first
    | with_reducible assumption
    | intro _
    | with_reducible apply State.KeepsOut.next
    | (with_reducible apply State.runCmd_keeps) | (with_reducible apply State.endCmd_keeps)
    | (with_reducible apply State.poisonRecord_keeps) | (with_reducible apply State.entryTable_keeps)
    | (with_reducible refine State.entryTable_eq _ ?_ (by with_reducible assumption)) | (with_reducible apply State.launchGo_keeps)
    | with_reducible apply State.Keeps.ite | with_reducible apply State.Keeps.ite1 | with_reducible apply State.Keeps.ite2 | with_reducible apply State.Keeps.elim
    | with_reducible apply State.Keeps.foldl | with_reducible apply State.Keeps.foldl1 | with_reducible apply State.Keeps.foldl2 | with_reducible apply State.Keeps.foldl22
    | simp only [↓State.Keeps.upd, ↓State.Keeps.updFlash, ↓State.Keeps.updPoison]
    | split
    | dsimp only

theorem State.endProgs_keeps {orig : State} {s : State} (n : Nat) (h0 : orig.Keeps s) :
    orig.Keeps (State.endProgs s n) := by
  unfold State.endProgs
  repeat' first
    | with_reducible assumption
    | intro _
    | (with_reducible apply State.endCmd_keeps)
    | with_reducible apply State.Keeps.ite | with_reducible apply State.Keeps.ite1 | with_reducible apply State.Keeps.ite2 | with_reducible apply State.Keeps.elim
    | with_reducible apply State.Keeps.foldl | with_reducible apply State.Keeps.foldl1 | with_reducible apply State.Keeps.foldl2 | with_reducible apply State.Keeps.foldl22
    | simp only [↓State.Keeps.upd, ↓State.Keeps.updFlash, ↓State.Keeps.updPoison]
    | split
    | dsimp only

theorem State.launchEnd_keeps {orig : State} {s : State} (n : Nat) (h0 : orig.Keeps s) :
    orig.Keeps (State.launchEnd s n) := by
  unfold State.launchEnd
  repeat' first
    | with_reducible assumption
    | intro _
    | (with_reducible apply State.endProgs_keeps) | (with_reducible apply State.endCmd_keeps)
    | (with_reducible apply State.modCtx_keeps) | (with_reducible apply State.releaseClusters_keeps)
    | with_reducible apply State.Keeps.ite | with_reducible apply State.Keeps.ite1 | with_reducible apply State.Keeps.ite2 | with_reducible apply State.Keeps.elim
    | with_reducible apply State.Keeps.foldl | with_reducible apply State.Keeps.foldl1 | with_reducible apply State.Keeps.foldl2 | with_reducible apply State.Keeps.foldl22
    | simp only [↓State.Keeps.upd, ↓State.Keeps.updFlash, ↓State.Keeps.updPoison]
    | split
    | dsimp only

theorem State.faultEnd_keeps {orig : State} {s : State} (n : Nat) (h0 : orig.Keeps s) :
    orig.Keeps (State.faultEnd s n) := by
  unfold State.faultEnd
  repeat' first
    | with_reducible assumption
    | intro _
    | (with_reducible apply State.modCtx_keeps) | (with_reducible apply State.endRuns_keeps)
    | with_reducible apply State.Keeps.ite | with_reducible apply State.Keeps.ite1 | with_reducible apply State.Keeps.ite2 | with_reducible apply State.Keeps.elim
    | with_reducible apply State.Keeps.foldl | with_reducible apply State.Keeps.foldl1 | with_reducible apply State.Keeps.foldl2 | with_reducible apply State.Keeps.foldl22
    | simp only [↓State.Keeps.upd, ↓State.Keeps.updFlash, ↓State.Keeps.updPoison]
    | split
    | dsimp only

theorem execLaunchComplete_keeps {orig : State} (ctx : CtxId) {s : State} (h1 : orig.Keeps s) :
    orig.KeepsOut (execLaunchComplete ctx s) := by
  unfold execLaunchComplete
  repeat' first
    | with_reducible assumption
    | intro _
    | with_reducible apply State.KeepsOut.next
    | (with_reducible apply State.launchEnd_keeps) | (with_reducible apply State.faultEnd_keeps)
    | with_reducible apply State.Keeps.ite | with_reducible apply State.Keeps.ite1 | with_reducible apply State.Keeps.ite2 | with_reducible apply State.Keeps.elim
    | with_reducible apply State.Keeps.foldl | with_reducible apply State.Keeps.foldl1 | with_reducible apply State.Keeps.foldl2 | with_reducible apply State.Keeps.foldl22
    | simp only [↓State.Keeps.upd, ↓State.Keeps.updFlash, ↓State.Keeps.updPoison]
    | split
    | dsimp only

theorem execLaunchTimeLimit_keeps {orig : State} (ctx : CtxId) {s : State} (h1 : orig.Keeps s) :
    orig.KeepsOut (execLaunchTimeLimit ctx s) := by
  unfold execLaunchTimeLimit
  repeat' first
    | with_reducible assumption
    | intro _
    | with_reducible apply State.KeepsOut.next
    | (with_reducible apply State.startHatch_keeps)
    | with_reducible apply State.Keeps.ite | with_reducible apply State.Keeps.ite1 | with_reducible apply State.Keeps.ite2 | with_reducible apply State.Keeps.elim
    | with_reducible apply State.Keeps.foldl | with_reducible apply State.Keeps.foldl1 | with_reducible apply State.Keeps.foldl2 | with_reducible apply State.Keeps.foldl22
    | simp only [↓State.Keeps.upd, ↓State.Keeps.updFlash, ↓State.Keeps.updPoison]
    | split
    | dsimp only

theorem execSuspend_keeps {orig : State} (q : QueueId) {s : State} (h1 : orig.Keeps s) :
    orig.KeepsOut (execSuspend q s) := by
  unfold execSuspend
  repeat' first
    | with_reducible assumption
    | intro _
    | with_reducible apply State.KeepsOut.next
    | (with_reducible apply State.runCmd_keeps) | (with_reducible apply State.launchEnd_keeps)
    | (with_reducible apply State.endCmd_keeps) | (with_reducible apply State.modCtx_keeps) | (with_reducible apply State.stopCtl_keeps)
    | (with_reducible apply State.stopCores_keeps)
    | with_reducible apply State.Keeps.ite | with_reducible apply State.Keeps.ite1 | with_reducible apply State.Keeps.ite2 | with_reducible apply State.Keeps.elim
    | with_reducible apply State.Keeps.foldl | with_reducible apply State.Keeps.foldl1 | with_reducible apply State.Keeps.foldl2 | with_reducible apply State.Keeps.foldl22
    | simp only [↓State.Keeps.upd, ↓State.Keeps.updFlash, ↓State.Keeps.updPoison]
    | split
    | dsimp only

theorem State.saveCore_keeps {orig : State} {s : State} (a : Nat) (h0 : orig.Keeps s) :
    orig.Keeps (State.saveCore s a) := by
  unfold State.saveCore
  repeat' first
    | with_reducible assumption
    | intro _
    | (with_reducible apply State.drawN_keeps) | (with_reducible refine State.drawN_eq _ ?_ (by with_reducible assumption))
    | (with_reducible apply State.writeMem_keeps)
    | with_reducible apply State.Keeps.ite | with_reducible apply State.Keeps.ite1 | with_reducible apply State.Keeps.ite2 | with_reducible apply State.Keeps.elim
    | with_reducible apply State.Keeps.foldl | with_reducible apply State.Keeps.foldl1 | with_reducible apply State.Keeps.foldl2 | with_reducible apply State.Keeps.foldl22
    | simp only [↓State.Keeps.upd, ↓State.Keeps.updFlash, ↓State.Keeps.updPoison]
    | split
    | dsimp only

theorem State.saveCtx_keeps {orig : State} {s : State} (n : Nat) (a : Nat) (h0 : orig.Keeps s) :
    orig.Keeps (State.saveCtx s n a) := by
  unfold State.saveCtx
  repeat' first
    | with_reducible assumption
    | intro _
    | (with_reducible apply State.modCtx_keeps) | (with_reducible apply State.saveCore_keeps)
    | (with_reducible apply State.copyMem_keeps) | (with_reducible apply State.releaseClusters_keeps)
    | (with_reducible apply State.modCore_keeps)
    | with_reducible apply State.Keeps.ite | with_reducible apply State.Keeps.ite1 | with_reducible apply State.Keeps.ite2 | with_reducible apply State.Keeps.elim
    | with_reducible apply State.Keeps.foldl | with_reducible apply State.Keeps.foldl1 | with_reducible apply State.Keeps.foldl2 | with_reducible apply State.Keeps.foldl22
    | simp only [↓State.Keeps.upd, ↓State.Keeps.updFlash, ↓State.Keeps.updPoison]
    | split
    | dsimp only

theorem execSuspendComplete_keeps {orig : State} (ctx : CtxId) {s : State} (h1 : orig.Keeps s) :
    orig.KeepsOut (execSuspendComplete ctx s) := by
  unfold execSuspendComplete
  repeat' first
    | with_reducible assumption
    | intro _
    | with_reducible apply State.KeepsOut.next
    | (with_reducible apply State.saveCtx_keeps) | (with_reducible apply State.endCmd_keeps) | (with_reducible apply State.modCtx_keeps)
    | with_reducible apply State.Keeps.ite | with_reducible apply State.Keeps.ite1 | with_reducible apply State.Keeps.ite2 | with_reducible apply State.Keeps.elim
    | with_reducible apply State.Keeps.foldl | with_reducible apply State.Keeps.foldl1 | with_reducible apply State.Keeps.foldl2 | with_reducible apply State.Keeps.foldl22
    | simp only [↓State.Keeps.upd, ↓State.Keeps.updFlash, ↓State.Keeps.updPoison]
    | split
    | dsimp only

theorem Memory.puts_wf (l : List Host.Cell) {m : Memory} (h : m.wf = true) : (l.foldl (fun (m : Memory) c => m.put c.1 c.2) m).wf = true := by
  induction l generalizing m with
  | nil => exact h
  | cons c l ih => exact ih (Memory.put_wf _ _ h)

theorem State.Keeps.withMem {a b : State} {m : Memory} (h : a.Keeps b) (hm : b.mem.wf = true → m.wf = true) : a.Keeps { b with mem := m } :=
  ⟨fun k => hm (h.mem k), h.pending, h.floor, h.revoked, h.gen, h.rekeys, h.colds, h.free⟩

theorem State.takeBack_keeps {orig : State} {s : State} (n : CtxId) (a : Nat) (h0 : orig.Keeps s) : orig.Keeps (State.takeBack s n a) := by
  unfold State.takeBack
  refine State.Keeps.foldl (fun s c h => State.modCore_keeps _ _ h) _ ?_
  refine State.Keeps.foldl1 (fun x i h => State.copyMem_keeps _ _ _ h) _ (State.Keeps.withMem ?_ fun h => Memory.puts_wf _ h)
  exact State.Keeps.foldl (fun s g h => State.Keeps.foldl (fun s i h => State.modCluster_keeps _ _ (State.zeroCluster_keeps _ h)) _ h) _ h0

theorem State.lateColls_keeps {orig : State} {s : State} (n : Nat) (h0 : orig.Keeps s) :
    orig.Keeps (State.lateColls s n) := by
  unfold State.lateColls
  repeat' first
    | with_reducible assumption
    | intro _
    | (with_reducible apply State.dropFlight_keeps) | (with_reducible apply State.settle_keeps)
    | (with_reducible apply State.evAdd_keeps)
    | with_reducible apply State.Keeps.ite | with_reducible apply State.Keeps.ite1 | with_reducible apply State.Keeps.ite2 | with_reducible apply State.Keeps.elim
    | with_reducible apply State.Keeps.foldl | with_reducible apply State.Keeps.foldl1 | with_reducible apply State.Keeps.foldl2 | with_reducible apply State.Keeps.foldl22
    | simp only [↓State.Keeps.upd, ↓State.Keeps.updFlash, ↓State.Keeps.updPoison]
    | split
    | dsimp only

theorem State.goOn_keeps {orig : State} {s : State} (n : Nat) (h0 : orig.Keeps s) :
    orig.Keeps (State.goOn s n) := by
  unfold State.goOn
  repeat' first
    | with_reducible assumption
    | intro _
    | (with_reducible apply State.modCore_keeps)
    | with_reducible apply State.Keeps.ite | with_reducible apply State.Keeps.ite1 | with_reducible apply State.Keeps.ite2 | with_reducible apply State.Keeps.elim
    | with_reducible apply State.Keeps.foldl | with_reducible apply State.Keeps.foldl1 | with_reducible apply State.Keeps.foldl2 | with_reducible apply State.Keeps.foldl22
    | simp only [↓State.Keeps.upd, ↓State.Keeps.updFlash, ↓State.Keeps.updPoison]
    | split
    | dsimp only

theorem execResume_keeps {orig : State} (q : QueueId) {s : State} (h1 : orig.Keeps s) :
    orig.KeepsOut (execResume q s) := by
  unfold execResume
  repeat' first
    | with_reducible assumption
    | intro _
    | with_reducible apply State.KeepsOut.next
    | (with_reducible apply State.runCmd_keeps) | (with_reducible apply State.endCmd_keeps) | (with_reducible apply State.unpark_keeps)
    | (with_reducible apply State.goOn_keeps) | (with_reducible apply State.modCtx_keeps) | (with_reducible apply State.takeBack_keeps)
    | (with_reducible apply State.evAdd_keeps) | (with_reducible apply State.lateColls_keeps)
    | with_reducible apply State.Keeps.ite | with_reducible apply State.Keeps.ite1 | with_reducible apply State.Keeps.ite2 | with_reducible apply State.Keeps.elim
    | with_reducible apply State.Keeps.foldl | with_reducible apply State.Keeps.foldl1 | with_reducible apply State.Keeps.foldl2 | with_reducible apply State.Keeps.foldl22
    | simp only [↓State.Keeps.upd, ↓State.Keeps.updFlash, ↓State.Keeps.updPoison]
    | split
    | dsimp only

theorem State.stopProg_keeps {orig : State} {s : State} (p : CcProg) (h0 : orig.Keeps s) :
    orig.Keeps (State.stopProg s p) := by
  unfold State.stopProg
  repeat' first
    | with_reducible assumption
    | intro _
    | (with_reducible apply State.draw_keeps) | (with_reducible refine State.draw_eq ?_ (by with_reducible assumption))
    | (with_reducible apply State.ccBack_keeps)
    | with_reducible apply State.Keeps.ite | with_reducible apply State.Keeps.ite1 | with_reducible apply State.Keeps.ite2 | with_reducible apply State.Keeps.elim
    | with_reducible apply State.Keeps.foldl | with_reducible apply State.Keeps.foldl1 | with_reducible apply State.Keeps.foldl2 | with_reducible apply State.Keeps.foldl22
    | simp only [↓State.Keeps.upd, ↓State.Keeps.updFlash, ↓State.Keeps.updPoison]
    | split
    | dsimp only

theorem State.cancelCopy_keeps {orig : State} {s : State} (cmd : Nat) (h0 : orig.Keeps s) :
    orig.Keeps (State.cancelCopy s cmd).1 := by
  unfold State.cancelCopy
  repeat' first
    | with_reducible assumption
    | intro _
    | (with_reducible apply State.strmEnd_keeps) | (with_reducible apply State.setStrm_keeps)
    | with_reducible apply State.Keeps.ite | with_reducible apply State.Keeps.ite1 | with_reducible apply State.Keeps.ite2 | with_reducible apply State.Keeps.elim
    | with_reducible apply State.Keeps.foldl | with_reducible apply State.Keeps.foldl1 | with_reducible apply State.Keeps.foldl2 | with_reducible apply State.Keeps.foldl22
    | simp only [↓State.Keeps.upd, ↓State.Keeps.updFlash, ↓State.Keeps.updPoison]
    | split
    | dsimp only
theorem State.cancelCopy_eq {orig : State} {s : State} (cmd : Nat) (h0 : orig.Keeps s)
    {other : Bool} {result : State} (e : (State.cancelCopy s cmd) = (result, other)) : orig.Keeps result := by
  have := State.cancelCopy_keeps (orig := orig) cmd h0
  rw [e] at this
  exact this

theorem State.cancel_keeps {orig : State} {s : State} (c : Cmd) (h0 : orig.Keeps s) :
    orig.Keeps (State.cancel s c) := by
  unfold State.cancel
  repeat' first
    | with_reducible assumption
    | intro _
    | (with_reducible apply State.startHatch_keeps) | (with_reducible apply State.endCmd_keeps)
    | (with_reducible apply State.stopProg_keeps) | (with_reducible apply State.cancelCopy_keeps)
    | (with_reducible refine State.cancelCopy_eq _ ?_ (by with_reducible assumption))
    | with_reducible apply State.Keeps.ite | with_reducible apply State.Keeps.ite1 | with_reducible apply State.Keeps.ite2 | with_reducible apply State.Keeps.elim
    | with_reducible apply State.Keeps.foldl | with_reducible apply State.Keeps.foldl1 | with_reducible apply State.Keeps.foldl2 | with_reducible apply State.Keeps.foldl22
    | simp only [↓State.Keeps.upd, ↓State.Keeps.updFlash, ↓State.Keeps.updPoison]
    | split
    | dsimp only

theorem execCancel_keeps {orig : State} (q : QueueId) {s : State} (h1 : orig.Keeps s) :
    orig.KeepsOut (execCancel q s) := by
  unfold execCancel
  repeat' first
    | with_reducible assumption
    | intro _
    | with_reducible apply State.KeepsOut.next
    | (with_reducible apply State.runCmd_keeps) | (with_reducible apply State.cancel_keeps)
    | with_reducible apply State.Keeps.ite | with_reducible apply State.Keeps.ite1 | with_reducible apply State.Keeps.ite2 | with_reducible apply State.Keeps.elim
    | with_reducible apply State.Keeps.foldl | with_reducible apply State.Keeps.foldl1 | with_reducible apply State.Keeps.foldl2 | with_reducible apply State.Keeps.foldl22
    | simp only [↓State.Keeps.upd, ↓State.Keeps.updFlash, ↓State.Keeps.updPoison]
    | split
    | dsimp only

theorem execCopy_keeps {orig : State} (q : QueueId) (desc : List Word) {s : State} (h2 : orig.Keeps s) :
    orig.KeepsOut (execCopy q desc s) := by
  unfold execCopy
  repeat' first
    | with_reducible assumption
    | intro _
    | with_reducible apply State.KeepsOut.next
    | (with_reducible apply State.runCmd_keeps) | (with_reducible apply State.endCmd_keeps)
    | (with_reducible apply State.enterStrm_keeps)
    | with_reducible apply State.Keeps.ite | with_reducible apply State.Keeps.ite1 | with_reducible apply State.Keeps.ite2 | with_reducible apply State.Keeps.elim
    | with_reducible apply State.Keeps.foldl | with_reducible apply State.Keeps.foldl1 | with_reducible apply State.Keeps.foldl2 | with_reducible apply State.Keeps.foldl22
    | simp only [↓State.Keeps.upd, ↓State.Keeps.updFlash, ↓State.Keeps.updPoison]
    | split
    | dsimp only

theorem execOpenWindow_keeps {orig : State} (q : QueueId) {s : State} (h1 : orig.Keeps s) :
    orig.KeepsOut (execOpenWindow q s) := by
  unfold execOpenWindow
  repeat' first
    | with_reducible assumption
    | intro _
    | with_reducible apply State.KeepsOut.next
    | (with_reducible apply State.runCmd_keeps) | (with_reducible apply State.endCmd_keeps)
    | with_reducible apply State.Keeps.ite | with_reducible apply State.Keeps.ite1 | with_reducible apply State.Keeps.ite2 | with_reducible apply State.Keeps.elim
    | with_reducible apply State.Keeps.foldl | with_reducible apply State.Keeps.foldl1 | with_reducible apply State.Keeps.foldl2 | with_reducible apply State.Keeps.foldl22
    | simp only [↓State.Keeps.upd, ↓State.Keeps.updFlash, ↓State.Keeps.updPoison]
    | split
    | dsimp only

theorem execCloseWindow_keeps {orig : State} (q : QueueId) {s : State} (h1 : orig.Keeps s) :
    orig.KeepsOut (execCloseWindow q s) := by
  unfold execCloseWindow
  repeat' first
    | with_reducible assumption
    | intro _
    | with_reducible apply State.KeepsOut.next
    | (with_reducible apply State.runCmd_keeps) | (with_reducible apply State.endCmd_keeps)
    | with_reducible apply State.Keeps.ite | with_reducible apply State.Keeps.ite1 | with_reducible apply State.Keeps.ite2 | with_reducible apply State.Keeps.elim
    | with_reducible apply State.Keeps.foldl | with_reducible apply State.Keeps.foldl1 | with_reducible apply State.Keeps.foldl2 | with_reducible apply State.Keeps.foldl22
    | simp only [↓State.Keeps.upd, ↓State.Keeps.updFlash, ↓State.Keeps.updPoison]
    | split
    | dsimp only

theorem execMapAperture_keeps {orig : State} (q : QueueId) {s : State} (h1 : orig.Keeps s) :
    orig.KeepsOut (execMapAperture q s) := by
  unfold execMapAperture
  repeat' first
    | with_reducible assumption
    | intro _
    | with_reducible apply State.KeepsOut.next
    | (with_reducible apply State.runCmd_keeps) | (with_reducible apply State.endCmd_keeps)
    | with_reducible apply State.Keeps.ite | with_reducible apply State.Keeps.ite1 | with_reducible apply State.Keeps.ite2 | with_reducible apply State.Keeps.elim
    | with_reducible apply State.Keeps.foldl | with_reducible apply State.Keeps.foldl1 | with_reducible apply State.Keeps.foldl2 | with_reducible apply State.Keeps.foldl22
    | simp only [↓State.Keeps.upd, ↓State.Keeps.updFlash, ↓State.Keeps.updPoison]
    | split
    | dsimp only

theorem execCcRun_keeps {orig : State} (q : QueueId) (chosen : Fin 16) {s : State} (h2 : orig.Keeps s) :
    orig.KeepsOut (execCcRun q chosen s) := by
  unfold execCcRun
  repeat' first
    | with_reducible assumption
    | intro _
    | with_reducible apply State.KeepsOut.next
    | (with_reducible apply State.runCmd_keeps) | (with_reducible apply State.endCmd_keeps)
    | (with_reducible apply State.clearFaultRegs_keeps) | (with_reducible apply State.modCtx_keeps)
    | with_reducible apply State.Keeps.ite | with_reducible apply State.Keeps.ite1 | with_reducible apply State.Keeps.ite2 | with_reducible apply State.Keeps.elim
    | with_reducible apply State.Keeps.foldl | with_reducible apply State.Keeps.foldl1 | with_reducible apply State.Keeps.foldl2 | with_reducible apply State.Keeps.foldl22
    | simp only [↓State.Keeps.upd, ↓State.Keeps.updFlash, ↓State.Keeps.updPoison]
    | split
    | dsimp only

end Sys2Proof.Machine
end

