-- ==== Sys2Proof/Laws/KeepErrCtl.lean ====
section
/-! SUPPORT. What the operations of Machine/ErrCtl.lean keep. -/

set_option linter.all false

namespace Sys2Proof.Machine

theorem State.detectedBad_keeps {orig : State} {s : State} (d : Detection) (h0 : orig.Keeps s) :
    orig.Keeps (State.detectedBad s d) := by
  unfold State.detectedBad
  repeat' first
    | with_reducible assumption
    | intro _
    | (with_reducible apply State.modCore_keeps) | (with_reducible apply State.stageBad_keeps)
    | (with_reducible apply State.markPoison_keeps)
    | with_reducible apply State.Keeps.ite | with_reducible apply State.Keeps.ite1 | with_reducible apply State.Keeps.ite2 | with_reducible apply State.Keeps.elim
    | with_reducible apply State.Keeps.foldl | with_reducible apply State.Keeps.foldl1 | with_reducible apply State.Keeps.foldl2 | with_reducible apply State.Keeps.foldl22
    | simp only [↓State.Keeps.upd, ↓State.Keeps.updFlash, ↓State.Keeps.updPoison]
    | split
    | dsimp only

theorem State.detectionActs_keeps {orig : State} {s : State} (d : Detection) (i : Option Nat) (h0 : orig.Keeps s) :
    orig.Keeps (State.detectionActs s d i) := by
  unfold State.detectionActs
  repeat' first
    | with_reducible assumption
    | intro _
    | (with_reducible apply State.detectedBad_keeps) | (with_reducible apply State.startHatch_keeps)
    | (with_reducible apply State.handle_keeps) | (with_reducible apply State.addFault_keeps)
    | with_reducible apply State.Keeps.ite | with_reducible apply State.Keeps.ite1 | with_reducible apply State.Keeps.ite2 | with_reducible apply State.Keeps.elim
    | with_reducible apply State.Keeps.foldl | with_reducible apply State.Keeps.foldl1 | with_reducible apply State.Keeps.foldl2 | with_reducible apply State.Keeps.foldl22
    | simp only [↓State.Keeps.upd, ↓State.Keeps.updFlash, ↓State.Keeps.updPoison]
    | split
    | dsimp only

theorem State.detect_keeps {orig : State} {s : State} (d : Detection) (h0 : orig.Keeps s) :
    orig.Keeps (State.detect s d) := by
  unfold State.detect
  repeat' first
    | with_reducible assumption
    | intro _
    | (with_reducible apply State.pmcEvent_keeps) | (with_reducible apply State.charge_keeps) | (with_reducible apply State.fired_keeps)
    | (with_reducible apply State.openRecord_keeps) | (with_reducible refine State.openRecord_eq _ _ ?_ (by with_reducible assumption))
    | (with_reducible apply State.detectionActs_keeps)
    | with_reducible apply State.Keeps.ite | with_reducible apply State.Keeps.ite1 | with_reducible apply State.Keeps.ite2 | with_reducible apply State.Keeps.elim
    | with_reducible apply State.Keeps.foldl | with_reducible apply State.Keeps.foldl1 | with_reducible apply State.Keeps.foldl2 | with_reducible apply State.Keeps.foldl22
    | simp only [↓State.Keeps.upd, ↓State.Keeps.updFlash, ↓State.Keeps.updPoison]
    | split
    | dsimp only

theorem execErrorDetection_keeps {orig : State} (d : Detection) {s : State} (h1 : orig.Keeps s) :
    orig.KeepsOut (execErrorDetection d s) := by
  unfold execErrorDetection
  repeat' first
    | with_reducible assumption
    | intro _
    | with_reducible apply State.KeepsOut.next
    | (with_reducible apply State.detect_keeps)
    | with_reducible apply State.Keeps.ite | with_reducible apply State.Keeps.ite1 | with_reducible apply State.Keeps.ite2 | with_reducible apply State.Keeps.elim
    | with_reducible apply State.Keeps.foldl | with_reducible apply State.Keeps.foldl1 | with_reducible apply State.Keeps.foldl2 | with_reducible apply State.Keeps.foldl22
    | simp only [↓State.Keeps.upd, ↓State.Keeps.updFlash, ↓State.Keeps.updPoison]
    | split
    | dsimp only

theorem State.finishRecord_keeps {orig : State} {s : State} (i : Nat) (c : Classification) (h0 : orig.Keeps s) :
    orig.Keeps (State.finishRecord s i c) := by
  unfold State.finishRecord
  repeat' first
    | with_reducible assumption
    | intro _
    | (with_reducible apply State.chargeRec_keeps) | (with_reducible apply State.closeRecord_keeps)
    | with_reducible apply State.Keeps.ite | with_reducible apply State.Keeps.ite1 | with_reducible apply State.Keeps.ite2 | with_reducible apply State.Keeps.elim
    | with_reducible apply State.Keeps.foldl | with_reducible apply State.Keeps.foldl1 | with_reducible apply State.Keeps.foldl2 | with_reducible apply State.Keeps.foldl22
    | simp only [↓State.Keeps.upd, ↓State.Keeps.updFlash, ↓State.Keeps.updPoison]
    | split
    | dsimp only

theorem execErrorRecordClose_keeps {orig : State} (i : BitVec 32) (cls : Classification) {s : State} (h2 : orig.Keeps s) :
    orig.KeepsOut (execErrorRecordClose i cls s) := by
  unfold execErrorRecordClose
  repeat' first
    | with_reducible assumption
    | intro _
    | with_reducible apply State.KeepsOut.next
    | (with_reducible apply State.finishRecord_keeps)
    | with_reducible apply State.Keeps.ite | with_reducible apply State.Keeps.ite1 | with_reducible apply State.Keeps.ite2 | with_reducible apply State.Keeps.elim
    | with_reducible apply State.Keeps.foldl | with_reducible apply State.Keeps.foldl1 | with_reducible apply State.Keeps.foldl2 | with_reducible apply State.Keeps.foldl22
    | simp only [↓State.Keeps.upd, ↓State.Keeps.updFlash, ↓State.Keeps.updPoison]
    | split
    | dsimp only

theorem execIcacheRecurrenceWindow_keeps {orig : State} (i : BitVec 32) {s : State} (h1 : orig.Keeps s) :
    orig.KeepsOut (execIcacheRecurrenceWindow i s) := by
  unfold execIcacheRecurrenceWindow
  repeat' first
    | with_reducible assumption
    | intro _
    | with_reducible apply State.KeepsOut.next
    | (with_reducible apply State.finishRecord_keeps)
    | with_reducible apply State.Keeps.ite | with_reducible apply State.Keeps.ite1 | with_reducible apply State.Keeps.ite2 | with_reducible apply State.Keeps.elim
    | with_reducible apply State.Keeps.foldl | with_reducible apply State.Keeps.foldl1 | with_reducible apply State.Keeps.foldl2 | with_reducible apply State.Keeps.foldl22
    | simp only [↓State.Keeps.upd, ↓State.Keeps.updFlash, ↓State.Keeps.updPoison]
    | split
    | dsimp only

theorem execHistoryHalving_keeps {orig : State} (unit : UnitCode) {s : State} (h1 : orig.Keeps s) :
    orig.KeepsOut (execHistoryHalving unit s) := by
  unfold execHistoryHalving
  repeat' first
    | with_reducible assumption
    | intro _
    | with_reducible apply State.KeepsOut.next
    | (with_reducible apply State.putHist_keeps)
    | with_reducible apply State.Keeps.ite | with_reducible apply State.Keeps.ite1 | with_reducible apply State.Keeps.ite2 | with_reducible apply State.Keeps.elim
    | with_reducible apply State.Keeps.foldl | with_reducible apply State.Keeps.foldl1 | with_reducible apply State.Keeps.foldl2 | with_reducible apply State.Keeps.foldl22
    | simp only [↓State.Keeps.upd, ↓State.Keeps.updFlash, ↓State.Keeps.updPoison]
    | split
    | dsimp only

theorem execHistoryFlashWrite_keeps {orig : State} (unit : UnitCode) {s : State} (h1 : orig.Keeps s) :
    orig.KeepsOut (execHistoryFlashWrite unit s) := by
  unfold execHistoryFlashWrite
  repeat' first
    | with_reducible assumption
    | intro _
    | with_reducible apply State.KeepsOut.next
    | (with_reducible apply State.flashHist_keeps)
    | with_reducible apply State.Keeps.ite | with_reducible apply State.Keeps.ite1 | with_reducible apply State.Keeps.ite2 | with_reducible apply State.Keeps.elim
    | with_reducible apply State.Keeps.foldl | with_reducible apply State.Keeps.foldl1 | with_reducible apply State.Keeps.foldl2 | with_reducible apply State.Keeps.foldl22
    | simp only [↓State.Keeps.upd, ↓State.Keeps.updFlash, ↓State.Keeps.updPoison]
    | split
    | dsimp only

theorem State.tstEnd_keeps {orig : State} {s : State} (u : UnitCode) (result : Nat) (h0 : orig.Keeps s) :
    orig.Keeps (State.tstEnd s u result) := by
  unfold State.tstEnd
  repeat' first
    | with_reducible assumption
    | intro _
    | (with_reducible apply State.csrSet_keeps)
    | with_reducible apply State.Keeps.ite | with_reducible apply State.Keeps.ite1 | with_reducible apply State.Keeps.ite2 | with_reducible apply State.Keeps.elim
    | with_reducible apply State.Keeps.foldl | with_reducible apply State.Keeps.foldl1 | with_reducible apply State.Keeps.foldl2 | with_reducible apply State.Keeps.foldl22
    | simp only [↓State.Keeps.upd, ↓State.Keeps.updFlash, ↓State.Keeps.updPoison]
    | split
    | dsimp only

theorem State.tstBusy_keeps {orig : State} {s : State} (u : UnitCode) (h0 : orig.Keeps s) :
    orig.Keeps (State.tstBusy s u) := by
  unfold State.tstBusy
  repeat' first
    | with_reducible assumption
    | intro _
    | (with_reducible apply State.csrSet_keeps)
    | with_reducible apply State.Keeps.ite | with_reducible apply State.Keeps.ite1 | with_reducible apply State.Keeps.ite2 | with_reducible apply State.Keeps.elim
    | with_reducible apply State.Keeps.foldl | with_reducible apply State.Keeps.foldl1 | with_reducible apply State.Keeps.foldl2 | with_reducible apply State.Keeps.foldl22
    | simp only [↓State.Keeps.upd, ↓State.Keeps.updFlash, ↓State.Keeps.updPoison]
    | split
    | dsimp only

theorem State.contentRecord_keeps {orig : State} {s : State} (h0 : orig.Keeps s) :
    orig.Keeps (State.contentRecord s) := by
  unfold State.contentRecord
  repeat' first
    | with_reducible assumption
    | intro _
    | (with_reducible apply State.openRecord_keeps) | (with_reducible refine State.openRecord_eq _ _ ?_ (by with_reducible assumption))
    | (with_reducible apply State.closeRecord_keeps)
    | with_reducible apply State.Keeps.ite | with_reducible apply State.Keeps.ite1 | with_reducible apply State.Keeps.ite2 | with_reducible apply State.Keeps.elim
    | with_reducible apply State.Keeps.foldl | with_reducible apply State.Keeps.foldl1 | with_reducible apply State.Keeps.foldl2 | with_reducible apply State.Keeps.foldl22
    | simp only [↓State.Keeps.upd, ↓State.Keeps.updFlash, ↓State.Keeps.updPoison]
    | split
    | dsimp only

theorem execFieldTestVisit_keeps {orig : State} (k : Fin 4) (cl : Fin 12) {s : State} (h2 : orig.Keeps s) :
    orig.KeepsOut (execFieldTestVisit k cl s) := by
  unfold execFieldTestVisit
  repeat' first
    | with_reducible assumption
    | intro _
    | with_reducible apply State.KeepsOut.next
    | (with_reducible apply State.modCluster_keeps) | (with_reducible apply State.contentRecord_keeps)
    | with_reducible apply State.Keeps.ite | with_reducible apply State.Keeps.ite1 | with_reducible apply State.Keeps.ite2 | with_reducible apply State.Keeps.elim
    | with_reducible apply State.Keeps.foldl | with_reducible apply State.Keeps.foldl1 | with_reducible apply State.Keeps.foldl2 | with_reducible apply State.Keeps.foldl22
    | simp only [↓State.Keeps.upd, ↓State.Keeps.updFlash, ↓State.Keeps.updPoison]
    | split
    | dsimp only

theorem State.testPassed_keeps {orig : State} {s : State} (k : Nat) (cl : Nat) (h0 : orig.Keeps s) :
    orig.Keeps (State.testPassed s k cl) := by
  unfold State.testPassed
  repeat' first
    | with_reducible assumption
    | intro _
    | (with_reducible apply State.modCluster_keeps)
    | with_reducible apply State.Keeps.ite | with_reducible apply State.Keeps.ite1 | with_reducible apply State.Keeps.ite2 | with_reducible apply State.Keeps.elim
    | with_reducible apply State.Keeps.foldl | with_reducible apply State.Keeps.foldl1 | with_reducible apply State.Keeps.foldl2 | with_reducible apply State.Keeps.foldl22
    | simp only [↓State.Keeps.upd, ↓State.Keeps.updFlash, ↓State.Keeps.updPoison]
    | split
    | dsimp only

theorem State.testFailed_keeps {orig : State} {s : State} (k : Nat) (cl : Nat) (h0 : orig.Keeps s) :
    orig.Keeps (State.testFailed s k cl) := by
  unfold State.testFailed
  repeat' first
    | with_reducible assumption
    | intro _
    | (with_reducible apply State.openRecord_keeps) | (with_reducible refine State.openRecord_eq _ _ ?_ (by with_reducible assumption))
    | (with_reducible apply State.modCluster_keeps) | (with_reducible apply State.markUnit_keeps)
    | (with_reducible apply State.putHist_keeps) | (with_reducible apply State.dropSpare_keeps)
    | (with_reducible apply State.closeRecord_keeps)
    | with_reducible apply State.Keeps.ite | with_reducible apply State.Keeps.ite1 | with_reducible apply State.Keeps.ite2 | with_reducible apply State.Keeps.elim
    | with_reducible apply State.Keeps.foldl | with_reducible apply State.Keeps.foldl1 | with_reducible apply State.Keeps.foldl2 | with_reducible apply State.Keeps.foldl22
    | simp only [↓State.Keeps.upd, ↓State.Keeps.updFlash, ↓State.Keeps.updPoison]
    | split
    | dsimp only

theorem execFieldTestDone_keeps {orig : State} (k : Fin 4) (cl : Fin 12) (pass : Bool) {s : State} (h3 : orig.Keeps s) :
    orig.KeepsOut (execFieldTestDone k cl pass s) := by
  unfold execFieldTestDone
  repeat' first
    | with_reducible assumption
    | intro _
    | with_reducible apply State.KeepsOut.next
    | (with_reducible apply State.testPassed_keeps) | (with_reducible apply State.testFailed_keeps)
    | (with_reducible apply State.tstEnd_keeps)
    | with_reducible apply State.Keeps.ite | with_reducible apply State.Keeps.ite1 | with_reducible apply State.Keeps.ite2 | with_reducible apply State.Keeps.elim
    | with_reducible apply State.Keeps.foldl | with_reducible apply State.Keeps.foldl1 | with_reducible apply State.Keeps.foldl2 | with_reducible apply State.Keeps.foldl22
    | simp only [↓State.Keeps.upd, ↓State.Keeps.updFlash, ↓State.Keeps.updPoison]
    | split
    | dsimp only

theorem State.cmdTest_keeps {orig : State} {s : State} (u : UnitCode) (h0 : orig.Keeps s) :
    orig.Keeps (State.cmdTest s u) := by
  unfold State.cmdTest
  repeat' first
    | with_reducible assumption
    | intro _
    | (with_reducible apply State.tstEnd_keeps) | (with_reducible apply State.contentRecord_keeps)
    | (with_reducible apply State.tstBusy_keeps) | (with_reducible apply State.modCluster_keeps)
    | with_reducible apply State.Keeps.ite | with_reducible apply State.Keeps.ite1 | with_reducible apply State.Keeps.ite2 | with_reducible apply State.Keeps.elim
    | with_reducible apply State.Keeps.foldl | with_reducible apply State.Keeps.foldl1 | with_reducible apply State.Keeps.foldl2 | with_reducible apply State.Keeps.foldl22
    | simp only [↓State.Keeps.upd, ↓State.Keeps.updFlash, ↓State.Keeps.updPoison]
    | split
    | dsimp only

theorem execTest_keeps {orig : State} (unit : UnitCode) {s : State} (h1 : orig.Keeps s) :
    orig.KeepsOut (execTest unit s) := by
  unfold execTest
  repeat' first
    | with_reducible assumption
    | intro _
    | with_reducible apply State.KeepsOut.next
    | (with_reducible apply State.cmdTest_keeps)
    | with_reducible apply State.Keeps.ite | with_reducible apply State.Keeps.ite1 | with_reducible apply State.Keeps.ite2 | with_reducible apply State.Keeps.elim
    | with_reducible apply State.Keeps.foldl | with_reducible apply State.Keeps.foldl1 | with_reducible apply State.Keeps.foldl2 | with_reducible apply State.Keeps.foldl22
    | simp only [↓State.Keeps.upd, ↓State.Keeps.updFlash, ↓State.Keeps.updPoison]
    | split
    | dsimp only

theorem State.svcBits_keeps {orig : State} {s : State} (h0 : orig.Keeps s) :
    orig.Keeps (State.svcBits s) := by
  unfold State.svcBits
  repeat' first
    | with_reducible assumption
    | intro _
    | (with_reducible apply State.setFld_keeps)
    | with_reducible apply State.Keeps.ite | with_reducible apply State.Keeps.ite1 | with_reducible apply State.Keeps.ite2 | with_reducible apply State.Keeps.elim
    | with_reducible apply State.Keeps.foldl | with_reducible apply State.Keeps.foldl1 | with_reducible apply State.Keeps.foldl2 | with_reducible apply State.Keeps.foldl22
    | simp only [↓State.Keeps.upd, ↓State.Keeps.updFlash, ↓State.Keeps.updPoison]
    | split
    | dsimp only

theorem State.unshut_keeps {orig : State} {s : State} (u : UnitCode) (h0 : orig.Keeps s) :
    orig.Keeps (State.unshut s u) := by
  unfold State.unshut
  repeat' first
    | with_reducible assumption
    | intro _
    | (with_reducible apply State.svcBits_keeps) | (with_reducible apply State.measMaps_keeps)
    | (with_reducible apply State.markUnit_keeps)
    | with_reducible apply State.Keeps.ite | with_reducible apply State.Keeps.ite1 | with_reducible apply State.Keeps.ite2 | with_reducible apply State.Keeps.elim
    | with_reducible apply State.Keeps.foldl | with_reducible apply State.Keeps.foldl1 | with_reducible apply State.Keeps.foldl2 | with_reducible apply State.Keeps.foldl22
    | simp only [↓State.Keeps.upd, ↓State.Keeps.updFlash, ↓State.Keeps.updPoison]
    | split
    | dsimp only

theorem State.restoreCore_keeps {orig : State} {s : State} (k : Nat) (cl : Nat) (phys : Nat) (h0 : orig.Keeps s) :
    orig.Keeps (State.restoreCore s k cl phys) := by
  unfold State.restoreCore
  repeat' first
    | with_reducible assumption
    | intro _
    | (with_reducible apply State.markUnit_keeps) | (with_reducible apply State.setFld_keeps)
    | (with_reducible apply State.svcBits_keeps) | (with_reducible apply State.saveMap_keeps)
    | (with_reducible apply State.modCluster_keeps)
    | with_reducible apply State.Keeps.ite | with_reducible apply State.Keeps.ite1 | with_reducible apply State.Keeps.ite2 | with_reducible apply State.Keeps.elim
    | with_reducible apply State.Keeps.foldl | with_reducible apply State.Keeps.foldl1 | with_reducible apply State.Keeps.foldl2 | with_reducible apply State.Keeps.foldl22
    | simp only [↓State.Keeps.upd, ↓State.Keeps.updFlash, ↓State.Keeps.updPoison]
    | split
    | dsimp only

theorem State.clearRepair_keeps {orig : State} {s : State} (l : List Nat) (h0 : orig.Keeps s) :
    orig.Keeps (State.clearRepair s l) := by
  unfold State.clearRepair
  repeat' first
    | with_reducible assumption
    | intro _
    | (with_reducible apply State.dlTrainAll_keeps) | (with_reducible apply State.measMaps_keeps)
    | (with_reducible apply State.bump_keeps)
    | with_reducible apply State.Keeps.ite | with_reducible apply State.Keeps.ite1 | with_reducible apply State.Keeps.ite2 | with_reducible apply State.Keeps.elim
    | with_reducible apply State.Keeps.foldl | with_reducible apply State.Keeps.foldl1 | with_reducible apply State.Keeps.foldl2 | with_reducible apply State.Keeps.foldl22
    | simp only [↓State.Keeps.upd, ↓State.Keeps.updFlash, ↓State.Keeps.updPoison]
    | split
    | dsimp only

theorem State.cmdRestore_keeps {orig : State} {s : State} (u : UnitCode) (pass : Bool) (h0 : orig.Keeps s) :
    orig.Keeps (State.cmdRestore s u pass) := by
  unfold State.cmdRestore
  repeat' first
    | with_reducible assumption
    | intro _
    | (with_reducible apply State.tstEnd_keeps) | (with_reducible apply State.clearRepair_keeps)
    | (with_reducible apply State.restoreCore_keeps) | (with_reducible apply State.unshut_keeps)
    | with_reducible apply State.Keeps.ite | with_reducible apply State.Keeps.ite1 | with_reducible apply State.Keeps.ite2 | with_reducible apply State.Keeps.elim
    | with_reducible apply State.Keeps.foldl | with_reducible apply State.Keeps.foldl1 | with_reducible apply State.Keeps.foldl2 | with_reducible apply State.Keeps.foldl22
    | simp only [↓State.Keeps.upd, ↓State.Keeps.updFlash, ↓State.Keeps.updPoison]
    | split
    | dsimp only

theorem execRestore_keeps {orig : State} (unit : UnitCode) (pass : Bool) {s : State} (h2 : orig.Keeps s) :
    orig.KeepsOut (execRestore unit pass s) := by
  unfold execRestore
  repeat' first
    | with_reducible assumption
    | intro _
    | with_reducible apply State.KeepsOut.next
    | (with_reducible apply State.cmdRestore_keeps)
    | with_reducible apply State.Keeps.ite | with_reducible apply State.Keeps.ite1 | with_reducible apply State.Keeps.ite2 | with_reducible apply State.Keeps.elim
    | with_reducible apply State.Keeps.foldl | with_reducible apply State.Keeps.foldl1 | with_reducible apply State.Keeps.foldl2 | with_reducible apply State.Keeps.foldl22
    | simp only [↓State.Keeps.upd, ↓State.Keeps.updFlash, ↓State.Keeps.updPoison]
    | split
    | dsimp only

theorem State.clearHist_keeps {orig : State} {s : State} (unit : UnitCode) (h0 : orig.Keeps s) :
    orig.Keeps (State.clearHist s unit) := by
  unfold State.clearHist
  repeat' first
    | with_reducible assumption
    | intro _
    | (with_reducible apply State.tstEnd_keeps) | (with_reducible apply State.putHist_keeps)
    | with_reducible apply State.Keeps.ite | with_reducible apply State.Keeps.ite1 | with_reducible apply State.Keeps.ite2 | with_reducible apply State.Keeps.elim
    | with_reducible apply State.Keeps.foldl | with_reducible apply State.Keeps.foldl1 | with_reducible apply State.Keeps.foldl2 | with_reducible apply State.Keeps.foldl22
    | simp only [↓State.Keeps.upd, ↓State.Keeps.updFlash, ↓State.Keeps.updPoison]
    | split
    | dsimp only

theorem execClearHist_keeps {orig : State} (unit : UnitCode) {s : State} (h1 : orig.Keeps s) :
    orig.KeepsOut (execClearHist unit s) := by
  unfold execClearHist
  repeat' first
    | with_reducible assumption
    | intro _
    | with_reducible apply State.KeepsOut.next
    | (with_reducible apply State.clearHist_keeps)
    | with_reducible apply State.Keeps.ite | with_reducible apply State.Keeps.ite1 | with_reducible apply State.Keeps.ite2 | with_reducible apply State.Keeps.elim
    | with_reducible apply State.Keeps.foldl | with_reducible apply State.Keeps.foldl1 | with_reducible apply State.Keeps.foldl2 | with_reducible apply State.Keeps.foldl22
    | simp only [↓State.Keeps.upd, ↓State.Keeps.updFlash, ↓State.Keeps.updPoison]
    | split
    | dsimp only

theorem State.compareSample_keeps {orig : State} {s : State} (k : Nat) (cl : Nat) (x : Sample) (run1 : SpareRun) (run2 : SpareRun) (h0 : orig.Keeps s) :
    orig.Keeps (State.compareSample s k cl x run1 run2) := by
  unfold State.compareSample
  repeat' first
    | with_reducible assumption
    | intro _
    | (with_reducible apply State.bump_keeps) | (with_reducible apply State.modCluster_keeps)
    | (with_reducible apply State.openRecord_keeps) | (with_reducible refine State.openRecord_eq _ _ ?_ (by with_reducible assumption))
    | (with_reducible apply State.testFirst_keeps) | (with_reducible apply State.chargeRec_keeps)
    | (with_reducible apply State.closeRecord_keeps) | (with_reducible apply State.retireCore_keeps)
    | (with_reducible apply State.fired_keeps)
    | with_reducible apply State.Keeps.ite | with_reducible apply State.Keeps.ite1 | with_reducible apply State.Keeps.ite2 | with_reducible apply State.Keeps.elim
    | with_reducible apply State.Keeps.foldl | with_reducible apply State.Keeps.foldl1 | with_reducible apply State.Keeps.foldl2 | with_reducible apply State.Keeps.foldl22
    | simp only [↓State.Keeps.upd, ↓State.Keeps.updFlash, ↓State.Keeps.updPoison]
    | split
    | dsimp only

theorem execSampleCompare_keeps {orig : State} (k : Fin 4) (cl : Fin 12) (run1 : SpareRun) (run2 : SpareRun) {s : State} (h4 : orig.Keeps s) :
    orig.KeepsOut (execSampleCompare k cl run1 run2 s) := by
  unfold execSampleCompare
  repeat' first
    | with_reducible assumption
    | intro _
    | with_reducible apply State.KeepsOut.next
    | (with_reducible apply State.compareSample_keeps)
    | with_reducible apply State.Keeps.ite | with_reducible apply State.Keeps.ite1 | with_reducible apply State.Keeps.ite2 | with_reducible apply State.Keeps.elim
    | with_reducible apply State.Keeps.foldl | with_reducible apply State.Keeps.foldl1 | with_reducible apply State.Keeps.foldl2 | with_reducible apply State.Keeps.foldl22
    | simp only [↓State.Keeps.upd, ↓State.Keeps.updFlash, ↓State.Keeps.updPoison]
    | split
    | dsimp only

theorem State.writeInj_keeps {orig : State} {s : State} (sz : CsrSize) (v : Word) (h0 : orig.Keeps s) :
    orig.Keeps (State.writeInj s sz v) := by
  unfold State.writeInj
  repeat' first
    | with_reducible assumption
    | intro _
    | (with_reducible apply State.csrSet_keeps) | (with_reducible apply State.setFld_keeps)
    | with_reducible apply State.Keeps.ite | with_reducible apply State.Keeps.ite1 | with_reducible apply State.Keeps.ite2 | with_reducible apply State.Keeps.elim
    | with_reducible apply State.Keeps.foldl | with_reducible apply State.Keeps.foldl1 | with_reducible apply State.Keeps.foldl2 | with_reducible apply State.Keeps.foldl22
    | simp only [↓State.Keeps.upd, ↓State.Keeps.updFlash, ↓State.Keeps.updPoison]
    | split
    | dsimp only

theorem execTstInjArm_keeps {orig : State} (sz : CsrSize) (v : Word) {s : State} (h2 : orig.Keeps s) :
    orig.KeepsOut (execTstInjArm sz v s) := by
  unfold execTstInjArm
  repeat' first
    | with_reducible assumption
    | intro _
    | with_reducible apply State.KeepsOut.next
    | (with_reducible apply State.writeInj_keeps)
    | with_reducible apply State.Keeps.ite | with_reducible apply State.Keeps.ite1 | with_reducible apply State.Keeps.ite2 | with_reducible apply State.Keeps.elim
    | with_reducible apply State.Keeps.foldl | with_reducible apply State.Keeps.foldl1 | with_reducible apply State.Keeps.foldl2 | with_reducible apply State.Keeps.foldl22
    | simp only [↓State.Keeps.upd, ↓State.Keeps.updFlash, ↓State.Keeps.updPoison]
    | split
    | dsimp only

end Sys2Proof.Machine
end

