-- ==== Sys2Proof/Laws/KeepTap.lean ====
section
/-! SUPPORT. What the operations of Machine/Tap.lean keep. -/

set_option linter.all false

namespace Sys2Proof.Machine

theorem State.modWkt_keeps {orig : State} {s : State} (d : Nat) (f : Wkt → Wkt) (h0 : orig.Keeps s) :
    orig.Keeps (State.modWkt s d f) := by
  unfold State.modWkt
  repeat' first
    | with_reducible assumption
    | intro _
    | with_reducible apply State.Keeps.ite | with_reducible apply State.Keeps.ite1 | with_reducible apply State.Keeps.ite2 | with_reducible apply State.Keeps.elim
    | with_reducible apply State.Keeps.foldl | with_reducible apply State.Keeps.foldl1 | with_reducible apply State.Keeps.foldl2 | with_reducible apply State.Keeps.foldl22
    | simp only [↓State.Keeps.upd, ↓State.Keeps.updFlash, ↓State.Keeps.updPoison]
    | split
    | dsimp only

theorem execTapReset_keeps {orig : State} {s : State} (h0 : orig.Keeps s) :
    orig.KeepsOut (execTapReset s) := by
  unfold execTapReset
  repeat' first
    | with_reducible assumption
    | intro _
    | with_reducible apply State.KeepsOut.next
    | (with_reducible apply State.modWkt_keeps)
    | with_reducible apply State.Keeps.ite | with_reducible apply State.Keeps.ite1 | with_reducible apply State.Keeps.ite2 | with_reducible apply State.Keeps.elim
    | with_reducible apply State.Keeps.foldl | with_reducible apply State.Keeps.foldl1 | with_reducible apply State.Keeps.foldl2 | with_reducible apply State.Keeps.foldl22
    | simp only [↓State.Keeps.upd, ↓State.Keeps.updFlash, ↓State.Keeps.updPoison]
    | split
    | dsimp only

theorem execTapUpdateIr_keeps {orig : State} (die : Fin 13) (ir : BitVec 8) {s : State} (h2 : orig.Keeps s) :
    orig.KeepsOut (execTapUpdateIr die ir s) := by
  unfold execTapUpdateIr
  repeat' first
    | with_reducible assumption
    | intro _
    | with_reducible apply State.KeepsOut.next
    | (with_reducible apply State.modWkt_keeps)
    | with_reducible apply State.Keeps.ite | with_reducible apply State.Keeps.ite1 | with_reducible apply State.Keeps.ite2 | with_reducible apply State.Keeps.elim
    | with_reducible apply State.Keeps.foldl | with_reducible apply State.Keeps.foldl1 | with_reducible apply State.Keeps.foldl2 | with_reducible apply State.Keeps.foldl22
    | simp only [↓State.Keeps.upd, ↓State.Keeps.updFlash, ↓State.Keeps.updPoison]
    | split
    | dsimp only

theorem execWktUpdateDr_keeps {orig : State} (die : Fin 13) (dr : BitVec 98) {s : State} (h2 : orig.Keeps s) :
    orig.KeepsOut (execWktUpdateDr die dr s) := by
  unfold execWktUpdateDr
  repeat' first
    | with_reducible assumption
    | intro _
    | with_reducible apply State.KeepsOut.next
    | (with_reducible apply State.modWkt_keeps)
    | with_reducible apply State.Keeps.ite | with_reducible apply State.Keeps.ite1 | with_reducible apply State.Keeps.ite2 | with_reducible apply State.Keeps.elim
    | with_reducible apply State.Keeps.foldl | with_reducible apply State.Keeps.foldl1 | with_reducible apply State.Keeps.foldl2 | with_reducible apply State.Keeps.foldl22
    | simp only [↓State.Keeps.upd, ↓State.Keeps.updFlash, ↓State.Keeps.updPoison]
    | split
    | dsimp only

theorem State.wicketCmd_keeps {orig : State} {s : State} (op : Nat) (die : Nat) (addr : Nat) (h0 : orig.Keeps s) :
    orig.Keeps (State.wicketCmd s op die addr) := by
  unfold State.wicketCmd
  repeat' first
    | with_reducible assumption
    | intro _
    | (with_reducible apply State.csrSet_keeps) | (with_reducible apply State.modWkt_keeps)
    | with_reducible apply State.Keeps.ite | with_reducible apply State.Keeps.ite1 | with_reducible apply State.Keeps.ite2 | with_reducible apply State.Keeps.elim
    | with_reducible apply State.Keeps.foldl | with_reducible apply State.Keeps.foldl1 | with_reducible apply State.Keeps.foldl2 | with_reducible apply State.Keeps.foldl22
    | simp only [↓State.Keeps.upd, ↓State.Keeps.updFlash, ↓State.Keeps.updPoison]
    | split
    | dsimp only

theorem execWicketRead_keeps {orig : State} (die : Fin 16) (a : BitVec 32) {s : State} (h2 : orig.Keeps s) :
    orig.KeepsOut (execWicketRead die a s) := by
  unfold execWicketRead
  repeat' first
    | with_reducible assumption
    | intro _
    | with_reducible apply State.KeepsOut.next
    | (with_reducible apply State.wicketCmd_keeps)
    | with_reducible apply State.Keeps.ite | with_reducible apply State.Keeps.ite1 | with_reducible apply State.Keeps.ite2 | with_reducible apply State.Keeps.elim
    | with_reducible apply State.Keeps.foldl | with_reducible apply State.Keeps.foldl1 | with_reducible apply State.Keeps.foldl2 | with_reducible apply State.Keeps.foldl22
    | simp only [↓State.Keeps.upd, ↓State.Keeps.updFlash, ↓State.Keeps.updPoison]
    | split
    | dsimp only

theorem execWicketWrite_keeps {orig : State} (die : Fin 16) (a : BitVec 32) {s : State} (h2 : orig.Keeps s) :
    orig.KeepsOut (execWicketWrite die a s) := by
  unfold execWicketWrite
  repeat' first
    | with_reducible assumption
    | intro _
    | with_reducible apply State.KeepsOut.next
    | (with_reducible apply State.wicketCmd_keeps)
    | with_reducible apply State.Keeps.ite | with_reducible apply State.Keeps.ite1 | with_reducible apply State.Keeps.ite2 | with_reducible apply State.Keeps.elim
    | with_reducible apply State.Keeps.foldl | with_reducible apply State.Keeps.foldl1 | with_reducible apply State.Keeps.foldl2 | with_reducible apply State.Keeps.foldl22
    | simp only [↓State.Keeps.upd, ↓State.Keeps.updFlash, ↓State.Keeps.updPoison]
    | split
    | dsimp only

theorem State.wicketAllowed_keeps {orig : State} {s : State} (d : Nat) (op : Nat) (a : Nat) (h0 : orig.Keeps s) :
    orig.Keeps (State.wicketAllowed s d op a).2 := by
  unfold State.wicketAllowed
  repeat' first
    | with_reducible assumption
    | intro _
    | (with_reducible apply State.draw_keeps) | (with_reducible refine State.draw_eq ?_ (by with_reducible assumption))
    | with_reducible apply State.Keeps.ite | with_reducible apply State.Keeps.ite1 | with_reducible apply State.Keeps.ite2 | with_reducible apply State.Keeps.elim
    | with_reducible apply State.Keeps.foldl | with_reducible apply State.Keeps.foldl1 | with_reducible apply State.Keeps.foldl2 | with_reducible apply State.Keeps.foldl22
    | simp only [↓State.Keeps.upd, ↓State.Keeps.updFlash, ↓State.Keeps.updPoison]
    | split
    | dsimp only
theorem State.wicketAllowed_eq {orig : State} {s : State} (d : Nat) (op : Nat) (a : Nat) (h0 : orig.Keeps s)
    {other : Bool} {result : State} (e : (State.wicketAllowed s d op a) = (other, result)) : orig.Keeps result := by
  have := State.wicketAllowed_keeps (orig := orig) d op a h0
  rw [e] at this
  exact this

theorem State.serveCtl_keeps {orig : State} {s : State} (d : Nat) (x : Nat × Nat) (h0 : orig.Keeps s) :
    orig.Keeps (State.serveCtl s d x) := by
  unfold State.serveCtl
  repeat' first
    | with_reducible assumption
    | intro _
    | (with_reducible apply State.wicketAllowed_keeps)
    | (with_reducible refine State.wicketAllowed_eq _ _ _ ?_ (by with_reducible assumption)) | (with_reducible apply State.modWkt_keeps)
    | (with_reducible apply State.draw_keeps) | (with_reducible refine State.draw_eq ?_ (by with_reducible assumption))
    | (with_reducible apply State.csrSet_keeps)
    | with_reducible apply State.Keeps.ite | with_reducible apply State.Keeps.ite1 | with_reducible apply State.Keeps.ite2 | with_reducible apply State.Keeps.elim
    | with_reducible apply State.Keeps.foldl | with_reducible apply State.Keeps.foldl1 | with_reducible apply State.Keeps.foldl2 | with_reducible apply State.Keeps.foldl22
    | simp only [↓State.Keeps.upd, ↓State.Keeps.updFlash, ↓State.Keeps.updPoison]
    | split
    | dsimp only

theorem State.serveTap_keeps {orig : State} {s : State} (d : Nat) (x : Nat × Nat × Word) (h0 : orig.Keeps s) :
    orig.Keeps (State.serveTap s d x) := by
  unfold State.serveTap
  repeat' first
    | with_reducible assumption
    | intro _
    | (with_reducible apply State.wicketAllowed_keeps)
    | (with_reducible refine State.wicketAllowed_eq _ _ _ ?_ (by with_reducible assumption)) | (with_reducible apply State.draw_keeps)
    | (with_reducible refine State.draw_eq ?_ (by with_reducible assumption)) | (with_reducible apply State.modWkt_keeps)
    | with_reducible apply State.Keeps.ite | with_reducible apply State.Keeps.ite1 | with_reducible apply State.Keeps.ite2 | with_reducible apply State.Keeps.elim
    | with_reducible apply State.Keeps.foldl | with_reducible apply State.Keeps.foldl1 | with_reducible apply State.Keeps.foldl2 | with_reducible apply State.Keeps.foldl22
    | simp only [↓State.Keeps.upd, ↓State.Keeps.updFlash, ↓State.Keeps.updPoison]
    | split
    | dsimp only

theorem execWicketOperationComplete_keeps {orig : State} (die : Fin 13) {s : State} (h1 : orig.Keeps s) :
    orig.KeepsOut (execWicketOperationComplete die s) := by
  unfold execWicketOperationComplete
  repeat' first
    | with_reducible assumption
    | intro _
    | with_reducible apply State.KeepsOut.next
    | (with_reducible apply State.serveTap_keeps) | (with_reducible apply State.serveCtl_keeps)
    | with_reducible apply State.Keeps.ite | with_reducible apply State.Keeps.ite1 | with_reducible apply State.Keeps.ite2 | with_reducible apply State.Keeps.elim
    | with_reducible apply State.Keeps.foldl | with_reducible apply State.Keeps.foldl1 | with_reducible apply State.Keeps.foldl2 | with_reducible apply State.Keeps.foldl22
    | simp only [↓State.Keeps.upd, ↓State.Keeps.updFlash, ↓State.Keeps.updPoison]
    | split
    | dsimp only

end Sys2Proof.Machine
end

