-- ==== Sys2Proof/Laws/KeepEngine.lean ====
section
/-! SUPPORT. What the operations of Machine/Engine.lean keep. -/

set_option linter.all false

namespace Sys2Proof.Machine

theorem State.startMx_keeps {orig : State} {s : State} (key : Nat) (q : QEntry) (sample : Bool) (h0 : orig.Keeps s) :
    orig.Keeps (State.startMx s key q sample) := by
  unfold State.startMx
  repeat' first
    | with_reducible assumption
    | intro _
    | (with_reducible apply State.startMst_keeps) | (with_reducible apply State.startMmx_keeps)
    | (with_reducible apply State.startMxPlain_keeps)
    | with_reducible apply State.Keeps.ite | with_reducible apply State.Keeps.ite1 | with_reducible apply State.Keeps.ite2 | with_reducible apply State.Keeps.elim
    | with_reducible apply State.Keeps.foldl | with_reducible apply State.Keeps.foldl1 | with_reducible apply State.Keeps.foldl2 | with_reducible apply State.Keeps.foldl22
    | simp only [↓State.Keeps.upd, ↓State.Keeps.updFlash, ↓State.Keeps.updPoison]
    | split
    | dsimp only

theorem State.startLs_keeps {orig : State} {s : State} (key : Nat) (q : QEntry) (h0 : orig.Keeps s) :
    orig.Keeps (State.startLs s key q) := by
  unfold State.startLs
  repeat' first
    | with_reducible assumption
    | intro _
    | (with_reducible apply State.startMove_keeps) | (with_reducible apply State.startIssue_keeps)
    | (with_reducible apply State.startCancel_keeps) | (with_reducible apply State.startStat_keeps)
    | (with_reducible apply State.startColl_keeps) | (with_reducible apply State.startColCmt_keeps)
    | (with_reducible apply State.startColStat_keeps) | (with_reducible apply State.startColAbort_keeps)
    | with_reducible apply State.Keeps.ite | with_reducible apply State.Keeps.ite1 | with_reducible apply State.Keeps.ite2 | with_reducible apply State.Keeps.elim
    | with_reducible apply State.Keeps.foldl | with_reducible apply State.Keeps.foldl1 | with_reducible apply State.Keeps.foldl2 | with_reducible apply State.Keeps.foldl22
    | simp only [↓State.Keeps.upd, ↓State.Keeps.updFlash, ↓State.Keeps.updPoison]
    | split
    | dsimp only

theorem State.startNull_keeps {orig : State} {s : State} (key : Nat) (e : Engine) (q : QEntry) (h0 : orig.Keeps s) :
    orig.Keeps (State.startNull s key e q) := by
  unfold State.startNull
  repeat' first
    | with_reducible assumption
    | intro _
    | (with_reducible apply State.settle_keeps) | (with_reducible apply State.instrEv_keeps)
    | (with_reducible apply State.popQueue_keeps)
    | with_reducible apply State.Keeps.ite | with_reducible apply State.Keeps.ite1 | with_reducible apply State.Keeps.ite2 | with_reducible apply State.Keeps.elim
    | with_reducible apply State.Keeps.foldl | with_reducible apply State.Keeps.foldl1 | with_reducible apply State.Keeps.foldl2 | with_reducible apply State.Keeps.foldl22
    | simp only [↓State.Keeps.upd, ↓State.Keeps.updFlash, ↓State.Keeps.updPoison]
    | split
    | dsimp only

theorem State.startNext_keeps {orig : State} {s : State} (key : Nat) (e : Engine) (sample : Bool) (h0 : orig.Keeps s) :
    orig.Keeps (State.startNext s key e sample) := by
  unfold State.startNext
  repeat' first
    | with_reducible assumption
    | intro _
    | (with_reducible apply State.startNull_keeps) | (with_reducible apply State.startMx_keeps)
    | (with_reducible apply State.readVec_keeps) | (with_reducible apply State.startVec_keeps)
    | (with_reducible apply State.startLs_keeps)
    | with_reducible apply State.Keeps.ite | with_reducible apply State.Keeps.ite1 | with_reducible apply State.Keeps.ite2 | with_reducible apply State.Keeps.elim
    | with_reducible apply State.Keeps.foldl | with_reducible apply State.Keeps.foldl1 | with_reducible apply State.Keeps.foldl2 | with_reducible apply State.Keeps.foldl22
    | simp only [↓State.Keeps.upd, ↓State.Keeps.updFlash, ↓State.Keeps.updPoison]
    | split
    | dsimp only

theorem State.startHead_keeps {orig : State} {s : State} (key : Nat) (e : Engine) (sample : Bool) (h0 : orig.Keeps s) :
    orig.Keeps (State.startHead s key e sample) := by
  unfold State.startHead
  repeat' first
    | with_reducible assumption
    | intro _
    | (with_reducible apply State.onSet_keeps) | (with_reducible apply State.startNext_keeps)
    | with_reducible apply State.Keeps.ite | with_reducible apply State.Keeps.ite1 | with_reducible apply State.Keeps.ite2 | with_reducible apply State.Keeps.elim
    | with_reducible apply State.Keeps.foldl | with_reducible apply State.Keeps.foldl1 | with_reducible apply State.Keeps.foldl2 | with_reducible apply State.Keeps.foldl22
    | simp only [↓State.Keeps.upd, ↓State.Keeps.updFlash, ↓State.Keeps.updPoison]
    | split
    | dsimp only

theorem execEngineQueueStart_keeps {orig : State} (c : CoreId) (e : Engine) (sample : Bool) {s : State} (h3 : orig.Keeps s) :
    orig.KeepsOut (execEngineQueueStart c e sample s) := by
  unfold execEngineQueueStart
  repeat' first
    | with_reducible assumption
    | intro _
    | with_reducible apply State.KeepsOut.next
    | (with_reducible apply State.startHead_keeps)
    | with_reducible apply State.Keeps.ite | with_reducible apply State.Keeps.ite1 | with_reducible apply State.Keeps.ite2 | with_reducible apply State.Keeps.elim
    | with_reducible apply State.Keeps.foldl | with_reducible apply State.Keeps.foldl1 | with_reducible apply State.Keeps.foldl2 | with_reducible apply State.Keeps.foldl22
    | simp only [↓State.Keeps.upd, ↓State.Keeps.updFlash, ↓State.Keeps.updPoison]
    | split
    | dsimp only

end Sys2Proof.Machine
end

