-- ==== Sys2Proof/Laws/KeepLouvre.lean ====
section
/-! SUPPORT. What the operations of Machine/Louvre.lean keep. -/

set_option linter.all false

namespace Sys2Proof.Machine

theorem State.modPower_keeps {orig : State} {s : State} (f : Power → Power) (h0 : orig.Keeps s) :
    orig.Keeps (State.modPower s f) := by
  unfold State.modPower
  repeat' first
    | with_reducible assumption
    | intro _
    | with_reducible apply State.Keeps.ite | with_reducible apply State.Keeps.ite1 | with_reducible apply State.Keeps.ite2 | with_reducible apply State.Keeps.elim
    | with_reducible apply State.Keeps.foldl | with_reducible apply State.Keeps.foldl1 | with_reducible apply State.Keeps.foldl2 | with_reducible apply State.Keeps.foldl22
    | simp only [↓State.Keeps.upd, ↓State.Keeps.updFlash, ↓State.Keeps.updPoison]
    | split
    | dsimp only

theorem State.capLevels_keeps {orig : State} {s : State} (k : Nat) (cap : Nat) (h0 : orig.Keeps s) :
    orig.Keeps (State.capLevels s k cap) := by
  unfold State.capLevels
  repeat' first
    | with_reducible assumption
    | intro _
    | with_reducible apply State.Keeps.ite | with_reducible apply State.Keeps.ite1 | with_reducible apply State.Keeps.ite2 | with_reducible apply State.Keeps.elim
    | with_reducible apply State.Keeps.foldl | with_reducible apply State.Keeps.foldl1 | with_reducible apply State.Keeps.foldl2 | with_reducible apply State.Keeps.foldl22
    | simp only [↓State.Keeps.upd, ↓State.Keeps.updFlash, ↓State.Keeps.updPoison]
    | split
    | dsimp only

theorem State.changeStep_keeps {orig : State} {s : State} (k : Nat) (old : Nat) (st : Nat) (h0 : orig.Keeps s) :
    orig.Keeps (State.changeStep s k old st) := by
  unfold State.changeStep
  repeat' first
    | with_reducible assumption
    | intro _
    | (with_reducible apply State.ibi_keeps) | (with_reducible apply State.setFld_keeps) | (with_reducible apply State.capLevels_keeps)
    | (with_reducible apply State.modPower_keeps)
    | with_reducible apply State.Keeps.ite | with_reducible apply State.Keeps.ite1 | with_reducible apply State.Keeps.ite2 | with_reducible apply State.Keeps.elim
    | with_reducible apply State.Keeps.foldl | with_reducible apply State.Keeps.foldl1 | with_reducible apply State.Keeps.foldl2 | with_reducible apply State.Keeps.foldl22
    | simp only [↓State.Keeps.upd, ↓State.Keeps.updFlash, ↓State.Keeps.updPoison]
    | split
    | dsimp only

theorem State.louvre1_keeps {orig : State} {s : State} (k : Nat) (h0 : orig.Keeps s) :
    orig.Keeps (State.louvre1 s k) := by
  unfold State.louvre1
  repeat' first
    | with_reducible assumption
    | intro _
    | (with_reducible apply State.csrSet_keeps) | (with_reducible apply State.changeStep_keeps)
    | with_reducible apply State.Keeps.ite | with_reducible apply State.Keeps.ite1 | with_reducible apply State.Keeps.ite2 | with_reducible apply State.Keeps.elim
    | with_reducible apply State.Keeps.foldl | with_reducible apply State.Keeps.foldl1 | with_reducible apply State.Keeps.foldl2 | with_reducible apply State.Keeps.foldl22
    | simp only [↓State.Keeps.upd, ↓State.Keeps.updFlash, ↓State.Keeps.updPoison]
    | split
    | dsimp only

theorem State.louvres_keeps {orig : State} {s : State} (h0 : orig.Keeps s) :
    orig.Keeps (State.louvres s) := by
  unfold State.louvres
  repeat' first
    | with_reducible assumption
    | intro _
    | (with_reducible apply State.louvre1_keeps)
    | with_reducible apply State.Keeps.ite | with_reducible apply State.Keeps.ite1 | with_reducible apply State.Keeps.ite2 | with_reducible apply State.Keeps.elim
    | with_reducible apply State.Keeps.foldl | with_reducible apply State.Keeps.foldl1 | with_reducible apply State.Keeps.foldl2 | with_reducible apply State.Keeps.foldl22
    | simp only [↓State.Keeps.upd, ↓State.Keeps.updFlash, ↓State.Keeps.updPoison]
    | split
    | dsimp only

theorem State.demand_keeps {orig : State} {s : State} (k : Nat) (cause : Nat) (v : Nat) (h0 : orig.Keeps s) :
    orig.Keeps (State.demand s k cause v) := by
  unfold State.demand
  repeat' first
    | with_reducible assumption
    | intro _
    | (with_reducible apply State.modPower_keeps)
    | with_reducible apply State.Keeps.ite | with_reducible apply State.Keeps.ite1 | with_reducible apply State.Keeps.ite2 | with_reducible apply State.Keeps.elim
    | with_reducible apply State.Keeps.foldl | with_reducible apply State.Keeps.foldl1 | with_reducible apply State.Keeps.foldl2 | with_reducible apply State.Keeps.foldl22
    | simp only [↓State.Keeps.upd, ↓State.Keeps.updFlash, ↓State.Keeps.updPoison]
    | split
    | dsimp only

theorem State.raiseD_keeps {orig : State} {s : State} (ks : List Nat) (cause : Nat) (n : Nat) (h0 : orig.Keeps s) :
    orig.Keeps (State.raiseD s ks cause n) := by
  unfold State.raiseD
  repeat' first
    | with_reducible assumption
    | intro _
    | (with_reducible apply State.demand_keeps)
    | with_reducible apply State.Keeps.ite | with_reducible apply State.Keeps.ite1 | with_reducible apply State.Keeps.ite2 | with_reducible apply State.Keeps.elim
    | with_reducible apply State.Keeps.foldl | with_reducible apply State.Keeps.foldl1 | with_reducible apply State.Keeps.foldl2 | with_reducible apply State.Keeps.foldl22
    | simp only [↓State.Keeps.upd, ↓State.Keeps.updFlash, ↓State.Keeps.updPoison]
    | split
    | dsimp only

theorem State.lowerD_keeps {orig : State} {s : State} (ks : List Nat) (cause : Nat) (h0 : orig.Keeps s) :
    orig.Keeps (State.lowerD s ks cause) := by
  unfold State.lowerD
  repeat' first
    | with_reducible assumption
    | intro _
    | (with_reducible apply State.demand_keeps)
    | with_reducible apply State.Keeps.ite | with_reducible apply State.Keeps.ite1 | with_reducible apply State.Keeps.ite2 | with_reducible apply State.Keeps.elim
    | with_reducible apply State.Keeps.foldl | with_reducible apply State.Keeps.foldl1 | with_reducible apply State.Keeps.foldl2 | with_reducible apply State.Keeps.foldl22
    | simp only [↓State.Keeps.upd, ↓State.Keeps.updFlash, ↓State.Keeps.updPoison]
    | split
    | dsimp only

theorem State.setD_keeps {orig : State} {s : State} (ks : List Nat) (cause : Nat) (v : Nat) (h0 : orig.Keeps s) :
    orig.Keeps (State.setD s ks cause v) := by
  unfold State.setD
  repeat' first
    | with_reducible assumption
    | intro _
    | (with_reducible apply State.demand_keeps)
    | with_reducible apply State.Keeps.ite | with_reducible apply State.Keeps.ite1 | with_reducible apply State.Keeps.ite2 | with_reducible apply State.Keeps.elim
    | with_reducible apply State.Keeps.foldl | with_reducible apply State.Keeps.foldl1 | with_reducible apply State.Keeps.foldl2 | with_reducible apply State.Keeps.foldl22
    | simp only [↓State.Keeps.upd, ↓State.Keeps.updFlash, ↓State.Keeps.updPoison]
    | split
    | dsimp only

theorem State.capEval_keeps {orig : State} {s : State} (h0 : orig.Keeps s) :
    orig.Keeps (State.capEval s) := by
  unfold State.capEval
  repeat' first
    | with_reducible assumption
    | intro _
    | (with_reducible apply State.modPower_keeps) | (with_reducible apply State.raiseD_keeps)
    | (with_reducible apply State.setFld_keeps) | (with_reducible apply State.lowerD_keeps)
    | with_reducible apply State.Keeps.ite | with_reducible apply State.Keeps.ite1 | with_reducible apply State.Keeps.ite2 | with_reducible apply State.Keeps.elim
    | with_reducible apply State.Keeps.foldl | with_reducible apply State.Keeps.foldl1 | with_reducible apply State.Keeps.foldl2 | with_reducible apply State.Keeps.foldl22
    | simp only [↓State.Keeps.upd, ↓State.Keeps.updFlash, ↓State.Keeps.updPoison]
    | split
    | dsimp only

theorem execPowerCapEvaluation_keeps {orig : State} {s : State} (h0 : orig.Keeps s) :
    orig.KeepsOut (execPowerCapEvaluation s) := by
  unfold execPowerCapEvaluation
  repeat' first
    | with_reducible assumption
    | intro _
    | with_reducible apply State.KeepsOut.next
    | (with_reducible apply State.louvres_keeps) | (with_reducible apply State.capEval_keeps)
    | with_reducible apply State.Keeps.ite | with_reducible apply State.Keeps.ite1 | with_reducible apply State.Keeps.ite2 | with_reducible apply State.Keeps.elim
    | with_reducible apply State.Keeps.foldl | with_reducible apply State.Keeps.foldl1 | with_reducible apply State.Keeps.foldl2 | with_reducible apply State.Keeps.foldl22
    | simp only [↓State.Keeps.upd, ↓State.Keeps.updFlash, ↓State.Keeps.updPoison]
    | split
    | dsimp only

theorem execPeakEvaluation_keeps {orig : State} {s : State} (h0 : orig.Keeps s) :
    orig.KeepsOut (execPeakEvaluation s) := by
  unfold execPeakEvaluation
  repeat' first
    | with_reducible assumption
    | intro _
    | with_reducible apply State.KeepsOut.next
    | (with_reducible apply State.louvres_keeps) | (with_reducible apply State.raiseD_keeps) | (with_reducible apply State.setFld_keeps)
    | with_reducible apply State.Keeps.ite | with_reducible apply State.Keeps.ite1 | with_reducible apply State.Keeps.ite2 | with_reducible apply State.Keeps.elim
    | with_reducible apply State.Keeps.foldl | with_reducible apply State.Keeps.foldl1 | with_reducible apply State.Keeps.foldl2 | with_reducible apply State.Keeps.foldl22
    | simp only [↓State.Keeps.upd, ↓State.Keeps.updFlash, ↓State.Keeps.updPoison]
    | split
    | dsimp only

theorem State.limitBit_keeps {orig : State} {s : State} (n : Nat) (b : Bool) (h0 : orig.Keeps s) :
    orig.Keeps (State.limitBit s n b) := by
  unfold State.limitBit
  repeat' first
    | with_reducible assumption
    | intro _
    | (with_reducible apply State.csrSet_keeps)
    | with_reducible apply State.Keeps.ite | with_reducible apply State.Keeps.ite1 | with_reducible apply State.Keeps.ite2 | with_reducible apply State.Keeps.elim
    | with_reducible apply State.Keeps.foldl | with_reducible apply State.Keeps.foldl1 | with_reducible apply State.Keeps.foldl2 | with_reducible apply State.Keeps.foldl22
    | simp only [↓State.Keeps.upd, ↓State.Keeps.updFlash, ↓State.Keeps.updPoison]
    | split
    | dsimp only

theorem execRailCurrentDemand_keeps {orig : State} (n : Fin 8) (ev : RailLimitEv) {s : State} (h2 : orig.Keeps s) :
    orig.KeepsOut (execRailCurrentDemand n ev s) := by
  unfold execRailCurrentDemand
  repeat' first
    | with_reducible assumption
    | intro _
    | with_reducible apply State.KeepsOut.next
    | (with_reducible apply State.louvres_keeps) | (with_reducible apply State.raiseD_keeps)
    | (with_reducible apply State.limitBit_keeps) | (with_reducible apply State.lowerD_keeps)
    | with_reducible apply State.Keeps.ite | with_reducible apply State.Keeps.ite1 | with_reducible apply State.Keeps.ite2 | with_reducible apply State.Keeps.elim
    | with_reducible apply State.Keeps.foldl | with_reducible apply State.Keeps.foldl1 | with_reducible apply State.Keeps.foldl2 | with_reducible apply State.Keeps.foldl22
    | simp only [↓State.Keeps.upd, ↓State.Keeps.updFlash, ↓State.Keeps.updPoison]
    | split
    | dsimp only

theorem State.thermD_keeps {orig : State} {s : State} (ks : List Nat) (cause : Nat) (t : Int) (hot : Int) (hi : Int) (lo : Int) (tenth : Bool) (h0 : orig.Keeps s) :
    orig.Keeps (State.thermD s ks cause t hot hi lo tenth) := by
  unfold State.thermD
  repeat' first
    | with_reducible assumption
    | intro _
    | (with_reducible apply State.setD_keeps) | (with_reducible apply State.setFld_keeps) | (with_reducible apply State.raiseD_keeps)
    | (with_reducible apply State.lowerD_keeps)
    | with_reducible apply State.Keeps.ite | with_reducible apply State.Keeps.ite1 | with_reducible apply State.Keeps.ite2 | with_reducible apply State.Keeps.elim
    | with_reducible apply State.Keeps.foldl | with_reducible apply State.Keeps.foldl1 | with_reducible apply State.Keeps.foldl2 | with_reducible apply State.Keeps.foldl22
    | simp only [↓State.Keeps.upd, ↓State.Keeps.updFlash, ↓State.Keeps.updPoison]
    | split
    | dsimp only

theorem State.thermEval_keeps {orig : State} {s : State} (tm : Temps) (h0 : orig.Keeps s) :
    orig.Keeps (State.thermEval s tm) := by
  unfold State.thermEval
  repeat' first
    | with_reducible assumption
    | intro _
    | (with_reducible apply State.thermD_keeps)
    | with_reducible apply State.Keeps.ite | with_reducible apply State.Keeps.ite1 | with_reducible apply State.Keeps.ite2 | with_reducible apply State.Keeps.elim
    | with_reducible apply State.Keeps.foldl | with_reducible apply State.Keeps.foldl1 | with_reducible apply State.Keeps.foldl2 | with_reducible apply State.Keeps.foldl22
    | simp only [↓State.Keeps.upd, ↓State.Keeps.updFlash, ↓State.Keeps.updPoison]
    | split
    | dsimp only

theorem execThermalDemandEvaluation_keeps {orig : State} (tm : Temps) {s : State} (h1 : orig.Keeps s) :
    orig.KeepsOut (execThermalDemandEvaluation tm s) := by
  unfold execThermalDemandEvaluation
  repeat' first
    | with_reducible assumption
    | intro _
    | with_reducible apply State.KeepsOut.next
    | (with_reducible apply State.louvres_keeps) | (with_reducible apply State.thermEval_keeps)
    | with_reducible apply State.Keeps.ite | with_reducible apply State.Keeps.ite1 | with_reducible apply State.Keeps.ite2 | with_reducible apply State.Keeps.elim
    | with_reducible apply State.Keeps.foldl | with_reducible apply State.Keeps.foldl1 | with_reducible apply State.Keeps.foldl2 | with_reducible apply State.Keeps.foldl22
    | simp only [↓State.Keeps.upd, ↓State.Keeps.updFlash, ↓State.Keeps.updPoison]
    | split
    | dsimp only

theorem execCoolantDemand_keeps {orig : State} (inlet8 : Int) (flow : Nat) {s : State} (h2 : orig.Keeps s) :
    orig.KeepsOut (execCoolantDemand inlet8 flow s) := by
  unfold execCoolantDemand
  repeat' first
    | with_reducible assumption
    | intro _
    | with_reducible apply State.KeepsOut.next
    | (with_reducible apply State.flagIf_keeps) | (with_reducible apply State.louvres_keeps) | (with_reducible apply State.setD_keeps)
    | with_reducible apply State.Keeps.ite | with_reducible apply State.Keeps.ite1 | with_reducible apply State.Keeps.ite2 | with_reducible apply State.Keeps.elim
    | with_reducible apply State.Keeps.foldl | with_reducible apply State.Keeps.foldl1 | with_reducible apply State.Keeps.foldl2 | with_reducible apply State.Keeps.foldl22
    | simp only [↓State.Keeps.upd, ↓State.Keeps.updFlash, ↓State.Keeps.updPoison]
    | split
    | dsimp only

theorem execPmLinkSilent_keeps {orig : State} {s : State} (h0 : orig.Keeps s) :
    orig.KeepsOut (execPmLinkSilent s) := by
  unfold execPmLinkSilent
  repeat' first
    | with_reducible assumption
    | intro _
    | with_reducible apply State.KeepsOut.next
    | (with_reducible apply State.louvres_keeps) | (with_reducible apply State.setD_keeps) | (with_reducible apply State.setFld_keeps)
    | (with_reducible apply State.modPower_keeps)
    | with_reducible apply State.Keeps.ite | with_reducible apply State.Keeps.ite1 | with_reducible apply State.Keeps.ite2 | with_reducible apply State.Keeps.elim
    | with_reducible apply State.Keeps.foldl | with_reducible apply State.Keeps.foldl1 | with_reducible apply State.Keeps.foldl2 | with_reducible apply State.Keeps.foldl22
    | simp only [↓State.Keeps.upd, ↓State.Keeps.updFlash, ↓State.Keeps.updPoison]
    | split
    | dsimp only

theorem State.inputMeas_keeps {orig : State} {s : State} (m : PmMeasure) (h0 : orig.Keeps s) :
    orig.Keeps (State.inputMeas s m) := by
  unfold State.inputMeas
  repeat' first
    | with_reducible assumption
    | intro _
    | (with_reducible apply State.csrSet_keeps)
    | with_reducible apply State.Keeps.ite | with_reducible apply State.Keeps.ite1 | with_reducible apply State.Keeps.ite2 | with_reducible apply State.Keeps.elim
    | with_reducible apply State.Keeps.foldl | with_reducible apply State.Keeps.foldl1 | with_reducible apply State.Keeps.foldl2 | with_reducible apply State.Keeps.foldl22
    | simp only [↓State.Keeps.upd, ↓State.Keeps.updFlash, ↓State.Keeps.updPoison]
    | split
    | dsimp only

theorem execPmLinkMessage_keeps {orig : State} (m : PmMeasure) {s : State} (h1 : orig.Keeps s) :
    orig.KeepsOut (execPmLinkMessage m s) := by
  unfold execPmLinkMessage
  repeat' first
    | with_reducible assumption
    | intro _
    | with_reducible apply State.KeepsOut.next
    | (with_reducible apply State.louvres_keeps) | (with_reducible apply State.setD_keeps) | (with_reducible apply State.setFld_keeps)
    | (with_reducible apply State.modPower_keeps) | (with_reducible apply State.inputMeas_keeps)
    | with_reducible apply State.Keeps.ite | with_reducible apply State.Keeps.ite1 | with_reducible apply State.Keeps.ite2 | with_reducible apply State.Keeps.elim
    | with_reducible apply State.Keeps.foldl | with_reducible apply State.Keeps.foldl1 | with_reducible apply State.Keeps.foldl2 | with_reducible apply State.Keeps.foldl22
    | simp only [↓State.Keeps.upd, ↓State.Keeps.updFlash, ↓State.Keeps.updPoison]
    | split
    | dsimp only

theorem State.writeFloor_keeps {orig : State} {s : State} (v : Nat) (h0 : orig.Keeps s) :
    orig.Keeps (State.writeFloor s v) := by
  unfold State.writeFloor
  repeat' first
    | with_reducible assumption
    | intro _
    | (with_reducible apply State.louvres_keeps) | (with_reducible apply State.setFld_keeps)
    | with_reducible apply State.Keeps.ite | with_reducible apply State.Keeps.ite1 | with_reducible apply State.Keeps.ite2 | with_reducible apply State.Keeps.elim
    | with_reducible apply State.Keeps.foldl | with_reducible apply State.Keeps.foldl1 | with_reducible apply State.Keeps.foldl2 | with_reducible apply State.Keeps.foldl22
    | simp only [↓State.Keeps.upd, ↓State.Keeps.updFlash, ↓State.Keeps.updPoison]
    | split
    | dsimp only

theorem State.louvreWrite_keeps {orig : State} {s : State} (sz : CsrSize) (v : Word) (h0 : orig.Keeps s) :
    orig.Keeps (State.louvreWrite s sz v) := by
  unfold State.louvreWrite
  repeat' first
    | with_reducible assumption
    | intro _
    | (with_reducible apply State.writeFloor_keeps)
    | with_reducible apply State.Keeps.ite | with_reducible apply State.Keeps.ite1 | with_reducible apply State.Keeps.ite2 | with_reducible apply State.Keeps.elim
    | with_reducible apply State.Keeps.foldl | with_reducible apply State.Keeps.foldl1 | with_reducible apply State.Keeps.foldl2 | with_reducible apply State.Keeps.foldl22
    | simp only [↓State.Keeps.upd, ↓State.Keeps.updFlash, ↓State.Keeps.updPoison]
    | split
    | dsimp only

theorem execPwrLouvreWrite_keeps {orig : State} (sz : CsrSize) (v : Word) {s : State} (h2 : orig.Keeps s) :
    orig.KeepsOut (execPwrLouvreWrite sz v s) := by
  unfold execPwrLouvreWrite
  repeat' first
    | with_reducible assumption
    | intro _
    | with_reducible apply State.KeepsOut.next
    | (with_reducible apply State.louvreWrite_keeps)
    | with_reducible apply State.Keeps.ite | with_reducible apply State.Keeps.ite1 | with_reducible apply State.Keeps.ite2 | with_reducible apply State.Keeps.elim
    | with_reducible apply State.Keeps.foldl | with_reducible apply State.Keeps.foldl1 | with_reducible apply State.Keeps.foldl2 | with_reducible apply State.Keeps.foldl22
    | simp only [↓State.Keeps.upd, ↓State.Keeps.updFlash, ↓State.Keeps.updPoison]
    | split
    | dsimp only

theorem execLouvreChangeComplete_keeps {orig : State} (k : Fin 4) {s : State} (h1 : orig.Keeps s) :
    orig.KeepsOut (execLouvreChangeComplete k s) := by
  unfold execLouvreChangeComplete
  repeat' first
    | with_reducible assumption
    | intro _
    | with_reducible apply State.KeepsOut.next
    | (with_reducible apply State.modPower_keeps) | (with_reducible apply State.setFld_keeps)
    | with_reducible apply State.Keeps.ite | with_reducible apply State.Keeps.ite1 | with_reducible apply State.Keeps.ite2 | with_reducible apply State.Keeps.elim
    | with_reducible apply State.Keeps.foldl | with_reducible apply State.Keeps.foldl1 | with_reducible apply State.Keeps.foldl2 | with_reducible apply State.Keeps.foldl22
    | simp only [↓State.Keeps.upd, ↓State.Keeps.updFlash, ↓State.Keeps.updPoison]
    | split
    | dsimp only

theorem execPowerRecord_keeps {orig : State} (k : Fin 4) {s : State} (h1 : orig.Keeps s) :
    orig.KeepsOut (execPowerRecord k s) := by
  unfold execPowerRecord
  repeat' first
    | with_reducible assumption
    | intro _
    | with_reducible apply State.KeepsOut.next
    | (with_reducible apply State.postPfs_keeps) | (with_reducible apply State.modPower_keeps)
    | with_reducible apply State.Keeps.ite | with_reducible apply State.Keeps.ite1 | with_reducible apply State.Keeps.ite2 | with_reducible apply State.Keeps.elim
    | with_reducible apply State.Keeps.foldl | with_reducible apply State.Keeps.foldl1 | with_reducible apply State.Keeps.foldl2 | with_reducible apply State.Keeps.foldl22
    | simp only [↓State.Keeps.upd, ↓State.Keeps.updFlash, ↓State.Keeps.updPoison]
    | split
    | dsimp only

theorem State.pwrRecord_keeps {orig : State} {s : State} (d : Detection) (sensor : Nat) (side : Bool) (h0 : orig.Keeps s) :
    orig.Keeps (State.pwrRecord s d sensor side).1 := by
  unfold State.pwrRecord
  repeat' first
    | with_reducible assumption
    | intro _
    | (with_reducible apply State.openRecord_keeps) | (with_reducible refine State.openRecord_eq _ _ ?_ (by with_reducible assumption))
    | (with_reducible apply State.takeDetection_keeps)
    | (with_reducible refine State.takeDetection_eq _ _ ?_ (by with_reducible assumption))
    | with_reducible apply State.Keeps.ite | with_reducible apply State.Keeps.ite1 | with_reducible apply State.Keeps.ite2 | with_reducible apply State.Keeps.elim
    | with_reducible apply State.Keeps.foldl | with_reducible apply State.Keeps.foldl1 | with_reducible apply State.Keeps.foldl2 | with_reducible apply State.Keeps.foldl22
    | simp only [↓State.Keeps.upd, ↓State.Keeps.updFlash, ↓State.Keeps.updPoison]
    | split
    | dsimp only
theorem State.pwrRecord_eq {orig : State} {s : State} (d : Detection) (sensor : Nat) (side : Bool) (h0 : orig.Keeps s)
    {other : Option Nat} {result : State} (e : (State.pwrRecord s d sensor side) = (result, other)) : orig.Keeps result := by
  have := State.pwrRecord_keeps (orig := orig) d sensor side h0
  rw [e] at this
  exact this

theorem State.droopEv_keeps {orig : State} {s : State} (k : Nat) (ov : Bool) (h0 : orig.Keeps s) :
    orig.Keeps (State.droopEv s k ov) := by
  unfold State.droopEv
  repeat' first
    | with_reducible assumption
    | intro _
    | (with_reducible apply State.setFld_keeps) | (with_reducible apply State.bump_keeps) | (with_reducible apply State.modPower_keeps)
    | (with_reducible apply State.pwrRecord_keeps) | (with_reducible refine State.pwrRecord_eq _ _ _ ?_ (by with_reducible assumption))
    | (with_reducible apply State.louvres_keeps) | (with_reducible apply State.raiseD_keeps)
    | with_reducible apply State.Keeps.ite | with_reducible apply State.Keeps.ite1 | with_reducible apply State.Keeps.ite2 | with_reducible apply State.Keeps.elim
    | with_reducible apply State.Keeps.foldl | with_reducible apply State.Keeps.foldl1 | with_reducible apply State.Keeps.foldl2 | with_reducible apply State.Keeps.foldl22
    | simp only [↓State.Keeps.upd, ↓State.Keeps.updFlash, ↓State.Keeps.updPoison]
    | split
    | dsimp only

theorem execDroop_keeps {orig : State} (k : Fin 4) (over16 : Bool) {s : State} (h2 : orig.Keeps s) :
    orig.KeepsOut (execDroop k over16 s) := by
  unfold execDroop
  repeat' first
    | with_reducible assumption
    | intro _
    | with_reducible apply State.KeepsOut.next
    | (with_reducible apply State.droopEv_keeps)
    | with_reducible apply State.Keeps.ite | with_reducible apply State.Keeps.ite1 | with_reducible apply State.Keeps.ite2 | with_reducible apply State.Keeps.elim
    | with_reducible apply State.Keeps.foldl | with_reducible apply State.Keeps.foldl1 | with_reducible apply State.Keeps.foldl2 | with_reducible apply State.Keeps.foldl22
    | simp only [↓State.Keeps.upd, ↓State.Keeps.updFlash, ↓State.Keeps.updPoison]
    | split
    | dsimp only

theorem execDroopRecovery_keeps {orig : State} (k : Fin 4) {s : State} (h1 : orig.Keeps s) :
    orig.KeepsOut (execDroopRecovery k s) := by
  unfold execDroopRecovery
  repeat' first
    | with_reducible assumption
    | intro _
    | with_reducible apply State.KeepsOut.next
    | (with_reducible apply State.modPower_keeps)
    | with_reducible apply State.Keeps.ite | with_reducible apply State.Keeps.ite1 | with_reducible apply State.Keeps.ite2 | with_reducible apply State.Keeps.elim
    | with_reducible apply State.Keeps.foldl | with_reducible apply State.Keeps.foldl1 | with_reducible apply State.Keeps.foldl2 | with_reducible apply State.Keeps.foldl22
    | simp only [↓State.Keeps.upd, ↓State.Keeps.updFlash, ↓State.Keeps.updPoison]
    | split
    | dsimp only

theorem execSenseOpen_keeps {orig : State} (n : Fin 16) {s : State} (h1 : orig.Keeps s) :
    orig.KeepsOut (execSenseOpen n s) := by
  unfold execSenseOpen
  repeat' first
    | with_reducible assumption
    | intro _
    | with_reducible apply State.KeepsOut.next
    | (with_reducible apply State.setFld_keeps) | (with_reducible apply State.csrSet_keeps)
    | (with_reducible apply State.pwrRecord_keeps) | (with_reducible refine State.pwrRecord_eq _ _ _ ?_ (by with_reducible assumption))
    | with_reducible apply State.Keeps.ite | with_reducible apply State.Keeps.ite1 | with_reducible apply State.Keeps.ite2 | with_reducible apply State.Keeps.elim
    | with_reducible apply State.Keeps.foldl | with_reducible apply State.Keeps.foldl1 | with_reducible apply State.Keeps.foldl2 | with_reducible apply State.Keeps.foldl22
    | simp only [↓State.Keeps.upd, ↓State.Keeps.updFlash, ↓State.Keeps.updPoison]
    | split
    | dsimp only

theorem State.refresh_keeps {orig : State} {s : State} (m : Sensors) (h0 : orig.Keeps s) :
    orig.Keeps (State.refresh s m) := by
  unfold State.refresh
  repeat' first
    | with_reducible assumption
    | intro _
    | (with_reducible apply State.inputMeas_keeps) | (with_reducible apply State.csrSet_keeps)
    | (with_reducible apply State.setFld_keeps)
    | with_reducible apply State.Keeps.ite | with_reducible apply State.Keeps.ite1 | with_reducible apply State.Keeps.ite2 | with_reducible apply State.Keeps.elim
    | with_reducible apply State.Keeps.foldl | with_reducible apply State.Keeps.foldl1 | with_reducible apply State.Keeps.foldl2 | with_reducible apply State.Keeps.foldl22
    | simp only [↓State.Keeps.upd, ↓State.Keeps.updFlash, ↓State.Keeps.updPoison]
    | split
    | dsimp only

theorem execSensorRefresh_keeps {orig : State} (m : Sensors) {s : State} (h1 : orig.Keeps s) :
    orig.KeepsOut (execSensorRefresh m s) := by
  unfold execSensorRefresh
  repeat' first
    | with_reducible assumption
    | intro _
    | with_reducible apply State.KeepsOut.next
    | (with_reducible apply State.refresh_keeps)
    | with_reducible apply State.Keeps.ite | with_reducible apply State.Keeps.ite1 | with_reducible apply State.Keeps.ite2 | with_reducible apply State.Keeps.elim
    | with_reducible apply State.Keeps.foldl | with_reducible apply State.Keeps.foldl1 | with_reducible apply State.Keeps.foldl2 | with_reducible apply State.Keeps.foldl22
    | simp only [↓State.Keeps.upd, ↓State.Keeps.updFlash, ↓State.Keeps.updPoison]
    | split
    | dsimp only

end Sys2Proof.Machine
end

