-- ==== Sys2Proof/Laws/KeepSecurity.lean ====
section
/-! SUPPORT. What the operations of Machine/Security.lean keep. -/

set_option linter.all false

namespace Sys2Proof.Machine

theorem State.respond_keeps {orig : State} {s : State} (p : Nat) (l : LinkAB) (status : Nat) (bytes : List Byte) (h0 : orig.Keeps s) :
    orig.Keeps (State.respond s p l status bytes) := by
  unfold State.respond
  repeat' first
    | with_reducible assumption
    | intro _
    | (with_reducible apply State.toHost_keeps)
    | with_reducible apply State.Keeps.ite | with_reducible apply State.Keeps.ite1 | with_reducible apply State.Keeps.ite2 | with_reducible apply State.Keeps.elim
    | with_reducible apply State.Keeps.foldl | with_reducible apply State.Keeps.foldl1 | with_reducible apply State.Keeps.foldl2 | with_reducible apply State.Keeps.foldl22
    | simp only [↓State.Keeps.upd, ↓State.Keeps.updFlash, ↓State.Keeps.updPoison]
    | split
    | dsimp only

theorem execDoeDiscovery_keeps {orig : State} (p : Fin 2) (link : LinkAB) (index : Nat) {s : State} (h3 : orig.Keeps s) :
    orig.KeepsOut (execDoeDiscovery p link index s) := by
  unfold execDoeDiscovery
  repeat' first
    | with_reducible assumption
    | intro _
    | with_reducible apply State.KeepsOut.next
    | (with_reducible apply State.toHost_keeps)
    | with_reducible apply State.Keeps.ite | with_reducible apply State.Keeps.ite1 | with_reducible apply State.Keeps.ite2 | with_reducible apply State.Keeps.elim
    | with_reducible apply State.Keeps.foldl | with_reducible apply State.Keeps.foldl1 | with_reducible apply State.Keeps.foldl2 | with_reducible apply State.Keeps.foldl22
    | simp only [↓State.Keeps.upd, ↓State.Keeps.updFlash, ↓State.Keeps.updPoison]
    | split
    | dsimp only

theorem State.programResv_keeps {orig : State} {s : State} (v : Nat) (h0 : orig.Keeps s) :
    orig.Keeps (State.programResv s v) := by
  unfold State.programResv
  repeat' first
    | with_reducible assumption
    | intro _
    | (with_reducible apply State.setFld_keeps)
    | with_reducible apply State.Keeps.ite | with_reducible apply State.Keeps.ite1 | with_reducible apply State.Keeps.ite2 | with_reducible apply State.Keeps.elim
    | with_reducible apply State.Keeps.foldl | with_reducible apply State.Keeps.foldl1 | with_reducible apply State.Keeps.foldl2 | with_reducible apply State.Keeps.foldl22
    | simp only [↓State.Keeps.upd, ↓State.Keeps.updFlash, ↓State.Keeps.updPoison]
    | split
    | dsimp only

theorem State.flashRecord_keeps {orig : State} {s : State} (h0 : orig.Keeps s) :
    orig.Keeps (State.flashRecord s) := by
  unfold State.flashRecord
  repeat' first
    | with_reducible assumption
    | intro _
    | (with_reducible apply State.draw_keeps) | (with_reducible refine State.draw_eq ?_ (by with_reducible assumption))
    | (with_reducible apply State.openRecord_keeps) | (with_reducible refine State.openRecord_eq _ _ ?_ (by with_reducible assumption))
    | with_reducible apply State.Keeps.ite | with_reducible apply State.Keeps.ite1 | with_reducible apply State.Keeps.ite2 | with_reducible apply State.Keeps.elim
    | with_reducible apply State.Keeps.foldl | with_reducible apply State.Keeps.foldl1 | with_reducible apply State.Keeps.foldl2 | with_reducible apply State.Keeps.foldl22
    | simp only [↓State.Keeps.upd, ↓State.Keeps.updFlash, ↓State.Keeps.updPoison]
    | split
    | dsimp only

theorem State.reserve_keeps {orig : State} {s : State} (flashOk : Bool) (h0 : orig.Keeps s) :
    orig.KeepsO (State.reserve s flashOk) := by
  unfold State.reserve
  repeat' first
    | with_reducible assumption
    | intro _
    | with_reducible exact State.KeepsO.none
    | with_reducible apply State.KeepsO.some
    | with_reducible apply State.KeepsO.map
    | (with_reducible apply State.programResv_keeps)
    | with_reducible apply State.Keeps.ite | with_reducible apply State.Keeps.ite1 | with_reducible apply State.Keeps.ite2 | with_reducible apply State.Keeps.elim
    | with_reducible apply State.Keeps.foldl | with_reducible apply State.Keeps.foldl1 | with_reducible apply State.Keeps.foldl2 | with_reducible apply State.Keeps.foldl22
    | simp only [↓State.Keeps.upd, ↓State.Keeps.updFlash, ↓State.Keeps.updPoison]
    | split
    | dsimp only

theorem State.signQuote_keeps {orig : State} {s : State} (p : Nat) (l : LinkAB) (nonce : BitVec 256) (mask : BitVec 16) (log : Bool) (h0 : orig.Keeps s) :
    orig.Keeps (State.signQuote s p l nonce mask log) := by
  unfold State.signQuote
  repeat' first
    | with_reducible assumption
    | intro _
    | (with_reducible apply State.setFld_keeps) | (with_reducible apply State.respond_keeps)
    | (with_reducible apply State.attLimits_keeps)
    | with_reducible apply State.Keeps.ite | with_reducible apply State.Keeps.ite1 | with_reducible apply State.Keeps.ite2 | with_reducible apply State.Keeps.elim
    | with_reducible apply State.Keeps.foldl | with_reducible apply State.Keeps.foldl1 | with_reducible apply State.Keeps.foldl2 | with_reducible apply State.Keeps.foldl22
    | simp only [↓State.Keeps.upd, ↓State.Keeps.updFlash, ↓State.Keeps.updPoison]
    | split
    | dsimp only

theorem State.quote_keeps {orig : State} {s : State} (p : Nat) (l : LinkAB) (nonce : BitVec 256) (mask : BitVec 16) (log : Bool) (flashOk : Bool) (h0 : orig.Keeps s) :
    orig.Keeps (State.quote s p l nonce mask log flashOk) := by
  unfold State.quote
  repeat' first
    | with_reducible assumption
    | intro _
    | (with_reducible apply State.respond_keeps) | (with_reducible apply State.setFld_keeps)
    | (with_reducible refine State.KeepsO.out (State.reserve_keeps _ ?_) _ (by with_reducible assumption))
    | (with_reducible apply State.reserve_keeps) | (with_reducible apply State.signQuote_keeps)
    | (with_reducible apply State.flashRecord_keeps)
    | with_reducible apply State.Keeps.ite | with_reducible apply State.Keeps.ite1 | with_reducible apply State.Keeps.ite2 | with_reducible apply State.Keeps.elim
    | with_reducible apply State.Keeps.foldl | with_reducible apply State.Keeps.foldl1 | with_reducible apply State.Keeps.foldl2 | with_reducible apply State.Keeps.foldl22
    | simp only [↓State.Keeps.upd, ↓State.Keeps.updFlash, ↓State.Keeps.updPoison]
    | split
    | dsimp only

theorem execQuote_keeps {orig : State} (p : Fin 2) (link : LinkAB) (nonce : BitVec 256) (mask : BitVec 16) (log : Bool) (flashOk : Bool) {s : State} (h6 : orig.Keeps s) :
    orig.KeepsOut (execQuote p link nonce mask log flashOk s) := by
  unfold execQuote
  repeat' first
    | with_reducible assumption
    | intro _
    | with_reducible apply State.KeepsOut.next
    | (with_reducible apply State.quote_keeps)
    | with_reducible apply State.Keeps.ite | with_reducible apply State.Keeps.ite1 | with_reducible apply State.Keeps.ite2 | with_reducible apply State.Keeps.elim
    | with_reducible apply State.Keeps.foldl | with_reducible apply State.Keeps.foldl1 | with_reducible apply State.Keeps.foldl2 | with_reducible apply State.Keeps.foldl22
    | simp only [↓State.Keeps.upd, ↓State.Keeps.updFlash, ↓State.Keeps.updPoison]
    | split
    | dsimp only

theorem execIdKeyCacheReady_keeps {orig : State} {s : State} (h0 : orig.Keeps s) :
    orig.KeepsOut (execIdKeyCacheReady s) := by
  unfold execIdKeyCacheReady
  repeat' first
    | with_reducible assumption
    | intro _
    | with_reducible apply State.KeepsOut.next
    | (with_reducible apply State.attLimits_keeps) | (with_reducible apply State.setFld_keeps)
    | with_reducible apply State.Keeps.ite | with_reducible apply State.Keeps.ite1 | with_reducible apply State.Keeps.ite2 | with_reducible apply State.Keeps.elim
    | with_reducible apply State.Keeps.foldl | with_reducible apply State.Keeps.foldl1 | with_reducible apply State.Keeps.foldl2 | with_reducible apply State.Keeps.foldl22
    | simp only [↓State.Keeps.upd, ↓State.Keeps.updFlash, ↓State.Keeps.updPoison]
    | split
    | dsimp only

theorem execDebugUnlock_keeps {orig : State} (p : Fin 2) (link : LinkAB) (tok : DebugToken) {s : State} (h3 : orig.Keeps s) :
    orig.KeepsOut (execDebugUnlock p link tok s) := by
  unfold execDebugUnlock
  repeat' first
    | with_reducible assumption
    | intro _
    | with_reducible apply State.KeepsOut.next
    | (with_reducible apply State.setFld_keeps) | (with_reducible apply State.respond_keeps)
    | (with_reducible apply State.newNonce_keeps) | (with_reducible apply State.extend_keeps)
    | with_reducible apply State.Keeps.ite | with_reducible apply State.Keeps.ite1 | with_reducible apply State.Keeps.ite2 | with_reducible apply State.Keeps.elim
    | with_reducible apply State.Keeps.foldl | with_reducible apply State.Keeps.foldl1 | with_reducible apply State.Keeps.foldl2 | with_reducible apply State.Keeps.foldl22
    | simp only [↓State.Keeps.upd, ↓State.Keeps.updFlash, ↓State.Keeps.updPoison]
    | split
    | dsimp only

theorem State.relock_keeps {orig : State} {s : State} (h0 : orig.Keeps s) :
    orig.Keeps (State.relock s) := by
  unfold State.relock
  repeat' first
    | with_reducible assumption
    | intro _
    | (with_reducible apply State.extend_keeps) | (with_reducible apply State.setFld_keeps)
    | with_reducible apply State.Keeps.ite | with_reducible apply State.Keeps.ite1 | with_reducible apply State.Keeps.ite2 | with_reducible apply State.Keeps.elim
    | with_reducible apply State.Keeps.foldl | with_reducible apply State.Keeps.foldl1 | with_reducible apply State.Keeps.foldl2 | with_reducible apply State.Keeps.foldl22
    | simp only [↓State.Keeps.upd, ↓State.Keeps.updFlash, ↓State.Keeps.updPoison]
    | split
    | dsimp only

theorem execRelock_keeps {orig : State} {s : State} (h0 : orig.Keeps s) :
    orig.KeepsOut (execRelock s) := by
  unfold execRelock
  repeat' first
    | with_reducible assumption
    | intro _
    | with_reducible apply State.KeepsOut.next
    | (with_reducible apply State.relock_keeps)
    | with_reducible apply State.Keeps.ite | with_reducible apply State.Keeps.ite1 | with_reducible apply State.Keeps.ite2 | with_reducible apply State.Keeps.elim
    | with_reducible apply State.Keeps.foldl | with_reducible apply State.Keeps.foldl1 | with_reducible apply State.Keeps.foldl2 | with_reducible apply State.Keeps.foldl22
    | simp only [↓State.Keeps.upd, ↓State.Keeps.updFlash, ↓State.Keeps.updPoison]
    | split
    | dsimp only

theorem State.putImage_keeps {orig : State} {s : State} (p : Nat) (l : LinkAB) (off : Nat) (bytes : List Byte) (h0 : orig.Keeps s) :
    orig.Keeps (State.putImage s p l off bytes) := by
  unfold State.putImage
  repeat' first
    | with_reducible assumption
    | intro _
    | (with_reducible apply State.respond_keeps)
    | with_reducible apply State.Keeps.ite | with_reducible apply State.Keeps.ite1 | with_reducible apply State.Keeps.ite2 | with_reducible apply State.Keeps.elim
    | with_reducible apply State.Keeps.foldl | with_reducible apply State.Keeps.foldl1 | with_reducible apply State.Keeps.foldl2 | with_reducible apply State.Keeps.foldl22
    | simp only [↓State.Keeps.upd, ↓State.Keeps.updFlash, ↓State.Keeps.updPoison]
    | split
    | dsimp only

theorem execImage_keeps {orig : State} (p : Fin 2) (link : LinkAB) (off : Nat) (bytes : List Byte) {s : State} (h4 : orig.Keeps s) :
    orig.KeepsOut (execImage p link off bytes s) := by
  unfold execImage
  repeat' first
    | with_reducible assumption
    | intro _
    | with_reducible apply State.KeepsOut.next
    | (with_reducible apply State.putImage_keeps)
    | with_reducible apply State.Keeps.ite | with_reducible apply State.Keeps.ite1 | with_reducible apply State.Keeps.ite2 | with_reducible apply State.Keeps.elim
    | with_reducible apply State.Keeps.foldl | with_reducible apply State.Keeps.foldl1 | with_reducible apply State.Keeps.foldl2 | with_reducible apply State.Keeps.foldl22
    | simp only [↓State.Keeps.upd, ↓State.Keeps.updFlash, ↓State.Keeps.updPoison]
    | split
    | dsimp only

theorem State.signStmt_keeps {orig : State} {s : State} (h0 : orig.Keeps s) :
    orig.Keeps (State.signStmt s) := by
  unfold State.signStmt
  repeat' first
    | with_reducible assumption
    | intro _
    | with_reducible apply State.Keeps.ite | with_reducible apply State.Keeps.ite1 | with_reducible apply State.Keeps.ite2 | with_reducible apply State.Keeps.elim
    | with_reducible apply State.Keeps.foldl | with_reducible apply State.Keeps.foldl1 | with_reducible apply State.Keeps.foldl2 | with_reducible apply State.Keeps.foldl22
    | simp only [↓State.Keeps.upd, ↓State.Keeps.updFlash, ↓State.Keeps.updPoison]
    | split
    | dsimp only

theorem execIdCert_keeps {orig : State} (p : Fin 2) (link : LinkAB) {s : State} (h2 : orig.Keeps s) :
    orig.KeepsOut (execIdCert p link s) := by
  unfold execIdCert
  repeat' first
    | with_reducible assumption
    | intro _
    | with_reducible apply State.KeepsOut.next
    | (with_reducible apply State.signStmt_keeps) | (with_reducible apply State.respond_keeps)
    | with_reducible apply State.Keeps.ite | with_reducible apply State.Keeps.ite1 | with_reducible apply State.Keeps.ite2 | with_reducible apply State.Keeps.elim
    | with_reducible apply State.Keeps.foldl | with_reducible apply State.Keeps.foldl1 | with_reducible apply State.Keeps.foldl2 | with_reducible apply State.Keeps.foldl22
    | simp only [↓State.Keeps.upd, ↓State.Keeps.updFlash, ↓State.Keeps.updPoison]
    | split
    | dsimp only

theorem State.newKey_keeps {orig : State} {s : State} (count : Nat) (hc : s.flash.rekeys ≤ count) (h0 : orig.Keeps s) :
    orig.Keeps (State.newKey s count) := by
  unfold State.newKey
  dsimp only
  repeat' first
    | with_reducible apply State.setFld_keeps
    | with_reducible apply State.programResv_keeps
  exact ⟨h0.mem, h0.pending, h0.floor, h0.revoked, Nat.le_succ_of_le h0.gen, Nat.le_trans h0.rekeys hc, h0.colds, h0.free⟩

theorem execRekey_keeps {orig : State} (p : Fin 2) (link : LinkAB) (au : RekeyAuth) {s : State} (h3 : orig.Keeps s) :
    orig.KeepsOut (execRekey p link au s) := by
  unfold execRekey
  refine .next (State.Keeps.ite (fun _ => State.Keeps.ite (fun h => ?_) fun _ => ?_) fun _ => h3)
  · simp only [State.authOk, Bool.and_eq_true, decide_eq_true_eq] at h
    exact State.respond_keeps _ _ _ _ (State.newKey_keeps _ (Nat.le_of_lt h.2) h3)
  · exact State.respond_keeps _ _ _ _ h3

theorem State.measExtend_keeps {orig : State} {s : State} (n : Nat) (h0 : orig.Keeps s) :
    orig.Keeps (State.measExtend s n) := by
  unfold State.measExtend
  repeat' first
    | with_reducible assumption
    | intro _
    | (with_reducible apply State.extend_keeps)
    | with_reducible apply State.Keeps.ite | with_reducible apply State.Keeps.ite1 | with_reducible apply State.Keeps.ite2 | with_reducible apply State.Keeps.elim
    | with_reducible apply State.Keeps.foldl | with_reducible apply State.Keeps.foldl1 | with_reducible apply State.Keeps.foldl2 | with_reducible apply State.Keeps.foldl22
    | simp only [↓State.Keeps.upd, ↓State.Keeps.updFlash, ↓State.Keeps.updPoison]
    | split
    | dsimp only

theorem execSecMeasExtend_keeps {orig : State} (n : Fin 16) {s : State} (h1 : orig.Keeps s) :
    orig.KeepsOut (execSecMeasExtend n s) := by
  unfold execSecMeasExtend
  repeat' first
    | with_reducible assumption
    | intro _
    | with_reducible apply State.KeepsOut.next
    | (with_reducible apply State.measExtend_keeps)
    | with_reducible apply State.Keeps.ite | with_reducible apply State.Keeps.ite1 | with_reducible apply State.Keeps.ite2 | with_reducible apply State.Keeps.elim
    | with_reducible apply State.Keeps.foldl | with_reducible apply State.Keeps.foldl1 | with_reducible apply State.Keeps.foldl2 | with_reducible apply State.Keeps.foldl22
    | simp only [↓State.Keeps.upd, ↓State.Keeps.updFlash, ↓State.Keeps.updPoison]
    | split
    | dsimp only

end Sys2Proof.Machine
end

