-- ==== Sys2Proof/Laws/KeepCsr.lean ====
section
/-! SUPPORT. What the operations of Machine/Csr.lean keep. -/

set_option linter.all false

namespace Sys2Proof.Machine

theorem State.csrPlain_keeps {orig : State} {s : State} (off : Nat) (sz : CsrSize) (v : Word) (h0 : orig.Keeps s) :
    orig.Keeps (State.csrPlain s off sz v) := by
  unfold State.csrPlain
  repeat' first
    | with_reducible assumption
    | intro _
    | (with_reducible apply State.csrSet_keeps) | (with_reducible apply State.measShares_keeps)
    | with_reducible apply State.Keeps.ite | with_reducible apply State.Keeps.ite1 | with_reducible apply State.Keeps.ite2 | with_reducible apply State.Keeps.elim
    | with_reducible apply State.Keeps.foldl | with_reducible apply State.Keeps.foldl1 | with_reducible apply State.Keeps.foldl2 | with_reducible apply State.Keeps.foldl22
    | simp only [↓State.Keeps.upd, ↓State.Keeps.updFlash, ↓State.Keeps.updPoison]
    | split
    | dsimp only

theorem State.writeHal_keeps {orig : State} {s : State} (n : CtxId) (key : Nat) (h : Nat) (sub : Nat) (off : Nat) (sz : CsrSize) (v : Word) (h0 : orig.Keeps s) :
    orig.Keeps (State.writeHal s n key h sub off sz v) := by
  unfold State.writeHal
  repeat' first
    | with_reducible assumption
    | intro _
    | (with_reducible apply State.halOpen_keeps) | (with_reducible apply State.halClose_keeps)
    | (with_reducible apply State.csrPlain_keeps) | (with_reducible apply State.halDoor_keeps)
    | (with_reducible apply State.halRelease_keeps)
    | with_reducible apply State.Keeps.ite | with_reducible apply State.Keeps.ite1 | with_reducible apply State.Keeps.ite2 | with_reducible apply State.Keeps.elim
    | with_reducible apply State.Keeps.foldl | with_reducible apply State.Keeps.foldl1 | with_reducible apply State.Keeps.foldl2 | with_reducible apply State.Keeps.foldl22
    | simp only [↓State.Keeps.upd, ↓State.Keeps.updFlash, ↓State.Keeps.updPoison]
    | split
    | dsimp only

theorem State.writeCtx_keeps {orig : State} {s : State} (n : CtxId) (low : Bool) (key : Nat) (r : Nat) (off : Nat) (sz : CsrSize) (v : Word) (h0 : orig.Keeps s) :
    orig.Keeps (State.writeCtx s n low key r off sz v) := by
  unfold State.writeCtx
  repeat' first
    | with_reducible assumption
    | intro _
    | (with_reducible apply State.writeHal_keeps) | (with_reducible apply State.grpWrite_keeps)
    | (with_reducible apply State.subWrite_keeps) | (with_reducible apply State.updCommand_keeps)
    | (with_reducible apply State.acquire_keeps) | (with_reducible apply State.unhold_keeps)
    | (with_reducible apply State.csrPlain_keeps) | (with_reducible apply State.startMark_keeps)
    | (with_reducible apply State.endMark_keeps)
    | with_reducible apply State.Keeps.ite | with_reducible apply State.Keeps.ite1 | with_reducible apply State.Keeps.ite2 | with_reducible apply State.Keeps.elim
    | with_reducible apply State.Keeps.foldl | with_reducible apply State.Keeps.foldl1 | with_reducible apply State.Keeps.foldl2 | with_reducible apply State.Keeps.foldl22
    | simp only [↓State.Keeps.upd, ↓State.Keeps.updFlash, ↓State.Keeps.updPoison]
    | split
    | dsimp only

theorem State.writePage_keeps {orig : State} {s : State} (p : Nat) (f : Nat) (r : Nat) (off : Nat) (sz : CsrSize) (v : Word) (h0 : orig.Keeps s) :
    orig.Keeps (State.writePage s p f r off sz v) := by
  unfold State.writePage
  repeat' first
    | with_reducible assumption
    | intro _
    | (with_reducible apply State.writeQCfg_keeps) | (with_reducible apply State.csrPlain_keeps)
    | (with_reducible apply State.writeEqHead_keeps) | (with_reducible apply State.writeTail_keeps)
    | (with_reducible apply State.writeCqHead_keeps)
    | with_reducible apply State.Keeps.ite | with_reducible apply State.Keeps.ite1 | with_reducible apply State.Keeps.ite2 | with_reducible apply State.Keeps.elim
    | with_reducible apply State.Keeps.foldl | with_reducible apply State.Keeps.foldl1 | with_reducible apply State.Keeps.foldl2 | with_reducible apply State.Keeps.foldl22
    | simp only [↓State.Keeps.upd, ↓State.Keeps.updFlash, ↓State.Keeps.updPoison]
    | split
    | dsimp only

theorem State.pkgRst_keeps {orig : State} {s : State} (op : Nat) (h0 : orig.Keeps s) :
    orig.Keeps (State.pkgRst s op) := by
  unfold State.pkgRst
  repeat' first
    | with_reducible assumption
    | intro _
    | (with_reducible apply State.kick_keeps) | (with_reducible apply State.pkgReset_keeps)
    | (with_reducible apply State.fabReset_keeps) | (with_reducible apply State.trip_keeps)
    | with_reducible apply State.Keeps.ite | with_reducible apply State.Keeps.ite1 | with_reducible apply State.Keeps.ite2 | with_reducible apply State.Keeps.elim
    | with_reducible apply State.Keeps.foldl | with_reducible apply State.Keeps.foldl1 | with_reducible apply State.Keeps.foldl2 | with_reducible apply State.Keeps.foldl22
    | simp only [↓State.Keeps.upd, ↓State.Keeps.updFlash, ↓State.Keeps.updPoison]
    | split
    | dsimp only

theorem State.tstCmd_keeps {orig : State} {s : State} (op : Nat) (u : UnitCode) (h0 : orig.Keeps s) :
    orig.Keeps (State.tstCmd s op u) := by
  unfold State.tstCmd
  repeat' first
    | with_reducible assumption
    | intro _
    | (with_reducible apply State.cmdTest_keeps) | (with_reducible apply State.draw_keeps)
    | (with_reducible refine State.draw_eq ?_ (by with_reducible assumption)) | (with_reducible apply State.cmdRestore_keeps)
    | (with_reducible apply State.clearHist_keeps)
    | with_reducible apply State.Keeps.ite | with_reducible apply State.Keeps.ite1 | with_reducible apply State.Keeps.ite2 | with_reducible apply State.Keeps.elim
    | with_reducible apply State.Keeps.foldl | with_reducible apply State.Keeps.foldl1 | with_reducible apply State.Keeps.foldl2 | with_reducible apply State.Keeps.foldl22
    | simp only [↓State.Keeps.upd, ↓State.Keeps.updFlash, ↓State.Keeps.updPoison]
    | split
    | dsimp only

theorem State.fabCmd_keeps {orig : State} {s : State} (p : Nat) (op : Nat) (h0 : orig.Keeps s) :
    orig.Keeps (State.fabCmd s p op) := by
  unfold State.fabCmd
  repeat' first
    | with_reducible assumption
    | intro _
    | (with_reducible apply State.retrainPort_keeps) | (with_reducible apply State.shutterCmd_keeps)
    | with_reducible apply State.Keeps.ite | with_reducible apply State.Keeps.ite1 | with_reducible apply State.Keeps.ite2 | with_reducible apply State.Keeps.elim
    | with_reducible apply State.Keeps.foldl | with_reducible apply State.Keeps.foldl1 | with_reducible apply State.Keeps.foldl2 | with_reducible apply State.Keeps.foldl22
    | simp only [↓State.Keeps.upd, ↓State.Keeps.updFlash, ↓State.Keeps.updPoison]
    | split
    | dsimp only

theorem State.writeRest_keeps {orig : State} {s : State} (off : Nat) (sz : CsrSize) (v : Word) (h0 : orig.Keeps s) :
    orig.Keeps (State.writeRest s off sz v) := by
  unfold State.writeRest
  repeat' first
    | with_reducible assumption
    | intro _
    | (with_reducible apply State.writeIlv_keeps) | (with_reducible apply State.pkgRst_keeps)
    | (with_reducible apply State.fabCfg_keeps) | (with_reducible apply State.fabCmd_keeps)
    | (with_reducible apply State.routeDims_keeps) | (with_reducible apply State.routeSlice_keeps)
    | (with_reducible apply State.writeStage_keeps) | (with_reducible apply State.tstCmd_keeps)
    | (with_reducible apply State.writeInj_keeps) | (with_reducible apply State.wicketCmd_keeps)
    | (with_reducible apply State.louvreWrite_keeps) | (with_reducible apply State.relock_keeps)
    | (with_reducible apply State.measExtend_keeps) | (with_reducible apply State.csrPlain_keeps)
    | with_reducible apply State.Keeps.ite | with_reducible apply State.Keeps.ite1 | with_reducible apply State.Keeps.ite2 | with_reducible apply State.Keeps.elim
    | with_reducible apply State.Keeps.foldl | with_reducible apply State.Keeps.foldl1 | with_reducible apply State.Keeps.foldl2 | with_reducible apply State.Keeps.foldl22
    | simp only [↓State.Keeps.upd, ↓State.Keeps.updFlash, ↓State.Keeps.updPoison]
    | split
    | dsimp only

theorem State.csrPut_keeps {orig : State} {s : State} (low : Bool) (key : Nat) (off : Nat) (sz : CsrSize) (v : Word) (h0 : orig.Keeps s) :
    orig.Keeps (State.csrPut s low key off sz v) := by
  unfold State.csrPut
  repeat' first
    | with_reducible assumption
    | intro _
    | (with_reducible apply State.writeCtx_keeps) | (with_reducible apply State.writePage_keeps)
    | (with_reducible apply State.writeRest_keeps)
    | with_reducible apply State.Keeps.ite | with_reducible apply State.Keeps.ite1 | with_reducible apply State.Keeps.ite2 | with_reducible apply State.Keeps.elim
    | with_reducible apply State.Keeps.foldl | with_reducible apply State.Keeps.foldl1 | with_reducible apply State.Keeps.foldl2 | with_reducible apply State.Keeps.foldl22
    | simp only [↓State.Keeps.upd, ↓State.Keeps.updFlash, ↓State.Keeps.updPoison]
    | split
    | dsimp only

theorem State.writeMsix_keeps {orig : State} {s : State} (p : Nat) (f : Nat) (i : Nat) (sz : CsrSize) (v : Word) (h0 : orig.Keeps s) :
    orig.Keeps (State.writeMsix s p f i sz v) := by
  unfold State.writeMsix
  repeat' first
    | with_reducible assumption
    | intro _
    | (with_reducible apply State.toHost_keeps)
    | with_reducible apply State.Keeps.ite | with_reducible apply State.Keeps.ite1 | with_reducible apply State.Keeps.ite2 | with_reducible apply State.Keeps.elim
    | with_reducible apply State.Keeps.foldl | with_reducible apply State.Keeps.foldl1 | with_reducible apply State.Keeps.foldl2 | with_reducible apply State.Keeps.foldl22
    | simp only [↓State.Keeps.upd, ↓State.Keeps.updFlash, ↓State.Keeps.updPoison]
    | split
    | dsimp only

theorem State.barWrite_keeps {orig : State} {s : State} (p : Nat) (f : Nat) (off : Nat) (sz : CsrSize) (v : Word) (h0 : orig.Keeps s) :
    orig.Keeps (State.barWrite s p f off sz v) := by
  unfold State.barWrite
  repeat' first
    | with_reducible assumption
    | intro _
    | (with_reducible apply State.csrPut_keeps) | (with_reducible apply State.writeMsix_keeps)
    | with_reducible apply State.Keeps.ite | with_reducible apply State.Keeps.ite1 | with_reducible apply State.Keeps.ite2 | with_reducible apply State.Keeps.elim
    | with_reducible apply State.Keeps.foldl | with_reducible apply State.Keeps.foldl1 | with_reducible apply State.Keeps.foldl2 | with_reducible apply State.Keeps.foldl22
    | simp only [↓State.Keeps.upd, ↓State.Keeps.updFlash, ↓State.Keeps.updPoison]
    | split
    | dsimp only

theorem State.csrFault_keeps {orig : State} {s : State} (n : CtxId) (off : Nat) (h0 : orig.Keeps s) :
    orig.Keeps (State.csrFault s n off) := by
  unfold State.csrFault
  repeat' first
    | with_reducible assumption
    | intro _
    | (with_reducible apply State.addFault_keeps)
    | with_reducible apply State.Keeps.ite | with_reducible apply State.Keeps.ite1 | with_reducible apply State.Keeps.ite2 | with_reducible apply State.Keeps.elim
    | with_reducible apply State.Keeps.foldl | with_reducible apply State.Keeps.foldl1 | with_reducible apply State.Keeps.foldl2 | with_reducible apply State.Keeps.foldl22
    | simp only [↓State.Keeps.upd, ↓State.Keeps.updFlash, ↓State.Keeps.updPoison]
    | split
    | dsimp only

theorem State.csrRecord_keeps {orig : State} {s : State} (who : Who) (off : Nat) (h0 : orig.Keeps s) :
    orig.Keeps (State.csrRecord s who off) := by
  unfold State.csrRecord
  repeat' first
    | with_reducible assumption
    | intro _
    | (with_reducible apply State.openRecord_keeps) | (with_reducible refine State.openRecord_eq _ _ ?_ (by with_reducible assumption))
    | with_reducible apply State.Keeps.ite | with_reducible apply State.Keeps.ite1 | with_reducible apply State.Keeps.ite2 | with_reducible apply State.Keeps.elim
    | with_reducible apply State.Keeps.foldl | with_reducible apply State.Keeps.foldl1 | with_reducible apply State.Keeps.foldl2 | with_reducible apply State.Keeps.foldl22
    | simp only [↓State.Keeps.upd, ↓State.Keeps.updFlash, ↓State.Keeps.updPoison]
    | split
    | dsimp only

theorem State.csrRefused_keeps {orig : State} {s : State} (who : Who) (off : Nat) (rd : Bool) (h0 : orig.Keeps s) :
    orig.Keeps (State.csrRefused s who off rd) := by
  unfold State.csrRefused
  repeat' first
    | with_reducible assumption
    | intro _
    | (with_reducible apply State.csrRecord_keeps) | (with_reducible apply State.csrFault_keeps)
    | (with_reducible apply State.toHost_keeps)
    | with_reducible apply State.Keeps.ite | with_reducible apply State.Keeps.ite1 | with_reducible apply State.Keeps.ite2 | with_reducible apply State.Keeps.elim
    | with_reducible apply State.Keeps.foldl | with_reducible apply State.Keeps.foldl1 | with_reducible apply State.Keeps.foldl2 | with_reducible apply State.Keeps.foldl22
    | simp only [↓State.Keeps.upd, ↓State.Keeps.updFlash, ↓State.Keeps.updPoison]
    | split
    | dsimp only

theorem execCsrWrite_keeps {orig : State} (who : Who) (off : Nat) (sz : CsrSize) (v : Word) {s : State} (h4 : orig.Keeps s) :
    orig.KeepsOut (execCsrWrite who off sz v s) := by
  unfold execCsrWrite
  repeat' first
    | with_reducible assumption
    | intro _
    | with_reducible apply State.KeepsOut.next
    | (with_reducible apply State.csrRefused_keeps) | (with_reducible apply State.csrPut_keeps)
    | (with_reducible apply State.csrFault_keeps) | (with_reducible apply State.barWrite_keeps)
    | with_reducible apply State.Keeps.ite | with_reducible apply State.Keeps.ite1 | with_reducible apply State.Keeps.ite2 | with_reducible apply State.Keeps.elim
    | with_reducible apply State.Keeps.foldl | with_reducible apply State.Keeps.foldl1 | with_reducible apply State.Keeps.foldl2 | with_reducible apply State.Keeps.foldl22
    | simp only [↓State.Keeps.upd, ↓State.Keeps.updFlash, ↓State.Keeps.updPoison]
    | split
    | dsimp only

theorem execCsrAccessBadSize_keeps {orig : State} (who : Who) (off : Nat) (rd : Bool) {s : State} (h3 : orig.Keeps s) :
    orig.KeepsOut (execCsrAccessBadSize who off rd s) := by
  unfold execCsrAccessBadSize
  repeat' first
    | with_reducible assumption
    | intro _
    | with_reducible apply State.KeepsOut.next
    | (with_reducible apply State.csrRefused_keeps)
    | with_reducible apply State.Keeps.ite | with_reducible apply State.Keeps.ite1 | with_reducible apply State.Keeps.ite2 | with_reducible apply State.Keeps.elim
    | with_reducible apply State.Keeps.foldl | with_reducible apply State.Keeps.foldl1 | with_reducible apply State.Keeps.foldl2 | with_reducible apply State.Keeps.foldl22
    | simp only [↓State.Keeps.upd, ↓State.Keeps.updFlash, ↓State.Keeps.updPoison]
    | split
    | dsimp only

end Sys2Proof.Machine
end

