-- ==== Sys2Proof/Laws/KeepAccess.lean ====
section
/-! SUPPORT. What the operations of Machine/Access.lean keep. -/

set_option linter.all false

namespace Sys2Proof.Machine

theorem State.fetchFault_keeps {orig : State} {s : State} (k : Nat) (a : Nat) (h0 : orig.Keeps s) :
    orig.Keeps (State.fetchFault s k a) := by
  unfold State.fetchFault
  repeat' first
    | with_reducible assumption
    | intro _
    | (with_reducible apply State.modCore_keeps) | (with_reducible apply State.coreFault_keeps)
    | with_reducible apply State.Keeps.ite | with_reducible apply State.Keeps.ite1 | with_reducible apply State.Keeps.ite2 | with_reducible apply State.Keeps.elim
    | with_reducible apply State.Keeps.foldl | with_reducible apply State.Keeps.foldl1 | with_reducible apply State.Keeps.foldl2 | with_reducible apply State.Keeps.foldl22
    | simp only [↓State.Keeps.upd, ↓State.Keeps.updFlash, ↓State.Keeps.updPoison]
    | split
    | dsimp only

theorem State.cacheWord_keeps {orig : State} {s : State} (k : Nat) (a : Nat) (w : Word) (h0 : orig.Keeps s) :
    orig.Keeps (State.cacheWord s k a w) := by
  unfold State.cacheWord
  repeat' first
    | with_reducible assumption
    | intro _
    | (with_reducible apply State.modCore_keeps) | (with_reducible apply State.draw_keeps)
    | (with_reducible refine State.draw_eq ?_ (by with_reducible assumption))
    | with_reducible apply State.Keeps.ite | with_reducible apply State.Keeps.ite1 | with_reducible apply State.Keeps.ite2 | with_reducible apply State.Keeps.elim
    | with_reducible apply State.Keeps.foldl | with_reducible apply State.Keeps.foldl1 | with_reducible apply State.Keeps.foldl2 | with_reducible apply State.Keeps.foldl22
    | simp only [↓State.Keeps.upd, ↓State.Keeps.updFlash, ↓State.Keeps.updPoison]
    | split
    | dsimp only

theorem State.fetchRead_keeps {orig : State} {s : State} (k : Nat) (a : Nat) (h0 : orig.Keeps s) :
    orig.Keeps (State.fetchRead s k a) := by
  unfold State.fetchRead
  repeat' first
    | with_reducible assumption
    | intro _
    | (with_reducible apply State.fetchFault_keeps) | (with_reducible apply State.poisonRecord_keeps)
    | (with_reducible apply State.pmcOwn_keeps) | (with_reducible apply State.modCore_keeps)
    | (with_reducible apply State.cacheWord_keeps)
    | with_reducible apply State.Keeps.ite | with_reducible apply State.Keeps.ite1 | with_reducible apply State.Keeps.ite2 | with_reducible apply State.Keeps.elim
    | with_reducible apply State.Keeps.foldl | with_reducible apply State.Keeps.foldl1 | with_reducible apply State.Keeps.foldl2 | with_reducible apply State.Keeps.foldl22
    | simp only [↓State.Keeps.upd, ↓State.Keeps.updFlash, ↓State.Keeps.updPoison]
    | split
    | dsimp only

theorem State.fetchWord_keeps {orig : State} {s : State} (k : Nat) (a : Nat) (h0 : orig.Keeps s) :
    orig.Keeps (State.fetchWord s k a) := by
  unfold State.fetchWord
  repeat' first
    | with_reducible assumption
    | intro _
    | (with_reducible apply State.draw_keeps) | (with_reducible refine State.draw_eq ?_ (by with_reducible assumption))
    | (with_reducible apply State.modCore_keeps) | (with_reducible apply State.fetchRead_keeps)
    | with_reducible apply State.Keeps.ite | with_reducible apply State.Keeps.ite1 | with_reducible apply State.Keeps.ite2 | with_reducible apply State.Keeps.elim
    | with_reducible apply State.Keeps.foldl | with_reducible apply State.Keeps.foldl1 | with_reducible apply State.Keeps.foldl2 | with_reducible apply State.Keeps.foldl22
    | simp only [↓State.Keeps.upd, ↓State.Keeps.updFlash, ↓State.Keeps.updPoison]
    | split
    | dsimp only

theorem State.refuseWord_keeps {orig : State} {s : State} (k : Nat) (h0 : orig.Keeps s) :
    orig.Keeps (State.refuseWord s k) := by
  unfold State.refuseWord
  repeat' first
    | with_reducible assumption
    | intro _
    | (with_reducible apply State.seqFault_keeps)
    | with_reducible apply State.Keeps.ite | with_reducible apply State.Keeps.ite1 | with_reducible apply State.Keeps.ite2 | with_reducible apply State.Keeps.elim
    | with_reducible apply State.Keeps.foldl | with_reducible apply State.Keeps.foldl1 | with_reducible apply State.Keeps.foldl2 | with_reducible apply State.Keeps.foldl22
    | simp only [↓State.Keeps.upd, ↓State.Keeps.updFlash, ↓State.Keeps.updPoison]
    | split
    | dsimp only

theorem execInstructionFetch_keeps {orig : State} (cid : CoreId) {s : State} (h1 : orig.Keeps s) :
    orig.KeepsOut (execInstructionFetch cid s) := by
  unfold execInstructionFetch
  repeat' first
    | with_reducible assumption
    | intro _
    | with_reducible apply State.KeepsOut.next
    | (with_reducible apply State.refuseWord_keeps) | (with_reducible apply State.fetchWord_keeps)
    | (with_reducible apply State.fetchFault_keeps)
    | with_reducible apply State.Keeps.ite | with_reducible apply State.Keeps.ite1 | with_reducible apply State.Keeps.ite2 | with_reducible apply State.Keeps.elim
    | with_reducible apply State.Keeps.foldl | with_reducible apply State.Keeps.foldl1 | with_reducible apply State.Keeps.foldl2 | with_reducible apply State.Keeps.foldl22
    | simp only [↓State.Keeps.upd, ↓State.Keeps.updFlash, ↓State.Keeps.updPoison]
    | split
    | dsimp only

theorem State.endFlight_keeps {orig : State} {s : State} (k : Nat) (f : Flight) (h0 : orig.Keeps s) :
    orig.Keeps (State.endFlight s k f) := by
  unfold State.endFlight
  repeat' first
    | with_reducible assumption
    | intro _
    | (with_reducible apply State.modSet_keeps)
    | with_reducible apply State.Keeps.ite | with_reducible apply State.Keeps.ite1 | with_reducible apply State.Keeps.ite2 | with_reducible apply State.Keeps.elim
    | with_reducible apply State.Keeps.foldl | with_reducible apply State.Keeps.foldl1 | with_reducible apply State.Keeps.foldl2 | with_reducible apply State.Keeps.foldl22
    | simp only [↓State.Keeps.upd, ↓State.Keeps.updFlash, ↓State.Keeps.updPoison]
    | split
    | dsimp only

theorem State.failFlight_keeps {orig : State} {s : State} (k : Nat) (f : Flight) (code : FaultCode) (h0 : orig.Keeps s) :
    orig.Keeps (State.failFlight s k f code) := by
  unfold State.failFlight
  repeat' first
    | with_reducible assumption
    | intro _
    | (with_reducible apply State.addFault_keeps) | (with_reducible apply State.endFlight_keeps)
    | with_reducible apply State.Keeps.ite | with_reducible apply State.Keeps.ite1 | with_reducible apply State.Keeps.ite2 | with_reducible apply State.Keeps.elim
    | with_reducible apply State.Keeps.foldl | with_reducible apply State.Keeps.foldl1 | with_reducible apply State.Keeps.foldl2 | with_reducible apply State.Keeps.foldl22
    | simp only [↓State.Keeps.upd, ↓State.Keeps.updFlash, ↓State.Keeps.updPoison]
    | split
    | dsimp only

theorem State.landFlight_keeps {orig : State} {s : State} (k : Nat) (f : Flight) (v : Word) (h0 : orig.Keeps s) :
    orig.Keeps (State.landFlight s k f v) := by
  unfold State.landFlight
  repeat' first
    | with_reducible assumption
    | intro _
    | (with_reducible apply State.modSet_keeps) | (with_reducible apply State.endFlight_keeps)
    | with_reducible apply State.Keeps.ite | with_reducible apply State.Keeps.ite1 | with_reducible apply State.Keeps.ite2 | with_reducible apply State.Keeps.elim
    | with_reducible apply State.Keeps.foldl | with_reducible apply State.Keeps.foldl1 | with_reducible apply State.Keeps.foldl2 | with_reducible apply State.Keeps.foldl22
    | simp only [↓State.Keeps.upd, ↓State.Keeps.updFlash, ↓State.Keeps.updPoison]
    | split
    | dsimp only

theorem State.loadValue_keeps {orig : State} {s : State} (k : Nat) (f : Flight) (size : Nat) (signed : Bool) (v : Nat) (h0 : orig.Keeps s) :
    orig.Keeps (State.loadValue s k f size signed v) := by
  unfold State.loadValue
  repeat' first
    | with_reducible assumption
    | intro _
    | (with_reducible apply State.pmcEvent_keeps) | (with_reducible apply State.landFlight_keeps)
    | with_reducible apply State.Keeps.ite | with_reducible apply State.Keeps.ite1 | with_reducible apply State.Keeps.ite2 | with_reducible apply State.Keeps.elim
    | with_reducible apply State.Keeps.foldl | with_reducible apply State.Keeps.foldl1 | with_reducible apply State.Keeps.foldl2 | with_reducible apply State.Keeps.foldl22
    | simp only [↓State.Keeps.upd, ↓State.Keeps.updFlash, ↓State.Keeps.updPoison]
    | split
    | dsimp only

theorem State.accessServed_keeps {orig : State} {s : State} (k : Nat) (a : Nat) (h0 : orig.Keeps s) :
    orig.Keeps (State.accessServed s k a) := by
  unfold State.accessServed
  repeat' first
    | with_reducible assumption
    | intro _
    | (with_reducible apply State.crossed_keeps) | (with_reducible apply State.arbServed_keeps)
    | with_reducible apply State.Keeps.ite | with_reducible apply State.Keeps.ite1 | with_reducible apply State.Keeps.ite2 | with_reducible apply State.Keeps.elim
    | with_reducible apply State.Keeps.foldl | with_reducible apply State.Keeps.foldl1 | with_reducible apply State.Keeps.foldl2 | with_reducible apply State.Keeps.foldl22
    | simp only [↓State.Keeps.upd, ↓State.Keeps.updFlash, ↓State.Keeps.updPoison]
    | split
    | dsimp only

theorem State.loadLocal_keeps {orig : State} {s : State} (k : Nat) (f : Flight) (size : Nat) (signed : Bool) (h : HostReply) (h0 : orig.Keeps s) :
    orig.Keeps (State.loadLocal s k f size signed h) := by
  unfold State.loadLocal
  repeat' first
    | with_reducible assumption
    | intro _
    | (with_reducible apply State.loadValue_keeps) | (with_reducible apply State.failFlight_keeps)
    | (with_reducible apply State.draw_keeps) | (with_reducible refine State.draw_eq ?_ (by with_reducible assumption))
    | (with_reducible apply State.accessServed_keeps) | (with_reducible apply State.poisonRecord_keeps)
    | with_reducible apply State.Keeps.ite | with_reducible apply State.Keeps.ite1 | with_reducible apply State.Keeps.ite2 | with_reducible apply State.Keeps.elim
    | with_reducible apply State.Keeps.foldl | with_reducible apply State.Keeps.foldl1 | with_reducible apply State.Keeps.foldl2 | with_reducible apply State.Keeps.foldl22
    | simp only [↓State.Keeps.upd, ↓State.Keeps.updFlash, ↓State.Keeps.updPoison]
    | split
    | dsimp only

theorem execScalarLoadReturn_keeps {orig : State} (cid : CoreId) (i : Nat) (h : HostReply) {s : State} (h3 : orig.Keeps s) :
    orig.KeepsOut (execScalarLoadReturn cid i h s) := by
  unfold execScalarLoadReturn
  repeat' first
    | with_reducible assumption
    | intro _
    | with_reducible apply State.KeepsOut.next
    | (with_reducible apply State.failFlight_keeps) | (with_reducible apply State.loadValue_keeps)
    | (with_reducible apply State.loadLocal_keeps)
    | with_reducible apply State.Keeps.ite | with_reducible apply State.Keeps.ite1 | with_reducible apply State.Keeps.ite2 | with_reducible apply State.Keeps.elim
    | with_reducible apply State.Keeps.foldl | with_reducible apply State.Keeps.foldl1 | with_reducible apply State.Keeps.foldl2 | with_reducible apply State.Keeps.foldl22
    | simp only [↓State.Keeps.upd, ↓State.Keeps.updFlash, ↓State.Keeps.updPoison]
    | split
    | dsimp only

theorem State.storeLocal_keeps {orig : State} {s : State} (k : Nat) (f : Flight) (size : Nat) (h0 : orig.Keeps s) :
    orig.Keeps (State.storeLocal s k f size) := by
  unfold State.storeLocal
  repeat' first
    | with_reducible assumption
    | intro _
    | (with_reducible apply State.endFlight_keeps) | (with_reducible apply State.csrPut_keeps)
    | (with_reducible apply State.failFlight_keeps) | (with_reducible apply State.accessServed_keeps)
    | (with_reducible apply State.writeMem_keeps)
    | with_reducible apply State.Keeps.ite | with_reducible apply State.Keeps.ite1 | with_reducible apply State.Keeps.ite2 | with_reducible apply State.Keeps.elim
    | with_reducible apply State.Keeps.foldl | with_reducible apply State.Keeps.foldl1 | with_reducible apply State.Keeps.foldl2 | with_reducible apply State.Keeps.foldl22
    | simp only [↓State.Keeps.upd, ↓State.Keeps.updFlash, ↓State.Keeps.updPoison]
    | split
    | dsimp only

theorem State.performStore_keeps {orig : State} {s : State} (k : Nat) (i : Nat) (h0 : orig.Keeps s) :
    orig.Keeps (State.performStore s k i) := by
  unfold State.performStore
  repeat' first
    | with_reducible assumption
    | intro _
    | (with_reducible apply State.failFlight_keeps) | (with_reducible apply State.endFlight_keeps)
    | (with_reducible apply State.storeLocal_keeps)
    | with_reducible apply State.Keeps.ite | with_reducible apply State.Keeps.ite1 | with_reducible apply State.Keeps.ite2 | with_reducible apply State.Keeps.elim
    | with_reducible apply State.Keeps.foldl | with_reducible apply State.Keeps.foldl1 | with_reducible apply State.Keeps.foldl2 | with_reducible apply State.Keeps.foldl22
    | simp only [↓State.Keeps.upd, ↓State.Keeps.updFlash, ↓State.Keeps.updPoison]
    | split
    | dsimp only

theorem State.performStores_keeps {orig : State} (n : Nat) (l : List (CoreId × Nat)) {s : State} (h0 : orig.Keeps s) :
    orig.Keeps (State.performStores n l s) := by
  induction n generalizing l s with
  | zero => unfold State.performStores; exact h0
  | succ n ih =>
    cases l with
    | nil => unfold State.performStores; exact h0
    | cons x t => unfold State.performStores; exact ih _ (State.performStore_keeps _ _ h0)

theorem execScalarStorePerformed_keeps {orig : State} (cid : CoreId) (w : StoreTurn) {s : State} (h2 : orig.Keeps s) :
    orig.KeepsOut (execScalarStorePerformed cid w s) := by
  unfold execScalarStorePerformed
  repeat' first
    | with_reducible assumption
    | intro _
    | with_reducible apply State.KeepsOut.next
    | (with_reducible apply State.performStores_keeps)
    | with_reducible apply State.Keeps.ite | with_reducible apply State.Keeps.ite1 | with_reducible apply State.Keeps.ite2 | with_reducible apply State.Keeps.elim
    | with_reducible apply State.Keeps.foldl | with_reducible apply State.Keeps.foldl1 | with_reducible apply State.Keeps.foldl2 | with_reducible apply State.Keeps.foldl22
    | simp only [↓State.Keeps.upd, ↓State.Keeps.updFlash, ↓State.Keeps.updPoison]
    | split
    | dsimp only

theorem State.semDone_keeps {orig : State} {s : State} (k : Nat) (f : Flight) (h0 : orig.Keeps s) :
    orig.Keeps (State.semDone s k f) := by
  unfold State.semDone
  repeat' first
    | with_reducible assumption
    | intro _
    | (with_reducible apply State.pmcEvent_keeps) | (with_reducible apply State.landFlight_keeps)
    | (with_reducible apply State.evAddSet_keeps)
    | with_reducible apply State.Keeps.ite | with_reducible apply State.Keeps.ite1 | with_reducible apply State.Keeps.ite2 | with_reducible apply State.Keeps.elim
    | with_reducible apply State.Keeps.foldl | with_reducible apply State.Keeps.foldl1 | with_reducible apply State.Keeps.foldl2 | with_reducible apply State.Keeps.foldl22
    | simp only [↓State.Keeps.upd, ↓State.Keeps.updFlash, ↓State.Keeps.updPoison]
    | split
    | dsimp only

theorem execSemaphoreResultReturn_keeps {orig : State} (cid : CoreId) (i : Nat) {s : State} (h2 : orig.Keeps s) :
    orig.KeepsOut (execSemaphoreResultReturn cid i s) := by
  unfold execSemaphoreResultReturn
  repeat' first
    | with_reducible assumption
    | intro _
    | with_reducible apply State.KeepsOut.next
    | (with_reducible apply State.failFlight_keeps) | (with_reducible apply State.semDone_keeps)
    | with_reducible apply State.Keeps.ite | with_reducible apply State.Keeps.ite1 | with_reducible apply State.Keeps.ite2 | with_reducible apply State.Keeps.elim
    | with_reducible apply State.Keeps.foldl | with_reducible apply State.Keeps.foldl1 | with_reducible apply State.Keeps.foldl2 | with_reducible apply State.Keeps.foldl22
    | simp only [↓State.Keeps.upd, ↓State.Keeps.updFlash, ↓State.Keeps.updPoison]
    | split
    | dsimp only

end Sys2Proof.Machine
end

