-- ==== Sys2Proof/Laws/KeepExec.lean ====
section
/-! SUPPORT. What every command keeps: one line for each arm of the dispatch. -/

namespace Sys2Proof.Machine

set_option maxRecDepth 4096 in
theorem exec_keeps {orig s : State} (i : Instr) (h : orig.Keeps s) : orig.KeepsOut (exec i s) := by
  cases i with
  | csrWrite a0 a1 a2 a3 => exact execCsrWrite_keeps a0 a1 a2 a3 h
  | csrAccessBadSize a0 a1 a2 => exact execCsrAccessBadSize_keeps a0 a1 a2 h
  | add a0 a1 => exact execAdd_keeps a0 a1 h
  | sub a0 a1 => exact execSub_keeps a0 a1 h
  | mul a0 a1 => exact execMul_keeps a0 a1 h
  | mulhS a0 a1 => exact execMulhS_keeps a0 a1 h
  | mulhU a0 a1 => exact execMulhU_keeps a0 a1 h
  | divS a0 a1 => exact execDivS_keeps a0 a1 h
  | divU a0 a1 => exact execDivU_keeps a0 a1 h
  | remS a0 a1 => exact execRemS_keeps a0 a1 h
  | remU a0 a1 => exact execRemU_keeps a0 a1 h
  | and a0 a1 => exact execAnd_keeps a0 a1 h
  | or a0 a1 => exact execOr_keeps a0 a1 h
  | xor a0 a1 => exact execXor_keeps a0 a1 h
  | shl a0 a1 => exact execShl_keeps a0 a1 h
  | shr a0 a1 => exact execShr_keeps a0 a1 h
  | sra a0 a1 => exact execSra_keeps a0 a1 h
  | minS a0 a1 => exact execMinS_keeps a0 a1 h
  | maxS a0 a1 => exact execMaxS_keeps a0 a1 h
  | minU a0 a1 => exact execMinU_keeps a0 a1 h
  | maxU a0 a1 => exact execMaxU_keeps a0 a1 h
  | clz a0 a1 => exact execClz_keeps a0 a1 h
  | popc a0 a1 => exact execPopc_keeps a0 a1 h
  | addi a0 a1 => exact execAddi_keeps a0 a1 h
  | andi a0 a1 => exact execAndi_keeps a0 a1 h
  | ori a0 a1 => exact execOri_keeps a0 a1 h
  | xori a0 a1 => exact execXori_keeps a0 a1 h
  | shli a0 a1 => exact execShli_keeps a0 a1 h
  | shri a0 a1 => exact execShri_keeps a0 a1 h
  | srai a0 a1 => exact execSrai_keeps a0 a1 h
  | li a0 a1 => exact execLi_keeps a0 a1 h
  | lih a0 a1 => exact execLih_keeps a0 a1 h
  | faddF32 a0 a1 => exact execFaddF32_keeps a0 a1 h
  | fsubF32 a0 a1 => exact execFsubF32_keeps a0 a1 h
  | fmulF32 a0 a1 => exact execFmulF32_keeps a0 a1 h
  | ffmaF32 a0 a1 => exact execFfmaF32_keeps a0 a1 h
  | fminF32 a0 a1 => exact execFminF32_keeps a0 a1 h
  | fmaxF32 a0 a1 => exact execFmaxF32_keeps a0 a1 h
  | fcvtF32S64 a0 a1 => exact execFcvtF32S64_keeps a0 a1 h
  | fcvtS64F32 a0 a1 => exact execFcvtS64F32_keeps a0 a1 h
  | cmpEq a0 a1 => exact execCmpEq_keeps a0 a1 h
  | cmpNe a0 a1 => exact execCmpNe_keeps a0 a1 h
  | cmpLtS a0 a1 => exact execCmpLtS_keeps a0 a1 h
  | cmpLtU a0 a1 => exact execCmpLtU_keeps a0 a1 h
  | cmpLeS a0 a1 => exact execCmpLeS_keeps a0 a1 h
  | cmpLeU a0 a1 => exact execCmpLeU_keeps a0 a1 h
  | cmpiEq a0 a1 => exact execCmpiEq_keeps a0 a1 h
  | cmpiNe a0 a1 => exact execCmpiNe_keeps a0 a1 h
  | cmpiLtS a0 a1 => exact execCmpiLtS_keeps a0 a1 h
  | cmpiLtU a0 a1 => exact execCmpiLtU_keeps a0 a1 h
  | cmpiLeS a0 a1 => exact execCmpiLeS_keeps a0 a1 h
  | cmpiLeU a0 a1 => exact execCmpiLeU_keeps a0 a1 h
  | pand a0 a1 => exact execPand_keeps a0 a1 h
  | por a0 a1 => exact execPor_keeps a0 a1 h
  | pxor a0 a1 => exact execPxor_keeps a0 a1 h
  | pnot a0 a1 => exact execPnot_keeps a0 a1 h
  | fcmpEqF32 a0 a1 => exact execFcmpEqF32_keeps a0 a1 h
  | fcmpLtF32 a0 a1 => exact execFcmpLtF32_keeps a0 a1 h
  | fcmpLeF32 a0 a1 => exact execFcmpLeF32_keeps a0 a1 h
  | nop a0 a1 => exact execNop_keeps a0 a1 h
  | br a0 a1 => exact execBr_keeps a0 a1 h
  | brr a0 a1 => exact execBrr_keeps a0 a1 h
  | call a0 a1 => exact execCall_keeps a0 a1 h
  | ret a0 a1 => exact execRet_keeps a0 a1 h
  | loop a0 a1 => exact execLoop_keeps a0 a1 h
  | fence a0 a1 => exact execFence_keeps a0 a1 h
  | fenceS a0 a1 => exact execFenceS_keeps a0 a1 h
  | icinv a0 a1 => exact execIcinv_keeps a0 a1 h
  | halt a0 a1 => exact execHalt_keeps a0 a1 h
  | time a0 a1 => exact execTime_keeps a0 a1 h
  | pmcRd a0 a1 => exact execPmcRd_keeps a0 a1 h
  | hostev a0 a1 => exact execHostev_keeps a0 a1 h
  | yield a0 a1 => exact execYield_keeps a0 a1 h
  | evAdd a0 a1 => exact execEvAdd_keeps a0 a1 h
  | evSet a0 a1 => exact execEvSet_keeps a0 a1 h
  | evWait a0 a1 => exact execEvWait_keeps a0 a1 h
  | evWaitr a0 a1 => exact execEvWaitr_keeps a0 a1 h
  | evRead a0 a1 => exact execEvRead_keeps a0 a1 h
  | barCl a0 a1 => exact execBarCl_keeps a0 a1 h
  | barGrp a0 a1 => exact execBarGrp_keeps a0 a1 h
  | semAdd a0 a1 => exact execSemAdd_keeps a0 a1 h
  | semCas a0 a1 => exact execSemCas_keeps a0 a1 h
  | semWait a0 a1 => exact execSemWait_keeps a0 a1 h
  | ldU8 a0 a1 => exact execLdU8_keeps a0 a1 h
  | ldU16 a0 a1 => exact execLdU16_keeps a0 a1 h
  | ldU32 a0 a1 => exact execLdU32_keeps a0 a1 h
  | ldU64 a0 a1 => exact execLdU64_keeps a0 a1 h
  | ldS8 a0 a1 => exact execLdS8_keeps a0 a1 h
  | ldS16 a0 a1 => exact execLdS16_keeps a0 a1 h
  | ldS32 a0 a1 => exact execLdS32_keeps a0 a1 h
  | st8 a0 a1 => exact execSt8_keeps a0 a1 h
  | st16 a0 a1 => exact execSt16_keeps a0 a1 h
  | st32 a0 a1 => exact execSt32_keeps a0 a1 h
  | st64 a0 a1 => exact execSt64_keeps a0 a1 h
  | tld a0 a1 => exact execTld_keeps a0 a1 h
  | tst a0 a1 => exact execTst_keeps a0 a1 h
  | tmov a0 a1 => exact execTmov_keeps a0 a1 h
  | tzero a0 a1 => exact execTzero_keeps a0 a1 h
  | spcpy a0 a1 => exact execSpcpy_keeps a0 a1 h
  | strmIssue a0 a1 => exact execStrmIssue_keeps a0 a1 h
  | strmCancel a0 a1 => exact execStrmCancel_keeps a0 a1 h
  | strmStat a0 a1 => exact execStrmStat_keeps a0 a1 h
  | mst a0 a1 => exact execMst_keeps a0 a1 h
  | mmx a0 a1 => exact execMmx_keeps a0 a1 h
  | mmxn a0 a1 => exact execMmxn_keeps a0 a1 h
  | mmxs a0 a1 => exact execMmxs_keeps a0 a1 h
  | mmxsn a0 a1 => exact execMmxsn_keeps a0 a1 h
  | mbias a0 a1 => exact execMbias_keeps a0 a1 h
  | mmask a0 a1 => exact execMmask_keeps a0 a1 h
  | mtagRd a0 a1 => exact execMtagRd_keeps a0 a1 h
  | mtagClr a0 a1 => exact execMtagClr_keeps a0 a1 h
  | vadd a0 a1 => exact execVadd_keeps a0 a1 h
  | vsub a0 a1 => exact execVsub_keeps a0 a1 h
  | vmul a0 a1 => exact execVmul_keeps a0 a1 h
  | vfma a0 a1 => exact execVfma_keeps a0 a1 h
  | vmin a0 a1 => exact execVmin_keeps a0 a1 h
  | vmax a0 a1 => exact execVmax_keeps a0 a1 h
  | vabs a0 a1 => exact execVabs_keeps a0 a1 h
  | vneg a0 a1 => exact execVneg_keeps a0 a1 h
  | vsel a0 a1 => exact execVsel_keeps a0 a1 h
  | vcmp a0 a1 => exact execVcmp_keeps a0 a1 h
  | vact a0 a1 => exact execVact_keeps a0 a1 h
  | vdrop a0 a1 => exact execVdrop_keeps a0 a1 h
  | vrand a0 a1 => exact execVrand_keeps a0 a1 h
  | vtr a0 a1 => exact execVtr_keeps a0 a1 h
  | vred a0 a1 => exact execVred_keeps a0 a1 h
  | vfin a0 a1 => exact execVfin_keeps a0 a1 h
  | vsmax a0 a1 => exact execVsmax_keeps a0 a1 h
  | vlnorm a0 a1 => exact execVlnorm_keeps a0 a1 h
  | vcvt a0 a1 => exact execVcvt_keeps a0 a1 h
  | vunp a0 a1 => exact execVunp_keeps a0 a1 h
  | vcvtmx a0 a1 => exact execVcvtmx_keeps a0 a1 h
  | vepi a0 a1 => exact execVepi_keeps a0 a1 h
  | vepis a0 a1 => exact execVepis_keeps a0 a1 h
  | vset a0 a1 => exact execVset_keeps a0 a1 h
  | colRs a0 a1 => exact execColRs_keeps a0 a1 h
  | colAg a0 a1 => exact execColAg_keeps a0 a1 h
  | colPerm a0 a1 => exact execColPerm_keeps a0 a1 h
  | colCmt a0 a1 => exact execColCmt_keeps a0 a1 h
  | colStat a0 a1 => exact execColStat_keeps a0 a1 h
  | colAbort a0 a1 => exact execColAbort_keeps a0 a1 h
  | hatch a0 a1 => exact execHatch_keeps a0 a1 h
  | hostevF a0 a1 => exact execHostevF_keeps a0 a1 h
  | wdb a0 a1 => exact execWdb_keeps a0 a1 h
  | ctxEnter a0 a1 => exact execCtxEnter_keeps a0 a1 h
  | instructionFetch a0 => exact execInstructionFetch_keeps a0 h
  | engineQueueStart a0 a1 a2 => exact execEngineQueueStart_keeps a0 a1 a2 h
  | scalarLoadReturn a0 a1 a2 => exact execScalarLoadReturn_keeps a0 a1 a2 h
  | scalarStorePerformed a0 a1 => exact execScalarStorePerformed_keeps a0 a1 h
  | semaphoreResultReturn a0 a1 => exact execSemaphoreResultReturn_keeps a0 a1 h
  | tileMoveComplete a0 => exact execTileMoveComplete_keeps a0 h
  | eventIncrement a0 => exact execEventIncrement_keeps a0 h
  | atomicOperation a0 a1 => exact execAtomicOperation_keeps a0 a1 h
  | semWaitResend a0 a1 => exact execSemWaitResend_keeps a0 a1 h
  | clusterBarrierRelease a0 a1 => exact execClusterBarrierRelease_keeps a0 a1 h
  | barrierReleaseDelivered a0 => exact execBarrierReleaseDelivered_keeps a0 h
  | groupBarrierRelease a0 a1 => exact execGroupBarrierRelease_keeps a0 a1 h
  | contextFault a0 => exact execContextFault_keeps a0 h
  | ctxEnterTimeLimit a0 => exact execCtxEnterTimeLimit_keeps a0 h
  | ccSliceTimer a0 => exact execCcSliceTimer_keeps a0 h
  | wdbNotice a0 => exact execWdbNotice_keeps a0 h
  | mstLoadComplete a0 => exact execMstLoadComplete_keeps a0 h
  | matrixRowExit a0 a1 => exact execMatrixRowExit_keeps a0 a1 h
  | matrixBlockLand a0 => exact execMatrixBlockLand_keeps a0 h
  | spareReplay a0 a1 a2 => exact execSpareReplay_keeps a0 a1 a2 h
  | spareReplayLand a0 a1 => exact execSpareReplayLand_keeps a0 a1 h
  | ballastLevelRise a0 => exact execBallastLevelRise_keeps a0 h
  | ballastLevelFall a0 => exact execBallastLevelFall_keeps a0 h
  | vectorTileLand a0 a1 => exact execVectorTileLand_keeps a0 a1 h
  | hotRepairDrained a0 a1 => exact execHotRepairDrained_keeps a0 a1 h
  | hotRepairCopyDone a0 a1 a2 => exact execHotRepairCopyDone_keeps a0 a1 a2 h
  | patrolScrub a0 a1 => exact execPatrolScrub_keeps a0 a1 h
  | pkgHbmIlvWrite a0 a1 => exact execPkgHbmIlvWrite_keeps a0 a1 h
  | streamEntryAssign a0 => exact execStreamEntryAssign_keeps a0 h
  | streamActivate a0 => exact execStreamActivate_keeps a0 h
  | streamPiece a0 a1 => exact execStreamPiece_keeps a0 a1 h
  | streamFlushReadComplete a0 => exact execStreamFlushReadComplete_keeps a0 h
  | streamRetire a0 => exact execStreamRetire_keeps a0 h
  | streamCancelComplete a0 => exact execStreamCancelComplete_keeps a0 h
  | updStageWrite a0 a1 a2 => exact execUpdStageWrite_keeps a0 a1 a2 h
  | chunkStageAccept a0 => exact execChunkStageAccept_keeps a0 h
  | applyStart a0 => exact execApplyStart_keeps a0 h
  | blockApplyComplete a0 a1 => exact execBlockApplyComplete_keeps a0 a1 h
  | regen a0 a1 => exact execRegen_keeps a0 a1 h
  | verify a0 a1 => exact execVerify_keeps a0 a1 h
  | updCommandComplete a0 => exact execUpdCommandComplete_keeps a0 h
  | halyardOpen a0 a1 a2 => exact execHalyardOpen_keeps a0 a1 a2 h
  | halyardClose a0 a1 => exact execHalyardClose_keeps a0 a1 h
  | halyardOpenRetry a0 a1 => exact execHalyardOpenRetry_keeps a0 a1 h
  | openPennantReceive a0 a1 => exact execOpenPennantReceive_keeps a0 a1 h
  | acceptReceive a0 a1 a2 a3 => exact execAcceptReceive_keeps a0 a1 a2 a3 h
  | rejectReceive a0 a1 => exact execRejectReceive_keeps a0 a1 h
  | closeReceive a0 a1 => exact execCloseReceive_keeps a0 a1 h
  | halyardDoorbell a0 a1 a2 a3 => exact execHalyardDoorbell_keeps a0 a1 a2 a3 h
  | halyardSendStart a0 a1 => exact execHalyardSendStart_keeps a0 a1 h
  | hdataReceive a0 a1 a2 => exact execHdataReceive_keeps a0 a1 a2 h
  | halyardSendComplete a0 a1 => exact execHalyardSendComplete_keeps a0 a1 h
  | halyardRelease a0 a1 a2 => exact execHalyardRelease_keeps a0 a1 a2 h
  | hcredReceive a0 a1 a2 => exact execHcredReceive_keeps a0 a1 a2 h
  | vholdAcquire a0 a1 a2 a3 => exact execVholdAcquire_keeps a0 a1 a2 a3 h
  | vholdRelease a0 a1 a2 a3 => exact execVholdRelease_keeps a0 a1 a2 a3 h
  | fabCfgWrite a0 a1 a2 => exact execFabCfgWrite_keeps a0 a1 a2 h
  | portSignalDetect a0 a1 => exact execPortSignalDetect_keeps a0 a1 h
  | detectRepeat a0 => exact execDetectRepeat_keeps a0 h
  | laneCheckComplete a0 a1 a2 => exact execLaneCheckComplete_keeps a0 a1 a2 h
  | blockLock a0 a1 => exact execBlockLock_keeps a0 a1 h
  | rateSwitchTimer a0 => exact execRateSwitchTimer_keeps a0 h
  | identityBlockReceive a0 a1 => exact execIdentityBlockReceive_keeps a0 a1 h
  | equalisationComplete a0 => exact execEqualisationComplete_keeps a0 h
  | portActive a0 => exact execPortActive_keeps a0 h
  | rttMeasured a0 a1 => exact execRttMeasured_keeps a0 a1 h
  | linkBlockSend a0 => exact execLinkBlockSend_keeps a0 h
  | linkBlockReceive a0 a1 => exact execLinkBlockReceive_keeps a0 a1 h
  | idleBlockTimer a0 => exact execIdleBlockTimer_keeps a0 h
  | retryTimeout a0 => exact execRetryTimeout_keeps a0 h
  | portSignalLoss a0 => exact execPortSignalLoss_keeps a0 h
  | blockReceiveTimeout a0 => exact execBlockReceiveTimeout_keeps a0 h
  | retrain a0 => exact execRetrain_keeps a0 h
  | shutter a0 => exact execShutter_keeps a0 h
  | routeDimsWrite a0 a1 => exact execRouteDimsWrite_keeps a0 a1 h
  | routeSliceWrite a0 a1 => exact execRouteSliceWrite_keeps a0 a1 h
  | routePennant => exact execRoutePennant_keeps h
  | writeReceive a0 => exact execWriteReceive_keeps a0 h
  | readReceive a0 => exact execReadReceive_keeps a0 h
  | atomicReceive a0 => exact execAtomicReceive_keeps a0 h
  | responseSend => exact execResponseSend_keeps h
  | wackSend a0 => exact execWackSend_keeps a0 h
  | rdataReceive a0 => exact execRdataReceive_keeps a0 h
  | arespReceive a0 => exact execArespReceive_keeps a0 h
  | wackReceive a0 => exact execWackReceive_keeps a0 h
  | rnakReceive a0 => exact execRnakReceive_keeps a0 h
  | responseTimeout a0 => exact execResponseTimeout_keeps a0 h
  | dsetupReceive a0 a1 => exact execDsetupReceive_keeps a0 a1 h
  | dackReceive a0 => exact execDackReceive_keeps a0 h
  | dnakReceive a0 a1 => exact execDnakReceive_keeps a0 a1 h
  | dtearReceive a0 a1 a2 => exact execDtearReceive_keeps a0 a1 a2 h
  | dtearAnswerReceive a0 => exact execDtearAnswerReceive_keeps a0 h
  | colGrpWrite a0 a1 a2 a3 => exact execColGrpWrite_keeps a0 a1 a2 a3 h
  | colSubWrite a0 a1 a2 a3 => exact execColSubWrite_keeps a0 a1 a2 a3 h
  | collectiveOpen a0 a1 a2 => exact execCollectiveOpen_keeps a0 a1 a2 h
  | chunkSend a0 a1 a2 a3 => exact execChunkSend_keeps a0 a1 a2 a3 h
  | chunkReceive a0 a1 => exact execChunkReceive_keeps a0 a1 h
  | chunkCreditReceive a0 => exact execChunkCreditReceive_keeps a0 h
  | countReceive a0 => exact execCountReceive_keeps a0 h
  | collectivePark a0 a1 a2 => exact execCollectivePark_keeps a0 a1 a2 h
  | stallWatchdog a0 a1 a2 a3 => exact execStallWatchdog_keeps a0 a1 a2 a3 h
  | probeReceive a0 => exact execProbeReceive_keeps a0 h
  | abortReceive a0 a1 a2 => exact execAbortReceive_keeps a0 a1 a2 h
  | voteReady a0 a1 => exact execVoteReady_keeps a0 a1 h
  | voteTokenReceive a0 => exact execVoteTokenReceive_keeps a0 h
  | voteResultReceive a0 => exact execVoteResultReceive_keeps a0 h
  | voteResultTimeout a0 => exact execVoteResultTimeout_keeps a0 h
  | perstAssert a0 => exact execPerstAssert_keeps a0 h
  | perstRelease a0 => exact execPerstRelease_keeps a0 h
  | configSpaceReady a0 => exact execConfigSpaceReady_keeps a0 h
  | hotReset a0 a1 => exact execHotReset_keeps a0 a1 h
  | pcieLinkDown a0 a1 => exact execPcieLinkDown_keeps a0 a1 h
  | flrVf a0 a1 => exact execFlrVf_keeps a0 a1 h
  | flrPf a0 a1 => exact execFlrPf_keeps a0 a1 h
  | vfEnableClear a0 a1 => exact execVfEnableClear_keeps a0 a1 h
  | apertureWrite a0 a1 a2 a3 a4 a5 => exact execApertureWrite_keeps a0 a1 a2 a3 a4 a5 h
  | apertureRead a0 a1 a2 a3 a4 => exact execApertureRead_keeps a0 a1 a2 a3 a4 h
  | queueEnable a0 a1 a2 a3 => exact execQueueEnable_keeps a0 a1 a2 a3 h
  | sqTailDoorbell a0 a1 a2 a3 => exact execSqTailDoorbell_keeps a0 a1 a2 a3 h
  | cqHeadDoorbell a0 a1 a2 a3 => exact execCqHeadDoorbell_keeps a0 a1 a2 a3 h
  | eqHeadWrite a0 a1 a2 => exact execEqHeadWrite_keeps a0 a1 a2 h
  | commandFetch a0 a1 a2 a3 => exact execCommandFetch_keeps a0 a1 a2 a3 h
  | completionWrite a0 a1 a2 => exact execCompletionWrite_keeps a0 a1 a2 h
  | eventRecordPost a0 a1 => exact execEventRecordPost_keeps a0 a1 h
  | lostRecordPost a0 a1 => exact execLostRecordPost_keeps a0 a1 h
  | identify a0 => exact execIdentify_keeps a0 h
  | ctxAlloc a0 => exact execCtxAlloc_keeps a0 h
  | ctxFree a0 => exact execCtxFree_keeps a0 h
  | launch a0 => exact execLaunch_keeps a0 h
  | launchComplete a0 => exact execLaunchComplete_keeps a0 h
  | launchTimeLimit a0 => exact execLaunchTimeLimit_keeps a0 h
  | suspend a0 => exact execSuspend_keeps a0 h
  | suspendComplete a0 => exact execSuspendComplete_keeps a0 h
  | resume a0 => exact execResume_keeps a0 h
  | cancel a0 => exact execCancel_keeps a0 h
  | copy a0 a1 => exact execCopy_keeps a0 a1 h
  | openWindow a0 => exact execOpenWindow_keeps a0 h
  | closeWindow a0 => exact execCloseWindow_keeps a0 h
  | mapAperture a0 => exact execMapAperture_keeps a0 h
  | ccRun a0 a1 => exact execCcRun_keeps a0 a1 h
  | contextHang a0 => exact execContextHang_keeps a0 h
  | engineHang a0 a1 => exact execEngineHang_keeps a0 a1 h
  | unitHang a0 a1 => exact execUnitHang_keeps a0 a1 h
  | unitHangEscalate a0 => exact execUnitHangEscalate_keeps a0 h
  | firmwareWatchdog => exact execFirmwareWatchdog_keeps h
  | kick => exact execKick_keeps h
  | pkgRstPackage => exact execPkgRstPackage_keeps h
  | pkgRstFabric => exact execPkgRstFabric_keeps h
  | pkgRstCold => exact execPkgRstCold_keeps h
  | hatchSequence a0 => exact execHatchSequence_keeps a0 h
  | hatchComplete a0 => exact execHatchComplete_keeps a0 h
  | ctxDownReceive a0 => exact execCtxDownReceive_keeps a0 h
  | functionResetComplete a0 => exact execFunctionResetComplete_keeps a0 h
  | packageResetReady => exact execPackageResetReady_keeps h
  | errorDetection a0 => exact execErrorDetection_keeps a0 h
  | errorRecordClose a0 a1 => exact execErrorRecordClose_keeps a0 a1 h
  | historyHalving a0 => exact execHistoryHalving_keeps a0 h
  | historyFlashWrite a0 => exact execHistoryFlashWrite_keeps a0 h
  | fieldTestVisit a0 a1 => exact execFieldTestVisit_keeps a0 a1 h
  | fieldTestDone a0 a1 a2 => exact execFieldTestDone_keeps a0 a1 a2 h
  | test a0 => exact execTest_keeps a0 h
  | restore a0 a1 => exact execRestore_keeps a0 a1 h
  | clearHist a0 => exact execClearHist_keeps a0 h
  | sampleCompare a0 a1 a2 a3 => exact execSampleCompare_keeps a0 a1 a2 a3 h
  | tstInjArm a0 a1 => exact execTstInjArm_keeps a0 a1 h
  | flitCrcRetry a0 a1 => exact execFlitCrcRetry_keeps a0 a1 h
  | moduleRetrain a0 a1 a2 => exact execModuleRetrain_keeps a0 a1 a2 h
  | moduleRetrainComplete a0 a1 => exact execModuleRetrainComplete_keeps a0 a1 h
  | repairMapWrite a0 => exact execRepairMapWrite_keeps a0 h
  | tapReset => exact execTapReset_keeps h
  | tapUpdateIr a0 a1 => exact execTapUpdateIr_keeps a0 a1 h
  | wktUpdateDr a0 a1 => exact execWktUpdateDr_keeps a0 a1 h
  | wicketRead a0 a1 => exact execWicketRead_keeps a0 a1 h
  | wicketWrite a0 a1 => exact execWicketWrite_keeps a0 a1 h
  | wicketOperationComplete a0 => exact execWicketOperationComplete_keeps a0 h
  | inputRise => exact execInputRise_keeps h
  | reversedInput => exact execReversedInput_keeps h
  | railGroupUp a0 => exact execRailGroupUp_keeps a0 h
  | pwrOk a0 => exact execPwrOk_keeps a0 h
  | firmwareVerify => exact execFirmwareVerify_keeps h
  | readyAssert => exact execReadyAssert_keeps h
  | inputUndervoltage a0 => exact execInputUndervoltage_keeps a0 h
  | inputOvervoltage a0 => exact execInputOvervoltage_keeps a0 h
  | inputOvercurrent a0 => exact execInputOvercurrent_keeps a0 h
  | inputSwitchShort a0 => exact execInputSwitchShort_keeps a0 h
  | railStartFail a0 a1 => exact execRailStartFail_keeps a0 a1 h
  | railUndervoltage a0 a1 => exact execRailUndervoltage_keeps a0 a1 h
  | railOvervoltage a0 a1 => exact execRailOvervoltage_keeps a0 a1 h
  | railOvercurrent a0 a1 => exact execRailOvercurrent_keeps a0 a1 h
  | dieOverTemperature a0 a1 => exact execDieOverTemperature_keeps a0 a1 h
  | hbmOverTemperature a0 a1 => exact execHbmOverTemperature_keeps a0 a1 h
  | coolantTemperatureTrip a0 => exact execCoolantTemperatureTrip_keeps a0 h
  | coolantFlowTrip a0 => exact execCoolantFlowTrip_keeps a0 h
  | converterOverTemperature a0 a1 => exact execConverterOverTemperature_keeps a0 a1 h
  | pmLinkTrip => exact execPmLinkTrip_keeps h
  | pwrFail => exact execPwrFail_keeps h
  | tripRestart a0 a1 => exact execTripRestart_keeps a0 a1 h
  | senseOpen a0 => exact execSenseOpen_keeps a0 h
  | droop a0 a1 => exact execDroop_keeps a0 a1 h
  | droopRecovery a0 => exact execDroopRecovery_keeps a0 h
  | pmLinkMessage a0 => exact execPmLinkMessage_keeps a0 h
  | pmLinkSilent => exact execPmLinkSilent_keeps h
  | powerCapEvaluation => exact execPowerCapEvaluation_keeps h
  | peakEvaluation => exact execPeakEvaluation_keeps h
  | railCurrentDemand a0 a1 => exact execRailCurrentDemand_keeps a0 a1 h
  | thermalDemandEvaluation a0 => exact execThermalDemandEvaluation_keeps a0 h
  | coolantDemand a0 a1 => exact execCoolantDemand_keeps a0 a1 h
  | pwrLouvreWrite a0 a1 => exact execPwrLouvreWrite_keeps a0 a1 h
  | louvreChangeComplete a0 => exact execLouvreChangeComplete_keeps a0 h
  | powerRecord a0 => exact execPowerRecord_keeps a0 h
  | sensorRefresh a0 => exact execSensorRefresh_keeps a0 h
  | doeDiscovery a0 a1 a2 => exact execDoeDiscovery_keeps a0 a1 a2 h
  | quote a0 a1 a2 a3 a4 a5 => exact execQuote_keeps a0 a1 a2 a3 a4 a5 h
  | debugUnlock a0 a1 a2 => exact execDebugUnlock_keeps a0 a1 a2 h
  | image a0 a1 a2 a3 => exact execImage_keeps a0 a1 a2 a3 h
  | idCert a0 a1 => exact execIdCert_keeps a0 a1 h
  | rekey a0 a1 a2 => exact execRekey_keeps a0 a1 a2 h
  | idKeyCacheReady => exact execIdKeyCacheReady_keeps h
  | relock => exact execRelock_keeps h
  | secMeasExtend a0 => exact execSecMeasExtend_keeps a0 h
  | phaseStartMark a0 a1 => exact execPhaseStartMark_keeps a0 a1 h
  | phaseEndMark a0 a1 => exact execPhaseEndMark_keeps a0 a1 h
  | pmcCounterWrap a0 a1 a2 => exact execPmcCounterWrap_keeps a0 a1 a2 h
  | telemetryRefresh => exact execTelemetryRefresh_keeps h
  | i3cPrivateWrite a0 => exact execI3cPrivateWrite_keeps a0 h
  | i3cPrivateRead a0 => exact execI3cPrivateRead_keeps a0 h
  | i3cEntdaa a0 => exact execI3cEntdaa_keeps a0 h
  | i3cSetdasa a0 a1 => exact execI3cSetdasa_keeps a0 a1 h
  | ppsEdge => exact execPpsEdge_keeps h
  | pcieLinkUp a0 a1 a2 a3 a4 => exact execPcieLinkUp_keeps a0 a1 a2 a3 a4 h
  | vfEnableSet a0 a1 a2 => exact execVfEnableSet_keeps a0 a1 a2 h
  | icacheRecurrenceWindow a0 => exact execIcacheRecurrenceWindow_keeps a0 h

end Sys2Proof.Machine
end

