-- ==== Sys2Proof/WellFormed.lean ====
section
/-! DEFINITION. Well-formed commands: the operands that an arrival from outside can have. -/

namespace Sys2Proof

/-- The core is a compute core. -/
def CoreId.isCmp : CoreId → Bool
  | .cmp _ _ _ => true
  | .ctl _ => false

/-- The offset lies in CSR space, or for a host in BAR0, at a multiple of 8 (R5, R476). -/
def csrOffOk (who : Who) (off : Nat) : Bool :=
  off % 8 == 0 && (match who with | .ctx _ => decide (off < 0x10000000) | .host _ _ => decide (off < 0x80000))

/-- A host brings at most `n` bytes. -/
def HostReply.fits (h : HostReply) (n : Nat) : Bool :=
  match h with
  | .nothing => true
  | .data bs => decide (bs.length ≤ n)
  | .poisoned bs => decide (bs.length ≤ n)
  | .error => true

/-- An upset lies in the array of 128 rows and 128 columns (R158). -/
def Upset.ok (u : Upset) : Bool := decide (u.row < 130) && decide (u.col < 130)

/-- A command that can arrive. (log 8, DESIGN CHOICE) (log 9, DESIGN CHOICE) -/
def Instr.wf (i : Instr) : Bool :=
  match i with
  | .csrWrite who off _ _ => csrOffOk who off
  | .csrAccessBadSize _ off _ => decide (off < 0x10000000)
  | .add _ _ => true
  | .sub _ _ => true
  | .mul _ _ => true
  | .mulhS _ _ => true
  | .mulhU _ _ => true
  | .divS _ _ => true
  | .divU _ _ => true
  | .remS _ _ => true
  | .remU _ _ => true
  | .and _ _ => true
  | .or _ _ => true
  | .xor _ _ => true
  | .shl _ _ => true
  | .shr _ _ => true
  | .sra _ _ => true
  | .minS _ _ => true
  | .maxS _ _ => true
  | .minU _ _ => true
  | .maxU _ _ => true
  | .clz _ _ => true
  | .popc _ _ => true
  | .addi _ _ => true
  | .andi _ _ => true
  | .ori _ _ => true
  | .xori _ _ => true
  | .shli _ _ => true
  | .shri _ _ => true
  | .srai _ _ => true
  | .li _ _ => true
  | .lih _ _ => true
  | .faddF32 _ _ => true
  | .fsubF32 _ _ => true
  | .fmulF32 _ _ => true
  | .ffmaF32 _ _ => true
  | .fminF32 _ _ => true
  | .fmaxF32 _ _ => true
  | .fcvtF32S64 _ _ => true
  | .fcvtS64F32 _ _ => true
  | .cmpEq _ _ => true
  | .cmpNe _ _ => true
  | .cmpLtS _ _ => true
  | .cmpLtU _ _ => true
  | .cmpLeS _ _ => true
  | .cmpLeU _ _ => true
  | .cmpiEq _ _ => true
  | .cmpiNe _ _ => true
  | .cmpiLtS _ _ => true
  | .cmpiLtU _ _ => true
  | .cmpiLeS _ _ => true
  | .cmpiLeU _ _ => true
  | .pand _ _ => true
  | .por _ _ => true
  | .pxor _ _ => true
  | .pnot _ _ => true
  | .fcmpEqF32 _ _ => true
  | .fcmpLtF32 _ _ => true
  | .fcmpLeF32 _ _ => true
  | .nop _ _ => true
  | .br _ _ => true
  | .brr _ _ => true
  | .call _ _ => true
  | .ret _ _ => true
  | .loop _ _ => true
  | .fence _ _ => true
  | .fenceS _ _ => true
  | .icinv _ _ => true
  | .halt _ _ => true
  | .time _ _ => true
  | .pmcRd _ _ => true
  | .hostev _ _ => true
  | .yield _ _ => true
  | .evAdd _ _ => true
  | .evSet _ _ => true
  | .evWait _ _ => true
  | .evWaitr _ _ => true
  | .evRead _ _ => true
  | .barCl _ _ => true
  | .barGrp _ _ => true
  | .semAdd _ _ => true
  | .semCas _ _ => true
  | .semWait _ _ => true
  | .ldU8 _ _ => true
  | .ldU16 _ _ => true
  | .ldU32 _ _ => true
  | .ldU64 _ _ => true
  | .ldS8 _ _ => true
  | .ldS16 _ _ => true
  | .ldS32 _ _ => true
  | .st8 _ _ => true
  | .st16 _ _ => true
  | .st32 _ _ => true
  | .st64 _ _ => true
  | .tld _ _ => true
  | .tst _ _ => true
  | .tmov _ _ => true
  | .tzero _ _ => true
  | .spcpy _ _ => true
  | .strmIssue _ _ => true
  | .strmCancel _ _ => true
  | .strmStat _ _ => true
  | .mst _ _ => true
  | .mmx _ _ => true
  | .mmxn _ _ => true
  | .mmxs _ _ => true
  | .mmxsn _ _ => true
  | .mbias _ _ => true
  | .mmask _ _ => true
  | .mtagRd _ _ => true
  | .mtagClr _ _ => true
  | .vadd _ _ => true
  | .vsub _ _ => true
  | .vmul _ _ => true
  | .vfma _ _ => true
  | .vmin _ _ => true
  | .vmax _ _ => true
  | .vabs _ _ => true
  | .vneg _ _ => true
  | .vsel _ _ => true
  | .vcmp _ _ => true
  | .vact _ _ => true
  | .vdrop _ _ => true
  | .vrand _ _ => true
  | .vtr _ _ => true
  | .vred _ _ => true
  | .vfin _ _ => true
  | .vsmax _ _ => true
  | .vlnorm _ _ => true
  | .vcvt _ _ => true
  | .vunp _ _ => true
  | .vcvtmx _ _ => true
  | .vepi _ _ => true
  | .vepis _ _ => true
  | .vset _ _ => true
  | .colRs _ _ => true
  | .colAg _ _ => true
  | .colPerm _ _ => true
  | .colCmt _ _ => true
  | .colStat _ _ => true
  | .colAbort _ _ => true
  | .hatch _ _ => true
  | .hostevF _ _ => true
  | .wdb _ _ => true
  | .ctxEnter _ _ => true
  | .instructionFetch _ => true
  | .engineQueueStart _ _ _ => true
  | .scalarLoadReturn _ _ h => h.fits 8
  | .scalarStorePerformed _ _ => true
  | .semaphoreResultReturn _ _ => true
  | .tileMoveComplete _ => true
  | .eventIncrement _ => true
  | .atomicOperation _ _ => true
  | .semWaitResend _ _ => true
  | .clusterBarrierRelease _ _ => true
  | .barrierReleaseDelivered _ => true
  | .groupBarrierRelease _ _ => true
  | .contextFault _ => true
  | .ctxEnterTimeLimit _ => true
  | .ccSliceTimer _ => true
  | .wdbNotice _ => true
  | .mstLoadComplete _ => true
  | .matrixRowExit _ u => u.all Upset.ok
  | .matrixBlockLand _ => true
  | .spareReplay _ _ u => u.all Upset.ok
  | .spareReplayLand _ _ => true
  | .ballastLevelRise _ => true
  | .ballastLevelFall _ => true
  | .vectorTileLand _ _ => true
  | .hotRepairDrained _ _ => true
  | .hotRepairCopyDone _ _ _ => true
  | .patrolScrub _ _ => true
  | .pkgHbmIlvWrite _ _ => true
  | .streamEntryAssign _ => true
  | .streamActivate _ => true
  | .streamPiece _ h => h.fits 4096
  | .streamFlushReadComplete _ => true
  | .streamRetire _ => true
  | .streamCancelComplete _ => true
  | .updStageWrite _ _ _ => true
  | .chunkStageAccept _ => true
  | .applyStart _ => true
  | .blockApplyComplete _ b => decide (b < 32768)
  | .regen _ b => decide (b < 32768)
  | .verify _ b => decide (b < 32768)
  | .updCommandComplete _ => true
  | .halyardOpen _ _ _ => true
  | .halyardClose _ _ => true
  | .halyardOpenRetry _ _ => true
  | .openPennantReceive _ _ => true
  | .acceptReceive _ _ _ _ => true
  | .rejectReceive _ _ => true
  | .closeReceive _ _ => true
  | .halyardDoorbell _ _ _ _ => true
  | .halyardSendStart _ _ => true
  | .hdataReceive _ _ _ => true
  | .halyardSendComplete _ _ => true
  | .halyardRelease _ _ n => decide (n < 65536)
  | .hcredReceive _ _ _ => true
  | .vholdAcquire _ _ _ t => decide (t < 256)
  | .vholdRelease _ _ _ t => decide (t < 256)
  | .fabCfgWrite _ _ _ => true
  | .portSignalDetect _ _ => true
  | .detectRepeat _ => true
  | .laneCheckComplete _ _ _ => true
  | .blockLock _ _ => true
  | .rateSwitchTimer _ => true
  | .identityBlockReceive _ i => i.laneOf.length == 8
  | .equalisationComplete _ => true
  | .portActive _ => true
  | .rttMeasured _ _ => true
  | .linkBlockSend _ => true
  | .linkBlockReceive _ lanes => lanes.length == 8
  | .idleBlockTimer _ => true
  | .retryTimeout _ => true
  | .portSignalLoss _ => true
  | .blockReceiveTimeout _ => true
  | .retrain _ => true
  | .shutter _ => true
  | .routeDimsWrite _ _ => true
  | .routeSliceWrite _ _ => true
  | .routePennant => true
  | .writeReceive _ => true
  | .readReceive _ => true
  | .atomicReceive _ => true
  | .responseSend => true
  | .wackSend _ => true
  | .rdataReceive _ => true
  | .arespReceive _ => true
  | .wackReceive _ => true
  | .rnakReceive _ => true
  | .responseTimeout _ => true
  | .dsetupReceive _ m => decide (m.path.length ≤ 9)
  | .dackReceive _ => true
  | .dnakReceive _ _ => true
  | .dtearReceive _ _ n => decide (n < 65536)
  | .dtearAnswerReceive _ => true
  | .colGrpWrite _ _ _ _ => true
  | .colSubWrite _ _ _ _ => true
  | .collectiveOpen _ _ _ => true
  | .chunkSend _ _ _ r => decide (r < 32768)
  | .chunkReceive _ _ => true
  | .chunkCreditReceive _ => true
  | .countReceive _ => true
  | .collectivePark _ _ _ => true
  | .stallWatchdog _ _ _ _ => true
  | .probeReceive _ => true
  | .abortReceive _ _ c => decide (c < 16)
  | .voteReady _ _ => true
  | .voteTokenReceive _ => true
  | .voteResultReceive _ => true
  | .voteResultTimeout _ => true
  | .perstAssert _ => true
  | .perstRelease _ => true
  | .configSpaceReady _ => true
  | .hotReset _ _ => true
  | .pcieLinkDown _ _ => true
  | .flrVf _ _ => true
  | .flrPf _ _ => true
  | .vfEnableClear _ _ => true
  | .apertureWrite _ _ _ _ bs _ => !bs.isEmpty && decide (bs.length ≤ 4096)
  | .apertureRead _ _ _ _ n => decide (1 ≤ n) && decide (n ≤ 4096)
  | .queueEnable _ _ _ _ => true
  | .sqTailDoorbell _ _ _ _ => true
  | .cqHeadDoorbell _ _ _ _ => true
  | .eqHeadWrite _ _ _ => true
  | .commandFetch _ _ _ e => e.length == 8
  | .completionWrite _ _ _ => true
  | .eventRecordPost _ _ => true
  | .lostRecordPost _ _ => true
  | .identify _ => true
  | .ctxAlloc _ => true
  | .ctxFree _ => true
  | .launch _ => true
  | .launchComplete _ => true
  | .launchTimeLimit _ => true
  | .suspend _ => true
  | .suspendComplete _ => true
  | .resume _ => true
  | .cancel _ => true
  | .copy _ d => d.length == 8
  | .openWindow _ => true
  | .closeWindow _ => true
  | .mapAperture _ => true
  | .ccRun _ _ => true
  | .contextHang _ => true
  | .engineHang _ _ => true
  | .unitHang _ _ => true
  | .unitHangEscalate _ => true
  | .firmwareWatchdog => true
  | .kick => true
  | .pkgRstPackage => true
  | .pkgRstFabric => true
  | .pkgRstCold => true
  | .hatchSequence _ => true
  | .hatchComplete _ => true
  | .ctxDownReceive _ => true
  | .functionResetComplete _ => true
  | .packageResetReady => true
  | .errorDetection _ => true
  | .errorRecordClose _ _ => true
  | .historyHalving _ => true
  | .historyFlashWrite _ => true
  | .fieldTestVisit _ _ => true
  | .fieldTestDone _ _ _ => true
  | .test _ => true
  | .restore _ _ => true
  | .clearHist _ => true
  | .sampleCompare _ _ a b => a.upset.all Upset.ok && b.upset.all Upset.ok
  | .tstInjArm _ _ => true
  | .flitCrcRetry _ _ => true
  | .moduleRetrain _ _ _ => true
  | .moduleRetrainComplete _ _ => true
  | .repairMapWrite _ => true
  | .tapReset => true
  | .tapUpdateIr _ _ => true
  | .wktUpdateDr _ _ => true
  | .wicketRead _ _ => true
  | .wicketWrite _ _ => true
  | .wicketOperationComplete _ => true
  | .inputRise => true
  | .reversedInput => true
  | .railGroupUp _ => true
  | .pwrOk _ => true
  | .firmwareVerify => true
  | .readyAssert => true
  | .inputUndervoltage mv => decide (mv < 65536)
  | .inputOvervoltage mv => decide (mv < 65536)
  | .inputOvercurrent a => decide (a < 65536)
  | .inputSwitchShort a => decide (a < 65536)
  | .railStartFail _ mv => decide (mv < 65536)
  | .railUndervoltage _ mv => decide (mv < 65536)
  | .railOvervoltage _ mv => decide (mv < 65536)
  | .railOvercurrent _ a => decide (a < 65536)
  | .dieOverTemperature _ _ => true
  | .hbmOverTemperature _ _ => true
  | .coolantTemperatureTrip _ => true
  | .coolantFlowTrip _ => true
  | .converterOverTemperature _ _ => true
  | .pmLinkTrip => true
  | .pwrFail => true
  | .tripRestart _ _ => true
  | .senseOpen _ => true
  | .droop _ _ => true
  | .droopRecovery _ => true
  | .pmLinkMessage _ => true
  | .pmLinkSilent => true
  | .powerCapEvaluation => true
  | .peakEvaluation => true
  | .railCurrentDemand _ _ => true
  | .thermalDemandEvaluation t => t.tj.length == 4 && t.thbm.length == 12
  | .coolantDemand _ _ => true
  | .pwrLouvreWrite _ _ => true
  | .louvreChangeComplete _ => true
  | .powerRecord _ => true
  | .sensorRefresh m => m.tj.length == 4 && m.thbm.length == 12 && m.rails.length == 16
  | .doeDiscovery _ _ i => decide (i < 256)
  | .quote _ _ _ _ _ _ => true
  | .debugUnlock _ _ _ => true
  | .image _ _ off bs => decide (off + bs.length ≤ 0x4000000)
  | .idCert _ _ => true
  | .rekey _ _ _ => true
  | .idKeyCacheReady => true
  | .relock => true
  | .secMeasExtend _ => true
  | .phaseStartMark _ _ => true
  | .phaseEndMark _ _ => true
  | .pmcCounterWrap c _ _ => c.isCmp
  | .telemetryRefresh => true
  | .i3cPrivateWrite bs => !bs.isEmpty
  | .i3cPrivateRead n => decide (1 ≤ n)
  | .i3cEntdaa _ => true
  | .i3cSetdasa _ _ => true
  | .ppsEdge => true
  | .pcieLinkUp _ _ _ _ _ => true
  | .vfEnableSet _ _ n => decide (n < 65536)
  | .icacheRecurrenceWindow _ => true

end Sys2Proof
end

