-- ==== Sys2Proof/Tests/Slice0.lean ====
section
/-! SUPPORT. The model's own tests: ill-formed commands are refused, and for each statement a state and operands that meet its hypotheses. -/

namespace Sys2Proof.Tests

open Sys2Proof Sys2Proof.Machine
set_option Elab.async false

/-! Ill-formed commands: one for each check of `Instr.wf`. -/

def ident8 : Identity := ⟨0, 0, 0, 0, 0, [0, 1, 2, 3, 4, 5, 6, 7], 0, 0, true, false⟩

theorem test_wf_csr : Instr.wf (.csrWrite (.ctx 0) 4 .w64 0) = false ∧ Instr.wf (.csrWrite (.ctx 0) 0x10000000 .w64 0) = false ∧
    Instr.wf (.csrWrite (.host 0 0) 0x80000 .w64 0) = false ∧ Instr.wf (.csrAccessBadSize (.ctx 0) 0x10000000 true) = false ∧
    Instr.wf (.csrWrite (.host 0 0) 0x7FFF8 .w64 0) = true := by decide

theorem test_wf_lists : Instr.wf (.scalarLoadReturn (.ctl 0) 0 (.data (zeroBytes 9))) = false ∧
    Instr.wf (.streamPiece 0 (.poisoned (zeroBytes 4097))) = false ∧ Instr.wf (.matrixRowExit (.ctl 0) [⟨130, 0, 0⟩]) = false ∧
    Instr.wf (.spareReplay 0 0 [⟨0, 130, 0⟩]) = false ∧ Instr.wf (.sampleCompare 0 0 ⟨[⟨130, 0, 0⟩]⟩ ⟨[]⟩) = false ∧
    Instr.wf (.identityBlockReceive 0 { ident8 with laneOf := [0] }) = false ∧ Instr.wf (.linkBlockReceive 0 (List.replicate 7 [])) = false ∧
    Instr.wf (.dsetupReceive 0 ⟨0, 0, 0, List.replicate 10 0⟩) = false ∧ Instr.wf (.commandFetch 0 0 0 []) = false ∧
    Instr.wf (.copy ⟨0, 0, 0⟩ []) = false ∧ Instr.wf (.identityBlockReceive 0 ident8) = true := by decide +kernel

theorem test_wf_numbers : Instr.wf (.blockApplyComplete 0 32768) = false ∧ Instr.wf (.regen 0 32768) = false ∧ Instr.wf (.verify 0 32768) = false ∧
    Instr.wf (.halyardRelease 0 0 65536) = false ∧ Instr.wf (.vholdAcquire (.ctl 0) 0 0 256) = false ∧ Instr.wf (.vholdRelease (.ctl 0) 0 0 256) = false ∧
    Instr.wf (.dtearReceive 0 0 65536) = false ∧ Instr.wf (.chunkSend 0 0 0 32768) = false ∧ Instr.wf (.abortReceive 0 0 16) = false ∧
    Instr.wf (.pmcCounterWrap (.ctl 0) 0 1) = false ∧ Instr.wf (.vfEnableSet 0 .a 65536) = false ∧ Instr.wf (.verify 0 32767) = true := by decide +kernel

theorem test_wf_sizes : Instr.wf (.apertureWrite 0 0 0 0 [] false) = false ∧ Instr.wf (.apertureWrite 0 0 0 0 (zeroBytes 4097) false) = false ∧
    Instr.wf (.apertureRead 0 0 0 0 0) = false ∧ Instr.wf (.apertureRead 0 0 0 0 4097) = false ∧ Instr.wf (.doeDiscovery 0 .a 256) = false ∧
    Instr.wf (.image 0 .a 0x4000000 [0]) = false ∧ Instr.wf (.i3cPrivateWrite []) = false ∧ Instr.wf (.i3cPrivateRead 0) = false ∧
    Instr.wf (.apertureRead 0 0 0 0 4096) = true := by decide +kernel

theorem test_wf_readings : Instr.wf (.inputUndervoltage 65536) = false ∧ Instr.wf (.inputOvervoltage 65536) = false ∧
    Instr.wf (.inputOvercurrent 65536) = false ∧ Instr.wf (.inputSwitchShort 65536) = false ∧ Instr.wf (.railStartFail 0 65536) = false ∧
    Instr.wf (.railUndervoltage 0 65536) = false ∧ Instr.wf (.railOvervoltage 0 65536) = false ∧ Instr.wf (.railOvercurrent 0 65536) = false ∧
    Instr.wf (.thermalDemandEvaluation ⟨[], [], 0, false⟩) = false ∧ Instr.wf (.thermalDemandEvaluation ⟨List.replicate 4 0, [], 0, false⟩) = false ∧
    Instr.wf (.sensorRefresh Sensors.reset) = false ∧ Instr.wf (.inputUndervoltage 65535) = true := by decide +kernel

/-! Words, cores and states that the witnesses use. -/

def bI (d a imm : Nat) : Body := BitVec.ofNat 52 (put d 41 + put a 35 + imm)
def bR (d a b c : Nat) : Body := BitVec.ofNat 52 (put d 41 + put a 35 + put b 29 + put c 23)
def bP (pd a b pa pb : Nat) : Body := BitVec.ofNat 52 (put pd 43 + put a 35 + put b 29 + put pa 25 + put pb 21)
def bE (e r n : Nat) : Body := BitVec.ofNat 52 (put e 39 + put r 33 + n)
def bS (d a b c eve ev : Nat) : Body := BitVec.ofNat 52 (put d 41 + put a 35 + put b 29 + put c 23 + put eve 22 + put ev 14)
def bT (td ta tb tc md : Nat) : Body := BitVec.ofNat 52 (put td 40 + put ta 33 + put tb 26 + put tc 19 + md)
def bTS (td a b c md : Nat) : Body := BitVec.ofNat 52 (put td 40 + put a 34 + put b 28 + put c 22 + md)
/-- The same word under a guard that does not hold: the negation of p0. -/
def offGuard (b : Body) : Body := b + BitVec.ofNat 52 (put 1 47)

def cA : CoreId := .cmp 0 0 0
def cF : CoreId := .ctl 0
def cAreg : Core :=
  { Core.reset with ctx := 1, run := .running, pc := 0x1000, s := [(1, 0x1008), (2, 3), (3, 0xFFFFFFFFFFFFFFFF), (4, 0x1004), (5, 0x010000000040), (6, 1)] }
def cFreg : Core := { cAreg with ctx := 0 }
/-- A running compute core of context 1 and a control core of firmware. -/
def sA : State := { State.reset with cores := [(0, cAreg), (0x1000, cFreg)] }

def runsB (cid : CoreId) (i : Ins) (b : Body) (s : State) : Bool :=
  (s.core (coreKey cid)).canDispatch i b && !s.repairing (coreKey cid) && !illegalWord (isCtl (coreKey cid)) i.cls i.op i.fm b &&
    !illegalFields i.cls i.fm i.used b && (s.core (coreKey cid)).guard b
theorem runs_of {cid : CoreId} {i : Ins} {b : Body} {s : State} (h : runsB cid i b s = true) : Runs cid i b s := by
  simp [runsB] at h
  exact ⟨h.1.1.1.1, h.1.1.1.2, h.1.1.2, h.1.2, h.2⟩

theorem test_wit_queue : (({ sA with pending := [.kick] } : State).pending = [.kick]) ∧ sA.Sound ∧ step sA = .next sA.tick :=
  ⟨rfl, show sA.mem.wf = true by decide +kernel, rfl⟩
theorem test_wit_integer : intRule (.lih cA (bI 2 0 0xFFFFFFFF)) = some (cA, bI 2 0 0xFFFFFFFF, ⟨0x1, 0x21, .i, [0]⟩, fun d _ y => BitVec.ofNat 64 (y.fld 0 32 * 2 ^ 32 + d.fld 0 32)) ∧
    Runs cA ⟨0x1, 0x21, .i, [0]⟩ (bI 2 0 0xFFFFFFFF) sA ∧ Runs cA ⟨0x0, 0x05, .r, [0, 1, 2]⟩ (bR 63 1 2 0) sA :=
  ⟨rfl, runs_of (by decide +kernel), runs_of (by decide +kernel)⟩
theorem test_wit_compare : cmpRule (.cmpEq cA (bP 0 1 2 0 0)) = some (cA, bP 0 1 2 0 0, ⟨0x3, 0x00, .p, [0, 1, 2]⟩, fun x y => decide (x = y)) ∧
    Runs cA ⟨0x3, 0x00, .p, [0, 1, 2]⟩ (bP 0 1 2 0 0) sA ∧ Runs cA ⟨0x3, 0x00, .p, [0, 1, 2]⟩ (bP 15 1 1 0 0) sA ∧
    predRule (.pnot cA (bP 3 0 0 0 0)) = some (cA, bP 3 0 0 0 0, ⟨0x3, 0x13, .p, [0, 3]⟩, fun x _ => !x) ∧
    Runs cA ⟨0x3, 0x13, .p, [0, 3]⟩ (bP 3 0 0 0 0) sA := ⟨rfl, runs_of (by decide +kernel), runs_of (by decide +kernel), rfl, runs_of (by decide +kernel)⟩
theorem test_wit_fp : (∃ f, fpRule (.ffmaF32 cA (bR 5 1 2 3)) = some (cA, bR 5 1 2 3, ⟨0x2, 0x03, .r, [0, 1, 2, 3]⟩, f)) ∧
    Runs cA ⟨0x2, 0x03, .r, [0, 1, 2, 3]⟩ (bR 5 1 2 3) sA := ⟨⟨_, rfl⟩, runs_of (by decide +kernel)⟩
theorem test_wit_guard : (sA.core 0).canDispatch ⟨0x0, 0x00, .r, [0, 1, 2]⟩ (offGuard (bR 1 2 3 0)) = true ∧ sA.repairing 0 = false ∧
    illegalWord false 0x0 0x00 .r (offGuard (bR 1 2 3 0)) = false ∧ illegalFields 0x0 .r [0, 1, 2] (offGuard (bR 1 2 3 0)) = false ∧
    (sA.core 0).guard (offGuard (bR 1 2 3 0)) = false ∧ sA.hatching 1 = false ∧ illegalWord false 0x0 0x00 .r (bR 1 2 3 0 + 1) = true ∧
    illegalFields 0x0 .r [0, 1, 2] (bR 1 2 3 1) = true := by decide +kernel
theorem test_wit_control : Runs cA ⟨0x4, 0x00, .i, []⟩ 0 sA ∧ Runs cA ⟨0x4, 0x01, .i, []⟩ (bI 0 0 0xFFFFFFFF) sA ∧
    Runs cA ⟨0x4, 0x02, .i, [1]⟩ (bI 0 1 0) sA ∧ Runs cA ⟨0x4, 0x03, .i, [0]⟩ (bI 3 0 0x80000000) sA ∧ Runs cA ⟨0x4, 0x04, .i, [1]⟩ (bI 0 1 0) sA ∧
    Runs cA ⟨0x4, 0x05, .i, [1]⟩ (bI 0 6 5) sA ∧ ((sA.core 0).reg 1).toNat % 8 = 0 := by
  refine ⟨?_, ?_, ?_, ?_, ?_, ?_, by decide +kernel⟩ <;> exact runs_of (by decide +kernel)
def sEv : State := { sA with cores := [(0, { cAreg with ev := [(255, 0xFFFF)] }), (0x1000, { cFreg with ctx := 1 })] }
theorem test_wit_dispatch_faults : Runs cA ⟨0x4, 0x02, .i, [1]⟩ (bI 0 4 0) sA ∧ ((sA.core 0).reg 4).toNat % 8 ≠ 0 ∧ sA.hatching 1 = false ∧
    Runs cA ⟨0x5, 0x00, .e, [0]⟩ (bE 255 0 1) sEv ∧ 0xFFFF < (sEv.core 0).event 255 + 1 ∧ Runs cA ⟨0x5, 0x00, .e, [0]⟩ (bE 0 0 256) sEv ∧
    Runs cA ⟨0x5, 0x00, .e, [0]⟩ (bE 0 0 0) sEv ∧ (sEv.core 0x1000).canDispatch ⟨0xE, 0x00, .s, [1]⟩ (bS 0 2 0 0 0 0) = true ∧
    (sEv.core 0x1000).guard (bS 0 2 0 0 0 0) = true ∧ sEv.portBusy 0x1000 0 = false ∧
    illegalWord true 0xE 0x00 .s (bS 0 2 0 0 0 0) = false ∧ (sEv.core 0x1000).ctx ≠ 0 ∧ sEv.repairing 0x1000 = false ∧ sEv.hatching 1 = false := by
  refine ⟨runs_of (by decide +kernel), by decide +kernel, by decide +kernel, runs_of (by decide +kernel), by decide +kernel, runs_of (by decide +kernel),
    runs_of (by decide +kernel), ?_⟩
  decide +kernel
def sY : State := { sA with cores := [(0, cAreg), (0x1000, { cFreg with ctx := 2 })], ccRegs := [(0, { Core.reset with hold := .ctxEnter 2 7 none })] }
theorem test_wit_fences : Runs cA ⟨0x4, 0x08, .i, []⟩ 0 sA ∧ Runs cA ⟨0x4, 0x09, .i, []⟩ 0 sA ∧ Runs cA ⟨0x4, 0x0A, .i, []⟩ 0 sA ∧
    Runs cA ⟨0x4, 0x0C, .i, []⟩ 0 sA ∧ Runs cA ⟨0x4, 0x10, .i, [0]⟩ (bI 9 0 0) sA ∧ Runs cF ⟨0x4, 0x11, .i, [0]⟩ (bI 9 0 8) sA ∧
    Runs cF ⟨0x4, 0x13, .i, []⟩ 0 sA ∧ Runs cF ⟨0x4, 0x13, .i, []⟩ 0 sY ∧ (sY.core 0x1000).ctx ≠ 0 ∧
    (tget Core.reset sY.ccRegs 0).hold = .ctxEnter 2 7 none := by
  refine ⟨?_, ?_, ?_, ?_, ?_, ?_, ?_, ?_, by decide +kernel, by decide +kernel⟩ <;> exact runs_of (by decide +kernel)
theorem test_wit_events : Runs cA ⟨0x5, 0x00, .e, [0]⟩ (bE 0 0 255) sEv ∧ Runs cA ⟨0x5, 0x01, .e, [0]⟩ (bE 255 0 0) sEv ∧
    Runs cA ⟨0x5, 0x02, .e, [0]⟩ (bE 255 0 0xFFFF) sEv ∧ Runs cA ⟨0x5, 0x03, .e, [0, 1]⟩ (bE 0 2 0) sEv ∧ Runs cA ⟨0x5, 0x04, .e, [0, 1]⟩ (bE 255 2 0) sEv ∧
    Runs cA ⟨0x5, 0x08, .e, []⟩ 0 sEv ∧ Runs cA ⟨0x5, 0x09, .e, []⟩ 0 sEv ∧ (sEv.core 0).event 0 + 255 ≤ 0xFFFF := by
  refine ⟨?_, ?_, ?_, ?_, ?_, ?_, ?_, by decide +kernel⟩ <;> exact runs_of (by decide +kernel)

/-! Firmware forms, memory accesses, engine queues. -/

/-- Context 1 holds cluster 0 and is bound to function 0 of port 0; a notice waits; an event queue is enabled. -/
def sB : State :=
  ({ sA with
    clusters := [(0, { Cluster.reset with holder := some 1 })], ctxs := [(1, { Ctx.reset with st := .running, bound := true })], notices := [7],
    windows := [(0, ⟨1, 0, 0, 0x8000, 0x1000, true, true⟩)] } : State).setFld (HST_EQ_CFG.off 0 0) HST_EQ_CFG.EN 1
/-- The word of a firmware form: sources s1 to s3. -/
def sBr (c : Core) (r : Tbl Word) : Core := { c with s := r }
def sC : State := { sB with cores := [(0, sBr cAreg [(1, 0x020000000040), (2, 0x020000000040), (3, 0x0001020000000040), (4, 0x400000000010)]), (0x1000, sBr cFreg [(1, 0x020000000040), (2, 0), (3, 5), (4, 1), (5, 0x1000)])] }

theorem test_wit_firmware : Runs cF ⟨0xE, 0x00, .s, [1]⟩ (bS 0 4 0 0 0 0) sC ∧ (sC.core 0x1000).ctx = 0 ∧ ((sC.core 0x1000).reg 4).fld 0 6 ≠ 0 ∧
    (sC.ctx 1).hatch = none ∧ Runs cA ⟨0x4, 0x12, .i, [1]⟩ (bI 0 1 0) sC ∧ sC.recordFault 1 0x020000000040 = none ∧
    sC.poisoned 0x020000000040 64 = false ∧ (sC.ctx 1).bound = true ∧ sC.portBusy 0 0 = false ∧
    Runs cF ⟨0xE, 0x01, .s, [1, 2]⟩ (bS 0 1 2 0 0 0) sC ∧ sC.recordFault 0 0x020000000040 = none ∧ sC.portBusy 0x1000 0 = false ∧
    Runs cF ⟨0xE, 0x02, .s, [0]⟩ (bS 9 0 0 0 0 0) sC ∧ evOfS (bS 9 0 0 0 0 0) = none ∧ sC.notices = [7] ∧
    (∀ j ∈ allCtl, (match (sC.core j).hold with | .wdb _ _ => true | _ => false) = false) ∧ 0x1000 ∈ allCtl ∧
    Runs cF ⟨0xE, 0x03, .s, [0, 1, 2, 3]⟩ (bS 9 4 5 3 0 0) sC ∧ ((sC.core 0x1000).reg 5) ≠ 0 ∧ ((sC.core 0x1000).reg 2).fld 0 6 = 0 ∧ (sC.ctx 1).st ≠ .faulted := by
  refine ⟨runs_of ?_, ?_, ?_, ?_, runs_of ?_, ?_, ?_, ?_, ?_, runs_of ?_, ?_, ?_, runs_of ?_, ?_, ?_, ?_, ?_, runs_of ?_, ?_, ?_, ?_⟩ <;> decide +kernel

theorem test_wit_memory : memRule (.ldS8 cA (bI 7 1 0)) = some (cA, bI 7 1 0, 0x04, 1, .load 1 true, true) ∧ Runs cA ⟨0x7, 0x04, .i, [0, 1]⟩ (bI 7 1 0) sC ∧
    sC.scalarFault 1 false 0x020000000040 1 false = none ∧ sC.resolve false 0x020000000040 = .here 0x020000000040 ∧
    gBit .i (bI 7 3 0 + BitVec.ofNat 52 (put 1 34)) = true ∧ Runs cA ⟨0x7, 0x0B, .i, [0, 1]⟩ (bI 7 3 0 + BitVec.ofNat 52 (put 1 34)) sC ∧
    sC.scalarFault 1 true 0x0001020000000040 8 true = none ∧ sC.resolve true 0x0001020000000040 = .away 1 0x020000000040 ∧
    Runs cA ⟨0x7, 0x0B, .i, [0, 1]⟩ (bI 7 1 1) sC ∧ sC.scalarFault 1 false 0x020000000041 8 true = some (.alignment, 0x020000000041) ∧
    sC.hatching 1 = false ∧ sC.injCsr 0 false 0x020000000041 = none ∧ sC.badCsr false 0x020000000041 8 = none := by
  refine ⟨rfl, runs_of ?_, ?_, ?_, ?_, runs_of ?_, ?_, ?_, runs_of ?_, ?_, ?_, ?_, ?_⟩ <;> decide +kernel
/-- A register that holds an address in CSR space: a byte there, and 8 bytes at a multiple of 4, have no access (R5). -/
def sCs : State := { sC with cores := [(0, sBr cAreg [(1, BitVec.ofNat 64 (csrBase + 0x21004))])] }
theorem test_wit_csr_access : Runs cA ⟨0x7, 0x00, .i, [0, 1]⟩ (bI 7 1 0) sCs ∧ sCs.badCsr false (csrBase + 0x21004) 1 = some (csrBase + 0x21004) ∧
    Runs cA ⟨0x7, 0x03, .i, [0, 1]⟩ (bI 7 1 0) sCs ∧ sCs.badCsr false (csrBase + 0x21004) 8 = some (csrBase + 0x21004) ∧ sCs.hatching 1 = false ∧
    sCs.injCsr 0 false (csrBase + 0x21004) = none ∧ sCs.joinable (mkDet 0x13 (sCs.unitOf 0 engSeq) (some 1) 2 3 1 7 0 0 0) = none ∧
    recOpen (sCs.record (sCs.fld ERR_RING_STS.off ERR_RING_STS.NEXT)) = false ∧ sCs.badCsr false (csrBase + 0x21004) 4 = none := by
  refine ⟨runs_of ?_, ?_, runs_of ?_, ?_, ?_, ?_, ?_, ?_, ?_⟩ <;> decide +kernel

theorem test_wit_semaphore : semRule (.semCas cA (bS 7 1 2 3 0 0)) = some (cA, bS 7 1 2 3 0 0, 0x01, [0, 1, 2, 3], .semCas) ∧
    Runs cA ⟨0x6, 0x01, .s, [0, 1, 2, 3]⟩ (bS 7 1 2 3 0 0) sC ∧ sC.semFault 1 false 0x020000000040 true = none ∧
    Runs cA ⟨0x6, 0x02, .s, [1, 2]⟩ (bS 0 1 2 0 1 255) sC ∧ sC.semFault 1 false 0x020000000040 false = none ∧
    Runs cA ⟨0x6, 0x02, .s, [1, 2]⟩ (bS 0 3 2 0 0 0 + BitVec.ofNat 52 (put 1 13)) sC ∧ sC.semFault 1 true 0x0001020000000040 false = none ∧
    sC.resolve true 0x0001020000000040 = .away 1 0x020000000040 := by
  refine ⟨rfl, runs_of ?_, ?_, runs_of ?_, ?_, runs_of ?_, ?_, ?_⟩ <;> decide +kernel

def qNop (n : Nat) : QEntry := ⟨n, 0xB, 0x00, 0, 0x1000, 0, 0, 0, 0, false⟩
def sFull : State := { sC with cores := tset sC.cores 0 { sC.core 0 with mq := List.replicate 8 (qNop 0) } }
theorem test_wit_engines : (∃ x, engRule (.vset cA (bTS 0 6 0 0 0)) = some x ∧ Runs x.cid x.ins x.b sA ∧ x.mod = true ∧ x.ok (sA.mkEntry 0 x.ins x.b false) sA = true ∧
      (sA.core 0).queue x.eng = []) ∧
    (∃ x, engRule (.vadd cA (offGuard (bT 0 8 16 0 0))) = some x ∧ x.mod = true ∧ (sA.core 0).canDispatch x.ins x.b = true ∧
      illegalWord false x.ins.cls x.ins.op x.ins.fm x.b = false ∧ illegalFields x.ins.cls x.ins.fm x.ins.used x.b = false ∧ (sA.core 0).guard x.b = false) ∧
    (∃ x, engRule (.vadd cA (bT 0 8 16 0 1)) = some x ∧ x.mod = false ∧ (sA.core 0).canDispatch x.ins x.b = true ∧
      illegalWord false x.ins.cls x.ins.op x.ins.fm x.b = false ∧ illegalFields x.ins.cls x.ins.fm x.ins.used x.b = false) ∧
    (∃ x, engRule (.mbias cA (bT 0 1 0 0 0)) = some x ∧ ¬ ((sFull.core 0).queue x.eng).length < 8) := by
  refine ⟨⟨_, rfl, runs_of ?_, ?_, ?_, ?_⟩, ⟨_, rfl, ?_, ?_, ?_, ?_, ?_⟩, ⟨_, rfl, ?_, ?_, ?_, ?_⟩, ⟨_, rfl, ?_⟩⟩ <;> decide +kernel

/-- Word at the PC cached or not; a PC of firmware at an address that nothing backs. -/
def sFe : State := { sC with cores := [(0, { cAreg with pc := 0x020000000040 }), (1, { cAreg with pc := 0x020000000040, icache := [(0x020000000040, 5)] }), (2, { cAreg with pc := 0x1000 }),
  (3, { cAreg with pc := 0x020000000040, icache := List.replicate 4096 (0, 0) }), (4, { cAreg with ir := some 0xF000000000000000 }), (5, { cAreg with ir := some 0 })] }
theorem test_wit_fetch : sFe.fetchOk 1 0x020000000040 = true ∧ sFe.poisoned 0x020000000040 8 = false ∧ tget? (sFe.core 0).icache 0x020000000040 = none ∧
    tget? (sFe.core 1).icache 0x020000000040 = some 5 ∧ sFe.fetchOk 1 0x1000 = false ∧ (sFe.core 0).run = .running ∧ (sFe.core 0).hold = .none ∧
    (sFe.core 0).ir = none ∧ sFe.hatching 1 = false ∧ (sFe.core 0).icache.length < 4096 ∧ listedOp (sFe.readWord 0x020000000040) = true ∧
    4096 ≤ (sFe.core 3).icache.length ∧ tget? (sFe.core 3).icache 0x020000000040 = none ∧ (sFe.core 4).ir = some 0xF000000000000000 ∧
    listedOp 0xF000000000000000 = false ∧ sFe.repairing 4 = false ∧ (sFe.core 5).ir = some 0 ∧ listedOp 0 = true := by decide +kernel

def fl (i : Nat) (op : FlightOp) (rd : Option Nat) (a : Nat) : Flight := ⟨i, op, .issued, rd, none, a, a, 0x1122334455667788, 0, none, 0x1000, 7, 0, 0, false, false, 0⟩
def fAns (f : Flight) : Flight := { f with remote := some 1, st := .answered, res := 0x80 }
def sFl : State := { sC with
  mem := ⟨[(0x020000000040, 0x80), (0x020000000041, 1)], []⟩,
  cores := [(0, { cAreg with pend := [7], nextFid := 8, flights := [fl 0 (.load 1 true) (some 7) 0x020000000040] }),
    (1, { cAreg with pend := [7], nextFid := 8, flights := [fAns (fl 0 (.load 8 false) (some 7) 0)] }),
    (2, { cAreg with pend := [7], nextFid := 8, flights := [{ fAns (fl 0 (.load 8 false) (some 7) 0) with poison := true }] }),
    (3, { cAreg with nextFid := 8, flights := [fl 0 (.store 8) none 0x020000000040] }),
    (4, { cAreg with nextFid := 8, flights := [fl 0 (.store 2) none 0x400000000010] }),
    (5, { cAreg with nextFid := 8, flights := [fAns (fl 0 (.store 4) none 0)] }),
    (6, { cAreg with nextFid := 8, flights := [{ fAns (fl 0 (.store 4) none 0) with refused := true }] }),
    (16, { cAreg with nextFid := 8, flights := [fl 0 (.store 8) none 0x010000000040, { fAns (fl 1 (.store 8) none 0x010000000040) with refused := true }] }),
    (17, { cAreg with pend := [7], nextFid := 8, flights := [fl 0 (.load 8 false) (some 7) 0x400000000010] }),
    (7, { cAreg with pend := [7], nextFid := 8, flights := [fl 0 (.load 4 false) (some 7) (csrBase + 0x21004)] })] }
/-- A store to the near tier that a pin entry of another context forbids. -/
def sPin : State := (((({ sFl with cores := [(0, { cAreg with nextFid := 8, flights := [fl 0 (.store 8) none 0x010000000040] })] } : State).setFld (PKG_NEAR_PIN.off 7)
  PKG_NEAR_PIN.VALID 1).setFld (PKG_NEAR_PIN.off 7) PKG_NEAR_PIN.SIZE 1).setFld (PKG_NEAR_PIN.off 7) PKG_NEAR_PIN.WRITER 2)
theorem test_wit_pinned : sPin.flight 0 0 = some (fl 0 (.store 8) none 0x010000000040) ∧ sPin.inOrder 0 (fl 0 (.store 8) none 0x010000000040) = true ∧
    inTier 0x010000000040 = true ∧ sPin.pinForbids (some 1) false 0x010000000040 8 = true ∧ sPin.hatching 1 = false ∧
    sFl.pinForbids (some 1) false 0x020000000040 8 = false := by decide +kernel
/-- Stores of two cores to one bank of the cluster memory of cluster 0. -/
def sTwo : State := { sFl with arb := [], cores := [(0, { cAreg with nextFid := 8, flights := [fl 0 (.store 8) none 0x020000000040] }),
  (1, { cAreg with nextFid := 8, flights := [fl 0 (.store 8) none 0x020000000040] })] }
theorem test_wit_bank_turn : (∃ x p q, sTwo.storeBank (.cmp 0 0 1, 0) = some (x, p) ∧ sTwo.storeBank (.cmp 0 0 0, 0) = some (x, q) ∧ p ≠ q ∧
    sTwo.arbWinner x [p, q] = some q) := ⟨.cluster 0 (clusterBank 0x020000000040), 1, 0, by decide +kernel, by decide +kernel, by decide, by decide +kernel⟩
theorem test_wit_accesses : sFl.flight 0 0 = some (fl 0 (.load 1 true) (some 7) 0x020000000040) ∧ sFl.hatching 1 = false ∧
    sFl.inOrder 0 (fl 0 (.load 1 true) (some 7) 0x020000000040) = true ∧ inTier 0x020000000040 = true ∧ sFl.poisoned 0x020000000040 1 = false ∧
    sFl.flight 7 0 = some (fl 0 (.load 4 false) (some 7) (csrBase + 0x21004)) ∧ tierOf (csrBase + 0x21004) = .csr ∧
    sFl.flight 1 0 = some (fAns (fl 0 (.load 8 false) (some 7) 0)) ∧ sFl.inOrder 1 (fAns (fl 0 (.load 8 false) (some 7) 0)) = true ∧
    (∃ f, sFl.flight 2 0 = some f ∧ f.poison = true ∧ f.st = .answered ∧ sFl.inOrder 2 f = true) ∧
    sFl.flight 3 0 = some (fl 0 (.store 8) none 0x020000000040) ∧ sFl.inOrder 3 (fl 0 (.store 8) none 0x020000000040) = true ∧
    (∃ f, sFl.flight 4 0 = some f ∧ tierOf f.addr = .hostWin 0 ∧ sFl.portOrder 4 f = true ∧ sFl.inWindow 1 0 f.addr 2 true = true ∧ sFl.inOrder 4 f = true) ∧
    (∃ f, sFl.flight 5 0 = some f ∧ f.refused = false ∧ f.st = .answered ∧ sFl.inOrder 5 f = true) ∧
    (∃ f, sFl.flight 6 0 = some f ∧ f.refused = true ∧ f.st = .answered ∧ sFl.inOrder 6 f = true) := by
  refine ⟨?_, ?_, ?_, ?_, ?_, ?_, ?_, ?_, ?_, ⟨_, rfl, ?_, ?_, ?_⟩, ?_, ?_, ⟨_, rfl, ?_, ?_, ?_, ?_⟩, ⟨_, rfl, ?_, ?_, ?_⟩, ⟨_, rfl, ?_, ?_, ?_⟩⟩ <;> decide +kernel

def fSem (op : FlightOp) (v c : Word) : Flight := { fl 3 op (some 7) 0x020000000040 with val := v, cmp := c }
def sSem (f : Flight) : State := { sC with mem := ⟨[(0x020000000040, 5)], []⟩, cores := [(0, { cAreg with pend := [7], nextFid := 8, hold := .sem 3, flights := [f] })] }
theorem test_wit_semaphores : (sSem (fSem .semAdd 0xFFFFFFFFFFFFFFFF 0)).poisoned 0x020000000040 8 = false ∧
    tget [] (sSem (fSem .semAdd 0 0)).parked 0 = [] ∧ unitNo (.cluster 0 0) = 0 ∧
    ((sSem (fSem .semAdd 0 0)).core 0).flights = [fSem .semAdd 0 0] ∧ (sSem (fSem .semCas 9 5)).atomUnit 0x020000000040 = some 0 ∧
    (sSem { fSem .semCas 9 5 with st := .answered }).flight 0 3 = some { fSem .semCas 9 5 with st := .answered } ∧
    (sSem { fSem .semWait 9 5 with st := .bounced }).flight 0 3 = some { fSem .semWait 9 5 with st := .bounced } ∧
    (sSem (fSem .semAdd 0 0)).hatching 1 = false := by decide +kernel
/-- An ATOMIC of package 7 at the unit of cluster 0; an atomic of core 0 on a word that a pin entry forbids it to write. -/
def qAt : AtomReq := ⟨0, 7, 1, 0, 0x020000000040, 0, 3, 0, 0, 3, true⟩
def sRem : State := { sSem (fSem .semAdd 0 0) with serving := [qAt] }
def fPin : Flight := { fSem .semAdd 9 5 with addr := 0x010000000040 }
def sSemPin : State := { sPin with cores := [(0, { cAreg with pend := [7], nextFid := 8, hold := .sem 3, flights := [fPin] })] }
theorem test_wit_remote_atomic : sRem.serving = [qAt] ∧ unitNo (.cluster 0 0) = qAt.unit ∧ sRem.poisoned qAt.addr 8 = false ∧
    sRem.pinForbids none false qAt.addr 8 = false ∧ tget [] sRem.parked 0 = [] ∧ sRem.atomUnit qAt.addr = some 0 ∧
    (sSemPin.core 0).flights = [fPin] ∧ sSemPin.atomUnit 0x010000000040 = some (unitNo (.near 0)) ∧ sSemPin.pinForbids (some 1) false 0x010000000040 8 = true ∧
    sSemPin.poisoned 0x010000000040 8 = false ∧ (sSem (fSem .semAdd 0 0)).pinForbids (some 1) false 0x020000000040 8 = false ∧
    (sC.unitOf (coreKey (.cmp 0 0 0)) engSeq).toNat < (sC.unitOf (coreKey (.cmp 0 0 1)) engSeq).toNat ∧ (3 : PkgId).toNat < (1023 : PkgId).toNat := by decide +kernel

def tile1 : Tile := ⟨[1, 2], 16, true, []⟩
def sMv : State := { sC with
  incs := [⟨0, 1, 255, 0xFFFF⟩, ⟨0, 2, 0, 1⟩, ⟨0, 1, 255, 1⟩],
  cores := [(0, { cAreg with lrun := some ⟨qNop 0, some (127, tile1), [], []⟩ }), (1, { cAreg with lrun := some ⟨qNop 0, none, [(0x020000000040, [1, 2])], []⟩ }),
    (2, { cAreg with vq := [{ qNop 0 with null := true }] }), (3, { cAreg with lq := [⟨0, 0x8, 0x03, bT 5 0 0 0 0, 0x1000, 0, 0, 0, 0, false⟩] }),
    (4, { cAreg with tiles := [(6, tile1)], lq := [⟨0, 0x8, 0x02, bT 5 6 0 0 0, 0x1000, 0, 0, 0, 0, false⟩] })] }
theorem test_wit_moves : (sMv.core 0).lrun = some ⟨qNop 0, some (127, tile1), [], []⟩ ∧ (sMv.core 0).canWrite 0 [127] = true ∧
    (sMv.core 1).lrun = some ⟨qNop 0, none, [(0x020000000040, [1, 2])], []⟩ ∧ sMv.incs[0]? = some ⟨0, 1, 255, 0xFFFF⟩ ∧
    (sMv.core 0).event 255 + 0xFFFF ≤ 0xFFFF ∧ (sMv.ctx 1).saveAt = none ∧ (sMv.core 0).hold = .none ∧ sMv.incs[1]? = some ⟨0, 2, 0, 1⟩ ∧ sMv.incs[2]? = some ⟨0, 1, 255, 1⟩ ∧ inTier 0x020000000040 = true ∧ tierOf 0x020000000040 ≠ .hbm ∧
    (sMv.core 2).queue .vx = [{ qNop 0 with null := true }] ∧ sMv.hatching 1 = false ∧ (sMv.core 3).queue .ls ≠ [] ∧ (sMv.core 3).lrun = none ∧
    (∃ q, (sMv.core 3).queue .ls = [q] ∧ (sMv.core 3).readsOk q = true) ∧ (∃ q, (sMv.core 4).queue .ls = [q] ∧ (sMv.core 4).readsOk q = true ∧ ((sMv.core 4).tile 6).poison = []) ∧
    ({ sMv with ctxs := [(1, { Ctx.reset with hatch := some ⟨1, 0, 0, [], [], false, false, false⟩ })] } : State).hatching 1 = true := by
  refine ⟨?_, ?_, ?_, ?_, ?_, ?_, ?_, ?_, ?_, ?_, ?_, ?_, ?_, ?_, ?_, ⟨_, rfl, ?_⟩, ⟨_, rfl, ?_, ?_⟩, ?_⟩ <;> decide +kernel

/-! Barriers, control cores, context faults, the engines. -/

def atBar (h : Hold) : Core := { cAreg with hold := h }
/-- The 8 cores of cluster 0 at the cluster barrier but one that has halted; those of cluster 1 at the group barrier. -/
def sBar : State := { sC with
  clusters := [(0, { Cluster.reset with holder := some 1 }), (1, { Cluster.reset with holder := some 2 })],
  cores := [(0, atBar .barCl), (1, atBar .barCl), (2, atBar .barCl), (3, atBar .barCl), (4, atBar .barCl), (5, atBar .barCl), (6, atBar .barCl),
    (7, { cAreg with run := .halted }), (16, { atBar .barGrp with ctx := 2 }), (17, { atBar .barSent with ctx := 1 }), (0x1000, { cFreg with ctx := 2, limit := 1, hold := .wdb 9 none, pend := [9] })],
  notices := [], progs := [⟨1, 0, 5, 0, false, 0, false⟩], ccRegs := [(0, { Core.reset with hold := .ctxEnter 2 7 none, pc := 0x2000 })], time := 1000 }
theorem test_wit_barriers : (∀ j ∈ clusterCores 0 0, (sBar.core j).hold = .barCl ∨ (sBar.core j).run = .halted) ∧ (sBar.core 0).hold = .barCl ∧
    (sBar.core 16).hold ≠ .barCl ∧ (sBar.core 16).run ≠ .halted ∧ 16 ∈ clusterCores 0 1 ∧ sBar.groupCores 2 0 = [16] ∧ (sBar.core 16).hold = .barGrp ∧
    sBar.groupCores 1 0 = [0, 1, 2, 3, 4, 5, 6, 7] ∧ (sBar.core 0).hold ≠ .barGrp ∧ (sBar.core 17).hold = .barSent := by decide +kernel
theorem test_wit_control_cores : (sBar.core 0x1000).ctx.val ≠ 0 ∧ (sBar.core 0x1000).limit ≠ 0 ∧
    (sBar.core 0x1000).started + (sBar.core 0x1000).limit * 1000 ≤ sBar.time ∧ (tget Core.reset sBar.ccRegs 0).hold = .ctxEnter 2 7 none ∧
    nextProg (sBar.runnable 0) 2 = some ⟨1, 0, 5, 0, false, 0, false⟩ ∧ (∀ j ∈ allCtl, (match (sA.core j).hold with | .wdb _ _ => true | _ => false) = false) ∧
    sBar.notices = [] ∧ (sBar.core 0x1000).hold = .wdb 9 none ∧ ((put 1 56 : Nat) : Word).fld 56 8 = 1 := by decide +kernel

def fRec : FaultRec := ⟨1, .access, 15, 255, 0x1000, 0x40, 0x12345678, 3⟩
def sFault : State := { sC with faults := [{ fRec with time := 9 }, fRec] }
def sFault2 : State := { (sFault.setFld (CTX_FAULT_INFO.off 1) CTX_FAULT_INFO.VALID 1) with ctxs := [(1, { Ctx.reset with st := .faulted })] }
theorem test_wit_fault : sFault.nextFault 1 = some fRec ∧ sFault.bit (CTX_FAULT_INFO.off 1) CTX_FAULT_INFO.VALID = false ∧ (sFault.ctx 1).st = .running ∧
    fRec.cls < 16 ∧ fRec.op < 256 ∧ sFault2.nextFault 1 = some fRec ∧ sFault2.bit (CTX_FAULT_INFO.off 1) CTX_FAULT_INFO.VALID = true ∧
    (sFault2.ctx 1).st = .faulted := by decide +kernel

/-- A packed FP16 run of 32 rows, row 0 fed, column 0 of slot 0 loaded; `num` is its CTX_NUMCTL. -/
def mxRun (num : Word) (fed : List Nat) (pre : Elem) : MxRun :=
  ⟨⟨0, 0xA, 0x03, bTS 0 0 0 0 2, 0x1000, 0, 0, 0, num, false⟩, 0, 1, false, fed, [[0x3C00, 0x7C00]], [], [[pre]], false, 0, 0, 0, [], [], [], 0, 0, [], .feed, false,
    [], false, false, false, [], false, false, false, 0, none, false⟩
def mxBank : Bank := ⟨2 * 256 + 2, [(0, ⟨2, [0x3C00], []⟩)], 1⟩
def mxSt (r : Option MxRun) : MxSt := { MxSt.reset with banks := [(0, mxBank)], loads := [⟨qNop 0, 0, 3, ⟨2, [5], []⟩⟩], run := r, filled := true, level := 8 }
def sMx (r : Option MxRun) : State := { sC with cores := [(0, { cAreg with mx := mxSt r })], clusters := [(0, { Cluster.reset with replays := [0] })] }
def rRep : MxRun := { mxRun 0x10 [0, 1] 0 with shift := 64, ovf := true }
def rowOvf (r : MxRun) : Bool := (r.addRow (r.rowOf mxBank (r.startRow r.first + r.done.length) [])).ovf
/-- A run whose preload is infinite in every column but, for `z`, column 0: the lines with an infinity are exempt (R182). -/
def rInf (fed : List Nat) (z : List Elem) : MxRun :=
  let row := z ++ List.replicate 128 0x7F800000
  { mxRun 0 fed 0 with stream := fed.map fun _ => [0x3C00], preload := fed.map fun _ => row }
/-- One whose last row contradicts its block sum: row 0 is recorded with a result that the array does not give. -/
def rBad : MxRun := { rInf [0, 1] [0] with done := [[0x43000000]] }
theorem test_wit_feeds : ((sMx none).core 0).mx.loads = [⟨qNop 0, 0, 3, ⟨2, [5], []⟩⟩] ∧ ((sMx (some (mxRun 0 [0, 1] 0))).core 0).mx.run = some (mxRun 0 [0, 1] 0) ∧
    (sMx (some (mxRun 0 [0, 1] 0))).carries 0 = true ∧ (mxRun 0 [0, 1] 0).entry.replayMode = false ∧ (mxRun 0 [0, 1] 0).phase = .feed ∧
    ((mxRun 0 [0, 1] 0).addRow ((mxRun 0 [0, 1] 0).rowOf mxBank 0 [])).judged 0 = [] ∧ (mxRun 0 [0] 0).numPasses ≤ 1 ∧ (mxRun 0 [0] 0).isRep = false ∧ rBad.isRep = false ∧ rBad.entry.replayMode = false ∧
   
    rRep.entry.replayMode = true ∧ rRep.phase = .feed := by decide +kernel
def mxBank0 : Bank := { mxBank with mod := 2 }
def rClean : MxRun := (rInf [0] []).addRow ((rInf [0] []).rowOf mxBank0 0 [])
def rFlagged : MxRun := rBad.addRow (rBad.rowOf mxBank0 1 [])
def sRow (r : MxRun) : State := { sC with cores := [(0, { cAreg with mx := { mxSt (some r) with banks := [(0, mxBank0)] } })] }
theorem test_wit_row_judged : rClean.judged 0 = [0] ∧ rClean.judgedPasses = [rClean] ∧ rFlagged.judged 1 = [0] ∧ rFlagged.judgedPasses = [rFlagged] ∧
    ((sRow rBad).core 0).mx.run = some rBad ∧ (sRow rBad).carries 0 = true := by
  refine ⟨by decide +kernel, rfl, by decide +kernel, rfl, rfl, by decide +kernel⟩
theorem test_wit_row_clean : (rClean.blockCheck mxBank0 rClean.resAt 0).2 = (0, []) := by decide +kernel
theorem test_wit_row_flagged : (rFlagged.blockCheck mxBank0 rFlagged.resAt 0).2 ≠ (0, []) := by decide +kernel
theorem test_wit_row_overflows : rowOvf rRep = true := rfl

def qMx (op : Nat) (b : Body) : QEntry := ⟨0, 0xA, op, b, 0x1000, 0x020000000000, 0x100, 0, 0, false⟩
def sMq (q : QEntry) (m : MxSt) : State := { sC with cores := [(0, { cAreg with mq := [q], mx := m })] }
def mxSet : MxSt := { MxSt.reset with banks := [(0, { mxBank with loads := 0 })], filled := true, enable := 1 }
def qS : QEntry := qMx 0x03 (bTS 0 0 0 0 2)
theorem test_wit_engine_starts : (sMq (qMx 0 (bTS 0 1 2 3 0x202)) MxSt.reset).badIn (mstReads (qMx 0 (bTS 0 1 2 3 0x202))) = none ∧
    MxSt.reset.unresolved = false ∧ MxSt.reset.bankFree 0 = true ∧ ({ mxSet with runOpen := true } : MxSt).bankFree 0 = true ∧
    (tget Bank.empty mxSet.banks 0).mod ≠ modOf (qMx 0 (bTS 0 1 2 3 2)).body ∧
    ({ sMq (qMx 0 (bTS 0 1 2 3 0x202)) MxSt.reset with mem := ⟨[], [0x020000000000]⟩ } : State).badIn (mstReads (qMx 0 (bTS 0 1 2 3 0x202))) = some 0x020000000000 ∧
    mxSet.fedAll = true ∧ (tget Bank.empty mxSet.banks 0).loads = 0 ∧ ((sMq qS mxSet).core 0).readsOk qS = true ∧ mxSet.filled = true ∧
    pairingOk (mmxType (modOf qS.body)) (mstTarget mxBank.mod) = true ∧ fedRows mxSet.enable (mRows qS.body) = [0, 1, 2, 3, 4, 5, 6, 7] ∧
    (mmxReads qS 2 [0, 1, 2, 3, 4, 5, 6, 7] 1).all (fun x => !((sMq qS mxSet).core 0).rowBad x) = true ∧
    (sMq qS mxSet).badIn (mmxRanges qS 2 [0, 1, 2, 3, 4, 5, 6, 7]) = none ∧ fedRows 0 (mRows qS.body) = [] ∧
    pairingOk (mmxType 3) (mstTarget mxBank.mod) = false := by decide +kernel
def poisTile : Tile := { tile1 with poison := [0] }
theorem test_wit_engine_acts : ((sMq (qMx 5 (bT 0 8 0 0 0)) mxSet).core 0).readsOk (qMx 5 (bT 0 8 0 0 0)) = true ∧
    ((List.range 4).all fun r => !((sMq (qMx 5 (bT 0 8 0 0 0)) mxSet).core 0).rowBad (8, r)) = true ∧
    ((List.range 4).all fun r => !({ cAreg with tiles := [(8, poisTile)] } : Core).rowBad (8, r)) = false ∧
    [5, 6, 7, 8].all (fun o => let q := qMx o (bT 5 8 0 0 0)
      let c := (sMq q mxSet).core 0
      c.readsOk q && c.canWrite q.seq (q.tiles (c.pkAt q.seq)).2) = true := by decide +kernel

def rLand : MxRun := { mxRun 0 [0] 0 with done := [[0x3F800000, 0x40000000]], ready := 1, phase := .land }
def rSpare (p : MxPhase) : MxRun := { rLand with phase := p, ready := 0, spare := [[0x40400000]] }
def vRun (out : List (Nat × Tile)) : VxRun := ⟨qNop 0, out, [], false, 0, false, false, 0, false, false, []⟩
def sVx (out : List (Nat × Tile)) : State :=
  { sC with cores := [(0, { cAreg with vx := { VxSt.reset with run := some (vRun out) }, mx := { MxSt.reset with level := 1 } }),
    (1, { cAreg with vx := { VxSt.reset with landing := [vRun out] } })] }
theorem test_wit_lands : ((sMx (some rLand)).core 0).mx.lander = some rLand ∧ rLand.landed < rLand.ready ∧ rLand.landed + 1 = rLand.blocks ∧
    ((sMx (some rLand)).core 0).canWrite 0 (rLand.blockTiles 2 0) = true ∧ (rLand.blockTiles 2 0).Nodup ∧
    (sMx (some (rSpare .spareWait))).nextReplay 0 0 = some 0 ∧ (sMx (some (rSpare .spareDone))).mmxIn 0 0 .spareDone = some 0 ∧
    ((sMx (some (rSpare .spareDone))).core 0).mx.landing = [] ∧ (rSpare .spareDone).blocks ≤ (rSpare .spareDone).landed + 4 ∧
    (rSpare .spareDone).spareBad = false ∧
    (let ts := ((List.range (rSpare .spareDone).blocks).filter fun b => decide ((rSpare .spareDone).landed ≤ b)).flatMap fun b => (rSpare .spareDone).blockTiles 2 b
     ((sMx (some (rSpare .spareDone))).core 0).canWrite 0 ts = true ∧ ts.Nodup) ∧
    (sVx [(5, tile1)]).bit PWR_BALLAST.off PWR_BALLAST.EN = true ∧ ((sVx [(5, tile1)]).core 0).mx.level < (sVx [(5, tile1)]).mxCap 0 ∧
    ((sA.setFld PWR_BALLAST.off PWR_BALLAST.EN 0).bit PWR_BALLAST.off PWR_BALLAST.EN) = false ∧
    ((sVx [(5, tile1), (6, tile1)]).core 0).vx.runAt 0 = some (vRun [(5, tile1), (6, tile1)]) ∧ ((sVx [(5, tile1)]).core 1).vx.runAt 1 = some (vRun [(5, tile1)]) ∧
    ((sVx [(5, tile1)]).core 0).canWrite 0 [5] = true ∧ (sVx []).tst.left = 0 ∧ (vRun []).unread = false ∧ ((sVx []).core 0).canWrite 0 [] = true := by
  decide +kernel

def qVx (cls op : Nat) (b : Body) : QEntry := ⟨0, cls, op, b, 0x1000, 7, 0, 0, 0, false⟩
def qVa : QEntry := qVx 0xB 0x00 (bT 0 8 16 0 0)
theorem test_wit_vector_starts : ((({ cAreg with vq := [qVa] } : Core).vx.run.all fun r => !r.unread) = true) ∧ ({ cAreg with vq := [qVa] } : Core).vecReady qVa = true ∧
    (cAreg.canRead 0 (cAreg.vecReads qVa)) = true ∧ (cAreg.vecReads qVa) ≠ [] ∧ ((cAreg.vecReads qVa).all fun t => (cAreg.tile t).poison == []) = true ∧
    sA.badIn (cAreg.vepisReads qVa) = none ∧ (qVx 0xC 0x09 (bTS 0 6 0 0 0)).cls = 0xC := by decide +kernel

/-! Repair, scrub, streams, the update unit. -/

def sRep (st : Nat) : State :=
  ({ sA with cores := [], clusters := [(0, { Cluster.reset with repSt := st, repPhys := 3 })] } : State).csrSet (PKG_CORE_MAP.off 0 0) 0
def sRep2 : State := ((sRep 2).setFld (PKG_CORE_MAP.off 0 0) PKG_CORE_MAP.LMAP 0x76543210).setFld (PKG_CORE_MAP.off 0 0) PKG_CORE_MAP.SPARE 8
theorem test_wit_repair : ((sRep 1).cluster 0).repSt = 1 ∧ (∀ k ∈ clusterCores 0 0, ((sRep 1).core k).drained = true) ∧ (sRep2.cluster 0).repSt = 2 ∧
    (sRep2.cluster 0).swap = false ∧ (sRep2.cluster 0).repWait = [] ∧ (sRep2.cluster 0).repPhys < 16 ∧ 3 < PKG_CORE_MAP.RETIRED.len ∧
    inTier (0x020000000040 : Addr).toNat = true ∧ sA.ilvFree = true ∧
    ({ sA with ctxs := [(1, { Ctx.reset with st := .running })] } : State).ilvFree = false ∧ sA.marked 0x020000000040 = false ∧ sA.hist.length < 8192 ∧
    ({ sA with tst := { sA.tst with marks := [sA.memKey (cwOf 0x020000000040)] } } : State).marked 0x020000000040 = true := by decide +kernel

/-- A descriptor: kind, source, destination, length, rows, row strides and pattern. -/
def sd (k a b len rows : Nat) : List Word :=
  [BitVec.ofNat 64 (put k 60), BitVec.ofNat 64 a, BitVec.ofNat 64 b, BitVec.ofNat 64 (put 1 48 + put rows 32 + len), BitVec.ofNat 64 len, BitVec.ofNat 64 len, 0x0807060504030201, 0]
def strm1 (st : StrmSt) (d : List Word) : Stream := ⟨st, 1, 0, .clusterDma 0 0, d, 0, none, false, 0, 0, none, false, 0, 0, false, [], 0, false, none, none, [], []⟩
def sStr (x : Stream) : State :=
  ({ sC with
    mem := ⟨[(0x020000000040, 9), (0x020000000041, 8)], []⟩, strms := ⟨[(65535, x)], some 65535, 1, none⟩,
    cores := [(0, { cAreg with lwait := some (sd 1 0x020000000040 0x020000001000 8 1), lq := [⟨0, 0x9, 0, bS 7 1 0 0 0 0, 0x1000, 0, 0, 0, 0, false⟩], pend := [7] })] } : State).setFld
    (CTX_STRM_USE.off 1) CTX_STRM_USE.INUSE 1
def copy1 : List Word := sd 1 0x020000000040 0x020000001000 8 1
def xServed : Stream := { strm1 .active copy1 with row := 1 }
def xHost : Stream := { strm1 .active (sd 1 0x020000000040 0x400000000010 8 1) with row := 1, ports := [0], flushes := [0] }
theorem test_wit_streams : (sStr xServed).nextIssuer.map (·.2) = some (0, 1) ∧ ((sStr xServed).core 0).lwait = some copy1 ∧ (sStr xServed).quotaFull 1 = false ∧
    (sStr xServed).fld (CTX_STRM_USE.off 1) CTX_STRM_USE.INUSE + 1 < 2 ^ CTX_STRM_USE.INUSE.len ∧ (sStr (strm1 .queued copy1)).strm? 65535 = some (strm1 .queued copy1) ∧
    (sStr (strm1 .queued copy1)).activeOn (.clusterDma 0 0) < (StrmEng.clusterDma 0 0).places ∧ (sStr (strm1 .queued copy1)).firstQueued (.clusterDma 0 0) = some 65535 ∧
    (sStr xServed).strm? 65535 = some xServed ∧ xServed.served = true ∧ xServed.drained = true ∧ xServed.outst = 0 ∧ xHost.served = true ∧
    0 ∈ xHost.flushes ∧ xHost.drained = false ∧ ({ xHost with flushed := true, flushes := [] } : Stream).drained = true := by
  decide +kernel
theorem test_wit_free_id : (sStr xServed).freeId = some 0 := by
  unfold State.freeId; simp only [sStr]; rfl
theorem test_wit_pieces : ((strm1 .active copy1).nextPiece 0 false).1 = 8 ∧ (sStr (strm1 .active copy1)).topDown copy1 = false ∧
    (strm1 .active copy1).hasPiece = true ∧ (sStr (strm1 .active copy1)).pieceTurn (.clusterDma 0 0) = some 65535 ∧
    (sStr (strm1 .active copy1)).rowErr (strm1 .active copy1) (rowAddr copy1 0 0).1 (rowAddr copy1 0 0).2 = none ∧
    (sStr (strm1 .active copy1)).pinForbids (some 1) false 0x020000001000 8 = false ∧ (strm1 .active copy1).served = false ∧
    (sStr (strm1 .active copy1)).resolve (dDG copy1) ((strm1 .active copy1).nextPiece 0 false).2.2.2.toNat = .here 0x020000001000 ∧ inTier 0x020000001000 = true ∧
    dKind copy1 = 1 ∧ (sStr (strm1 .active copy1)).resolve (dSG copy1) ((strm1 .active copy1).nextPiece 0 false).2.2.1.toNat = .here 0x020000000040 ∧
    (sStr (strm1 .active copy1)).selfOverlap copy1 = false ∧ (sStr (strm1 .active copy1)).badParts 0x020000000040 8 = [] ∧
    dKind (sd 2 0 0x020000000FFF 9 1) = 2 ∧ ((strm1 .active (sd 2 0 0x020000000FFF 9 1)).nextPiece 0 false).1 = 1 := by decide +kernel

/-- An overlapping one-row COPY, served from its last byte down (R253); a GATHER whose index array is in the cluster memory. -/
def over1 : List Word := sd 1 0x020000000040 0x020000000041 8 1
def gath1 : List Word := (sd 3 0x020000000040 0x020000001000 8 1).set 6 0x020000002000
theorem test_wit_overlap : (sStr (strm1 .active over1)).selfOverlap over1 = true ∧ (sStr (strm1 .active over1)).topDown over1 = true ∧
    ((strm1 .active over1).nextPiece 0 true).1 = 8 ∧ ((strm1 .active over1).nextPiece 0 true).2.1 = 0 ∧
    (sStr (strm1 .active over1)).badParts 0x020000000040 8 = [] ∧ (sStr (strm1 .active over1)).resolve (dDG over1) 0x020000000041 = .here 0x020000000041 ∧
    3 ≤ dKind gath1 ∧ ((sStr (strm1 .active gath1)).rowIndex (strm1 .active gath1)).2 = false := by decide +kernel
/-- A strm.issue, strm.cancel and strm.stat at the head of a load/store queue. -/
def qSt (op a : Nat) : QEntry := ⟨0, 0x9, op, bS 7 1 0 0 0 0, 0x1000, BitVec.ofNat 64 a, 0, 0, 0, false⟩
def sHd (l : Tbl Stream) (a : List Word) : State :=
  let s := { sC with strms := ⟨l, some 65535, 1, none⟩, cores := [(0, { cAreg with lq := [qSt 0 0x020000000040], pend := [7] })] }
  (List.range 8).foldl (fun s i => s.writeNat (0x020000000040 + 8 * i) 8 (a.getD i 0).toNat) s
theorem test_wit_strm_issue : (sHd [] copy1).poisoned 0x020000000040 64 = false ∧ ({ sHd [] copy1 with mem := ⟨[], [0x020000000040]⟩ } : State).poisoned 0x020000000040 64 = true ∧
    bytesToWords 8 ((sHd [] copy1).readBytes 0x020000000040 64) = copy1 ∧ (sHd [] copy1).descFault 1 copy1 0x020000000040 = none ∧
    ((sHd [] copy1).descFault 1 (sd 1 0x7F0000000000 0x020000001000 8 1) 0x020000000040).isSome = true ∧ (sHd [] copy1).waitingIssuers = [] ∧
    (sHd [] copy1).quotaFull 1 = false ∧ (sStr xServed).waitingIssuers ≠ [] ∧ ((sHd [] copy1).core 0).lwait = none ∧ ((sHd [] copy1).core 0).lrun = none ∧
    (sHd [] copy1).hatching 1 = false := by decide +kernel
theorem test_wit_strm_cancel : (sHd [(5, strm1 .queued copy1)] copy1).strm? 5 = some (strm1 .queued copy1) ∧ (strm1 .queued copy1).ctx = 1 ∧
    (sHd [(5, xServed)] copy1).strm? 5 = some xServed ∧ xServed.st = .active ∧ xServed.served = true ∧ (strm1 .active copy1).served = false ∧
    (sHd [] copy1).strm? 5 = none := by decide +kernel

/-- Block 0 of context 0: 1,024 elements, SGD, FP32 working copy, descriptor table at 0. -/
def sUpd : State :=
  ((((((sA.writeNat 0x807 1 0x80).writeNat 0x801 1 0xC0).writeNat 0x809 2 0x180).writeNat 0x81A 1 3).writeNat 0x828 4 1024).setFld (CTX_UPD_TBL.off 0) CTX_UPD_TBL.NBLK 1)
def chunk1 : Chunk := ⟨0, 0, 5, 0, 0, [0x3F800000], false, false, 0, []⟩
def applyK1 : ApplyK := ⟨0x3F800000, 0x3F800000, 0x3F000000, 0x3F400000, 0x40000000, 0x40800000, 1, (List.range 12).map (sUpd.bdw 0 0), (List.range 9).map (sUpd.hpw 0 0)⟩
def sApp (k : Option ApplyK) (st : List Chunk) : State := { sUpd with applies := [⟨0, 5, 0, 0, k, false⟩], staged := st }
def offer1 : Offer := ⟨{ chunk1 with step := 4 }, 0, 0, 0, none⟩
def sOff : State := { ((((sA.setFld (UPD_STAGE.off 0) UPD_STAGE.EN 1).setFld (UPD_STAGE.off 0) UPD_STAGE.SIZE 1)) : State) with offers := [{ offer1 with chunk := { chunk1 with step := 5 } }, offer1] }
theorem test_wit_staging : takeFirst (sOff.takeable 0) sOff.offers = some (offer1, [{ offer1 with chunk := { chunk1 with step := 5 } }]) ∧
    sOff.coll? 0 0 0 = none ∧ sOff.offerOld offer1 = false ∧ sUpd.badIn (sUpd.blockWords 0 0) = none ∧
    ({ sUpd with mem := ⟨sUpd.mem.cells, [0x800]⟩ } : State).badIn (sUpd.blockWords 0 0) ≠ none ∧ (∀ f ∈ sOff.offers, sOff.takeable 1 f = false) ∧ sUpd.bit (CTX_UPD_CMDSTS.off 0) CTX_UPD_CMDSTS.BUSY = false ∧
    0 < sUpd.fld (CTX_UPD_TBL.off 0) CTX_UPD_TBL.NBLK ∧ sUpd.usable 0 0 = true ∧ sUpd.fld (CTX_UPD_TBL.off 0) CTX_UPD_TBL.NBLK ≤ 1 ∧
    (sUpd.setFld (CTX_UPD_CMDSTS.off 0) CTX_UPD_CMDSTS.BUSY 1).bit (CTX_UPD_CMDSTS.off 0) CTX_UPD_CMDSTS.BUSY = true := by decide +kernel
theorem test_wit_commands : ({ sUpd with updCmds := [⟨0, true, 0⟩] } : State).updCmds.find? (fun x => x.ctx == 0) = some ⟨0, true, 0⟩ ∧
    (∀ a ∈ sUpd.applies, ¬ (a.ctx = 0 ∧ a.block = 0 ∧ a.behind = false)) := by decide +kernel
theorem test_wit_applies : (sApp (some applyK1) [chunk1]).nextWork 0 = some (⟨0, 5, 0, 0, some applyK1, false⟩, chunk1) ∧
    (sApp (some applyK1) [chunk1]).shut.contains (unitUpd 0) = false ∧ (sApp none [chunk1]).nextWork 0 = some (⟨0, 5, 0, 0, none, false⟩, chunk1) ∧
    (sApp none [chunk1]).usable 0 0 = true ∧ (sApp none [chunk1]).badIn ((sApp none [chunk1]).applyReads 0 0 5) = none ∧
    (sApp none [chunk1]).slotProtected 0 0 = false ∧ ({ sApp none [chunk1] with mem := ⟨[], []⟩ } : State).usable 0 0 = false ∧
    ((sApp (some applyK1) []).applies.find? fun a => a.ctx == 0 && a.block == 0 && a.k.isSome && !(sApp (some applyK1) []).applyLeft a) =
      some ⟨0, 5, 0, 0, some applyK1, false⟩ := by decide +kernel
/-- The same block with four slots, three updates done and version 3; its next slot holds version 0, which tag 0 names. -/
def sProt : State :=
  (((((sApp none [chunk1]).writeNat 0x806 1 0x80).writeNat 0x848 1 3).writeNat 0x846 1 3).setFld (CTX_VTAG.off 0) CTX_VTAG.KEEP 2).setFld (CTX_VTAG.off 0) CTX_VTAG.TAG 1
theorem test_wit_protected : sProt.nextWork 0 = some (⟨0, 5, 0, 0, none, false⟩, chunk1) ∧ sProt.usable 0 0 = true ∧ sProt.badIn (sProt.applyReads 0 0 5) = none ∧ sProt.slotProtected 0 0 = true := by decide +kernel


/-! Halyards, holds, fabric ports. -/

/-- A halyard of context 0 with a peer in package 5: halyard 3 of context 63. -/
def sHal (h dir st lv : Nat) : State :=
  ((((((((((sA.setFld (CTX_HAL_CFG.off 0 h) CTX_HAL_CFG.EN 1).setFld (CTX_HAL_CFG.off 0 h) CTX_HAL_CFG.DIR dir).setFld (CTX_HAL_CFG.off 0 h) CTX_HAL_CFG.PEER 5).setFld
    (CTX_HAL_CFG.off 0 h) CTX_HAL_CFG.PEER_HAL 3).setFld (CTX_HAL_CFG.off 0 h) CTX_HAL_CFG.PEER_CTX 63).setFld (CTX_HAL_CFG.off 0 h) CTX_HAL_CFG.SLOTS 1).setFld
    (CTX_HAL_CFG.off 0 h) CTX_HAL_CFG.SLOT_SZ 1).setFld (CTX_HAL_RING.off 0 h) CTX_HAL_RING.BASE 0x100).setFld (CTX_HAL_STS.off 0 h) CTX_HAL_STS.STATE st).setFld
    (CTX_HAL_STS.off 0 h) CTX_HAL_STS.LEVEL lv)
def hmsg (h : Fin 16) : HalMsg := ⟨63, 3, 0, h⟩
/-- A pennant of package 5 for halyard `h` of context 0, from halyard 3 of context 63. -/
def pnH (typ vc kind arg : Nat) (h : Fin 16) (len : BitVec 6) (eseq : BitVec 16) (pay : BitVec 512) : Pennant :=
  ⟨2, BitVec.ofNat 4 typ, BitVec.ofNat 3 vc, false, true, false, 0, 5, 63, len, 0, eseq, BitVec.ofNat 48 (halAddr kind (hmsg h) arg), pay⟩
def pnS (kind arg : Nat) (h : Fin 16) : Pennant := pnH tMGMT 0 kind arg h 0 0 0
theorem test_wit_halyard_opens : (sHal 15 0 2 0).bit (CTX_HAL_CFG.off 0 15) CTX_HAL_CFG.EN = true ∧ sA.bit (CTX_HAL_CFG.off 63 15) CTX_HAL_CFG.EN = false ∧
    getFld 0 CTX_HAL_CFG.DIR = 0 ∧ getFld (BitVec.ofNat 64 (put 1 62)) CTX_HAL_CFG.DIR ≤ 1 ∧ (sHal 15 0 1 0).hst 0 15 = 1 ∧ (sHal 15 0 1 0).hRecv 0 15 = false ∧
    sA.unreachable 5 = true ∧ ((sA.setFld ROUTE_DIMS.off ROUTE_DIMS.VALID 1).setFld ROUTE_DIMS.off ROUTE_DIMS.NX 3).unreachable 1024 = false ∧ (sHal 15 0 2 0).halLive 0 15 = true ∧ ((sHal 15 0 2 0).hal 0 15).sends = [] := by decide +kernel
theorem test_wit_shakes : (pnS hkOpen 0 0).typ.toNat = tMGMT ∧ Pennant.halKind (pnS hkOpen 0 0) = hkOpen ∧ Pennant.halMsg (pnS hkOpen 0 15) = hmsg 15 ∧
    (sHal 0 1 1 0).hRecv 0 0 = true ∧ (sHal 0 1 1 0).hst 0 0 = 1 ∧ (sHal 0 1 1 0).hNames 5 (hmsg 0) = true ∧ (pnS hkOpen 0 0).src = 5 ∧
    Pennant.halKind (pnS hkAccept (8 * 2 ^ 12 + 1) 15) = hkAccept ∧ Pennant.halArg (pnS hkAccept (8 * 2 ^ 12 + 1) 15) = 8 * 2 ^ 12 + 1 ∧
    (sHal 15 0 1 0).answers 5 (hmsg 15) = true ∧ 2 ^ 8 < 2 ^ CTX_HAL_STS.LEVEL.len ∧ Pennant.halKind (pnS hkReject 0 15) = hkReject ∧
    (sHal 15 0 2 0).answers 5 (hmsg 15) = false ∧ Pennant.halKind (pnS hkClose 0 15) = hkClose ∧ Pennant.halKind (pnS hkRefused 0 15) = hkRefused ∧
    (sHal 15 0 2 0).hNames 5 (hmsg 15) = true := by decide +kernel

/-- An OPEN send halyard with a send of 8 bytes at 0x3000, described in the cluster memory. -/
def sSend (lv q : Nat) (l : List Send) : State :=
  ((((((sHal 15 0 2 lv).writeNat 0x020000002000 8 0x3000).writeNat 0x020000002008 4 8).writeNat 0x3000 8 0x1122334455667788).setFld (CTX_HAL_STS.off 0 15) CTX_HAL_STS.QUEUED q).modHal
    0 15 fun _ => ⟨l, 1, false⟩)
def snd1 : Send := ⟨0x020000002000, 0, false, 0, 0⟩
def snd2 : Send := ⟨0x020000002000, 0, true, 0x8000800000000000, 0⟩
def snd3 : Send := ⟨0x020000002000, 0, true, 0x8000A00000000000, 0⟩
theorem test_wit_halyard_sends : (sSend 0 63 []).hsts 0 15 CTX_HAL_STS.QUEUED = 63 ∧ 64 ≤ (sSend 0 64 []).hsts 0 15 CTX_HAL_STS.QUEUED ∧
    (sSend 0 63 []).hst 0 15 = 2 ∧ ((sSend 1 1 [snd1]).hal 0 15).sends.find? (fun x => !x.started) = some snd1 ∧
    (sSend 1 1 [snd1]).hsts 0 15 CTX_HAL_STS.LEVEL ≠ 0 ∧ ((sSend 1 1 [snd1]).ctx 0).suspend = none ∧ ((sSend 1 1 [snd1]).ctx 0).st ≠ .suspended ∧
    (sSend 1 1 [snd1]).sendBad 0 snd1.desc (bytesToWords 8 ((sSend 1 1 [snd1]).readBytes snd1.desc 64)) (((sSend 1 1 [snd1]).hal 0 15).slotSz * 4096) = false ∧
    (sSend 1 1 [snd1]).poisoned snd1.desc 64 = false ∧
    (sSend 1 1 [snd1]).sendBad 0 snd1.desc (bytesToWords 8 ((sSend 1 1 [snd1]).readBytes snd1.desc 64)) 0 = true := by decide +kernel
theorem test_wit_halyard_completes : ((sSend 0 1 [snd3, snd2]).hal 0 15).sends.find? (fun x => x.started && sDlv x.word2 == false) = some snd2 ∧
    ((sSend 0 1 [snd2, snd3]).hal 0 15).sends.find? (fun x => x.started && sDlv x.word2 == true) = some snd3 ∧ (sSend 0 1 [snd3]).wasDelivered 0 15 snd3 = true ∧
    snd2.core ≠ noCore ∧ (sSend 0 1 [snd2]).hatching 0 = false ∧ ((sSend 0 1 [snd2]).ctx 0).saveAt = none ∧ (sSend 256 0 []).hRecv 0 15 = false ∧
    (sSend 256 0 []).hNames 5 (hmsg 15) = true ∧ (pnH tHCRED 2 0 256 15 0 0 0).typ.toNat = tHCRED ∧
    ((sSend 256 0 []).eseqIn (pnH tHCRED 2 0 256 15 0 0 0)).2 = true := by decide +kernel
/-- The header of message 0, of 8 bytes, and a payload of 64 bytes at the last place of the slot. -/
def pnHd : Pennant := pnH tHDATA 2 hkHeader 0 0 23 0 (BitVec.ofNat 512 (8 * 2 ^ 32))
def pnPay (eseq : BitVec 16) : Pennant := pnH tHDATA 2 hkPayload 62 0 63 eseq 7
theorem test_wit_halyard_receives : (sHal 0 1 2 1).hRecv 0 0 = true ∧ (sHal 0 1 2 1).hst 0 0 = 2 ∧ (sHal 0 1 2 1).hNames 5 (hmsg 0) = true ∧
    (pnPay 0).typ.toNat = tHDATA ∧ Pennant.halKind (pnPay 0) = hkPayload ∧ Pennant.halMsg (pnPay 0) = hmsg 0 ∧ ((sHal 0 1 2 1).eseqIn (pnPay 0)).2 = true ∧
    ((Pennant.bytes (pnPay 0) 64).take (4096 - 64 - 64 * 62)).length = 64 ∧ (sHal 0 1 2 1).pinForbids (some 0) false (0x100000 + 64 + 64 * 62) 64 = false ∧
    Pennant.halKind pnHd = hkHeader ∧ leNat ((Pennant.held pnHd).take 4) = (sHal 0 1 2 1).hsts 0 0 CTX_HAL_STS.SEQ ∧
    (sHal 0 1 2 1).ringBase 0 0 + 0 % (sHal 0 1 2 1).ringSlots 0 0 = 0x100000 ∧
    (sHal 0 1 2 1).slotBytes 0 0 = 4096 ∧ (sHal 0 1 2 1).pinForbids (some 0) false 0x100000 64 = false ∧
    (sHal 0 1 2 1).hsts 0 0 CTX_HAL_STS.LEVEL + 1 < 2 ^ CTX_HAL_STS.LEVEL.len ∧ (sHal 0 1 2 1).hsts 0 0 CTX_HAL_STS.LEVEL < 2 % 512 ∧
    (({ sHal 0 1 2 1 with eseqRx := [(flowKey 5 2, (1, true))] } : State).eseqIn (pnPay 0)).2 = false := by decide +kernel

def vh (c : Nat) : VHold := ⟨1, 0, 255, c⟩
/-- Context 0 shares its versions with context 1; KEEP is 2, TAG 0. -/
def sVh (l : List VHold) : State := { ((sA.csrSet (CTX_VER_SHARE.off 0) 2).setFld (CTX_VTAG.off 0) CTX_VTAG.KEEP 2) with vholds := l }
theorem test_wit_holds : (sVh []).holdOk 1 0 255 = true ∧ ((sVh []).vholds.find? fun h => h.holder == 1 && h.owner == 0 && h.tag == 255) = none ∧
    (sVh []).vholds.length < 1024 ∧ (sVh [vh 0xFFFE]).holdOk 1 0 255 = true ∧
    ((sVh [vh 0xFFFE]).vholds.find? fun h => h.holder == 1 && h.owner == 0 && h.tag == 255) = some (vh 0xFFFE) ∧ (vh 0xFFFE).count < 0xFFFF ∧
    (sVh []).holdOk 1 0 254 = false ∧ (sVh []).holdOk 1 0 5 = false ∧ (sVh []).holdOk 1 0 4 = true ∧ (sVh []).holdOk 2 0 0 = false ∧
    (sVh []).hatching 1 = false ∧ ((sVh [vh 1]).vholds.find? fun h => h.holder == 1 && h.owner == 0 && h.tag == 255) = some (vh 1) ∧ (vh 1).count = 1 ∧
    1 < (vh 2).count ∧ ((sVh [vh 2]).vholds.find? fun h => h.holder == 1 && h.owner == 0 && h.tag == 255) = some (vh 2) := by decide +kernel

/-- Port 15 with direction 0, in a state; its latched configuration. -/
def sPo (st : Nat) (cfg : Word) (w : Nat) : State :=
  let s := (sA.setFld PKG_FAB_ALLOC.off PKG_FAB_ALLOC.DIRS 0).setFld (FAB_STS.off 15) FAB_STS.STATE st
  s.modFport 15 fun f => { f with dir := 0, cfg := cfg, signal := true, good := (w, 8) }
def cfgLh : Word := BitVec.ofNat 64 (put 1 62 + put 2 44)
theorem test_wit_port_trains : (sPo 0 0 8).pst 15 = 0 ∧ getFld (BitVec.ofNat 64 (put 1 63)) FAB_CFG.EN = 1 ∧ (sPo 0 0 8).allocDir 15 ≠ 7 ∧
    getFld 0 FAB_CFG.EN = 0 ∧ mergeSz ((sPo 7 0 8).csrGet (FAB_CFG.off 15)) .hi32 0 = 0 ∧ (sPo 1 0 8).pst 15 = 1 ∧ (sPo 8 0 8).pst 15 = 8 ∧ (sPo 9 0 8).pst 15 = 9 ∧ (sPo 2 0 8).pst 15 = 2 ∧ (sPo 3 cfgLh 8).pst 15 = 3 ∧
    getFld ((sPo 3 cfgLh 8).fport 15).cfg FAB_CFG.LH = 1 ∧ getFld ((sPo 3 cfgLh 8).fport 15).cfg FAB_CFG.RATE64 = 0 ∧ (sPo 5 0 8).pst 15 = 5 := by decide +kernel
/-- The identity block of port 1 of package 7, for direction 1. -/
def idt (rank : Nat) (sh : Bool) : Identity := ⟨7, 1, 1, rank, 2, [], 0, 0, false, sh⟩
theorem test_wit_port_states : (sPo 4 0 8).pst 15 = 4 ∧ (sPo 4 0 8).identBad 15 (idt 0 false) = 0 ∧ (sPo 4 0 8).identBad 15 (idt 1 false) = 1 ∧
    (idt 0 true).shut = true ∧ (sPo 6 cfgLh 4).pst 15 = 6 ∧ 2 ^ getFld ((sPo 6 cfgLh 4).fport 15).cfg FAB_CFG.MINW ≤ widthOf ((sPo 6 cfgLh 4).fport 15).good.1 false ∧
    2 ^ getFld ((sPo 6 cfgLh 4).fport 15).cfg FAB_CFG.MINW ≤ widthOf ((sPo 6 cfgLh 4).fport 15).good.2 false ∧
    widthOf ((sPo 6 cfgLh 3).fport 15).good.1 false < 2 ^ getFld ((sPo 6 cfgLh 3).fport 15).cfg FAB_CFG.MINW ∧
    ((sPo 6 cfgLh 4).fsts 15 FAB_STS.PEER_GEN == 1) = false ∧ (sPo 5 0 8).pst 15 = 5 ∧ (sPo 5 0 8).eqDue 15 = false ∧ (sPo 7 0 8).pst 15 = 7 ∧ (sPo 7 0 8).fsts 15 FAB_STS.PAIR_ACT = 0 ∧
    (sPo 7 0 8).fld (FAB_ERRCTL.off 15) FAB_ERRCTL.FLAP_MAX = 4 ∧
    ((sPo 7 0 8).setFld (FAB_ERRCTL.off 15) FAB_ERRCTL.FLAP_MAX 0).fld (FAB_ERRCTL.off 15) FAB_ERRCTL.FLAP_MAX = 0 := by decide +kernel
def pnW : Pennant := ⟨2, BitVec.ofNat 4 tWRITE, 3, false, true, false, 9, 0, 0, 7, 0, 1, 0x020000001000, 0x1122334455667788⟩
def txp : TxPen := ⟨pnW, 3, true, false, 0, none, none, false, 0⟩
def sPb (q : List TxPen) (n : Nat) : State :=
  (((sPo 7 0 8).setFld (FAB_STS.off 15) FAB_STS.WIDTH 8).setFld (FAB_LANE.off 15) FAB_LANE.LMAP 0xFAC688).modFport 15 fun f =>
    { f with txq := q, win := List.replicate n ⟨0xFFFFFF, [], false⟩, nextSeq := 0xFFFFFF, rxNext := 0xFFFFFF, txLanes := [0, 1, 2, 3, 4, 5, 6, 7] }
def trl (q : BitVec 24) : Trailer := ⟨q, 0, false, false, List.replicate 8 0, 0⟩
theorem test_wit_port_blocks : (sPo 4 0 8).pst 15 = 4 ∧ (sPo 9 0 8).pst 15 = 9 ∧ ((sPb [txp] 0).fport 15).resend = none ∧
    ((sPb [txp] 0).fport 15).win.length < (sPb [txp] 0).winBlocks 15 ∧ (FPort.fill ((sPb [txp] 0).poolSlots 15) 6 ((sPb [txp] 0).fport 15)).1 ≠ [] ∧
    ((sPb [txp] 1).fport 15).win.find? (fun b => !b.acked) = some ⟨0xFFFFFF, [], false⟩ ∧
    (∀ l, l < 8 → ((sPb [] 0).fport 15).msCorr.getD l 0 ≤ (sPb [] 0).fld (FAB_ERRCTL.off 15) FAB_ERRCTL.LANE_LIM) ∧
    ((sPb [] 0).fport 15).msBad + 1 ≤ (sPb [] 0).fld (FAB_ERRCTL.off 15) FAB_ERRCTL.UNC_LIM ∧ ((sPb [] 0).fport 15).nakAt = none ∧
    penOk ((sPb [] 0).peerKt1 15) pnW = true ∧ (((sPo 7 0 8).setFld (FAB_STS.off 15) FAB_STS.LH_ACT 1).fport 15).resend = none ∧
    ((sPo 7 0 8).setFld (FAB_STS.off 15) FAB_STS.LH_ACT 1).winBlocks 15 ≤ (((sPo 7 0 8).setFld (FAB_STS.off 15) FAB_STS.LH_ACT 1).fport 15).win.length := by decide +kernel
/-- A block due for resending, not yet resent and resent as often as it may be. -/
def sRs (k : Nat) : State := (sPb [] 1).modFport 15 fun f => { f with resend := some 0xFFFFFF, resent := (0xFFFFFF, k) }
theorem test_wit_resends : (((sRs 0).fport 15).resend.bind fun q => ((sRs 0).fport 15).win.find? fun b => b.seq == q) = some ⟨0xFFFFFF, [], false⟩ ∧
    ((sRs 0).fport 15).resent = (0xFFFFFF, 0) ∧ 0 < max 1 ((sRs 0).fld (FAB_ERRCTL.off 15) FAB_ERRCTL.RETRY_MAX) ∧
    max 1 ((sRs 255).fld (FAB_ERRCTL.off 15) FAB_ERRCTL.RETRY_MAX) ≤ 255 ∧ (sRs 255).flaps 15 = false := by decide +kernel
/-- The bytes that a block puts on eight lanes, as its own port would send them with the scrambler at its reset. -/
def lanesOf (t : Trailer) (typ : Nat) (slots : List Pennant) : List (List Byte) :=
  let x := (((sPb [] 0).setFld (FAB_STS.off 15) FAB_STS.TXW 8).onLanes 15 (blockBytes t typ slots)).1
  (List.range 8).map fun l => tget [] x l
theorem test_wit_bad_block : ((sPb [] 0).rxLine 15 []).1 = .bad (List.replicate 8 0) := by decide +kernel
theorem test_wit_idle_block : ((sPb [] 0).rxLine 15 (lanesOf (trl 0xFFFFFF) btIdle [])).1 = .idle (trl 0xFFFFFF) (List.replicate 8 0) := by decide +kernel
theorem test_wit_data_block : ((sPb [] 0).rxLine 15 (lanesOf (trl 0xFFFFFF) btData [pnW])).1 = .data (trl 0xFFFFFF) [some pnW, none, none, none, none, none] (List.replicate 8 0) := by decide +kernel

/-- The same bytes on the lanes of a port that expects another sequence number. -/
def sSkip : State := (sPb [] 0).modFport 15 fun f => { f with rxNext := 3 }
theorem test_wit_block_out_of_sequence : (sSkip.rxLine 15 (lanesOf (trl 0xFFFFFF) btData [pnW])).1 = .data (trl 0xFFFFFF) [some pnW, none, none, none, none, none] (List.replicate 8 0) ∧
    (trl 0xFFFFFF).bseq.toNat ≠ (sSkip.fport 15).rxNext ∧ (trl 0xFFFFFF).bseq.toNat = ((sPb [] 0).fport 15).rxNext := by
  refine ⟨?_, by decide +kernel, by decide +kernel⟩
  rw [← test_wit_data_block]
  have h : (sSkip.fport 15).scrRx = ((sPb [] 0).fport 15).scrRx := by decide +kernel
  have h2 : sSkip.csr = (sPb [] 0).csr := rfl
  simp only [State.rxLine, h, State.fsts, State.fld, State.csrGet, h2]
  rfl


/-! The routing plane, requests, answers, detours. -/

/-- Four packages on X, this one at 0; port 15 in direction 0 ACTIVE; a slice that holds them all. -/
def sRt : State :=
  ((((sPo 7 0 8).setFld ROUTE_DIMS.off ROUTE_DIMS.VALID 1).setFld ROUTE_DIMS.off ROUTE_DIMS.NX 3).setFld ROUTE_SLICE.off ROUTE_SLICE.VALID 1).setFld
    ROUTE_SLICE.off ROUTE_SLICE.EX 3
def rin (dst : PkgId) : RIn := ⟨{ pnW with dst := dst }, none, none, false⟩
def reqW (dst : PkgId) : Req := ⟨.write, dst, 0x1000, 65, List.replicate 65 7, [], 0, false, .none⟩
theorem test_wit_routing : sRt.self = 0 ∧ (rin 0).pn.typ.toNat = tWRITE ∧ (rin 0).pn.dst.toNat = sRt.self ∧ (rin 1024).pn.dst.toNat ≠ sRt.self ∧
    sRt.noSuchPkg 1024 = false ∧ (rin 1024).pn.hops.toNat < 255 ∧ sRt.routeDir (rin 1024).arr 1024 = (0, true) ∧ sRt.dirUp 0 = true ∧
    (sRt.det 0).st ≠ .tear ∧ sRt.penPort 0 (rin 1024).pn.vc.toNat (rin 1024).pn = some 15 ∧ (rin 1024).pn.dtr = false ∧ sRt.rq = [] ∧
    ({ sRt with rq := [] } : State).fetchIn (rin 1024) = (rin 1024, { sRt with rq := [] }) ∧ (rin 1024).origin = none ∧
    (reqW 1024).kind = .write ∧ sRt.unreachable (reqW 1024).dst.toNat = false ∧ sRt.outPens 1024 (reqW 1024).vc + (reqW 1024).pens ≤ 16384 ∧
    (reqW 4096).ref = .none ∧ sRt.unreachable (reqW 4096).dst.toNat = true ∧ getFld 0 ROUTE_DIMS.ORDER < 6 := by decide +kernel

/-- Function 0 of port 0 has HBM shared with other packages. -/
def sIn (pn : Pennant) (e : Nat) : State :=
  { ((((sRt.setFld PKG_MOD_ID.off PKG_MOD_ID.READY_PIN 1).setFld (PKG_SHARE.off 0 0) PKG_SHARE.FAB 1).setFld (PKG_SHARE.off 0 0) PKG_SHARE.HSIZE 1)) with
    inbox := [⟨pn, none, none, false⟩], eseqRx := [(flowKey pn.src.toNat pn.vc.toNat, (e, false))] }
def pnIn (a : Nat) (q : BitVec 16) (pay : BitVec 512) (last : Bool) : Pennant := ⟨2, BitVec.ofNat 4 tWRITE, 3, false, last, false, 0, 1024, 5, 63, 0, q, BitVec.ofNat 48 a, pay⟩
def pnA : Pennant := pnIn 0xFC0 0xFFFF 0x41 true
def pnB : Pennant := pnIn 0xFBF 1 0x41 true
def pnC : Pennant := pnIn 0x1FF8 1 0x2 true
theorem test_wit_serves : takeFirst (fun x : RIn => x.pn == pnA) (sIn pnA 0xFFFF).inbox = some (⟨pnA, none, none, false⟩, []) ∧
    tget? (sIn pnA 0xFFFF).eseqRx (flowKey pnA.src.toNat pnA.vc.toNat) = some (0xFFFF, false) ∧ pnA.eseq.toNat ≠ 0 ∧
    pnA.eseq.toNat % 65535 = 0xFFFF % 65535 ∧ (sIn pnA 0xFFFF).remoteOk 1024 0xFC0 64 true = true ∧ 0xFC0 % 4096 + 64 ≤ 4096 ∧
    (sIn pnA 0xFFFF).remoteOk 1024 0x40000000 64 true = false ∧ pnA.last = true ∧ tget 0 (sIn pnA 0xFFFF).wbad (flowKey 1024 3) = 0 ∧
    leNat ((Pennant.held pnB).take 4) = 65 ∧ 0xFBF % 4096 + 65 ≤ 4096 ∧ (sIn pnB 1).remoteOk 1024 0xFBF 65 false = true ∧ (sIn pnB 1).poisoned 0xFBF 65 = false ∧
    leNat ((Pennant.held pnC).take 1) = 2 ∧ ((sIn pnC 1).atomUnit 0x1FF8).isSome = true ∧ 0x1FF8 % 8 = 0 ∧
    (sIn pnC 1).remoteOk 1024 0x1FF8 8 (2 != 2) = true ∧ 32768 ≤ (pnB.eseq.toNat + 65535 - 2) % 65535 := by decide +kernel

def ansPn (typ vc : Nat) (a : Nat) : Pennant := ⟨2, BitVec.ofNat 4 typ, BitVec.ofNat 3 vc, false, true, false, 0, 1024, 5, 7, 0, 9, BitVec.ofNat 48 a, 0x1122334455667788⟩
def flA (r : Option Nat) : Flight := { fl 0 (.load 8 false) (some 7) 0 with remote := r }
def oreq (k : ReqKind) : OReq := ⟨⟨k, 1024, 0x40, 8, [], [], 1, false, .flight 0 0⟩, 0x1234, 3, 0, 0xFFFFFFFFFFF8, 16⟩
def sAns (pn : Pennant) (k : ReqKind) : State :=
  { sRt with inbox := [⟨pn, none, none, false⟩], eseqRx := [(flowKey 1024 pn.vc.toNat, (9, false))], oreqs := [oreq k], time := 1000000000
             cores := [(0, { cAreg with flights := [flA (some 1024)] })] }
def pnD : Pennant := ansPn 2 5 0x8
def pnE (st : Nat) : Pennant := ansPn 5 5 (0x1234 + put st 16)
def sRes : State := { sRt with
  resps := [pnD], wacks := [⟨1024, 3, 9, 5, true⟩, ⟨1024, 4, 0xFFFF, 5, false⟩], atomAns := [(4, 0x55, true)],
  serving := [⟨3, 7, 0, 0, 0, 0, 0, 0, 0, 0, true⟩, ⟨4, 1024, 5, 0, 0x1FF8, 0, 0, 0, 9, 3, false⟩] }
theorem test_wit_answers : sRes.resps = [pnD] ∧ ({ sRes with resps := [] } : State).atomAns = [(4, 0x55, true)] ∧
    (sRes.serving.find? fun q => q.id == 4).map (·.src) = some 1024 ∧ sRes.wacks[1]? = some ⟨1024, 4, 0xFFFF, 5, false⟩ ∧ isCtl 0 = false ∧
    (sAns pnD .read).flight 0 0 = some (flA (some 1024)) ∧ (oreq .read).req.ref = .flight 0 0 ∧ (sAns pnD .read).oreqs = [oreq .read] ∧
    takeFirst (fun x : RIn => x.pn == pnD) (sAns pnD .read).inbox = some (⟨pnD, none, none, false⟩, []) ∧
    tget? (sAns pnD .read).eseqRx (flowKey pnD.src.toNat pnD.vc.toNat) = some (pnD.eseq.toNat, false) ∧ pnD.eseq.toNat ≠ 0 ∧
    (oreq .read).vc + 2 = pnD.vc.toNat ∧ (oreq .read).req.dst = pnD.src ∧ ((oreq .read).ret + (oreq .read).got) % 2 ^ 48 = pnD.addr.toNat ∧ pnD.last = true ∧
    (oreq .write).eseq.toNat = bits (pnE 4).addr.toNat 0 16 ∧ (oreq (.atomic 1)).req.kind = .atomic 1 ∧
    (oreq .read).sent + max 1 ((sAns pnD .read).fld ROUTE_CTL.off ROUTE_CTL.TMO) * 1000000 ≤ (sAns pnD .read).time := by decide +kernel

def dsm (path : List (Fin 6)) : DetourMsg := ⟨1024, 2, 5, path⟩
def sDet (x : Detour) (own mode : Nat) : State :=
  (((((({ sRt with dets := [(0, x)] } : State).setFld (ROUTE_RELAY.off 5) ROUTE_RELAY.VALID 1).setFld (ROUTE_RELAY.off 5) ROUTE_RELAY.OWNER own).setFld
    (ROUTE_RELAY.off 5) ROUTE_RELAY.MODE mode).setFld (ROUTE_RELAY.off 5) ROUTE_RELAY.OUT 4).setFld (ROUTE_DET.off 0) ROUTE_DET.INF 1)
def dSet1 : Detour := ⟨.setup, false, some 2, [3, 4], [], [], 0⟩
theorem test_wit_detours : (dsm []).path = [] ∧ sRt.bit (ROUTE_RELAY.off 5) ROUTE_RELAY.VALID = false ∧
    (sDet dSet1 7 2).bit (ROUTE_RELAY.off 5) ROUTE_RELAY.VALID = true ∧ (sDet dSet1 7 2).fld (ROUTE_RELAY.off 5) ROUTE_RELAY.OWNER ≠ (dsm []).owner.toNat ∧
    ((sDet dSet1 7 2).det 0).cur = some 2 ∧ ((sDet dSet1 7 2).det 0).byp = false ∧ ((sDet dSet1 7 2).det 0).sides = [] ∧
    ((sDet dSet1 7 2).det 0).todo = 3 :: [4] ∧ (sDet dSet1 7 2).fld (ROUTE_RELAY.off 5) ROUTE_RELAY.OWNER = (7 : PkgId).toNat ∧
    (sDet dSet1 7 2).fld (ROUTE_RELAY.off 5) ROUTE_RELAY.MODE = 2 ∧ ((sDet { dSet1 with st := .tear, left := 1 } 7 2).det 0).st = .tear ∧
    (sDet { dSet1 with st := .tear, left := 1 } 7 2).dirUp 0 = true := by decide +kernel

/-! Collectives and votes. -/

/-- Group 15 of context 63 over the four packages, key 5, this package at rank 0. -/
def sGr (l : List Coll) : State :=
  ((((({ sRt with colls := l, time := 77 } : State).setFld (CTX_COL_GRP.off 63 15) CTX_COL_GRP.VALID 1).setFld (CTX_COL_GRP.off 63 15) CTX_COL_GRP.AX0 1).setFld
    (CTX_COL_GRP.off 63 15) CTX_COL_GRP.GKEY 5).setFld (CTX_COL_SUB.off 63 15) CTX_COL_SUB.FULL 1)
def grpW (key : Nat) : Word := BitVec.ofNat 64 (put 1 63 + put 1 60 + put key 32)
def colD (k n : Nat) : List Word :=
  [BitVec.ofNat 64 (put 15 56), 0x10000, 0x20000, BitVec.ofNat 64 n, 0, 0, 0, BitVec.ofNat 64 (put k 32)]
def col1 (kind : Nat) (st : ColSt) : Coll :=
  ⟨63, 15, 7, kind, colD 1 64, 0, 0, qNop 0, 0, st, 0, 0, [], [⟨1, 0, List.replicate 65 3, none, false, false, some 2⟩], [], [], [], [(1, 1)], [], [], [], [], [], [], 0, 0, 0, false, false, [], [], false⟩
/-- A CHUNK pennant of package 3072 (rank 2) for the group. -/
def pnK (sub cidx pidx : Nat) (pay : BitVec 512) (src : PkgId) : Pennant := ⟨2, 6, 1, false, false, false, 0, src, 63, 15, 0, 7, BitVec.ofNat 48 (chunkAddr 5 sub cidx pidx), pay⟩
/-- The group registers at their reset values, but for group 15 of context 63: what finding a key gives, and the check of a new group. -/
theorem test_grp_resets : ((List.range 1024).all fun i => csrReset (CTX_COL_GRP.off (i / 16) (i % 16)) == 0) = true := by decide +kernel
/-- No group register is listed but that of group 15 of context 63. -/
def onlyGrp (s : State) : Bool := s.csr.all fun x => decide (x.1 % 0x1000 < 0x600) || decide (0x700 ≤ x.1 % 0x1000) || x.1 % 16 == 8 || x.1 == 0x5F6F0
theorem test_grp_off {s : State} (h : onlyGrp s = true) (i : Nat) (hi : i < 1023) :
    s.gValid (i / 16) (i % 16) = false := by
  have h0 := List.all_eq_true.mp test_grp_resets i (List.mem_range.mpr (by omega))
  have h1 : (s.csr.all fun x => x.1 != CTX_COL_GRP.off (i / 16) (i % 16)) = true := by
    rw [List.all_eq_true]
    intro x hx
    have := List.all_eq_true.mp h x hx
    simp only [Bool.or_eq_true, decide_eq_true_eq, beq_iff_eq, bne_iff_ne, CTX_COL_GRP.off] at this ⊢
    omega
  have h2 : ∀ (t : Tbl Word) (o : Nat) (d : Word), (t.all fun x => x.1 != o) = true → tget d t o = d := by
    intro t o d
    induction t with
    | nil => simp [tget]
    | cons x t ih =>
      intro hx
      simp only [List.all_cons, Bool.and_eq_true, bne_iff_ne, ne_eq] at hx
      simp [tget, hx.1, ih hx.2]
  simp only [State.gValid, State.bit, State.fld, State.csrGet, h2 _ _ _ h1, beq_iff_eq] at h0 ⊢
  rw [h0]; decide
theorem test_grp_key {s : State} (h : onlyGrp s = true) (key : Nat) :
    s.gByKey key = if s.gValid 63 15 && s.gKey 63 15 == key then some (63, 15) else none := by
  have e : (List.range 1023).findSome? (fun i => if s.gValid (i / 16) (i % 16) && s.gKey (i / 16) (i % 16) == key then
      some ((Fin.ofNat 64 (i / 16) : CtxId), i % 16) else none) = none := by
    rw [List.findSome?_eq_none_iff]
    intro i hi
    simp [test_grp_off h i (List.mem_range.mp hi)]
  rw [State.gByKey, List.range_succ (n := 1023), List.findSome?_append, e]
  by_cases hb : (s.gValid 63 15 && s.gKey 63 15 == key) = true <;> simp_all
theorem test_grp_ok {s : State} (h : onlyGrp s = true) (gw sw : Word)
    (h1 : s.inSlice = true) (h2 : getFld gw CTX_COL_GRP.AX0 ≠ 0) (h3 : ((axCodes gw).filter (· != 0)).Nodup)
    (h4 : ((axCodes gw).take ((axCodes gw).filter (· != 0)).length == (axCodes gw).filter (· != 0)) = true)
    (h5 : ((s.axesOf gw sw).all fun a => let i := coord s.self a.axis - s.origin a.axis
      decide (a.lo + a.e ≤ s.extent a.axis) && decide (a.lo ≤ i) && decide (i < a.lo + a.e)) = true) (h6 : getFld gw CTX_COL_GRP.GKEY ≠ 0) :
    s.gOk 63 15 gw sw = true := by
  have e : ((List.range 1024).all fun i => (i / 16 == 63 && i % 16 == 15) || !(s.gValid (i / 16) (i % 16) && s.gKey (i / 16) (i % 16) == getFld gw CTX_COL_GRP.GKEY)) = true := by
    rw [List.all_eq_true]
    intro i hi
    have := List.mem_range.mp hi
    by_cases hc : i = 1023
    · subst hc; rfl
    · simp [test_grp_off h i (by omega)]
  simp only [State.gOk, Bool.and_eq_true, bne_iff_ne, decide_eq_true_eq]
  exact ⟨⟨⟨⟨⟨⟨h1, h2⟩, h3⟩, h4⟩, h5⟩, h6⟩, e⟩
theorem test_wit_groups : (sGr [col1 0 .open]).gBusy 63 15 = true ∧ (sGr []).gBusy 63 15 = false ∧ getFld 0 CTX_COL_GRP.VALID = 0 ∧
    getFld (grpW 6) CTX_COL_GRP.VALID = 1 ∧
    (sGr []).gOk 63 15 (grpW 0) ((sGr []).csrGet (CTX_COL_SUB.off 63 15)) = false := by decide +kernel
def cOpen (k : Nat) : Coll := { col1 k .open with ready := [] }
/-- A permute with chunks of 64 KiB; sixteen that run fill the buffer of their unit. -/
def colB : Coll := { cOpen 2 with desc := [BitVec.ofNat 64 (put 15 56 + put 4 32)] }
def sBig : State := sGr ({ colB with st := .queued } :: List.replicate 16 { colB with epoch := 8 })
def cntPay : BitVec 512 := BitVec.ofNat 512 (leNat (listCount 4096 [(0x100, 5)]))
theorem test_wit_group_ok : (sGr []).gOk 63 15 (grpW 6) ((sGr []).csrGet (CTX_COL_SUB.off 63 15)) = true :=
  test_grp_ok (by decide +kernel) _ _ (by decide +kernel) (by decide +kernel) (by decide +kernel) (by decide +kernel) (by decide +kernel) (by decide +kernel)
theorem test_grp_five (l : List Coll) : (sGr l).gByKey 5 = some (63, 15) :=
  (test_grp_key (s := sGr []) (by decide +kernel) 5).trans (by decide +kernel)
/-- The collective that a chunk belongs to, once its group is found. -/
theorem test_grp_chunk {s : State} {pn : Pennant} {n : CtxId} {g k : Nat} (hk : pnKey pn = k) (h : s.gByKey k = some (n, g)) : s.chunkColl pn =
    (match s.coll? n.val g pn.eseq with
     | some c => if c.running && s.gMember (s.cAxes c) pn.src.toNat then some (c, s.gRankOf (s.cAxes c) pn.src.toNat) else none
     | none => none) := by
  unfold State.chunkColl; rewrite [hk, h]; rfl
theorem test_wit_chunks : (sGr []).chunkColl (pnK 0 0 0 0 3072) = none ∧ (sGr [cOpen 0]).chunkColl (pnK 2 0 0 4 1024) = some (cOpen 0, 3) ∧
    (sGr [cOpen 0]).chunkColl (pnK 0 0x1FFFF 2047 4 1024) = some (cOpen 0, 3) ∧ (sGr [cOpen 2]).chunkColl (pnK 3 0 0 cntPay 1024) = some (cOpen 2, 3) :=
  ⟨(test_grp_chunk (by decide +kernel) (test_grp_five _)).trans (by decide +kernel), (test_grp_chunk (by decide +kernel) (test_grp_five _)).trans (by decide +kernel),
    (test_grp_chunk (by decide +kernel) (test_grp_five _)).trans (by decide +kernel), (test_grp_chunk (by decide +kernel) (test_grp_five _)).trans (by decide +kernel)⟩
theorem test_wit_collectives : (sGr [col1 0 .queued]).coll? 63 15 7 = some (col1 0 .queued) ∧ (col1 0 .queued).st = .queued ∧
    ((sGr [col1 0 .queued]).colls.filter fun x => x.running && x.unit == (col1 0 .queued).unit) = [] ∧ (sGr [col1 0 .queued]).window (col1 0 .queued) ≤ 0x1000000 ∧
    (sGr [col1 0 .queued]).senders (col1 0 .queued) = [3] ∧
    sBig.coll? 63 15 7 = some { colB with st := .queued } ∧
    0x1000000 < (sBig.colls.filter fun x => x.running && x.unit == colB.unit).foldl (fun m x => m + sBig.window x) 0 + sBig.window { colB with st := .queued } ∧
    tget 0 (col1 0 .open).credit 2 = 0 ∧ tget 0 (col1 0 .open).credit 1 ≠ 0 ∧
    ((col1 0 .open).ready.find? (fun o => o.rank == 1 && o.cidx == tget 0 (col1 0 .open).sentTo 1)).map (·.bytes.length) = some 65 ∧
    (({ sGr [col1 0 .open] with ctxs := [(63, { Ctx.reset with suspend := some ⟨3, 0⟩ })] } : State).ctx 63).suspend.isSome = true ∧
    (col1 0 .open).live = true ∧ (col1 0 .open).refused = false ∧
    pnSub (pnK 0 0 0 0 3072) = 0 ∧ pnSub (pnK 2 0 0 0 3072) = 2 ∧ pnSub (pnK 3 0 0 0 3072) = 3 ∧
    (pnCidx (pnK 0 0x1FFFF 2047 4 1024) + 2 ^ 18 - tget 0 (cOpen 0).gotFrom 3 % 2 ^ 18) % 2 ^ 18 < 2 ^ 17 ∧
    2 ^ 17 ≤ (pnCidx (pnK 1 0x20000 0 4 1024) + 2 ^ 18 - tget 0 (cOpen 0).gotFrom 3 % 2 ^ 18) % 2 ^ 18 ∧ (cOpen 0).inq = [] ∧
    cExpert (cOpen 2).desc = false ∧ pnPidx (pnK 3 0 0 cntPay 1024) = 0 ∧ (cOpen 2).own = [] ∧
    countPlaces (cOpen 2) (pnBytes (pnK 3 0 0 cntPay 1024)) = some [(0x20100, 5)] ∧
    ([(0x20100, 5)].any fun p => decide (cDst (cOpen 2).desc + cRwin (cOpen 2).desc < p.1 + p.2)) = false ∧
    ([(0x20100, 5)].any fun p => decide (cDst { cOpen 2 with desc := colD 0 64 }.desc + cRwin { cOpen 2 with desc := colD 0 64 }.desc < p.1 + p.2)) = true := by decide +kernel
def vt (k r : Nat) (fl : Nat) (st : Nat) : Pennant := ⟨2, 7, 1, false, true, false, 0, 2048, 63, 63, 0, 0, BitVec.ofNat 48 st, BitVec.ofNat 512 (5 + put k 16 + put fl 24 + put r 32 + put 3 48)⟩
/-- Steps 1 of the commit group: this member at rank 0 or, from package 2048, at rank 1. -/
def sVt (self : Nat) (sts : List StepRec) (vs : List Vote) : State :=
  { (((sGr []).setFld ROUTE_DIMS.off ROUTE_DIMS.SELF self).setFld (CTX_COL_CTL.off 63) CTX_COL_CTL.CMT_EN 1).setFld (CTX_COL_CTL.off 63) CTX_COL_CTL.CMT_GRP 15 with
    steps := sts, votes := vs }
def vote1 : Vote := ⟨63, 1, 0, 0, qNop 0, 0, false, 0, false, false⟩
def sStall (c : Coll) (lim : Nat) : State := (sGr [c]).setFld (CTX_COL_CTL.off 63) CTX_COL_CTL.WDOG_US lim
def prb (key : Nat) (org : PkgId) : Probe := ⟨org, BitVec.ofNat 16 key, some 7, [(0x7FFF, 5)], some 15⟩
theorem test_wit_votes : ((sVt 2048 [] [vote1]).votes.find? fun v => v.ctx == 63 && v.step == 1 && !v.ready) = some vote1 ∧ (sVt 2048 [] [vote1]).cmtRank 63 ≠ 0 ∧
    (sVt 2048 [] [vote1]).tokens = [] ∧ (sVt 2048 [] [vote1]).colls = [] ∧ (sVt 2048 [] [vote1]).offers = [] ∧
    vKind (vt 0 1 1 1) = 0 ∧ (sVt 2048 [] []).votes = [] ∧ (sVt 0 [⟨63, 1, 2, 0, 0, 0, []⟩] []).cmtRank 63 = 0 ∧
    (sVt 0 [⟨63, 1, 2, 0, 0, 0, []⟩] []).stepSt 63 1 = 2 ∧ vFlags (vt 0 1 0 1) % 2 = 0 ∧ vFlags (vt 0 1 1 1) % 2 = 1 ∧ vKind (vt 1 1 2 1) = 1 ∧
    (sVt 0 [⟨63, 1, 2, 0, 0, 0, []⟩] []).cmtStep 63 < 1 ∧ vFlags (vt 1 1 2 1) / 2 % 2 = 1 ∧ vFlags (vt 1 1 1 1) / 2 % 2 = 0 ∧
    ((sVt 0 [⟨63, 1, 2, 0, 0, 0, []⟩] [{ vote1 with down := true }]).votes.find? fun v => v.ctx == 63 && v.down && (sVt 0 [⟨63, 1, 2, 0, 0, 0, []⟩] []).stepSt 63 v.step == 2) =
      some { vote1 with down := true } ∧ (sStall (cOpen 0) 9).fld (CTX_COL_CTL.off 63) CTX_COL_CTL.WDOG_US = 9 ∧
    (sStall (cOpen 0) 0).fld (CTX_COL_CTL.off 63) CTX_COL_CTL.WDOG_US = 0 ∧ (sStall (cOpen 0) 9).coll? 63 15 7 = some (cOpen 0) ∧ (cOpen 0).fired = false ∧
    (sStall (cOpen 0) 9).collWaits (cOpen 0) = some 3 ∧ (prb 6 1).origin.toNat ≠ (sStall (cOpen 0) 9).self ∧
    (prb 5 0).origin.toNat = (sStall (cOpen 0) 9).self := by decide +kernel
theorem test_wit_vote_keys : (sVt 2048 [] []).gByKey (vKey (vt 0 1 1 1)) = some (63, 15) ∧ ((sVt 2048 [] []).cmtOn 63 && (sVt 2048 [] []).cmtGrp 63 == 15) = true ∧
    (sStall (cOpen 0) 9).gByKey (prb 6 1).gkey.toNat = none ∧ (sStall (cOpen 0) 9).gByKey (prb 5 0).gkey.toNat = some (63, 15) :=
  ⟨(test_grp_key (by decide +kernel) _).trans (by decide +kernel), by decide +kernel, (test_grp_key (by decide +kernel) _).trans (by decide +kernel),
    (test_grp_key (by decide +kernel) _).trans (by decide +kernel)⟩
theorem test_cmt_ctx {s : State} {key : Nat} {n : CtxId} {g : Nat} (h : s.gByKey key = some (n, g)) (h2 : (s.cmtOn n.val && s.cmtGrp n.val == g) = true) :
    s.cmtCtx key = some n := by
  unfold State.cmtCtx; rw [h]; exact if_pos h2
theorem test_wit_vote_ctx : (sVt 2048 [] []).cmtCtx (vKey (vt 0 1 1 1)) = some 63 := test_cmt_ctx test_wit_vote_keys.1 test_wit_vote_keys.2.1
/-- Of two open collectives of one unit that could each send a chunk, one has its turn. -/
def sTurn : State := sGr [col1 0 .open, { col1 0 .open with epoch := 8 }]
theorem test_wit_turn : (sGr [col1 0 .open]).colTurn (col1 0 .open) = true ∧
    (sTurn.colTurn (col1 0 .open) != sTurn.colTurn { col1 0 .open with epoch := 8 }) = true := by decide +kernel


/-! The host interface and its commands. -/

def lnk (up vf : Bool) : PLink := ⟨up, 5, 4, false, vf, 31⟩
def pprt (perst two : Bool) (a : PLink) : PPort := ⟨perst, !perst, two, 31, 6, a, a⟩
def cmdN (id : Nat) (st : CmdSt) (ws : List Word) : Cmd := ⟨id, 0, 0, 7, 0, ws, st, 0, 0, 0⟩
/-- Port 0 with a link, powered, RDY; context 1 of function 0 and context 63 of function 31; a command of context 1. -/
def sH (p : PPort) (l : List Cmd) : State :=
  ({ sA with
    pports := [(0, p)], power := { State.reset.power with ok := true, on := true }, cmds := l, nextCmd := 9,
    ctxs := [(1, { Ctx.reset with st := .idle, bound := true }), (63, { Ctx.reset with st := .idle, bound := true, slot := 31 })],
    cores := [(0, { cAreg with ctx := 0, run := .idle }), (0x1000, cFreg)] } : State).setFld (HST_FN_STS.off 0 0) HST_FN_STS.RDY 1
def pUp : PPort := pprt false false (lnk true true)
def hFr (u : Bool) : Hatch := ⟨8, unitPkg, 0, [], [], true, u, true⟩
theorem test_wit_pcie : ((sH pUp []).pport 0).perst = false ∧ ((sH { pUp with perst := true } []).pport 0).perst = true ∧ (sH pUp []).power.ok = true ∧
    (sH pUp []).hasLink 0 .a = true ∧ (sH { pUp with bifur := true } []).hasLink 0 .b = true ∧ (sH pUp []).hasLink 0 .b = false ∧
    (((sH pUp []).pport 0).link .a).up = true ∧ (((sH { pUp with linkA := PLink.down } []).pport 0).link .a).up = false ∧ (sH pUp []).fnLive 0 31 = true ∧
    (sH pUp []).isPf 0 31 = false ∧ (sH pUp []).fnLive 0 (pfSlot .a) = true ∧ (((sH pUp []).pport 0).link .a).vfEn = true ∧
    (((sH { pUp with linkA := lnk true false } []).pport 0).link .a).vfEn = false ∧ 31 ≤ ((sH pUp []).pport 0).totalVf ∧ ((sH pUp []).pport 0).totalVf < 32 ∧
    ((sH pUp []).ctx 63).bound = true ∧ ((sH pUp []).ctx 63).slot = 31 ∧ (sH pUp []).hatchOver 1 (hFr true) = true ∧
    (sH pUp []).hatchOver 1 { hFr true with acted := false } = false ∧ (sH { pUp with linkA := lnk true false } []).fnLive 0 0 = true := by decide +kernel

/-- Segment 15 of function 0 maps HBM to context 0. -/
def sAp (rd wr : Bool) : State := { sH pUp [] with aps := [(15, ⟨0, 0x40000, rd, wr, true⟩)] }
/-- Queue pair 7 of function 0 with 4,096 entries and its event queue with 16, two commands waiting in the host's ring. -/
def sQu (l : List Cmd) (e : EvQ) : State :=
  (((((({ sH pUp l with evqs := [(0, e)], qpos := [(7, ⟨4095, 0, true⟩)] } : State).setFld (HST_SQ_CFG.off 0 0 7) HST_SQ_CFG.EN 1).setFld
    (HST_SQ_CFG.off 0 0 7) HST_SQ_CFG.SIZE 4095).setFld (HST_CQ_CFG.off 0 0 7) HST_CQ_CFG.EN 1).setFld (HST_CQ_CFG.off 0 0 7) HST_CQ_CFG.SIZE 4095).setFld
    (HST_EQ_CFG.off 0 0) HST_EQ_CFG.EN 1).setFld (HST_EQ_CFG.off 0 0) HST_EQ_CFG.SIZE 15
/-- Queue pair 6 beside it with one command waiting; the function's last fetch was from queue `p`. -/
def sQu2 (p : Nat) : State :=
  let x := ((((({ sQu [] (⟨0, true, [], 0⟩) with qpos := [(6, ⟨14, 0, true⟩), (7, ⟨4095, 0, true⟩)] } : State).setFld
    (HST_SQ_CFG.off 0 0 6) HST_SQ_CFG.EN 1).setFld (HST_SQ_CFG.off 0 0 6) HST_SQ_CFG.SIZE 15).setFld (HST_CQ_CFG.off 0 0 6) HST_CQ_CFG.EN 1).setFld
    (HST_CQ_CFG.off 0 0 6) HST_CQ_CFG.SIZE 15)
  { x with arb := [((Arb.fetch 0).num, (p + 1) % 8)] }
def evq0 (t l : Nat) (w : List (Bool × List Word)) : EvQ := { tail := t, phase := true, lost := l, waiting := w }
def endC (n : Nat) (st : Nat) : Cmd := { cmdN 3 .ended [BitVec.ofNat 64 n, 0, 0, 0, 0, 0, 0, 0] with status := st }
theorem test_wit_apertures : (sAp true true).fnLive 0 0 = true ∧ (sAp true true).apertureAt 0 0 15 8 2 true = some (0x40008, 0) ∧
    (sAp true false).apertureAt 0 0 15 8 2 true = none ∧ (sAp true false).apertureAt 0 0 15 0xFFFFFFFF 1 false = some (0x10003FFFF, 0) ∧
    (sAp true false).apertureAt 0 0 15 0xFFFFFFFF 2 false = none ∧ (sAp true true).poisoned 0x10003FFFF 1 = false ∧
    (sH pUp []).bit (HST_SQ_CFG.off 0 0 7) HST_SQ_CFG.EN = false ∧ getFld (BitVec.ofNat 64 (put 1 63)) HST_SQ_CFG.EN = 1 ∧
    (sH pUp []).bit (HST_CQ_CFG.off 0 0 7) HST_CQ_CFG.EN = false ∧ (sH pUp []).bit (HST_EQ_CFG.off 0 0) HST_EQ_CFG.EN = false ∧
    (sQu [] (evq0 0 0 [])).bit (HST_SQ_CFG.off 0 0 7) HST_SQ_CFG.EN = true ∧ (sH pUp []).fld (HST_SQ_CFG.off 0 0 7) HST_SQ_CFG.SIZE + 1 ≤ getFld 1 HST_SQ_TAIL.TAIL ∧
    getFld 4095 HST_SQ_TAIL.TAIL ≤ (sQu [] (evq0 0 0 [])).fld (HST_SQ_CFG.off 0 0 7) HST_SQ_CFG.SIZE ∧
    (∀ k ∈ allCtl, (match ((sH pUp []).core k).hold with | .wdb _ _ => true | _ => false) = false) ∧ (sH pUp []).notices = [] := by decide +kernel
theorem test_wit_queues : (sQu [] (evq0 0 0 [])).power.rst = none ∧ ((sQu [] (evq0 0 0 [])).qp 0 0 7).head ≠ (sQu [] (evq0 0 0 [])).fld (HST_SQ_TAIL.off 0 0 7) HST_SQ_TAIL.TAIL ∧
    (sQu [] (evq0 0 0 [])).cqFree 0 0 7 ≠ 0 ∧ cmdOpc [0x0B] ≤ 0x0B ∧ 0x0B < cmdOpc [0x0C] ∧ ({ sQu [] (evq0 0 0 []) with qpos := [] } : State).qp 0 0 7 = QPos.reset ∧
    ({ sQu [] (evq0 0 0 []) with qpos := [(7, ⟨0, 4095, true⟩)] } : State).cqFree 0 0 7 = 0 ∧
    (sQu [] (evq0 0 0 [])).fetchTurn 0 0 = some 7 ∧ (sQu2 5).fetchTurn 0 0 = some 6 ∧ (sQu2 6).fetchTurn 0 0 = some 7 ∧ (sQu2 7).fetchTurn 0 0 = some 6 ∧
    (List.replicate 8 (0 : Word)).length = 8 := by decide +kernel
theorem test_wit_completions : ((sQu [endC 0x100 0] (evq0 0 0 [])).cmds.find? fun c => c.port == 0 && c.slot == 0 && c.q == 7 && (sQu [endC 0x100 0] (evq0 0 0 [])).completable c) =
      some (endC 0x100 0) ∧ cmdNocpl (endC 0x100 0).words = true ∧ (endC 0x100 0).status = 0 ∧ cmdNocpl (endC 0 5).words = false ∧ (endC 0x100 5).status ≠ 0 ∧
    (sQu [] (evq0 15 0 [])).eqFree 0 0 = 0 ∧ (sQu [] (evq0 13 0 [])).eqFree 0 0 = 2 ∧ (sQu [] (evq0 7 0 [])).eqFree 0 0 = 8 ∧
    ((sQu [] (evq0 13 0 [(false, List.replicate 8 0)])).evq 0 0).waiting = (false, List.replicate 8 0) :: [] ∧
    ((sQu [] (evq0 7 0 [(true, List.replicate 8 0)])).evq 0 0).waiting = (true, List.replicate 8 0) :: [] ∧
    (sQu [] (evq0 14 0 [(false, List.replicate 8 0)])).eqFree 0 0 < 2 ∧ ((sQu [] (evq0 13 1 [])).evq 0 0).lost ≠ 0 ∧
    (sQu [] (evq0 0 0 [])).bit (HST_EQ_CFG.off 0 0) HST_EQ_CFG.EN = true := by decide +kernel

def qid : QueueId := ⟨0, 0, 7⟩
/-- A waiting command of context 1 with its words 1 to 4. -/
def hc (opc : Nat) (l : List Word) : Cmd := cmdN 3 .waiting ([BitVec.ofNat 64 (put 1 32 + opc)] ++ l)
def sCmd (st : CtxState) (c : Cmd) : State := (sH pUp [c]).modCtx 1 fun x => { x with st := st }
def startsB (s : State) (opc : Nat) (c : Cmd) : Bool := s.nextCmd? qid opc == some c && s.cmdCheck c == none
theorem test_starts {s : State} {opc : Nat} {c : Cmd} (h : startsB s opc c = true) : s.starts qid opc c := by
  simp only [startsB, Bool.and_eq_true, beq_iff_eq] at h; exact h
def cDesc : List Word := sd 1 0x40 0x80 8 1
/-- Function 0 has a share of HBM. -/
def sShr (c : Cmd) : State := (sCmd .idle c).setFld (PKG_SHARE.off 0 0) PKG_SHARE.HSIZE 1
theorem test_wit_host_commands : startsB (sCmd .idle (hc 0x00 [0xFFFFFFFFFFFFF000])) 0x00 (hc 0x00 [0xFFFFFFFFFFFFF000]) = true ∧ (sA.nextCmd? qid 3 = none) ∧
    (sCmd .running (hc 0x03 [])).nextCmd? qid 3 = some (hc 0x03 []) ∧ (sCmd .running (hc 0x03 [])).cmdCheck (hc 0x03 []) = some 0x0C ∧
    startsB (sCmd .idle (hc 0x01 [31])) 0x01 (hc 0x01 [31]) = true ∧ (sCmd .idle (hc 0x01 [31])).ownSlot 0 0 31 = true ∧
    ({ sCmd .idle (hc 0x01 [31]) with pports := [(0, { pUp with totalVf := 30 })] } : State).ownSlot 0 0 31 = false ∧
    (sCmd .idle (hc 0x01 [31])).fld (HST_PORT_CFG.off 0) HST_PORT_CFG.CTX_MAX ≤
      ((sCmd .idle (hc 0x01 [31])).setFld (HST_PORT_STS.off 0) HST_PORT_STS.CTX_HELD 63).fld (HST_PORT_STS.off 0) HST_PORT_STS.CTX_HELD ∧
    ¬ (sCmd .idle (hc 0x01 [31])).fld (HST_PORT_CFG.off 0) HST_PORT_CFG.CTX_MAX ≤ (sCmd .idle (hc 0x01 [31])).fld (HST_PORT_STS.off 0) HST_PORT_STS.CTX_HELD ∧
    (sCmd .idle (hc 0x01 [31])).freeCtx = some 2 ∧ startsB (sCmd .faulted (hc 0x02 [])) 0x02 (hc 0x02 []) = true ∧
    startsB (sShr (hc 0x07 [0x1000])) 0x07 (hc 0x07 [0x1000]) = true ∧ ((sShr (hc 0x07 [0x1000])).descFault 1 cDesc 0x1000).isSome = false ∧
    ((sCmd .idle (hc 0x07 [0x1000])).descFault 1 cDesc 0x1000).isSome = true ∧ (sShr (hc 0x07 [])).quotaFull 1 = false ∧
    (sShr (hc 0x07 [])).waitingIssuers = [] := by decide +kernel
theorem test_wit_copy_id : (sShr (hc 0x07 [])).freeId = some 0 := by unfold State.freeId; simp only [sShr, sCmd, sH]; rfl
theorem test_wit_windows : startsB (sCmd .idle (hc 0x08 [0x1FFFFFFFF000, 0xFFFFFFFFFFFFF000, 0x1000, 3])) 0x08 (hc 0x08 [0x1FFFFFFFF000, 0xFFFFFFFFFFFFF000, 0x1000, 3]) = true ∧
    ¬ ((0x1000 : Nat) = 0 ∨ 0x200000000000 < 0x1FFFFFFFF000 + 0x1000 ∨ 2 ^ 64 < 0xFFFFFFFFFFFFF000 + 0x1000 ∨
      (sCmd .idle (hc 0x08 [])).windowOverlap 0 0x1FFFFFFFF000 0x1000 = true) ∧ 0x200000000000 < 0x1FFFFFFFF000 + 0x2000 ∧
    ((List.range 256).find? fun i => (tget? (sCmd .idle (hc 0x08 [])).windows (0 * 256 + i)).isNone) = some 0 ∧
    startsB { sCmd .idle (hc 0x09 [255]) with windows := [(255, ⟨1, 0, 0, 0x8000, 0x1000, true, true⟩)] } 0x09 (hc 0x09 [255]) = true ∧
    startsB (sShr (hc 0x0A [15, 0x1000, 7])) 0x0A (hc 0x0A [15, 0x1000, 7]) = true ∧ ((sShr (hc 0x0A [])).localFault 1 0x1000 4096 false).isSome = false ∧
    ((sCmd .idle (hc 0x0A [])).localFault 1 0x1000 4096 false).isSome = true ∧
    startsB (sCmd .idle (hc 0x0B [0x1000, 4, 100000])) 0x0B (hc 0x0B [0x1000, 4, 100000]) = true ∧ (sCmd .idle (hc 0x0B [])).placeFor 1 (hc 0x0B [0x1000, 4, 100000]) 0 = some 4 ∧
    ({ sCmd .idle (hc 0x0B []) with progs := [⟨1, 4, 10, 0, false, 0, false⟩] } : State).placeFor 1 (hc 0x0B [0x1000, 4, 100000]) 0 = none := by decide +kernel
theorem test_wit_window_full : ((List.range 256).find? fun i => (tget? ((List.range 256).map fun i => (i, (⟨2, 0, 0, 0, 0, true, true⟩ : Window))) (0 * 256 + i)).isNone) = none := by
  decide +kernel

/-- Group 7 of context 1 holds clusters 0 and 47; its entry table is in HBM. -/
def lc : Cmd := hc 0x03 [0x40, 0xFFFFFFFF]
def sLn (c : Cmd) : State :=
  (((sShr c).setFld (CTX_BG_MASK.off 1 7) CTX_BG_MASK.VALID 1).setFld (CTX_BG_MASK.off 1 7) CTX_BG_MASK.CLUSTERS 0x800000000001).writeNat 0x78 6 0xFFFFFFFFFFF8
theorem test_wit_launch : startsB (sLn lc) 0x03 lc = true ∧ (sLn lc).launchRefused 1 0x40 = none ∧ (sLn lc).busyWith 1 (maskClusters ((sLn lc).groupMasks 1)) = none ∧
    (sLn lc).poisoned 0x40 64 = false ∧ (sShr lc).launchRefused 1 0x40 = some 4 ∧
    ({ sLn lc with clusters := [(47, { Cluster.reset with holder := some 2 })] } : State).busyWith 1 (maskClusters ((sLn lc).groupMasks 1)) = some 2 ∧
    ({ sLn lc with mem := ⟨[], [(sLn lc).memKey (cwOf 0x40)]⟩ } : State).poisoned 0x40 64 = true := by decide +kernel

/-- Context 1 launched on cluster 0 with its command; the state of its cores. -/
def runC : Cmd := { hc 0x03 [] with id := 5, st := .running }
def sRn (run : RunSt) (st : CtxState) (l : List Cmd) : State :=
  { sLn lc with
    cmds := runC :: l, clusters := [(0, { Cluster.reset with holder := some 1, last := some 1 })], time := 1000000000,
    cores := (clusterCores 0 0).map fun k => (k, { cAreg with run := run }),
    ctxs := [(1, { Ctx.reset with st := st, bound := true, groups := [1], launch := some 5, limit := 1000, faultCode := 3 })] }
def sFt : State := (sRn .stopped .faulted [])
def sSus (a : Nat) (id : Nat) : State := (sRn .stopped .running [{ hc 0x04 [] with id := id, st := .running }]).modCtx 1 fun x => { x with suspend := some (id, a) }
def sRsm (at' : Option Nat) (l : List Cmd) : State := (sRn .stopped .suspended l).modCtx 1 fun x => { x with saveAt := at' }
theorem test_wit_launch_ends : ((sRn .halted .running []).ctx 1).hatch = none ∧ ((sRn .halted .running []).ctx 1).suspend = none ∧
    ((sRn .halted .running []).ctx 1).st = .running ∧ (sRn .halted .running []).progs = [] ∧ (sRn .halted .running []).coresDone 1 = true ∧
    (sRn .running .running []).coresDone 1 = false ∧ (sFt.ctx 1).st = .faulted ∧ sFt.ctxDrained 1 = true ∧ sFt.faultPending 1 = false ∧ (sFt.ctx 1).faultCode ≠ 0 ∧
    ((sRn .running .running []).ctx 1).launch.isSome = true ∧ ((sRn .running .running []).ctx 1).limit ≠ 0 ∧
    ((sRn .running .running []).ctx 1).started + ((sRn .running .running []).ctx 1).limit * 1000000 ≤ (sRn .running .running []).time ∧
    ({ sRn .running .running [] with time := 999999999 } : State).time < ((sRn .running .running []).ctx 1).started + ((sRn .running .running []).ctx 1).limit * 1000000 := by
  decide +kernel
/-- The hatch of context 1 starts in the cycle in which the SUSPEND came. -/
def sHat : State := (sRn .running .running [hc 0x04 []]).modCtx 1 fun x => { x with hatch := some ⟨4, unitPkg, 0, [], [], false, false, false⟩ }
theorem test_wit_suspend : startsB (sRn .running .running [hc 0x04 [0x200000]]) 0x04 (hc 0x04 [0x200000]) = true ∧ (sRn .running .running [hc 0x04 [0x200000]]).saveBad 1 0x200000 = false ∧
    (sRn .running .running [hc 0x04 []]).saveBad 1 0x40000000 = true ∧ startsB (sRn .running .running [hc 0x04 []]) 0x04 (hc 0x04 []) = true ∧
    ((sRn .running .running []).ctx 1).suspend = none ∧ ((sSus 0x200000 7).ctx 1).suspend = some (7, 0x200000) ∧ (sSus 0x200000 7).suspendReady 1 = true ∧
    ({ sSus 0x200000 7 with colls := [{ cOpen 0 with ctx := 1 }] } : State).suspendReady 1 = false ∧ ((sSus 0 7).ctx 1).st = .running ∧
    (sRn .running .running [hc 0x04 [0x200000]]).hatchedNow (hc 0x04 [0x200000]) = false ∧ startsB sHat 0x04 (hc 0x04 []) = true ∧ sHat.hatchedNow (hc 0x04 []) = true ∧
    (sHat.ctx 1).suspend = none ∧ sHat.coresDone 1 = false ∧ startsB (sRsm none [hc 0x05 []]) 0x05 (hc 0x05 []) = true ∧ startsB (sRsm (some 0x200000) [hc 0x05 []]) 0x05 (hc 0x05 []) = true ∧
    (sRsm (some 0x200000) []).busyWith 1 ((sRsm (some 0x200000) []).launchClusters 1) = none ∧
    ({ sRsm (some 0x200000) [] with clusters := [(0, { Cluster.reset with holder := some 2 })] } : State).busyWith 1 ((sRsm (some 0x200000) []).launchClusters 1) = some 2 := by
  decide +kernel
/-- A CANCEL of a command of queue 7 with CID 0. -/
def cCan : Cmd := { hc 0x06 [0x70000] with id := 4 }
theorem test_wit_cancel : startsB (sRn .running .running [cCan]) 0x06 cCan = true ∧ (sRn .running .running [cCan]).cancelTarget cCan = some runC ∧ cmdOpc runC.words = 0x03 ∧
    startsB (sRn .running .faulted [cCan]) 0x06 cCan = true ∧ ({ sRn .running .running [] with cmds := [cCan] } : State).cancelTarget cCan = none ∧
    ({ sRn .running .running [] with cmds := [{ runC with st := .ended }, cCan] } : State).cancelTarget cCan = some { runC with st := .ended } ∧
    startsB { sRn .running .running [] with cmds := [cCan, hc 0x04 []] } 0x06 cCan = true ∧
    ({ sRn .running .running [] with cmds := [cCan, hc 0x04 []] } : State).cancelTarget cCan = some (hc 0x04 []) := by decide +kernel

/-! Hangs, the hatch, resets. -/

def hOn (acted : Bool) : Hatch := ⟨4, unitPkg, 77, [], [], false, false, acted⟩
def sHt (acted : Bool) : State :=
  { (sRn .stopped .running []).modCtx 1 (fun x => { x with hatch := some (hOn acted) }) with colls := [{ cOpen 0 with ctx := 1, grp := 0 }], votes := [{ vote1 with ctx := 1 }], mem := ⟨[(clusterMem 0 0 + 0x7FFFFF, 9)], []⟩ }
def sHang : State := (sRn .running .running []).setFld (CTX_HANG.off 1) CTX_HANG.EN 1
def sEng : State := sHang.modCore 0 fun c => { c with vx := { VxSt.reset with run := some (vRun []) } }
def pnDown (gkey : Nat) : Pennant := ⟨2, 10, 0, false, true, false, 0, 2048, 0, 63, 0, 0, BitVec.ofNat 48 (put 1 40), BitVec.ofNat 512 (63 + put gkey 16 + put 0x7FFF 48 + put 99 64)⟩
/-- Context 0 is hatched in the same cycle and its sequence has not run yet. -/
def sHt0 : State := (sHt false).modCtx 0 fun x => { x with hatch := some (hOn false) }
theorem test_wit_hangs : (sHang.ctx 1).st = .running ∧ sHang.bit (CTX_HANG.off 1) CTX_HANG.EN = true ∧ (sHang.ctx 1).hatch = none ∧
    (sRn .running .running []).bit (CTX_HANG.off 1) CTX_HANG.EN = false ∧ (sEng.core 0).engineBusy .vx = true ∧ (sEng.core 0).engineBusy .mx = false ∧
    sEng.joinable (mkDet 0x0A (sEng.unitOf 0 (engNo .vx)) (some 1) 2 1 1 0 0 0 0) = none ∧ recOpen (sEng.record (sEng.fld ERR_RING_STS.off ERR_RING_STS.NEXT)) = false ∧
    ((sHt false).ctx 1).hatch = some (hOn false) ∧ (sHt false).hatchAhead 1 (hOn false) = false ∧ sHt0.hatchAhead 1 (hOn false) = true ∧
    (sHt0.ctx 1).hatch = some (hOn false) ∧ (sHt true).hatchOver 1 (hOn true) = true ∧ (sHt false).hatchOver 1 (hOn false) = false ∧ (hOn true).freset = false ∧
    (sHt false).holds 1 0 0 = true ∧ (pnDown 5).typ.toNat = tMGMT ∧ bits (pnDown 5).addr.toNat 40 8 = 1 ∧ (sGr [cOpen 0]).seenDown.contains ⟨5, 0x7FFF, 63, 99⟩ = false ∧
    ({ sGr [] with seenDown := [⟨5, 0x7FFF, 63, 99⟩] } : State).seenDown.contains ⟨5, 0x7FFF, 63, 99⟩ = true ∧
    ¬ ((pnK 0 0 0 0 0).typ.toNat = tMGMT ∧ bits (pnK 0 0 0 0 0).addr.toNat 40 8 = 1) := by decide +kernel
/-- Firmware runs, READY; a unit hang is on record. -/
def uStk : UnitCode := mkUnit 0 13 0 5 0xFFFF
def sRst (auto : Nat) : State :=
  { ((((sHt false).setFld PKG_MOD_ID.off PKG_MOD_ID.READY_PIN 1).setFld PKG_RSTCTL.off PKG_RSTCTL.FWWD_EN 1).setFld PKG_RSTCTL.off PKG_RSTCTL.AUTO auto) with
    ring := [(3, [BitVec.ofNat 64 (put 3 62 + put 0x12 48 + 3), BitVec.ofNat 64 (put 2 32 + uStk.toNat), 0, 0, 0, 0, 0, 0])], time := 2000000000,
    power := { (sHt false).power with fw := true } }
/-- One usable module on each link that READY after a package reset needs. -/
def sLk (s : State) : State :=
  { s with dls := [0, 1, 2, 3, 8, 9, 10, 11].map fun n => (dlKey n 0, ⟨.full, ⟨[], none⟩, [], .full, none, false⟩) }
/-- An injection of a detection in a unit is armed. -/
def sArm (det : Nat) (u : UnitCode) : State := sA.csrSet TST_INJ.off (BitVec.ofNat 64 (put 1 63 + put det 56 + u.toNat))
theorem test_wit_resets : (sLk (sRst 1)).linksUp = true ∧ (sRst 1).linksUp = false ∧ (sRst 1).bit PKG_RSTCTL.off PKG_RSTCTL.FWWD_EN = true ∧ (sRst 1).ready = true ∧
    (sRst 1).kicked + max 1 ((sRst 1).fld PKG_RSTCTL.off PKG_RSTCTL.FW_WD_MS) * 1000000 ≤ (sRst 1).time ∧ (sRst 1).armed 0x14 unitPkg = false ∧ (sArm 0x14 unitPkg).armed 0x14 unitPkg = true ∧
    (((sRst 1).ring.find? (fun x => recOpen x.2 && (recWord x.2 0).fld 48 8 == 0x12 && (recWord x.2 1).fld 0 32 == uStk.toNat)).map (·.1)) = some 3 ∧
    ((sRst 1).ctx 2).hatch = none ∧ (sRst 1).bit PKG_RSTCTL.off PKG_RSTCTL.AUTO = true ∧ (sRst 0).bit PKG_RSTCTL.off PKG_RSTCTL.AUTO = false ∧
    (sRst 1).power.on = true ∧ State.reset.power.on = false ∧ (sRst 1).power.ok = true ∧ (sRst 1).power.fw = true ∧
    ({ sRst 1 with power := { (sRst 1).power with rst := some 4 } } : State).power.rst.isSome = true ∧ (sRst 1).power.rst = none := by decide +kernel

/-! Errors, field test, die links, test access. -/

def det1 (d : BitVec 8) (clean : Bool) : Detection := ⟨d, 0x00000000, some 1, 3, 0, 1, 15, 0xFF, 0xFFFFFFFF, 0xFFFFFFFFFFFFFFFF, clean⟩
def recW (i det u cnt : Nat) (t : Word) : List Word := [BitVec.ofNat 64 (put 3 62 + put det 48 + i), BitVec.ofNat 64 u, 0, t, 0, 0, 0, BitVec.ofNat 64 cnt]
def his (st : UnitSt) (d : Bool) : Hist := ⟨0x0000FFFF, 7, 5, 1, 0, 0, st, d⟩
/-- NEXT stands at its greatest value; `l` are records by their entry. -/
def sEr (l : Tbl (List Word)) (h : List Hist) : State :=
  { sA.setFld ERR_RING_STS.off ERR_RING_STS.NEXT 0xFFFFFFFF with ring := l, hist := h, time := 3600000000000 }
theorem test_wit_records : (sEr [] []).joinable (det1 0x0A false) = none ∧ recOpen ((sEr [] []).record 0xFFFFFFFF) = false ∧
    (sEr [(4095, recW 0xFFFFFFFF 0x0A 0 1 3599999000000)] []).joinable (det1 0x0A false) = some 4095 ∧
    (sEr [(4095, recW 0xFFFFFFFF 0x0A 0 1 3599998999999)] []).joinable (det1 0x0A false) = none ∧
    recOpen ((sEr [(4095, recW 0xFFFFFFFF 0x0A 0 1 3599998999999)] []).record 0xFFFFFFFF) = true ∧
    (tget [] (sEr [(4095, recW 0xFFFFFFFF 0x0A 0 1 3599999000000)] []).ring 4095).length = 8 ∧
    cellDet 3 = true ∧ cellDet 0x11 = true ∧ (sEr [] []).armed 3 0 = false ∧ histUnit 0x0000FFFF 0x05 = 0x0000FFFF ∧ thrKind 0x0000FFFF 0x05 = some 0 ∧
    (sEr [] [his .active false]).hist.find? (fun h => h.unit == histUnit 0x0000FFFF 0x05) = some (his .active false) ∧
    ((sEr [] []).setFld (ERR_THR.off 0) ERR_THR.TRANS 0).fld (ERR_THR.off 0) ERR_THR.TRANS = 0 ∧
    ((sEr [] []).setFld (ERR_THR.off 0) ERR_THR.PERS 0).fld (ERR_THR.off 0) ERR_THR.PERS = 0 := by decide +kernel
theorem test_wit_record_ends : recOpen ((sEr [(4095, recW 0xFFFFFFFF 0x08 0 1 3599000000000)] []).record 0xFFFFFFFF) = true ∧
    (recWord (recW 0xFFFFFFFF 0x08 0 1 3599000000000) 0).fld 0 32 = 0xFFFFFFFF ∧ (recWord (recW 0xFFFFFFFF 0x08 0 1 3599000000000) 0).fld 48 8 = 0x08 ∧
    (recWord (recW 0xFFFFFFFF 0x08 0 1 3599000000000) 3).toNat + 1000000000 ≤ (sEr [] []).time ∧ recOpen ((sEr [] []).record 0) = false ∧
    (0 : Nat) + (0 + 1) * (max 1 ((sEr [] []).fld ERR_CTL.off ERR_CTL.WINDOW_H) * 3600000000000) ≤ { sEr [] [] with time := 72 * 3600000000000 * 100 }.time ∧
    (sEr [] []).time < 3600000000000 * 2 + (0 + 1) * (max 1 ((sEr [] []).fld ERR_CTL.off ERR_CTL.WINDOW_H) * 3600000000000) ∧
    (sEr [] [his .active true]).hist.find? (fun h => h.unit == 0x0000FFFF) = some (his .active true) ∧ (sEr [] []).hist.find? (fun h => h.unit == 0x0000FFFF) = none := by
  decide +kernel

/-- Cluster 11 of die 3 has a spare, firmware runs, the rotation is on. -/
def sFd (x : Cluster) (spare : Nat) : State :=
  let o := PKG_CORE_MAP.off 3 11
  { ((((sA.setFld TST_CTL.off TST_CTL.ROT_EN 1).setFld o PKG_CORE_MAP.LMAP 0x76543210).setFld o PKG_CORE_MAP.SPARE spare).setFld o PKG_CORE_MAP.CLUSTER_OFF 0) with
    power := { State.reset.power with fw := true }, clusters := [(47, x)], shut := [0x3C04FFFF], flash := { Flash.reset with shut := [0x3C04FFFF] } }
def uSp : UnitCode := mkUnit 3 11 8 0 0xFFFF
def injW : Word := BitVec.ofNat 64 (put 1 63 + put 0x1F 56 + put 0 48 + 0xD0000003)
/-- The visit of the last cluster comes next, 10 s after the one before at time 10 s. -/
def sDue (t : Nat) : State :=
  let s := (sFd Cluster.reset 8).setFld TST_CTL.off TST_CTL.ROT_S 10
  { s with tst := { s.tst with visit := 47, visited := 10000000000 }, time := t }
theorem test_wit_field_test : (sFd Cluster.reset 8).bit TST_CTL.off TST_CTL.ROT_EN = true ∧ (sFd Cluster.reset 8).power.fw = true ∧
    (sFd Cluster.reset 8).testable 3 11 = true ∧ (sDue 20000000000).visitNext = some 47 ∧ (sDue 20000000000).testable 3 11 = true ∧
    (sDue 20000000000).tst.visited + max 1 ((sDue 20000000000).fld TST_CTL.off TST_CTL.ROT_S) * 1000000000 ≤ (sDue 20000000000).time ∧
    ¬ (sDue 19999999999).tst.visited + max 1 ((sDue 19999999999).fld TST_CTL.off TST_CTL.ROT_S) * 1000000000 ≤ (sDue 19999999999).time ∧
    (sDue 20000000000).bit TST_CTL.off TST_CTL.ROT_EN = true ∧ (sDue 20000000000).power.fw = true ∧ (sFd Cluster.reset 8).visitNext = some 0 ∧ (sFd Cluster.reset 0xF).testable 3 11 = false ∧
    ((sFd { Cluster.reset with test := true } 8).cluster 47).test = true ∧ (sFd Cluster.reset 8).tst.cmd = none ∧
    (sFd Cluster.reset 8).armed 0x16 (mkUnit 3 11 8 0 0xFFFF) = false ∧ (sFd { Cluster.reset with test := true, nextQ := 7 } 8).swapCore 3 11 = some 7 ∧
    (sFd Cluster.reset 8).ring = [] ∧ (sFd Cluster.reset 8).fld (PKG_CORE_MAP.off 3 11) PKG_CORE_MAP.SPARE = 8 ∧
    ((sFd Cluster.reset 8).setFld TST_STS.off TST_STS.BUSY 1).bit TST_STS.off TST_STS.BUSY = true ∧ (sFd Cluster.reset 8).bit TST_STS.off TST_STS.BUSY = false ∧
    isCoreUnit 0xD0000003 = false ∧ isCoreUnit uSp = true ∧ bits uSp.toNat 28 4 = 3 ∧ bits uSp.toNat 24 4 = 11 ∧ bits uSp.toNat 20 4 = 8 := by decide +kernel
theorem test_wit_tst_cmd : restoreLinks 0x3C04FFFF = [] ∧ isCoreUnit 0x3C04FFFF = false ∧ (sFd Cluster.reset 8).shut.contains 0x3C04FFFF = true ∧ bits (0x3C04FFFF : UnitCode).toNat 16 4 = 4 ∧
    restoreLinks uSp = [] ∧ (sFd Cluster.reset 8).isRetired 3 11 8 = false ∧
    (sEr [] [his .retired false]).hist.find? (fun h => h.unit == 0x0000FFFF) = some (his .retired false) ∧ (his .retired false).st ≠ .active ∧
    ((sFd { Cluster.reset with sample := some ⟨3 * 256 + 11 * 16, 1, 0, 0, 8, 5, 8⟩ } 8).cluster 47).sample = some ⟨3 * 256 + 11 * 16, 1, 0, 0, 8, 5, 8⟩ ∧
    (sFd Cluster.reset 8).armed 0x15 (mkUnit 3 11 5 engMx 0xFFFF) = false ∧
    sA.bit TST_INJ.off TST_INJ.ARM = false ∧ (sA.setFld TST_INJ.off TST_INJ.ARM 1).bit TST_INJ.off TST_INJ.ARM = true ∧
    getFld (mergeSz (sA.csrGet TST_INJ.off) .w64 injW) TST_INJ.ARM = 1 ∧ detListed (getFld (mergeSz (sA.csrGet TST_INJ.off) .w64 injW) TST_INJ.DET) = true ∧
    unitNamed (BitVec.ofNat 32 (getFld (mergeSz (sA.csrGet TST_INJ.off) .w64 injW) TST_INJ.UNIT)) = true := by decide +kernel

def dlm (st nxt : DlSt) (l : List (Nat × Bool)) (d : Bool) : DlMod := ⟨st, ⟨l, none⟩, [], nxt, none, d⟩
/-- Module 31 of link 7. -/
def sDl (x : DlMod) : State := { sA with dls := [(dlKey 7 31, x)] }
theorem test_wit_die_links : (31 : Nat) < dlCount 7 ∧ ((sDl (dlm .half .full [] false)).dlMod 7 31).usable = true ∧
    sA.fld PKG_DL_CTL.off PKG_DL_CTL.LANE_LIM < (0xFFFFFFFF : BitVec 32).toNat ∧ ([(63, true), (1, true), (0, true), (9, false)].filter fun (l : Nat × Bool) => l.2 == true).length < 4 ∧
    (0 : BitVec 32).toNat ≤ sA.fld PKG_DL_CTL.off PKG_DL_CTL.LANE_LIM ∧ ((sDl (dlm .training .half [] false)).dlMod 7 31).usable = false ∧
    ((sDl (dlm .training .half [] false)).dlMod 7 31).st = .training ∧ (dlm .training .half [] false).next = .half ∧
    ((sDl (dlm .full .full [(63, true)] true)).dlMod 7 31).dirty = true ∧ (dlm .full .full [(63, true)] true).map.lanes ≠ [] ∧
    (∀ j, j < dlCount 7 → (sA.dlMod 7 j).dirty = false) := by decide +kernel

/-- The debug unlock has scope TAP; the wicket of die 8. -/
def sWk (w : Wkt) (dbg : Nat) : State := { sA.setFld SEC_STS.off SEC_STS.DEBUG dbg with wkts := [(8, w)] }
def wk (tap : Option (Nat × Nat × Word)) (ctl : Option (Nat × Nat)) (last : Bool) : Wkt := ⟨0x10, tap, false, 3, ctl, last⟩
def drW : BitVec 98 := BitVec.ofNat 98 (put 2 96 + put 0xFFFFFFFF 64 + 5)
theorem test_wit_test_access : ((sWk (wk none none false) 1).wkt 8).ir = 0x10 ∧ ({ sA with wkts := [(12, { wk none none false with ir := 0x01 })] } : State).captureDr 12 = (32, 0x14B2C58F) ∧ (sWk (wk none none false) 1).scope 0 = true ∧ (sWk (wk none none false) 1).hasWicket 8 = true ∧
    bits drW.toNat 96 2 = 2 ∧ ((sWk (wk none none false) 1).wkt 8).tap = none ∧ (sWk (wk none none false) 0).scope 0 = false ∧
    (sA.setFld TST_WKT_STS.off TST_WKT_STS.BUSY 1).bit TST_WKT_STS.off TST_WKT_STS.BUSY = true ∧ sA.bit TST_WKT_STS.off TST_WKT_STS.BUSY = false ∧
    sA.hasWicket 13 = false ∧ (sWk (wk none none false) 1).scanHeld 8 = false ∧
    ({ sA.setFld TST_CTL.off TST_CTL.SCAN_EN 1 with clusters := [(47, { Cluster.reset with test := true })] } : State).scanHeld 3 = true ∧
    ((sWk (wk none (some (1, 0x0FFFFFFF)) false) 0).wkt 8).ctl = some (1, 0x0FFFFFFF) ∧
    ((sWk (wk (some (1, 0, 0)) (some (2, 0x50000000)) false) 0).wkt 8).last = false ∧
    ((sWk (wk (some (1, 0, 0)) (some (2, 0x50000000)) true) 0).wkt 8).tap = some (1, 0, 0) := by decide +kernel

/-! The security engine. -/

/-- A mailbox on link A of port 0; `next` and `resv` of the identity key. -/
def sSe (cache fw : Bool) (next resv : Nat) : State :=
  { ((sH pUp []).setFld SEC_ATT_IDX.off SEC_ATT_IDX.NEXT next).setFld SEC_ATT_RESV.off SEC_ATT_RESV.RESV resv with
    sec := { State.reset.sec with cache := cache }, power := { (sH pUp []).power with fw := fw } }
theorem test_wit_security : (sSe true true 0 0).mailbox 0 .a = true ∧ sA.mailbox 0 .a = false ∧ (sSe false true 0 0).sec.cache = false ∧
    (sSe true false 0 0).sec.cache = true ∧ (sSe true false 0 0).power.fw = false ∧ (sSe true true 0 0).power.fw = true ∧
    2 ^ 40 - 1024 ≤ (sSe true true (2 ^ 40 - 1024) 0).fld SEC_ATT_IDX.off SEC_ATT_IDX.NEXT ∧
    (sSe true true (2 ^ 40 - 1025) (2 ^ 40 - 1025)).fld SEC_ATT_IDX.off SEC_ATT_IDX.NEXT < 2 ^ 40 - 1024 ∧
    (sSe true true (2 ^ 40 - 1025) (2 ^ 40 - 1025)).fld SEC_ATT_IDX.off SEC_ATT_IDX.NEXT =
      (sSe true true (2 ^ 40 - 1025) (2 ^ 40 - 1025)).fld SEC_ATT_RESV.off SEC_ATT_RESV.RESV ∧
    (sSe true true 7 1024).fld SEC_ATT_IDX.off SEC_ATT_IDX.NEXT ≠ (sSe true true 7 1024).fld SEC_ATT_RESV.off SEC_ATT_RESV.RESV ∧
    (sSe true true 0 0).power.rst = none ∧ (sSe true true 0 0).flash.unsigned = false ∧ (sSe false true 0 0).power.ok = true ∧
    ({ sSe true true 0 0 with power := { (sSe true true 0 0).power with rst := some 1 } } : State).power.rst.isSome = true := by decide +kernel

/-! Power. -/

def sPw (on ok : Bool) (g : Nat) (trip : Option (Nat × Nat)) (clock : Nat) : State :=
  { sA with power := { State.reset.power with on := on, ok := ok, groups := g, trip := trip, clock := clock, heard := 77, silent := ok } }
def sPwR (v : Nat) : State := (sPw true true 5 none 0).setFld (PWR_RAIL.off 3) PWR_RAIL.SET v
theorem test_wit_trips : (sPw true true 5 none 0).power.on = true ∧ (sPw true true 5 none 0).power.ok = true ∧ (45999 : Nat) < 46000 ∧ ¬ (46000 : Nat) < 46000 ∧
    (sPw true true 5 none 0).pwrInjected 0x17 0 false = false ∧ railStage 3 = (sPw true false 4 none 0).power.groups ∧ (674 : Nat) * 10 < railMv 3 0 * 9 ∧
    railMv 3 0 * 9 ≤ 675 * 10 ∧ railStage 15 = (sPw true false 0 none 0).power.groups ∧ (636 : Nat) * 100 < ((sPwR 670).setBand 3).1 * 95 ∧
    ¬ (637 : Nat) * 100 < ((sPwR 670).setBand 3).1 * 95 ∧ ((sPw true false 5 none 0).setBand 15).2 * 108 < 3565 * 100 ∧
    ¬ ((sPw true false 5 none 0).setBand 15).2 * 108 < 3564 * 100 ∧ (sPwR 670).power.moving.contains 3 = false ∧ railLimit 15 ≤ 50 ∧ ¬ railLimit 15 ≤ 49 ∧
    (sPw true true 5 none 0).power.silent = true ∧ (sPw true true 5 none 0).pwrInjected 0x1E 1 true = false := by decide +kernel
theorem test_wit_start : (sPw false false 0 (some (1, 9)) 0).power.on = false ∧ (sPw false false 0 (some (1, 9)) 0).power.trip = some (1, 9) ∧
    (sPw false false 0 (some (12, 9)) 1000000009).power.trip = some (12, 9) ∧ (sPw false false 0 (some (12, 9)) 0).power.held = false ∧
    9 + (if 12 = 15 then 100000000 else 1000000000) ≤ (sPw false false 0 (some (12, 9)) 1000000009).power.clock ∧
    9 + (if 15 = 15 then 100000000 else 1000000000) ≤ (sPw false false 0 (some (15, 9)) 100000009).power.clock ∧
    (sPw false false 0 (some (15, 9)) 100000008).power.clock < 9 + (if 15 = 15 then 100000000 else 1000000000) ∧
    (sPw true false 3 none 0).power.groups = groupStage .g2b ∧ (sPw true false 5 none 0).power.groups = 5 ∧ (sPw true false 5 none 0).power.ok = false ∧
    (sPw true false 5 none 0).power.fail = false ∧ (sPw true true 5 none 0).power.fw = false ∧ (sPw true true 5 none 0).ready = false ∧
    (sPw true true 5 none 0).imageOrder.find? (sPw true true 5 none 0).imageOk = none ∧
    ({ sPw true true 5 none 0 with power := { (sPw true true 5 none 0).power with fw := true } } : State).power.rst = none ∧
    ({ sPw true true 5 none 0 with power := { (sPw true true 5 none 0).power with fail := true } } : State).power.fail = true ∧
    tierOf 0xBFFFFFFFFF = .hbm ∧ tierOf 0x01017FFFFFFF = .near := by decide +kernel

/-- The power averages, the cap and the calm evaluations. -/
def sCp (p1 pk cap peak calm : Nat) : State :=
  let s := (sPw true true 5 none 0).setFld PWR_IN.off PWR_IN.P1MS p1
  let s := ((s.setFld PWR_IN.off PWR_IN.P100US pk).setFld PWR_CAP.off PWR_CAP.CAP cap).setFld PWR_CAP.off PWR_CAP.PEAK peak
  { s with power := { s.power with calm := [(2, calm)], demand := [(2, 15), (3, 14), (4, 20), (50, 1), (51, 0), (9, 3)] } }
theorem test_wit_louvre : (sCp 1001 0 1000 0 0).power.ok = true ∧ (sCp 1001 0 1000 0 0).fld PWR_CAP.off PWR_CAP.CAP < (sCp 1001 0 1000 0 0).fld PWR_IN.off PWR_IN.P1MS ∧
    (sCp 949 0 1000 0 9).fld PWR_IN.off PWR_IN.P1MS * 100 < (sCp 949 0 1000 0 9).fld PWR_CAP.off PWR_CAP.CAP * 95 ∧ 9 ≤ tget 0 (sCp 949 0 1000 0 9).power.calm 2 ∧
    (sCp 950 0 1000 0 9).fld PWR_IN.off PWR_IN.P1MS ≤ (sCp 950 0 1000 0 9).fld PWR_CAP.off PWR_CAP.CAP ∧
    ¬ ((sCp 950 0 1000 0 9).fld PWR_IN.off PWR_IN.P1MS * 100 < (sCp 950 0 1000 0 9).fld PWR_CAP.off PWR_CAP.CAP * 95 ∧ 9 ≤ tget 0 (sCp 950 0 1000 0 9).power.calm 2) ∧
    (sCp 0 11 0 10 0).fld PWR_CAP.off PWR_CAP.PEAK < (sCp 0 11 0 10 0).fld PWR_IN.off PWR_IN.P100US ∧
    (sCp 0 10 0 10 0).fld PWR_IN.off PWR_IN.P100US ≤ (sCp 0 10 0 10 0).fld PWR_CAP.off PWR_CAP.PEAK := by decide +kernel

/-- A change of step of die 3 is under way. -/
def sMo (due : List Nat) (t : Nat) : State :=
  { sPw true true 5 none 0 with
    power := { (sPw true true 5 none 0).power with moving := [3], changed := [(3, 5)], posted := [(3, 7)], due := due, halved := [(3, 11)], droops := [(3, [1, 2])] }, time := t }
theorem test_wit_measures : (sMo [] 0).power.moving.contains 3 = true ∧ (sMo [] 0).power.moving.contains 2 = false ∧ tget? (sMo [] 0).power.changed 3 = some 5 ∧
    5 + 1000000 ≤ (sMo [3] 1000005).time ∧ (sMo [3] 1000005).power.due.contains 3 = true ∧ (sMo [3] 1000004).time < 5 + 1000000 ∧
    tget? (sMo [] 0).power.posted 3 = some 7 ∧ (sMo [] 10000006).time < 7 + 10000000 ∧ (sMo [] 0).power.due.contains 3 = false ∧
    tget? (sMo [] 0).power.changed 0 = none ∧ (tget [] (sMo [] 0).power.droops 3).length < 16 ∧ tget? (sMo [] 211).power.halved 3 = some 11 ∧
    11 + 200 ≤ (sMo [] 211).time ∧ (sMo [] 210).time < 11 + 200 ∧ tget? (sMo [] 0).power.halved 0 = none ∧ (sMo [] 0).power.ok = true := by decide +kernel

/-! Counters, telemetry, registers. -/

/-- Phase timer 31 follows tag 15 of context 63. -/
def sPh (opn : Nat) (nend marks : Nat) : State :=
  let c := BitVec.ofNat 64 (put 1 63 + put 63 56 + put 15 52 + put nend 32)
  let s := ((sA.csrSet (PHT_CFG.off 31) c).setFld (PHT_STS.off 31) PHT_STS.OPEN opn).setFld (PHT_STS.off 31) PHT_STS.MARKS marks
  { (s.csrSet (PHT_START.off 31) 1000).csrSet (PHT_SUM.off 31) 0xFFFFFFFFFFFFFFF0 with time := 5000 }
/-- A start mark has come to it in this moment; its phase opened at `t`. -/
def sMk (t : Nat) : State := { (sPh 1 1 0).csrSet (PHT_START.off 31) (BitVec.ofNat 64 t) with phMark := [(31, 5000)] }
def sPc (j chain : Nat) (n : Nat) : State :=
  let s := ((sA.setFld (pmcSel 0 j) CORE_PMC_SEL.EN 1).setFld (pmcSel 0 j) CORE_PMC_SEL.CHAIN chain).setFld (pmcCnt 0 j) CORE_PMC_CNT.COUNT n
  (s.setFld (pmcSel 0 (j + 1)) CORE_PMC_SEL.EN 1)
def sTe (da : Option (BitVec 7)) : State := { sPw true true 5 none 0 with tele := { Tele.reset with da := da, ptr := 0xFF, words := [1, 2, 3, 4, 5, 6, 7, 8] } }
theorem test_wit_counters : 31 ∈ (sPh 0 1 0).markedBy 63 15 ∧ (sPh 0 1 0).markedNow 31 = false ∧ (sMk 1000).markedNow 31 = true ∧ ((sMk 1000).csrGet (PHT_START.off 31)).toNat ≠ (sMk 1000).time ∧
    ((sMk 5000).csrGet (PHT_START.off 31)).toNat = (sMk 5000).time ∧ (sMk 5000).bit (PHT_STS.off 31) PHT_STS.OPEN = true ∧ (sPh 0 1 0).bit (PHT_STS.off 31) PHT_STS.OPEN = false ∧ (sPh 1 1 0).bit (PHT_STS.off 31) PHT_STS.OPEN = true ∧
    max 1 ((sPh 1 2 1).fld (PHT_CFG.off 31) PHT_CFG.NEND) ≤ (sPh 1 2 1).fld (PHT_STS.off 31) PHT_STS.MARKS + 1 ∧
    (sPh 1 2 0).fld (PHT_STS.off 31) PHT_STS.MARKS + 1 < max 1 ((sPh 1 2 0).fld (PHT_CFG.off 31) PHT_CFG.NEND) ∧ 30 ∉ (sPh 0 1 0).markedBy 63 15 ∧
    isCtl (coreKey cA) = false ∧ (sPc 1 1 (2 ^ 48 - 1)).bit (pmcSel 0 1) CORE_PMC_SEL.EN = true ∧ sA.bit PMC_CTL.off PMC_CTL.FREEZE = false ∧
    (sPc 1 1 (2 ^ 48 - 1)).bit (pmcSel 0 1) CORE_PMC_SEL.CHAIN = true ∧ (sPc 1 1 (2 ^ 48 - 1)).bit (pmcSel 0 2) CORE_PMC_SEL.EN = true ∧
    2 ^ 48 ≤ (sPc 1 1 (2 ^ 48 - 1)).fld (pmcCnt 0 1) CORE_PMC_CNT.COUNT + 1 ∧ (sPc 8 0 5).fld (pmcCnt 0 8) CORE_PMC_CNT.COUNT + 1 < 2 ^ 48 ∧
    (sPc 8 0 5).bit (pmcSel 0 7) CORE_PMC_SEL.CHAIN = false ∧ (sPc 2 0 0).bit (pmcSel 0 1) CORE_PMC_SEL.EN = false ∧
    (sPc 1 0 (2 ^ 48 - 1)).bit (pmcSel 0 1) CORE_PMC_SEL.CHAIN = false ∧ isCtl (coreKey cF) = true ∧
    (sTe none).power.ok = true ∧ (sTe none).tele.da = none ∧ (sTe (some 0x7E)).tele.da ≠ none ∧ State.reset.power.ok = false := by decide +kernel
theorem test_wit_registers : sA.hatching 63 = false ∧ sA.armed 0x13 unitPkg = false ∧ (sArm 0x13 unitPkg).armed 0x13 (whoUnit (.ctx 0)) = true ∧ sA.armed 0x13 (unitPcie 1) = false ∧
    sA.joinable (mkDet 0x13 unitPkg (some 63) 2 3 0 0 0 0 0) = none ∧ recOpen (sA.record (sA.fld ERR_RING_STS.off ERR_RING_STS.NEXT)) = false ∧ (0x20000 + 63 * 0x1000 - 8 : Nat) < 0x20000 + (63 : CtxId).val * 0x1000 ∧ 0x20000 + ((63 : CtxId).val + 1) * 0x1000 ≤ 0x60000 ∧
    (0x60000 : Nat) ≤ 0xFFFFFF8 ∧ regAt 0xFFFFFF8 = none ∧ sA.fnLive 1 31 = false ∧ (sH pUp []).fnLive 0 0 = true ∧ State.reset.pending = [] := by decide +kernel

end Sys2Proof.Tests
end

section
/-! What a detection leaves alone, and the words of the record that it opens (R487, R536, R537). -/

namespace Sys2Proof.Machine

/-! Frames: an operation is the state before it but for the pieces named. -/

theorem State.addFault_frame (s : State) (f : FaultRec) : s.addFault f = { s with faults := (s.addFault f).faults } := by
  unfold State.addFault
  split <;> rfl

theorem State.evAdd_frame (s : State) (key e n cls op pc addr : Nat) :
    s.evAdd key e n cls op pc addr =
      { s with cores := (s.evAdd key e n cls op pc addr).cores, faults := (s.evAdd key e n cls op pc addr).faults } := by
  unfold State.evAdd
  extract_lets t s1
  split
  · unfold State.coreFault
    rw [State.addFault_frame]
    rfl
  · rfl

theorem State.fwEvent_frame (s : State) (key : Nat) (eve : Option Nat) (op : Nat) :
    s.fwEvent key eve op = { s with cores := (s.fwEvent key eve op).cores, faults := (s.fwEvent key eve op).faults } := by
  cases eve with
  | none => rfl
  | some e => exact s.evAdd_frame ..

theorem State.giveNotice_frame (s : State) :
    s.giveNotice = { s with notices := s.giveNotice.notices, cores := s.giveNotice.cores, faults := s.giveNotice.faults } := by
  unfold State.giveNotice
  split
  · split
    · rw [State.fwEvent_frame]
      rfl
    · rfl
  · rfl

theorem State.notice_frame (s : State) (w : Word) :
    s.notice w = { s with notices := (s.notice w).notices, cores := (s.notice w).cores, faults := (s.notice w).faults } := by
  unfold State.notice
  split
  · rfl
  · rw [State.giveNotice_frame]

theorem State.fired_frame (s : State) (last : Option Nat) :
    s.fired last = { s with csr := (s.fired last).csr, tst := (s.fired last).tst } := by
  unfold State.fired
  cases last <;> dsimp only <;> split <;> rfl

/-- A detection changes the records and their registers, may be a notice to firmware, and may be an in-band interrupt. -/
theorem State.takeDetection_frame (s : State) (d : Detection) (inj : Bool) :
    (s.takeDetection d inj).1 = { s with
      csr := (s.takeDetection d inj).1.csr, ring := (s.takeDetection d inj).1.ring, tele := (s.takeDetection d inj).1.tele,
      notices := (s.takeDetection d inj).1.notices, cores := (s.takeDetection d inj).1.cores,
      faults := (s.takeDetection d inj).1.faults } := by
  unfold State.takeDetection
  split
  · rfl
  · extract_lets next s1 s2 s3 s4
    split
    · rfl
    · have h4 : s4 = { s3 with tele := s4.tele } := by
        simp only [s4]
        split <;> rfl
      dsimp only
      rw [State.notice_frame, h4]
      rfl

theorem State.openRecord_frame (s : State) (d : Detection) (inj : Bool) :
    (s.openRecord d inj).1 = { s with
      csr := (s.openRecord d inj).1.csr, ring := (s.openRecord d inj).1.ring, tele := (s.openRecord d inj).1.tele,
      notices := (s.openRecord d inj).1.notices, cores := (s.openRecord d inj).1.cores,
      faults := (s.openRecord d inj).1.faults, tst := (s.openRecord d inj).1.tst } := by
  unfold State.openRecord
  extract_lets a
  dsimp only
  split
  · rw [State.fired_frame, State.takeDetection_frame]
  · split
    · rw [State.takeDetection_frame]
      rfl
    · rw [State.takeDetection_frame]

end Sys2Proof.Machine
end

section
/-! The record that a detection opens (R536, R537). -/

namespace Sys2Proof.Machine

theorem put_eq (v lo : Nat) : put v lo = v * 2 ^ lo := Nat.shiftLeft_eq v lo

/-- A field of a word made from a number. -/
theorem fld_ofNat (v lo len : Nat) : Word.fld (BitVec.ofNat 64 v) lo len = v % 2 ^ 64 / 2 ^ lo % 2 ^ len := by
  rw [Word.fld, bits, BitVec.toNat_ofNat, Nat.shiftRight_eq_div_pow]

/-! The words of a new record, field by field. -/

theorem recOpen_newRecord (s : State) (d : Detection) (idx : Nat) (inj : Bool) (h : idx < 2 ^ 32) : recOpen (s.newRecord d idx inj) = true := by
  have := d.det.isLt
  have := d.sev.isLt
  have := d.level.isLt
  have : b2n inj ≤ 1 := by cases inj <;> decide
  simp only [recOpen, recWord, State.newRecord, List.getD_cons_zero, Word.flag, BitVec.getLsbD_ofNat, put_eq,
    Nat.testBit_eq_decide_div_mod_eq, Bool.and_eq_true, decide_eq_true_eq]
  omega

theorem newRecord_det (s : State) (d : Detection) (idx : Nat) (inj : Bool) (h : idx < 2 ^ 32) :
    (recWord (s.newRecord d idx inj) 0).fld 48 8 = d.det.toNat := by
  have := d.det.isLt
  have := d.sev.isLt
  have := d.level.isLt
  simp only [recWord, State.newRecord, List.getD_cons_zero, fld_ofNat, put_eq]
  omega

theorem newRecord_sev (s : State) (d : Detection) (idx : Nat) (inj : Bool) (h : idx < 2 ^ 32) :
    (recWord (s.newRecord d idx inj) 0).fld 56 2 = d.sev.val := by
  have := d.det.isLt
  have := d.sev.isLt
  have := d.level.isLt
  simp only [recWord, State.newRecord, List.getD_cons_zero, fld_ofNat, put_eq]
  omega

theorem newRecord_unit (s : State) (d : Detection) (idx : Nat) (inj : Bool) :
    (recWord (s.newRecord d idx inj) 1).fld 0 32 = d.unit.toNat := by
  have := d.unit.isLt
  simp only [recWord, State.newRecord, List.getD_cons_zero, List.getD_cons_succ, fld_ofNat, put_eq]
  cases d.ctx <;> dsimp only <;> omega

theorem newRecord_opkind (s : State) (d : Detection) (idx : Nat) (inj : Bool) :
    (recWord (s.newRecord d idx inj) 2).fld 56 8 = d.opkind.val := by
  have := d.opkind.isLt
  have := d.cls.isLt
  have := d.op.isLt
  have := d.ident.isLt
  simp only [recWord, State.newRecord, List.getD_cons_zero, List.getD_cons_succ, fld_ofNat, put_eq]
  omega

theorem newRecord_detail (s : State) (d : Detection) (idx : Nat) (inj : Bool) : recWord (s.newRecord d idx inj) 5 = d.detail := rfl

/-! Where the record of a detection that joins none stands. -/

@[simp] theorem State.notice_ring (s : State) (w : Word) : (s.notice w).ring = s.ring := by rw [State.notice_frame]

/-- A detection that joins no open record and finds its entry free puts a new record there (R537). -/
theorem takeDetection_ring {s : State} {d : Detection} (hj : s.joinable d = none)
    (hr : recOpen (s.record (s.fld ERR_RING_STS.off ERR_RING_STS.NEXT)) = false) (inj : Bool) :
    (s.takeDetection d inj).1.ring = tset s.ring (s.fld ERR_RING_STS.off ERR_RING_STS.NEXT % 4096)
      (s.newRecord d (s.fld ERR_RING_STS.off ERR_RING_STS.NEXT) inj) := by
  unfold State.takeDetection
  simp only [hj, hr, Bool.false_eq_true, if_false, State.notice_ring]
  split <;> rfl

/-- Firing an injection leaves the records. -/
theorem openRecord_ring (s : State) (d : Detection) (inj : Bool) :
    (s.openRecord d inj).1.ring = (s.takeDetection d (inj || (s.armed d.det.toNat d.unit && !tierDet d.det.toNat))).1.ring := by
  unfold State.openRecord
  extract_lets a
  dsimp only
  split
  · rw [State.fired_frame]
  · split <;> rfl

theorem openRecord_record {s : State} {d : Detection} (hj : s.joinable d = none)
    (hr : recOpen (s.record (s.fld ERR_RING_STS.off ERR_RING_STS.NEXT)) = false) (inj : Bool) :
    (s.openRecord d inj).1.record (s.fld ERR_RING_STS.off ERR_RING_STS.NEXT) =
      s.newRecord d (s.fld ERR_RING_STS.off ERR_RING_STS.NEXT) (inj || (s.armed d.det.toNat d.unit && !tierDet d.det.toNat)) := by
  rw [State.record, openRecord_ring, takeDetection_ring hj hr, tget_tset, if_pos rfl]

end Sys2Proof.Machine
end

section
/-! Writes of registers (R5, R6, R8, R10, R11). -/

namespace Sys2Proof.Machine

/-! Fields of words. -/

theorem getFld_lt (w : Word) (f : Fld) : getFld w f < 2 ^ f.len := Nat.mod_lt _ (Nat.two_pow_pos _)

/-- A field written with its own value leaves the word. -/
theorem putFld_getFld (w : Word) (f : Fld) : putFld w f (getFld w f) = w := by
  apply BitVec.eq_of_getLsbD_eq
  intro i hi
  simp only [BitVec.getLsbD, putFld, getFld, Word.fld]
  rw [setFld_testBit _ _ _ hi, bits_testBit]
  split
  · next h =>
    obtain ⟨hlo, hup⟩ := h
    have hin : i - f.lo < f.len := by omega
    simp [hin, Nat.add_sub_cancel' hlo]
  · rfl

theorem getFld_bit (w : Word) (i : Nat) : getFld w ⟨i, 1⟩ = (w.getLsbD i).toNat := by
  rw [BitVec.getLsbD, Nat.toNat_testBit]
  simp [getFld, Word.fld, bits, Nat.shiftRight_eq_div_pow]

theorem bit_eq_getLsbD (s : State) (off i : Nat) : s.bit off ⟨i, 1⟩ = (s.csrGet off).getLsbD i := by
  rw [State.bit, State.fld, getFld_bit]
  cases (s.csrGet off).getLsbD i <;> rfl

theorem getLsbD_putFld_bit (w : Word) (i j : Nat) (b : Bool) (hj : j < 64) :
    (putFld w ⟨i, 1⟩ b.toNat).getLsbD j = if j = i then b else w.getLsbD j := by
  simp only [BitVec.getLsbD, putFld]
  rw [setFld_testBit _ _ _ hj]
  by_cases h : j = i
  · subst h
    cases b <;> simp
  · rw [if_neg (by omega), if_neg h]

/-! Access codes (R8). -/

/-- A register whose fields are read-only stays as it is. -/
theorem writeAcc_readOnly {d : RegDesc} (h : ∀ f ∈ d.fields, f.acc = .ro) (ok : FldDesc → Nat → Bool) (old : Word) (sz : CsrSize) (v : Word) :
    writeAcc d ok old sz v = old := by
  unfold writeAcc
  generalize d.fields = fs at h
  induction fs with
  | nil => rfl
  | cons f fs ih =>
    obtain ⟨hf, hfs⟩ := List.forall_mem_cons.1 h
    rw [List.foldl_cons, show writeFld (mergeSz old sz v) (mergeSz 0 sz v) ok old f = old by simp only [writeFld, hf]]
    exact ih hfs

/-- The register has one-bit fields that a 1 written clears. -/
def RegDesc.Flags (d : RegDesc) : Prop := ∀ f ∈ d.fields, f.acc = .w1c ∧ f.len = 1

theorem writeFld_flag {f : FldDesc} (hf : f.acc = .w1c ∧ f.len = 1) (whole on : Word) (ok : FldDesc → Nat → Bool) (w : Word) {j : Nat} (hj : j < 64) :
    (writeFld whole on ok w f).getLsbD j = (w.getLsbD j && !(on.getLsbD j && f.lo == j)) := by
  obtain ⟨hacc, hlen⟩ := hf
  have hv (a b : Bool) : a.toNat - (a.toNat &&& b.toNat) = (a && !b).toNat := by cases a <;> cases b <;> rfl
  simp only [writeFld, hacc, hlen, getFld_bit, hv]
  rw [getLsbD_putFld_bit _ _ _ _ hj]
  by_cases h : j = f.lo
  · subst h
    simp
  · simp [h, Ne.symm h]

/-- A write of such a register clears the flags written with 1 and keeps the rest. -/
theorem writeAcc_flags {d : RegDesc} (h : d.Flags) (ok : FldDesc → Nat → Bool) (old v : Word) {j : Nat} (hj : j < 64) :
    (writeAcc d ok old .w64 v).getLsbD j = (old.getLsbD j && !(v.getLsbD j && d.fields.any (·.lo == j))) := by
  unfold writeAcc
  have go (fs : List FldDesc) (hfs : ∀ f ∈ fs, f.acc = .w1c ∧ f.len = 1) (w : Word) :
      (fs.foldl (writeFld (mergeSz old .w64 v) (mergeSz 0 .w64 v) ok) w).getLsbD j = (w.getLsbD j && !(v.getLsbD j && fs.any (·.lo == j))) := by
    induction fs generalizing w with
    | nil => simp
    | cons f fs ih =>
      rw [List.foldl_cons, ih (fun g hg => hfs g (List.mem_cons_of_mem _ hg)), writeFld_flag (hfs f List.mem_cons_self) _ _ _ _ hj]
      simp only [mergeSz, List.any_cons]
      cases w.getLsbD j <;> cases v.getLsbD j <;> simp
  exact go d.fields h old

/-! Registers without an effect beyond their fields. -/

/-- The register `d` at an offset of the last chapters' blocks is one whose write acts for nothing but its fields. -/
structure PlainReg (off : Nat) (d : RegDesc) : Prop where
  found : regAt off = some d
  base  : d.base = off
  high  : PWR_IN.off ≤ off
  quiet : off ∉ [PWR_LOUVRE.off, SEC_DBG.off, SEC_MEAS_EXT.off]

theorem csrPut_high (s : State) (low : Bool) (key : Nat) {off : Nat} (h : 0x60000 ≤ off) (sz : CsrSize) (v : Word) :
    s.csrPut low key off sz v = s.writeRest off sz v := by
  unfold State.csrPut
  rw [if_neg (by omega), if_neg (by omega)]

theorem csrPlain_eq {off : Nat} {d : RegDesc} (h : PlainReg off d) (s : State) (sz : CsrSize) (v : Word) :
    s.csrPlain off sz v = s.csrSet off (writeAcc d (s.fieldOk off d (mergeSz (s.csrGet off) sz v)) (s.csrGet off) sz v) := by
  have hb : ¬ (d.base = PKG_SHARE.off 0 0 ∨ d.base = HST_PORT_CFG.off 0) := by
    have hhi : 0xb0000 ≤ off := h.high
    rw [h.base]
    simp only [PKG_SHARE.off, HST_PORT_CFG.off]
    omega
  simp only [State.csrPlain, h.found, hb, if_false]

theorem writeRest_plain {off : Nat} {d : RegDesc} (h : PlainReg off d) (s : State) (sz : CsrSize) (v : Word) :
    s.writeRest off sz v = s.csrPlain off sz v := by
  obtain ⟨-, -, hhi, hq⟩ := h
  simp only [List.mem_cons, List.not_mem_nil, or_false, not_or] at hq
  obtain ⟨hlouvre, hdbg, hext⟩ := hq
  unfold State.writeRest
  replace hhi : 0xb0000 ≤ off := hhi
  have hne {x : Nat} (hx : x < 0xb0000) : off ≠ x := by omega
  have hpast {a b : Nat} (hb : b ≤ 0xb0000) (q : Prop) : ¬ (a ≤ off ∧ off < b ∧ q) := by omega
  rw [if_neg (hne (by decide)), if_neg (hne (by decide)), if_neg (hpast (by decide) _), if_neg (hpast (by decide) _), if_neg (hne (by decide)),
    if_neg (hne (by decide)), if_neg (hpast (by decide) _), if_neg (hne (by decide)), if_neg (hne (by decide)), if_neg (hne (by decide)),
    if_neg hlouvre, if_neg hdbg, if_neg hext]

/-- A write to such a register sets it to what the access codes of its fields give. -/
theorem csrPut_plain {off : Nat} {d : RegDesc} (h : PlainReg off d) (s : State) (low : Bool) (key : Nat) (sz : CsrSize) (v : Word) :
    s.csrPut low key off sz v = s.csrSet off (writeAcc d (s.fieldOk off d (mergeSz (s.csrGet off) sz v)) (s.csrGet off) sz v) := by
  have h60 : 0x60000 ≤ off := Nat.le_trans (by decide) h.high
  rw [csrPut_high _ _ _ h60, writeRest_plain h, csrPlain_eq h]

/-! Where no register is defined (R12). -/

/-- An offset without a register lies in no family of the register table. -/
theorem not_matchDims_of_regAt {off : Nat} (h : regAt off = none) {d : RegDesc} (hd : d ∈ regTable) (hb : d.base ≤ off) :
    matchDims d.dims (off - d.base) = false := by
  have := List.find?_eq_none.1 h d hd
  simpa [hb] using this

/-- An offset without a register is at no place of a family with one suffix. -/
theorem not_family_of_regAt {off base n step : Nat} {r : Word} {fs : List FldDesc} (h : regAt off = none)
    (hd : regAt base = some ⟨base, [(n, step)], r, fs⟩) : ¬ (base ≤ off ∧ (off - base) / step < n ∧ (off - base) % step = 0) := by
  rintro ⟨hb, hn, h0⟩
  have := not_matchDims_of_regAt h (List.mem_of_find?_eq_some hd) hb
  simp [matchDims, hn, h0] at this

/-- A write where no register is defined does nothing. -/
theorem writeRest_undefined {off : Nat} (h : regAt off = none) (s : State) (sz : CsrSize) (v : Word) : s.writeRest off sz v = s := by
  have hne {x : Nat} (hx : (regAt x).isSome = true) : off ≠ x := by
    rintro rfl
    simp [h] at hx
  have hcfg : ¬ (FAB_CFG.off 0 ≤ off ∧ off < FAB_CFG.off 16 ∧ off % 0x1000 = 0) := by
    have := not_family_of_regAt (base := FAB_CFG.off 0) (n := 16) (step := 0x1000) h rfl
    simp only [FAB_CFG.off] at this ⊢
    omega
  have hcmd : ¬ (FAB_CMD.off 0 ≤ off ∧ off < FAB_CMD.off 16 ∧ off % 0x1000 = FAB_CMD.off 0 % 0x1000) := by
    have := not_family_of_regAt (base := FAB_CMD.off 0) (n := 16) (step := 0x1000) h rfl
    simp only [FAB_CMD.off] at this ⊢
    omega
  have hstage : ¬ (UPD_STAGE.off 0 ≤ off ∧ off < UPD_STAGE.off 12 ∧ off % 0x1000 = 0) := by
    have := not_family_of_regAt (base := UPD_STAGE.off 0) (n := 12) (step := 0x1000) h rfl
    simp only [UPD_STAGE.off] at this ⊢
    omega
  unfold State.writeRest
  rw [if_neg (hne rfl), if_neg (hne rfl), if_neg hcfg, if_neg hcmd, if_neg (hne rfl), if_neg (hne rfl), if_neg hstage, if_neg (hne rfl),
    if_neg (hne rfl), if_neg (hne rfl), if_neg (hne rfl), if_neg (hne rfl), if_neg (hne rfl)]
  simp only [State.csrPlain, h]

end Sys2Proof.Machine
end

section
/-! The idle step: what one nanosecond leaves alone (log 3). -/

namespace Sys2Proof.Machine

/-- A fold of operations that change registers alone changes registers alone. -/
theorem foldl_registers {α : Type} {f : State → α → State} (hf : ∀ t x, f t x = { t with csr := (f t x).csr }) (l : List α) (s : State) :
    l.foldl f s = { s with csr := (l.foldl f s).csr } := by
  induction l generalizing s with
  | nil => rfl
  | cons x l ih =>
    rw [List.foldl_cons, ih, hf]

theorem State.halTick_frame (s : State) : s.halTick = { s with csr := s.halTick.csr } :=
  foldl_registers (fun t x => by split <;> rfl) s.hals s

theorem State.bpTick_frame (s : State) : s.bpTick = { s with csr := s.bpTick.csr } :=
  foldl_registers (fun t x => by split <;> rfl) (List.range 12) s

/-- The power controller's clock one nanosecond later. -/
def State.clocked (s : State) : State := { s with power := { s.power with clock := s.power.clock + 1 } }

theorem tick_up {s : State} (h : s.power.ok = true) : s.tick = { s.clocked.halTick.bpTick.cycTick with time := s.time + 1 } := by
  unfold State.tick
  exact if_pos h

theorem tick_down {s : State} (h : ¬ s.power.ok = true) : s.tick = s.clocked := by
  unfold State.tick
  exact if_neg h

/-- The power controller's clock moves always, fabric time while the rails are up; beside them only registers and cycle counters move. -/
theorem State.tick_frame (s : State) : s.tick = { s with
    csr := s.tick.csr, dieCyc := s.tick.dieCyc, cclk5 := s.tick.cclk5, power := { s.power with clock := s.power.clock + 1 },
    time := if s.power.ok = true then s.time + 1 else s.time } := by
  by_cases h : s.power.ok = true
  · rw [if_pos h, tick_up h, State.cycTick, State.bpTick_frame, State.halTick_frame]
    rfl
  · rw [if_neg h, tick_down h]
    rfl

theorem step_idle {s : State} (h : s.pending = []) : step s = .next s.tick := by rw [step, h]

end Sys2Proof.Machine
end

section
/-! Accesses of registers (R5 to R8, R562). -/

namespace Sys2Proof.Machine

/-! The two commands, case by case. -/

theorem csrWrite_armed {who : Who} {s : State} (h : s.armed 0x13 (whoUnit who) = true) (off : Nat) (sz : CsrSize) (v : Word) :
    exec (.csrWrite who off sz v) s = .next (s.csrRefused who off false) := by
  change execCsrWrite who off sz v s = _
  unfold execCsrWrite
  rw [if_pos h]

theorem csrWrite_ctx {s : State} (h : s.armed 0x13 unitPkg = false) (n : CtxId) (off : Nat) (sz : CsrSize) (v : Word) :
    exec (.csrWrite (.ctx n) off sz v) s =
      .next (if n = 0 ∨ ownBlock n.val off = true then s.csrPut (n != 0) noCore off sz v else s.csrFault n off) := by
  change execCsrWrite (.ctx n) off sz v s = _
  unfold execCsrWrite
  rw [if_neg (by simpa [whoUnit] using h)]

theorem csrWrite_firmware {s : State} (h : s.armed 0x13 unitPkg = false) (off : Nat) (sz : CsrSize) (v : Word) :
    exec (.csrWrite (.ctx 0) off sz v) s = .next (s.csrPut false noCore off sz v) := by
  rw [csrWrite_ctx h, if_pos (.inl rfl)]
  rfl

theorem csrWrite_host {p : Fin 2} {s : State} (h : s.armed 0x13 (unitPcie p.val) = false) (f : Fin 32) (off : Nat) (sz : CsrSize) (v : Word) :
    exec (.csrWrite (.host p f) off sz v) s = .next (s.barWrite p.val f.val off sz v) := by
  change execCsrWrite (.host p f) off sz v s = _
  unfold execCsrWrite
  rw [if_neg (by simpa [whoUnit] using h)]

/-! An access outside the block of its context, and writes through BAR0 that reach no register (R7, R476). -/

/-- The fault ACCESS that an access of a register raises in a context (log 62). -/
def State.accessFault (s : State) (n : CtxId) (off : Nat) : FaultRec := ⟨n, .access, 0, 0, 0, csrBase + off, unitPkg, s.time⟩

theorem csrFault_eq {s : State} {n : CtxId} (h : s.hatching n.val = false) (off : Nat) :
    s.csrFault n off = { s with faults := s.faults ++ [s.accessFault n off] } := by
  rw [State.csrFault, State.addFault, if_neg (by simpa using h)]
  rfl

theorem csrWrite_outside {n : CtxId} {off : Nat} {s : State} (h : s.armed 0x13 unitPkg = false) (h0 : n ≠ 0)
    (hout : off < 0x20000 + n.val * 0x1000 ∨ 0x20000 + (n.val + 1) * 0x1000 ≤ off) (hh : s.hatching n.val = false) (sz : CsrSize) (v : Word) :
    exec (.csrWrite (.ctx n) off sz v) s = .next { s with faults := s.faults ++ [s.accessFault n off] } := by
  have hown : ¬ ownBlock n.val off = true := by
    simp only [ownBlock, Bool.and_eq_true, decide_eq_true_eq]
    omega
  rw [csrWrite_ctx h, if_neg (not_or.2 ⟨h0, hown⟩), csrFault_eq hh]

theorem barWrite_dead {p f : Nat} {s : State} (h : s.fnLive p f = false) (off : Nat) (sz : CsrSize) (v : Word) : s.barWrite p f off sz v = s := by
  rw [State.barWrite, if_pos (by simpa using h)]

theorem barWrite_beyond {p f off : Nat} {s : State} (h : 0x80000 ≤ off) (sz : CsrSize) (v : Word) : s.barWrite p f off sz v = s := by
  rw [State.barWrite, if_neg (show ¬ off < 0x200 by omega), if_neg (show ¬ (0x20000 ≤ off ∧ off < 0x20100) by omega),
    if_neg (show ¬ (0x40000 ≤ off ∧ off < 0x80000) by omega), ite_self]

/-! Writes by access code (R8), in whole and by halves (R6). -/

/-- PWR_THERM in the register table. -/
def thermReg : RegDesc := ⟨0xb0020, [], 0x5f00000000000000, [⟨56, 8, .rw, none, none⟩]⟩

/-- PWR_EVT in the register table. -/
def evtReg : RegDesc := ⟨0xb0038, [], 0x0, [⟨6, 1, .w1c, none, none⟩, ⟨5, 1, .w1c, none, none⟩, ⟨4, 1, .w1c, none, none⟩,
  ⟨3, 1, .w1c, none, none⟩, ⟨2, 1, .w1c, none, none⟩, ⟨1, 1, .w1c, none, none⟩, ⟨0, 1, .w1c, none, none⟩]⟩

theorem plainReg_therm : PlainReg PWR_THERM.off thermReg := ⟨rfl, rfl, by decide, by decide⟩

theorem plainReg_evt : PlainReg PWR_EVT.off evtReg := ⟨rfl, rfl, by decide, by decide⟩

theorem evtReg_flags : evtReg.Flags := by
  unfold RegDesc.Flags
  decide

/-- PWR_EVT has a flag at each of its bits 0 to 6. -/
theorem evtReg_field : ∀ {i : Nat}, i < 7 → evtReg.fields.any (·.lo == i) = true := by decide

theorem fieldOk_therm (s : State) (whole : Word) (f : FldDesc) (x : Nat) :
    s.fieldOk PWR_THERM.off thermReg whole f x = (decide (70 ≤ x) && decide (x ≤ 100)) := rfl

/-- TJ_TARGET is the one field of PWR_THERM and holds 70 to 100. -/
theorem csrPut_therm (s : State) (low : Bool) (key : Nat) (sz : CsrSize) (v : Word) :
    s.csrPut low key PWR_THERM.off sz v = s.csrSet PWR_THERM.off
      (let tj := getFld (mergeSz (s.csrGet PWR_THERM.off) sz v) PWR_THERM.TJ_TARGET
       if 70 ≤ tj ∧ tj ≤ 100 then putFld (s.csrGet PWR_THERM.off) PWR_THERM.TJ_TARGET tj else s.csrGet PWR_THERM.off) := by
  have hfields : thermReg.fields = [⟨56, 8, .rw, none, none⟩] := rfl
  rw [csrPut_plain plainReg_therm, writeAcc, hfields, List.foldl_cons, List.foldl_nil, writeFld]
  simp only [fieldOk_therm, Bool.and_eq_true, decide_eq_true_eq]
  rfl

theorem csrWrite_therm {s : State} (h : s.armed 0x13 unitPkg = false) (v : Word) :
    Gives (.csrWrite (.ctx 0) PWR_THERM.off .w64 v) s fun t =>
      t.fld PWR_THERM.off PWR_THERM.TJ_TARGET =
        (if 70 ≤ v.fld 56 8 ∧ v.fld 56 8 ≤ 100 then v.fld 56 8 else s.fld PWR_THERM.off PWR_THERM.TJ_TARGET) ∧
      (∀ o, o ≠ PWR_THERM.off → t.csrGet o = s.csrGet o) ∧ t = { s with csr := t.csr } := by
  refine ⟨_, csrWrite_firmware h .., ?_, fun o ho => ?_, ?_⟩ <;> rw [csrPut_therm]
  · rw [State.fld, csrGet_csrSet_same]
    have htj : getFld (mergeSz (s.csrGet PWR_THERM.off) .w64 v) PWR_THERM.TJ_TARGET = v.fld 56 8 := rfl
    dsimp only
    rw [htj]
    split
    · rw [getFld_putFld _ _ _ (by decide)]
      exact Nat.mod_eq_of_lt (getFld_lt v ⟨56, 8⟩)
    · rfl
  · exact csrGet_csrSet_ne ho
  · rfl

/-- A register set to the value that it holds. -/
theorem csrGet_csrSet_self (s : State) (off o : Nat) : (s.csrSet off (s.csrGet off)).csrGet o = s.csrGet o := by
  rw [csrGet_csrSet]
  split
  · next h => rw [h]
  · rfl

/-- TJ_TARGET lies in the upper half. -/
theorem csrWrite_therm_low {s : State} (h : s.armed 0x13 unitPkg = false) (v : Word) :
    Gives (.csrWrite (.ctx 0) PWR_THERM.off .lo32 v) s fun t => ∀ o, t.csrGet o = s.csrGet o := by
  refine ⟨_, csrWrite_firmware h .., fun o => ?_⟩
  have htj : getFld (mergeSz (s.csrGet PWR_THERM.off) .lo32 v) PWR_THERM.TJ_TARGET = getFld (s.csrGet PWR_THERM.off) PWR_THERM.TJ_TARGET :=
    getFld_putFld_ne _ ⟨0, 32⟩ _ _ (by decide) (by decide)
  rw [csrPut_therm]
  dsimp only
  rw [htj, putFld_getFld, ite_self]
  exact csrGet_csrSet_self s _ o

theorem csrWrite_louvre_low {s : State} (h : s.armed 0x13 unitPkg = false) (v : Word) :
    exec (.csrWrite (.ctx 0) PWR_LOUVRE.off .lo32 v) s = .next s := by
  rw [csrWrite_firmware h, csrPut_high _ _ _ (by decide)]
  rfl

theorem csrWrite_evt {s : State} (h : s.armed 0x13 unitPkg = false) (v : Word) :
    Gives (.csrWrite (.ctx 0) PWR_EVT.off .w64 v) s fun t => (∀ o, o ≠ PWR_EVT.off → t.csrGet o = s.csrGet o) ∧
      ∀ i, i < 7 → t.bit PWR_EVT.off ⟨i, 1⟩ = (s.bit PWR_EVT.off ⟨i, 1⟩ && !v.getLsbD i) := by
  refine ⟨_, csrWrite_firmware h .., fun o ho => ?_, fun i hi => ?_⟩ <;> rw [csrPut_plain plainReg_evt]
  · exact csrGet_csrSet_ne ho
  · rw [bit_eq_getLsbD, bit_eq_getLsbD, csrGet_csrSet_same, writeAcc_flags evtReg_flags _ _ _ (by omega), evtReg_field hi, Bool.and_true]

theorem csrWrite_readOnly {off : Nat} {d : RegDesc} {s : State} (hd : PlainReg off d) (hro : ∀ f ∈ d.fields, f.acc = .ro)
    (h : s.armed 0x13 unitPkg = false) (sz : CsrSize) (v : Word) :
    Gives (.csrWrite (.ctx 0) off sz v) s fun t => (∀ x, t.csrGet x = s.csrGet x) ∧ t = { s with csr := t.csr } := by
  refine ⟨_, csrWrite_firmware h .., fun x => ?_, ?_⟩ <;> rw [csrPut_plain hd, writeAcc_readOnly hro]
  · exact csrGet_csrSet_self s off x
  · rfl

/-- The registers of the power controller and the security engine that only hardware writes. -/
theorem readOnly_registers : ∀ o ∈ [PWR_IN.off, PWR_STS.off, PWR_TEMP.off, PWR_FLOW.off, PWR_TRIP.off, SEC_STS.off],
    ∃ d, PlainReg o d ∧ ∀ f ∈ d.fields, f.acc = .ro := by
  intro o ho
  simp only [List.mem_cons, List.not_mem_nil, or_false] at ho
  rcases ho with rfl | rfl | rfl | rfl | rfl | rfl <;> exact ⟨_, ⟨rfl, rfl, by decide, by decide⟩, by decide⟩

theorem csrWrite_undefined {off : Nat} {s : State} (h : s.armed 0x13 unitPkg = false) (hoff : 0x60000 ≤ off) (hu : regAt off = none)
    (sz : CsrSize) (v : Word) : exec (.csrWrite (.ctx 0) off sz v) s = .next s := by
  rw [csrWrite_firmware h, csrPut_high _ _ _ hoff, writeRest_undefined hu]

/-! The start mark that a write of CTX_PHASE gives (R644). -/

/-- A write in the block of context `n` at the offset `r` of its page. -/
theorem csrPut_block (s : State) (low : Bool) (key : Nat) (n : CtxId) {r : Nat} (hr : r < 0x1000) (sz : CsrSize) (v : Word) :
    s.csrPut low key (0x20000 + n.val * 0x1000 + r) sz v = s.writeCtx n low key r (0x20000 + n.val * 0x1000 + r) sz v := by
  have hn := n.isLt
  have hpage : (0x20000 + n.val * 0x1000 + r - 0x20000) / 0x1000 = n.val := by omega
  have hrest : (0x20000 + n.val * 0x1000 + r - 0x20000) % 0x1000 = r := by omega
  rw [State.csrPut, if_pos (by omega), hpage, hrest, Fin.ofNat_val_eq_self]

theorem writeCtx_phase (s : State) (n : CtxId) (low : Bool) (key : Nat) (v : Word) (hop : getFld v CTX_PHASE.OP = 1) :
    s.writeCtx n low key 0x808 (CTX_PHASE.off n.val) .w64 v = (s.markedBy n.val (getFld v CTX_PHASE.TAG)).foldl State.startMark s := by
  have hupd : CTX_PHASE.off n.val ≠ CTX_UPD_CMD.off n.val := by
    simp only [CTX_PHASE.off, CTX_UPD_CMD.off]
    omega
  have hhold : CTX_PHASE.off n.val ≠ CTX_VHOLD.off n.val := by
    simp only [CTX_PHASE.off, CTX_VHOLD.off]
    omega
  have hperm : CTX_PHASE.off n.val ≠ CTX_PERM.off n.val := by
    simp only [CTX_PHASE.off, CTX_PERM.off]
    omega
  rw [State.writeCtx, if_neg (by decide), if_neg (by decide), if_neg hupd, if_neg hhold, if_neg hperm, if_pos rfl]
  exact if_pos hop

theorem csrWrite_phase {s : State} (h : s.armed 0x13 unitPkg = false) (n : CtxId) :
    exec (.csrWrite (.ctx n) (CTX_PHASE.off n.val) .w64 (BitVec.ofNat 64 (put 1 62))) s = exec (.phaseStartMark n 0) s := by
  have hoff : CTX_PHASE.off n.val = 0x20000 + n.val * 0x1000 + 0x808 := by
    rw [CTX_PHASE.off]
    omega
  have hown : ownBlock n.val (CTX_PHASE.off n.val) = true := by
    rw [ownBlock, Bool.and_eq_true, decide_eq_true_eq, decide_eq_true_eq, hoff]
    omega
  rw [csrWrite_ctx h, if_pos (.inr hown), hoff, csrPut_block _ _ _ _ (by decide), ← hoff, writeCtx_phase _ _ _ _ _ (by decide)]
  rfl

/-! The record and the answer of a refused access (R7, R536; log 62). -/

/-- The detection that a refused access of a register is. -/
def accessDetection : Who → Nat → Detection
  | .ctx n, off => mkDet 0x13 unitPkg (some n) 2 3 0 0 0 0 (BitVec.ofNat 64 (csrBase + off))
  | .host p _, off => mkDet 0x13 (unitPcie p.val) none 1 3 7 0 0 0 (BitVec.ofNat 64 off)

theorem csrRecord_eq (s : State) (who : Who) (off : Nat) : s.csrRecord who off = (s.openRecord (accessDetection who off) false).1 := by
  cases who <;> rfl

theorem csrRecord_frame (s : State) (who : Who) (off : Nat) : s.csrRecord who off = { s with
    csr := (s.csrRecord who off).csr, ring := (s.csrRecord who off).ring, tele := (s.csrRecord who off).tele,
    notices := (s.csrRecord who off).notices, cores := (s.csrRecord who off).cores, faults := (s.csrRecord who off).faults,
    tst := (s.csrRecord who off).tst } := by
  rw [csrRecord_eq, State.openRecord_frame]

/-- The record of a detection with DET 0x13 stands in `t` where the ring of `s` had its next entry: that entry was free and no open record
took the detection. -/
def AccessRecorded (s : State) (u : UnitCode) (sev opkind a : Nat) (t : State) : Prop :=
  let next := s.fld ERR_RING_STS.off ERR_RING_STS.NEXT
  recOpen (s.record next) = false → (∀ d : Detection, d.det = 0x13 → d.unit = u → s.joinable d = none) →
    let r := t.record next
    recOpen r = true ∧ (recWord r 0).fld 48 8 = 0x13 ∧ (recWord r 0).fld 56 2 = sev ∧ (recWord r 2).fld 56 8 = opkind ∧
      (recWord r 1).fld 0 32 = u.toNat ∧ recWord r 5 = BitVec.ofNat 64 a

/-- A detection of 0x13 makes such a record, with its own severity, kind of operation and detail. -/
theorem openRecord_accessRecorded (s : State) {d : Detection} (hdet : d.det = 0x13) {a : Nat} (hdetail : d.detail = BitVec.ofNat 64 a) :
    AccessRecorded s d.unit d.sev.val d.opkind.val a (s.openRecord d false).1 := by
  unfold AccessRecorded
  intro next hfree hjoin r
  have hr : r = _ := openRecord_record (hjoin d hdet rfl) hfree false
  have hnext : next < 2 ^ 32 := getFld_lt _ ERR_RING_STS.NEXT
  rw [hr]
  exact ⟨recOpen_newRecord _ _ _ _ hnext, (newRecord_det _ _ _ _ hnext).trans (by rw [hdet]; rfl), newRecord_sev _ _ _ _ hnext,
    newRecord_opkind .., newRecord_unit .., hdetail⟩

/-- A context takes the fault ACCESS. -/
theorem csrRefused_ctx {n : CtxId} {s : State} (h : s.hatching n.val = false) (off : Nat) (rd : Bool) :
    s.csrRefused (.ctx n) off rd =
      { s.csrRecord (.ctx n) off with faults := (s.csrRecord (.ctx n) off).faults ++ [s.accessFault n off] } := by
  have hh : (s.csrRecord (.ctx n) off).hatching n.val = false := by
    rw [csrRecord_frame]
    exact h
  have ht : (s.csrRecord (.ctx n) off).accessFault n off = s.accessFault n off := by
    rw [csrRecord_frame]
    rfl
  rw [← ht, ← csrFault_eq hh]
  rfl

theorem csrAccessBadSize_ctx {n : CtxId} {s : State} (h : s.hatching n.val = false) (off : Nat) (rd : Bool) :
    Gives (.csrAccessBadSize (.ctx n) off rd) s fun t =>
      s.accessFault n off ∈ t.faults ∧ t.mem = s.mem ∧ AccessRecorded s unitPkg 2 0 (csrBase + off) t := by
  refine ⟨_, rfl, ?_⟩
  rw [csrRefused_ctx h]
  refine ⟨List.mem_append_right _ List.mem_cons_self, ?_, ?_⟩
  · rw [csrRecord_frame]
  · have hrec := openRecord_accessRecorded s (d := accessDetection (.ctx n) off) rfl rfl
    rw [← csrRecord_eq] at hrec
    exact hrec

/-- A host's read returns ones. -/
theorem csrAccessBadSize_host_read (p : Fin 2) (f : Fin 32) (off : Nat) (s : State) :
    Gives (.csrAccessBadSize (.host p f) off true) s fun t =>
      t.hostOut = s.hostOut ++ [.readData p.val f.val (List.replicate 8 0xFF) false] ∧ t.mem = s.mem ∧
      AccessRecorded s (unitPcie p.val) 1 7 off t := by
  refine ⟨(s.csrRecord (.host p f) off).toHost _, rfl, ?_, ?_, openRecord_accessRecorded s (d := accessDetection (.host p f) off) rfl rfl⟩
  · rw [csrRecord_frame]
    rfl
  · rw [csrRecord_frame]
    rfl

/-- A host's write is dropped. -/
theorem csrAccessBadSize_host_write (p : Fin 2) (f : Fin 32) (off : Nat) (s : State) :
    Gives (.csrAccessBadSize (.host p f) off false) s fun t =>
      t.hostOut = s.hostOut ∧ t.mem = s.mem ∧ AccessRecorded s (unitPcie p.val) 1 7 off t := by
  refine ⟨s.csrRecord (.host p f) off, rfl, ?_, ?_, openRecord_accessRecorded s (d := accessDetection (.host p f) off) rfl rfl⟩
  · rw [csrRecord_frame]
  · rw [csrRecord_frame]

/-! The step without a command (log 3). -/

theorem step_idle_frame {s : State} (h : s.pending = []) :
    ∃ t, step s = .next t ∧ t.pending = [] ∧ t.mem = s.mem ∧ t.cores = s.cores ∧ t.ring = s.ring ∧ t.faults = s.faults ∧
      t.power.clock = s.power.clock + 1 ∧ t.time = if s.power.ok = true then s.time + 1 else s.time := by
  refine ⟨s.tick, step_idle h, ?_⟩
  rw [State.tick_frame]
  exact ⟨h, rfl, rfl, rfl, rfl, rfl, rfl⟩

/-- Settles O60, clause by clause: what each access code, half and offset does to a write, what an access of a bad size leaves behind, and what
an idle step lets go on. -/
theorem registerAccess : Obligations.RegisterAccess := by
  unfold Obligations.RegisterAccess
  intro n p f off sz v rd who s next free hfree recorded fault tj
  exact ⟨fun h => ⟨_, csrWrite_armed h .., rfl⟩,
    fun h h0 hout hh => ⟨_, csrWrite_outside h h0 hout hh .., rfl⟩,
    fun h => csrWrite_therm h v,
    fun h => csrWrite_therm_low h v,
    fun h => ⟨s, csrWrite_louvre_low h v, rfl⟩,
    fun h => csrWrite_evt h v,
    fun o ho h => let ⟨_, hplain, hro⟩ := readOnly_registers o ho; csrWrite_readOnly hplain hro h sz v,
    fun h hoff hu => csrWrite_undefined h hoff hu sz v,
    fun h => ⟨_, csrWrite_phase h n, rfl⟩,
    fun h hlive => by rw [csrWrite_host h, barWrite_dead hlive],
    fun h _ hoff => by rw [csrWrite_host h, barWrite_beyond hoff],
    fun hh => csrAccessBadSize_ctx hh off rd,
    csrAccessBadSize_host_read p f off s,
    csrAccessBadSize_host_write p f off s,
    step_idle_frame⟩

end Sys2Proof.Machine
end

section
/-! What the operations beside a core's own work leave alone: counters, status flags, arbiters and error records (R22, R80, R537, R635). -/

namespace Sys2Proof.Machine

/-- From `s` to `t` the core `k`, the memory, the clock, the contexts and the registers of the package block stay. -/
structure Aside (k : Nat) (s t : State) : Prop where
  core : t.core k = s.core k
  mem  : t.mem = s.mem
  time : t.time = s.time
  ctxs : t.ctxs = s.ctxs
  regs : ∀ off, off < 0x20000 → t.csrGet off = s.csrGet off

/-- A core that is no control core is none of the sixteen. -/
theorem ne_of_mem_allCtl {k key : Nat} (hk : isCtl k = false) (h : key ∈ allCtl) : k ≠ key := by
  have hlow : k < 0x1000 := Nat.lt_of_not_le (of_decide_eq_false hk)
  obtain ⟨n, -, rfl⟩ := List.mem_map.1 h
  omega

namespace Aside

variable {k : Nat} {s t u : State}

theorem refl (k : Nat) (s : State) : Aside k s s := ⟨rfl, rfl, rfl, rfl, fun _ _ => rfl⟩

theorem trans (h : Aside k s t) (g : Aside k t u) : Aside k s u :=
  ⟨g.core.trans h.core, g.mem.trans h.mem, g.time.trans h.time, g.ctxs.trans h.ctxs, fun off ho => (g.regs off ho).trans (h.regs off ho)⟩

theorem readByte (h : Aside k s t) (y : Nat) : t.readByte y = s.readByte y := readByte_congr h.mem (h.regs _ (by decide)) y

theorem hatching (h : Aside k s t) (n : Nat) : t.hatching n = s.hatching n := by rw [State.hatching, State.ctx, h.ctxs]; rfl

/-- The map of a compute core's cluster lies in the package block. -/
theorem unitOf (h : Aside k s t) (hk : isCtl k = false) (e : Nat) : t.unitOf k e = s.unitOf k e := by
  have hmap : PKG_CORE_MAP.off (keyDie k) (keyCl k) < 0x20000 := by
    have : k < 0x1000 := Nat.lt_of_not_le (of_decide_eq_false hk)
    simp only [PKG_CORE_MAP.off, keyDie, keyCl]
    omega
  simp only [State.unitOf, State.physCore, h.regs _ hmap]

/-! Registers above the package block. -/

theorem csrSet {off : Nat} (ho : 0x20000 ≤ off) (s : State) (v : Word) : Aside k s (s.csrSet off v) :=
  ⟨rfl, rfl, rfl, rfl, fun _ h => csrGet_csrSet_ne (by omega)⟩

theorem setFld {off : Nat} (ho : 0x20000 ≤ off) (s : State) (f : Fld) (v : Nat) : Aside k s (s.setFld off f v) := csrSet ho s _

theorem bump {off : Nat} (ho : 0x20000 ≤ off) (s : State) (f : Fld) (n : Nat) : Aside k s (s.bump off f n) := setFld ho s f _

theorem flagIf {off : Nat} (ho : 0x20000 ≤ off) (s : State) (f : Fld) (b : Bool) : Aside k s (s.flagIf off f b) := by
  cases b
  · exact refl k s
  · exact setFld ho s f 1

theorem numFlags (s : State) (n : Nat) (sat nan : Bool) : Aside k s (s.numFlags n sat nan) :=
  have ho : 0x20000 ≤ CTX_NUMSTS.off n := by rw [CTX_NUMSTS.off]; omega
  (flagIf ho s _ sat).trans (flagIf ho _ _ nan)

theorem mismatch (s : State) (n : Nat) : Aside k s (s.mismatch n) :=
  have ho : 0x20000 ≤ CTX_MXSTS.off n := by rw [CTX_MXSTS.off]; omega
  (bump ho s _ 1).trans (setFld ho _ _ 1)

/-! Counters and arbiters. -/

theorem pmcOwn (s : State) (key code amt : Nat) : Aside k s (s.pmcOwn key code amt) := by
  have h := countsOnly_pmcOwn key s code amt
  refine ⟨h.core k, ?_, ?_, ?_, fun off ho => h.2 off (not_isCounter (by omega))⟩ <;> rw [h.1]

theorem arbServedAll (l : List Arb) (r : Nat) (s : State) : Aside k s (s.arbServedAll l r) := by
  induction l generalizing s with
  | nil => exact refl k s
  | cons a l ih => exact trans (t := s.arbServed a r) ⟨rfl, rfl, rfl, rfl, fun _ _ => rfl⟩ (ih _)

theorem padServed (s : State) (key r : Nat) (rs : List (Nat × Nat)) : Aside k s (s.padServed key r rs) := arbServedAll _ r s

theorem tilesRead (s : State) (key r : Nat) (ts : List Nat) : Aside k s (s.tilesRead key r ts) := arbServedAll _ r s

/-! Error records. The notice of one goes to a control core. -/

theorem addFault (s : State) (f : FaultRec) : Aside k s (s.addFault f) := by
  rw [State.addFault_frame]
  exact ⟨rfl, rfl, rfl, rfl, fun _ _ => rfl⟩

theorem modCore_ne {key : Nat} (hk : k ≠ key) (s : State) (f : Core → Core) : Aside k s (s.modCore key f) :=
  ⟨State.core_modCore_ne hk, rfl, rfl, rfl, fun _ _ => rfl⟩

theorem fwEvent {key : Nat} (hk : k ≠ key) (s : State) (eve : Option Nat) (op : Nat) : Aside k s (s.fwEvent key eve op) := by
  cases eve with
  | none => exact refl k s
  | some e =>
    unfold State.fwEvent State.evAdd
    dsimp only
    split
    · exact (modCore_ne hk s _).trans (addFault _ _)
    · exact modCore_ne hk s _

theorem notices (s : State) (l : List Word) : Aside k s { s with notices := l } := ⟨rfl, rfl, rfl, rfl, fun _ _ => rfl⟩

theorem giveNotice (hk : isCtl k = false) (s : State) : Aside k s s.giveNotice := by
  unfold State.giveNotice
  split
  · next hfind =>
    have hne := ne_of_mem_allCtl hk (List.mem_of_find?_eq_some hfind)
    split
    · exact ((modCore_ne hne s _).trans (notices _ _)).trans (fwEvent hne _ _ _)
    · exact refl k s
  · exact refl k s

theorem notice (hk : isCtl k = false) (s : State) (w : Word) : Aside k s (s.notice w) := by
  unfold State.notice
  split
  · exact refl k s
  · exact (notices s _).trans (giveNotice hk _)

theorem takeDetection (hk : isCtl k = false) (s : State) (d : Detection) (inj : Bool) : Aside k s (s.takeDetection d inj).1 := by
  unfold State.takeDetection
  split
  · exact ⟨rfl, rfl, rfl, rfl, fun _ _ => rfl⟩
  · extract_lets next s1 s2 s3 s4
    split
    · exact bump (by decide) s _ 1
    · have h1 : Aside k s s1 := ⟨rfl, rfl, rfl, rfl, fun _ _ => rfl⟩
      have h3 : Aside k s1 s3 := (setFld (by decide) s1 _ _).trans (setFld (by decide) s2 _ _)
      have h4 : Aside k s3 s4 := by
        simp only [s4]
        split
        · exact ⟨rfl, rfl, rfl, rfl, fun _ _ => rfl⟩
        · exact refl k s3
      exact ((h1.trans h3).trans h4).trans (notice hk s4 _)

theorem fired (s : State) (last : Option Nat) : Aside k s (s.fired last) := by
  unfold State.fired
  extract_lets s1 s2 n tst s3
  have h2 : Aside k s1 s2 := by
    simp only [s2]
    split
    · exact setFld (by decide) s1 _ _
    · exact refl k s1
  have h3 : Aside k s s3 := ((bump (by decide) s _ 1).trans h2).trans ⟨rfl, rfl, rfl, rfl, fun _ _ => rfl⟩
  split
  · exact h3.trans (setFld (by decide) s3 _ 0)
  · exact h3

theorem openRecord (hk : isCtl k = false) (s : State) (d : Detection) (inj : Bool) : Aside k s (s.openRecord d inj).1 := by
  have ht := fun b => takeDetection hk s d b
  unfold State.openRecord
  dsimp only
  split
  · exact (ht _).trans (fired _ _)
  · split
    · exact (ht _).trans (setFld (by decide) _ _ _)
    · exact ht _

theorem poisonRecord (hk : isCtl k = false) (s : State) (a : Nat) (n : Option CtxId) : Aside k s (s.poisonRecord a n) := by
  unfold State.poisonRecord
  exact openRecord hk s _ _

theorem tileRecord (hk : isCtl k = false) (s : State) (key t cls op pc : Nat) :
    Aside k s (s.tileRecord key t cls op pc) := by
  unfold State.tileRecord
  exact openRecord hk s _ _

theorem repeats (s : State) (i : Option Nat) (n : Nat) : Aside k s (s.repeats i n) := by
  unfold State.repeats
  split
  · dsimp only
    split
    · exact ⟨rfl, rfl, rfl, rfl, fun _ _ => rfl⟩
    · exact refl k s
  · exact refl k s

end Aside
end Sys2Proof.Machine
end

section
/-! How an instruction of an engine ends: completed, or discarded with a fault (R93, R128, R153). -/

namespace Sys2Proof.Machine

@[simp] theorem State.readByte_modCore (s : State) (k : Nat) (f : Core → Core) (y : Nat) : (s.modCore k f).readByte y = s.readByte y :=
  readByte_congr (s.modCore_mem k f) (s.csrGet_modCore k f _) y

/-! A hold that ends changes the event registers, the hold and the instruction cache. -/

/-- The core `d` is `c` but for its event registers, its hold and its instruction cache. -/
def Core.Eased (c d : Core) : Prop := d = { c with ev := d.ev, hold := d.hold, icache := d.icache }

theorem Core.Eased.refl (c : Core) : c.Eased c := rfl

theorem Core.Eased.trans {a b c : Core} (h : a.Eased b) (g : b.Eased c) : a.Eased c := by
  unfold Core.Eased at *
  rw [g, h]

theorem Core.eased_settle (c : Core) : c.Eased c.settle := by
  unfold Core.Eased Core.settle
  split
  case h_5 => rfl
  all_goals split <;> rfl

/-! Completion. -/

theorem State.evAdd_eased (s : State) (k e n cls op pc addr : Nat) : (s.core k).Eased ((s.evAdd k e n cls op pc addr).core k) := by
  have hadd (c : Core) (ev : Tbl Nat) : c.Eased ({ c with ev := ev } : Core).settle :=
    Core.Eased.trans (b := { c with ev := ev }) rfl (Core.eased_settle _)
  unfold State.evAdd
  dsimp only
  split
  · rw [State.coreFault, (Aside.addFault _ _).core, State.core_modCore_same]
    exact hadd _ _
  · rw [State.core_modCore_same]
    exact hadd _ _

/-- A completed instruction leaves its core's engines, registers and tiles. -/
theorem State.complete_eased (s : State) (k : Nat) (e : QEntry) (addr : Nat) : (s.core k).Eased ((s.complete k e addr).core k) := by
  unfold State.complete State.settle State.instrEv
  rw [State.core_modCore_same]
  refine Core.Eased.trans ?_ (Core.eased_settle _)
  rw [← (Aside.pmcOwn s k (doneCode e.cls) (b2n (doneCode e.cls != 0))).core]
  split
  · exact State.evAdd_eased ..
  · exact Core.Eased.refl _

section
variable (s : State) (k : Nat) (e : QEntry) (addr : Nat)

@[simp] theorem State.complete_mq : ((s.complete k e addr).core k).mq = (s.core k).mq := by rw [s.complete_eased k e addr]
@[simp] theorem State.complete_mx : ((s.complete k e addr).core k).mx = (s.core k).mx := by rw [s.complete_eased k e addr]
@[simp] theorem State.complete_tiles : ((s.complete k e addr).core k).tiles = (s.core k).tiles := by rw [s.complete_eased k e addr]
@[simp] theorem State.complete_s : ((s.complete k e addr).core k).s = (s.core k).s := by rw [s.complete_eased k e addr]

@[simp] theorem State.complete_readByte (y : Nat) : (s.complete k e addr).readByte y = s.readByte y := by
  have hev (u : State) (ev cls op pc addr : Nat) : (u.evAdd k ev 1 cls op pc addr).readByte y = u.readByte y := by
    have hcsr : (u.evAdd k ev 1 cls op pc addr).csr = u.csr := by rw [State.evAdd_frame]
    refine readByte_congr (by rw [State.evAdd_frame]) ?_ y
    rw [State.csrGet, State.csrGet, hcsr]
  rw [State.complete, State.settle, State.readByte_modCore, State.instrEv]
  refine Eq.trans ?_ ((Aside.pmcOwn (k := k) s k (doneCode e.cls) (b2n (doneCode e.cls != 0))).readByte y)
  split
  · exact hev ..
  · rfl

end

/-! Faults of the matrix engine. -/

/-- The entry raised a fault in the matrix engine: the queue is discarded and the fault of `q` is the last on its way (R153). -/
def MxFaulted (k : Nat) (q : QEntry) (code : FaultCode) (a : Nat) (s t : State) : Prop :=
  (t.core k).mq = [] ∧ (t.core k).tiles = (s.core k).tiles ∧
    t.faults.getLast? = some ⟨(s.core k).ctx, code, q.cls, q.op, q.pc, a, s.unitOf k engMx, s.time⟩

theorem addFault_live {s : State} {f : FaultRec} (h : s.hatching f.ctx = false) : s.addFault f = { s with faults := s.faults ++ [f] } := by
  rw [State.addFault, if_neg (by rw [h]; decide)]

theorem engFault_mx {s : State} {k : Nat} (h : s.hatching (s.core k).ctx.val = false) (q : QEntry) (code : FaultCode) (a : Nat) :
    MxFaulted k q code a s (s.engFault k .mx q code a) := by
  unfold MxFaulted State.engFault State.coreFault
  dsimp only
  rw [addFault_live h, State.core_modCore_same]
  refine ⟨?_, ?_, ?_⟩
  · rw [Core.eased_settle]
    rfl
  · rw [Core.eased_settle]
    rfl
  · exact List.getLast?_concat

/-- A fault raised once the entry has left the queue and records have been made of what was found. -/
theorem engFault_popped {s t : State} {k : Nat} (hk : isCtl k = false) (h : s.hatching (s.core k).ctx.val = false)
    (ht : Aside k (s.popQueue k .mx) t) (q : QEntry) (code : FaultCode) (a : Nat) : MxFaulted k q code a s (t.engFault k .mx q code a) := by
  have hcore : t.core k = { s.core k with mq := (s.core k).mq.drop 1 } := ht.core.trans (State.core_modCore_same ..)
  have hlive : t.hatching (t.core k).ctx.val = false := by
    rw [hcore, ht.hatching]
    exact h
  have hunit : t.unitOf k engMx = s.unitOf k engMx := ht.unitOf hk engMx
  have htime : t.time = s.time := ht.time
  have := engFault_mx hlive q code a
  rw [MxFaulted, hcore, hunit, htime] at this
  exact this

end Sys2Proof.Machine
end

section
/-! The matrix engine starts the head of its queue (R162, R166 to R170, R175, R184, R193). -/

namespace Sys2Proof.Machine

theorem engineQueueStart_mx {cid : CoreId} {s : State} {q : QEntry} {rest : List QEntry} (hq : (s.core (coreKey cid)).mq = q :: rest)
    (hk : isCtl (coreKey cid) = false) (hh : s.hatching (s.core (coreKey cid)).ctx.val = false) (hn : q.null = false) (sample : Bool) :
    exec (.engineQueueStart cid .mx sample) s = .next (s.startMx (coreKey cid) q sample) := by
  change Host.Outcome.next (s.startHead (coreKey cid) .mx sample) = _
  have hset : s.servedSet (coreKey cid) = (s.core (coreKey cid)).ctx.val := if_pos (by rw [hk]; rfl)
  have hqueue : (s.core (coreKey cid)).queue .mx = q :: rest := hq
  rw [State.startHead, State.onSet, if_pos (by rw [hk]; rfl), State.startNext, if_neg (by rw [hh]; decide), hqueue]
  exact congrArg _ (if_neg (by rw [hn]; decide))

theorem popQueue_core (s : State) (k : Nat) : (s.popQueue k .mx).core k = { s.core k with mq := (s.core k).mq.drop 1 } :=
  State.core_modCore_same ..

/-! Which start an entry takes. -/

/-- The bank that an mst fills: that of the open run, else the next in rotation (R162, R172). -/
def MxSt.nextBank (m : MxSt) : Nat := if m.runOpen then m.cur else if m.filled then (m.cur + 1) % 3 else 0

section
variable {s : State} {k : Nat} {q : QEntry} {sample : Bool} (hu : (s.core k).mx.unresolved = false)
include hu

theorem startMx_mst (h0 : q.op = 0x00) (hb : (s.core k).mx.bankFree (s.core k).mx.nextBank = true) :
    s.startMx k q sample = s.startMst k q := by
  rw [State.startMx, if_neg (by rw [hu]; decide), if_pos h0]
  exact if_pos hb

theorem startMx_mmx (h1 : 1 ≤ q.op) (h4 : q.op ≤ 4) (hf : (s.core k).mx.fedAll = true)
    (hl : (tget Bank.empty (s.core k).mx.banks (s.core k).mx.cur).loads = 0) (hr : (s.core k).readsOk q = true) :
    s.startMx k q sample = s.startMmx k q sample := by
  rw [State.startMx, if_neg (by rw [hu]; decide), if_neg (by omega), if_pos h4, if_pos (by rw [hf, hl, hr]; rfl)]

theorem startMx_plain (h5 : 5 ≤ q.op) (hr : (s.core k).readsOk q = true)
    (hw : (s.core k).canWrite q.seq (q.tiles ((s.core k).pkAt q.seq)).2 = true) : s.startMx k q sample = s.startMxPlain k q := by
  rw [State.startMx, if_neg (by rw [hu]; decide), if_neg (by omega), if_neg (by omega), if_pos (by rw [hr, hw]; rfl)]

end

/-! An mst. -/

section
variable {s : State} {k : Nat} {q : QEntry}

theorem startMst_mixed (ho : (s.core k).mx.runOpen = true)
    (hm : (tget Bank.empty (s.core k).mx.banks (s.core k).mx.nextBank).mod ≠ modOf q.body) :
    s.startMst k q = (s.popQueue k .mx).engFault k .mx q .illegalOperand 0 := by
  unfold State.startMst
  exact if_pos (Bool.and_eq_true_iff.2 ⟨ho, bne_iff_ne.2 hm⟩)

/-- The MOD of an mst that opens a run, or joins one of its own MOD, is not refused (R172). -/
theorem mst_unmixed
    (hm : (s.core k).mx.runOpen = true → (tget Bank.empty (s.core k).mx.banks (s.core k).mx.nextBank).mod = modOf q.body) :
    ¬ ((s.core k).mx.runOpen && (tget Bank.empty (s.core k).mx.banks (s.core k).mx.nextBank).mod != modOf q.body) = true := by
  rw [Bool.and_eq_true_iff, bne_iff_ne]
  exact fun ⟨ho, hne⟩ => hne (hm ho)

variable (hm : (s.core k).mx.runOpen = true → (tget Bank.empty (s.core k).mx.banks (s.core k).mx.nextBank).mod = modOf q.body)
include hm

theorem startMst_poisoned {a : Nat} (hbad : s.badIn (mstReads q) = some a) :
    s.startMst k q = ((s.popQueue k .mx).poisonRecord a (some (s.core k).ctx)).engFault k .mx q .memoryError a := by
  unfold State.startMst
  refine (if_neg (mst_unmixed hm)).trans ?_
  rw [hbad]

/-- The load joins those under way, its data read; the scratchpad and the tiles stay (R162, R165). -/
theorem startMst_loads {rest : List QEntry} (hq : (s.core k).mq = q :: rest) (hbad : s.badIn (mstReads q) = none) :
    let c := s.core k
    let t := s.startMst k q
    (t.core k).mq = rest ∧ (t.core k).mx.cur = c.mx.nextBank ∧ (t.core k).mx.runOpen = true ∧
      (t.core k).mx.loads = c.mx.loads ++ [⟨q, c.mx.nextBank, bf q.body 40 7 % 16, (s.statSlot q).1⟩] ∧
      (tget Bank.empty (t.core k).mx.banks c.mx.nextBank).mod = modOf q.body ∧ (t.core k).tiles = c.tiles ∧
      ∀ y, t.readByte y = s.readByte y := by
  intro c t
  have ht : t = (if c.mx.runOpen && (tget Bank.empty c.mx.banks c.mx.nextBank).mod != modOf q.body then _ else _) := rfl
  rw [if_neg (mst_unmixed hm), hbad] at ht
  dsimp only at ht
  generalize hu : State.padServed _ k padMx (mstReads q) = u at ht
  have hside : Aside k (s.popQueue k .mx) u := by
    rw [← hu]
    exact (Aside.numFlags ..).trans (Aside.padServed ..)
  have hcore : u.core k = { c with mq := rest } := by rw [hside.core, popQueue_core, hq]; rfl
  rw [ht, State.core_modCore_same, hcore]
  refine ⟨rfl, rfl, rfl, rfl, ?_, rfl, fun y => ?_⟩
  · rw [tget_tset]
    refine (congrArg Bank.mod (if_pos rfl)).trans ?_
    by_cases ho : c.mx.runOpen = true
    · exact (congrArg Bank.mod (if_pos ho)).trans (hm ho)
    · exact congrArg Bank.mod (if_neg ho)
  · rw [State.readByte_modCore, hside.readByte]
    exact State.readByte_modCore ..

end

/-! An mmx. -/

/-- The tiles that hold the preload of an mmx (R169). -/
def Core.preTiles (c : Core) (q : QEntry) : List Nat :=
  if mmxPre (modOf q.body) = 2 then Machine.group (bf q.body 26 7) (4 * (mRows q.body / 32))
  else if mmxPre (modOf q.body) = 3 then mmxDest c.bankPk q.body else []

/-- An mmx that the engine refuses: no bank is filled, the types do not pair, a transom-fed one meets a divided array, or a preload tile has a
shift tag (R159, R173, R193). -/
def Core.mmxRefused (c : Core) (q : QEntry) : Bool :=
  !c.mx.filled || !pairingOk (mmxType (modOf q.body)) (mstTarget (tget Bank.empty c.mx.banks c.mx.cur).mod) ||
    (decide (q.op = 0x01 ∨ q.op = 0x02) && c.bankPk != 0) || (c.preTiles q).any fun t => (c.tile t).shift != 0

theorem Core.mmxRefused_iff (c : Core) (q : QEntry) :
    c.mmxRefused q = true ↔ c.mx.filled = false ∨
      pairingOk (mmxType (modOf q.body)) (mstTarget (tget Bank.empty c.mx.banks c.mx.cur).mod) = false ∨
      ((q.op = 0x01 ∨ q.op = 0x02) ∧ c.bankPk ≠ 0) ∨ ∃ t ∈ c.preTiles q, (c.tile t).shift ≠ 0 := by
  simp only [Core.mmxRefused, Bool.or_eq_true, Bool.and_eq_true, Bool.not_eq_true', decide_eq_true_eq, bne_iff_ne, List.any_eq_true, or_assoc]

/-- The rows that an mmx feeds (R167). -/
def Core.mmxFed (c : Core) (q : QEntry) : List Nat := fedRows c.mx.enable (mRows q.body)

/-- The bytes of the scratchpad that an mmx reads, none when its rows come from the tiles. -/
def Core.mmxBytes (c : Core) (q : QEntry) : List (Nat × Nat) :=
  if q.op = 0x01 ∨ q.op = 0x02 then [] else mmxRanges q c.bankPk (c.mmxFed q)

/-- An mmx starts well: it is not refused, and no row of a tile nor byte of the scratchpad that it reads is bad (R193, R241). -/
structure MmxSound (s : State) (k : Nat) (q : QEntry) : Prop where
  legal : ¬ (s.core k).mmxRefused q = true
  rows  : (mmxReads q (s.core k).bankPk ((s.core k).mmxFed q) (s.core k).mx.enable).find? (s.core k).rowBad = none
  bytes : s.badIn ((s.core k).mmxBytes q) = none

theorem mmxSound_of {s : State} {k : Nat} {q : QEntry} (hfill : (s.core k).mx.filled = true)
    (hpair : pairingOk (mmxType (modOf q.body)) (mstTarget (tget Bank.empty (s.core k).mx.banks (s.core k).mx.cur).mod) = true)
    (hpk : q.op = 0x01 ∨ q.op = 0x02 → (s.core k).bankPk = 0) (hpre : ∀ t ∈ (s.core k).preTiles q, ((s.core k).tile t).shift = 0)
    (hrows : ∀ x ∈ mmxReads q (s.core k).bankPk ((s.core k).mmxFed q) (s.core k).mx.enable, (s.core k).rowBad x = false)
    (hbytes : ¬ (q.op = 0x01 ∨ q.op = 0x02) → s.badIn (mmxRanges q (s.core k).bankPk ((s.core k).mmxFed q)) = none) : MmxSound s k q := by
  refine ⟨?_, List.find?_eq_none.2 fun x hx => ?_, ?_⟩
  · rw [Core.mmxRefused_iff]
    rintro (h | h | ⟨hT, h⟩ | ⟨t, ht, h⟩)
    · exact absurd (hfill.symm.trans h) (by decide)
    · exact absurd (hpair.symm.trans h) (by decide)
    · exact h (hpk hT)
    · exact h (hpre t ht)
  · rw [hrows x hx]
    decide
  · rw [Core.mmxBytes]
    split
    · rfl
    · next hT => exact hbytes hT

/-- The state once the head has left the queue, the run of its bank is over, and a sample that finds the spare busy is counted as skipped. -/
def State.mmxTaken (s : State) (k : Nat) (q : QEntry) (sample : Bool) : State :=
  let s1 := (s.popQueue k .mx).modCore k fun c => { c with mx := { c.mx with runOpen := false } }
  if sample && s.sampling k && s.spareBusy (keyDie k) (keyCl k) && !((s.core k).mmxFed q).isEmpty then
    s1.bump ERR_XSAMPLE_CNT.off ERR_XSAMPLE_CNT.SKIPPED 1
  else s1

section
variable {s : State} {k : Nat} {q : QEntry} {sample : Bool}

theorem mmxTaken_core {rest : List QEntry} (hq : (s.core k).mq = q :: rest) :
    (s.mmxTaken k q sample).core k = { s.core k with mq := rest, mx := { (s.core k).mx with runOpen := false } } := by
  have h1 : ((s.popQueue k .mx).modCore k fun c => { c with mx := { c.mx with runOpen := false } }).core k =
      { s.core k with mq := rest, mx := { (s.core k).mx with runOpen := false } } := by
    rw [State.core_modCore_same, popQueue_core, hq]
    rfl
  unfold State.mmxTaken
  dsimp only
  split
  · exact (Aside.bump (by decide) _ _ 1).core.trans h1
  · exact h1

theorem startMmx_refused (h : (s.core k).mmxRefused q = true) :
    s.startMmx k q sample = (s.popQueue k .mx).engFault k .mx q .illegalOperand 0 := by
  unfold State.startMmx
  exact if_pos h

variable (h : MmxSound s k q) {rest : List QEntry} (hq : (s.core k).mq = q :: rest)
include h hq

theorem startMmx_noRow (hfed : (s.core k).mmxFed q = []) :
    let c := s.core k
    let t := s.startMmx k q sample
    (t.core k).mq = rest ∧ (t.core k).mx.run = c.mx.run ∧ (t.core k).tiles = c.tiles := by
  obtain ⟨hlegal, hrows, hbytes⟩ := h
  intro c t
  have ht : t = (s.mmxTaken k q sample).complete k q 0 := by
    refine (if_neg hlegal).trans ?_
    dsimp only [Core.bankPk, Core.mmxBytes, Core.mmxFed] at hrows hbytes hfed ⊢
    rw [hrows, hbytes]
    dsimp only
    rw [if_pos (by rw [hfed]; rfl)]
    rfl
  rw [ht, State.complete_mq, State.complete_mx, State.complete_tiles, mmxTaken_core hq]
  exact ⟨rfl, rfl, rfl⟩

/-- The rows are captured, the one before goes on landing, and the new run begins to feed (R161, R167 to R169, R175). -/
theorem startMmx_feeds (hfed : (s.core k).mmxFed q ≠ []) :
    let c := s.core k
    let t := s.startMmx k q sample
    (t.core k).mq = rest ∧ (t.core k).mx.landing = c.mx.landing ++ c.mx.run.toList ∧ (t.core k).tiles = c.tiles ∧
      ∃ r, (t.core k).mx.run = some r ∧ r.entry = q ∧ r.bank = c.mx.cur ∧ r.fed = c.mmxFed q ∧ r.phase = .feed ∧ r.done = [] ∧
        r.landed = 0 ∧ r.shift = 0 ∧ r.stream = (c.mmxFed q).map (fun x => (s.streamRow k q c.bankPk x).1) ∧
        r.preload = (c.mmxFed q).map fun x => (List.range (pkCols c.bankPk)).map fun col =>
          if c.mx.enable.getLsbD x then c.preElem q c.bankPk x col else 0 := by
  obtain ⟨hlegal, hrows, hbytes⟩ := h
  intro c t
  have ht : t = _ := if_neg hlegal
  dsimp only [Core.bankPk, Core.mmxBytes, Core.mmxFed] at hrows hbytes hfed ht
  rw [hrows, hbytes] at ht
  dsimp only at ht
  rw [if_neg (by rw [List.isEmpty_iff]; exact hfed)] at ht
  generalize hu : State.padServed _ k padMx _ = u at ht
  have hside : Aside k (s.mmxTaken k q sample) u := by
    rw [← hu]
    exact ((Aside.pmcOwn ..).trans (Aside.tilesRead ..)).trans (Aside.padServed ..)
  have hcore : u.core k = { c with mq := rest, mx := { c.mx with runOpen := false } } := hside.core.trans (mmxTaken_core hq)
  rw [ht, State.core_modCore_same, hcore]
  exact ⟨rfl, rfl, rfl, _, rfl, rfl, rfl, rfl, rfl, rfl, rfl, rfl, List.map_map, rfl⟩

end

/-! The other matrix instructions. -/

section
variable {s : State} {k : Nat} {q : QEntry} {rest : List QEntry} (hq : (s.core k).mq = q :: rest)

theorem startMxPlain_biasBad (h5 : q.op = 0x05) (hbad : ((List.range 4).all fun r => !(s.core k).rowBad (bf q.body 33 7, r)) = false) :
    s.startMxPlain k q =
      ((s.popQueue k .mx).tileRecord k (bf q.body 33 7) q.cls q.op q.pc).engFault k .mx q .memoryError 0 := by
  unfold State.startMxPlain
  simp only [h5, hbad, Bool.false_eq_true, if_false]

include hq

theorem startMxPlain_bias (h5 : q.op = 0x05) (hok : ((List.range 4).all fun r => !(s.core k).rowBad (bf q.body 33 7, r)) = true) :
    let c := s.core k
    let t := s.startMxPlain k q
    (t.core k).mq = rest ∧ (t.core k).mx.bias = (List.range 128).map (fun n => (c.tile (bf q.body 33 7)).at (n / 32) (n % 32)) ∧
      (t.core k).tiles = c.tiles := by
  simp only [State.startMxPlain, h5, hok, if_true, State.complete_mq, State.complete_mx, State.complete_tiles, State.core_modCore_same,
    popQueue_core, hq, List.drop_one, List.tail_cons, and_self]

theorem startMxPlain_mask (h6 : q.op = 0x06) :
    let t := s.startMxPlain k q
    (t.core k).mq = rest ∧ (t.core k).mx.enable = q.b ++ q.a ∧ (t.core k).tiles = (s.core k).tiles := by
  simp only [State.startMxPlain, h6, State.complete_mq, State.complete_mx, State.complete_tiles, State.core_modCore_same,
    popQueue_core, hq, List.drop_one, List.tail_cons, and_self]

theorem startMxPlain_tagRead (h7 : q.op = 0x07) :
    let c := s.core k
    let td := bf q.body 40 7
    let t := s.startMxPlain k q
    (t.core k).mq = rest ∧ (t.core k).reg (bf q.body 34 6) = BitVec.ofNat 64 (b2n (c.tile td).susp * 256 + (c.tile td).shift) ∧
      (t.core k).tiles = c.tiles := by
  simp only [State.startMxPlain, h7, State.complete_mq, Core.reg, State.complete_s, State.complete_tiles, State.writePend,
    State.core_modCore_same, popQueue_core, hq, Core.setReg, tget_tset, if_true, List.drop_one, List.tail_cons, and_self]

theorem startMxPlain_tagClear (h8 : q.op = 0x08) :
    let c := s.core k
    let td := bf q.body 40 7
    let t := s.startMxPlain k q
    (t.core k).mq = rest ∧ ∀ j, (t.core k).tile j = if j = td then { c.tile td with shift := 0, susp := false } else c.tile j := by
  simp only [State.startMxPlain, h8, State.complete_mq, Core.tile, State.complete_tiles, State.core_modCore_same, popQueue_core, hq,
    Core.setTile, tget_tset, List.drop_one, List.tail_cons, implies_true, and_self]

end

end Sys2Proof.Machine
end

section
/-! Loads land and rows leave the array (R165, R175, R180 to R184). -/

namespace Sys2Proof.Machine

/-! A load of a stationary slot. -/

theorem mstDone_lands {s : State} {k : Nat} {r : MstRun} {rest : List MstRun} (h : (s.core k).mx.loads = r :: rest) :
    let c := s.core k
    let t := s.mstDone k
    tget? (tget Bank.empty (t.core k).mx.banks r.bank).slots r.slot = some r.data ∧ (t.core k).mx.loads = rest ∧
      (tget Bank.empty (t.core k).mx.banks r.bank).loads = (tget Bank.empty c.mx.banks r.bank).loads - 1 ∧
      (t.core k).tiles = c.tiles ∧ ∀ y, t.readByte y = s.readByte y := by
  simp only [State.mstDone, h, State.complete_mx, State.complete_tiles, State.complete_readByte, State.readByte_modCore,
    State.core_modCore_same, tget_tset, if_true, tget?_tset, implies_true, and_self]

/-! A row of the running mmx. -/

/-- The running mmx is `r` afterwards; tiles and memory stay. -/
def RunBecomes (k : Nat) (r : MxRun) (s t : State) : Prop :=
  (t.core k).mx.run = some r ∧ (t.core k).tiles = (s.core k).tiles ∧ ∀ y, t.readByte y = s.readByte y

/-- What the checks find that fall due after fed row `f`. -/
def MxRun.checks (r : MxRun) (bank : Bank) (f : Nat) : List (Nat × Nat × List Nat) :=
  r.judgedPasses.flatMap fun p => (r.judged f).map fun b => p.blockCheck bank p.resAt b

/-- Some check flags a line. -/
def MxRun.flaggedAt (r : MxRun) (bank : Bank) (f : Nat) : Bool :=
  ((r.checks bank f).map (·.2.1)).foldl (· + ·) 0 != 0 || !((r.checks bank f).flatMap (·.2.2)).isEmpty

/-- A count over a list is 0 when it starts at 0 and every number is 0. -/
theorem foldl_add_eq_zero_iff (l : List Nat) (i : Nat) : l.foldl (· + ·) i = 0 ↔ i = 0 ∧ ∀ n ∈ l, n = 0 := by
  induction l generalizing i with
  | nil => exact ⟨fun h => ⟨h, fun _ hn => absurd hn List.not_mem_nil⟩, And.left⟩
  | cons a l ih => rw [List.foldl_cons, ih, Nat.add_eq_zero_iff, and_assoc, List.forall_mem_cons]

/-- No line is flagged when each check finds no row line and no column. -/
theorem flaggedAt_eq_false_iff (r : MxRun) (bank : Bank) (f : Nat) :
    r.flaggedAt bank f = false ↔ ∀ p ∈ r.judgedPasses, ∀ b ∈ r.judged f, (p.blockCheck bank p.resAt b).2 = (0, []) := by
  rw [MxRun.flaggedAt, Bool.or_eq_false_iff, bne_eq_false_iff_eq, foldl_add_eq_zero_iff, eq_self, true_and,
    Bool.not_eq_false', List.isEmpty_iff, List.flatMap_eq_nil_iff]
  simp only [MxRun.checks, List.forall_mem_map, List.forall_mem_flatMap, Prod.ext_iff]
  exact ⟨fun ⟨hn, hc⟩ p hp b hb => ⟨hn p hp b hb, hc p hp b hb⟩,
    fun h => ⟨fun p hp b hb => (h p hp b hb).1, fun p hp b hb => (h p hp b hb).2⟩⟩

/-- Each element of a row is accumulated from its preload over its addends in reduction order (R60). -/
theorem rowOf_getElem? (r : MxRun) (bank : Bank) (f : Nat) {n : Nat} (hn : n < pkCols (bank.mod / 256)) :
    (r.rowOf bank f []).1[n]? = some (fvElem (r.accum bank f n).acc) := by
  simp only [MxRun.rowOf, List.getElem?_mapIdx, List.getElem?_map, List.getElem?_range hn, Option.map_some, List.filter_nil, List.foldl_nil]

theorem Aside.firstMismatch {k : Nat} (hk : isCtl k = false) (s : State) (key : Nat) (r : MxRun) (bank : Bank) (rows : Nat) (cols : List Nat) :
    Aside k s (s.firstMismatch key r bank rows cols).1 :=
  ((Aside.mismatch s _).trans (Aside.openRecord hk _ _ _)).trans (Aside.repeats _ _ 1)

/-- The state once the row has left: counted, the idle cycles of the ballast restarted. -/
def State.rowLeft (s : State) (k : Nat) : State := (s.pmcOwn k 0x010 1).modCore k fun c => { c with mx := { c.mx with cntI := 0 } }

theorem runBecomes_of_aside {s u : State} {k : Nat} (h : Aside k (s.rowLeft k) u) (r : MxRun) :
    RunBecomes k r s (u.modCore k fun c => { c with mx := { c.mx with run := some r } }) := by
  have hcore : u.core k = { s.core k with mx := { (s.core k).mx with cntI := 0 } } := by
    rw [h.core, State.rowLeft, State.core_modCore_same, (Aside.pmcOwn ..).core]
  refine ⟨?_, ?_, fun y => ?_⟩
  · rw [State.core_modCore_same]
  · rw [State.core_modCore_same, hcore]
  · rw [State.readByte_modCore, h.readByte, State.rowLeft, State.readByte_modCore]
    exact (Aside.pmcOwn (k := k) s k _ _).readByte y

section
variable {s : State} {k : Nat} {r x : MxRun} {bank : Bank} {f : Nat} (hr : (s.core k).mx.run = some r)
  (hgo : (r.phase != .feed || !s.carries k) = false) (hbank : tget Bank.empty (s.core k).mx.banks r.bank = bank)
  (hf : r.startRow r.first + r.done.length = f) (hx : r.addRow (r.rowOf bank f []) = x)
include hr hgo hbank hf hx

/-- An overflow under REPLAY begins the next attempt (R72, R73). -/
theorem rowExit_restarts (hov : (x.entry.replayMode && x.ovf) = true) :
    RunBecomes k (x.restart (nextShift x.shift) x.first) s (s.rowExit k []) := by
  simp only [State.rowExit, hr, hgo, hbank, hf, hx, Bool.false_eq_true, if_false, hov, if_true]
  exact runBecomes_of_aside (Aside.pmcOwn ..) _

variable (hov : (x.entry.replayMode && x.ovf) = false)
include hov

/-- A row after which no check falls due leaves the run with its results. -/
theorem rowExit_unjudged (hj : x.judged f = []) (hmore : f + 1 < x.fed.length) : RunBecomes k x s (s.rowExit k []) := by
  have hnone : x.judgedPasses.flatMap (fun _ => ([] : List (Nat × Nat × List Nat))) = [] := List.flatMap_eq_nil_iff.2 fun _ _ => rfl
  simp only [State.rowExit, hr, hgo, hbank, hf, hx, Bool.false_eq_true, if_false, hov, hj, hmore, if_true, List.map_nil,
    hnone, List.foldl_nil, List.flatMap_nil, List.isEmpty_nil, bne_self_eq_false, Bool.not_true, Bool.or_self, Bool.false_and,
    Bool.and_false, Bool.or_false, Nat.add_zero]
  exact runBecomes_of_aside ((Aside.pmcOwn ..).trans (Aside.pmcOwn ..)) x

/-- A first run whose last row leaves unflagged lands (R175, R176). -/
theorem rowExit_ends (hflag : x.flaggedAt bank f = false) (hrep : x.isRep = false) (hlast : f + 1 = x.fed.length)
    (hpass : x.numPasses ≤ x.pass + 1) :
    ∃ y, RunBecomes k y s (s.rowExit k []) ∧ y.phase = .land ∧ y.ready = x.blocks ∧ y.done = x.done ∧ y.entry = x.entry := by
  have hnot : ¬ f + 1 < x.fed.length := by omega
  have hpassed : ¬ x.pass + 1 < x.numPasses := by omega
  rw [MxRun.flaggedAt, MxRun.checks] at hflag
  simp only [State.rowExit, hr, hgo, hbank, hf, hx, Bool.false_eq_true, if_false, hov, hflag, Bool.false_and, hnot, hpassed, hrep]
  exact ⟨_, runBecomes_of_aside ((Aside.pmcOwn ..).trans (Aside.pmcOwn ..)) _, rfl, rfl, rfl, rfl⟩

/-- A flagged first run is repeated from the first block that has not landed (R184). -/
theorem rowExit_repeats (hk : isCtl k = false) (hflag : x.flaggedAt bank f = true) (hrep : x.isRep = false) :
    ∃ y, RunBecomes k y s (s.rowExit k []) ∧ y.isRep = true ∧ y.first = x.landed ∧ y.done = [] ∧ y.pass = 0 ∧ y.shift = 0 ∧
      y.entry = x.entry := by
  rw [MxRun.flaggedAt, MxRun.checks] at hflag
  simp only [State.rowExit, hr, hgo, hbank, hf, hx, Bool.false_eq_true, if_false, hov, hflag, Bool.true_and, hrep, Bool.not_false, if_true]
  refine ⟨_, runBecomes_of_aside (((Aside.pmcOwn ..).trans (Aside.pmcOwn ..)).trans (Aside.firstMismatch hk ..)) _, ?_⟩
  exact ⟨rfl, rfl, rfl, rfl, rfl, rfl⟩

end
end Sys2Proof.Machine
end

section
/-! The statement about the matrix engine's heads, loads and rows. -/

namespace Sys2Proof.Machine

/-- Settles O23, part by part: the start of an mst, of an mmx and of the other matrix instructions, the landing of a load, and each way in which
a row leaves the array. -/
theorem matrixFeeds : Obligations.MatrixFeeds := by
  unfold Obligations.MatrixFeeds
  refine ⟨?_, ?_⟩
  · intro cid sample s q rest k c m i next bank pk td ta fromT n preTiles fed fails hq hk hh hn hu
    have hrun : exec i s = .next (s.startMx k q sample) := engineQueueStart_mx hq hk hh hn sample
    /- A fault raised at the head, records of what was found made on the way. -/
    have hfails {code : FaultCode} {a : Nat} {t : State} (ht : Aside k (s.popQueue k .mx) t)
        (h : s.startMx k q sample = t.engFault k .mx q code a) : fails code a :=
      ⟨_, hrun, h ▸ engFault_popped hk hh ht q code a⟩
    refine ⟨fun h0 hb => ⟨fun ho hm => ?_, fun hm => ⟨fun a ha => ?_, fun ha => ?_⟩⟩, fun h1 h4 hf hl hr => ⟨fun hbad => ?_, ?_⟩,
      fun h5 h8 hr hw => ?_⟩
    · exact hfails (.refl ..) ((startMx_mst hu h0 hb).trans (startMst_mixed ho hm))
    · exact hfails (.poisonRecord hk ..) ((startMx_mst hu h0 hb).trans (startMst_poisoned hm ha))
    · exact ⟨_, hrun.trans (congrArg _ (startMx_mst hu h0 hb)), startMst_loads hm hq ha⟩
    · exact hfails (.refl ..) ((startMx_mmx hu h1 h4 hf hl hr).trans (startMmx_refused ((Core.mmxRefused_iff c q).2 hbad)))
    · intro hfill hpair hpk hpre hrows hbytes
      have hgo := hrun.trans (congrArg _ (startMx_mmx hu h1 h4 hf hl hr))
      have hsound : MmxSound s k q := mmxSound_of hfill hpair hpk hpre hrows hbytes
      exact ⟨fun hfed => ⟨_, hgo, startMmx_noRow hsound hq hfed⟩, fun hfed => ⟨_, hgo, startMmx_feeds hsound hq hfed⟩⟩
    · have hplain := startMx_plain (sample := sample) hu h5 hr hw
      have hgo := hrun.trans (congrArg _ hplain)
      exact ⟨fun h hok => ⟨_, hgo, startMxPlain_bias hq h hok⟩,
        fun h hbad => hfails (.tileRecord hk ..) (hplain.trans (startMxPlain_biasBad h hbad)),
        fun h => ⟨_, hgo, startMxPlain_mask hq h⟩, fun h => ⟨_, hgo, startMxPlain_tagRead hq h⟩,
        fun h => ⟨_, hgo, startMxPlain_tagClear hq h⟩⟩
  · intro cid s k c
    refine ⟨fun r rest h => ⟨_, rfl, mstDone_lands h⟩, ?_⟩
    intro r hr hfeed hc bank f row x clean
    have hgo : (r.phase != .feed || !s.carries k) = false := by rw [hfeed, hc]; rfl
    have hclean : clean ↔ x.flaggedAt bank f = false := (flaggedAt_eq_false_iff x bank f).symm
    refine ⟨fun n hn => rowOf_getElem? r bank f hn, fun hov hj hmore => ?_, fun hov hrep hcl hlast hpass => ?_,
      fun hov hrep hcl hk => ?_, fun hrm hov => ?_⟩
    · exact ⟨_, rfl, rowExit_unjudged hr hgo rfl rfl rfl hov hj hmore⟩
    · obtain ⟨y, ⟨hy, htiles, -⟩, hland⟩ := rowExit_ends hr hgo rfl rfl rfl hov (hclean.1 hcl) hrep hlast hpass
      exact ⟨_, rfl, htiles, y, hy, hland⟩
    · obtain ⟨y, ⟨hy, htiles, -⟩, hrepeat⟩ := rowExit_repeats hr hgo rfl rfl rfl hov hk
        (eq_true_of_ne_false fun h => hcl (hclean.2 h)) hrep
      exact ⟨_, rfl, htiles, y, hy, hrepeat⟩
    · obtain ⟨hy, -⟩ := rowExit_restarts hr hgo rfl rfl rfl (Bool.and_eq_true_iff.2 ⟨hrm, hov⟩)
      exact ⟨_, rfl, _, hy, rfl, rfl, rfl, rfl⟩

end Sys2Proof.Machine
end
